-- ==== Sys2Proof/Word.lean ====
section
/-! DEFINITION. The machine's words (spec/00_scope.md R2 to R4): bytes, lane words, lead words and lane masks. -/

namespace Sys2Proof

/-- A byte, 8 bits (R4). -/
abbrev Byte := BitVec 8

/-- A word, 32 bits (R4): one lane of a vector register, or one lead code word. -/
abbrev W32 := BitVec 32

/-- A dword, 64 bits (R4): a lead register. -/
abbrev Word := BitVec 64

/-- A lane mask: bit l belongs to lane l (R10). -/
abbrev Mask := BitVec 32

end Sys2Proof
end

