-- ==== Sys2Proof/Syntax.lean ====
section
/-! DEFINITION. The abstract instructions of the VK3: one constructor of `Instr` for each row of
spec/opcode_table.json. The rows are the lead words (spec/02_encoding.md R51 to R65), the
lane slots (R66 to R76) and the machine's own steps (spec/95_what_each_step_holds.md), which no word encodes. -/

namespace Sys2Proof

/-- A lead register number, s0 to s63 (R7). -/
abbrev Reg := BitVec 6

/-- A runner of lead code: a host core, or a group by the number the model gave it at placement. -/
inductive RunnerId where
  | host (n : Nat)
  | group (uid : Nat)
deriving DecidableEq, Repr

/-- The name of a cloakroom entry (R203): die (3 for H), slice, entry. -/
structure EntryId where
  die : Nat
  slice : Nat
  entry : Nat
deriving DecidableEq, Repr

/-- The fields of a lane slot besides CLASS and OP (R66). `imm` is bits [31:0]: X and IMM16, or IMM32. CLASS and OP
select the constructor of `Instr`; the machine's fetch latches these fields beside it (log entry 6). -/
structure LaneF where
  ty : BitVec 4
  d : BitVec 8
  a : BitVec 8
  b : BitVec 8
  c : BitVec 8
  m : BitVec 4
  li : Bool
  fl : BitVec 2
  qa : Bool
  qb : Bool
  qc : Bool
  ib : Bool
  rm : BitVec 3
  sat : Bool
  nf : Bool
  imm : BitVec 32
deriving DecidableEq, Repr

/-- The fields of a clause header besides CLASS and OP (R74), latched as a slot's are. -/
structure Header where
  n : BitVec 4
  wt : BitVec 12
  sav : Bool
  sa : BitVec 4
  sbv : Bool
  sb : BitVec 4
deriving DecidableEq, Repr

/-- The instructions and machine steps of the VK3. Field names follow the table: `w` the width bit, `d a b` the
register fields, `x` or `v x` a translation register, `sq` a status register. A lane slot's constructor stands for its
CLASS and OP; every slot has the same fields, a `LaneF` (a `Header` for CLAUSE). The rows with fields come first, in
the table's order, then those without. -/
inductive Instr where
  /-- HINT (R124): Executes as NOP for every hint code that the VK3 does not act on. -/
  | hint (code : BitVec 6) (arg : BitVec 16)
  /-- HINT_FETCH_LEAD (R124): Hint code 0x01 fetches lead code at PC + 4 × arg into the lead code cache. -/
  | hintFetchLead (arg : BitVec 16)
  /-- HINT_SPIN (R124): Hint code 0x02 keeps the group from issue for min(arg, 255) core clocks while another group is ready. -/
  | hintSpin (arg : BitVec 16)
  /-- HINT_FETCH_LANE (R124): Hint code 0x03 fetches the clause at lane slot arg × 64 into the lane code cache. -/
  | hintFetchLane (arg : BitVec 16)
  /-- ADD (R89): Writes A + B, wrapped or saturated, at the width W selects. -/
  | add (w : Bool) (d : Reg) (a : Reg) (b : Reg)
  /-- SUB (R89): Writes A − B. -/
  | sub (w : Bool) (d : Reg) (a : Reg) (b : Reg)
  /-- MUL (R89): Writes A × B. -/
  | mul (w : Bool) (d : Reg) (a : Reg) (b : Reg)
  /-- MULH (R89): Writes the high half of the signed product. -/
  | mulh (w : Bool) (d : Reg) (a : Reg) (b : Reg)
  /-- MULHN (R89): Writes the high half of the unsigned product. -/
  | mulhn (w : Bool) (d : Reg) (a : Reg) (b : Reg)
  /-- DIV (R90): Signed division rounded toward zero; division by zero gives −1 and raises nothing. -/
  | div (w : Bool) (d : Reg) (a : Reg) (b : Reg)
  /-- DIVN (R90): Unsigned division; division by zero gives all ones. -/
  | divn (w : Bool) (d : Reg) (a : Reg) (b : Reg)
  /-- REM (R90): Signed remainder of truncating division. -/
  | rem (w : Bool) (d : Reg) (a : Reg) (b : Reg)
  /-- REMN (R90): Unsigned remainder. -/
  | remn (w : Bool) (d : Reg) (a : Reg) (b : Reg)
  /-- AND (R89): Bitwise and. -/
  | and (w : Bool) (d : Reg) (a : Reg) (b : Reg)
  /-- OR (R89): Bitwise or. -/
  | or (w : Bool) (d : Reg) (a : Reg) (b : Reg)
  /-- XOR (R89): Bitwise exclusive or. -/
  | xor (w : Bool) (d : Reg) (a : Reg) (b : Reg)
  /-- ANDN (R89): Writes A and not B. -/
  | andn (w : Bool) (d : Reg) (a : Reg) (b : Reg)
  /-- MIN (R89): Writes the smaller signed operand. -/
  | min (w : Bool) (d : Reg) (a : Reg) (b : Reg)
  /-- MAX (R89): Writes the larger signed operand. -/
  | max (w : Bool) (d : Reg) (a : Reg) (b : Reg)
  /-- MINN (R89): Writes the smaller unsigned operand. -/
  | minn (w : Bool) (d : Reg) (a : Reg) (b : Reg)
  /-- MAXN (R89): Writes the larger unsigned operand. -/
  | maxn (w : Bool) (d : Reg) (a : Reg) (b : Reg)
  /-- SHL (R89): Shifts left by B mod w. -/
  | shl (w : Bool) (d : Reg) (a : Reg) (b : Reg)
  /-- SHR (R89): Logical shift right. -/
  | shr (w : Bool) (d : Reg) (a : Reg) (b : Reg)
  /-- SAR (R89): Arithmetic shift right. -/
  | sar (w : Bool) (d : Reg) (a : Reg) (b : Reg)
  /-- ROT (R89): Rotates right within w bits. -/
  | rot (w : Bool) (d : Reg) (a : Reg) (b : Reg)
  /-- CLZ (R89): Counts leading zero bits. -/
  | clz (w : Bool) (d : Reg) (a : Reg)
  /-- CTZ (R89): Counts trailing zero bits. -/
  | ctz (w : Bool) (d : Reg) (a : Reg)
  /-- POPC (R89): Counts set bits. -/
  | popc (w : Bool) (d : Reg) (a : Reg)
  /-- SEXT (R89): Sign-extends s[a] from bit position p. -/
  | sext (d : Reg) (a : Reg) (p : BitVec 6)
  /-- ZEXT (R89): Zero-extends s[a] from bit position p. -/
  | zext (d : Reg) (a : Reg) (p : BitVec 6)
  /-- SEL (R89): Writes A if s[d] is non-zero, else B. -/
  | sel (w : Bool) (d : Reg) (a : Reg) (b : Reg)
  /-- CMP (R91): Writes 1 or 0 by the condition in f. -/
  | cmp (c : BitVec 4) (w : Bool) (d : Reg) (a : Reg) (b : Reg)
  /-- ADDX (R94): Writes A + B × 2^f. -/
  | addx (f : BitVec 4) (w : Bool) (d : Reg) (a : Reg) (b : Reg)
  /-- BFX (R92): Long-only bit-field extract. -/
  | bfx (d : Reg) (a : Reg) (u : BitVec 6) (q : BitVec 6)
  /-- BFI (R92): Long-only bit-field insert into s[d]. -/
  | bfi (d : Reg) (a : Reg) (u : BitVec 6) (q : BitVec 6)
  /-- ADDI (R93): Adds a sign-extended 10-bit immediate. -/
  | addi (w : Bool) (d : Reg) (a : Reg) (i : BitVec 10)
  /-- ADDI_LONG (R54): Long form of ADDI with a 39-bit immediate on 64 bits. -/
  | addiLong (d : Reg) (a : Reg) (i : BitVec 39)
  /-- ANDI (R93): Bitwise and with a zero-extended immediate. -/
  | andi (w : Bool) (d : Reg) (a : Reg) (i : BitVec 10)
  /-- ANDI_LONG (R54): Long form of ANDI. -/
  | andiLong (d : Reg) (a : Reg) (i : BitVec 39)
  /-- ORI (R93): Bitwise or with a zero-extended immediate. -/
  | ori (w : Bool) (d : Reg) (a : Reg) (i : BitVec 10)
  /-- ORI_LONG (R54): Long form of ORI. -/
  | oriLong (d : Reg) (a : Reg) (i : BitVec 39)
  /-- XORI (R93): Bitwise xor with a zero-extended immediate. -/
  | xori (w : Bool) (d : Reg) (a : Reg) (i : BitVec 10)
  /-- XORI_LONG (R54): Long form of XORI. -/
  | xoriLong (d : Reg) (a : Reg) (i : BitVec 39)
  /-- SHLI (R93): Shifts left by an immediate count. -/
  | shli (w : Bool) (d : Reg) (a : Reg) (c : BitVec 6)
  /-- SHRI (R93): Logical shift right by an immediate count. -/
  | shri (w : Bool) (d : Reg) (a : Reg) (c : BitVec 6)
  /-- SARI (R93): Arithmetic shift right by an immediate count. -/
  | sari (w : Bool) (d : Reg) (a : Reg) (c : BitVec 6)
  /-- SETHI (R95): Long-only; writes a 32-bit immediate into the high half of s[d]. -/
  | sethi (d : Reg) (i : BitVec 32)
  /-- LI (R95): Long-only; loads a sign-extended 45-bit constant. -/
  | li (d : Reg) (i : BitVec 45)
  /-- ADDPC (R95): Writes PC + 4 × the signed offset. -/
  | addpc (d : Reg) (i : BitVec 16)
  /-- ADDPC_LONG (R95): Long form of ADDPC with a 45-bit offset. -/
  | addpcLong (d : Reg) (i : BitVec 45)
  /-- B (R97): Unconditional branch, checking alignment and the target's entry mark. -/
  | b (o : BitVec 22)
  /-- B_LONG (R97): Long form of B with a 51-bit offset. -/
  | bLong (o : BitVec 51)
  /-- BL (R97): Branch that writes its link to s63. -/
  | bl (o : BitVec 22)
  /-- BL_LONG (R97): Long form of BL. -/
  | blLong (o : BitVec 51)
  /-- BR (R97): Branch to the address in s[a]. -/
  | br (a : Reg)
  /-- BLR (R97): Indirect call that links in s[d]. -/
  | blr (d : Reg) (a : Reg)
  /-- RET (R98): Return to the address in s[a]. -/
  | ret (a : Reg)
  /-- BEQ (R96): Branches when s[a] = s[b]. -/
  | beq (a : Reg) (b : Reg) (o : BitVec 10)
  /-- BEQ_LONG (R96): Long form of BEQ. -/
  | beqLong (a : Reg) (b : Reg) (o : BitVec 39)
  /-- BNE (R96): Branches when s[a] ≠ s[b]. -/
  | bne (a : Reg) (b : Reg) (o : BitVec 10)
  /-- BNE_LONG (R96): Long form of BNE. -/
  | bneLong (a : Reg) (b : Reg) (o : BitVec 39)
  /-- BLT (R96): Branches when s[a] < s[b], signed. -/
  | blt (a : Reg) (b : Reg) (o : BitVec 10)
  /-- BLT_LONG (R96): Long form of BLT. -/
  | bltLong (a : Reg) (b : Reg) (o : BitVec 39)
  /-- BGE (R96): Branches when s[a] ≥ s[b], signed. -/
  | bge (a : Reg) (b : Reg) (o : BitVec 10)
  /-- BGE_LONG (R96): Long form of BGE. -/
  | bgeLong (a : Reg) (b : Reg) (o : BitVec 39)
  /-- BLTN (R96): Branches when s[a] < s[b], unsigned. -/
  | bltn (a : Reg) (b : Reg) (o : BitVec 10)
  /-- BLTN_LONG (R96): Long form of BLTN. -/
  | bltnLong (a : Reg) (b : Reg) (o : BitVec 39)
  /-- BGEN (R96): Branches when s[a] ≥ s[b], unsigned. -/
  | bgen (a : Reg) (b : Reg) (o : BitVec 10)
  /-- BGEN_LONG (R96): Long form of BGEN. -/
  | bgenLong (a : Reg) (b : Reg) (o : BitVec 39)
  /-- BZ (R96): Branches when s[a] = 0. -/
  | bz (a : Reg) (o : BitVec 16)
  /-- BZ_LONG (R96): Long form of BZ. -/
  | bzLong (a : Reg) (o : BitVec 45)
  /-- BNZ (R96): Branches when s[a] ≠ 0. -/
  | bnz (a : Reg) (o : BitVec 16)
  /-- BNZ_LONG (R96): Long form of BNZ. -/
  | bnzLong (a : Reg) (o : BitVec 45)
  /-- FADD (R101): Scalar floating-point add, rounded once, in the type the major selects. -/
  | fadd (t : BitVec 2) (d : Reg) (a : Reg) (b : Reg)
  /-- FSUB (R101): Scalar floating-point subtract. -/
  | fsub (t : BitVec 2) (d : Reg) (a : Reg) (b : Reg)
  /-- FMUL (R101): Scalar floating-point multiply. -/
  | fmul (t : BitVec 2) (d : Reg) (a : Reg) (b : Reg)
  /-- FDIV (R101): Scalar floating-point divide on the core's divider. -/
  | fdiv (t : BitVec 2) (d : Reg) (a : Reg) (b : Reg)
  /-- FSQRT (R101): Scalar square root on the square-root unit. -/
  | fsqrt (t : BitVec 2) (d : Reg) (a : Reg)
  /-- FMA (R101): Scalar fused multiply-add onto s[d] with one rounding. -/
  | fma (t : BitVec 2) (d : Reg) (a : Reg) (b : Reg)
  /-- FMIN (R102): Smaller operand, −0 below +0, NaN rules of R102. -/
  | fmin (t : BitVec 2) (d : Reg) (a : Reg) (b : Reg)
  /-- FMAX (R102): Larger operand under R102. -/
  | fmax (t : BitVec 2) (d : Reg) (a : Reg) (b : Reg)
  /-- FMOV (R101): Copies the bits of A unchanged. -/
  | fmov (t : BitVec 2) (d : Reg) (a : Reg)
  /-- FCMP_EQ (R102): Writes 1 when A = B. -/
  | fcmpEq (t : BitVec 2) (d : Reg) (a : Reg) (b : Reg)
  /-- FCMP_LT (R102): Writes 1 when A < B. -/
  | fcmpLt (t : BitVec 2) (d : Reg) (a : Reg) (b : Reg)
  /-- FCMP_LE (R102): Writes 1 when A ≤ B. -/
  | fcmpLe (t : BitVec 2) (d : Reg) (a : Reg) (b : Reg)
  /-- FCMP_UN (R102): Writes 1 when either operand is a NaN. -/
  | fcmpUn (t : BitVec 2) (d : Reg) (a : Reg) (b : Reg)
  /-- FCVT (R103): Converts between integer and floating types with rounding and optional saturation. -/
  | fcvt (d : Reg) (a : Reg) (dt : BitVec 4) (st : BitVec 4)
  /-- LD (R104): Sign-extending scalar load of the size the major selects. -/
  | ld (z : BitVec 2) (d : Reg) (a : Reg) (o : BitVec 10)
  /-- LD_LONG (R104): Long form of LD with a 39-bit offset. -/
  | ldLong (z : BitVec 2) (d : Reg) (a : Reg) (o : BitVec 39)
  /-- LD_N (R104): Zero-extending scalar load. -/
  | ldN (z : BitVec 2) (d : Reg) (a : Reg) (o : BitVec 10)
  /-- LD_N_LONG (R104): Long form of the zero-extending load. -/
  | ldNLong (z : BitVec 2) (d : Reg) (a : Reg) (o : BitVec 39)
  /-- ST (R104): Scalar store of the size the major selects. -/
  | st (z : BitVec 2) (d : Reg) (a : Reg) (o : BitVec 10)
  /-- ST_LONG (R104): Long form of ST. -/
  | stLong (z : BitVec 2) (d : Reg) (a : Reg) (o : BitVec 39)
  /-- AADD (R248): Atomic add at the home slice, returning the old value. -/
  | aadd (w4 : Bool) (d : Reg) (a : Reg) (b : Reg)
  /-- ASUB (R248): Atomic subtract. -/
  | asub (w4 : Bool) (d : Reg) (a : Reg) (b : Reg)
  /-- AMIN (R248): Atomic signed minimum. -/
  | amin (w4 : Bool) (d : Reg) (a : Reg) (b : Reg)
  /-- AMAX (R248): Atomic signed maximum. -/
  | amax (w4 : Bool) (d : Reg) (a : Reg) (b : Reg)
  /-- AMINN (R248): Atomic unsigned minimum. -/
  | aminn (w4 : Bool) (d : Reg) (a : Reg) (b : Reg)
  /-- AMAXN (R248): Atomic unsigned maximum. -/
  | amaxn (w4 : Bool) (d : Reg) (a : Reg) (b : Reg)
  /-- AAND (R248): Atomic and. -/
  | aand (w4 : Bool) (d : Reg) (a : Reg) (b : Reg)
  /-- AOR (R248): Atomic or. -/
  | aor (w4 : Bool) (d : Reg) (a : Reg) (b : Reg)
  /-- AXOR (R248): Atomic xor. -/
  | axor (w4 : Bool) (d : Reg) (a : Reg) (b : Reg)
  /-- AXCHG (R248): Atomic exchange. -/
  | axchg (w4 : Bool) (d : Reg) (a : Reg) (b : Reg)
  /-- AFADD (R248): Atomic floating-point add, rne. -/
  | afadd (w4 : Bool) (d : Reg) (a : Reg) (b : Reg)
  /-- ACAS (R248): Atomic compare-and-swap that writes even on failure. -/
  | acas (w4 : Bool) (d : Reg) (a : Reg) (b : Reg)
  /-- FENCE (R253): Orders the agent's accesses at the given order and scope. -/
  | fence (sc : BitVec 3) (o : BitVec 3)
  /-- FENCE_SYS (R254): System fence that also waits for outbound writes to be accepted. -/
  | fenceSys (o : BitVec 3)
  /-- FENCE_SYS_WIN (R254): System fence ordering the agent after the peer writes of a stream window. -/
  | fenceSysWin (n : BitVec 6) (o : BitVec 3)
  /-- WATCH (R256): Reads a word until it differs from s[b], waiting for writes or 4096 clocks. -/
  | watch (d : Reg) (a : Reg) (b : Reg)
  /-- WATCH_WAKE (R256): A waiting WATCH rereads its word after a write to the sector or after 4096 core clocks. -/
  | watchWake (who : RunnerId)
  /-- LRUN (R108): Appends a run, with captured xb registers and MFB, to the clause queue. -/
  | lrun (t : BitVec 22)
  /-- LWAIT (R111): Waits for earlier runs, masked flags and optionally a drain of lane operations. -/
  | lwait (g : Bool) (m : BitVec 12)
  /-- XBSET (R112): Translates a base and limit into a translation register. -/
  | xbset (n : BitVec 3) (a : Reg) (b : Reg)
  /-- XBCLR (R112): Clears every field of a translation register. -/
  | xbclr (n : BitVec 3)
  /-- OSDEF (R116): Reads and checks a stream descriptor and starts an operand stream. -/
  | osdef (n : BitVec 5) (a : Reg)
  /-- OSEND (R116): Stops a stream, discards unconsumed elements and frees the name. -/
  | osend (n : BitVec 5)
  /-- TRAP (R440): Raises SOFTWARE_TRAP with the code in FAULTADDR and EPC past itself. -/
  | trap (i : BitVec 16)
  /-- CSRRD (R430): Reads a CSR into s[d]. -/
  | csrrd (d : Reg) (c : BitVec 10)
  /-- CSRWR (R430): Writes s[a] to a CSR and returns the old value. -/
  | csrwr (d : Reg) (a : Reg) (c : BitVec 10)
  /-- CSRSET (R430): Sets CSR bits from s[a] and returns the old value. -/
  | csrset (d : Reg) (a : Reg) (c : BitVec 10)
  /-- CSRCLR (R430): Clears CSR bits from s[a] and returns the old value. -/
  | csrclr (d : Reg) (a : Reg) (c : BitVec 10)
  /-- HALTP_CTX (R450): Ends a context and waits until the end is reported complete. -/
  | haltpCtx (a : Reg)
  /-- HALTP_PART (R450): Raises the halt line of the issuer's partition with a given cause. -/
  | haltpPart (a : Reg)
  /-- PREEMPT_SUS (R451): Pre-empts every squad of a context and keeps them unplaced. -/
  | preemptSus (a : Reg)
  /-- PREEMPT_RES (R451): Makes a context's saved squads eligible for placement again. -/
  | preemptRes (a : Reg)
  /-- INJARM (R472): Arms or disarms a link injector for a single action. -/
  | injarm (a : Reg) (b : Reg)
  /-- INJARM_REP (R472): Long form arming an injector that rearms after each action. -/
  | injarmRep (a : Reg) (b : Reg)
  /-- CKPT_POOL (R470): Sets the context's checkpoint pool once no team holds pool space. -/
  | ckptPool (a : Reg) (b : Reg)
  /-- CKPT_STAT (R470): Reads the team's checkpoint status word. -/
  | ckptStat (d : Reg)
  /-- ASSERT (R443): Lead assertion; on failure writes the debug record and suspends the context, or traps on a host core. -/
  | assert (a : Reg) (b : Reg)
  /-- TLOAD (R216): Allocates a cloakroom entry, returns a ticket and starts the fetch. -/
  | tload (d : Reg) (a : Reg) (x : BitVec 3) (z : BitVec 4)
  /-- TLOAD_LEASE (R216): Long form of TLOAD with an explicit lease code. -/
  | tloadLease (d : Reg) (a : Reg) (x : BitVec 3) (z : BitVec 4) (c : BitVec 16)
  /-- TLOAD_TRY (R216): Long form that writes 0 instead of trapping when the cloakroom is full. -/
  | tloadTry (d : Reg) (a : Reg) (x : BitVec 3) (z : BitVec 4) (c : BitVec 16)
  /-- REDEEM (R221): Redeems an 8-byte ticket into s[d]. -/
  | redeem (d : Reg) (a : Reg)
  /-- REDEEM_Q (R214): Quiet REDEEM writing a refusal code to sq instead of trapping. -/
  | redeemQ (d : Reg) (a : Reg) (sq : Reg)
  /-- REDEEML (R221): Redeems a ticket's bytes to memory through an xb register. -/
  | redeeml (d : Reg) (a : Reg) (x : BitVec 3)
  /-- REDEEML_LANDING (R221): Redeems a ticket's bytes into the team's landing. -/
  | redeemlLanding (d : Reg) (a : Reg)
  /-- REDEEML_Q (R214): Quiet form of REDEEML. -/
  | redeemlQ (d : Reg) (a : Reg) (x : BitVec 3) (l : Bool) (sq : Reg)
  /-- TDROP (R223): Sets a ticket's entry to SPENT without waiting for data. -/
  | tdrop (a : Reg)
  /-- TDROP_Q (R214): Quiet form of TDROP. -/
  | tdropQ (a : Reg) (sq : Reg)
  /-- TSTAT (R225): Reads a snapshot of a ticket's entry state. -/
  | tstat (d : Reg) (a : Reg)
  /-- TLEASE (R226): Sets a live entry's remaining lease and returns its status word. -/
  | tlease (d : Reg) (a : Reg) (b : Reg)
  /-- TLEASE_Q (R214): Quiet form of TLEASE. -/
  | tleaseQ (d : Reg) (a : Reg) (b : Reg) (sq : Reg)
  /-- TXBEG (R267): Begins a lead or host transaction, clearing s[d] and taking the snapshot. -/
  | txbeg (d : Reg)
  /-- TXABT (R267): Ends the transaction with a final TX_EXPLICIT. -/
  | txabt (a : Reg)
  /-- TXSTAT (R268): Reads the transaction state or the last commit number. -/
  | txstat (d : Reg) (sel : Bool)
  /-- CPYT (R302): Issues a tile copy from memory into the landing (short form). -/
  | cpyt (d : Reg) (a : Reg) (b : Reg)
  /-- CPYT_EXT (R302): Long form of CPYT selecting direction, mezzanine and xb-relative addresses. -/
  | cpytExt (d : Reg) (a : Reg) (b : Reg) (v : Bool) (x : BitVec 3) (mz : Bool) (st : Bool)
  /-- CPYL (R304): Issues a linear copy between memories (short form). -/
  | cpyl (d : Reg) (a : Reg) (b : Reg)
  /-- CPYL_EXT (R304): Long form of CPYL selecting source and destination kinds. -/
  | cpylExt (d : Reg) (a : Reg) (b : Reg) (v : Bool) (x : BitVec 3) (dk : BitVec 2) (sk : BitVec 2)
  /-- CPYL_RAW (R308): Raw memory copy of stored lines with ciphertext and metadata. -/
  | cpylRaw (d : Reg) (a : Reg) (b : Reg) (v : Bool) (x : BitVec 3)
  /-- CPYF (R305): Issues a fill of memory with an 8-byte pattern (short form). -/
  | cpyf (d : Reg) (a : Reg) (b : Reg)
  /-- CPYF_EXT (R305): Long form of CPYF selecting the destination kind. -/
  | cpyfExt (d : Reg) (a : Reg) (b : Reg) (v : Bool) (x : BitVec 3) (dk : BitVec 2)
  /-- CPYG (R303): Issues a row gather from memory into the landing (short form). -/
  | cpyg (d : Reg) (a : Reg) (b : Reg)
  /-- CPYG_EXT (R303): Long form of CPYG selecting scatter, mezzanine and xb-relative addresses. -/
  | cpygExt (d : Reg) (a : Reg) (b : Reg) (v : Bool) (x : BitVec 3) (mz : Bool) (st : Bool)
  /-- BSEAL (R309): Closes the open set into the next numbered batch. -/
  | bseal (d : Reg)
  /-- BWAIT (R310): Waits until batches 1 to n are finished. -/
  | bwait (a : Reg)
  /-- BWAITN (R310): Waits until at most k sealed batches are unfinished. -/
  | bwaitn (a : Reg)
  /-- BSTAT (R311): Reads SEALED and DONE. -/
  | bstat (d : Reg)
  /-- KSUMM_OFF (R385): Unmarks a key page once no usher operation lists it. -/
  | ksummOff (a : Reg) (v : Bool) (x : BitVec 3)
  /-- KSUMM_BF16 (R385): Marks a block as a .bf16 key page and starts a build. -/
  | ksummBf16 (a : Reg) (v : Bool) (x : BitVec 3)
  /-- KSUMM_E4M3 (R385): Marks a block as an .e4m3 key page and starts a build. -/
  | ksummE4m3 (a : Reg) (v : Bool) (x : BitVec 3)
  /-- KSUMM_E5M2 (R385): Marks a block as an .e5m2 key page and starts a build. -/
  | ksummE5m2 (a : Reg) (v : Bool) (x : BitVec 3)
  /-- KSUMM_REBUILD (R385): Starts a summary build in the format held. -/
  | ksummRebuild (a : Reg) (v : Bool) (x : BitVec 3)
  /-- KSUMM_READ (R385): Copies the summary in force to memory. -/
  | ksummRead (d : Reg) (a : Reg) (v : Bool) (x : BitVec 3)
  /-- KBOUND (R387): Checks a selection record and issues bounding of the listed key pages. -/
  | kbound (a : Reg) (v : Bool) (x : BitVec 3)
  /-- KFETCH (R392): Issues a copy of gather-list pages into the landing or mezzanine. -/
  | kfetch (d : Reg) (a : Reg) (b : Reg) (v : Bool) (x : BitVec 3)
  /-- KLIST (R394): Issues a merge of two gather lists. -/
  | klist (d : Reg) (a : Reg) (b : Reg) (v : Bool) (x : BitVec 3)
  /-- MLOOP (R349): Checks and queues a K-step sequence over a region of accumulator tiles. -/
  | mloop (a : Reg) (b : Reg)
  /-- OSUB (R343): Subscribes a matrix port to a distributor stream. -/
  | osub (n : BitVec 5) (p : Bool) (k : BitVec 3) (w : BitVec 6)
  /-- ACCZ (R352): Queues zeroing of the masked tiles. -/
  | accz (a : Reg)
  /-- ACCLD (R354): Queues a raw move of a tile from the landing. -/
  | accld (t : BitVec 4) (a : Reg) (b : Reg)
  /-- ACCLD_TYPED (R354): Long form of ACCLD converting .f16 or .bf16 elements. -/
  | accldTyped (t : BitVec 4) (a : Reg) (b : Reg) (y : BitVec 4) (rm : BitVec 3) (sat : Bool)
  /-- ACCST (R354): Queues a raw move of a tile to the landing. -/
  | accst (t : BitVec 4) (a : Reg) (b : Reg)
  /-- ACCST_TYPED (R354): Long form of ACCST rounding to .f16 or .bf16 with optional saturation. -/
  | accstTyped (t : BitVec 4) (a : Reg) (b : Reg) (y : BitVec 4) (rm : BitVec 3) (sat : Bool)
  /-- ACCVER (R357): Reads a tile's version counter. -/
  | accver (d : Reg) (t : BitVec 4)
  /-- ACCVER_WAIT (R357): Waits until a tile's counter reaches a value, then acts as an acquire. -/
  | accverWait (a : Reg) (t : BitVec 4)
  /-- ACCVER_SET (R357): Sets a tile's counter once no operation names the tile. -/
  | accverSet (a : Reg) (t : BitVec 4)
  /-- LAUNCH (R402): Reads and checks a launch record and enqueues the grid. -/
  | launch (d : Reg) (a : Reg)
  /-- LAUNCH_TRY (R402): Long form returning 0 instead of waiting when the queue is full. -/
  | launchTry (d : Reg) (a : Reg)
  /-- LWAITG (R417): Waits for a grid's completion word and returns it. -/
  | lwaitg (d : Reg) (a : Reg)
  /-- GSTAT (R417): Returns a grid's status word. -/
  | gstat (d : Reg) (a : Reg)
  /-- VGROW (R412): Asks for more vector registers, waiting for free blocks. -/
  | vgrow (d : Reg) (a : Reg)
  /-- VSHRINK (R412): Drains and returns register blocks above the asked count. -/
  | vshrink (d : Reg) (a : Reg)
  /-- GEXIT (R417): Ends a grid and its descendants with STATUS 0x01 and a code. -/
  | gexit (a : Reg) (b : Reg)
  /-- FLAG_RELEASE (R154): A lane operation completes and subtracts its 1 from its completion flag. -/
  | flagRelease (who : RunnerId) (k : Nat)
  /-- ISSUE_PROMOTION (R411): A group ready without issuing for 128 core clocks is promoted at that stage. -/
  | issuePromotion (who : RunnerId) (lane : Bool)
  /-- STREAM_ELEMENT_READ (R119): The affine address engine reads the next stream element into its queue. -/
  | streamElementRead (gal : Nat) (os : Nat)
  /-- DISTRIBUTOR_ELEMENT_READ (R345): The distributor reads an element once all subscribers' windows allow and offers it to each. -/
  | distributorElementRead (gal : Nat) (os : Nat)
  /-- TICKET_DATA_ARRIVAL (R207): The last byte of a fetch arrives and the entry becomes READY. -/
  | ticketDataArrival (e : EntryId)
  /-- REDEMPTION_DELIVERY (R220): A claimed entry's data have arrived and are delivered, or poison traps. -/
  | redemptionDelivery (e : EntryId)
  /-- LEASE_EXPIRY (R211): A live entry's lease runs out and it is reclaimed, counting in TRECL. -/
  | leaseExpiry (e : EntryId)
  /-- CLOAKROOM_RECONFIGURE (R205): A pending CLKCFG value takes effect once the cloakroom holds no live entry. -/
  | cloakroomReconfigure (die : Nat) (slice : Nat)
  /-- PORTER_OPERATION_START (R292): A porter starts a queued operation when one of its 4 running places frees. -/
  | porterOperationStart (porter : Nat)
  /-- COPY_COMPLETE (R246): A copy, usher or KFETCH operation completes and releases its range locks. -/
  | copyComplete (op : Nat)
  /-- USHER_BOUND (R388): An usher bounds the listed pages of its slice at a read point. -/
  | usherBound (op : Nat) (k : Nat)
  /-- GATHER_LIST_MERGE (R389): Partial results merge at the list's usher and the gather list is written. -/
  | gatherListMerge (op : Nat)
  /-- KSUMM_BUILD_COMPLETE (R381): A summary build completes and replaces the page's summary in one step. -/
  | ksummBuildComplete (op : Nat)
  /-- MEMORY_WRITE_ARRIVAL (R237): A write arrives at its home memory-side slice, its coherence point. -/
  | memoryWriteArrival (k : Nat)
  /-- MATRIX_OPERATION_START (R337): The sequencer starts a queued matrix operation whose versions match. -/
  | matrixOperationStart (core : Nat) (k : Nat)
  /-- MLOOP_K_STEP (R350): The sequencer runs one K step once its slabs have arrived. -/
  | mloopKStep (core : Nat)
  /-- MATRIX_OPERATION_COMPLETE (R338): A matrix operation completes and its tile counters increase by 1. -/
  | matrixOperationComplete (core : Nat) (k : Nat)
  /-- GRID_READY (R407): The scheduler rereads a predecessor word after a write arrives and the grid becomes ready. -/
  | gridReady (h : Word)
  /-- SQUAD_PLACEMENT (R410): The scheduler places one squad on a gallery. -/
  | squadPlacement (part : Nat)
  /-- PLACEMENT_RESERVATION (R409): A head squad passed over for 65 536 clocks reserves placement. -/
  | placementReservation (part : Nat) (queue : Nat)
  /-- PRODUCER_PREEMPTION (R414): A producer squad unplaced for 4096 clocks makes the scheduler pre-empt consumer squads. -/
  | producerPreemption (h : Word)
  /-- VGROW_GRANT (R413): Freed blocks go to the earliest-placed waiting VGROW. -/
  | vgrowGrant (core : Nat)
  /-- VGROW_DEADLOCK_BREAK (R413): After 4096 clocks of waiting the scheduler pre-empts other squads on the core. -/
  | vgrowDeadlockBreak (core : Nat)
  /-- GRID_COMPLETE (R416): All teams, operations and children done; the completion word is written as a release. -/
  | gridComplete (h : Word)
  /-- ENGINE_STOP (R446): An engine stops, discards its work, writes its stop record and acknowledges. -/
  | engineStop (part : Nat) (engine : Nat)
  /-- SKID_OVERRUN (R449): At clock 4096 the collector records and blocks each engine not yet acknowledged. -/
  | skidOverrun (part : Nat)
  /-- HALT_COLLECTED (R449): The collector writes its record, sets HALTSTAT and interrupts the partition's host cores. -/
  | haltCollected (part : Nat)
  /-- PREEMPTION_COMPLETE (R454): The collector has every acknowledgement and the squad's resources are free. -/
  | preemptionComplete (squad : Nat)
  /-- TX_EARLY_VALIDATION (R284): A lane attempt is validated after every 65 536 core clocks. -/
  | txEarlyValidation (who : RunnerId) (lane : Nat)
  /-- MSIX_MESSAGE (R487): An MSI-X message reaches H and routes an interrupt to a host core. -/
  | msixMessage (port : Nat) (vec : Nat)
  /-- PEER_WRITE (R485): A peer write to a stream window lands at BASE + o or is dropped. -/
  | peerWrite (port : Nat) (off : Nat) (data : List Byte)
  /-- PEER_READ (R485): A peer read of a stream window is served or returns all ones. -/
  | peerRead (port : Nat) (off : Nat) (len : Nat)
  /-- BAR4_ACCESS (R479): A foreign host accesses the physical address space through BAR4. -/
  | bar4Access (port : Nat) (pa : Nat) (wr : Bool) (data : List Byte)
  /-- REMOTE_ACCESS_TIMEOUT (R488): An unanswered remote access completes with poisoned data after 2^20 clocks. -/
  | remoteAccessTimeout (who : RunnerId)
  /-- CONTROLLER_BATCH_FORM (R490): A memory controller forms its next request batch once the last drains. -/
  | controllerBatchForm (c : Nat)
  /-- SCRUB_VISIT (R474): The scrubber visits a row, correcting or poisoning lines. -/
  | scrubVisit (line : Nat)
  /-- HOTNESS_INTERVAL_END (R493): A controller writes its hot-frame list, sets NOTICE and clears the sketch. -/
  | hotnessIntervalEnd (c : Nat)
  /-- REFRESH_HEARTBEAT (R476): A management core heartbeat arrives; four in a row hand refresh back. -/
  | refreshHeartbeat (stack : Nat)
  /-- REFRESH_TAKEOVER (R476): Two missed heartbeats make the refresh sequencer take over. -/
  | refreshTakeover (stack : Nat)
  /-- ESCAPE_RECOVERY (R477): A head flit blocked 16 384 clocks moves the input's flits into the escape channel. -/
  | escapeRecovery (router : Nat)
  /-- INJECTOR_ACT (R473): An armed injector corrupts, drops or delays the Nth flit. -/
  | injectorAct (link : Nat) (dir : Bool)
  /-- SUPPLY_SAG (R35): A supply sag stretches the hall's core clock within 2 clocks. -/
  | supplySag (hall : Nat)
  /-- SUPPLY_RECOVER (R35): The supply recovers and the hall's clock is restored; `ns` is by how much the stretched clock under
  way exceeds a full one. -/
  | supplyRecover (hall : Nat) (ns : Nat)
  /-- PARTITION_RESET (R475): The management interface resets a partition within 50 ms. -/
  | partitionReset (part : Nat)
  /-- HOST_CORE_RESTART (R495): The management interface restarts a stopped host core at its reset vector. -/
  | hostCoreRestart (n : Nat)
  /-- ROUTING_TABLE_WRITE (R488): The management interface writes a package's node routing table. -/
  | routingTableWrite (dest : Nat) (links : List Nat)
  /-- TLB_INVALIDATE_PAGE (R428): A TLBINV write invalidates one page of the writer's context. -/
  | tlbInvalidatePage (va : Word) (k : BitVec 4)
  /-- CTXCTL_CREATE (R429): A CTXCTL write makes a context live with reset CSRs. -/
  | ctxctlCreate (n : BitVec 16)
  /-- CURCTX_WRITE (R429): Switches a host core's context after performing earlier accesses and aborting its transaction. -/
  | curctxWrite (n : BitVec 16)
  /-- CLKCFG_WRITE (R205): Sets a cloakroom's buffer size, effective when it holds no live entry. -/
  | clkcfgWrite (v : BitVec 2)
  /-- LSWZ_WRITE (R180): Changes the team's swizzle modes for later landing accesses. -/
  | lswzWrite (v : BitVec 24)
  /-- KEY_INSTALL (R492): The last dword of a 64-byte key-slot write installs or empties the key. -/
  | keyInstall (slot : BitVec 8) (dword : Word)
  /-- WINDOW_REGISTER_WRITE (R484): Writes WBASE or WCTL of a stream window, ignored when invalid. -/
  | windowRegisterWrite (n : BitVec 6) (ctl : Bool) (v : Word)
  /-- COUNTER_CLEAR (R483): A store to a device counter sets it to 0. -/
  | counterClear (off : Nat)
  /-- NOTICE_CLEAR (R483): Writing 1 clears NOTICE bits. -/
  | noticeClear (v : Word)
  /-- REGISTER_WRITE (R425): A write to a register that has no row of its own. -/
  | registerWrite (c : BitVec 10) (v : Word)
  /-- LINK_FLIT_ERROR (R473): A flit on a die, node or PCI Express link arrives corrupted or goes missing of its own accord, and the receiver corrects or replays it and counts it in LINKERR. -/
  | linkFlitError (link : Nat) (corrected : Bool)
  /-- MEMORY_ERROR (R474): A correctable or uncorrectable error arises in stored data, to be corrected or poisoned by scrub or consumed by an agent. -/
  | memoryError (addr : Nat) (correctable : Bool)
  /-- ESCAPE_CHANNEL_EMPTY (R477): The escape channel of a recovering router drains and the router resumes its QoS weights. -/
  | escapeChannelEmpty (router : Nat)
  /-- OUTBOUND_WRITE_ACCEPT (R482): A PCI Express or CXL target accepts an outbound write, or answers an outbound read, completing that access. -/
  | outboundWriteAccept (who : RunnerId) (answer : Word)
  /-- NOP (R63): Does nothing; any non-zero operand bit traps RESERVED_FIELD. -/
  | nop
  /-- RFE (R435): Returns from a handler, resuming the stopped fragment and the lead stream. -/
  | rfe
  /-- CKPT_RB (R470): Rolls the issuing group's team back as if it had consumed an error. -/
  | ckptRb
  /-- TXEND (R267): Commits the lead or host transaction. -/
  | txend
  /-- TEXIT (R417): Drains and exits the group, and the team when it is the last. -/
  | texit
  /-- CLAUSE (R152): A fragment starts a clause once every WAIT flag is clear, after the clause is fetched and checked. -/
  | clause
  /-- RUN_START (R151): The next queued run starts once the previous run has ended. -/
  | runStart
  /-- VADD (R132): Lane integer add. -/
  | vadd
  /-- VSUB (R132): Lane integer subtract. -/
  | vsub
  /-- VMUL (R132): Lane integer multiply. -/
  | vmul
  /-- VMULH (R132): High half of the lane product. -/
  | vmulh
  /-- VMAD (R132): Lane integer multiply-add. -/
  | vmad
  /-- VMIN (R132): Lane integer minimum. -/
  | vmin
  /-- VMAX (R132): Lane integer maximum. -/
  | vmax
  /-- VABS (R132): Lane absolute value. -/
  | vabs
  /-- VAND (R132): Lane bitwise and. -/
  | vand
  /-- VOR (R132): Lane bitwise or. -/
  | vor
  /-- VXOR (R132): Lane bitwise xor. -/
  | vxor
  /-- VNOT (R132): Lane bitwise not. -/
  | vnot
  /-- VSHL (R132): Lane shift left. -/
  | vshl
  /-- VSHR (R132): Lane logical shift right. -/
  | vshr
  /-- VSAR (R132): Lane arithmetic shift right. -/
  | vsar
  /-- VCLZ (R132): Lane leading-zero count. -/
  | vclz
  /-- VPOPC (R132): Lane population count. -/
  | vpopc
  /-- VBFX (R133): Lane bit-field extract. -/
  | vbfx
  /-- VSEL (R134): Selects A or B per lane by a mask register. -/
  | vsel
  /-- VCMP (R135): Integer compare writing a mask register. -/
  | vcmp
  /-- VMOV (R132): Copies a register, pair or queue entry. -/
  | vmov
  /-- VMOVI (R132): Writes an immediate to every active lane. -/
  | vmovi
  /-- VFADD (R140): Lane floating-point add. -/
  | vfadd
  /-- VFSUB (R140): Lane floating-point subtract. -/
  | vfsub
  /-- VFMUL (R140): Lane floating-point multiply. -/
  | vfmul
  /-- VFFMA (R140): Lane fused multiply-add. -/
  | vffma
  /-- VFMIN (R140): Lane floating-point minimum. -/
  | vfmin
  /-- VFMAX (R140): Lane floating-point maximum. -/
  | vfmax
  /-- VFCMP (R141): Floating-point compare writing a mask register. -/
  | vfcmp
  /-- VFRCP (R140): Correctly rounded reciprocal. -/
  | vfrcp
  /-- VFRSQ (R140): Correctly rounded reciprocal square root. -/
  | vfrsq
  /-- VFSQRT (R140): Correctly rounded square root. -/
  | vfsqrt
  /-- VFDIV (R140): Correctly rounded division. -/
  | vfdiv
  /-- VFEXP2 (R140): Correctly rounded 2^A. -/
  | vfexp2
  /-- VFLOG2 (R140): Correctly rounded log2 A. -/
  | vflog2
  /-- VFSIN (R140): Correctly rounded sin(π × A). -/
  | vfsin
  /-- VFCOS (R140): Correctly rounded cos(π × A). -/
  | vfcos
  /-- VFCVT (R143): Lane type conversion including 8-bit float destinations. -/
  | vfcvt
  /-- VFRND (R140): Rounds to an integral value in the format. -/
  | vfrnd
  /-- VFSCALE (R140): Computes round(A × 2^B). -/
  | vfscale
  /-- VFCMA (R142): Complex FP32 multiply-add, optionally conjugating b. -/
  | vfcma
  /-- VSHFL (R145): Lane shuffle by index, up, down or xor mode. -/
  | vshfl
  /-- VBCAST (R145): Broadcasts one lane's value. -/
  | vbcast
  /-- VRED (R147): Fixed-tree reduction over the active lanes. -/
  | vred
  /-- VSCAN (R148): Inclusive or exclusive ascending-lane scan. -/
  | vscan
  /-- VBALLOT (R145): Writes the mask of active lanes holding non-zero values. -/
  | vballot
  /-- VPACK (R145): Packs 8- or 16-bit elements. -/
  | vpack
  /-- VUNPK (R145): Unpacks one element. -/
  | vunpk
  /-- CEND (R164): Ends the run when the group is one fragment with an empty split stack. -/
  | cend
  /-- BRL (R160): Lane branch that may split the fragment in two. -/
  | brl
  /-- MARK (R162): Pushes a rejoin entry on the split stack. -/
  | mark
  /-- JOIN (R163): Parks the fragment on its split entry and fuses the lanes when all arrive. -/
  | join
  /-- MSET (R159): Writes a mask register from an immediate or a register. -/
  | mset
  /-- MAND (R159): Mask and. -/
  | mand
  /-- MOR (R159): Mask or. -/
  | mor
  /-- MNOT (R159): Mask not. -/
  | mnot
  /-- MCNT (R159): Counts selected lanes, or each lane's rank with .below. -/
  | mcnt
  /-- TBAR (R167): Arrives at a team barrier and parks the fragment. -/
  | tbar
  /-- TBAR_CK (R466): Arrives at a checkpointing team barrier. -/
  | tbarCk
  /-- SBAR (R167): Arrives at a squad barrier. -/
  | sbar
  /-- YIELD (R172): Ends the clause, rotates spilled fragments and withdraws from issue for 16 clocks. -/
  | yield
  /-- VLD (R191): Lane load from memory through an xb register, all lanes or none. -/
  | vld
  /-- VST (R191): Lane store to memory. -/
  | vst
  /-- VGATH (R197): Gathers through an index tile. -/
  | vgath
  /-- VSCAT (R197): Scatters through an index tile. -/
  | vscat
  /-- VLDL (R177): Loads from the team's landing. -/
  | vldl
  /-- VSTL (R177): Stores to the team's landing. -/
  | vstl
  /-- VLDM (R181): Loads from the squad's mezzanine. -/
  | vldm
  /-- VSTM (R181): Stores to the squad's mezzanine. -/
  | vstm
  /-- XST (R182): Stores into a team's shadow exchange bank. -/
  | xst
  /-- VLDA (R183): Loads from a die's atrium window. -/
  | vlda
  /-- VSTA (R183): Stores to a die's atrium window. -/
  | vsta
  /-- LKLD (R175): Loads from the lane's locker. -/
  | lkld
  /-- LKST (R175): Stores to the lane's locker. -/
  | lkst
  /-- PRF (R195): Prefetches sectors into a cache level, raising nothing. -/
  | prf
  /-- VAADD (R252): Lane atomic add per lane in ascending order. -/
  | vaadd
  /-- VASUB (R252): Lane atomic subtract. -/
  | vasub
  /-- VAMIN (R252): Lane atomic signed minimum. -/
  | vamin
  /-- VAMAX (R252): Lane atomic signed maximum. -/
  | vamax
  /-- VAMINN (R252): Lane atomic unsigned minimum. -/
  | vaminn
  /-- VAMAXN (R252): Lane atomic unsigned maximum. -/
  | vamaxn
  /-- VAAND (R252): Lane atomic and. -/
  | vaand
  /-- VAOR (R252): Lane atomic or. -/
  | vaor
  /-- VAXOR (R252): Lane atomic xor. -/
  | vaxor
  /-- VAXCHG (R252): Lane atomic exchange. -/
  | vaxchg
  /-- VACAS (R252): Lane atomic compare-and-swap. -/
  | vacas
  /-- VAFADD (R252): Lane atomic floating-point add. -/
  | vafadd
  /-- LANE_FENCE (R255): Fence on the group's lane accesses. -/
  | laneFence
  /-- TLOADV (R218): Per-lane ticketed loads, allocating in all lanes or none. -/
  | tloadv
  /-- LANE_REDEEM (R222): Redeems each lane's ticket into registers. -/
  | laneRedeem
  /-- LANE_REDEEM_L (R222): Redeems each lane's ticket into the landing, optionally quietly. -/
  | laneRedeemL
  /-- LANE_TXBEG (R271): Begins or restarts per-lane transactions, saving the register window. -/
  | laneTxbeg
  /-- LANE_TXEND (R272): Starts the group's commit step for the fragment's lanes. -/
  | laneTxend
  /-- LANE_TXABT (R273): Ends the active lanes' transactions with TX_EXPLICIT. -/
  | laneTxabt
  /-- LANE_TXSTAT (R274): Writes each lane's transaction status word. -/
  | laneTxstat
  /-- LANE_CPYT (R297): Tile copy issued from the leader lane. -/
  | laneCpyt
  /-- LANE_CPYL (R297): Linear copy issued from the leader lane. -/
  | laneCpyl
  /-- LANE_CPYF (R297): Fill issued from the leader lane. -/
  | laneCpyf
  /-- LANE_CPYG (R297): Row gather or scatter issued from the leader lane. -/
  | laneCpyg
  /-- MMA (R341): Snapshots fragments and queues one chunk onto a tile, or the .f64 form. -/
  | mma
  /-- ACCRD (R356): Queues a read of one tile row into four registers. -/
  | accrd
  /-- ACCWR (R356): Queues a write of one tile row from four registers. -/
  | accwr
  /-- VCONF (R366): Finds lanes with equal keys and marks carriers. -/
  | vconf
  /-- VCOMB (R367): Combines values of equal keys into the carrier lanes. -/
  | vcomb
  /-- VISECT (R370): Intersects two sorted lists chunk-wise. -/
  | visect
  /-- VMERGE (R371): Merges two sorted lists chunk-wise. -/
  | vmerge
  /-- VCOMPR (R373): Packs selected lanes' values densely. -/
  | vcompr
  /-- VEXPD (R373): Spreads packed values back to selected lanes. -/
  | vexpd
  /-- IDXLD (R374): Writes offsets and header into an index tile in the landing. -/
  | idxld
  /-- LANE_ASSERT (R442): Lane assertion that fails when an active lane holds 0. -/
  | laneAssert
  /-- VCSRRD (R431): Reads a per-lane or group CSR into lane registers. -/
  | vcsrrd
  /-- FALLBACK_LOCK_GRANT (R288): The Wicket grants the fallback lock to the next waiting runner. -/
  | fallbackLockGrant
  /-- FALLBACK_LOCK_REVOKE (R288): After 2^20 host fabric clocks the lock is revoked with a final TX_CONFLICT. -/
  | fallbackLockRevoke
  /-- PACKAGE_RESET (R289): A package reset sets cloakrooms FREE, commit numbers to 1 and CSRs to reset values. -/
  | packageReset
  /-- TLB_INVALIDATE_ALL (R428): A TLBINV write with ALL = 1 invalidates every TLB entry of the package. -/
  | tlbInvalidateAll
  /-- TLB_INVALIDATE_CONTEXT (R428): A TLBINV write with CTX = 1 invalidates the writer's context's entries. -/
  | tlbInvalidateContext
  /-- UNUSED_OPCODE (R15): A word or slot whose encoding no entry defines (major 0x00, a reserved major, an unlisted minor, prefix KIND 011–111, lane class 0xA–0xE) is fetched and traps ILLEGAL_OPCODE. -/
  | unusedOpcode
  /-- LEAD_FETCH (R187): A lead fetch that is not the target of a taken branch, such as sequential fetch into an unmapped or EX = 0 page, faults with EPC and FAULTADDR at the fetched word. -/
  | leadFetch
deriving DecidableEq, Repr

end Sys2Proof
end

