-- ==== Sys2Proof/WellFormed.lean ====
section
/-! DEFINITION. Which instructions are well formed: every condition that spec/02_encoding.md and the entry of an
instruction put on its own fields, so that a word with the fields exists and raises no decode cause of its own. The
conditions on a lane slot's common fields stand in Machine/Operands.lean, since R75 finds them when the slot issues. -/

namespace Sys2Proof

/-- The conversion types of lead FCVT (R103): .i8 to .n64, .f16, .bf16, .f32, .f64. -/
def fcvtType (t : BitVec 4) : Bool := decide (2 ≤ t.toNat ∧ t.toNat ≤ 13)

/-- An order that FENCE takes (R253): acq, rel, ar or sc. -/
def fenceOrder (o : BitVec 3) : Bool := decide (1 ≤ o.toNat ∧ o.toNat ≤ 4)

/-- A shift count within the operation width (R93). -/
def shiftCount (w : Bool) (c : BitVec 6) : Bool := !w || decide (c.toNat < 32)

/-- A bit field within 64 bits (R92). -/
def fieldFits (u q : BitVec 6) : Bool := decide (q.toNat + u.toNat ≤ 63)

/-- XB ≠ 0 needs XBV = 1 (R295, R383). -/
def xbOk (v : Bool) (x : BitVec 3) : Bool := v || x == 0

/-- The types of ACCLD and ACCST (R353). -/
def accType (y : BitVec 4) : Bool := y == 0 || y == 0xA || y == 0xB

/-- The fields of a lead instruction or lane slot obey its entry. Events carry no encoding and are all well formed. -/
def Instr.wellFormed : Instr → Bool
  | .hint code _ => decide (code.toNat = 0 ∨ 3 < code.toNat)
  | .cmp c _ _ _ _ => decide (c.toNat < 10)
  | .bfx _ _ u q => fieldFits u q
  | .bfi _ _ u q => fieldFits u q
  | .shli w _ _ c => shiftCount w c
  | .shri w _ _ c => shiftCount w c
  | .sari w _ _ c => shiftCount w c
  | .fcvt _ _ dty sty => fcvtType dty && fcvtType sty
  | .ldN z _ _ _ => decide (z.toNat < 3)
  | .ldNLong z _ _ _ => decide (z.toNat < 3)
  | .fence _ o => fenceOrder o
  | .fenceSys o => fenceOrder o
  | .fenceSysWin _ o => fenceOrder o
  | .tload _ _ _ z => decide (z.toNat < 10)
  | .tloadLease _ _ _ z _ => decide (z.toNat < 10)
  | .tloadTry _ _ _ z _ => decide (z.toNat < 10)
  | .redeemlQ _ _ x l _ => !l || x == 0
  | .cpytExt _ _ _ v x _ _ => xbOk v x
  | .cpylExt _ _ _ v x dk sk => xbOk v x && dk != 3 && sk != 3
  | .cpylRaw _ _ _ v x => xbOk v x
  | .cpyfExt _ _ _ v x dk => xbOk v x && dk != 3
  | .cpygExt _ _ _ v x _ _ => xbOk v x
  | .ksummOff _ v x => xbOk v x
  | .ksummBf16 _ v x => xbOk v x
  | .ksummE4m3 _ v x => xbOk v x
  | .ksummE5m2 _ v x => xbOk v x
  | .ksummRebuild _ v x => xbOk v x
  | .ksummRead _ _ v x => xbOk v x
  | .kbound _ v x => xbOk v x
  | .kfetch _ _ _ v x => xbOk v x
  | .klist _ _ _ v x => xbOk v x
  | .accldTyped _ _ _ y rm sat => accType y && rm == 0 && !sat
  | .accstTyped _ _ _ y rm sat => accType y && decide (rm.toNat < 5) && (y != 0 || (rm == 0 && !sat))
  | _ => true

/-- The fields of a slot select the row: TBAR and TBAR.ck differ in X[27] (R171), the forms of the lane REDEEM in
C[0] (R222). -/
def Instr.slotOk (i : Instr) (f : LaneF) : Bool :=
  match i with
  | .tbar => !f.imm.getLsbD 27
  | .tbarCk => f.imm.getLsbD 27
  | .laneRedeem => !f.c.getLsbD 0
  | .laneRedeemL => f.c.getLsbD 0
  | _ => true

/-- A header whose invalid flags are 0 (R75). -/
def Header.wellFormed (h : Header) : Bool := (h.sav || h.sa == 0) && (h.sbv || h.sb == 0)

end Sys2Proof
end

