-- ==== Sys2Proof/Decode.lean ====
section
/-! DEFINITION. Decoding of lead words, prefix runs and lane slots (spec/02_encoding.md R48 to R77), total on any
words, and after it the encoder, written from the same tables. -/

namespace Sys2Proof

/-! ## Lead words -/

/-- Bits [lo + n - 1 : lo] of a word. -/
def bits (w : BitVec k) (lo n : Nat) : BitVec n := w.extractLsb' lo n

/-- What one instruction (first word, and EXT of a long form) decodes to: `ill` where no entry defines it, `res` where
a field that must be 0 is not, or a code is reserved (R77). -/
structure LeadDec where
  ins : Instr
  ill : Bool
  res : Bool
deriving DecidableEq, Repr

/-- An encoding that no entry defines (R15). -/
def LeadDec.unused : LeadDec := ⟨.unusedOpcode, true, false⟩

/-- An instruction without a long form, whose unread fields are 0 when `zero` holds. -/
def LeadDec.short (long : Bool) (i : Instr) (zero : Bool) : LeadDec :=
  if long then LeadDec.unused else ⟨i, false, !zero || !i.wellFormed⟩

/-- An instruction with a long form that its 32-bit and its long word share. -/
def LeadDec.both (i : Instr) (zero : Bool) : LeadDec := ⟨i, false, !zero || !i.wellFormed⟩

/-- An instruction that exists as a long form only (R54). -/
def LeadDec.long (long : Bool) (i : Instr) (zero : Bool) : LeadDec :=
  if long then ⟨i, false, !zero || !i.wellFormed⟩ else LeadDec.unused

/-- The minors of majors 0x08 and 0x09 that read A and B (R89). -/
def decodeInt (w : Bool) (d a b : Reg) : Nat → Nat → Option Instr
  | 0x08, 0x0 => some (.add w d a b)
  | 0x08, 0x1 => some (.sub w d a b)
  | 0x08, 0x2 => some (.mul w d a b)
  | 0x08, 0x3 => some (.mulh w d a b)
  | 0x08, 0x4 => some (.mulhn w d a b)
  | 0x08, 0x5 => some (.div w d a b)
  | 0x08, 0x6 => some (.divn w d a b)
  | 0x08, 0x7 => some (.rem w d a b)
  | 0x08, 0x8 => some (.remn w d a b)
  | 0x08, 0x9 => some (.and w d a b)
  | 0x08, 0xA => some (.or w d a b)
  | 0x08, 0xB => some (.xor w d a b)
  | 0x08, 0xC => some (.andn w d a b)
  | 0x08, 0xD => some (.min w d a b)
  | 0x08, 0xE => some (.max w d a b)
  | 0x08, 0xF => some (.minn w d a b)
  | 0x09, 0x0 => some (.maxn w d a b)
  | 0x09, 0x1 => some (.shl w d a b)
  | 0x09, 0x2 => some (.shr w d a b)
  | 0x09, 0x3 => some (.sar w d a b)
  | 0x09, 0x4 => some (.rot w d a b)
  | 0x09, 0xA => some (.sel w d a b)
  | _, _ => none

/-- The unary minors of major 0x09, and SEXT and ZEXT, whose b field is the sign-bit position (R89). -/
def decodeUnary (w : Bool) (d a : Reg) (b : BitVec 6) : Nat → LeadDec
  | 0x5 => .both (.clz w d a) (b == 0)
  | 0x6 => .both (.ctz w d a) (b == 0)
  | 0x7 => .both (.popc w d a) (b == 0)
  | 0x8 => .both (.sext d a b) (!w)
  | 0x9 => .both (.zext d a b) (!w)
  | _ => .unused

/-- The minors of majors 0x30 to 0x33 (R101). -/
def decodeFp (t : BitVec 2) (d a b : Reg) : Nat → LeadDec
  | 0x0 => .both (.fadd t d a b) true
  | 0x1 => .both (.fsub t d a b) true
  | 0x2 => .both (.fmul t d a b) true
  | 0x3 => .both (.fdiv t d a b) true
  | 0x4 => .both (.fsqrt t d a) (b == 0)
  | 0x5 => .both (.fma t d a b) true
  | 0x6 => .both (.fmin t d a b) true
  | 0x7 => .both (.fmax t d a b) true
  | 0x8 => .both (.fmov t d a) (b == 0)
  | 0x9 => .both (.fcmpEq t d a b) true
  | 0xA => .both (.fcmpLt t d a b) true
  | 0xB => .both (.fcmpLe t d a b) true
  | 0xC => .both (.fcmpUn t d a b) true
  | _ => .unused

/-- The minors of majors 0x4C and 0x4D (R248). -/
def decodeAtomic (w4 : Bool) (d a b : Reg) : Nat → LeadDec
  | 0x0 => .both (.aadd w4 d a b) true
  | 0x1 => .both (.asub w4 d a b) true
  | 0x2 => .both (.amin w4 d a b) true
  | 0x3 => .both (.amax w4 d a b) true
  | 0x4 => .both (.aminn w4 d a b) true
  | 0x5 => .both (.amaxn w4 d a b) true
  | 0x6 => .both (.aand w4 d a b) true
  | 0x7 => .both (.aor w4 d a b) true
  | 0x8 => .both (.axor w4 d a b) true
  | 0x9 => .both (.axchg w4 d a b) true
  | 0xA => .both (.afadd w4 d a b) true
  | 0xB => .both (.acas w4 d a b) true
  | _ => .unused

/-- A field with its extension: the 32-bit field is the high part (R54). -/
def extend (f : BitVec n) (ext : BitVec 29) : BitVec (n + 29) := f ++ ext

/-- A major whose 32-bit and long forms are two rows: F-I, F-M, F-C, F-U, F-J (R54). -/
def decodePair (ext : Option (BitVec 29)) (s : Instr) (l : BitVec 29 → Instr) : LeadDec :=
  match ext with
  | none => .both s true
  | some e => .both (l e) true

/-- The redemption minors of major 0x71 (R214, R221, R225, R226). `q` is Q, `sq` EXT[6:1], `z` EXT[28:7] = 0. -/
def decodeRedeem (d a b : Reg) (q : Bool) (sq : Reg) (z : Bool) : Nat → LeadDec
  | 0x0 => if q then .both (.redeemQ d a sq) (z && b == 0) else .both (.redeem d a) (z && b == 0 && sq == 0)
  | 0x1 =>
    let x := bits b 3 3
    let l := b.getLsbD 2
    let zero := z && bits b 0 2 == 0
    if q then .both (.redeemlQ d a x l sq) zero
    else if l then .both (.redeemlLanding d a) (zero && x == 0 && sq == 0)
    else .both (.redeeml d a x) (zero && sq == 0)
  | 0x2 => if q then .both (.tdropQ a sq) (z && b == 0 && d == 0) else .both (.tdrop a) (z && b == 0 && d == 0 && sq == 0)
  | 0x3 => .both (.tstat d a) (z && b == 0 && !q && sq == 0)
  | 0x4 => if q then .both (.tleaseQ d a b sq) z else .both (.tlease d a b) (z && sq == 0)
  | _ => .unused

/-- The copy and batch minors of major 0x74 (R294, R295). The short form has no `ext`. -/
def decodeCopy (d a b : Reg) (ext : Option (BitVec 29)) : Nat → LeadDec
  | 0x0 =>
    match ext with
    | none => .both (.cpyt d a b) true
    | some e => .both (.cpytExt d a b (e.getLsbD 10) (bits e 7 3) (e.getLsbD 4) (e.getLsbD 0))
        (bits e 11 18 == 0 && bits e 5 2 == 0 && bits e 1 3 == 0)
  | 0x1 =>
    match ext with
    | none => .both (.cpyl d a b) true
    | some e =>
      if e.getLsbD 6 && bits e 2 4 == 0 then
        .both (.cpylRaw d a b (e.getLsbD 10) (bits e 7 3)) (bits e 11 18 == 0 && bits e 0 2 == 0)
      else .both (.cpylExt d a b (e.getLsbD 10) (bits e 7 3) (bits e 4 2) (bits e 2 2))
        (bits e 11 18 == 0 && bits e 0 2 == 0 && !e.getLsbD 6)
  | 0x2 =>
    match ext with
    | none => .both (.cpyf d a b) true
    | some e => .both (.cpyfExt d a b (e.getLsbD 10) (bits e 7 3) (bits e 4 2))
        (bits e 11 18 == 0 && bits e 6 1 == 0 && bits e 0 4 == 0)
  | 0x3 =>
    match ext with
    | none => .both (.cpyg d a b) true
    | some e => .both (.cpygExt d a b (e.getLsbD 10) (bits e 7 3) (e.getLsbD 4) (e.getLsbD 0))
        (bits e 11 18 == 0 && bits e 5 2 == 0 && bits e 1 3 == 0)
  | 0x4 => .both (.bseal d) (a == 0 && b == 0 && ext.getD 0 == 0)
  | 0x5 => .both (.bwait a) (d == 0 && b == 0 && ext.getD 0 == 0)
  | 0x6 => .both (.bwaitn a) (d == 0 && b == 0 && ext.getD 0 == 0)
  | 0x7 => .both (.bstat d) (a == 0 && b == 0 && ext.getD 0 == 0)
  | _ => .unused

/-- The minors of major 0x75 (R383); `v`, `x` and `z` are XBV, XB and the other EXT bits being 0. -/
def decodeKey (d a b : Reg) (v : Bool) (x : BitVec 3) (z : Bool) : Nat → LeadDec
  | 0x0 =>
    let zero := z && bits b 0 3 == 0
    match (bits b 3 3).toNat with
    | 0 => .both (.ksummOff a v x) (zero && d == 0)
    | 1 => .both (.ksummBf16 a v x) (zero && d == 0)
    | 2 => .both (.ksummE4m3 a v x) (zero && d == 0)
    | 3 => .both (.ksummE5m2 a v x) (zero && d == 0)
    | 4 => .both (.ksummRebuild a v x) (zero && d == 0)
    | 5 => .both (.ksummRead d a v x) zero
    | _ => .both (.ksummOff a v x) false
  | 0x1 => .both (.kbound a v x) (z && d == 0 && b == 0)
  | 0x2 => .both (.kfetch d a b v x) z
  | 0x3 => .both (.klist d a b v x) z
  | _ => .unused

/-- The type-bearing EXT of ACCLD and ACCST (R353): ILLEGAL_OPCODE for another TYPE, else the fields. -/
def decodeAcc (i : Instr) (y : BitVec 4) (zero : Bool) : LeadDec :=
  if accType y then .both i zero else ⟨i, true, false⟩

/-- The minors of major 0x76 (R342, R348, R352, R353, R357). -/
def decodeMatrix (d a b : Reg) (ext : Option (BitVec 29)) : Nat → LeadDec
  | 0x0 => .both (.mloop a b) (d == 0 && ext.getD 0 == 0)
  | 0x1 => .both (.osub (bits d 1 5) (d.getLsbD 0) (bits a 0 3) b) (bits a 3 3 == 0 && ext.getD 0 == 0)
  | 0x2 => .both (.accz a) (d == 0 && b == 0 && ext.getD 0 == 0)
  | 0x3 =>
    match ext with
    | none => .both (.accld (bits d 0 4) a b) (bits d 4 2 == 0)
    | some e => decodeAcc (.accldTyped (bits d 0 4) a b (bits e 5 4) (bits e 10 3) (e.getLsbD 9)) (bits e 5 4)
        (bits d 4 2 == 0 && bits e 13 16 == 0 && bits e 0 5 == 0)
  | 0x4 =>
    match ext with
    | none => .both (.accst (bits d 0 4) a b) (bits d 4 2 == 0)
    | some e => decodeAcc (.accstTyped (bits d 0 4) a b (bits e 5 4) (bits e 10 3) (e.getLsbD 9)) (bits e 5 4)
        (bits d 4 2 == 0 && bits e 13 16 == 0 && bits e 0 5 == 0)
  | 0x5 =>
    match (bits b 4 2).toNat with
    | 0 => .both (.accver d (bits b 0 4)) (a == 0 && ext.getD 0 == 0)
    | 1 => .both (.accverWait a (bits b 0 4)) (d == 0 && ext.getD 0 == 0)
    | 2 => .both (.accverSet a (bits b 0 4)) (d == 0 && ext.getD 0 == 0)
    | _ => .both (.accver d (bits b 0 4)) false
  | _ => .unused

/-- The minors of major 0x78 (R401, R412, R417). -/
def decodeLaunch (d a b : Reg) (ext : Option (BitVec 29)) : Nat → LeadDec
  | 0x0 =>
    if (ext.getD 0).getLsbD 0 then .both (.launchTry d a) (b == 0 && bits (ext.getD 0) 1 28 == 0)
    else .both (.launch d a) (b == 0 && bits (ext.getD 0) 1 28 == 0)
  | 0x1 => .both (.lwaitg d a) (b == 0 && ext.getD 0 == 0)
  | 0x2 => .both (.gstat d a) (b == 0 && ext.getD 0 == 0)
  | 0x3 => .both (.vgrow d a) (b == 0 && ext.getD 0 == 0)
  | 0x4 => .both (.vshrink d a) (b == 0 && ext.getD 0 == 0)
  | 0x5 => .both .texit (d == 0 && a == 0 && b == 0 && ext.getD 0 == 0)
  | 0x6 => .both (.gexit a b) (d == 0 && ext.getD 0 == 0)
  | _ => .unused

/-- FENCE words (R65, R253, R254). -/
def decodeFence (op : BitVec 22) : LeadDec :=
  let win := bits op 16 6
  let zero := bits op 10 6 == 0 && bits op 6 2 == 0
  if op.getLsbD 9 then
    if op.getLsbD 8 then .both (.fenceSysWin win (bits op 0 3)) (zero && bits op 3 3 == 7)
    else .both (.fenceSys (bits op 0 3)) (zero && win == 0 && bits op 3 3 == 7)
  else .both (.fence (bits op 3 3) (bits op 0 3)) (zero && win == 0 && !op.getLsbD 8)

/-- HINT codes (R124). -/
def decodeHint (code : BitVec 6) (arg : BitVec 16) : Instr :=
  match code.toNat with
  | 1 => .hintFetchLead arg
  | 2 => .hintSpin arg
  | 3 => .hintFetchLane arg
  | _ => .hint code arg

/-- The control and system majors 0x50 to 0x72 without a long form (R62). -/
def decodeSystem (d a b : Reg) (f : BitVec 4) (op : BitVec 22) : Nat → LeadDec
  | 0x50 => .both (.lrun op) true
  | 0x51 => .both (.lwait (op.getLsbD 21) (bits op 0 12)) (bits op 12 9 == 0)
  | 0x52 =>
    match f.toNat with
    | 0 => .both (.xbset (bits d 3 3) a b) (bits d 0 3 == 0)
    | 1 => .both (.xbclr (bits d 3 3)) (bits d 0 3 == 0 && a == 0 && b == 0)
    | _ => .unused
  | 0x53 =>
    match f.toNat with
    | 0 => .both (.osdef (bits d 1 5) a) (bits d 0 1 == 0 && b == 0)
    | 1 => .both (.osend (bits d 1 5)) (bits d 0 1 == 0 && a == 0 && b == 0)
    | _ => .unused
  | 0x60 => .both (.trap (bits op 0 16)) (d == 0)
  | 0x61 => .both .rfe (op == 0)
  | 0x62 => .both (.csrrd d (bits op 0 10)) (a == 0)
  | 0x63 => .both (.csrwr d a (bits op 0 10)) true
  | 0x64 => .both (.csrset d a (bits op 0 10)) true
  | 0x65 => .both (.csrclr d a (bits op 0 10)) true
  | 0x66 =>
    match f.toNat with
    | 0 => .both (.haltpCtx a) (d == 0 && b == 0)
    | 1 => .both (.haltpPart a) (d == 0 && b == 0)
    | _ => .unused
  | 0x67 =>
    match f.toNat with
    | 0 => .both (.preemptSus a) (d == 0 && b == 0)
    | 1 => .both (.preemptRes a) (d == 0 && b == 0)
    | _ => .unused
  | 0x69 =>
    match f.toNat with
    | 0 => .both (.ckptPool a b) (d == 0)
    | 1 => .both (.ckptStat d) (a == 0 && b == 0)
    | 2 => .both .ckptRb (d == 0 && a == 0 && b == 0)
    | _ => .unused
  | 0x6A => .both (.assert a b) (d == 0 && f == 0)
  | 0x72 =>
    match f.toNat with
    | 0 => .both (.txbeg d) (a == 0 && b == 0)
    | 1 => .both .txend (d == 0 && a == 0 && b == 0)
    | 2 => .both (.txabt a) (d == 0 && b == 0)
    | 3 => .both (.txstat d (b.getLsbD 0)) (a == 0 && bits b 1 5 == 0)
    | _ => .unused
  | _ => .unused

/-- One instruction by its major opcode (R62). `w` is the width bit of a 32-bit form, `ext` EXT of a long form. A
major whose long form does not exist turns a long word away (R54); W = 1 outside the integer majors is RESERVED_FIELD
(R51). -/
def decodeWord (maj : BitVec 7) (op : BitVec 22) (w : Bool) (ext : Option (BitVec 29)) : LeadDec :=
  let d := bits op 16 6
  let a := bits op 10 6
  let b := bits op 4 6
  let f := bits op 0 4
  let i10 := bits op 0 10
  let i16 := bits op 0 16
  let noLong (x : LeadDec) : LeadDec := if ext.isSome then .unused else x
  let noW (x : LeadDec) : LeadDec := { x with res := x.res || w }
  match maj.toNat with
  | 0x01 => noLong (noW (.both .nop (op == 0)))
  | 0x02 => noLong (noW (.both (decodeHint d i16) true))
  | 0x08 => noLong (match decodeInt w d a b 0x08 f.toNat with | some i => .both i true | none => .unused)
  | 0x09 => noLong (match decodeInt w d a b 0x09 f.toNat with | some i => .both i true | none => decodeUnary w d a b f.toNat)
  | 0x0A => noLong (if f.toNat < 10 then .both (.cmp f w d a b) true else .unused)
  | 0x0B => noLong (.both (.addx f w d a b) true)
  | 0x0C =>
    match ext with
    | none => .unused
    | some e => .both (.bfx d a (bits e 6 6) (bits e 0 6)) (b == 0 && f == 0 && bits e 12 17 == 0)
  | 0x0D =>
    match ext with
    | none => .unused
    | some e => .both (.bfi d a (bits e 6 6) (bits e 0 6)) (b == 0 && f == 0 && bits e 12 17 == 0)
  | 0x10 => decodePair ext (.addi w d a i10) fun e => .addiLong d a (extend i10 e)
  | 0x11 => decodePair ext (.andi w d a i10) fun e => .andiLong d a (extend i10 e)
  | 0x12 => decodePair ext (.ori w d a i10) fun e => .oriLong d a (extend i10 e)
  | 0x13 => decodePair ext (.xori w d a i10) fun e => .xoriLong d a (extend i10 e)
  | 0x14 => noLong (.both (.shli w d a (bits op 0 6)) (bits op 6 4 == 0))
  | 0x15 => noLong (.both (.shri w d a (bits op 0 6)) (bits op 6 4 == 0))
  | 0x16 => noLong (.both (.sari w d a (bits op 0 6)) (bits op 6 4 == 0))
  | 0x18 =>
    match ext with
    | none => .unused
    | some e => .both (.sethi d (bits op 0 3 ++ e)) (bits op 3 13 == 0)
  | 0x19 =>
    match ext with
    | none => .unused
    | some e => .both (.li d (extend i16 e)) true
  | 0x1A => noW (decodePair ext (.addpc d i16) fun e => .addpcLong d (extend i16 e))
  | 0x20 => noW (decodePair ext (.b op) fun e => .bLong (extend op e))
  | 0x21 => noW (decodePair ext (.bl op) fun e => .blLong (extend op e))
  | 0x22 =>
    noLong (noW (match f.toNat with
      | 0 => .both (.br a) (d == 0 && b == 0)
      | 1 => .both (.blr d a) (b == 0)
      | 2 => .both (.ret a) (d == 0 && b == 0)
      | _ => .unused))
  | 0x23 => noW (decodePair ext (.beq d a i10) fun e => .beqLong d a (extend i10 e))
  | 0x24 => noW (decodePair ext (.bne d a i10) fun e => .bneLong d a (extend i10 e))
  | 0x25 => noW (decodePair ext (.blt d a i10) fun e => .bltLong d a (extend i10 e))
  | 0x26 => noW (decodePair ext (.bge d a i10) fun e => .bgeLong d a (extend i10 e))
  | 0x27 => noW (decodePair ext (.bltn d a i10) fun e => .bltnLong d a (extend i10 e))
  | 0x28 => noW (decodePair ext (.bgen d a i10) fun e => .bgenLong d a (extend i10 e))
  | 0x29 => noW (decodePair ext (.bz d i16) fun e => .bzLong d (extend i16 e))
  | 0x2A => noW (decodePair ext (.bnz d i16) fun e => .bnzLong d (extend i16 e))
  | 0x30 => noLong (noW (decodeFp 0 d a b f.toNat))
  | 0x31 => noLong (noW (decodeFp 1 d a b f.toNat))
  | 0x32 => noLong (noW (decodeFp 2 d a b f.toNat))
  | 0x33 => noLong (noW (decodeFp 3 d a b f.toNat))
  | 0x34 =>
    let i := Instr.fcvt d a (bits op 6 4) (bits op 2 4)
    noLong (noW ⟨i, !i.wellFormed, bits op 0 2 != 0⟩)
  | 0x40 => noW (decodePair ext (.ld 0 d a i10) fun e => .ldLong 0 d a (extend i10 e))
  | 0x41 => noW (decodePair ext (.ld 1 d a i10) fun e => .ldLong 1 d a (extend i10 e))
  | 0x42 => noW (decodePair ext (.ld 2 d a i10) fun e => .ldLong 2 d a (extend i10 e))
  | 0x43 => noW (decodePair ext (.ld 3 d a i10) fun e => .ldLong 3 d a (extend i10 e))
  | 0x44 => noW (decodePair ext (.ldN 0 d a i10) fun e => .ldNLong 0 d a (extend i10 e))
  | 0x45 => noW (decodePair ext (.ldN 1 d a i10) fun e => .ldNLong 1 d a (extend i10 e))
  | 0x46 => noW (decodePair ext (.ldN 2 d a i10) fun e => .ldNLong 2 d a (extend i10 e))
  | 0x48 => noW (decodePair ext (.st 0 d a i10) fun e => .stLong 0 d a (extend i10 e))
  | 0x49 => noW (decodePair ext (.st 1 d a i10) fun e => .stLong 1 d a (extend i10 e))
  | 0x4A => noW (decodePair ext (.st 2 d a i10) fun e => .stLong 2 d a (extend i10 e))
  | 0x4B => noW (decodePair ext (.st 3 d a i10) fun e => .stLong 3 d a (extend i10 e))
  | 0x4C => noLong (noW (decodeAtomic false d a b f.toNat))
  | 0x4D => noLong (noW (decodeAtomic true d a b f.toNat))
  | 0x4E => noLong (noW (decodeFence op))
  | 0x4F => noLong (noW (if f.toNat = 0 then .both (.watch d a b) true else .unused))
  | 0x68 =>
    let e := ext.getD 0
    let zero := d == 0 && f == 0 && bits e 1 28 == 0
    noW (if e.getLsbD 0 then .both (.injarmRep a b) zero else .both (.injarm a b) zero)
  | 0x70 =>
    let zero := bits b 0 3 == 0
    noW (match ext with
      | none => .both (.tload d a (bits b 3 3) f) zero
      | some e =>
        if e.getLsbD 16 then .both (.tloadTry d a (bits b 3 3) f (bits e 0 16)) (zero && bits e 17 12 == 0)
        else .both (.tloadLease d a (bits b 3 3) f (bits e 0 16)) (zero && bits e 17 12 == 0))
  | 0x71 =>
    let e := ext.getD 0
    noW (decodeRedeem d a b (e.getLsbD 0) (bits e 1 6) (bits e 7 22 == 0) f.toNat)
  | 0x74 => noW (decodeCopy d a b ext f.toNat)
  | 0x75 =>
    let e := ext.getD 0
    noW (decodeKey d a b (e.getLsbD 10) (bits e 7 3) (bits e 11 18 == 0 && bits e 0 7 == 0) f.toNat)
  | 0x76 => noW (decodeMatrix d a b ext f.toNat)
  | 0x78 => noW (decodeLaunch d a b ext f.toNat)
  | m => noLong (noW (decodeSystem d a b f op m))

/-! ## Prefix runs -/

/-- The modifiers that a run of leading words gives its instruction (R57, R58). -/
structure Mods where
  rnd : Option (BitVec 3)
  sat : Option (BitVec 2)
  ord : Option (BitVec 6)
deriving DecidableEq, Repr

/-- No modifier (R59). -/
def Mods.none : Mods := ⟨Option.none, Option.none, Option.none⟩

/-- Word w is a prefix word: LEN = 11 (R51). -/
def isPfx (w : W32) : Bool := bits w 30 2 == 3

/-- KIND of a prefix word (R57). -/
def pfxKind (w : W32) : Nat := (bits w 26 3).toNat

/-- A prefix word's RSV bits and payload are as R57 and R58 let them be. -/
def pfxPayloadOk (w : W32) : Bool :=
  bits w 6 20 == 0 &&
    (match pfxKind w with
     | 0 => bits w 3 3 == 0 && decide ((bits w 0 3).toNat ≤ 4)
     | 1 => bits w 2 4 == 0 && (bits w 0 2 == 1 || bits w 0 2 == 2)
     | _ => decide ((bits w 0 3).toNat ≤ 4))

/-- The modifiers a list of prefix words gives; the first of each kind counts. -/
def modsOf : List W32 → Mods
  | [] => Mods.none
  | w :: ws =>
    let m := modsOf ws
    match pfxKind w with
    | 0 => { m with rnd := some (bits w 0 3) }
    | 1 => { m with sat := some (bits w 0 2) }
    | 2 => { m with ord := some (bits w 0 6) }
    | _ => m

/-- The kinds of prefix that an instruction accepts, as (RND, SAT, ORD) (R61). -/
def Instr.accepts : Instr → Bool × Bool × Bool
  | .fadd .. | .fsub .. | .fmul .. | .fdiv .. | .fsqrt .. | .fma .. => (true, false, false)
  | .fcvt _ _ dt _ => (true, decide (2 ≤ dt.toNat ∧ dt.toNat ≤ 9), false)
  | .add .. | .sub .. | .mul .. | .addx .. | .shl .. | .addi .. | .addiLong .. | .shli .. => (false, true, false)
  | .ld .. | .ldLong .. | .ldN .. | .ldNLong .. | .st .. | .stLong .. => (false, false, true)
  | .aadd .. | .asub .. | .amin .. | .amax .. | .aminn .. | .amaxn .. | .aand .. | .aor .. | .axor .. | .axchg ..
  | .afadd .. | .acas .. | .watch .. => (false, false, true)
  | .tload .. | .tloadLease .. | .tloadTry .. => (false, false, true)
  | .cpyt .. | .cpytExt .. | .cpyl .. | .cpylExt .. | .cpylRaw .. | .cpyf .. | .cpyfExt .. | .cpyg .. | .cpygExt .. =>
    (false, false, true)
  | _ => (false, false, false)

/-- Whether instruction i accepts a prefix of the kind (R61). -/
def acceptsKind (i : Instr) (kind : Nat) : Bool :=
  match kind, i.accepts with
  | 0, (r, _, _) => r
  | 1, (_, s, _) => s
  | 2, (_, _, o) => o
  | _, _ => false

/-- The orders that an instruction takes in its ORD prefix: loads, WATCH rlx, acq, sc (R106, R256); stores, TLOAD and
copies rlx, rel, sc (R106, R215, R294); atomics every order (R247). -/
def orderOk (i : Instr) (o : BitVec 3) : Bool :=
  match i with
  | .ld .. | .ldLong .. | .ldN .. | .ldNLong .. | .watch .. => o == 0 || o == 1 || o == 4
  | .st .. | .stLong .. | .tload .. | .tloadLease .. | .tloadTry .. => o == 0 || o == 2 || o == 4
  | .cpyt .. | .cpytExt .. | .cpyl .. | .cpylExt .. | .cpylRaw .. | .cpyf .. | .cpyfExt .. | .cpyg .. | .cpygExt .. =>
    o == 0 || o == 2 || o == 4
  | _ => decide (o.toNat ≤ 4)

/-- What one decode of R496 found: the instruction, the words it takes, the entry mark of its first word, the
modifiers, and the index of the word that raises each decode cause (R60, R77, R497). -/
structure Decoded where
  ins : Instr
  words : Nat
  e : Bool
  mods : Mods
  ill : Option Nat
  res : Option Nat
  orph : Option Nat
deriving DecidableEq, Repr

/-- The index of the first element that the test holds of, counted from k. -/
def firstIdx (p : α → Bool) : Nat → List α → Option Nat
  | _, [] => none
  | k, x :: xs => if p x then some k else firstIdx p (k + 1) xs

/-- The lower of two optional indices. -/
def minIdx : Option Nat → Option Nat → Option Nat
  | none, b => b
  | a, none => a
  | some a, some b => some (min a b)

/-- The word that makes the earliest orphan of the run an orphan (R60, R497): `k` is the index of the run's head,
`n` that of its instruction, `branch` says it is of majors 0x20 to 0x2A. -/
def orphanIdx (first : W32) (i : Instr) (branch : Bool) (n : Nat) : Nat → List W32 → Option Nat
  | _, [] => none
  | k, w :: ws =>
    let nextE := (ws.headD first).getLsbD 29
    if nextE || (ws.isEmpty && branch) then some (k + 1)
    else
      match firstIdx (fun v => pfxKind v == pfxKind w) (k + 1) ws with
      | some j => some j
      | none => if acceptsKind i (pfxKind w) then orphanIdx first i branch n (k + 1) ws else some n

/-- Decode a run of prefix words `ps`, a first word and, where its LEN is 10, a second word (R496). -/
def decodeRun (ps : List W32) (first second : W32) : Decoded :=
  let n := ps.length
  let long := bits first 30 2 == 2
  let maj := bits first 22 7
  let x := decodeWord maj (bits first 0 22) (bits first 30 2 == 1) (if long then some (bits second 0 29) else none)
  let mods := modsOf ps
  let tag := long && bits second 29 3 != 4
  let ordBad := match mods.ord with
    | some o => acceptsKind x.ins 2 && decide ((bits o 0 3).toNat ≤ 4) && !orderOk x.ins (bits o 0 3)
    | none => false
  { ins := x.ins
    words := n + (if long then 2 else 1)
    e := (ps.headD first).getLsbD 29
    mods := mods
    ill := if x.ill then some 0 else firstIdx (fun w => decide (2 < pfxKind w)) 0 ps
    res := if x.res || ordBad then some 0
      else minIdx (firstIdx (fun w => !pfxPayloadOk w) 0 ps) (if tag then some (n + 1) else none)
    orph := orphanIdx first x.ins (decide (0x20 ≤ maj.toNat ∧ maj.toNat ≤ 0x2A)) n 0 ps }

/-- Decode a list of words: a run, or none where the words end before the instruction does. -/
def decodeWords (ps : List W32) : List W32 → Option Decoded
  | [] => none
  | w :: ws =>
    if isPfx w then decodeWords (ps ++ [w]) ws
    else if bits w 30 2 == 2 then
      match ws with
      | [] => none
      | v :: _ => some (decodeRun ps w v)
    else some (decodeRun ps w 0)

/-- No decode cause was found. -/
def Decoded.clean (x : Decoded) : Bool := x.ill.isNone && x.res.isNone && x.orph.isNone

/-! ## Lane slots -/

/-- What a lane slot decodes to; `res` where a reserved bit of a clause header is set (R74). Field checks of the other
slots follow at issue (R75). -/
structure LaneDec where
  ins : Instr
  slot : LaneF
  hdr : Header
  res : Bool
deriving DecidableEq, Repr

/-- The fields of a slot (R66). -/
def laneFields (s : BitVec 96) : LaneF where
  ty := bits s 80 4
  d := bits s 72 8
  a := bits s 64 8
  b := bits s 56 8
  c := bits s 48 8
  m := bits s 44 4
  li := s.getLsbD 43
  fl := bits s 41 2
  qa := s.getLsbD 40
  qb := s.getLsbD 39
  qc := s.getLsbD 38
  ib := s.getLsbD 37
  rm := bits s 34 3
  sat := s.getLsbD 33
  nf := s.getLsbD 32
  imm := bits s 0 32

/-- The lane opcode map (R72). TBAR and TBAR.ck share an OP and differ in X[27] (R171), the two forms of REDEEM in
C[0] (R222). -/
def laneCtor (f : LaneF) : Nat → Nat → Option Instr
  | 0x0, 0x00 => some .vadd
  | 0x0, 0x01 => some .vsub
  | 0x0, 0x02 => some .vmul
  | 0x0, 0x03 => some .vmulh
  | 0x0, 0x04 => some .vmad
  | 0x0, 0x05 => some .vmin
  | 0x0, 0x06 => some .vmax
  | 0x0, 0x07 => some .vabs
  | 0x0, 0x08 => some .vand
  | 0x0, 0x09 => some .vor
  | 0x0, 0x0A => some .vxor
  | 0x0, 0x0B => some .vnot
  | 0x0, 0x0C => some .vshl
  | 0x0, 0x0D => some .vshr
  | 0x0, 0x0E => some .vsar
  | 0x0, 0x0F => some .vclz
  | 0x0, 0x10 => some .vpopc
  | 0x0, 0x11 => some .vbfx
  | 0x0, 0x12 => some .vsel
  | 0x0, 0x13 => some .vcmp
  | 0x0, 0x14 => some .vmov
  | 0x0, 0x15 => some .vmovi
  | 0x1, 0x00 => some .vfadd
  | 0x1, 0x01 => some .vfsub
  | 0x1, 0x02 => some .vfmul
  | 0x1, 0x03 => some .vffma
  | 0x1, 0x04 => some .vfmin
  | 0x1, 0x05 => some .vfmax
  | 0x1, 0x06 => some .vfcmp
  | 0x1, 0x07 => some .vfrcp
  | 0x1, 0x08 => some .vfrsq
  | 0x1, 0x09 => some .vfsqrt
  | 0x1, 0x0A => some .vfdiv
  | 0x1, 0x0B => some .vfexp2
  | 0x1, 0x0C => some .vflog2
  | 0x1, 0x0D => some .vfsin
  | 0x1, 0x0E => some .vfcos
  | 0x1, 0x0F => some .vfcvt
  | 0x1, 0x10 => some .vfrnd
  | 0x1, 0x11 => some .vfscale
  | 0x1, 0x12 => some .vfcma
  | 0x2, 0x00 => some .vshfl
  | 0x2, 0x01 => some .vbcast
  | 0x2, 0x02 => some .vred
  | 0x2, 0x03 => some .vscan
  | 0x2, 0x04 => some .vballot
  | 0x2, 0x05 => some .vpack
  | 0x2, 0x06 => some .vunpk
  | 0x3, 0x00 => some .cend
  | 0x3, 0x01 => some .brl
  | 0x3, 0x02 => some .mark
  | 0x3, 0x03 => some .join
  | 0x3, 0x04 => some .mset
  | 0x3, 0x05 => some .mand
  | 0x3, 0x06 => some .mor
  | 0x3, 0x07 => some .mnot
  | 0x3, 0x08 => some .mcnt
  | 0x3, 0x09 => some (if f.imm.getLsbD 27 then .tbarCk else .tbar)
  | 0x3, 0x0A => some .sbar
  | 0x3, 0x0B => some .yield
  | 0x4, 0x00 => some .vld
  | 0x4, 0x01 => some .vst
  | 0x4, 0x02 => some .vgath
  | 0x4, 0x03 => some .vscat
  | 0x4, 0x04 => some .vldl
  | 0x4, 0x05 => some .vstl
  | 0x4, 0x06 => some .vldm
  | 0x4, 0x07 => some .vstm
  | 0x4, 0x08 => some .xst
  | 0x4, 0x09 => some .vlda
  | 0x4, 0x0A => some .vsta
  | 0x4, 0x0B => some .lkld
  | 0x4, 0x0C => some .lkst
  | 0x4, 0x0D => some .prf
  | 0x5, 0x00 => some .vaadd
  | 0x5, 0x01 => some .vasub
  | 0x5, 0x02 => some .vamin
  | 0x5, 0x03 => some .vamax
  | 0x5, 0x04 => some .vaminn
  | 0x5, 0x05 => some .vamaxn
  | 0x5, 0x06 => some .vaand
  | 0x5, 0x07 => some .vaor
  | 0x5, 0x08 => some .vaxor
  | 0x5, 0x09 => some .vaxchg
  | 0x5, 0x0A => some .vacas
  | 0x5, 0x0B => some .vafadd
  | 0x5, 0x10 => some .laneFence
  | 0x5, 0x20 => some .tloadv
  | 0x5, 0x21 => some (if f.c.getLsbD 0 then .laneRedeemL else .laneRedeem)
  | 0x6, 0x00 => some .laneTxbeg
  | 0x6, 0x01 => some .laneTxend
  | 0x6, 0x02 => some .laneTxabt
  | 0x6, 0x03 => some .laneTxstat
  | 0x6, 0x10 => some .laneCpyt
  | 0x6, 0x11 => some .laneCpyl
  | 0x6, 0x12 => some .laneCpyf
  | 0x6, 0x13 => some .laneCpyg
  | 0x7, 0x00 => some .mma
  | 0x7, 0x01 => some .accrd
  | 0x7, 0x02 => some .accwr
  | 0x8, 0x00 => some .vconf
  | 0x8, 0x01 => some .vcomb
  | 0x8, 0x02 => some .visect
  | 0x8, 0x03 => some .vmerge
  | 0x8, 0x04 => some .vcompr
  | 0x8, 0x05 => some .vexpd
  | 0x8, 0x06 => some .idxld
  | 0x9, 0x00 => some .laneAssert
  | 0x9, 0x01 => some .vcsrrd
  | _, _ => none

/-- A clause header's fields (R74). -/
def headerFields (s : BitVec 96) : Header :=
  ⟨bits s 80 4, bits s 68 12, s.getLsbD 67, bits s 63 4, s.getLsbD 62, bits s 58 4⟩

/-- Decode a slot. Classes 0xA to 0xE, unlisted OPs and a header with OP ≠ 0 are unused (R72, R74). -/
def decodeLane (s : BitVec 96) : LaneDec :=
  let f := laneFields s
  let h := headerFields s
  let cls := (bits s 92 4).toNat
  let op := (bits s 84 8).toNat
  if cls = 0xF then
    if op = 0 then ⟨.clause, f, h, bits s 0 58 != 0 || !h.wellFormed⟩ else ⟨.unusedOpcode, f, h, false⟩
  else ⟨(laneCtor f cls op).getD .unusedOpcode, f, h, false⟩

/-! ## The encoder -/

/-- A first word (R51). -/
def word0 (len : BitVec 2) (e : Bool) (maj : BitVec 7) (op : BitVec 22) : W32 := len ++ BitVec.ofBool e ++ maj ++ op

/-- A second word (R53). -/
def word1 (ext : BitVec 29) : W32 := 4#3 ++ ext

/-- F-R operands (R55). -/
def fR (d a b : Reg) (f : BitVec 4) : BitVec 22 := d ++ a ++ b ++ f

/-- F-I, F-M, F-C operands (R55). -/
def fI (d a : Reg) (i : BitVec 10) : BitVec 22 := d ++ a ++ i

/-- F-U operands (R55). -/
def fU (d : Reg) (i : BitVec 16) : BitVec 22 := d ++ i

/-- A 32-bit instruction; `w` is its width bit. -/
def enc (e w : Bool) (maj : BitVec 7) (op : BitVec 22) : Option (List W32) :=
  some [word0 (0#1 ++ BitVec.ofBool w) e maj op]

/-- A long form. -/
def encL (e : Bool) (maj : BitVec 7) (op : BitVec 22) (ext : BitVec 29) : Option (List W32) :=
  some [word0 2 e maj op, word1 ext]

/-- The field of the 32-bit form inside a long value, and the EXT (R54). -/
def hiPart (n : Nat) (v : BitVec (n + 29)) : BitVec n := v.extractLsb' 29 n

@[inherit_doc hiPart] def loPart (v : BitVec k) : BitVec 29 := v.extractLsb' 0 29

/-- The EXT of the copy forms (R295). -/
def copyExt (v : Bool) (x : BitVec 3) (raw : Bool) (dk sk : BitVec 2) (dir : Bool) : BitVec 29 :=
  0#18 ++ BitVec.ofBool v ++ x ++ BitVec.ofBool raw ++ dk ++ sk ++ 0#1 ++ BitVec.ofBool dir

/-- The EXT of the quiet forms (R214). -/
def quietExt (sq : Reg) : BitVec 29 := 0#22 ++ sq ++ 1#1

/-- Key-page words: the short form when XBV = 0, else the long (R383). -/
def encKey (e : Bool) (op : BitVec 22) (v : Bool) (x : BitVec 3) : Option (List W32) :=
  if v then encL e 0x75 op (0#18 ++ 1#1 ++ x ++ 0#7) else enc e false 0x75 op

/-- The words of an integer, branch or floating-point instruction with entry mark `e` (majors 0x01 to 0x34). -/
def encodeCore (e : Bool) : Instr → Option (List W32)
  | .nop => enc e false 0x01 0
  | .hint c g => enc e false 0x02 (fU c g)
  | .hintFetchLead g => enc e false 0x02 (fU 1 g)
  | .hintSpin g => enc e false 0x02 (fU 2 g)
  | .hintFetchLane g => enc e false 0x02 (fU 3 g)
  | .add w d a b => enc e w 0x08 (fR d a b 0x0)
  | .sub w d a b => enc e w 0x08 (fR d a b 0x1)
  | .mul w d a b => enc e w 0x08 (fR d a b 0x2)
  | .mulh w d a b => enc e w 0x08 (fR d a b 0x3)
  | .mulhn w d a b => enc e w 0x08 (fR d a b 0x4)
  | .div w d a b => enc e w 0x08 (fR d a b 0x5)
  | .divn w d a b => enc e w 0x08 (fR d a b 0x6)
  | .rem w d a b => enc e w 0x08 (fR d a b 0x7)
  | .remn w d a b => enc e w 0x08 (fR d a b 0x8)
  | .and w d a b => enc e w 0x08 (fR d a b 0x9)
  | .or w d a b => enc e w 0x08 (fR d a b 0xA)
  | .xor w d a b => enc e w 0x08 (fR d a b 0xB)
  | .andn w d a b => enc e w 0x08 (fR d a b 0xC)
  | .min w d a b => enc e w 0x08 (fR d a b 0xD)
  | .max w d a b => enc e w 0x08 (fR d a b 0xE)
  | .minn w d a b => enc e w 0x08 (fR d a b 0xF)
  | .maxn w d a b => enc e w 0x09 (fR d a b 0x0)
  | .shl w d a b => enc e w 0x09 (fR d a b 0x1)
  | .shr w d a b => enc e w 0x09 (fR d a b 0x2)
  | .sar w d a b => enc e w 0x09 (fR d a b 0x3)
  | .rot w d a b => enc e w 0x09 (fR d a b 0x4)
  | .clz w d a => enc e w 0x09 (fR d a 0 0x5)
  | .ctz w d a => enc e w 0x09 (fR d a 0 0x6)
  | .popc w d a => enc e w 0x09 (fR d a 0 0x7)
  | .sext d a p => enc e false 0x09 (fR d a p 0x8)
  | .zext d a p => enc e false 0x09 (fR d a p 0x9)
  | .sel w d a b => enc e w 0x09 (fR d a b 0xA)
  | .cmp c w d a b => enc e w 0x0A (fR d a b c)
  | .addx f w d a b => enc e w 0x0B (fR d a b f)
  | .bfx d a u q => encL e 0x0C (fR d a 0 0) (0#17 ++ u ++ q)
  | .bfi d a u q => encL e 0x0D (fR d a 0 0) (0#17 ++ u ++ q)
  | .addi w d a i => enc e w 0x10 (fI d a i)
  | .addiLong d a i => encL e 0x10 (fI d a (hiPart 10 i)) (loPart i)
  | .andi w d a i => enc e w 0x11 (fI d a i)
  | .andiLong d a i => encL e 0x11 (fI d a (hiPart 10 i)) (loPart i)
  | .ori w d a i => enc e w 0x12 (fI d a i)
  | .oriLong d a i => encL e 0x12 (fI d a (hiPart 10 i)) (loPart i)
  | .xori w d a i => enc e w 0x13 (fI d a i)
  | .xoriLong d a i => encL e 0x13 (fI d a (hiPart 10 i)) (loPart i)
  | .shli w d a c => enc e w 0x14 (fI d a (0#4 ++ c))
  | .shri w d a c => enc e w 0x15 (fI d a (0#4 ++ c))
  | .sari w d a c => enc e w 0x16 (fI d a (0#4 ++ c))
  | .sethi d i => encL e 0x18 (fU d (0#13 ++ i.extractLsb' 29 3)) (loPart i)
  | .li d i => encL e 0x19 (fU d (hiPart 16 i)) (loPart i)
  | .addpc d i => enc e false 0x1A (fU d i)
  | .addpcLong d i => encL e 0x1A (fU d (hiPart 16 i)) (loPart i)
  | .b o => enc e false 0x20 o
  | .bLong o => encL e 0x20 (hiPart 22 o) (loPart o)
  | .bl o => enc e false 0x21 o
  | .blLong o => encL e 0x21 (hiPart 22 o) (loPart o)
  | .br a => enc e false 0x22 (fR 0 a 0 0)
  | .blr d a => enc e false 0x22 (fR d a 0 1)
  | .ret a => enc e false 0x22 (fR 0 a 0 2)
  | .beq a b o => enc e false 0x23 (fI a b o)
  | .beqLong a b o => encL e 0x23 (fI a b (hiPart 10 o)) (loPart o)
  | .bne a b o => enc e false 0x24 (fI a b o)
  | .bneLong a b o => encL e 0x24 (fI a b (hiPart 10 o)) (loPart o)
  | .blt a b o => enc e false 0x25 (fI a b o)
  | .bltLong a b o => encL e 0x25 (fI a b (hiPart 10 o)) (loPart o)
  | .bge a b o => enc e false 0x26 (fI a b o)
  | .bgeLong a b o => encL e 0x26 (fI a b (hiPart 10 o)) (loPart o)
  | .bltn a b o => enc e false 0x27 (fI a b o)
  | .bltnLong a b o => encL e 0x27 (fI a b (hiPart 10 o)) (loPart o)
  | .bgen a b o => enc e false 0x28 (fI a b o)
  | .bgenLong a b o => encL e 0x28 (fI a b (hiPart 10 o)) (loPart o)
  | .bz a o => enc e false 0x29 (fU a o)
  | .bzLong a o => encL e 0x29 (fU a (hiPart 16 o)) (loPart o)
  | .bnz a o => enc e false 0x2A (fU a o)
  | .bnzLong a o => encL e 0x2A (fU a (hiPart 16 o)) (loPart o)
  | .fadd t d a b => enc e false (12#5 ++ t) (fR d a b 0x0)
  | .fsub t d a b => enc e false (12#5 ++ t) (fR d a b 0x1)
  | .fmul t d a b => enc e false (12#5 ++ t) (fR d a b 0x2)
  | .fdiv t d a b => enc e false (12#5 ++ t) (fR d a b 0x3)
  | .fsqrt t d a => enc e false (12#5 ++ t) (fR d a 0 0x4)
  | .fma t d a b => enc e false (12#5 ++ t) (fR d a b 0x5)
  | .fmin t d a b => enc e false (12#5 ++ t) (fR d a b 0x6)
  | .fmax t d a b => enc e false (12#5 ++ t) (fR d a b 0x7)
  | .fmov t d a => enc e false (12#5 ++ t) (fR d a 0 0x8)
  | .fcmpEq t d a b => enc e false (12#5 ++ t) (fR d a b 0x9)
  | .fcmpLt t d a b => enc e false (12#5 ++ t) (fR d a b 0xA)
  | .fcmpLe t d a b => enc e false (12#5 ++ t) (fR d a b 0xB)
  | .fcmpUn t d a b => enc e false (12#5 ++ t) (fR d a b 0xC)
  | .fcvt d a dt st => enc e false 0x34 (d ++ a ++ dt ++ st ++ 0#2)
  | _ => none

/-- The words of a memory, control or system instruction (majors 0x40 to 0x72). -/
def encodeSys (e : Bool) : Instr → Option (List W32)
  | .ld z d a o => enc e false (16#5 ++ z) (fI d a o)
  | .ldLong z d a o => encL e (16#5 ++ z) (fI d a (hiPart 10 o)) (loPart o)
  | .ldN z d a o => enc e false (17#5 ++ z) (fI d a o)
  | .ldNLong z d a o => encL e (17#5 ++ z) (fI d a (hiPart 10 o)) (loPart o)
  | .st z d a o => enc e false (18#5 ++ z) (fI d a o)
  | .stLong z d a o => encL e (18#5 ++ z) (fI d a (hiPart 10 o)) (loPart o)
  | .aadd w d a b => enc e false (38#6 ++ BitVec.ofBool w) (fR d a b 0x0)
  | .asub w d a b => enc e false (38#6 ++ BitVec.ofBool w) (fR d a b 0x1)
  | .amin w d a b => enc e false (38#6 ++ BitVec.ofBool w) (fR d a b 0x2)
  | .amax w d a b => enc e false (38#6 ++ BitVec.ofBool w) (fR d a b 0x3)
  | .aminn w d a b => enc e false (38#6 ++ BitVec.ofBool w) (fR d a b 0x4)
  | .amaxn w d a b => enc e false (38#6 ++ BitVec.ofBool w) (fR d a b 0x5)
  | .aand w d a b => enc e false (38#6 ++ BitVec.ofBool w) (fR d a b 0x6)
  | .aor w d a b => enc e false (38#6 ++ BitVec.ofBool w) (fR d a b 0x7)
  | .axor w d a b => enc e false (38#6 ++ BitVec.ofBool w) (fR d a b 0x8)
  | .axchg w d a b => enc e false (38#6 ++ BitVec.ofBool w) (fR d a b 0x9)
  | .afadd w d a b => enc e false (38#6 ++ BitVec.ofBool w) (fR d a b 0xA)
  | .acas w d a b => enc e false (38#6 ++ BitVec.ofBool w) (fR d a b 0xB)
  | .fence sc o => enc e false 0x4E (0#16 ++ sc ++ o)
  | .fenceSys o => enc e false 0x4E (0#12 ++ 1#1 ++ 0#1 ++ 0#2 ++ 7#3 ++ o)
  | .fenceSysWin n o => enc e false 0x4E (n ++ 0#6 ++ 1#1 ++ 1#1 ++ 0#2 ++ 7#3 ++ o)
  | .watch d a b => enc e false 0x4F (fR d a b 0)
  | .lrun t => enc e false 0x50 t
  | .lwait g m => enc e false 0x51 (BitVec.ofBool g ++ 0#9 ++ m)
  | .xbset n a b => enc e false 0x52 (fR (n ++ 0#3) a b 0)
  | .xbclr n => enc e false 0x52 (fR (n ++ 0#3) 0 0 1)
  | .osdef n a => enc e false 0x53 (fR (n ++ 0#1) a 0 0)
  | .osend n => enc e false 0x53 (fR (n ++ 0#1) 0 0 1)
  | .trap i => enc e false 0x60 (fU 0 i)
  | .rfe => enc e false 0x61 0
  | .csrrd d c => enc e false 0x62 (fI d 0 c)
  | .csrwr d a c => enc e false 0x63 (fI d a c)
  | .csrset d a c => enc e false 0x64 (fI d a c)
  | .csrclr d a c => enc e false 0x65 (fI d a c)
  | .haltpCtx a => enc e false 0x66 (fR 0 a 0 0)
  | .haltpPart a => enc e false 0x66 (fR 0 a 0 1)
  | .preemptSus a => enc e false 0x67 (fR 0 a 0 0)
  | .preemptRes a => enc e false 0x67 (fR 0 a 0 1)
  | .injarm a b => enc e false 0x68 (fR 0 a b 0)
  | .injarmRep a b => encL e 0x68 (fR 0 a b 0) 1
  | .ckptPool a b => enc e false 0x69 (fR 0 a b 0)
  | .ckptStat d => enc e false 0x69 (fR d 0 0 1)
  | .ckptRb => enc e false 0x69 (fR 0 0 0 2)
  | .assert a b => enc e false 0x6A (fR 0 a b 0)
  | .tload d a x z => enc e false 0x70 (fR d a (x ++ 0#3) z)
  | .tloadLease d a x z c => encL e 0x70 (fR d a (x ++ 0#3) z) (0#13 ++ c)
  | .tloadTry d a x z c => encL e 0x70 (fR d a (x ++ 0#3) z) (0#12 ++ 1#1 ++ c)
  | .redeem d a => enc e false 0x71 (fR d a 0 0)
  | .redeemQ d a sq => encL e 0x71 (fR d a 0 0) (quietExt sq)
  | .redeeml d a x => enc e false 0x71 (fR d a (x ++ 0#3) 1)
  | .redeemlLanding d a => enc e false 0x71 (fR d a 4 1)
  | .redeemlQ d a x l sq => encL e 0x71 (fR d a (x ++ BitVec.ofBool l ++ 0#2) 1) (quietExt sq)
  | .tdrop a => enc e false 0x71 (fR 0 a 0 2)
  | .tdropQ a sq => encL e 0x71 (fR 0 a 0 2) (quietExt sq)
  | .tstat d a => enc e false 0x71 (fR d a 0 3)
  | .tlease d a b => enc e false 0x71 (fR d a b 4)
  | .tleaseQ d a b sq => encL e 0x71 (fR d a b 4) (quietExt sq)
  | .txbeg d => enc e false 0x72 (fR d 0 0 0)
  | .txend => enc e false 0x72 (fR 0 0 0 1)
  | .txabt a => enc e false 0x72 (fR 0 a 0 2)
  | .txstat d sel => enc e false 0x72 (fR d 0 (0#5 ++ BitVec.ofBool sel) 3)
  | _ => none

/-- The words of an engine, matrix or launch instruction (majors 0x74 to 0x78). -/
def encodeEngine (e : Bool) : Instr → Option (List W32)
  | .cpyt d a b => enc e false 0x74 (fR d a b 0)
  | .cpytExt d a b v x mz st => encL e 0x74 (fR d a b 0) (copyExt v x false (0#1 ++ BitVec.ofBool mz) 0 st)
  | .cpyl d a b => enc e false 0x74 (fR d a b 1)
  | .cpylExt d a b v x dk sk => encL e 0x74 (fR d a b 1) (copyExt v x false dk sk false)
  | .cpylRaw d a b v x => encL e 0x74 (fR d a b 1) (copyExt v x true 0 0 false)
  | .cpyf d a b => enc e false 0x74 (fR d a b 2)
  | .cpyfExt d a b v x dk => encL e 0x74 (fR d a b 2) (copyExt v x false dk 0 false)
  | .cpyg d a b => enc e false 0x74 (fR d a b 3)
  | .cpygExt d a b v x mz st => encL e 0x74 (fR d a b 3) (copyExt v x false (0#1 ++ BitVec.ofBool mz) 0 st)
  | .bseal d => enc e false 0x74 (fR d 0 0 4)
  | .bwait a => enc e false 0x74 (fR 0 a 0 5)
  | .bwaitn a => enc e false 0x74 (fR 0 a 0 6)
  | .bstat d => enc e false 0x74 (fR d 0 0 7)
  | .ksummOff a v x => encKey e (fR 0 a (0#3 ++ 0#3) 0) v x
  | .ksummBf16 a v x => encKey e (fR 0 a (1#3 ++ 0#3) 0) v x
  | .ksummE4m3 a v x => encKey e (fR 0 a (2#3 ++ 0#3) 0) v x
  | .ksummE5m2 a v x => encKey e (fR 0 a (3#3 ++ 0#3) 0) v x
  | .ksummRebuild a v x => encKey e (fR 0 a (4#3 ++ 0#3) 0) v x
  | .ksummRead d a v x => encKey e (fR d a (5#3 ++ 0#3) 0) v x
  | .kbound a v x => encKey e (fR 0 a 0 1) v x
  | .kfetch d a b v x => encKey e (fR d a b 2) v x
  | .klist d a b v x => encKey e (fR d a b 3) v x
  | .mloop a b => enc e false 0x76 (fR 0 a b 0)
  | .osub n p k w => enc e false 0x76 (fR (n ++ BitVec.ofBool p) (0#3 ++ k) w 1)
  | .accz a => enc e false 0x76 (fR 0 a 0 2)
  | .accld t a b => enc e false 0x76 (fR (0#2 ++ t) a b 3)
  | .accldTyped t a b y rm sat =>
    encL e 0x76 (fR (0#2 ++ t) a b 3) (0#16 ++ rm ++ BitVec.ofBool sat ++ y ++ 0#5)
  | .accst t a b => enc e false 0x76 (fR (0#2 ++ t) a b 4)
  | .accstTyped t a b y rm sat =>
    encL e 0x76 (fR (0#2 ++ t) a b 4) (0#16 ++ rm ++ BitVec.ofBool sat ++ y ++ 0#5)
  | .accver d t => enc e false 0x76 (fR d 0 (0#2 ++ t) 5)
  | .accverWait a t => enc e false 0x76 (fR 0 a (1#2 ++ t) 5)
  | .accverSet a t => enc e false 0x76 (fR 0 a (2#2 ++ t) 5)
  | .launch d a => enc e false 0x78 (fR d a 0 0)
  | .launchTry d a => encL e 0x78 (fR d a 0 0) 1
  | .lwaitg d a => enc e false 0x78 (fR d a 0 1)
  | .gstat d a => enc e false 0x78 (fR d a 0 2)
  | .vgrow d a => enc e false 0x78 (fR d a 0 3)
  | .vshrink d a => enc e false 0x78 (fR d a 0 4)
  | .texit => enc e false 0x78 (fR 0 0 0 5)
  | .gexit a b => enc e false 0x78 (fR 0 a b 6)
  | _ => none

/-- The words of a lead instruction with entry mark `e`; none where the instruction is no lead word. -/
def encodeLead (e : Bool) (i : Instr) : Option (List W32) :=
  (encodeCore e i).or ((encodeSys e i).or (encodeEngine e i))

/-- Class and OP of a lane slot (R72). -/
def laneKey : Instr → Option (BitVec 4 × BitVec 8)
  | .vadd => some (0x0, 0x00)
  | .vsub => some (0x0, 0x01)
  | .vmul => some (0x0, 0x02)
  | .vmulh => some (0x0, 0x03)
  | .vmad => some (0x0, 0x04)
  | .vmin => some (0x0, 0x05)
  | .vmax => some (0x0, 0x06)
  | .vabs => some (0x0, 0x07)
  | .vand => some (0x0, 0x08)
  | .vor => some (0x0, 0x09)
  | .vxor => some (0x0, 0x0A)
  | .vnot => some (0x0, 0x0B)
  | .vshl => some (0x0, 0x0C)
  | .vshr => some (0x0, 0x0D)
  | .vsar => some (0x0, 0x0E)
  | .vclz => some (0x0, 0x0F)
  | .vpopc => some (0x0, 0x10)
  | .vbfx => some (0x0, 0x11)
  | .vsel => some (0x0, 0x12)
  | .vcmp => some (0x0, 0x13)
  | .vmov => some (0x0, 0x14)
  | .vmovi => some (0x0, 0x15)
  | .vfadd => some (0x1, 0x00)
  | .vfsub => some (0x1, 0x01)
  | .vfmul => some (0x1, 0x02)
  | .vffma => some (0x1, 0x03)
  | .vfmin => some (0x1, 0x04)
  | .vfmax => some (0x1, 0x05)
  | .vfcmp => some (0x1, 0x06)
  | .vfrcp => some (0x1, 0x07)
  | .vfrsq => some (0x1, 0x08)
  | .vfsqrt => some (0x1, 0x09)
  | .vfdiv => some (0x1, 0x0A)
  | .vfexp2 => some (0x1, 0x0B)
  | .vflog2 => some (0x1, 0x0C)
  | .vfsin => some (0x1, 0x0D)
  | .vfcos => some (0x1, 0x0E)
  | .vfcvt => some (0x1, 0x0F)
  | .vfrnd => some (0x1, 0x10)
  | .vfscale => some (0x1, 0x11)
  | .vfcma => some (0x1, 0x12)
  | .vshfl => some (0x2, 0x00)
  | .vbcast => some (0x2, 0x01)
  | .vred => some (0x2, 0x02)
  | .vscan => some (0x2, 0x03)
  | .vballot => some (0x2, 0x04)
  | .vpack => some (0x2, 0x05)
  | .vunpk => some (0x2, 0x06)
  | .cend => some (0x3, 0x00)
  | .brl => some (0x3, 0x01)
  | .mark => some (0x3, 0x02)
  | .join => some (0x3, 0x03)
  | .mset => some (0x3, 0x04)
  | .mand => some (0x3, 0x05)
  | .mor => some (0x3, 0x06)
  | .mnot => some (0x3, 0x07)
  | .mcnt => some (0x3, 0x08)
  | .tbar => some (0x3, 0x09)
  | .tbarCk => some (0x3, 0x09)
  | .sbar => some (0x3, 0x0A)
  | .yield => some (0x3, 0x0B)
  | .vld => some (0x4, 0x00)
  | .vst => some (0x4, 0x01)
  | .vgath => some (0x4, 0x02)
  | .vscat => some (0x4, 0x03)
  | .vldl => some (0x4, 0x04)
  | .vstl => some (0x4, 0x05)
  | .vldm => some (0x4, 0x06)
  | .vstm => some (0x4, 0x07)
  | .xst => some (0x4, 0x08)
  | .vlda => some (0x4, 0x09)
  | .vsta => some (0x4, 0x0A)
  | .lkld => some (0x4, 0x0B)
  | .lkst => some (0x4, 0x0C)
  | .prf => some (0x4, 0x0D)
  | .vaadd => some (0x5, 0x00)
  | .vasub => some (0x5, 0x01)
  | .vamin => some (0x5, 0x02)
  | .vamax => some (0x5, 0x03)
  | .vaminn => some (0x5, 0x04)
  | .vamaxn => some (0x5, 0x05)
  | .vaand => some (0x5, 0x06)
  | .vaor => some (0x5, 0x07)
  | .vaxor => some (0x5, 0x08)
  | .vaxchg => some (0x5, 0x09)
  | .vacas => some (0x5, 0x0A)
  | .vafadd => some (0x5, 0x0B)
  | .laneFence => some (0x5, 0x10)
  | .tloadv => some (0x5, 0x20)
  | .laneRedeem => some (0x5, 0x21)
  | .laneRedeemL => some (0x5, 0x21)
  | .laneTxbeg => some (0x6, 0x00)
  | .laneTxend => some (0x6, 0x01)
  | .laneTxabt => some (0x6, 0x02)
  | .laneTxstat => some (0x6, 0x03)
  | .laneCpyt => some (0x6, 0x10)
  | .laneCpyl => some (0x6, 0x11)
  | .laneCpyf => some (0x6, 0x12)
  | .laneCpyg => some (0x6, 0x13)
  | .mma => some (0x7, 0x00)
  | .accrd => some (0x7, 0x01)
  | .accwr => some (0x7, 0x02)
  | .vconf => some (0x8, 0x00)
  | .vcomb => some (0x8, 0x01)
  | .visect => some (0x8, 0x02)
  | .vmerge => some (0x8, 0x03)
  | .vcompr => some (0x8, 0x04)
  | .vexpd => some (0x8, 0x05)
  | .idxld => some (0x8, 0x06)
  | .laneAssert => some (0x9, 0x00)
  | .vcsrrd => some (0x9, 0x01)
  | _ => none

/-- The 96 bits of a slot (R66). -/
def laneWord (cls : BitVec 4) (op : BitVec 8) (f : LaneF) : BitVec 96 :=
  cls ++ op ++ f.ty ++ f.d ++ f.a ++ f.b ++ f.c ++ f.m ++ BitVec.ofBool f.li ++ f.fl ++ BitVec.ofBool f.qa
    ++ BitVec.ofBool f.qb ++ BitVec.ofBool f.qc ++ BitVec.ofBool f.ib ++ f.rm ++ BitVec.ofBool f.sat
    ++ BitVec.ofBool f.nf ++ f.imm

/-- The 96 bits of a clause header (R74). -/
def headerWord (h : Header) : BitVec 96 :=
  15#4 ++ 0#8 ++ h.n ++ h.wt ++ BitVec.ofBool h.sav ++ h.sa ++ BitVec.ofBool h.sbv ++ h.sb ++ 0#58

/-- The 96 bits of a lane instruction with fields `f`, or of a clause header with fields `h`; none where the
instruction is no lane slot. -/
def encodeLane (f : LaneF) (h : Header) : Instr → Option (BitVec 96)
  | .clause => some (headerWord h)
  | i => (laneKey i).map fun (c, o) => laneWord c o f

/-- The 32-bit words of a slot, lowest address first (R3). -/
def slotWords (s : BitVec 96) : List W32 := [bits s 0 32, bits s 32 32, bits s 64 32]

/-- The words of a well-formed instruction, lowest address first; none for an event, which no word encodes. `e` is a
lead word's entry mark, `f` and `h` are a lane slot's or a clause header's fields. -/
def encode (e : Bool) (f : LaneF) (h : Header) (i : Instr) : Option (List W32) :=
  (encodeLead e i).or ((encodeLane f h i).map slotWords)

/-- A prefix run's word for one modifier (R57). -/
def pfxWord (e : Bool) (kind : BitVec 3) (payload : BitVec 6) : W32 :=
  3#2 ++ BitVec.ofBool e ++ kind ++ 0#20 ++ payload

/-! ## The host's check -/

/-- The instruction that the decoder reads from bits `w` of a row with `nbits` bits, the bits above being 0: a lane
slot where `nbits` is 96, else a lead word. None where a decode cause is found. -/
def decodeTableWord (nbits w : Nat) : Option Instr :=
  let w := w % 2 ^ nbits
  if nbits = 96 then
    let x := decodeLane (BitVec.ofNat 96 w)
    if x.res || x.ins == .unusedOpcode then none else some x.ins
  else
    match decodeWords [] ((List.range 5).map fun k => BitVec.ofNat 32 (w / 2 ^ (32 * k))) with
    | some x => if x.clean then some x.ins else none
    | none => none

end Sys2Proof
end

