-- ==== Sys2Proof/Machine/Bits.lean ====
section
/-! DEFINITION. Integer readings of bit patterns (spec/00_scope.md R12, R13), byte order (R3) and list helpers. -/

namespace Sys2Proof.Machine

/-- The `n`-bit value `x` read as two's complement (R13, sext). -/
def sextN (n x : Nat) : Int :=
  if x % 2 ^ n < 2 ^ (n - 1) then (x % 2 ^ n : Nat) else (x % 2 ^ n : Nat) - (2 ^ n : Nat)

/-- Keep the low `n` bits of an exact integer (R12). -/
def wrapN (n : Nat) (x : Int) : Nat := (x % (2 ^ n : Nat)).toNat

/-- `x` clamped to lo .. hi. -/
def clampI (lo hi x : Int) : Int := max lo (min hi x)

/-- The range of an `n`-bit integer type, signed or unsigned. -/
def rangeOf (signed : Bool) (n : Nat) : Int × Int :=
  if signed then (-(2 ^ (n - 1) : Nat), (2 ^ (n - 1) : Nat) - 1) else (0, (2 ^ n : Nat) - 1)

/-- Division rounded toward zero, as R90 and C give it. -/
def quotZ (a b : Int) : Int := a.tdiv b

/-- `n` little-endian bytes of a number (R3). -/
def leBytes : Nat → Nat → List Byte
  | 0, _ => []
  | n + 1, v => BitVec.ofNat 8 v :: leBytes n (v / 256)

/-- The number whose little-endian bytes are given (R3). -/
def leNat : List Byte → Nat
  | [] => 0
  | b :: bs => b.toNat + 256 * leNat bs

/-- Bits hi:lo of a number (R13). -/
def bitsN (x hi lo : Nat) : Nat := x / 2 ^ lo % 2 ^ (hi + 1 - lo)

/-- Bit i of a number. -/
def bitN (x i : Nat) : Bool := x / 2 ^ i % 2 == 1

/-- Bits hi:lo of a dword as a number. -/
def slice (w : Word) (hi lo : Nat) : Nat := bitsN w.toNat hi lo

/-- Bit i of a word set to b. -/
def setBit (w : BitVec n) (i : Nat) (b : Bool) : BitVec n :=
  if b then w ||| BitVec.ofNat n (2 ^ i) else w &&& ~~~BitVec.ofNat n (2 ^ i)

/-- Bits [hi:lo] of a word replaced by the low bits of v. -/
def setField (w : BitVec n) (hi lo v : Nat) : BitVec n :=
  BitVec.ofNat n (w.toNat - bitsN w.toNat hi lo * 2 ^ lo + v % 2 ^ (hi + 1 - lo) * 2 ^ lo)

/-- The number of bits needed to write n. -/
def bitLen (n : Nat) : Nat := if n = 0 then 0 else Nat.log2 n + 1

/-- The number of set bits among the low `w` bits. -/
def popcount (w x : Nat) : Nat := ((List.range w).filter fun i => bitN x i).length

/-- Trailing zero bits of a `w`-bit value, `w` when it is 0 (R89). -/
def ctzN (w x : Nat) : Nat := ((List.range w).find? fun i => bitN x i).getD w

/-- Leading zero bits of a `w`-bit value, `w` when it is 0 (R89). -/
def clzN (w x : Nat) : Nat := w - bitLen (x % 2 ^ w)

/-- The set lanes of a mask, ascending (R10). -/
def lanesOf (m : Mask) : List Nat := (List.range 32).filter fun l => m.getLsbD l

/-- The mask of a list of lanes. -/
def maskOf (ls : List Nat) : Mask := ls.foldl (fun m l => m ||| BitVec.ofNat 32 (2 ^ l)) 0

/-- The lowest set lane (R10). -/
def lowestLane (m : Mask) : Option Nat := (lanesOf m).head?

/-- Element i of a vector, with the first element standing in for an index out of range. -/
def vget (v : Vector α (n + 1)) (i : Nat) : α := if h : i < n + 1 then v[i] else v[0]

/-- A vector with element i replaced; unchanged for an index out of range. -/
def vset (v : Vector α n) (i : Nat) (x : α) : Vector α n := if h : i < n then v.set i x else v

/-- Every element that the test holds of, changed. -/
def mapIf (p : α → Bool) (f : α → α) (l : List α) : List α := l.map fun x => if p x then f x else x

/-- Insert by a key, before equal keys. -/
def insertBy (k : α → Nat) (x : α) : List α → List α
  | [] => [x]
  | y :: ys => if k x ≤ k y then x :: y :: ys else y :: insertBy k x ys

/-- Sort by a key, ascending, equal keys in their order. -/
def sortBy (k : α → Nat) : List α → List α
  | [] => []
  | x :: xs => insertBy k x (sortBy k xs)

/-- Chunks of n elements. -/
def chunks (n : Nat) : Nat → List α → List (List α)
  | 0, _ => []
  | k + 1, l => l.take n :: chunks n k (l.drop n)

/-- Words of a byte list, little-endian, w bytes each. -/
def wordsOf (w k : Nat) (l : List Byte) : List Nat := (chunks w k l).map leNat

end Sys2Proof.Machine
end

