-- ==== Sys2Proof/Machine/Float.lean ====
section
/-! DEFINITION. Binary floating point: values, one rounding of an exact value (spec/00_scope.md R13 round), and the
operations of spec/03_lead.md R99 to R103, which spec/04_lane_arith.md shares. -/

namespace Sys2Proof.Machine

/-- A floating-point value: NaN, an infinity, or ±m × 2^e. -/
inductive FVal where
  | nan
  | inf (neg : Bool)
  | fin (neg : Bool) (m : Nat) (e : Int)
deriving DecidableEq, Repr

/-- An IEEE 754 interchange layout: exponent and fraction widths (R11). -/
structure Fmt where
  eb : Nat
  mb : Nat
deriving DecidableEq, Repr

def Fmt.f64 : Fmt := ⟨11, 52⟩
def Fmt.f32 : Fmt := ⟨8, 23⟩
def Fmt.f16 : Fmt := ⟨5, 10⟩
def Fmt.bf16 : Fmt := ⟨8, 7⟩

/-- Width in bits. -/
def Fmt.width (f : Fmt) : Nat := 1 + f.eb + f.mb

/-- The exponent of the last place of a subnormal. -/
def Fmt.qmin (f : Fmt) : Int := 2 - (2 ^ (f.eb - 1) : Nat) - (f.mb : Nat)

/-- The pattern of +∞. -/
def Fmt.infBits (f : Fmt) : Nat := (2 ^ f.eb - 1) * 2 ^ f.mb

/-- The default NaN (R100). -/
def Fmt.nanBits (f : Fmt) : Nat := f.infBits + 2 ^ (f.mb - 1)

/-- The sign bit of a pattern. -/
def Fmt.signBit (f : Fmt) (neg : Bool) : Nat := if neg then 2 ^ (f.eb + f.mb) else 0

/-- The value of a pattern. -/
def Fmt.decode (f : Fmt) (x : Nat) : FVal :=
  let neg := bitN x (f.eb + f.mb)
  let ex := x / 2 ^ f.mb % 2 ^ f.eb
  let m := x % 2 ^ f.mb
  if ex = 2 ^ f.eb - 1 then (if m = 0 then .inf neg else .nan)
  else if ex = 0 then .fin neg m f.qmin
  else .fin neg (m + 2 ^ f.mb) (f.qmin + (ex : Int) - 1)

/-- Whether magnitude M, with remainder `rem` of 2^shift below its last place and a further `sticky` part, rounds up
in mode 0 rne, 1 rz, 2 rp, 3 rm, 4 rna (R58). -/
def roundUp (mode : Nat) (neg : Bool) (M rem shift : Nat) (sticky : Bool) : Bool :=
  let half := if shift = 0 then 1 else 2 ^ (shift - 1)
  let inexact := rem ≠ 0 || sticky
  match mode with
  | 0 => decide (half < rem) || (rem == half && shift ≠ 0 && (sticky || M % 2 == 1))
  | 1 => false
  | 2 => !neg && inexact
  | 3 => neg && inexact
  | _ => decide (half ≤ rem) && shift ≠ 0

/-- An exact magnitude m × 2^e, plus less than one unit of 2^e where `sticky`, rounded once to p bits with last place
at least 2^qmin: the rounded magnitude and its last place. -/
def roundMag (p : Nat) (qmin : Int) (mode : Nat) (neg : Bool) (m : Nat) (e : Int) (sticky : Bool) : Nat × Int :=
  let q := max (e + (bitLen m : Int) - (p : Int)) qmin
  let sh := (q - e).toNat
  if q ≤ e then
    let M := m * 2 ^ (e - q).toNat
    (if roundUp mode neg M 0 0 sticky then M + 1 else M, q)
  else
    let M := m / 2 ^ sh
    (if roundUp mode neg M (m % 2 ^ sh) sh sticky then M + 1 else M, q)

/-- The pattern that overflow gives: ∞, or the largest finite value where the mode rounds away from ∞. -/
def Fmt.overflow (f : Fmt) (mode : Nat) (neg : Bool) : Nat :=
  f.signBit neg +
    (match mode, neg with
     | 1, _ => f.infBits - 1
     | 2, true => f.infBits - 1
     | 3, false => f.infBits - 1
     | _, _ => f.infBits)

/-- Round an exact value to a pattern (R13). A zero keeps its sign. -/
def Fmt.roundFin (f : Fmt) (mode : Nat) (neg : Bool) (m : Nat) (e : Int) (sticky : Bool) : Nat :=
  let r := roundMag (f.mb + 1) f.qmin mode neg m e sticky
  let b := (r.2 - f.qmin).toNat * 2 ^ f.mb + r.1
  if r.1 = 0 then f.signBit neg
  else if f.infBits ≤ b then f.overflow mode neg
  else f.signBit neg + b

/-- Encode any value with one rounding. -/
def Fmt.encode (f : Fmt) (mode : Nat) : FVal → Nat
  | .nan => f.nanBits
  | .inf neg => f.signBit neg + f.infBits
  | .fin neg m e => f.roundFin mode neg m e false

/-- The sign of an exact zero sum of non-zero parts, or of zeros of unlike sign: − in mode rm only (R101). -/
def zeroNeg (mode : Nat) : Bool := mode == 3

/-- A signed integer at a scale as a value; zero takes the given sign. -/
def FVal.ofInt (x : Int) (e : Int) (zneg : Bool) : FVal :=
  if x = 0 then .fin zneg 0 0 else .fin (decide (x < 0)) x.natAbs e

/-- The signed integer of a finite value at a scale not above its own. -/
def scaledInt (neg : Bool) (m : Nat) (e e0 : Int) : Int :=
  let x : Int := (m * 2 ^ (e - e0).toNat : Nat)
  if neg then -x else x

/-- Exact sum; ∞ − ∞ and NaN give NaN (R101). -/
def FVal.add (mode : Nat) : FVal → FVal → FVal
  | .nan, _ => .nan
  | _, .nan => .nan
  | .inf a, .inf b => if a = b then .inf a else .nan
  | .inf a, _ => .inf a
  | _, .inf b => .inf b
  | .fin n1 m1 e1, .fin n2 m2 e2 =>
    let e := min e1 e2
    let zneg := if m1 = 0 ∧ m2 = 0 ∧ n1 = n2 then n1 else zeroNeg mode
    FVal.ofInt (scaledInt n1 m1 e1 e + scaledInt n2 m2 e2 e) e zneg

/-- The value with its sign flipped. -/
def FVal.neg : FVal → FVal
  | .nan => .nan
  | .inf n => .inf !n
  | .fin n m e => .fin (!n) m e

/-- Exact product; 0 × ∞ and NaN give NaN (R101). -/
def FVal.mul : FVal → FVal → FVal
  | .nan, _ => .nan
  | _, .nan => .nan
  | .inf a, .inf b => .inf (a != b)
  | .inf a, .fin n m _ => if m = 0 then .nan else .inf (a != n)
  | .fin n m _, .inf b => if m = 0 then .nan else .inf (n != b)
  | .fin n1 m1 e1, .fin n2 m2 e2 => .fin (n1 != n2) (m1 * m2) (e1 + e2)

/-- Quotient rounded once (R101). -/
def Fmt.div (f : Fmt) (mode : Nat) : FVal → FVal → Nat
  | .nan, _ => f.nanBits
  | _, .nan => f.nanBits
  | .inf _, .inf _ => f.nanBits
  | .inf a, .fin n _ _ => f.encode mode (.inf (a != n))
  | .fin n _ _, .inf b => f.signBit (n != b)
  | .fin n1 m1 e1, .fin n2 m2 e2 =>
    if m2 = 0 then (if m1 = 0 then f.nanBits else f.encode mode (.inf (n1 != n2)))
    else if m1 = 0 then f.signBit (n1 != n2)
    else
      let k := f.mb + 4 + bitLen m2
      let x := m1 * 2 ^ k
      f.roundFin mode (n1 != n2) (x / m2) (e1 - e2 - (k : Int)) (x % m2 != 0)

/-- ⌊√n⌋, bit by bit from the highest. -/
def isqrt (n : Nat) : Nat :=
  (List.range (bitLen n / 2 + 1)).reverse.foldl (fun r i => if (r + 2 ^ i) * (r + 2 ^ i) ≤ n then r + 2 ^ i else r) 0

/-- Square root rounded once; below zero it is NaN, √(−0) is −0 (R101). -/
def Fmt.sqrt (f : Fmt) (mode : Nat) : FVal → Nat
  | .nan => f.nanBits
  | .inf neg => if neg then f.nanBits else f.infBits
  | .fin neg m e =>
    if m = 0 then f.signBit neg
    else if neg then f.nanBits
    else
      let k := 2 * (f.mb + 3) + (e % 2).toNat
      let x := m * 2 ^ k
      let r := isqrt x
      f.roundFin mode false r ((e - (k : Int)) / 2) (r * r != x)

/-- A × B + C with one rounding (R101). -/
def Fmt.fma (f : Fmt) (mode : Nat) (a b c : FVal) : Nat := f.encode mode ((a.mul b).add mode c)

/-- Order of two values that are no NaN: −1, 0 or 1, with +0 = −0. -/
def FVal.cmp : FVal → FVal → Int
  | .inf a, .inf b => (if a then -1 else 1) - (if b then -1 else 1)
  | .inf a, _ => if a then -1 else 1
  | _, .inf b => if b then 1 else -1
  | .fin n1 m1 e1, .fin n2 m2 e2 =>
    let e := min e1 e2
    let x := scaledInt n1 m1 e1 e
    let y := scaledInt n2 m2 e2 e
    if x < y then -1 else if x = y then 0 else 1
  | _, _ => 0

/-- The value is a NaN. -/
def FVal.isNan : FVal → Bool
  | .nan => true
  | _ => false

/-- The value's sign; false for a NaN. -/
def FVal.isNeg : FVal → Bool
  | .nan => false
  | .inf n => n
  | .fin n _ _ => n

/-- FCMP.eq, .lt, .le (R102): false when either is a NaN. -/
def FVal.eq (a b : FVal) : Bool := !a.isNan && !b.isNan && a.cmp b == 0
def FVal.lt (a b : FVal) : Bool := !a.isNan && !b.isNan && decide (a.cmp b < 0)
def FVal.le (a b : FVal) : Bool := !a.isNan && !b.isNan && decide (a.cmp b ≤ 0)

/-- FMIN or FMAX on two patterns (R102): −0 below +0; one NaN gives the other operand; two give the default NaN. -/
def Fmt.minmax (f : Fmt) (wantMax : Bool) (x y : Nat) : Nat :=
  let a := f.decode x
  let b := f.decode y
  if a.isNan then (if b.isNan then f.nanBits else y)
  else if b.isNan then x
  else
    let c := a.cmp b
    let xLess := decide (c < 0) || (c == 0 && a.isNeg && !b.isNeg)
    if xLess != wantMax then x else y

/-- A finite value rounded to an integer in a mode (R103). -/
def roundInt (mode : Nat) (neg : Bool) (m : Nat) (e : Int) : Int :=
  let M :=
    if 0 ≤ e then m * 2 ^ e.toNat
    else
      let sh := (-e).toNat
      let M := m / 2 ^ sh
      if roundUp mode neg M (m % 2 ^ sh) sh false then M + 1 else M
  if neg then -(M : Int) else M

/-- Conversion of a value to an integer type (R103): `sat` clamps, else the integer wraps; ±∞ and NaN give 0, and
under `sat` an infinity gives the end of the range. -/
def toIntType (mode : Nat) (sat signed : Bool) (n : Nat) : FVal → Nat
  | .nan => 0
  | .inf neg => if sat then wrapN n (if neg then (rangeOf signed n).1 else (rangeOf signed n).2) else 0
  | .fin neg m e =>
    let y := roundInt mode neg m e
    wrapN n (if sat then clampI (rangeOf signed n).1 (rangeOf signed n).2 y else y)

/-- An exact integer rounded to a format (R103). -/
def Fmt.ofInt (f : Fmt) (mode : Nat) (x : Int) : Nat := f.encode mode (FVal.ofInt x 0 false)

end Sys2Proof.Machine
end

