-- ==== Sys2Proof/Config.lean ====
section
/-! DEFINITION. What an implementation of the VK3 fixes and the manual does not state. An `opaque` constant has no
body: no proof can learn a value of it, so a claim holds whatever the part does. Each is named in the assumption log. -/

namespace Sys2Proof.Config

/-- The reset vector of every host core (spec/18_outside.md R495 names it, gives no value). DESIGN CHOICE 0; unsafe,
log entry 2. -/
def resetVector : Word := 0

/-- The core-side L2 slice of a line on a die (spec/01_machine.md R29: a hash of the physical address fixed at
reset). A free value, log entry 8. -/
opaque l2Slice : (die pa : Nat) → Nat

/-- The HBM4 channel, 0 to 31, of a 16 KiB block, by its address bits [35:14] (spec/18_outside.md R480). A free value, log entry 8. -/
opaque hbmChannel : (block : Nat) → BitVec 5

/-- The LPDDR-6 slice, 0 to 31, of a 16 KiB block, by its address bits [39:14] (spec/18_outside.md R480). A free value, log entry 8. -/
opaque lpddrSlice : (block : Nat) → BitVec 5

/-- The two hash functions of a host transaction's signatures (spec/09_transactions.md R280). Free values, log
entry 8. -/
opaque sigHashA : (line : Nat) → BitVec 10

@[inherit_doc sigHashA] opaque sigHashB : (line : Nat) → BitVec 10

/-- The hash of row `row` of a hotness sketch (spec/18_outside.md R493). A free value, log entry 8. -/
opaque hotHash : (row frame : Nat) → BitVec 12

/-- The host core to which a message vector of a port is routed where no entry says otherwise (spec/18_outside.md R479
names the routing entry and no way to write it). A free value, log entry 8. -/
opaque msixRoute : (port vec : Nat) → BitVec 6

/-- The row of a memory line within its channel or slice (spec/17_protection.md R474 scrubs by rows and does not say which
lines one holds). A free value, log entry 8. -/
opaque memRow : (line : Nat) → Nat

/-- The sectors that a line's 256 bytes take compressed, 1 to 3, or 0 where compression does not fit fewer than four
(spec/18_outside.md R491 names no code). A free value, log entry 9. -/
opaque lineSectors : (bytes : List Byte) → BitVec 2

/-- Which entry a full TLB gives up for a new one (spec/06_memory.md R189 gives the sizes alone). A free value, log entry
8. -/
opaque tlbVictim : (va : Nat) → Nat

/-- A value the manual calls undefined, numbered by the counter `State.free` (spec/16_traps.md R459, R461). -/
opaque freeByte : Nat → Byte

end Sys2Proof.Config
end

