-- ==== Sys2Proof/Machine/State.lean ====
section
/-! DEFINITION. The state of a VK3 package as plain data, and its value after reset. INVENTORY.md lists every piece
with the rule that names it and its reset value. Nothing here computes; the operations stand in Machine/Ops.lean. -/

namespace Sys2Proof.Machine

open Sys2Proof

/-- Why a step can stop with a fault. The manual gives every instruction an effect, so the one reason is the model's
own. -/
inductive Fault where
  /-- `Machine.step` raises it when `State.agenda` names as an event a row that is an instruction word or a lane slot:
  no hardware does that. Safe: nothing is claimed of such an agenda. -/
  | notAnEvent
deriving DecidableEq, Repr

/-- Why an instruction can have no meaning. -/
inductive Refusal where
  /-- Raised by an arm of `Machine.exec` for an instruction not modelled yet. Safe. -/
  | notModelled (mnemonic : String)
deriving DecidableEq, Repr

/-- Bytes by address in one canonical form: addresses strictly rising, no byte equal to 0, which is what an unlisted
address reads as. -/
abbrev Mem := List Host.Cell

/-- A translation register (spec/03_lead.md R113). `ctx`, the model's own, is the context whose translation it holds, by
which an invalidation finds it (R115). -/
structure Xb where
  base : Word
  limit : Word
  frame : Word
  span : BitVec 40
  key : Byte
  psize : BitVec 4
  v : Bool
  comp : Bool
  sup : Bool
  wr : Bool
  rd : Bool
  ctx : Nat
deriving DecidableEq, Repr

/-- All fields 0, V = 0 (R112 XBCLR, R406). -/
def Xb.zero : Xb := ⟨0, 0, 0, 0, 0, 0, false, false, false, false, false, 0⟩

/-- What the fetch of the instruction being executed found (R51 to R61): the address of its first word, the address
after its last word, the payloads of its leading modifier words, and the latched fields of a lane slot or clause
header. A field of the model's own, log entry 6. -/
structure Issue where
  pc : Word
  next : Word
  rnd : Option (BitVec 3)
  sat : Option (BitVec 2)
  ord : Option (BitVec 6)
  slot : LaneF
  hdr : Header
deriving DecidableEq, Repr

/-- A lead transaction (spec/09_transactions.md R262, R267, R275, R285 to R288). `rlog` holds the bytes read with the
values read, by physical address; `wbuf` the buffered bytes, latest first; `keys` the encryption key of each line
touched, with whether its page is compressed (spec/18_outside.md R491); `ran` the core clocks that the attempt has run since it
began or was last validated (R284). -/
structure Tx where
  active : Bool
  d : Reg
  resume : Word
  aborts : Nat
  fb : Bool
  snapS : Vector Word 64
  snapXb : Vector Xb 8
  rlog : List (Nat × Byte)
  wbuf : List (Nat × Byte)
  keys : List (Nat × Nat × Bool)
  doomed : Bool
  ran : Nat
deriving DecidableEq, Repr

/-- Where one lane stands in its transaction (R271, R272). -/
inductive LtSt where
  | idle | running | await | held
deriving DecidableEq, Repr

/-- One lane's transaction with its record (R271 to R274), and the core clocks that its attempt has run (R284). -/
structure LaneTx where
  st : LtSt
  restart : Nat
  cont : Nat
  d : Nat
  f : Nat
  n : Nat
  expect : Mask
  aborts : Nat
  fb : Bool
  snap : List W32
  snapM : BitVec 16
  rlog : List (Nat × Byte)
  wbuf : List (Nat × Byte)
  keys : List (Nat × Nat × Bool)
  doomed : Bool
  status : W32
  last : W32
  lastCommit : Nat
  ran : Nat
deriving DecidableEq, Repr

/-- One entry of an operand queue (R119, R121): a word for each lane, or a fault mark with its address. `elem` is the
element's number in its stream. -/
structure QEntry where
  words : Vector W32 32
  fault : Option (Nat × Word)
  elem : Nat
deriving DecidableEq, Repr

/-- A queued run (R108, R109, R340): the slot LRUN named and what LRUN captured. -/
structure Run where
  slot : Nat
  xb : Vector Xb 8
  mfb : Word
deriving DecidableEq, Repr

/-- What a fragment is doing (R160, R163, R167, R272). -/
inductive FragSt where
  | runnable | teamBar (n : Nat) (ck : Bool) | squadBar (n : Nat)
deriving DecidableEq, Repr

/-- A fragment (R160, R166): `live` or spilled, `since` the stamp at which its last clause ended (R165). -/
structure Frag where
  mask : Mask
  pc : Nat
  st : FragSt
  age : Nat
  live : Bool
  since : Nat
deriving DecidableEq, Repr

/-- A split-stack entry (R162, R163, R166). -/
structure Split where
  expect : Mask
  arrived : Mask
  rejoin : Nat
  seq : Nat
deriving DecidableEq, Repr

/-- The clause in progress (R75, R152, R153): the fragment's age, the header's slot, the number of instructions and
their slots as fetched, how many have issued, and the header's two flags (R74). `kept` holds the queue entries that a
trapping execution popped and its re-execution reads again (R191); `stall` the register for which the next instruction was
found waiting, the result of a matrix operation that waits for a version (R453), or 256 at an ASSERT of the lanes that failed
(R443). -/
structure Clause where
  age : Nat
  hdr : Nat
  n : Nat
  code : List (BitVec 96)
  pos : Nat
  fa : Option Nat
  fb : Option Nat
  kept : List (Nat × List QEntry)
  stall : Option Nat
deriving DecidableEq, Repr

/-- The lane control state that a handler run has of its own (R434): the queue of runs, whether its first has started,
the fragments, the split stack, the clause in progress, the spilled fragments with the last spilled first, and the lanes
that the next instruction leaves out (R435). -/
structure LaneRuns where
  runs : List Run
  running : Bool
  frags : List Frag
  split : List Split
  cur : Option Clause
  reload : List Nat
  skip : Mask
deriving DecidableEq, Repr

/-- A lane operation whose completion is outstanding (R154, R193, R222): the flag it counts in and the number that its
accepted writes carry until they are performed, or its claimed entries until they are delivered. `home`: its writes must
be performed beyond their die; `handler`: a handler's run issued it (R434). -/
structure Outst where
  flag : Nat
  op : Nat
  home : Bool
  handler : Bool
deriving DecidableEq, Repr

/-- The lane half of a group (R7, R151 to R166, R426). `promoted`, `ready` and `readyFor` are of the lead stage and of the lane
stage (spec/15_launch.md R411): whether the group is promoted there, whether it was ready there when clocks last passed, and
for how many core clocks it has been ready without issuing. -/
structure Lanes where
  v : Vector (Vector W32 32) 256
  count : Nat
  m : Vector Mask 16
  live : Mask
  w : Vector Nat 12
  q : Vector (List QEntry) 8
  run : LaneRuns
  held : Option LaneRuns
  nextAge : Nat
  nextSeq : Nat
  stamp : Nat
  lpc : BitVec 22
  faultmask : Mask
  fragmask : Mask
  skipmask : Mask
  mfb : Word
  osfault : Word
  vcause : Vector Byte 32
  vfault : Vector Word 32
  locker : Mem
  tx : Vector LaneTx 32
  outst : List Outst
  grow : Option (Nat × Nat)
  busy : Nat
  promoted : Bool × Bool
  ready : Bool × Bool
  readyFor : Nat × Nat
deriving DecidableEq, Repr

/-- A sealed batch (R309, R312): its number, its operations, and the first poisoned source if it is marked. -/
structure Batch where
  no : Nat
  ops : List Nat
  mark : Option Word
deriving DecidableEq, Repr

/-- What a runner waits for outside its own stream: a redemption's bytes (R220), an answer from beyond the package
(R482, R488), a change of a watched word (R256), or, before its handler starts, the arrival of its group's writes (R433). -/
inductive Wait where
  | none
  | redeem
  | answer
  | timedOut
  | watch
  | drain
deriving DecidableEq, Repr

/-- A runner: a host core, or a group with its lane half. `entry`: the next fetch is its first, at ENTRY, and checks E
(spec/15_launch.md R406). `asserted`: it stands past an ASSERT that failed, until its state is saved (R443). `code`: the
code words that a group's core has cached, by physical address (R50). `upset`: the shadow lanes of a protected group differ
from the primary ones (spec/17_protection.md R464). `txHeld`: lead transactions set aside, by their context (R290). -/
structure Runner where
  id : RunnerId
  s : Vector Word 64
  xb : Vector Xb 8
  pc : Word
  status : Word
  cause : Byte
  epc : Word
  faultaddr : Word
  sscr0 : Word
  sscr1 : Word
  txretry : Word
  tvec : Word
  slsel : Word
  ctx : Nat
  part : Nat
  core : Nat
  slot : Nat
  stopped : Bool
  ints : List Word
  sealed : Nat
  openOps : List Nat
  openMark : Option Word
  batches : List Batch
  tx : Tx
  lastTx : W32
  lastCommit : Nat
  wait : Wait
  grid : Word
  team : Nat
  gno : Nat
  placed : Nat
  ownCore : Nat
  ownSlot : Nat
  entry : Bool
  asserted : Bool
  code : List (Nat × W32)
  upset : Bool
  txHeld : List (Nat × Tx)
  l : Lanes
deriving DecidableEq, Repr

/-- A write accepted by its issuer and not yet at home (spec/08_ordering.md R237). Until it is `seen` it is performed for
its own group alone; then on its die. `op` numbers the lane instruction that stored it where a flag waits for it (R193); 0
otherwise. `comp`: its page is compressed (spec/18_outside.md R491). `part` is its issuer's partition; `sc`: its order is sc
(R241). -/
structure PWrite where
  die : Nat
  who : RunnerId
  lane : Bool
  op : Nat
  addr : Nat
  bytes : List Byte
  key : Nat
  comp : Bool
  part : Nat
  sc : Bool
  seen : Bool
deriving DecidableEq, Repr

/-- Under which key and tweak a 256-byte line was last stored (spec/18_outside.md R492). -/
structure LineTag where
  line : Nat
  key : Nat
  tweak : Nat
deriving DecidableEq, Repr

/-- A write that has reached a port, for a stream window, and is not performed in whole (spec/18_outside.md R486, R487): its
port, its window, the address of its first byte not yet performed, the key of the window, its bytes from there on. -/
structure Landed where
  port : Nat
  window : Nat
  pa : Nat
  key : Nat
  bytes : List Byte
deriving DecidableEq, Repr

/-- A TLB (spec/06_memory.md R189): a compute core's, a host core's, or the one that a hall or the host die shares. -/
inductive TlbAt where
  | core (n : Nat)
  | host (n : Nat)
  | hall (n : Nat)
  | hostDie
deriving DecidableEq, Repr

/-- A TLB entry (spec/06_memory.md R189): the TLB that holds it, context, page base, size code, the leaf and where it
lies. -/
structure Tlb where
  place : TlbAt
  ctx : Nat
  va : Nat
  size : Nat
  pte : Word
  pteAddr : Nat
deriving DecidableEq, Repr

/-- A context (spec/16_traps.md R426, R429), with its checkpoint pool (R470). `ending`: its end is not yet reported
complete (R437); `asserted`: a failed ASSERT suspended it (R443); `noteDue`: the notice of a failed ASSERT goes out when its squads are saved (R443). -/
structure Ctx where
  id : Nat
  tldef : Word
  trecl : Word
  tvec : Word
  slcbase : Word
  tkey : Word
  ptroot : Word
  atrbase : Word
  atrlim : Word
  lcbase : Word
  slotbase : Word
  dbgrec : Word
  notify : Word
  suspended : Bool
  asserted : Bool
  ending : Bool
  asserts : Nat
  noteDue : Bool
  poolBase : Nat
  poolSize : Nat
deriving DecidableEq, Repr

/-- A registered range (spec/08_ordering.md R258): physical bytes `lo` to `hi - 1` of memory. -/
structure Range where
  lo : Nat
  hi : Nat
  dst : Bool
  op : Nat
deriving DecidableEq, Repr

/-- A registered landing range (R258), by offset in a team's landing. -/
structure LRange where
  team : Nat
  lo : Nat
  hi : Nat
  dst : Bool
  op : Nat
deriving DecidableEq, Repr

/-- A halt in progress or done (spec/16_traps.md R446 to R449): what raised it, when in core and in fabric clocks, which
engines have acknowledged or are blocked. `own`: an engine raised it, whose number `origin` is; a host core or a reset is
none. -/
structure Halt where
  origin : Nat
  cause : Nat
  addr : Word
  pc : Word
  lpc : Nat
  lanes : Mask
  ctx : Nat
  gslot : Nat
  since : Nat
  sinceFabric : Nat
  own : Bool
  acked : List Nat
  blocked : List Nat
  collected : Bool
deriving DecidableEq, Repr

/-- A partition (spec/01_machine.md R46): its halls and host units, its CSRs, its range-lock table, its scheduler's
turn and reservation (spec/15_launch.md R409), its halt, and the generation of cloakroom entries of its share not used
since its last reset (R475). -/
structure Part where
  no : Nat
  halls : List Nat
  units : Nat
  stopbase : Word
  haltstat : Word
  qwgt : Vector Word 64
  ranges : List Range
  turn : Vector (Nat × Nat) 4
  reserve : List (Nat × Nat)
  halt : Option Halt
  resets : BitVec 16
deriving DecidableEq, Repr

/-- A live grid (spec/15_launch.md R398 to R418). `done` and `preds` are the physical address and key of its completion
word and of its predecessors' words, `doneComp` whether the page of the first is compressed. `code`: code words that a core's
cache may hold from a moment since the grid was placed (spec/02_encoding.md R50). -/
structure Grid where
  handle : Word
  ctx : Nat
  part : Nat
  entry : Word
  laneBase : Word
  args : Word
  x : Nat
  y : Nat
  z : Nat
  groups : Nat
  regs : Nat
  squad : Nat
  acc : Nat
  landing : Nat
  exch : Nat
  lswz : BitVec 24
  queue : Nat
  prio : Nat
  done : Nat × Nat
  doneComp : Bool
  preds : List (Nat × Nat)
  producer : Word
  runany : Bool
  contain : Bool
  ckpt : Bool
  prot : Bool
  shape0 : Nat
  masked : Bool
  depth : Nat
  parent : Option Word
  ready : Bool
  nextSquad : Nat
  ended : Nat
  stop : Option (Nat × Nat)
  unplacedSince : Nat
  code : List (Nat × W32)
deriving DecidableEq, Repr

/-- A team's checkpoint (spec/17_protection.md R466 to R471): the space it holds in the pool, the flags of R471, and
the parts of the image whose bytes R468 does not lay out. `back`: the group whose error has asked for a roll back that waits
for the team's groups to reach their points (R469, R452). -/
structure Ckpt where
  base : Nat
  half : Nat
  clean : Bool
  buf : Bool
  seq : Nat
  back : Option RunnerId
deriving DecidableEq, Repr

/-- A resident or saved team (R400, R406). `exited`: its exit is counted at its grid (R361, R417). `land` and `shadow` hold bytes by physical position in the team's rows
(R178, R182); `acc` the tiles' bytes, slot (r, c) of tile t at 65536 t + 512 r + 4 c (R461). `ownRec`, `ownOps`,
`ownStreams` and `ownSnap` number the team record, saved-operation entries, stream records and KiB of snapshots that it owns
in its core slot (R458). -/
structure Team where
  uid : Nat
  grid : Word
  ctx : Nat
  no : Nat
  x : Nat
  y : Nat
  z : Nat
  squad : Nat
  sidx : Nat
  core : Nat
  len : Nat
  exch : Nat
  lswz : BitVec 24
  land : Mem
  shadow : Mem
  tiles : Nat
  acc : Mem
  vers : Vector Nat 16
  ck : Option Ckpt
  groups : Nat
  exited : Bool
  row : Nat
  tile0 : Nat
  ownCore : Nat
  ownRow : Nat
  ownTile : Nat
  ownRec : Nat
  ownOps : List Nat
  ownStreams : List Nat
  ownSnap : List Nat
deriving DecidableEq, Repr

/-- A resident squad (R400, R410), and whether a pre-emption of it is in progress (R454). -/
structure Squad where
  uid : Nat
  grid : Word
  ctx : Nat
  part : Nat
  no : Nat
  gal : Nat
  teams : List Nat
  leaving : Bool
  order : Nat
deriving DecidableEq, Repr

/-- An affine loop nest (spec/03_lead.md R117, R119; spec/12_matrix.md R343 to R347), of a name that its squad owns until
OSEND (R122). `full`: its n subscribers have subscribed (R345); `ended`: its last element has been consumed (R119, R347).
`ctx`, `part`, `core` and `sup` are its definer's, and stay when that group has exited (R122). `raised`: the group has taken the
fault's trap and its handler has not returned (R346). -/
structure Stream where
  gal : Nat
  os : Nat
  squad : Nat
  owner : RunnerId
  ctx : Nat
  part : Nat
  core : Nat
  sup : Bool
  desc : Vector Word 8
  xb : Xb
  next : Nat
  nsub : Option Nat
  fault : Option (Nat × Word)
  full : Bool
  ended : Bool
  raised : Bool
deriving DecidableEq, Repr

/-- A subscription of a core's port (R343 to R347): elements offered, bytes waiting, bytes consumed. -/
structure Sub where
  core : Nat
  port : Bool
  gal : Nat
  os : Nat
  window : Nat
  got : Nat
  buf : List Byte
  used : Nat
deriving DecidableEq, Repr

/-- The work of a matrix operation (spec/12_matrix.md). `modes` are the swizzle modes in force at issue; `rows` and `cols`
count the tiles of an MLOOP's region, `step` its K steps done, `pa` and `pb` the bytes of its next slabs that its core has
taken from the ports (R350). -/
inductive MKind where
  | mma (f64 : Bool) (fb : Word) (init : Bool) (modes : BitVec 24) (a b : List Byte)
  | mloop (f64 : Bool) (fb : Word) (init : Bool) (modes : BitVec 24) (rows cols kch step : Nat)
      (pa pb : List Byte)
  | accz
  | accld (o pitch : Nat) (ty : BitVec 4) (lswz : BitVec 24)
  | accst (o pitch : Nat) (ty : BitVec 4) (rm : BitVec 3) (sat : Bool) (lswz : BitVec 24)
  | accrd (row : Nat) (f64 : Bool) (reg : Nat) (mask : Mask)
  | accwr (row : Nat) (f64 : Bool) (mask : Mask) (data : List (Vector W32 32))
deriving DecidableEq, Repr

/-- A queued or running matrix operation (R335 to R338); `handler`: a handler's run issued it (R434); `fixed`: the scale bytes
that it reads, by physical position, as a barrier that it precedes found them (R326, R169). -/
structure MOp where
  core : Nat
  team : Nat
  who : RunnerId
  kind : MKind
  tile : Nat
  tiles : List Nat
  ver : Nat
  flag : Option Nat
  running : Bool
  handler : Bool
  fixed : List (Nat × Byte)
deriving DecidableEq, Repr

/-- Where the bytes of a claimed entry go (R220 to R222): a lead register; memory, as pieces of (physical address,
length, key slot, whether the page is compressed); a team's landing under the swizzle modes in force at issue (R180); or a lane, with whether a handler's run issued it (R434) and the number that
the instruction's flag waits for. A lead form names its status register and the address after itself. -/
inductive Deliver where
  | reg (d : Reg) (sq : Option Reg) (next : Word)
  | mem (pieces : List (Nat × Nat × Nat × Bool)) (sq : Option Reg) (next : Word)
  | land (team off : Nat) (modes : BitVec 24) (sq : Option Reg) (next : Word)
  | laneReg (handler : Bool) (op lane d : Nat)
  | laneLand (handler : Bool) (op lane team off : Nat) (modes : BitVec 24)
deriving DecidableEq, Repr

/-- The state of a cloakroom entry (spec/07_tickets.md R207). -/
inductive CSt where
  | free | pending | ready | claimed | spent
deriving DecidableEq, Repr

/-- A cloakroom entry (R205 to R213). `lease` counts down to 0; none never runs out. `src` is where its bytes come
from, with the key of the page; `sc`: its order is sc (R230); `lines` are 256-byte lines read before the rest (R228); `late` is the size of data still in flight
for an entry dropped or reclaimed before they arrived. -/
structure Cloak where
  id : EntryId
  st : CSt
  gen : BitVec 16
  ctx : Nat
  part : Nat
  size : Nat
  lease : Option Nat
  poison : Bool
  src : Nat
  key : Nat
  die : Nat
  who : RunnerId
  performed : Bool
  sc : Bool
  data : List Byte
  lines : List (Nat × List Byte)
  late : Option Nat
  spentAt : Nat
  take : Option (RunnerId × Deliver)
deriving DecidableEq, Repr

/-- A place of bytes that an engine moves: memory under a page's key, compressed or not (spec/18_outside.md R491), or a team's landing under the swizzle modes in
force at issue (spec/10_porters.md R302). -/
inductive Loc where
  | mem (pa key : Nat) (comp : Bool)
  | land (team off : Nat) (modes : BitVec 24)
deriving DecidableEq, Repr

/-- Where an engine takes the bytes it writes; `got` are bytes of a place that it has read already, each with whether it came
from a poisoned unit (spec/08_ordering.md R245). -/
inductive Src where
  | loc (l : Loc)
  | got (bs : List (Byte × Bool))
  | pat (p : Word)
  | zero
deriving DecidableEq, Repr

/-- One contiguous move of an operation. -/
structure Move where
  dst : Loc
  src : Src
  len : Nat
deriving DecidableEq, Repr

/-- The work of an engine operation (10_porters.md, 14_attention.md). A `raw` copy moves stored lines. `src` of a fetch
are the pieces of its `cnt` pages not yet read, `got` the bytes read, each with whether it came from a poisoned unit; `build`, `off` and `read` name a 16 KiB block; `bound` holds the list's header, the query as
FP32 patterns, the listed pages with their blocks and the bounds found so far; `list` merges the entries of two lists.
The places of lists are pieces in address order. -/
inductive EKind where
  | copy (moves : List Move) (raw : Bool)
  | fetch (e8 frag vals : Bool) (cnt : Nat) (src : List (Loc × Nat)) (got : List (Byte × Bool)) (dst : Loc)
  | build (block fmt key : Nat)
  | off (block : Nat)
  | read (block : Nat) (dst : List (Loc × Nat))
  | bound (header : List Byte) (query : List W32) (pages : List (Word × Nat)) (done : List (Nat × W32))
      (dst : List (Loc × Nat))
  | list (ha hb : List Byte) (a b dst : List (Loc × Nat))
deriving DecidableEq, Repr

/-- An operation of a porter, an usher or KFETCH (R293, R384); `hit` is the first poisoned unit that the part already done
consumed (R312). -/
structure EngOp where
  no : Nat
  who : RunnerId
  grid : Word
  team : Nat
  ctx : Nat
  part : Nat
  porter : Option Nat
  usher : Nat
  die : Nat
  started : Bool
  hit : Option Word
  kind : EKind
deriving DecidableEq, Repr

/-- A key-page mark with its summary (spec/14_attention.md R377 to R381): 128 pairs MIN, MAX of BF16 codes, an open
channel holding 0x7FC0 twice; the summary that a build in progress gathers; `build`, the number of the operation that
marked it or last changed its format; the partition that its mark counts against. -/
structure KPage where
  block : Nat
  build : Nat
  part : Nat
  fmt : Nat
  sum : Vector (BitVec 16 × BitVec 16) 128
  next : Option (Vector (BitVec 16 × BitVec 16) 128)
deriving DecidableEq, Repr

/-- A hotness controller (spec/18_outside.md R493). -/
structure Hot where
  ctl : Word
  base : Word
  sketch : List (Nat × Nat)
  list : List (Nat × Nat)
deriving DecidableEq, Repr

/-- The device register block (spec/18_outside.md R483). -/
structure Dev where
  portctl : Vector Word 4
  badaddr : Word
  peerdrop : Word
  wbase : Vector Word 64
  wctl : Vector Word 64
  keyStage : List (Nat × Word)
  keys : List (Nat × Nat)
  stretch : Vector Word 6
  linkerr : Vector Word 20
  recover : Word
  notice : Word
  hot : Vector Hot 13
deriving DecidableEq, Repr

/-- A link injector (spec/17_protection.md R472, R473). -/
structure Injector where
  link : Nat
  dir : Bool
  n : Nat
  act : Nat
  lane : Nat
  arg : Word
  rep : Bool
deriving DecidableEq, Repr

/-- Whose access beyond the package it is: an instruction's of one of the runner's two streams, a ticketed load, an engine
operation, an operand stream, a grid's completion word, or a fetch of code. -/
inductive Asker where
  | instr (lane : Bool)
  | ticket (e : EntryId)
  | op (n : Nat)
  | stream (gal os : Nat)
  | grid (h : Word)
  | code
deriving DecidableEq, Repr

/-- An access beyond the package to one aligned 8-byte unit: a write of `bytes` at `pa` that its target has not accepted, or
a read of the unit at `pa` with its answer when it has come, `lost` where no package answered in time (R482, R488). `op` numbers the lane instruction whose flag waits
for it (R193), `grid` is its issuer's grid, `key` and `comp` are of the page that a write goes through, `since` the reading
of its issuer's clock when it was sent (R488). -/
structure Outbound where
  who : RunnerId
  ask : Asker
  op : Nat
  grid : Word
  pa : Nat
  wr : Bool
  bytes : List Byte
  data : Option Word
  lost : Bool
  key : Nat
  comp : Bool
  since : Nat
deriving DecidableEq, Repr

/-- A pre-empted squad (R454 to R461): its squad, teams and groups, whose bytes with a laid-out place stand in the
context's slots in memory; the parts without a layout stand here. -/
structure Saved where
  squad : Squad
  teams : List Team
  groups : List Runner
  mops : List MOp
  streams : List Stream
  subs : List Sub
deriving DecidableEq, Repr

/-- A team's valid checkpoint, the parts without a byte layout (R468): what the image's header holds besides the status
word, and the team's queue streams. -/
structure CkSave where
  team : Team
  groups : List Runner
  mops : List MOp
  streams : List Stream
deriving DecidableEq, Repr

/-- Who moves next (log entry 5): a stream of a runner; a step of the machine that no instruction word causes; the
passing of clocks, in halls at full clock and in a stretched one, whose clocks exceed 0.952 ns by up to `ns` nanoseconds each
(R35, R494); a TLB entry leaving for lack of room; an accepted
write performing on its die (R237); a group's code cache taking a word or losing one (R50); one line of a ticketed load
(R228) or some units of an engine's work (R245, R312) before the rest; an upset of a protected group's lanes (R464); a
foreign host's store through BAR0 (R479), or another package's write or read of memory here (R488); a code word noted as the
caches may hold it for the groups of a placed grid (R50); a landed write's next unit performing (R486); a heartbeat missed
(R476); a package falling silent or answering again (R488); a reset at which the management interface fixes the modes of the
ports (R478, R495). -/
inductive Turn where
  | run (who : RunnerId) (lane : Bool)
  | event (i : Instr)
  | pass (core host fabric : Nat)
  | passHall (hall core ns : Nat)
  | evict (k : Nat)
  | perform (k : Nat)
  | cacheCode (who : RunnerId) (pa : Nat)
  | dropCode (who : RunnerId) (pa : Nat)
  | line (e : EntryId) (k : Nat)
  | work (op skip n : Nat)
  | upset (who : RunnerId)
  | bar0 (port off : Nat) (v : Word)
  | remoteWrite (slot pa : Nat) (comp : Bool) (bytes : List Byte)
  | remoteRead (pa n : Nat)
  | noteCode (grid : Word) (pa : Nat)
  | land (port : Nat)
  | missBeat (stack : Nat)
  | silent (pkg : Nat) (on : Bool)
  | portModes (m : Vector Bool 4)
deriving DecidableEq, Repr

/-- The Wicket (spec/09_transactions.md R287 to R289). -/
structure Wicket where
  next : Nat
  holder : Option RunnerId
  queue : List RunnerId
  since : Nat
deriving DecidableEq, Repr

/-- Clock counts since reset (spec/16_traps.md R426 CLOCK; spec/07_tickets.md R210): each hall's core clock, the host
clock and the fabric clock. -/
structure Clocks where
  core : Vector Nat 6
  host : Nat
  fabric : Nat
deriving DecidableEq, Repr

/-- A cloakroom's buffer setting and the one waiting to take effect (spec/07_tickets.md R205). -/
structure ClkCfg where
  die : Nat
  slice : Nat
  cur : Nat
  pending : Option Nat
deriving DecidableEq, Repr

/-- A refresh sequencer (spec/17_protection.md R476). -/
structure Refresh where
  missed : Nat
  good : Nat
  taken : Bool
deriving DecidableEq, Repr

/-- The state of the package. `me` is the runner in focus; `others` are the rest of the host cores and resident
groups. `poison` and `latent` number aligned 8-byte units: those that hold an uncorrectable error, and every one that scrub
has still to visit, with whether its error is correctable (spec/17_protection.md R474); `history` holds (channel, row).
`lineMeta` holds the metadata M of the
HBM4 lines where it is not 0 (spec/18_outside.md R491); `landed` the peer writes on their way, in order of arrival; `silent`
the packages that answer nothing (R488). `msix` routes a message vector, port × 2048 + vector, to a host core; `endpoint` is the mode of each port
(spec/18_outside.md R478, R479). -/
structure State where
  me : Runner
  others : List Runner
  agenda : List Turn
  lane : Bool
  issue : Issue
  mem : Mem
  pend : List PWrite
  tags : List LineTag
  lineMeta : List (Nat × Nat)
  poison : List Nat
  latent : List (Nat × Bool)
  history : List (Nat × Nat)
  tlb : List Tlb
  ctxs : List Ctx
  parts : List Part
  grids : List Grid
  squads : List Squad
  teams : List Team
  saved : List Saved
  cksaves : List CkSave
  lranges : List LRange
  streams : List Stream
  subs : List Sub
  mops : List MOp
  cloaks : List Cloak
  clkcfg : List ClkCfg
  ops : List EngOp
  pages : List KPage
  wicket : Wicket
  dev : Dev
  outb : List Outbound
  landed : List Landed
  routing : List (Nat × List Nat)
  silent : List Nat
  injectors : List Injector
  refresh : Vector Refresh 12
  stretched : List Nat
  escapes : List Nat
  msix : List (Nat × Nat)
  endpoint : Vector Bool 4
  clocks : Clocks
  pkg : BitVec 4
  pkgs : BitVec 4
  nextOp : Nat
  nextUid : Nat
  free : Nat
deriving DecidableEq, Repr

/-- The fields of a slot of zeros. -/
def LaneF.zero : LaneF := ⟨0, 0, 0, 0, 0, 0, false, 0, false, false, false, false, 0, false, false, 0⟩

/-- The fields of a header of zeros. -/
def Header.zero : Header := ⟨0, 0, false, 0, false, 0⟩

/-- No transaction in progress. -/
def Tx.none : Tx :=
  ⟨false, 0, 0, 0, false, Vector.replicate 64 0, Vector.replicate 8 Xb.zero, [], [], [], false, 0⟩

/-- A lane with no transaction. -/
def LaneTx.none : LaneTx := ⟨.idle, 0, 0, 0, 0, 0, 0, 0, false, [], 0, [], [], [], false, 0, 0, 0, 0⟩

/-- Lane control at rest: no run queued. -/
def LaneRuns.empty : LaneRuns := ⟨[], false, [], [], none, [], 0⟩

/-- Lane state with every register 0 (R406); a host core has none and holds this. -/
def Lanes.zero : Lanes where
  v := Vector.replicate 256 (Vector.replicate 32 0)
  count := 0
  m := Vector.replicate 16 0
  live := 0
  w := Vector.replicate 12 0
  q := Vector.replicate 8 []
  run := LaneRuns.empty
  held := none
  nextAge := 0
  nextSeq := 0
  stamp := 0
  lpc := 0
  faultmask := 0
  fragmask := 0
  skipmask := 0
  mfb := 0
  osfault := 0
  vcause := Vector.replicate 32 0
  vfault := Vector.replicate 32 0
  locker := []
  tx := Vector.replicate 32 LaneTx.none
  outst := []
  grow := none
  busy := 0
  promoted := (false, false)
  ready := (false, false)
  readyFor := (0, 0)

/-- A runner with every register at 0 but TXRETRY, which R287 resets to 8. -/
def Runner.zero (id : RunnerId) : Runner where
  id := id
  s := Vector.replicate 64 0
  xb := Vector.replicate 8 Xb.zero
  pc := 0
  status := 0
  cause := 0
  epc := 0
  faultaddr := 0
  sscr0 := 0
  sscr1 := 0
  txretry := 8
  tvec := 0
  slsel := 0
  ctx := 0
  part := 0
  core := 0
  slot := 0
  stopped := false
  ints := []
  sealed := 0
  openOps := []
  openMark := none
  batches := []
  tx := Tx.none
  lastTx := 0
  lastCommit := 0
  wait := .none
  grid := 0
  team := 0
  gno := 0
  placed := 0
  ownCore := 0
  ownSlot := 0
  entry := false
  asserted := false
  code := []
  upset := false
  txHeld := []
  l := Lanes.zero

/-- Host cores in partition order: partitions 0 to 3 have three units of four host cores, 4 and 5 two (log entry
3). -/
def hostPart (n : Nat) : Nat := if n < 48 then n / 12 else 4 + (n - 48) / 8

/-- Host core n right after reset: CURCTX is 0, so it runs in supervisor mode (spec/16_traps.md R429), at its reset
vector (R495). -/
def Runner.hostReset (n : Nat) : Runner :=
  { Runner.zero (.host n) with
    pc := Config.resetVector
    status := 1
    core := n
    part := hostPart n }

/-- Partition p of the six one-hall partitions assumed at reset (log entry 3). QWGT resets to 1 (R409). -/
def Part.atReset (p : Nat) : Part where
  no := p
  halls := [p]
  units := if p < 4 then 3 else 2
  stopbase := 0
  haltstat := 0
  qwgt := Vector.replicate 64 1
  ranges := []
  turn := Vector.replicate 4 (0, 0)
  reserve := []
  halt := none
  resets := 0

/-- Device registers at reset (log entry 1). -/
def Dev.atReset : Dev where
  portctl := Vector.replicate 4 0
  badaddr := 0
  peerdrop := 0
  wbase := Vector.replicate 64 0
  wctl := Vector.replicate 64 0
  keyStage := []
  keys := []
  stretch := Vector.replicate 6 0
  linkerr := Vector.replicate 20 0
  recover := 0
  notice := 0
  hot := Vector.replicate 13 ⟨0, 0, [], []⟩

/-- The package right after reset: host core 0 in focus, the other 63 beside it, no context, no grid, every
cloakroom entry FREE (R206), the Wicket at commit number 1 (R289). -/
def State.reset : State where
  me := Runner.hostReset 0
  others := (List.range 63).map fun n => Runner.hostReset (n + 1)
  agenda := []
  lane := false
  issue := ⟨0, 0, none, none, none, LaneF.zero, Header.zero⟩
  mem := []
  pend := []
  tags := []
  lineMeta := []
  poison := []
  latent := []
  history := []
  tlb := []
  ctxs := []
  parts := (List.range 6).map Part.atReset
  grids := []
  squads := []
  teams := []
  saved := []
  cksaves := []
  lranges := []
  streams := []
  subs := []
  mops := []
  cloaks := []
  clkcfg := []
  ops := []
  pages := []
  wicket := ⟨1, none, [], 0⟩
  dev := Dev.atReset
  outb := []
  landed := []
  routing := []
  silent := []
  injectors := []
  refresh := Vector.replicate 12 ⟨0, 0, false⟩
  stretched := []
  escapes := []
  msix := []
  endpoint := Vector.replicate 4 true
  clocks := ⟨Vector.replicate 6 0, 0, 0⟩
  pkg := 0
  pkgs := 0
  nextOp := 0
  nextUid := 0
  free := 0

end Sys2Proof.Machine
end

