-- ==== Sys2Proof/Machine/Narrow.lean ====
section
/-! DEFINITION. The narrow formats of spec/11_narrow_formats.md R316 to R322 and the key-page element formats of
spec/14_attention.md R377 to R381. -/

namespace Sys2Proof.Machine

/-- An .e4m3 code's value (R316): no infinity, 0x7F and 0xFF are NaN. -/
def e4m3Val (x : Nat) : FVal :=
  let neg := bitN x 7
  let ex := bitsN x 6 3
  let f := bitsN x 2 0
  if ex = 15 ∧ f = 7 then .nan
  else if ex = 0 then .fin neg f (-9)
  else .fin neg (f + 8) ((ex : Int) - 10)

/-- An .e5m2 code's value (R316). -/
def e5m2Val (x : Nat) : FVal := (Fmt.mk 5 2).decode (x % 256)

/-- An .mx4 element: sign, and magnitude in halves (R317). -/
def mx4Val (x : Nat) : FVal :=
  let ex := bitsN x 2 1
  let f := bitsN x 0 0
  .fin (bitN x 3) (if ex = 0 then f else (f + 2) * 2 ^ (ex - 1)) (-1)

/-- A .bf16 pattern from an exactly representable value. -/
def bf16Of (v : FVal) : Nat := if v.isNan then 0x7FC0 else Fmt.bf16.encode 0 v

/-- An element of a key page as a BF16 pattern (R379): format 1 .bf16, 2 .e4m3, 3 .e5m2. -/
def keyElem (fmt x : Nat) : Nat :=
  match fmt with
  | 1 => x
  | 2 => bf16Of (e4m3Val x)
  | _ => bf16Of (e5m2Val x)

/-- An open channel (R379). -/
def openPair : BitVec 16 × BitVec 16 := (0x7FC0, 0x7FC0)

/-- A channel's pair widened with a value (R380). -/
def widenPair (p : BitVec 16 × BitVec 16) (v : Nat) : BitVec 16 × BitVec 16 :=
  if p = openPair then p
  else if (Fmt.bf16.decode v).isNan then openPair
  else (BitVec.ofNat 16 (Fmt.bf16.minmax false p.1.toNat v), BitVec.ofNat 16 (Fmt.bf16.minmax true p.2.toNat v))

/-- Bytes of one element of a key page's format (R377). -/
def keyElemSize (fmt : Nat) : Nat := if fmt = 1 then 2 else 1

/-- A summary widened by a write of bytes at an offset of the page (R380): elements covered in full widen, elements
covered in part open their channel. -/
def widenSummary (fmt off : Nat) (bs : List Byte) (sum : Vector (BitVec 16 × BitVec 16) 128) :
    Vector (BitVec 16 × BitVec 16) 128 :=
  let z := keyElemSize fmt
  let e0 := off / z
  let e1 := (off + bs.length + z - 1) / z
  (List.range (e1 - e0)).foldl (fun s k =>
    let e := e0 + k
    let c := e % 128
    if off ≤ e * z ∧ (e + 1) * z ≤ off + bs.length then
      vset s c (widenPair (vget s c) (keyElem fmt (leNat ((bs.drop (e * z - off)).take z))))
    else vset s c openPair) sum

/-- A page of the list widened by a write at a physical address (R380, R381), by the bytes that fall into its block: the
summary and a build in progress. -/
def KPage.widen (pa : Nat) (bs : List Byte) (p : KPage) : KPage :=
  let lo := p.block * 16384
  let now := (bs.drop (lo - pa)).take (lo + 16384 - max lo pa)
  if now.isEmpty ∨ lo + 16384 ≤ pa then p
  else
    let off := max lo pa - lo
    { p with sum := widenSummary p.fmt off now p.sum, next := p.next.map (widenSummary p.fmt off now) }

/-! ## What a matrix operation takes from its core's ports (spec/11_narrow_formats.md R323; spec/12_matrix.md R340, R350) -/

/-- One side's fields of a format-block operand: element format, scaled, blocks of 16, offset of the scale array. -/
structure Side where
  fmt : Nat
  scl : Bool
  bl16 : Bool
  off : Nat
deriving DecidableEq, Repr

/-- The sides of a format-block operand (R323). -/
def sideA (w : Word) : Side := ⟨slice w 63 60, w.getLsbD 59, w.getLsbD 58, slice w 18 0⟩
def sideB (w : Word) : Side := ⟨slice w 55 52, w.getLsbD 51, w.getLsbD 50, slice w 37 19⟩

/-- Bytes of one row or column for a step of 32 k (R340). -/
def rowSize (fmt : Nat) : Nat :=
  match fmt with
  | 0 | 1 => 64
  | 4 => 16
  | 5 => 24
  | _ => 32

/-- Bytes of a K step from a port (R350). -/
def slabSize (f64 : Bool) (x : Side) (lines : Nat) : Nat := lines * if f64 then 64 else rowSize x.fmt

/-- Bytes of an MLOOP's slab on a port (R350): false A, true B; 0 for another operation. -/
def MKind.slab (port : Bool) : MKind → Nat
  | .mloop f64 w _ _ nr nc _ _ _ _ =>
    if port then slabSize f64 (sideB w) ((if f64 then 64 else 128) * nc) else slabSize f64 (sideA w) (128 * nr)
  | _ => 0

/-- Bytes of a port that an operation has claimed and not consumed (R349). -/
def MKind.claim (port : Bool) (k : MKind) : Nat :=
  match k with
  | .mloop _ _ _ _ _ _ kch step pa pb => k.slab port * (kch - step) - (if port then pb.length else pa.length)
  | _ => 0

/-- Bytes of a subscription that the queued operations of its core have claimed and not consumed (R349). -/
def portClaims (mops : List MOp) (b : Sub) : Nat :=
  ((mops.filter fun m => m.core == b.core).map fun m => m.kind.claim b.port).foldl (· + ·) 0

end Sys2Proof.Machine
end

