-- ==== Sys2Proof/Machine/Aes.lean ====
section
/-! DEFINITION. AES-XTS-256 over a 256-byte line (spec/18_outside.md R492): the block cipher AES of 256-bit keys and its
inverse, and the XTS mode whose data unit is the line and whose tweak is the line's physical address. Blocks are lists of
16 bytes, byte r of column c at index 4 c + r. Which half of a slot's 512 bits is the data key, and the order of its
bytes, log entry 9. -/

namespace Sys2Proof.Machine

/-! ## The field of 256 elements -/

/-- Twice a byte in the field of x⁸ + x⁴ + x³ + x + 1. -/
def gfTwice (a : Byte) : Byte := (a <<< 1) ^^^ (if a.getLsbD 7 then 0x1B else 0)

/-- The product of two bytes in the field. -/
def gfMul (a b : Byte) : Byte :=
  ((List.range 8).foldl (fun (acc : Byte × Byte) k => (if b.getLsbD k then acc.1 ^^^ acc.2 else acc.1, gfTwice acc.2)) (0, a)).1

/-- The inverse of a byte in the field, 0 for 0: its power 254. -/
def gfInv (a : Byte) : Byte :=
  ((List.range 6).foldl (fun (acc : Byte × Byte) _ => let sq := gfMul acc.2 acc.2; (gfMul acc.1 sq, sq)) (gfMul a a, gfMul a a)).1

/-- The substitution of a byte. -/
def subByte (a : Byte) : Byte :=
  let b := gfInv a
  b ^^^ b.rotateLeft 1 ^^^ b.rotateLeft 2 ^^^ b.rotateLeft 3 ^^^ b.rotateLeft 4 ^^^ 0x63

/-- Its inverse. -/
def unsubByte (a : Byte) : Byte := gfInv (a.rotateLeft 1 ^^^ a.rotateLeft 3 ^^^ a.rotateLeft 6 ^^^ 0x05)

/-! ## The block cipher -/

/-- Bytes added to bytes. -/
def xorBytes (a b : List Byte) : List Byte := List.zipWith (· ^^^ ·) a b

/-- The four-byte words of the key schedule, the last first: words 8 to 59 after the eight words of the key. -/
def keyWords (key : List Byte) : List (List Byte) :=
  let start := ((List.range 8).map fun k => (key.drop (4 * k)).take 4).reverse
  ((List.range 52).foldl (fun (acc : List (List Byte) × Byte) j =>
    let last := acc.1.headD []
    let mixed :=
      if j % 8 = 0 then xorBytes ((last.drop 1 ++ last.take 1).map subByte) [acc.2, 0, 0, 0]
      else if j % 8 = 4 then last.map subByte
      else last
    (xorBytes (acc.1.getD 7 []) mixed :: acc.1, if j % 8 = 0 then gfTwice acc.2 else acc.2)) (start, 0x01)).1

/-- The 15 round keys, in order. -/
def roundKeys (key : List Byte) : List (List Byte) :=
  let ws := (keyWords key).reverse
  (List.range 15).map fun r => ((ws.drop (4 * r)).take 4).flatten

/-- Row r of a block moves r columns to the left, or to the right. -/
def shiftRows (back : Bool) (b : List Byte) : List Byte :=
  (List.range 16).map fun i => b.getD ((4 * (i / 4 + (if back then 16 - i % 4 else i % 4)) + i % 4) % 16) 0

/-- Each column of a block times the polynomial with coefficients `m`. -/
def mixColumns (m : List Byte) (b : List Byte) : List Byte :=
  (List.range 16).map fun i =>
    (List.range 4).foldl (fun x k => x ^^^ gfMul (m.getD ((k + 4 - i % 4) % 4) 0) (b.getD (i / 4 * 4 + k) 0)) 0

/-- A block encrypted under a key of 32 bytes. -/
def aesEncrypt (key block : List Byte) : List Byte :=
  let ks := roundKeys key
  let mid := ((ks.drop 1).take 13).foldl (fun b k => xorBytes (mixColumns [2, 3, 1, 1] (shiftRows false (b.map subByte))) k)
    (xorBytes block (ks.getD 0 []))
  xorBytes (shiftRows false (mid.map subByte)) (ks.getD 14 [])

/-- A block decrypted under a key of 32 bytes. -/
def aesDecrypt (key block : List Byte) : List Byte :=
  let ks := roundKeys key
  let mid := ((ks.drop 1).take 13).reverse.foldl
    (fun b k => mixColumns [14, 11, 13, 9] (xorBytes ((shiftRows true b).map unsubByte) k)) (xorBytes block (ks.getD 14 []))
  xorBytes ((shiftRows true mid).map unsubByte) (ks.getD 0 [])

/-! ## Lines (R492) -/

/-- The tweaks of a line's 16 blocks: the line's address encrypted under the tweak key, doubled from block to block in
the field of 2^128 elements. -/
def lineTweaks (key : List Byte) (line : Nat) : List (List Byte) :=
  let twice (n : Nat) : Nat := n * 2 % 2 ^ 128 ^^^ (if n / 2 ^ 127 = 0 then 0 else 0x87)
  (((List.range 15).foldl (fun (acc : List Nat) _ => twice (acc.headD 0) :: acc)
    [leNat (aesEncrypt key (leBytes 16 (line * 256)))]).reverse).map (leBytes 16)

/-- A line put through a block function under a slot's two keys, with the tweak of a line; key 0 is no encryption. -/
def xtsLine (f : List Byte → List Byte → List Byte) (key line : Nat) (bytes : List Byte) : List Byte :=
  if key = 0 then bytes
  else
    let k := leBytes 64 key
    (List.zipWith (fun t j => xorBytes (f (k.take 32) (xorBytes ((bytes.drop (16 * j)).take 16) t)) t)
      (lineTweaks (k.drop 32) line) (List.range 16)).flatten

/-- A line stored under one key and tweak as it reads under another: decrypted as it was not encrypted (R492). -/
def crossLine (storedKey storedTweak readKey readTweak : Nat) (plain : List Byte) : List Byte :=
  xtsLine aesDecrypt readKey readTweak (xtsLine aesEncrypt storedKey storedTweak plain)

end Sys2Proof.Machine
end

