-- ==== Sys2Proof/Machine/Mem.lean ====
section
/-! DEFINITION. Memory: the canonical byte list, the physical address space (spec/18_outside.md R480 to R482), lines
under keys (R491, R492), accepted writes and their arrival (spec/08_ordering.md R237 to R240). -/

namespace Sys2Proof.Machine

/-! ## The byte list -/

/-- The byte at an address; an unlisted one reads 0. -/
def Mem.get : Mem → Nat → Byte
  | [], _ => 0
  | (k, b) :: m, a => if k = a then b else Mem.get m a

/-- A byte written, keeping addresses rising and listing no 0. -/
def Mem.set : Mem → Nat → Byte → Mem
  | [], a, b => if b = 0 then [] else [(a, b)]
  | (k, c) :: m, a, b =>
    if a < k then (if b = 0 then (k, c) :: m else (a, b) :: (k, c) :: m)
    else if a = k then (if b = 0 then m else (a, b) :: m)
    else (k, c) :: Mem.set m a b

/-- The cells of bytes at consecutive addresses, those of value 0 unlisted. -/
def cellsOf (a : Nat) : List Byte → Mem
  | [] => []
  | b :: bs => if b = 0 then cellsOf (a + 1) bs else (a, b) :: cellsOf (a + 1) bs

/-- Bytes written at consecutive addresses: what lies below stays, then the new cells, then what lies above. -/
def Mem.write : Mem → Nat → List Byte → Mem
  | [], a, bs => cellsOf a bs
  | (k, c) :: m, a, bs =>
    if k < a then (k, c) :: Mem.write m a bs
    else cellsOf a bs ++ ((k, c) :: m).dropWhile fun x => x.1 < a + bs.length

/-- n bytes at consecutive addresses. -/
def Mem.read (m : Mem) (a : Nat) : Nat → List Byte
  | 0 => []
  | n + 1 => m.get a :: Mem.read m (a + 1) n

/-- Every listed address is above `lo`, rising, with no byte 0. -/
def Mem.wfFrom : Nat → Mem → Bool
  | _, [] => true
  | lo, (k, b) :: m => decide (lo ≤ k) && b != 0 && Mem.wfFrom (k + 1) m

/-- The canonical form. -/
def Mem.wf (m : Mem) : Bool := Mem.wfFrom 0 m

/-! ## The physical address space -/

/-- What a physical address names (R480). -/
inductive Pool where
  | hbm | lpddr | atrium | cxl | device | window | unmapped
deriving DecidableEq, Repr

/-- The pool of an address (R480). -/
def poolOf (pa : Nat) : Pool :=
  let a := pa % 2 ^ 48
  if 2 ^ 52 ≤ pa then .unmapped
  else if a < 0xC0_0000_0000 then .hbm
  else if 0x100_0000_0000 ≤ a ∧ a < 0x200_0000_0000 then .lpddr
  else if 0x200_0000_0000 ≤ a ∧ a < 0x200_0C00_0000 then .atrium
  else if 0x300_0000_0000 ≤ a ∧ a < 0x400_0000_0000 then .cxl
  else if 0x400_0000_0000 ≤ a ∧ a < 0x400_0001_0000 then .device
  else if 0x800_0000_0000 ≤ a ∧ a < 0x1000_0000_0000 then .window
  else .unmapped

/-- The home package of an address (R480). -/
def packageOf (pa : Nat) : Nat := pa / 2 ^ 48 % 16

/-- The pool holds bytes. -/
def Pool.isMemory : Pool → Bool
  | .hbm | .lpddr | .atrium | .cxl => true
  | _ => false

/-- The pool encrypts (R481). -/
def Pool.encrypts : Pool → Bool
  | .hbm | .lpddr | .cxl => true
  | _ => false

/-- The memory-side slice that homes a physical address (R378, R480): stack × 32 + channel in HBM4, 384 + slice in
LPDDR-6. Memory of another pool has no such slice; what goes to it counts as one slice beyond those. -/
def usherAt (pa : Nat) : Nat :=
  match poolOf pa with
  | .hbm => pa / 2 ^ 36 % 16 * 32 + (Config.hbmChannel (pa / 2 ^ 14 % 2 ^ 22)).toNat
  | .lpddr => 384 + (Config.lpddrSlice (pa / 2 ^ 14 % 2 ^ 26)).toNat
  | _ => 416

/-- The physical address of byte o of die d's atrium in this package (R480). -/
def atriumPa (s : State) (d o : Nat) : Nat := s.pkg.toNat * 2 ^ 48 + 0x200_0000_0000 + d * 0x400_0000 + o

/-! ## Lines under keys -/

/-- The installed key of a slot, by the number of its installation; slot 0 is no encryption (R492). None: empty. -/
def keyId (s : State) (slot : Nat) : Option Nat :=
  if slot = 0 then some 0 else (s.dev.keys.find? fun k => k.1 == slot).map (·.2)

/-- What a line was last stored under. -/
def tagOf (s : State) (line : Nat) : LineTag := (s.tags.find? fun t => t.line == line).getD ⟨line, 0, line⟩

/-- A line stored under `t` decrypts to itself under `key` (R492). -/
def LineTag.plainFor (t : LineTag) (key : Nat) : Bool := t.key == key && (key == 0 || t.tweak == t.line)

/-- A byte of memory as a reader with an installed key gets it at the home (R492). -/
def homeByte (s : State) (key a : Nat) : Byte :=
  let t := tagOf s (a / 256)
  if t.plainFor key || !(poolOf a).encrypts then s.mem.get a
  else (crossLine t.key t.tweak key (a / 256) (s.mem.read (a / 256 * 256) 256)).getD (a % 256) 0

/-- n bytes at the home. -/
def homeRead (s : State) (key a : Nat) : Nat → List Byte
  | 0 => []
  | n + 1 => homeByte s key a :: homeRead s key (a + 1) n

/-- A line held under another key becomes, for a writer under `key`, what that key reads there (R492). -/
def rekeyLine (s : State) (key line : Nat) : State :=
  if (tagOf s line).plainFor key || !(poolOf (line * 256)).encrypts then s
  else
    { s with
      mem := s.mem.write (line * 256) (homeRead s key (line * 256) 256)
      tags := (if key = 0 then [] else [⟨line, key, line⟩]) ++ s.tags.filter (fun t => t.line != line) }

/-- The lines of 256 bytes that n bytes at a meet. -/
def linesOf (a n : Nat) : List Nat :=
  if n = 0 then [] else (List.range ((a + n - 1) / 256 - a / 256 + 1)).map (· + a / 256)

/-- The aligned 8-byte units that n bytes at a cover in full. -/
def unitsIn (a n : Nat) : List Nat :=
  (List.range (n / 8 + 1)).filterMap fun k =>
    let u := (a + 7) / 8 + k
    if (u + 1) * 8 ≤ a + n then some u else none

/-- The aligned 8-byte units that n bytes at a meet. -/
def unitsOf (a n : Nat) : List Nat :=
  if n = 0 then [] else (List.range ((a + n - 1) / 8 - a / 8 + 1)).map (· + a / 8)

/-- A poisoned unit among those that n bytes meet (R312, R474). -/
def poisoned (s : State) (a n : Nat) : Bool := (unitsOf a n).any fun u => s.poison.contains u

/-- The metadata M that a write gives a line of these bytes (R491): 0xF for a line of zeros, the sectors it takes where the
writer's page is compressed and it fits, else 0. -/
def metaFor (comp : Bool) (bytes : List Byte) : Nat :=
  if bytes.all (· == 0) then 0xF else if comp then (Config.lineSectors bytes).toNat else 0

/-- The metadata of one line changes; 0 is not listed. -/
def setMeta (l : List (Nat × Nat)) (line m : Nat) : List (Nat × Nat) :=
  (if m = 0 then [] else [(line, m)]) ++ l.filter fun p => p.1 != line

/-- The metadata of a line (R491). -/
def metaOf (s : State) (line : Nat) : Nat := ((s.lineMeta.find? fun p => p.1 == line).map (·.2)).getD 0

/-- Lines of HBM4 just written take their metadata (R491); other pools hold none. -/
def noteMeta (comp : Bool) (lines : List Nat) (s : State) : State :=
  { s with
    lineMeta := (lines.filter fun l => poolOf (l * 256) == .hbm).foldl
      (fun l k => setMeta l k (metaFor comp (s.mem.read (k * 256) 256))) s.lineMeta }

/-- Bytes written at the home under an installed key, through a page compressed or not (R237, R380, R491): lines under
another key are taken over, a unit written in full loses its error, marked key pages widen, and each line takes its
metadata. -/
def homeWrite (s : State) (key : Nat) (comp : Bool) (a : Nat) (bs : List Byte) : State :=
  if bs.isEmpty || !(poolOf a).isMemory then s
  else
    let s := (linesOf a bs.length).foldl (fun s l => rekeyLine s key l) s
    let full := unitsIn a bs.length
    noteMeta comp (linesOf a bs.length) { s with
      mem := s.mem.write a bs
      poison := if s.poison.isEmpty then [] else s.poison.filter fun u => !full.contains u
      latent := if s.latent.isEmpty then [] else s.latent.filter fun u => !full.contains u.1
      pages := s.pages.map (KPage.widen a bs) }

/-! ## Hotness and counters -/

/-- A saturating 64-bit counter (R483). -/
def satInc (w : Word) : Word := if w = BitVec.allOnes 64 then w else w + 1

/-- An access to an unmapped address (R480). -/
def badAddr (s : State) : State := { s with dev := { s.dev with badaddr := satInc s.dev.badaddr } }

/-- The hotness controller of an address (R493): the stack, or 12 for LPDDR-6. -/
def hotCtl (pa : Nat) : Option Nat :=
  match poolOf pa with
  | .hbm => some (pa / 2 ^ 36 % 16)
  | .lpddr => some 12
  | _ => none

/-- A frame's estimate after one more request, and the sketch with it (R493). The sketch lists (row × 4096 + hash,
count). -/
def sketchAdd (sk : List (Nat × Nat)) (frame : Nat) : List (Nat × Nat) × Nat :=
  (List.range 4).foldl (fun (acc : List (Nat × Nat) × Nat) row =>
    let k := row * 4096 + (Config.hotHash row frame).toNat
    let n := min 0xFFFF (((acc.1.find? fun p => p.1 == k).map (·.2)).getD 0 + 1)
    ((k, n) :: acc.1.filter (fun p => p.1 != k), min acc.2 n)) (sk, 0xFFFF)

/-- The list of 32 frames after a frame's estimate rose (R493). -/
def hotListAdd (l : List (Nat × Nat)) (frame est : Nat) : List (Nat × Nat) :=
  if l.any fun p => p.1 == frame then mapIf (fun p => p.1 == frame) (fun p => (p.1, est)) l
  else if l.length < 32 then (frame, est) :: l
  else
    let least := l.foldl (fun m p => min m p.2) 0xFFFF
    if least < est then
      match l.findIdx? fun p => p.2 == least with
      | some i => l.set i (frame, est)
      | none => l
    else l

/-- One request to a controller, counted where sampling is on (R493). -/
def countHot (s : State) (pa : Nat) : State :=
  match hotCtl pa with
  | none => s
  | some c =>
    let h := vget s.dev.hot c
    if h.ctl.getLsbD 63 then
      let f := pa / 4096
      let r := sketchAdd h.sketch f
      { s with dev := { s.dev with hot := vset s.dev.hot c { h with sketch := r.1, list := hotListAdd h.list f r.2 } } }
    else s

/-- The requests of n bytes at a: one for each 64-byte sector. -/
def countRange (s : State) (a n : Nat) : State :=
  if n = 0 then s else (List.range ((a + n - 1) / 64 - a / 64 + 1)).foldl (fun s k => countHot s ((a / 64 + k) * 64)) s

/-! ## Accepted writes -/

/-- A write covers the address. -/
def PWrite.covers (w : PWrite) (a : Nat) : Bool := decide (w.addr ≤ a ∧ a < w.addr + w.bytes.length)

/-- Two byte ranges meet. -/
def meets (a n b k : Nat) : Bool := decide (a < b + k ∧ b < a + n)

/-- The write whose byte an agent of the die reads before the home's (R238): the latest that it alone issued and nobody
else of the die sees, else the latest that its die sees. An agent with no runner behind it has issued none. -/
def viewWrite (s : State) (by_ : Option RunnerId) (die a : Nat) : Option PWrite :=
  (s.pend.reverse.find? fun w => !w.seen && some w.who == by_ && w.covers a).or
    (s.pend.reverse.find? fun w => w.seen && w.die == die && w.covers a)

/-- The byte an agent of the die reads (R238). -/
def viewByte (s : State) (by_ : Option RunnerId) (die key a : Nat) : Byte :=
  match viewWrite s by_ die a with
  | some w => w.bytes.getD (a - w.addr) 0
  | none => homeByte s key a

/-- n bytes as an agent of the die reads them. -/
def viewRead (s : State) (by_ : Option RunnerId) (die key a : Nat) : Nat → List Byte
  | 0 => []
  | n + 1 => viewByte s by_ die key a :: viewRead s by_ die key (a + 1) n

/-! ## Transactions of other runners that an access meets -/

/-- TXRETRY.LIMIT and FBOFF (spec/09_transactions.md R287). -/
def Runner.limit (r : Runner) : Nat := slice r.txretry 7 0
def Runner.fboff (r : Runner) : Bool := r.txretry.getLsbD 8

/-- The status word of an ended transaction (R264). -/
def statusWord (code detail aborts : Nat) (fb : Bool) : W32 :=
  BitVec.ofNat 32 (code * 2 ^ 24 + detail % 256 * 2 ^ 16 + min aborts 255 * 2 ^ 8 + (if fb then 128 else 0))

/-- A register file with one register written; s0 stays 0 (R7). -/
def sregSet (v : Vector Word 64) (d : Reg) (x : Word) : Vector Word 64 := if d = 0 then v else vset v d.toNat x

/-- The runner gives the lock back and leaves the queue (R288). -/
def Wicket.release (w : Wicket) (who : RunnerId) : Wicket :=
  { w with holder := if w.holder = some who then none else w.holder, queue := w.queue.filter (· != who) }

/-- A lead transaction ends with a final abort (R267). -/
def Runner.abortFinal (code detail : Nat) (r : Runner) : Runner :=
  let word := statusWord code detail r.tx.aborts r.tx.fb
  { r with
    s := sregSet r.tx.snapS r.tx.d (BitVec.ofNat 64 word.toNat)
    xb := r.tx.snapXb
    pc := r.tx.resume
    tx := Tx.none
    lastTx := word
    wait := .none }

/-- A lead attempt is rolled back and starts again (R267); `counted` for TX_CONFLICT. -/
def Runner.rollback (counted : Bool) (r : Runner) : Runner :=
  { r with
    s := r.tx.snapS
    xb := r.tx.snapXb
    pc := r.tx.resume
    wait := .none
    tx := { r.tx with
      aborts := if counted then r.tx.aborts + 1 else r.tx.aborts
      rlog := []
      wbuf := []
      keys := []
      doomed := false
      ran := 0 } }

/-- A TX_CONFLICT abort ends the transaction: FBOFF = 1 with LIMIT retries made (R287). -/
def Runner.conflictFinal (r : Runner) : Bool := r.fboff && decide (r.limit ≤ r.tx.aborts)

/-- A runner's lead attempt meets a conflict: rolled back, or ended under FBOFF (R287). -/
def Runner.conflict (r : Runner) : Runner :=
  if r.conflictFinal then r.abortFinal 0x53 0 else r.rollback true

/-- The runner's next attempt waits for the lock (R287). -/
def Runner.needsLock (r : Runner) : Bool := r.tx.active && !r.tx.fb && !r.fboff && decide (r.limit ≤ r.tx.aborts)

/-- Apply a change to the runner with an id, whether in focus or not. -/
def State.onRunner (s : State) (who : RunnerId) (f : Runner → Runner) : State :=
  { s with me := if s.me.id = who then f s.me else s.me, others := mapIf (fun r => r.id == who) f s.others }

/-- Every runner. -/
def State.runners (s : State) : List Runner := s.me :: s.others

/-- The runner with an id. -/
def State.runner? (s : State) (who : RunnerId) : Option Runner := s.runners.find? fun r => r.id == who

/-- After a conflict: the queue for the lock if the next attempt needs it, or the lock given back if it ended. -/
def Wicket.afterAbort (w : Wicket) (r : Runner) : Wicket :=
  if r.needsLock then (if w.queue.contains r.id then w else { w with queue := w.queue ++ [r.id] })
  else if r.tx.active then w else w.release r.id

/-- A conflict aborts the lead attempt of a runner that does not hold the lock (R280, R288). -/
def conflictAt (s : State) (who : RunnerId) : State :=
  match s.runner? who with
  | none => s
  | some r =>
    if r.tx.active && !r.tx.fb then
      let r' := r.conflict
      { s.onRunner who (fun _ => r') with wicket := s.wicket.afterAbort r' }
    else s

/-- The lines that a log of bytes meets. -/
def logLines (l : List (Nat × Byte)) : List Nat := (l.map fun p => p.1 / 256).eraseDups

/-- A bit of the one signature of 1024 bits that both hashes of each line set (R280). -/
def sigBit (set : List Nat) (bit : BitVec 10) : Bool :=
  set.any fun l => Config.sigHashA l == bit || Config.sigHashB l == bit

/-- A signature of a set of lines holds a line: both of its bits are set (R280). -/
def sigHas (set : List Nat) (line : Nat) : Bool := sigBit set (Config.sigHashA line) && sigBit set (Config.sigHashB line)

/-- A host runner's transaction conflicts with an access to a line (R280). -/
def Runner.hostConflict (r : Runner) (line : Nat) (write : Bool) : Bool :=
  match r.id with
  | .host _ => r.tx.active && (sigHas (logLines r.tx.wbuf) line || (write && sigHas (logLines r.tx.rlog) line))
  | .group _ => false

/-- A group's attempts that a plain write to a line fails (R283). -/
def Runner.doom (line : Nat) (r : Runner) : Runner :=
  match r.id with
  | .host _ => r
  | .group _ =>
    { r with
      tx := { r.tx with doomed := r.tx.doomed || (r.tx.active && !r.tx.fb && (logLines (r.tx.rlog ++ r.tx.wbuf)).contains line) }
      l := { r.l with tx := r.l.tx.map fun t =>
        if t.st = .running && !t.fb && (logLines (t.rlog ++ t.wbuf)).contains line then { t with doomed := true } else t } }

/-- Some transaction is in progress. -/
def Runner.inTx (r : Runner) : Bool :=
  r.tx.active ||
    match r.id with
    | .host _ => false
    | .group _ => r.l.tx.any fun t => t.st != .idle

/-- A plain write to a line fails the validation of the group attempts that have it (R283). -/
def doomLine (s : State) (line : Nat) : State :=
  { s with me := s.me.doom line, others := s.others.map (Runner.doom line) }

/-- An agent's access to n bytes: conflicting host transactions abort (R280); a write outside a transaction also fails
the validation of group attempts (R283). `by_` is the runner itself, which does not conflict with itself. -/
def touch (s : State) (by_ : Option RunnerId) (plain write : Bool) (a n : Nat) : State :=
  if s.me.inTx || s.others.any Runner.inTx then
    (linesOf a n).foldl (fun s line =>
      let hit := s.runners.filter fun r => some r.id != by_ && r.hostConflict line write
      let s := hit.foldl (fun s r => conflictAt s r.id) s
      if write && plain then doomLine s line else s) s
  else s

/-- The lines of the transaction that holds the fallback lock (R288). -/
def lockedLines (s : State) : List Nat :=
  match s.wicket.holder.bind s.runner? with
  | none => []
  | some r => logLines (r.tx.rlog ++ r.tx.wbuf ++ (r.l.tx.toList.map fun t => t.rlog ++ t.wbuf).flatten)

/-- A plain write waits for the holder of the fallback lock (R288); `by_` is the holder itself where what it issued before
its transaction arrives. -/
def lockedOut (s : State) (by_ : Option RunnerId) (a n : Nat) : Bool :=
  s.wicket.holder.isSome && s.wicket.holder != by_ && (linesOf a n).any fun l => (lockedLines s).contains l

/-! ## Arrival -/

/-- Bytes stored by the package at a physical address at system scope (R457, R443, R447); an unmapped one counts (R480). -/
def physWrite (a : Nat) (bs : List Byte) (s : State) : State :=
  if poolOf a = .unmapped then badAddr s
  else countRange (touch (homeWrite s 0 false a bs) none true true a bs.length) a bs.length

/-- A write already performed on the host die, whose L2 slices hold the signatures of host transactions (R280). -/
def PWrite.atHost (w : PWrite) : Bool := w.seen && w.die == 3

/-- One accepted write arrives at its home (R237). Host transactions conflict with a write of the host die when it is performed
there, with every other when it arrives (R280). -/
def arrive (s : State) (w : PWrite) : State :=
  let t := homeWrite s w.key w.comp w.addr w.bytes
  let t :=
    if w.atHost then (linesOf w.addr w.bytes.length).foldl doomLine t
    else touch t (some w.who) true true w.addr w.bytes.length
  countRange t w.addr w.bytes.length

/-- Two writes to a common byte. -/
def PWrite.overlaps (w x : PWrite) : Bool := meets w.addr w.bytes.length x.addr x.bytes.length

/-- An earlier write stays before a later one: they meet in a byte (R239), or one agent sends both to one home slice of
another package (spec/18_outside.md R488). -/
def PWrite.leads (s : State) (w x : PWrite) : Bool :=
  w.overlaps x
    || (w.who == x.who && packageOf w.addr != s.pkg.toNat && packageOf w.addr == packageOf x.addr && usherAt w.addr == usherAt x.addr)

/-- The writes that the test holds of, with those that must go before them: an earlier one of which `leads earlier later`
holds. The others in order. -/
def withEarlier (p : PWrite → Bool) (leads : PWrite → PWrite → Bool) : List PWrite → List PWrite × List PWrite
  | [] => ([], [])
  | w :: l =>
    let r := withEarlier p leads l
    if p w || r.1.any (leads w) then (w :: r.1, r.2) else (r.1, w :: r.2)

/-- The accepted writes that the test holds of, and those of one issuer that must precede them, are performed on their die
(R237), in order; they follow the writes performed there before (R239). On the host die they meet the host transactions (R280). -/
def seeAll (s : State) (p : PWrite → Bool) : State :=
  let r := withEarlier (fun w => !w.seen && p w) (fun w x => !w.seen && w.who == x.who && w.leads s x) s.pend
  let now := r.1.map fun w => { w with seen := true }
  (now.filter PWrite.atHost).foldl (fun s w => touch s (some w.who) false true w.addr w.bytes.length)
    { s with pend := r.2 ++ now }

/-- Of the writes performed on their die, those that the test holds of with those of the die that must precede them
(R239), and the rest. -/
def homeward (s : State) (p : PWrite → Bool) : List PWrite × List PWrite :=
  withEarlier (fun w => w.seen && p w) (fun w x => w.seen && w.die == x.die && w.leads s x) s.pend

/-- The accepted writes that the test holds of, performed on their die, arrive with those of the die that must precede
them (R237, R239), in order; the others stay. -/
def arriveAll (s : State) (p : PWrite → Bool) : State :=
  let s := seeAll s p
  let r := homeward s p
  r.1.foldl arrive { s with pend := r.2 }

/-- A write that would arrive with those that the test holds of waits for the holder of the fallback lock (R288). -/
def arriveLocked (s : State) (p : PWrite → Bool) : Bool :=
  s.wicket.holder.isSome && (homeward (seeAll s p) p).1.any fun w => lockedOut s (some w.who) w.addr w.bytes.length

/-- What a release by a runner at package scope or wider performs (R241, R242): its own writes, and those that its die
sees, arrive. -/
def drainDie (s : State) (by_ : RunnerId) (die : Nat) : State :=
  arriveAll s fun w => w.who == by_ || (w.seen && w.die == die)

/-- A write meets the sectors of n bytes. -/
def PWrite.inSectors (w : PWrite) (a n : Nat) : Bool :=
  meets (a / 64 * 64) ((a + n - 1) / 64 * 64 + 64 - a / 64 * 64) w.addr w.bytes.length

/-- The die holds a write, or the agent itself, in the sectors that n bytes meet. -/
def PWrite.heldIn (by_ : Option RunnerId) (die a n : Nat) (w : PWrite) : Bool :=
  (some w.who == by_ || (w.seen && w.die == die)) && w.inSectors a n

/-- The die writes back its bytes of the sectors that n bytes meet, with the agent's own (R249). -/
def drainSectors (s : State) (by_ : Option RunnerId) (die a n : Nat) : State := arriveAll s (PWrite.heldIn by_ die a n)

/-- That write back waits for the holder of the fallback lock (R288). -/
def sectorsLocked (s : State) (by_ : Option RunnerId) (die a n : Nat) : Bool := arriveLocked s (PWrite.heldIn by_ die a n)

end Sys2Proof.Machine
end

