-- ==== Sys2Proof/Machine/Translate.lean ====
section
/-! DEFINITION. Address translation (spec/06_memory.md R186 to R189), translation registers (spec/03_lead.md R112 to
R115), permission and the range-lock table (spec/08_ordering.md R258, R259). Every function here only looks; what an
access does to A and D bits and to the TLB it does when it performs. -/

namespace Sys2Proof.Machine

/-- The runner is a host core. -/
def Runner.isHost (r : Runner) : Bool :=
  match r.id with
  | .host _ => true
  | .group _ => false

/-- STATUS.MODE is supervisor (R427). -/
def Runner.sup (r : Runner) : Bool := r.status.getLsbD 0

/-- STATUS.TRAP: a handler is in progress (R427). -/
def Runner.inTrap (r : Runner) : Bool := r.status.getLsbD 6

/-- The die of a runner (R17, R236): a group's by its core, H for a host core. -/
def Runner.die (r : Runner) : Nat := if r.isHost then 3 else r.core / 128

/-- A live context. -/
def ctx? (s : State) (n : Nat) : Option Ctx := s.ctxs.find? fun c => c.id == n

/-- Bytes of a page of a size code (R186). -/
def pageBytes (k : Nat) : Nat :=
  if k ≤ 8 then 4096 * 2 ^ k
  else
    match k with
    | 9 => 2 ^ 21
    | 10 => 2 ^ 22
    | 11 => 2 ^ 24
    | 12 => 2 ^ 26
    | 13 => 2 ^ 28
    | 14 => 2 ^ 30
    | _ => 2 ^ 32

/-- The table level whose entries describe pages of a size code (R186). -/
def pageLevel (k : Nat) : Nat := if k ≤ 8 then 0 else if k ≤ 13 then 1 else 2

/-- A translation: physical address, attributes of the page, the leaf and where it lies; no leaf for an untranslated
access (R429). `va` is the page's virtual base. -/
structure Tr where
  pa : Nat
  key : Nat
  size : Nat
  sup : Bool
  wr : Bool
  rd : Bool
  ex : Bool
  comp : Bool
  leaf : Option (Word × Nat)
  va : Nat
deriving DecidableEq, Repr

/-- The translation that a leaf gives an address (R187). Low bits of a PFN that is not aligned to the page's size are dropped
(log entry 84). -/
def Tr.ofLeaf (e : Word) (addr va : Nat) : Tr :=
  let k := slice e 55 52
  let z := pageBytes k
  { pa := slice e 51 12 * 4096 / z * z + va % z
    key := slice e 63 56
    size := k
    sup := e.getLsbD 6
    wr := e.getLsbD 4
    rd := e.getLsbD 3
    ex := e.getLsbD 5
    comp := e.getLsbD 7
    leaf := some (e, addr)
    va := va / z * z }

/-- An untranslated physical access (R429). -/
def Tr.physical (a : Nat) : Tr := ⟨a, 0, 0, true, true, true, true, false, none, a / 4096 * 4096⟩

/-- The address of the entry that an address reaches in a table of a level (R186). -/
def entryAddr (lv va table : Nat) : Nat := table + va / 2 ^ (12 + 9 * lv) % 512 * 8

/-- A table entry, read as the die sees it under key slot 0 (log entry 78). -/
def tableEntry (s : State) (die addr : Nat) : Word := BitVec.ofNat 64 (leNat (viewRead s none die 0 addr 8))

/-- A valid entry of reserved fields 0 that names a next table (R187). -/
def namesTable (e : Word) : Bool := e.getLsbD 0 && slice e 11 10 == 0 && !e.getLsbD 1 && slice e 55 52 == 0

/-- The walk from a table down the levels (R186, R187): a translation or a cause. An entry with an uncorrectable error is
consumed (R474). An entry with V = 0 is judged by FT alone (log entry 107). -/
def walk (s : State) (die va : Nat) : List Nat → Nat → Except Nat Tr
  | [], _ => .error 0x22
  | lv :: rest, table =>
    let addr := entryAddr lv va table
    let e := tableEntry s die addr
    if poisoned s addr 8 then .error 0xA1
    else if !e.getLsbD 0 then .error (if e.getLsbD 2 then 0x21 else 0x22)
    else if slice e 11 10 ≠ 0 then .error 0x22
    else if e.getLsbD 1 then (if pageLevel (slice e 55 52) = lv then .ok (Tr.ofLeaf e addr va) else .error 0x22)
    else if slice e 55 52 ≠ 0 then .error 0x22
    else walk s die va rest (slice e 51 12 * 4096)

/-- The addresses of the entries that a walk reads, from the root down. -/
def walkAddrs (s : State) (die va : Nat) : List Nat → Nat → List Nat
  | [], _ => []
  | lv :: rest, table =>
    let addr := entryAddr lv va table
    let e := tableEntry s die addr
    addr :: if !poisoned s addr 8 && namesTable e then walkAddrs s die va rest (slice e 51 12 * 4096) else []

/-- Bits [63:47] of an address are equal (R186). -/
def canonical (a : Word) : Bool := slice a 63 47 == 0 || slice a 63 47 == 2 ^ 17 - 1

/-- The TLB of a runner's core and the one it shares (R189). -/
def Runner.tlbs (r : Runner) : TlbAt × TlbAt :=
  match r.id with
  | .host n => (.host n, .hostDie)
  | .group _ => (.core r.core, .hall (r.core / 64))

/-- An entry of one TLB that maps an address of a context (R189). -/
def tlbIn (s : State) (place : TlbAt) (ctx va : Nat) : Option Tlb :=
  s.tlb.find? fun t => t.place == place && t.ctx == ctx && t.va == va / pageBytes t.size * pageBytes t.size

/-- The entry that a runner's access takes: its core's, else the shared one (R189). -/
def tlbHit (s : State) (r : Runner) (va : Nat) : Option Tlb :=
  (tlbIn s r.tlbs.1 r.ctx va).or (tlbIn s r.tlbs.2 r.ctx va)

/-- Entries that a TLB holds (R189). -/
def TlbAt.room : TlbAt → Nat
  | .core _ | .host _ => 128
  | .hall _ | .hostDie => 4096

/-- A TLB takes an entry in place of its older one of the page; a full one gives up another (R189). -/
def tlbPut (t : Tlb) (l : List Tlb) : List Tlb :=
  let l := l.filter fun u => !(u.place == t.place && u.ctx == t.ctx && u.va == t.va && u.size == t.size)
  let mine := l.filter fun u => u.place == t.place
  if mine.length < t.place.room then t :: l
  else
    match mine[Config.tlbVictim t.va % mine.length]? with
    | some x => t :: l.filter (· != x)
    | none => t :: l

/-- Translate an address of a context's runner (R186 to R189, R429). -/
def translate (s : State) (r : Runner) (a : Word) : Except Nat Tr :=
  if r.ctx = 0 then .ok (Tr.physical a.toNat)
  else if !canonical a then .error 0x22
  else
    let va := slice a 47 0
    match tlbHit s r va with
    | some t => .ok (Tr.ofLeaf t.pte t.pteAddr va)
    | none =>
      match ctx? s r.ctx with
      | none => .error 0x22
      | some c => walk s r.die va [3, 2, 1, 0] (slice c.ptroot 51 12 * 4096)

/-- What the walk for an address does, where no TLB holds its entry: each entry read conflicts (R280) and counts (R480,
R493). -/
def walkReads (s : State) (r : Runner) (va : Nat) : State :=
  match ctx? s r.ctx with
  | none => s
  | some c =>
    if (tlbHit s r va).isSome then s
    else
      (walkAddrs s r.die va [3, 2, 1, 0] (slice c.ptroot 51 12 * 4096)).foldl
        (fun s a => if poolOf a = .unmapped then badAddr s else countRange (touch s (some r.id) true false a 8) a 8) s

/-- What the walk that raised a translation cause did (R187). -/
def faultWalk (cause : Nat) (a : Word) (r : Runner) (s : State) : State :=
  if (cause = 0x21 ∨ cause = 0x22) ∧ r.ctx ≠ 0 ∧ canonical a then walkReads s r (slice a 47 0) else s

/-- A page's key slot cannot serve its pool: no encryption there, or an empty slot (R481, R492). An unmapped address raises
no cause (R480). -/
def keyFault (s : State) (t : Tr) : Bool :=
  t.key != 0 && poolOf t.pa != .unmapped && (!(poolOf t.pa).encrypts || (keyId s t.key).isNone)

/-- The kind of an access: what the leaf must permit (R187). -/
structure Need where
  rd : Bool
  wr : Bool
  ex : Bool
deriving DecidableEq, Repr

def Need.read : Need := ⟨true, false, false⟩
def Need.write : Need := ⟨false, true, false⟩
def Need.both : Need := ⟨true, true, false⟩
def Need.code : Need := ⟨false, false, true⟩

/-- The leaf forbids the access (R187); the device register block needs a supervisor page (R482). -/
def permFault (sup : Bool) (t : Tr) (n : Need) : Bool :=
  (n.rd && !t.rd) || (n.wr && !t.wr) || (n.ex && !t.ex) || (t.sup && !sup)
    || (poolOf t.pa == .device && !t.sup)

/-- Translate the first and the last byte of an access and check key and permission, translation causes first
(R194). -/
def probe (s : State) (r : Runner) (a : Word) (z : Nat) (n : Need) : Except Nat Tr :=
  match translate s r a with
  | .error c => .error c
  | .ok t =>
    match translate s r (a + BitVec.ofNat 64 (z - 1)) with
    | .error c => .error c
    | .ok t' =>
      if keyFault s t || keyFault s t' then .error 0x28
      else if permFault r.sup t n || permFault r.sup t' n then .error 0x23
      else .ok t

/-- The attributes that a translation register recorded, at offset o of its frame (R113). -/
def Xb.tr (x : Xb) (o : Nat) : Tr :=
  let z := pageBytes x.psize.toNat
  let va := slice x.base 47 0 + o
  ⟨x.frame.toNat + o, x.key.toNat, x.psize.toNat, x.sup, x.wr, x.rd, false, x.comp, none, va / z * z⟩

/-- Where an access of z bytes at signed offset o through a translation register goes (R114): the virtual address for
FAULTADDR, and a translation or a cause. -/
def viaXb (s : State) (r : Runner) (x : Xb) (o : Int) (z : Nat) (n : Need) : Word × Except Nat Tr :=
  let va := x.base + BitVec.ofInt 64 o
  (va,
    if x.v && decide (0 ≤ o ∧ o + z ≤ x.span.toNat) then
      let t := x.tr o.toNat
      if keyFault s t then .error 0x28 else if permFault r.sup t n then .error 0x23 else .ok t
    else if x.v && decide (0 ≤ o ∧ o + z ≤ x.limit.toNat) then probe s r va z n
    else .error 0x26)

/-- A registered range of the partition that an access meets (R258, R259): any for a write, a destination for a read.
The ranges are whole 64-byte sectors. -/
def rangeHit (s : State) (part pa n : Nat) (write : Bool) : Bool :=
  match s.parts.find? fun p => p.no == part with
  | none => false
  | some p => p.ranges.any fun g => (write || g.dst) && meets pa n g.lo (g.hi - g.lo)

/-- A registered range that n bytes at a virtual address meet, the first at `t` (R194, R258): an access that crosses a page
goes on in the next page's frame. -/
def spanHit (s : State) (r : Runner) (a : Word) (t : Tr) (n : Nat) (write : Bool) : Bool :=
  let k := pageBytes t.size - a.toNat % pageBytes t.size
  rangeHit s r.part t.pa (min n k) write
    || (decide (k < n) &&
      match translate s r (a + BitVec.ofNat 64 k) with
      | .ok u => rangeHit s r.part u.pa (n - k) write
      | .error _ => false)

/-- A registered landing range that an access meets (R258, R259). -/
def landHit (s : State) (team off n : Nat) (write : Bool) : Bool :=
  s.lranges.any fun g => g.team == team && (write || g.dst) && meets off n g.lo (g.hi - g.lo)

/-- The A bit, and the D bit for a write, of a leaf in memory are set for a runner by an atomic OR (R188), an access like
another agent's to every transaction but its own (R280, R283). -/
def orLeaf (s : State) (r : Runner) (addr : Nat) (write : Bool) : State :=
  let s := countRange (drainSectors s none r.die addr 8) addr 8
  let e := BitVec.ofNat 64 (leNat (homeRead s 0 addr 8))
  let e' := setBit (if write then setBit e 9 true else e) 8 true
  if e' = e then s else touch (homeWrite s 0 false addr (leBytes 8 e'.toNat)) (some r.id) (!r.inTx) true addr 8

/-- The leaf already holds the bits that an access sets. -/
def leafMarked (e : Word) (write : Bool) : Bool := e.getLsbD 8 && (!write || e.getLsbD 9)

/-- The leaf of a translation's page and where it lies (R114): an access through a translation register's frame finds it by
the walk. -/
def leafOf (s : State) (r : Runner) (t : Tr) : Option (Word × Nat) :=
  if r.ctx = 0 then none
  else
    match t.leaf with
    | some l => some l
    | none =>
      match translate s r ((BitVec.ofNat 48 t.va).signExtend 64) with
      | .ok t' => t'.leaf
      | .error _ => none

/-- The bits that an access sets in its leaf need not wait for the holder of the fallback lock (R288). -/
def markReady (s : State) (r : Runner) (t : Tr) (write : Bool) : Bool :=
  match leafOf s r t with
  | none => true
  | some (e, addr) => leafMarked e write || !(lockedOut s (some r.id) addr 8 || sectorsLocked s none r.die addr 8)

/-- An access performs through a translation: the walk reads what no TLB holds, A and D are set unless the entry holds them,
and the core's TLB and the shared one take the entry (R114, R188, R189, log entry 106). -/
def markAccess (s : State) (r : Runner) (t : Tr) (write : Bool) : State :=
  if r.ctx = 0 then s
  else
    match leafOf s r t with
    | none => s
    | some (e, addr) =>
      let s := walkReads s r t.va
      let s := if leafMarked e write then s else orLeaf s r addr write
      let e' := setBit (if write then setBit e 9 true else e) 8 true
      let entry (place : TlbAt) : Tlb := ⟨place, r.ctx, t.va, t.size, e', addr⟩
      { s with tlb := tlbPut (entry r.tlbs.1) (tlbPut (entry r.tlbs.2) s.tlb) }

/-- Translation entries leave, and the registers whose base page lies in the range lose their SPAN (R115, R428): those of
every runner, of its transaction, of its queued runs, and of the streams. Those of a saved group lose it when they are
restored. -/
def invalidate (s : State) (p : Tlb → Bool) (q : Xb → Bool) : State :=
  let g := fun (x : Xb) => if q x then { x with span := 0 } else x
  let runs (u : LaneRuns) : LaneRuns := { u with runs := u.runs.map fun r => { r with xb := r.xb.map g } }
  let f (r : Runner) : Runner :=
    { r with
      xb := r.xb.map g
      tx := { r.tx with snapXb := r.tx.snapXb.map g }
      txHeld := r.txHeld.map fun x => (x.1, { x.2 with snapXb := x.2.snapXb.map g })
      l := { r.l with run := runs r.l.run, held := r.l.held.map runs } }
  { s with
    tlb := s.tlb.filter fun t => !p t
    me := f s.me
    others := s.others.map f
    streams := s.streams.map fun st => { st with xb := g st.xb } }

end Sys2Proof.Machine
end

