-- ==== Sys2Proof/Machine/Device.lean ====
section
/-! DEFINITION. The device register block (spec/18_outside.md R483 to R485, R492, R493). -/

namespace Sys2Proof.Machine

/-- The dword at an offset of the register block (R483). -/
def devRead (s : State) (off : Nat) : Word :=
  let d := s.dev
  if off % 8 ≠ 0 then 0
  else if off = 0 then BitVec.ofNat 64 (s.pkg.toNat + 256 * s.pkgs.toNat)
  else if off < 0x28 then vget d.portctl (off / 8 - 1)
  else if off = 0x100 then d.badaddr
  else if off = 0x108 then d.peerdrop
  else if 0x1000 ≤ off ∧ off < 0x1400 then
    (if off % 16 = 0 then vget d.wbase ((off - 0x1000) / 16) else vget d.wctl ((off - 0x1000) / 16))
  else if 0x8000 ≤ off ∧ off < 0x8030 then vget d.stretch ((off - 0x8000) / 8)
  else if 0x8100 ≤ off ∧ off < 0x81A0 then vget d.linkerr ((off - 0x8100) / 8)
  else if off = 0x8200 then d.recover
  else if off = 0x8208 then d.notice
  else if 0x9000 ≤ off ∧ off < 0x90D0 then
    (if off % 16 = 0 then (vget d.hot ((off - 0x9000) / 16)).ctl else (vget d.hot ((off - 0x9000) / 16)).base)
  else 0

/-- A WBASE value whose reserved fields are 0, whose range stays in one pool with the window's length (R484). -/
def windowOk (base ctl : Word) : Bool :=
  let lo := slice base 51 16 * 65536
  let n := slice ctl 14 0 * 65536
  slice base 63 52 == 0 && slice base 15 0 == 0 && slice ctl 62 50 == 0 && slice ctl 39 35 == 0 && slice ctl 31 15 == 0
    && n != 0 && decide (slice ctl 14 0 ≤ 16384) && poolOf lo == poolOf (lo + n - 1) && packageOf lo == packageOf (lo + n - 1)

/-- A write of WBASE (`ctl` false) or WCTL of window n; ignored when R484 does not allow it. WBASE alone is checked
against its own fields while the window has no length yet. -/
def windowWrite (n : Nat) (ctl : Bool) (v : Word) (d : Dev) : Dev :=
  if ctl then
    (if windowOk (vget d.wbase n) v then { d with wctl := vset d.wctl n v } else d)
  else if slice v 63 52 = 0 ∧ slice v 15 0 = 0 ∧ (slice (vget d.wctl n) 14 0 = 0 ∨ windowOk v (vget d.wctl n)) then
    { d with wbase := vset d.wbase n v }
  else d

/-- A dword of a key slot is stored; the last one installs the key, and a key of zeros empties the slot (R492). Slot 0
stays without encryption. -/
def keyWrite (slot dword : Nat) (v : Word) (d : Dev) : Dev :=
  let at_ := slot * 8 + dword
  let stage : List (Nat × Word) := (at_, v) :: d.keyStage.filter (fun p => p.1 != at_)
  let part (k : Nat) : Nat :=
    match stage.find? fun (p : Nat × Word) => p.1 == slot * 8 + k with
    | some p => p.2.toNat * 2 ^ (64 * k)
    | none => 0
  let key := ((List.range 8).map part).foldl (· + ·) 0
  let rest := d.keys.filter fun p => p.1 != slot
  if dword = 7 then
    { d with
      keyStage := stage.filter fun p => p.1 / 8 != slot
      keys := if key = 0 ∨ slot = 0 then rest else (slot, key) :: rest }
  else { d with keyStage := stage }

/-- A counter register at an offset is set to 0 by a store (R483). -/
def counterClear (off : Nat) (d : Dev) : Dev :=
  if off = 0x100 then { d with badaddr := 0 }
  else if off = 0x108 then { d with peerdrop := 0 }
  else if off = 0x8200 then { d with recover := 0 }
  else if 0x8000 ≤ off ∧ off < 0x8030 then { d with stretch := vset d.stretch ((off - 0x8000) / 8) 0 }
  else if 0x8100 ≤ off ∧ off < 0x81A0 then { d with linkerr := vset d.linkerr ((off - 0x8100) / 8) 0 }
  else d

/-- Writing 1 clears NOTICE bits (R483). -/
def noticeClear (v : Word) (d : Dev) : Dev := { d with notice := d.notice &&& ~~~v }

/-- An aligned 8-byte store to an offset of the register block (R483). -/
def devWrite (off : Nat) (v : Word) (d : Dev) : Dev :=
  if off % 8 ≠ 0 then d
  else if 8 ≤ off ∧ off < 0x28 then
    { d with portctl := vset d.portctl (off / 8 - 1) (v &&& 0x8000FF0000000000) }
  else if 0x1000 ≤ off ∧ off < 0x1400 then windowWrite ((off - 0x1000) / 16) (off % 16 == 8) v d
  else if 0x4000 ≤ off ∧ off < 0x8000 then keyWrite ((off - 0x4000) / 64) ((off - 0x4000) % 64 / 8) v d
  else if off = 0x8208 then noticeClear v d
  else if 0x9000 ≤ off ∧ off < 0x90D0 then
    let c := (off - 0x9000) / 16
    let h := vget d.hot c
    let h' : Hot :=
      if off % 16 = 0 then { h with ctl := setBit h.ctl 63 (v.getLsbD 63) } else { h with base := v &&& 0x000FFFFFFFFFFF00 }
    { d with hot := vset d.hot c h' }
  else counterClear off d

end Sys2Proof.Machine
end

