-- ==== Sys2Proof/Machine/Image.lean ====
section
/-! DEFINITION. The byte images of groups and teams in context slots and checkpoint buffers (spec/03_lead.md R113;
spec/16_traps.md R459 to R461; spec/17_protection.md R468). A byte that the manual calls undefined is `none` here and
becomes a free value when it is written. Reserved bytes are 0 (log entry 40). -/

namespace Sys2Proof.Machine

/-- Bytes with those undefined filled by free values, numbered from `start` (log entry 7). -/
def fillFree (start : Nat) (l : List (Option Byte)) : List Byte :=
  l.zipIdx.map fun p => p.1.getD (Config.freeByte (start + p.2))

/-- Defined bytes. -/
def known (l : List Byte) : List (Option Byte) := l.map some

/-- n undefined bytes. -/
def unknownBytes (n : Nat) : List (Option Byte) := List.replicate n none

/-- A translation register as R113 lays it out. -/
def Xb.toNat (x : Xb) : Nat :=
  let bit (b : Bool) (i : Nat) : Nat := if b then 2 ^ i else 0
  x.base.toNat * 2 ^ 192 + x.limit.toNat * 2 ^ 128 + x.frame.toNat * 2 ^ 64 + x.span.toNat * 2 ^ 24 + x.key.toNat * 2 ^ 16
    + x.psize.toNat * 2 ^ 12 + bit x.v 7 + bit x.comp 6 + bit x.sup 5 + bit x.wr 2 + bit x.rd 1

/-- The register of a context's saved layout, with SPAN = 0 (R456). -/
def Xb.ofSaved (ctx n : Nat) : Xb where
  base := BitVec.ofNat 64 (n / 2 ^ 192)
  limit := BitVec.ofNat 64 (n / 2 ^ 128)
  frame := BitVec.ofNat 64 (n / 2 ^ 64)
  span := 0
  key := BitVec.ofNat 8 (n / 2 ^ 16)
  psize := BitVec.ofNat 4 (n / 2 ^ 12)
  v := bitN n 7
  comp := bitN n 6
  sup := bitN n 5
  wr := bitN n 2
  rd := bitN n 1
  ctx := ctx

/-! ## Groups -/

/-- v0 to v255 as R459 lays them out; those at or beyond the count are undefined. -/
def Lanes.vImage (l : Lanes) : List (Option Byte) :=
  (List.range 256).flatMap fun r =>
    if r < l.count then known ((vget l.v r).toList.flatMap fun w => leBytes 4 w.toNat) else unknownBytes 128

/-- The held point as the group state word gives it (R460): the slot at which the clause in progress stands. -/
def heldPoint (r : Runner) : Nat :=
  match r.l.run.cur with
  | some c => (c.hdr + 1 + c.pos) * 2 ^ 106 + c.hdr * 2 ^ 84 + 2 ^ 83
  | none => 0

/-- The group state word (R460). -/
def Runner.stateWord (r : Runner) : Nat := heldPoint r + r.l.count * 2 ^ 32 + r.l.live.toNat

/-- The CSRs of a group slot (R459). -/
def Runner.csrDwords (r : Runner) : List Nat :=
  [r.status.toNat, r.cause.toNat, r.epc.toNat, r.l.lpc.toNat, r.faultaddr.toNat,
    r.l.fragmask.toNat * 2 ^ 32 + r.l.faultmask.toNat, r.l.skipmask.toNat, r.sscr0.toNat, r.sscr1.toNat, r.l.mfb.toNat,
    r.txretry.toNat, r.l.osfault.toNat, r.sealed * 2 ^ 32 + r.openOps.length % 128, r.lastCommit, r.pc.toNat, 0]

/-- Group-slot offsets 0xA000 to 0xA3FF (R459, R468). -/
def Runner.lowImage (r : Runner) : List Byte :=
  (r.s.toList.flatMap fun w => leBytes 8 w.toNat)
    ++ (r.xb.toList.flatMap fun x => leBytes 32 x.toNat)
    ++ ((r.l.m.toList.mapIdx fun i m => if i = 0 then r.l.live else m).flatMap fun m => leBytes 4 m.toNat)
    ++ leBytes 64 r.stateWord
    ++ r.csrDwords.flatMap (leBytes 8)

/-- The k-th number of w bytes in an image. -/
def imageNum (bs : List Byte) (off w k : Nat) : Nat := leNat ((bs.drop (off + w * k)).take w)

/-- A group with the registers of its image: `v`, `locker` and `low` in the order of R459. Reserved bits of STATUS and TXRETRY
come back as 0 (R9), s0 as 0, and the open set as so many complete operations (R314). -/
def Runner.fromImage (v locker low : List Byte) (r : Runner) : Runner :=
  let n := imageNum low 0x340 16 0
  let csr (k : Nat) : Nat := imageNum low 0x380 8 k
  let w (k : Nat) : Word := BitVec.ofNat 64 (csr k)
  let count := bitsN n 40 32
  let s := Vector.ofFn fun k : Fin 64 => if k = 0 then 0 else BitVec.ofNat 64 (imageNum low 0 8 k)
  let xb := Vector.ofFn fun k : Fin 8 => Xb.ofSaved r.ctx (imageNum low 0x200 32 k)
  { r with
    s := s
    xb := xb
    tx := { r.tx with snapS := s, snapXb := xb }
    status := w 0 &&& 0xC3
    cause := BitVec.ofNat 8 (csr 1)
    epc := w 2
    faultaddr := w 4
    sscr0 := w 7
    sscr1 := w 8
    txretry := w 10 &&& 0x1FF
    sealed := csr 12 / 2 ^ 32
    openOps := List.replicate (csr 12 % 128) 0
    lastCommit := csr 13
    pc := w 14
    l := { r.l with
      v := Vector.ofFn fun k : Fin 256 =>
        if k < count then Vector.ofFn fun j : Fin 32 => BitVec.ofNat 32 (imageNum v (128 * k) 4 j) else Vector.replicate 32 0
      count := count
      m := Vector.ofFn fun k : Fin 16 => if k = 0 then vget r.l.m 0 else BitVec.ofNat 32 (imageNum low 0x300 4 k)
      live := BitVec.ofNat 32 n
      lpc := BitVec.ofNat 22 (csr 3)
      faultmask := BitVec.ofNat 32 (csr 5)
      fragmask := BitVec.ofNat 32 (csr 5 / 2 ^ 32)
      skipmask := BitVec.ofNat 32 (csr 6)
      mfb := w 9
      osfault := w 11
      locker := cellsOf 0 locker } }

/-- TX_PREEMPT of a lead transaction (R267, R290): rolled back and uncounted, it is to begin again at the word after its
TXBEG; the fallback lock is not kept. -/
def Runner.txRestart (r : Runner) : Runner :=
  if r.tx.active then
    let r := r.rollback false
    { r with tx := { r.tx with fb := false } }
  else r

/-- A lead transaction that an interrupt or a lane trap finds is set aside while the handler runs (R290). -/
def Runner.setAside (r : Runner) : Runner :=
  if r.tx.active then
    let r := r.txRestart
    { r with tx := Tx.none, txHeld := (r.ctx, r.tx) :: r.txHeld }
  else r

/-- A thread that goes on after the TXBEG of a transaction set aside begins it again, with its snapshot taken again (R290,
log entry 85). -/
def Runner.takeBack (r : Runner) : Runner :=
  match r.txHeld.find? fun x => x.1 == r.ctx && x.2.resume == r.pc with
  | some x =>
    if r.tx.active then r
    else { r with tx := { x.2 with snapS := r.s, snapXb := r.xb }, txHeld := r.txHeld.filter (· != x) }
  | none => r

/-- A translation register as it comes back with a saved state (R115, R456). -/
def Xb.noSpan (x : Xb) : Xb := { x with span := 0 }

/-- Queued runs as they come back: each with its registers (R115). -/
def LaneRuns.noSpan (u : LaneRuns) : LaneRuns := { u with runs := u.runs.map fun r => { r with xb := r.xb.map Xb.noSpan } }

/-- A stream set back to its first element not yet consumed (R122); one that has ended has none. -/
def Stream.rewind (l : Lanes) (y : Stream) : Stream :=
  let x := { y with xb := y.xb.noSpan }
  let q := (vget x.desc 1).toNat / 2 ^ 13 % 8
  if x.ended then x
  else
    match (vget l.q q).head? with
    | some e => { x with next := e.elem, fault := none }
    | none => { x with fault := none }

/-- The group as it goes on after its state has come back (R156, R456): flags clear, queues empty, no wait. -/
def Runner.atRest (r : Runner) : Runner :=
  let r := r.txRestart
  { r with
    wait := .none
    l := { r.l with w := Vector.replicate 12 0, q := Vector.replicate 8 [], outst := [], grow := none } }

/-! ## Teams -/

/-- The landing of a team, by physical position. -/
def Team.landImage (t : Team) : List Byte := t.land.read 0 t.len

/-- The shadow bank of a team. -/
def Team.shadowImage (t : Team) : List Byte := t.shadow.read (t.len - t.exch) t.exch

/-- Tile k of a team. -/
def Team.tileImage (t : Team) (k : Nat) : List Byte := t.acc.read (65536 * k) 65536

/-- A team with the landing, shadow bank and tiles of its images. -/
def Team.fromImage (land shadow : List Byte) (tiles : List (List Byte)) (t : Team) : Team :=
  { t with
    land := cellsOf 0 land
    shadow := cellsOf (t.len - t.exch) shadow
    acc := tiles.zipIdx.foldl (fun m p => Mem.write m (65536 * p.2) p.1) [] }

/-! ## Checkpoint images (R468, R471) -/

/-- The status word of a team's checkpoints (R471). -/
def ckptWord : Option Ckpt → Word
  | none => 0
  | some c =>
    BitVec.ofNat 64 (2 ^ 63 + (if c.clean then 2 ^ 62 else 0) + (if c.buf then 2 ^ 61 else 0) + c.seq % 2 ^ 32)

/-- Where the valid buffer of a team stands. -/
def Ckpt.valid (c : Ckpt) : Nat := c.base + if c.buf then c.half else 0

/-- Offset of group g in a checkpoint image. -/
def ckGroupAt (t : Team) (g : Nat) : Nat := 4096 + t.len + t.exch + 65536 * t.tiles + 41984 * g

/-- The image of a team and its groups, group g at index g (R468); the place of a group that has exited holds undefined
bytes. -/
def ckImage (c : Ckpt) (t : Team) (gs : List Runner) : List (Option Byte) :=
  known (leBytes 8 (ckptWord (some c)).toNat) ++ unknownBytes 4088
    ++ known (t.landImage ++ t.shadowImage ++ (List.range t.tiles).flatMap t.tileImage)
    ++ (List.range (gs.foldl (fun n r => max n (r.gno + 1)) 0)).flatMap fun g =>
      match gs.find? fun r => r.gno == g with
      | some r => known (r.l.locker.read 0 8192) ++ r.l.vImage ++ known r.lowImage
      | none => unknownBytes 41984

/-- A team's image read back (R469). -/
def ckTeam (s : State) (a : Nat) (t : Team) : Team :=
  t.fromImage (homeRead s 0 (a + 4096) t.len) (homeRead s 0 (a + 4096 + t.len) t.exch)
    ((List.range t.tiles).map fun k => homeRead s 0 (a + 4096 + t.len + t.exch + 65536 * k) 65536)

/-- A group's image read back (R469). -/
def ckGroup (s : State) (a : Nat) (t : Team) (r : Runner) : Runner :=
  let b := a + ckGroupAt t r.gno
  let r := { r with l := { r.l with run := r.l.run.noSpan, held := r.l.held.map LaneRuns.noSpan } }
  r.fromImage (homeRead s 0 (b + 8192) 32768) (homeRead s 0 b 8192) (homeRead s 0 (b + 40960) 1024)

end Sys2Proof.Machine
end

