-- ==== Sys2Proof/Machine/End.lean ====
section
/-! DEFINITION. What ends work: notices to host cores (spec/16_traps.md R439), ends of groups, teams, grids and
contexts (R437; spec/15_launch.md R416 to R418), the reclaim of tickets (spec/07_tickets.md R207, R213), the halt line
(R445, R446) and the roll back of a team (spec/17_protection.md R469). -/

namespace Sys2Proof.Machine

/-- A notice becomes pending at host core n (R439): kind in [63:48], source in [15:0]. -/
def notify (n kind src : Nat) (s : State) : State :=
  s.onRunner (.host n) fun r => { r with ints := r.ints ++ [BitVec.ofNat 64 (kind * 2 ^ 48 + src % 2 ^ 16)] }

/-- The size of an entry's data that are still in flight when it is dropped or reclaimed (R207). -/
def Cloak.flying (e : Cloak) : Option Nat :=
  if e.st == .pending || (e.st == .claimed && !e.performed) then some e.size else e.late

/-- An entry is reclaimed (R207): FREE with the next generation, without data, CTX or SIZE; data still in flight keep its
units, and what they would have been is of no use any more. -/
def Cloak.reclaim (e : Cloak) : Cloak :=
  { e with
    st := .free
    gen := e.gen + 1
    ctx := 0
    size := 0
    lease := none
    poison := false
    performed := true
    data := []
    lines := []
    late := e.flying
    take := none }

/-- An entry is live (R205). -/
def CSt.live (st : CSt) : Bool := st == .pending || st == .ready || st == .claimed

/-- A cloakroom holds no live entry (R205). -/
def cloakIdle (s : State) (die slice_ : Nat) : Bool :=
  !s.cloaks.any fun e => e.id.die == die && e.id.slice == slice_ && e.st.live

/-- A CLKCFG value that waits takes effect as soon as its cloakroom holds no live entry (R205). -/
def settleClk (s : State) : State :=
  if s.clkcfg.all fun c => c.pending.isNone then s
  else { s with clkcfg := mapIf (fun c => cloakIdle s c.die c.slice) (fun c => { c with cur := c.pending.getD c.cur, pending := none }) s.clkcfg }

/-- Entries are reclaimed (R207, R213). A redemption that was delivering one is abandoned: its runner waits no longer. -/
def reclaimAll (p : Cloak → Bool) (s : State) : State :=
  let gone := s.cloaks.filter fun e => p e && e.st != .free
  let left (r : Runner) : Bool := gone.any fun e => e.take.any fun x => x.1 == r.id
  let f (r : Runner) : Runner := if r.wait = .redeem && left r then { r with wait := .none } else r
  settleClk { s with
    outb := if s.outb.isEmpty then s.outb else s.outb.filter fun o => !gone.any fun e => o.ask == .ticket e.id
    cloaks := mapIf (fun e => p e && e.st != .free) Cloak.reclaim s.cloaks
    me := f s.me
    others := s.others.map f }

/-- Every entry of a context that is not FREE is reclaimed (R213). -/
def reclaimCtx (n : Nat) (s : State) : State := reclaimAll (fun e => e.ctx == n) s

/-- The core clock of a core's hall (R35). -/
def coreClock (s : State) (core : Nat) : Nat := vget s.clocks.core (core / 64)

/-- The core clock that a partition's scheduler and collector count: its first hall's (R35, log entry 86). -/
def partClock (s : State) (part : Nat) : Nat :=
  match (s.parts.find? fun p => p.no == part).bind fun p => p.halls.head? with
  | some h => vget s.clocks.core h
  | none => 0

/-- A read that an instruction of a runner has asked for beyond the package. -/
def Outbound.readBy (who : RunnerId) (o : Outbound) : Bool :=
  o.who == who && !o.wr && match o.ask with | .instr _ | .code => true | _ => false

/-- The reads that a runner's instructions have asked for are of no more use. -/
def dropReads (who : RunnerId) (s : State) : State :=
  if s.outb.isEmpty then s else { s with outb := s.outb.filter fun o => !o.readBy who }

/-- Groups leave the machine. A runner in focus that leaves gives the focus to the first runner left. -/
def dropRunners (p : Runner → Bool) (s : State) : State :=
  let gone := s.runners.filter p
  let w := gone.foldl (fun w r => w.release r.id) s.wicket
  let rest := s.others.filter fun r => !p r
  let s := { s with wicket := w, outb := s.outb.filter fun o => !gone.any fun r => o.readBy r.id }
  if p s.me then
    match rest with
    | [] => { s with me := { s.me with stopped := true }, others := [] }
    | r :: rs => { s with me := r, others := rs, lane := false }
  else { s with others := rest }

/-- The team in whose landing a place lies. -/
def Loc.team? : Loc → Option Nat
  | .land t _ _ => some t
  | .mem _ _ _ => none

/-- The teams whose landings an operation's work reads or writes. -/
def EKind.teams : EKind → List Nat
  | .copy ms _ => (ms.filterMap fun m => m.dst.team?) ++ ms.filterMap fun m => match m.src with | .loc l => l.team? | _ => none
  | .fetch _ _ _ _ _ _ l => l.team?.toList
  | _ => []

/-- An engine operation reads or writes the landing of a team. -/
def EngOp.touchesTeam (uid : Nat) (o : EngOp) : Bool := o.kind.teams.contains uid

/-- A matrix operation that runs or is ready (R335, R361). -/
def MOp.due (t : Team) (m : MOp) : Bool := m.running || m.tiles.all fun k => vget t.vers k == m.ver

/-- Teams whose groups have all exited: their matrix operations that wait for a version are discarded, and with the last of
the others the team has exited, which its grid counts (R361, R417). They leave once no operation touches their landing
(R313). -/
def sweepTeams (s : State) : State :=
  let mops := s.mops.filter fun m => !s.teams.any fun t => t.uid == m.team && t.groups == 0 && !m.due t
  let out (t : Team) : Bool := t.groups == 0 && !mops.any fun m => m.team == t.uid
  let fresh (h : Word) : Nat := (s.teams.filter fun t => t.grid == h && !t.exited && out t).length
  let dead := s.teams.filter fun t =>
    t.groups == 0 && !s.ops.any (EngOp.touchesTeam t.uid) && !mops.any fun m => m.team == t.uid
  let gone := fun uid => dead.any fun t => t.uid == uid
  let squads := s.squads.map fun q => { q with teams := q.teams.filter fun u => !gone u }
  let live := squads.filter fun q => !q.teams.isEmpty
  let left := fun uid => !live.any fun q => q.uid == uid
  { s with
    mops := mops
    grids := s.grids.map fun g => { g with ended := g.ended + fresh g.handle }
    teams := (s.teams.filter fun t => !gone t.uid).map fun t => if out t then { t with exited := true } else t
    squads := live
    streams := s.streams.filter fun st => !left st.squad
    subs := s.subs.filter fun b => s.streams.any fun st => st.gal == b.gal && st.os == b.os && !left st.squad
    lranges := s.lranges.filter fun g => !gone g.team
    cksaves := s.cksaves.filter fun c => !gone c.team.uid }

/-- A group's exit counts at its team; with the last one the team is to exit (R417). -/
def countExit (team : Nat) (s : State) : State :=
  sweepTeams { s with teams := mapIf (fun u => u.uid == team) (fun u => { u with groups := u.groups - 1 }) s.teams }

/-- Work that the test of a grid's handle names is discarded: groups, teams, squads, saved squads, matrix operations
and streams. Groups that `stay` holds of have still to reach their point (R417, R452), and their team and squad stay with
them. -/
def discardGrids (p : Word → Bool) (stay : Runner → Bool) (s : State) : State :=
  let on := s.runners.filter fun r => !r.isHost && p r.grid && stay r
  let tstays := fun uid => on.any fun r => r.team == uid
  let tgone := fun uid => !tstays uid && s.teams.any fun t => t.uid == uid && p t.grid
  let qgone := fun uid => s.squads.any fun q => q.uid == uid && p q.grid && !q.teams.any tstays
  let s := { s with
    mops := s.mops.filter fun m => !(s.teams.any fun t => t.uid == m.team && p t.grid) || on.any fun r => r.id == m.who
    streams := s.streams.filter fun st => !qgone st.squad
    subs := s.subs.filter fun b => s.streams.any fun st => st.gal == b.gal && st.os == b.os && !qgone st.squad
    lranges := s.lranges.filter fun g => !tgone g.team || s.ops.any (EngOp.touchesTeam g.team)
    saved := s.saved.filter fun v => !p v.squad.grid
    cksaves := s.cksaves.filter fun c => !p c.team.grid
    squads := s.squads.filter fun q => !qgone q.uid
    teams := (s.teams.map fun t => if tgone t.uid then { t with groups := 0, exited := true } else t).filter fun t =>
      !tgone t.uid || s.ops.any (EngOp.touchesTeam t.uid) }
  dropRunners (fun r => !r.isHost && p r.grid && !stay r) s

/-- Handle h is grid g or a descendant of it, following at most `fuel` parents. -/
def descends (s : State) (g : Word) : Nat → Word → Bool
  | 0, h => h == g
  | n + 1, h =>
    h == g ||
      match s.grids.find? fun x => x.handle == h with
      | some x => match x.parent with | some p => descends s g n p | none => false
      | none => false

/-- A group stands in the middle of a clause or of a redemption, which is no point at which its grid's end stops it (R417,
R452). -/
def midClause (s : State) (r : Runner) : Bool :=
  r.l.run.cur.isSome || s.cloaks.any fun e => e.take.any fun x => x.1 == r.id

/-- A grid and its live descendants end with a status and a code (R417, R418): nothing more is placed, placed groups
are discarded at their points, and issued copies go on. A grid already stopped keeps its code. -/
def endGrid (h : Word) (status code : Nat) (s : State) : State :=
  let p := fun x => s.grids.any (fun g => g.handle == x) && descends s h 16 x
  let f := fun (g : Grid) => { g with stop := g.stop.or (some (status, code)) }
  discardGrids p (midClause s) { s with grids := mapIf (fun g => p g.handle) f s.grids }

/-- An end of context whose operations are all complete is reported: the NOTIFY host core takes the notice, and the
context is gone (R437). -/
def finishEnds (s : State) : State :=
  s.ctxs.foldl (fun s c =>
    if c.ending && !s.ops.any fun o => o.ctx == c.id then
      notify (slice c.notify 5 0) 3 c.id { s with ctxs := s.ctxs.filter fun d => d.id != c.id }
    else s) s

/-- A host core leaves its context (R429): TX_PREEMPT rolls its transaction back, to begin again, and those of the context's
other threads are gone with the context (R265, R290, R437, log entry 108). -/
def Runner.unbind (r : Runner) : Runner :=
  let n := r.ctx
  let r := r.txRestart
  { r with ctx := 0, wait := if r.wait = .redeem then .none else r.wait, txHeld := r.txHeld.filter fun x => x.1 != n }

/-- A context ends (R437). -/
def endContext (n : Nat) (s : State) : State :=
  let p := fun h => s.grids.any fun g => g.handle == h && g.ctx == n
  let s := discardGrids p (fun _ => false) s
  let s := reclaimCtx n s
  let bound := s.runners.filter fun r => r.isHost && r.ctx == n
  let s := bound.foldl (fun s r =>
    { s.onRunner r.id Runner.unbind with
      wicket := s.wicket.release r.id, outb := s.outb.filter fun o => !o.readBy r.id }) s
  finishEnds { s with
    grids := s.grids.filter fun g => g.ctx != n
    tlb := s.tlb.filter fun t => t.ctx != n
    ctxs := mapIf (fun c => c.id == n) (fun c => { c with ending := true }) s.ctxs }

/-- The partition's halt line is raised (R445, R446) by an engine; a line already raised keeps its origin. -/
def raiseHalt (part : Nat) (h : Halt) (s : State) : State :=
  { s with parts := mapIf (fun p => p.no == part) (fun p => { p with halt := p.halt.or (some h) }) s.parts }

/-- The partition's line is raised. -/
def halted (s : State) (part : Nat) : Bool := s.parts.any fun p => p.no == part && p.halt.isSome

/-- The clause in progress stands at a held point (R453): its next instruction was found waiting for a register that a
matrix operation of the group is to write, and that operation waits for a version. -/
def atHeldPoint (s : State) (r : Runner) (c : Clause) : Bool :=
  c.stall.any fun d => s.mops.any fun m =>
    m.who == r.id && !(s.teams.any fun t => t.uid == m.team && m.due t)
      && match m.kind with | .accrd _ _ reg _ => reg == d | _ => false

/-- What `Clause.stall` holds of a clause that a failed ASSERT of its lanes has stopped (R443): no register. -/
def assertStall : Nat := 256

/-- The lanes of a group stand at their point (R452): a clause boundary, a held point, or an ASSERT that failed. -/
def lanesStill (s : State) (r : Runner) : Bool :=
  r.l.run.cur.all fun c => c.stall == some assertStall || atHeldPoint s r c

/-- What redemptions claimed for lanes of the groups, their bytes still to come, deliver to nobody (R469): the entries are
spent. -/
def Cloak.forsake (e : Cloak) : Cloak :=
  { e with st := .spent, lease := none, performed := true, data := [], lines := [], take := none, late := e.flying }

/-- A team goes back to its valid checkpoint (R469): the laid-out state from the buffer, the rest as its header holds
it. Groups that have exited since come back. -/
def rollbackTeam (c : Ckpt) (k : CkSave) (s : State) : State :=
  let saved := k.groups.map (ckGroup s c.valid k.team)
  let t := ckTeam s c.valid k.team
  let back (r : Runner) : Runner :=
    match saved.find? fun g => g.id == r.id with
    | some g => { g with core := r.core, slot := r.slot }
    | none => r
  let gone := saved.filter fun g => !s.runners.any fun r => r.id == g.id
  let mine := fun (x : Stream) => k.groups.any (fun g => g.id == x.owner) && !(vget x.desc 1).getLsbD 12
  let s' := s.runners.foldl (fun s r => if r.team = t.uid then { s with wicket := s.wicket.release r.id } else s) s
  { s' with
    me := back s.me
    others := s.others.map back ++ gone
    outb := s.outb.filter fun o => !k.groups.any fun g => o.readBy g.id
    cloaks := mapIf (fun e => e.take.any fun x => k.groups.any fun g => g.id == x.1) Cloak.forsake s.cloaks
    teams := mapIf (fun u => u.uid == t.uid)
      (fun u => { t with core := u.core, row := u.row, tile0 := u.tile0, ck := u.ck.map fun c => { c with back := none } }) s.teams
    mops := s.mops.filter (fun m => m.team != t.uid) ++ k.mops
    streams := s.streams.filter (fun x => !mine x) ++ k.streams }

/-- The lane slot at which a group stands: the next of its clause, or where its first fragment goes on. -/
def Runner.laneSlot (r : Runner) : Nat :=
  match r.l.run.cur with
  | some c => c.hdr + 1 + c.pos
  | none => ((r.l.run.frags.head?).map (·.pc)).getD 0

/-- The lane mask of the group's live lanes that stands in for m0 outside a run (R432). -/
def Runner.liveMask (r : Runner) : Mask := r.l.live

/-- The runner named comes into focus. -/
def focus (who : RunnerId) (s : State) : Option State :=
  if s.me.id = who then some s
  else (s.others.find? fun r => r.id == who).map fun r =>
    { s with me := r, others := mapIf (fun x => x.id == who) (fun _ => s.me) s.others }

/-- Do something as another runner: it comes into focus for that, and the focus goes back if its runner is still there. -/
def asRunner (who : RunnerId) (f : State → State) (s : State) : State :=
  match focus who s with
  | none => s
  | some t => (focus s.me.id (f t)).getD (f t)

/-- The group in focus raises its partition's halt line with a cause and stops (R445, R447); `lpc` is its lane slot. -/
def haltGroup (cause : Nat) (addr : Word) (lanes : Mask) (lpc : Nat) (s : State) : State :=
  let r := s.me
  let h : Halt := ⟨r.core, cause, addr, r.pc, lpc, lanes, r.ctx, r.slot, partClock s r.part, s.clocks.fabric, true, [], [], false⟩
  let s := raiseHalt r.part h s
  { s with me := { s.me with stopped := true } }

/-- A team whose roll back has been asked for goes back as soon as every group of it stands at its point (R469, R452). An
error in the buffer is fatal for the group that asked, and ADDR names the buffer. -/
def settleRollback (uid : Nat) (s : State) : State :=
  match s.teams.find? fun t => t.uid == uid, s.cksaves.find? fun k => k.team.uid == uid with
  | some t, some k =>
    match t.ck with
    | none => s
    | some c =>
      match c.back with
      | none => s
      | some who =>
        if !(s.runners.filter fun r => !r.isHost && r.team == uid).all (lanesStill s) then s
        else if poisoned s c.valid c.half then
          asRunner who (fun s => haltGroup 0xA1 (BitVec.ofNat 64 c.valid) s.me.liveMask s.me.laneSlot s)
            { s with teams := mapIf (fun u => u.uid == uid) (fun u => { u with ck := some { c with back := none } }) s.teams }
        else rollbackTeam c k s
  | _, _ => s

/-- The group in focus asks for its team's roll back (R469): it stops where it stands, its clause in progress is
discarded. -/
def askRollback (uid : Nat) (s : State) : State :=
  let me := { s.me with l := { s.me.l with run := { s.me.l.run with cur := none } } }
  settleRollback uid { s with
    me := me
    teams := mapIf (fun u => u.uid == uid) (fun u => { u with ck := u.ck.map fun c => { c with back := some (c.back.getD s.me.id) } }) s.teams }

/-- A fatal cause in the group in focus (R445, R469): a clean checkpointing team rolls back, a dirty one raises
ROLLBACK_DENIED, every other group raises the line and stops. -/
def fatalGroup (cause : Nat) (addr : Word) (lanes : Mask) (lpc : Nat) (s : State) : State :=
  let ck := (s.teams.find? fun t => t.uid == s.me.team).bind (·.ck)
  let save := s.cksaves.any fun k => k.team.uid == s.me.team
  match cause, ck, save with
  | 0xA1, some c, true => if c.clean then askRollback s.me.team s else haltGroup 0xA3 addr lanes lpc s
  | c, _, _ => haltGroup c addr lanes lpc s

end Sys2Proof.Machine
end

