-- ==== Sys2Proof/Machine/Ops.lean ====
section
/-! DEFINITION. The shared operations: how an instruction can stop, taking a trap and returning from one
(spec/16_traps.md R432 to R439), lead registers, lead accesses to memory with their order
(spec/08_ordering.md R241 to R248), and transactional accesses (spec/09_transactions.md R275 to R286). -/

namespace Sys2Proof.Machine

/-- What a trapping execution does to the queue entries that its sources name (R129, R191): they stay, they are popped
and read again by the re-execution, or they are popped and the re-execution pops the next ones. -/
inductive QPop where
  | stay | kept | again
deriving DecidableEq, Repr

/-- Why an instruction does not complete in this step: a cause of the whole stream, a cause of a lane fragment
(R423), causes of lanes (lane, cause, address) with what becomes of the queue entries popped, not ready (nothing happens), not ready with a request made, the abort
of the runner's own transaction, or a conflict that rolls it back. -/
inductive Stop where
  | trap (cause : Nat) (addr : Word)
  | trapAt (cause : Nat) (addr epc : Word)
  | frag (cause : Nat) (addr : Word)
  | lanes (l : List (Nat × Nat × Word)) (q : QPop)
  | wait
  | park (f : State → State)
  | abort (code detail : Nat)
  | conflict

/-- An operation of an instruction: it changes the state or stops. -/
abbrev Op := StateT State (Except Stop)

/-- The outcome of a step. -/
abbrev Result := Host.Outcome State Fault Refusal

/-- Stop with a cause. -/
def stopTrap (cause : Nat) (addr : Word) : Op α := throw (.trap cause addr)

/-- Trap unless the condition holds. -/
def need (c : Bool) (cause : Nat) (addr : Word) : Op Unit := if c then pure () else stopTrap cause addr

/-- Wait as not ready unless the condition holds. -/
def readyIf (c : Bool) : Op Unit := if c then pure () else throw .wait

/-! ## Taking a trap -/

/-- STATUS at a trap (R427, R432, R439): MODE 1, PMODE the old MODE, TRAP 1, LANE; on a host core PIE the old IE and
IE 0. -/
def trapStatus (host lane : Bool) (st : Word) : Word :=
  let st := setBit (setBit (setBit (setBit st 1 (st.getLsbD 0)) 0 true) 6 true) 7 lane
  if host then setBit (setBit st 5 (st.getLsbD 4)) 4 false else setBit (setBit st 5 false) 4 false

/-- A host core takes a trap (R439). With a trap in progress it is DOUBLE_TRAP, and with TVEC 0 there is no handler:
the core stops. -/
def hostTrap (cause : Nat) (addr epc : Word) (r : Runner) : Runner :=
  { r with
    status := trapStatus true false r.status
    cause := BitVec.ofNat 8 (if r.inTrap then 0xB5 else cause)
    epc := epc
    faultaddr := addr
    pc := r.tvec
    stopped := r.inTrap || r.tvec == 0
    wait := .none }

/-- A host core takes a pending interrupt between instructions (R439); a transaction starts again afterwards (R290). -/
def hostInterrupt (w : Word) (r : Runner) : Runner :=
  let r := r.setAside
  { hostTrap 0xB6 w r.pc r with ints := r.ints.drop 1 }

/-- TVEC that a group uses: its context's (R426). -/
def groupTvec (s : State) : Word := ((ctx? s s.me.ctx).map (·.tvec)).getD 0

/-- The group's own runs are held and an empty handler queue takes their place (R434). A lane trap that comes again leaves no
lane out of the instruction that it stops (R435). -/
def Lanes.hold (lane : Bool) (l : Lanes) : Lanes :=
  let u := l.held.getD l.run
  { l with held := some (if lane then { u with skip := 0 } else u), run := LaneRuns.empty }

/-- What a trap of a group sets (R432): `lane` tells the stream, `vc` the cause and address of each lane that has one,
`frag` FRAGMASK, `lpc` LPC. -/
def Runner.enter (lane : Bool) (cause : Nat) (addr epc tvec : Word) (vc : List (Nat × Nat × Word)) (frag : Mask)
    (lpc : BitVec 22) (r : Runner) : Runner :=
  { r with
    status := trapStatus false lane r.status
    cause := BitVec.ofNat 8 cause
    epc := epc
    faultaddr := addr
    pc := tvec
    entry := false
    wait := .none
    l := { r.l.hold lane with
      grow := none
      lpc := lpc
      fragmask := frag
      faultmask := maskOf (vc.map (·.1))
      skipmask := 0
      vcause := vc.foldl (fun v x => vset v x.1 (BitVec.ofNat 8 x.2.1)) (Vector.replicate 32 0)
      vfault := vc.foldl (fun v x => vset v x.1 x.2.2) (Vector.replicate 32 0) } }

/-- A cause that no handler takes (R437, R418): the grid ends where CONTAIN holds it, else the context ends. The clause that
a lane cause stopped goes no further. -/
def unhandled (lane : Bool) (cause : Nat) (s : State) : State :=
  let contained := s.grids.any fun g => g.handle == s.me.grid && g.contain
  if contained ∧ 1 ≤ cause ∧ cause ≤ 0x9F then
    let run := s.me.l.run
    endGrid s.me.grid 2 cause
      (if lane then { s with me := { s.me with l := { s.me.l with run := { run with cur := none } } } } else s)
  else endContext s.me.ctx s

/-- A delivery to a lead form. -/
def Deliver.isLead : Deliver → Bool
  | .reg .. | .mem .. | .land .. => true
  | .laneReg .. | .laneLand .. => false

/-- A lead redemption that still waits is abandoned with no effect when its group takes a trap (R222, R233, R432): its claim
is undone, with the lease unchanged, and the instruction runs again after the handler. -/
def undoClaim (s : State) : State :=
  if s.me.wait = .redeem then
    let mine (e : Cloak) : Bool := e.st == .claimed && e.take.any fun x => x.1 == s.me.id && x.2.isLead
    { s with cloaks := mapIf mine (fun e => { e with st := .pending, take := none }) s.cloaks }
  else s

/-- The writes of the group in focus arrive at their homes before its handler starts (R433), which waits with them for the
holder of the fallback lock (R288). -/
def drainTrap (s : State) : State :=
  let mine (w : PWrite) : Bool := w.who == s.me.id
  if arriveLocked s mine then { s with me := { s.me with wait := .drain } }
  else
    let t := arriveAll s mine
    { t with me := { t.me with wait := .none } }

/-- The group in focus takes a trap (R432 to R434, R437, R445). Before the handler starts, the writes of the group
arrive at their homes (R433). A lead transaction that a lane trap finds in progress is set aside, and EPC names the word
after its TXBEG (log entry 12). -/
def groupTrap (lane : Bool) (cause : Nat) (addr epc : Word) (vc : List (Nat × Nat × Word)) (frag : Mask)
    (lpc : BitVec 22) (s : State) : State :=
  if s.me.inTrap then endContext s.me.ctx s
  else if 0xA1 ≤ cause ∧ cause ≤ 0xA3 then fatalGroup cause addr (maskOf (vc.map (·.1))) (if lane then lpc.toNat else s.me.laneSlot) s
  else if groupTvec s = 0 then unhandled lane cause s
  else
    let s := undoClaim s
    let epc' := if s.me.tx.active then s.me.tx.resume else epc
    drainTrap (dropReads s.me.id { s with
      me := s.me.setAside.enter lane cause addr epc' (groupTvec s) vc frag lpc
      wicket := if s.me.tx.active then s.wicket.release s.me.id else s.wicket })

/-! ## Returning from a trap -/

/-- STATUS at a return (R435, R436): MODE := PMODE, TRAP := 0, and on a host core IE := PIE. -/
def returnStatus (host : Bool) (st : Word) : Word :=
  let st := setBit (setBit st 0 (st.getLsbD 1)) 6 false
  if host then setBit st 4 (st.getLsbD 5) else st

/-- RFE of a host core (R436); a transaction set aside begins again where its thread goes on after TXBEG (R290). -/
def hostReturn (r : Runner) : Runner := { r with pc := r.epc, status := returnStatus true r.status }.takeBack

/-- The slot at which a clause in progress issues next. -/
def Clause.slot (c : Clause) : Nat := c.hdr + 1 + c.pos

/-- The stopped fragment goes on (R435): where LPC still names the slot at which it stopped, its instruction executes
again; otherwise the fragment starts afresh at LPC. -/
def LaneRuns.resumeAt (lpc : Nat) (fragmask : Mask) (u : LaneRuns) : LaneRuns :=
  match u.cur with
  | some c =>
    if c.slot = lpc then u
    else { u with cur := none, frags := mapIf (fun x => x.age == c.age) (fun x => { x with pc := lpc }) u.frags }
  | none => { u with frags := mapIf (fun x => x.mask == fragmask) (fun x => { x with pc := lpc }) u.frags }

/-- The lane half at the end of a handler (R435): the held runs resume, and after a lane trap the stopped fragment, with
the lanes of SKIPMASK left out of its instruction, while every VCAUSE becomes 0. A fragment whose attempt has been rolled back
meanwhile goes on at its restart slot (R274, R284). -/
def Lanes.unhold (lane : Bool) (l : Lanes) : Lanes :=
  let run := l.held.getD l.run
  if lane then
    let back := run.cur.isNone && (lanesOf l.fragmask).any fun k => (vget l.tx k).st == .await
    let run' := if back then run else run.resumeAt l.lpc.toNat l.fragmask
    { l with
      run := { run' with skip := if run'.cur.isSome then l.skipmask else 0 }
      held := none
      faultmask := 0
      vcause := Vector.replicate 32 0
      vfault := Vector.replicate 32 0 }
  else { l with run := run, held := none }

/-- RFE of a group (R435). An EPC that is no multiple of 4 is fetched from as it stands, and so is such a TVEC (log entry
105). -/
def groupReturn (r : Runner) : Runner :=
  { r with
    pc := r.epc
    status := returnStatus false r.status
    l := r.l.unhold (r.status.getLsbD 7) }.takeBack

/-- A lead-stream cause of the runner in focus, its transaction already ended: one operation for host cores and
groups. -/
def takeTrap (cause : Nat) (addr epc : Word) (s : State) : State :=
  if s.me.isHost then
    dropReads s.me.id { s with me := hostTrap cause addr epc s.me }
  else
    let m := s.me.liveMask
    groupTrap false cause addr epc ((lanesOf m).map fun l => (l, cause, addr)) m s.me.l.lpc s

/-- The runner in focus ends its lead transaction for good (R267). -/
def abortFinal (code detail : Nat) (s : State) : State :=
  { s with me := s.me.abortFinal code detail, wicket := s.wicket.release s.me.id }

/-- The runner in focus rolls its attempt back after a conflict (R267, R287). -/
def abortConflict (s : State) : State :=
  let r := s.me.conflict
  { s with me := r, wicket := s.wicket.afterAbort r }

/-- Every byte of a read log holds its logged value at the home, and no plain write met the lines (R282). -/
def logValid (s : State) (rlog : List (Nat × Byte)) (keys : List (Nat × Nat × Bool)) (doomed : Bool) : Bool :=
  !doomed && rlog.all fun p =>
    homeByte s (((keys.find? fun k => k.1 == p.1 / 256).map (·.2.1)).getD 0) p.1 == p.2

/-- The lead attempt of the runner would pass validation now; a host's does, since conflicts end it at once (R280,
R282). -/
def leadValid (s : State) : Bool :=
  s.me.isHost || s.me.tx.fb || logValid s s.me.tx.rlog s.me.tx.keys s.me.tx.doomed

/-- A lead cause, inside or outside a transaction (R286), after what its walk did: inside one the attempt is validated early
(R284), and then ends with TX_FAULT, or with REMOTE_HOME's own code (R263); a decode cause or a fatal one is then taken. A
cause of a code fetch ends it like one of an access (log entry 110). -/
def leadTrap (cause : Nat) (addr epc : Word) (s : State) : State :=
  let s := faultWalk cause addr s.me s
  if !s.me.tx.active then takeTrap cause addr epc s
  else if !leadValid s then abortConflict s
  else if cause ≤ 7 ∨ (0xA1 ≤ cause ∧ cause ≤ 0xA3) then takeTrap cause addr epc (abortFinal 0x56 cause s)
  else
    let t := if cause = 0x27 then abortFinal 0x27 0 s else abortFinal 0x56 cause s
    { t with me := { t.me with faultaddr := addr } }

/-- What a lead instruction that stops does to the state it started from. -/
def stopLead (e : Stop) (s : State) : State :=
  match e with
  | .trap c a => leadTrap c a s.issue.pc s
  | .trapAt c a p => leadTrap c a p s
  | .frag c a => leadTrap c a s.issue.pc s
  | .lanes l _ => leadTrap ((l.head?.map fun x => x.2.1).getD 0) ((l.head?.map fun x => x.2.2).getD 0) s.issue.pc s
  | .wait => s
  | .park f => f s
  | .abort code detail => abortFinal code detail s
  | .conflict => abortConflict s

/-- Run a lead instruction: the program counter stands after it, unless it stops or moves it. -/
def runLead (m : Op Unit) (s : State) : Result :=
  match m.run { s with me := { s.me with pc := s.issue.next } } with
  | .ok (_, t) => .next t
  | .error e => .next (stopLead e s)

/-- Run a step of the machine that no instruction word causes: where its condition fails, nothing happens. -/
def runEvent (m : Op Unit) (s : State) : Result :=
  match m.run s with
  | .ok (_, t) => .next t
  | .error (.park f) => .next (f s)
  | .error _ => .next s

/-! ## Registers -/

/-- The runner in focus. -/
def getMe : Op Runner := return (← get).me

/-- Change the runner in focus. -/
def onMe (f : Runner → Runner) : Op Unit := modify fun s => { s with me := f s.me }

/-- A lead register's value; s0 reads 0 (R7). -/
def Runner.sreg (r : Runner) (a : Reg) : Word := if a = 0 then 0 else vget r.s a.toNat

/-- Read a lead register. -/
def reg (a : Reg) : Op Word := return (← get).me.sreg a

/-- Write a lead register; s0 discards it (R7, R56). -/
def setReg (d : Reg) (x : Word) : Op Unit := onMe fun r => { r with s := sregSet r.s d x }

/-- Read a translation register. -/
def getXb (n : BitVec 3) : Op Xb := return vget (← get).me.xb n.toNat

/-! ## Modes -/

/-- A privileged form at user level (R25, R62). -/
def needSup : Op Unit := do
  need (← get).me.sup 0x05 (← get).issue.pc

/-- A form that only groups execute (R62). -/
def needGroup : Op Unit := do
  need (!(← get).me.isHost) 0x01 (← get).issue.pc

/-- An instruction that R278 forbids inside a lead transaction. -/
def notInTx : Op Unit := do
  if (← get).me.tx.active then throw (.abort 0x52 0)

/-- A host core without a context executes no ticket, launch, copy or usher form (R429). -/
def needCtx : Op Unit := do
  let s ← get
  need (s.me.ctx != 0) 0x05 s.issue.pc

/-- The fields of the instruction obey its entry (R9). -/
def needField (c : Bool) : Op Unit := do
  need c 0x02 (← get).issue.pc

/-! ## Order -/

/-- Scope and order of the ORD prefix; rlx at system scope without one (R58, R59). -/
def ordOf : Op (Nat × Nat) := do
  match (← get).issue.ord with
  | some o => return ((bits o 3 3).toNat, (bits o 0 3).toNat)
  | none => return (7, 0)

/-- The order is one that the instruction takes (R106). -/
def ordIn (allowed : List Nat) : Op (Nat × Nat) := do
  let o ← ordOf
  needField (allowed.contains o.2)
  return o

/-- Another package that does not answer: it has no route, or it has fallen silent (R488). -/
def deaf (s : State) (pkg : Nat) : Bool :=
  pkg != s.pkg.toNat && (s.silent.contains pkg || !s.routing.any fun r => r.1 == pkg && !r.2.isEmpty)

/-- An access that something outside the package answers (R482, R488), or nothing: an outbound window, a register block of
another package, or memory of a package that does not answer. -/
def answeredOutside (s : State) (pa : Nat) : Bool :=
  match poolOf pa with
  | .window => true
  | .unmapped => false
  | .device => packageOf pa != s.pkg.toNat
  | _ => deaf s (packageOf pa)

/-- The clock of a runner's core as it stands (R488); the host clock's for what no runner has sent. -/
def clockOf (s : State) (who : RunnerId) : Nat :=
  match s.runner? who with
  | some r => if r.isHost then s.clocks.host else coreClock s r.core
  | none => s.clocks.host

/-- The answers to every aligned unit that n bytes meet, once all have come (R482). -/
def outAnswer (s : State) (who : RunnerId) (ask : Asker) (pa n : Nat) : Option (List Byte) :=
  let ws := (unitsOf pa n).map fun u => (s.outb.find? fun o => o.who == who && o.ask == ask && !o.wr && o.pa == u * 8).bind (·.data)
  if ws.all (·.isSome) then some ((((ws.filterMap id).flatMap fun w => leBytes 8 w.toNat).drop (pa % 8)).take n) else none

/-- Each aligned unit that n bytes meet is asked for, once (R482). -/
def outAsk (who : RunnerId) (ask : Asker) (grid : Word) (pa n : Nat) (s : State) : State :=
  let us := (unitsOf pa n).filter fun u => !s.outb.any fun o => o.who == who && o.ask == ask && !o.wr && o.pa == u * 8
  { s with outb := s.outb ++ us.map fun u => ⟨who, ask, 0, grid, u * 8, false, [], none, false, 0, false, clockOf s who⟩ }

/-- The answers of an asker are spent. -/
def outSpend (who : RunnerId) (ask : Asker) (s : State) : State :=
  if s.outb.isEmpty then s else { s with outb := s.outb.filter fun o => !(o.who == who && o.ask == ask && !o.wr) }

/-- A write beyond the package through a page of a key and of COMP: a part for each aligned unit that it meets, none accepted
yet (R482). -/
def outWrite (who : RunnerId) (ask : Asker) (op : Nat) (grid : Word) (pa key : Nat) (comp : Bool) (bs : List Byte) (s : State) :
    State :=
  let part (u : Nat) : Outbound :=
    let lo := max pa (u * 8)
    ⟨who, ask, op, grid, lo, true, (bs.drop (lo - pa)).take (u * 8 + 8 - lo), none, false, key, comp, clockOf s who⟩
  { s with outb := s.outb ++ (unitsOf pa bs.length).map part }

/-- Bytes of a device register block that one aligned 8-byte access or no such access reads (R482). -/
def devBytes (s : State) (pa n : Nat) : List Byte :=
  if n = 8 ∧ pa % 8 = 0 then leBytes 8 (devRead s (pa % 65536)).toNat else List.replicate n 0

/-- A write of an instruction of a runner to a target beyond the package is not accepted yet (R482). -/
def outBusy (s : State) (who : RunnerId) : Bool :=
  s.outb.any fun o => o.who == who && o.wr && match o.ask with | .instr _ => true | _ => false

/-- An access to the package's own register block waits for its issuer's earlier writes beyond the package (R482). -/
def deviceReady (s : State) (who : RunnerId) (pa : Nat) : Bool :=
  poolOf pa != .device || answeredOutside s pa || !outBusy s who

/-- n bytes as a ticketed load reads them (R480, R482): memory as its issuer sees it (R229), the answers of a target outside,
a whole device register, 0 elsewhere. -/
def engineBytes (s : State) (e : Cloak) (pa n : Nat) : List Byte :=
  if answeredOutside s pa then (outAnswer s e.who (.ticket e.id) pa n).getD (List.replicate n 0)
  else if (poolOf pa).isMemory then viewRead s (some e.who) e.die e.key pa n
  else devBytes s pa n

/-- An answer that an asker reads among n bytes never came (R488). -/
def lostAnswer (s : State) (who : RunnerId) (ask : Asker) (pa n : Nat) : Bool :=
  s.outb.any fun o => o.who == who && o.ask == ask && o.lost && meets o.pa 8 pa n

/-- A fetch of n bytes consumes an uncorrectable error, or an answer that never comes (R312, R488). -/
def engineBad (s : State) (who : RunnerId) (ask : Asker) (pa n : Nat) : Bool :=
  poisoned s pa n || lostAnswer s who ask pa n

/-- Bytes that a ticket of a size covers (R203). -/
def Cloak.len (e : Cloak) : Nat := 2 ^ (e.size + 3)

/-- What a ticketed load has yet to read can be read: a target outside has answered, and a register block of the package is
read in its issuer's order (R482). -/
def Cloak.readable (s : State) (e : Cloak) : Bool :=
  e.performed || (deviceReady s e.who e.src
    && (!answeredOutside s e.src || (outAnswer s e.who (.ticket e.id) e.src e.len).isSome))

/-- The parts of a ticketed load's source that are still to be read: its lines of 256 bytes, or the whole of a shorter one,
as address and length. -/
def Cloak.unread (e : Cloak) : List (Nat × Nat) :=
  ((List.range ((e.len + 255) / 256)).filter fun k => !e.lines.any fun l => l.1 == k).map fun k =>
    (e.src + 256 * k, min 256 (e.len - 256 * k))

/-- A ticketed load's bytes are read at one point, but for the lines that were read before (R228). -/
def performTicket (s : State) (e : Cloak) : Cloak :=
  if e.performed then e
  else
    let bs := engineBytes s e e.src e.len
    { e with
      performed := true
      data := bs.zipIdx.map fun p =>
        match e.lines.find? fun l => l.1 == p.2 / 256 with
        | some l => l.2.getD (p.2 % 256) 0
        | none => p.1
      lines := []
      poison := e.poison || e.unread.any fun p => engineBad s e.who (.ticket e.id) p.1 p.2 }

/-- Ticketed loads that the test holds of perform; a conflicting host transaction aborts (R280), and a source that nothing
maps counts (R480). -/
def performTickets (p : Cloak → Bool) (s : State) : State :=
  let due (e : Cloak) : Bool := !e.performed && p e && e.readable s
  let es := s.cloaks.filter due
  es.foldl (fun s e =>
      let s := e.unread.foldl (fun s p => countRange (touch s (some e.who) true false p.1 p.2) p.1 p.2) s
      let s := if poolOf e.src = .unmapped then badAddr s else s
      outSpend e.who (.ticket e.id) s)
    { s with cloaks := mapIf due (performTicket s) s.cloaks }

/-- One 256-byte line of a longer ticketed load is read before the rest (R228). -/
def performLine (id : EntryId) (k : Nat) (s : State) : State :=
  match s.cloaks.find? fun e => e.id == id && !e.performed && decide (256 * k + 256 ≤ e.len) && (poolOf e.src).isMemory && !answeredOutside s e.src
      && !e.lines.any fun l => l.1 == k with
  | none => s
  | some e =>
    let a := e.src + 256 * k
    let f (x : Cloak) : Cloak :=
      { x with lines := (k, viewRead s (some e.who) e.die e.key a 256) :: x.lines, poison := x.poison || engineBad s e.who (.ticket e.id) a 256 }
    countRange (touch { s with cloaks := mapIf (fun x => x.id == id) f s.cloaks } (some e.who) true false a 256) a 256

/-- A release part at a scope (R241, R242, R231): ticketed loads of the issuer perform, its writes are performed on its die,
and at package scope or wider they and those that the die sees arrive at their homes. -/
def releaseState (scope : Nat) (s : State) : State :=
  let s := performTickets (fun e => e.who == s.me.id) s
  if 5 ≤ scope then drainDie s s.me.id s.me.die
  else if 2 ≤ scope then seeAll s fun w => w.who == s.me.id
  else s

/-- The order has a release part. -/
def hasRelease (order : Nat) : Bool := order == 2 || order == 3 || order == 4

/-- An accepted write that a release would bring home waits there for the holder of the fallback lock (R288). -/
def dieLocked (s : State) (by_ : RunnerId) (die : Nat) : Bool :=
  arriveLocked s fun w => w.who == by_ || (w.seen && w.die == die)

/-- Every ticketed load of a runner has its bytes within reach. -/
def ticketsReadable (s : State) (p : Cloak → Bool) : Bool := s.cloaks.all fun e => !p e || e.readable s

/-- What a release part waits for: every accepted write can arrive, every ticketed load of the issuer can be read. -/
def releaseReady (scope order : Nat) : Op Unit := do
  let s ← get
  readyIf (!(hasRelease order && decide (5 ≤ scope) && dieLocked s s.me.id s.me.die))
  readyIf (!hasRelease order || ticketsReadable s fun e => e.who == s.me.id)

/-- Before an access of an order: the release part. -/
def before (scope order : Nat) : Op Unit := do
  releaseReady scope order
  if hasRelease order then modify (releaseState scope) else pure ()

/-- Earlier accesses of order sc of the runner in focus are performed at a scope (R241). -/
def scState (scope : Nat) (s : State) : State :=
  let mine (w : PWrite) : Bool := w.who == s.me.id && w.sc
  let s := performTickets (fun e => e.who == s.me.id && e.sc) s
  if 5 ≤ scope then arriveAll s mine else if 2 ≤ scope then seeAll s mine else s

/-- What order sc asks before a read at a scope, and after a write at a scope, which every later access waits for (R241). -/
def scDone (scope order : Nat) : Op Unit := do
  if order = 4 then do
    let s ← get
    readyIf (!(decide (5 ≤ scope) && dieLocked s s.me.id s.me.die))
    readyIf (ticketsReadable s fun e => e.who == s.me.id && e.sc)
    modify (scState scope)
  else pure ()

/-! ## Memory without transactions -/

/-- Who and where the accesses of the runner in focus come from: its stream, the lane instruction that its flag counts, and
whether their order is sc. -/
structure Agent where
  who : RunnerId
  die : Nat
  part : Nat
  lane : Bool
  op : Nat
  grid : Word
  sc : Bool
deriving DecidableEq, Repr

/-- The lead stream of the runner in focus as an agent. -/
def leadAgent (s : State) : Agent :=
  ⟨s.me.id, s.me.die, s.me.part, false, 0, s.me.grid, s.issue.ord.any fun o => bits o 0 3 == 4⟩

/-- The runner behind an agent. -/
def Agent.runner (g : Agent) (s : State) : Runner := if s.me.id = g.who then s.me else (s.runner? g.who).getD s.me

/-- An agent's write, through a page compressed or not, as its die accepts it. -/
def Agent.write (g : Agent) (addr : Nat) (bs : List Byte) (key : Nat) (comp : Bool) : PWrite :=
  ⟨g.die, g.who, g.lane, g.op, addr, bs, key, comp, g.part, g.sc, false⟩

/-- An access marks its page (R188), which may wait for the holder of the fallback lock (R288). -/
def markPageOf (r : Runner) (t : Tr) (write : Bool) : Op Unit := do
  readyIf (markReady (← get) r t write)
  modify fun s => markAccess s r t write

/-- The bytes of a read that is answered from outside: the answers when all have come, else a request for each. -/
def readOutside (g : Agent) (ask : Asker) (pa n : Nat) : Op (List Byte) := do
  match outAnswer (← get) g.who ask pa n with
  | some bs => return bs
  | none => throw (.park fun s =>
      let t := outAsk g.who ask g.grid pa n s
      if g.lane then t else { t with me := { t.me with wait := .answer } })

/-- The answers that an instruction has used are spent when it completes. -/
def spendAnswers (g : Agent) : Op Unit := modify fun s =>
  if s.outb.isEmpty then s
  else
    let t := outSpend g.who (.instr g.lane) s
    { t with me := { t.me with wait := if !g.lane ∧ t.me.wait = .answer then .none else t.me.wait } }

/-- Read z bytes at a translated place: memory as the die sees it, a device register, an outside target; unmapped
addresses read 0 (R480, R482). -/
def readAt (g : Agent) (t : Tr) (z : Nat) : Op (List Byte) := do
  let s ← get
  if answeredOutside s t.pa then do
    let bs ← readOutside g (.instr g.lane) t.pa z
    markPageOf (g.runner s) t false
    return bs
  else
    readyIf (deviceReady s g.who t.pa)
    markPageOf (g.runner s) t false
    match poolOf t.pa with
    | .device => return devBytes s t.pa z
    | .unmapped => do
      modify badAddr
      return List.replicate z 0
    | _ => do
      modify fun s => countRange (touch s (some g.who) true false t.pa z) t.pa z
      return viewRead (← get) (some g.who) g.die ((keyId s t.key).getD 0) t.pa z

/-- Bytes accepted at a physical address under a key slot, for a page compressed or not (R237, R480, R482, R491): memory
accepts them for the issuer, the atrium takes them at once, a target outside has them waiting until it accepts them. Ticketed
loads of the issuer on those bytes perform first (R229). -/
def acceptBytes (g : Agent) (pa slot : Nat) (comp : Bool) (bs : List Byte) (s : State) : State :=
  let s := performTickets (fun e => e.who == g.who && meets e.src e.len pa bs.length) s
  if answeredOutside s pa then outWrite g.who (.instr g.lane) g.op g.grid pa ((keyId s slot).getD 0) comp bs s
  else
    match poolOf pa with
    | .device =>
      if bs.length = 8 ∧ pa % 8 = 0 then { s with dev := devWrite (pa % 65536) (BitVec.ofNat 64 (leNat bs)) s.dev } else s
    | .unmapped => badAddr s
    | p =>
      let w := g.write pa bs ((keyId s slot).getD 0) comp
      if p = .atrium then arrive s w else { s with pend := s.pend ++ [w] }

/-- A store of n bytes can be accepted: no holder of the fallback lock keeps it waiting (R288), the issuer's ticketed loads
of those bytes can be read (R229), and a register block is written in the issuer's order (R482). -/
def storeReady (s : State) (g : Agent) (pa n : Nat) : Bool :=
  !((poolOf pa).isMemory && lockedOut s none pa n) && deviceReady s g.who pa
    && ticketsReadable s fun e => e.who == g.who && meets e.src e.len pa n

/-- Write bytes at a translated place. -/
def writeAt (g : Agent) (t : Tr) (bs : List Byte) : Op Unit := do
  let s ← get
  readyIf (storeReady s g t.pa bs.length)
  markPageOf (g.runner s) t true
  modify (acceptBytes g t.pa t.key t.comp bs)

/-- An atomic at the home (R249): the die writes back the sector, the old bytes are read, the new ones written. At an
unmapped address it is one access that reads 0 (R480). -/
def atomicAt (g : Agent) (t : Tr) (z : Nat) (f : Nat → Nat) : Op Nat := do
  let s ← get
  readyIf (storeReady s g t.pa z)
  if poolOf t.pa = .unmapped then return leNat (← readAt g t z)
  else if !(poolOf t.pa).isMemory || answeredOutside s t.pa then
    let old := leNat (← readAt g t z)
    writeAt g t (leBytes z (f old))
    return old
  else
    let key := (keyId s t.key).getD 0
    let s1 := performTickets (fun e => e.who == g.who && meets e.src e.len t.pa z) s
    readyIf (markReady s1 (g.runner s1) t true && !sectorsLocked s1 (some g.who) g.die t.pa z)
    let s2 := drainSectors (markAccess s1 (g.runner s1) t true) (some g.who) g.die t.pa z
    let old := leNat (homeRead s2 key t.pa z)
    set (arrive s2 (g.write t.pa (leBytes z (f old)) key t.comp))
    return old

/-! ## Transactional accesses -/

/-- The latest buffered byte at an address. -/
def bufByte (buf : List (Nat × Byte)) (a : Nat) : Option Byte := (buf.find? fun p => p.1 == a).map (·.2)

/-- Distinct lines of a log, with further lines. -/
def linesWith (log : List (Nat × Byte)) (more : List Nat) : List Nat := (logLines log ++ more).eraseDups

/-- More than eight lines fall into one of the 32 sets of a host core's L1 (R285). -/
def l1Over (lines : List Nat) : Bool :=
  (List.range 32).any fun k => decide (8 < (lines.filter fun l => l % 32 == k).length)

/-- The set that lines would join exceeds the runner's capacity (R285). -/
def leadCapacity (r : Runner) (lines : List Nat) (write : Bool) : Bool :=
  if r.isHost then l1Over ((linesWith (r.tx.rlog ++ r.tx.wbuf) lines))
  else decide ((if write then 32 else 64) < (linesWith (if write then r.tx.wbuf else r.tx.rlog) lines).length)

/-- Keys of lines with whether their pages are compressed, each noted once. -/
def noteKeys (keys : List (Nat × Nat × Bool)) (lines : List Nat) (key : Nat) (comp : Bool) : List (Nat × Nat × Bool) :=
  (lines.filter fun l => !keys.any fun k => k.1 == l).map (·, key, comp) ++ keys

/-- The access at an address may stand in a transaction: memory of the runner's own package (R263). An address of the package
that is no memory ends it as a forbidden instruction does (log entry 114). -/
def txPlace (a : Word) (t : Tr) : Op Unit := do
  let s ← get
  need (packageOf t.pa == s.pkg.toNat) 0x27 a
  if !(poolOf t.pa).isMemory then throw (.abort 0x52 0)

/-- The lines that the holder of the fallback lock has written (R288). -/
def holderWrote (s : State) (me : RunnerId) : List Nat :=
  if s.wicket.holder = some me then []
  else
    match s.wicket.holder.bind s.runner? with
    | none => []
    | some r => logLines (r.tx.wbuf ++ (r.l.tx.toList.map (·.wbuf)).flatten)

/-- The bytes of n at an address that a write buffer does not hold, as the lines they lie in (R275, R285). -/
def freshLines (buf : List (Nat × Byte)) (pa n : Nat) : List Nat :=
  (((List.range n).map (· + pa)).filter fun a => (bufByte buf a).isNone).map (· / 256) |>.eraseDups

/-- A byte that a read of n takes from memory, not from its own write buffer, lies in a poisoned unit (R275, R312). -/
def freshPoisoned (s : State) (buf : List (Nat × Byte)) (pa n : Nat) : Bool :=
  (List.range n).any fun i => (bufByte buf (pa + i)).isNone && s.poison.contains ((pa + i) / 8)

/-- A lead transactional read (R275). A line that the holder of the fallback lock has written ends the attempt (R288). -/
def txRead (a : Word) (t : Tr) (z : Nat) : Op (List Byte) := do
  txPlace a t
  let s ← get
  let fresh := freshLines s.me.tx.wbuf t.pa z
  if fresh.any fun l => (holderWrote s s.me.id).contains l then throw .conflict
  readyIf (markReady s s.me t false)
  if fresh.isEmpty then do
    modify fun s => markAccess s s.me t false
    return (List.range z).map fun i => (bufByte s.me.tx.wbuf (t.pa + i)).getD 0
  if leadCapacity s.me fresh false then throw (.abort 0x54 0)
  let key := (keyId s t.key).getD 0
  readyIf (!sectorsLocked s (some s.me.id) s.me.die t.pa z)
  let s1 := countRange
    (touch (drainSectors (markAccess s s.me t false) (some s.me.id) s.me.die t.pa z) (some s.me.id) false false t.pa z) t.pa z
  let mem := (List.range z).map fun i => (t.pa + i, homeByte s1 key (t.pa + i))
  let log := mem.filter fun p => (bufByte s.me.tx.wbuf p.1).isNone
  set { s1 with me := { s1.me with tx := { s1.me.tx with
    rlog := s1.me.tx.rlog ++ log
    keys := noteKeys s1.me.tx.keys fresh key t.comp } } }
  return mem.map fun p => (bufByte s.me.tx.wbuf p.1).getD p.2

/-- A lead transactional write (R275). A host core's meets the lines of the holder of the fallback lock at once (R280,
R288). -/
def txWrite (a : Word) (t : Tr) (bs : List Byte) : Op Unit := do
  txPlace a t
  let s ← get
  if s.me.isHost && lockedOut s (some s.me.id) t.pa bs.length then throw .conflict
  if leadCapacity s.me (linesOf t.pa bs.length) true then throw (.abort 0x54 0)
  readyIf (markReady s s.me t true)
  let key := (keyId s t.key).getD 0
  let new := (bs.zipIdx.map fun (b, i) => (t.pa + i, b)).reverse
  let s1 := markAccess s s.me t true
  set { s1 with me := { s1.me with tx := { s1.me.tx with
    wbuf := new ++ s1.me.tx.wbuf
    keys := noteKeys s1.me.tx.keys (linesOf t.pa bs.length) key t.comp } } }

/-- A lead read, in or out of a transaction. -/
def leadRead (a : Word) (t : Tr) (z : Nat) : Op Nat := do
  let s ← get
  if s.me.tx.active then return leNat (← txRead a t z)
  else do
    let bs ← readAt (leadAgent s) t z
    spendAnswers (leadAgent s)
    return leNat bs

/-- A lead write, in or out of a transaction. -/
def leadWrite (a : Word) (t : Tr) (bs : List Byte) : Op Unit := do
  let s ← get
  if s.me.tx.active then txWrite a t bs else writeAt (leadAgent s) t bs

/-- A lead atomic (R248): in a transaction, a read followed by a write of the same bytes (R275). -/
def leadAtomic (a : Word) (t : Tr) (z : Nat) (f : Nat → Nat) : Op Nat := do
  let s ← get
  if s.me.tx.active then do
    let old := leNat (← txRead a t z)
    txWrite a t (leBytes z (f old))
    return old
  else do
    let old ← atomicAt (leadAgent s) t z f
    spendAnswers (leadAgent s)
    return old

/-- The checks of a lead access of z bytes (R107, R194, R248): translation causes, PERMISSION, RANGE_LOCKED,
MISALIGNED; a read that would consume a poisoned unit raises ECC_UNCORRECTABLE. -/
def leadCheck (a : Word) (z : Nat) (n : Need) : Op Tr := do
  let s ← get
  match probe s s.me a z n with
  | .error c => stopTrap c a
  | .ok t => do
    need (!spanHit s s.me a t z n.wr) 0x25 a
    need (a.toNat % z == 0) 0x24 a
    need (!(n.rd && s.me.wait == .timedOut && answeredOutside s t.pa)) 0xA1 a
    need (!(n.rd && if s.me.tx.active then freshPoisoned s s.me.tx.wbuf t.pa z else poisoned s t.pa z)) 0xA1 a
    return t

end Sys2Proof.Machine
end

