-- ==== Sys2Proof/Machine/Landing.lean ====
section
/-! DEFINITION. Landings, exchange banks, the mezzanine and lockers (spec/06_memory.md R175 to R182), and the descriptor
of an operand stream (spec/03_lead.md R117 to R119). -/

namespace Sys2Proof.Machine

/-! ## Swizzles -/

/-- The bank of word w of a region under a mode (R178). -/
def bankOf (mode w : Nat) : Nat :=
  let lo := w % 64
  let row := w / 64 % 128
  let mid := bitsN w 11 6
  let top := bitsN w 12 12
  match mode with
  | 0 => lo
  | 1 => lo ^^^ (4 * (row % 16))
  | 2 => lo ^^^ (8 * (row % 8))
  | 3 => lo ^^^ (16 * (row % 4))
  | 4 => (lo + row) % 64
  | 5 => lo ^^^ mid ^^^ top
  | 6 =>
    let digit (k : Nat) : Nat := (lo / 4 ^ k % 4 + mid / 4 ^ k % 4 + (if k = 0 then top else 0)) % 4
    digit 0 + 4 * digit 1 + 16 * digit 2
  | _ => lo ^^^ bitsN w 10 5

/-- The physical position of the byte at a landing offset under a team's swizzle modes (R178, R180). -/
def landPos (modes : BitVec 24) (o : Nat) : Nat :=
  let region := o / 65536
  let mode := modes.toNat / 8 ^ region % 8
  let w := o % 65536 / 8
  region * 65536 + w / 64 * 512 + bankOf mode w * 8 + o % 8

/-- The modes of a team's regions that have an effect: those of the regions that the landing holds in full (R180). -/
def Team.modes (t : Team) : BitVec 24 := BitVec.ofNat 24 (t.lswz.toNat % 8 ^ (t.len / 65536))

/-- n bytes of a landing at an offset. -/
def landRead (m : Mem) (modes : BitVec 24) (o : Nat) : Nat → List Byte
  | 0 => []
  | n + 1 => m.get (landPos modes o) :: landRead m modes (o + 1) n

/-- Bytes stored into a landing at an offset. -/
def landWrite (m : Mem) (modes : BitVec 24) (o : Nat) : List Byte → Mem
  | [] => m
  | b :: bs => landWrite (m.set (landPos modes o) b) modes (o + 1) bs

/-- A resident team. -/
def team? (s : State) (uid : Nat) : Option Team := s.teams.find? fun t => t.uid == uid

/-- Change a team. -/
def onTeam (uid : Nat) (f : Team → Team) (s : State) : State :=
  { s with teams := mapIf (fun t => t.uid == uid) f s.teams }

/-- The team of the group in focus. -/
def myTeam (s : State) : Option Team := team? s s.me.team

/-- The team's interval is no longer clean (spec/17_protection.md R467). -/
def markDirty (s : State) : State :=
  if s.me.isHost then s else onTeam s.me.team (fun t => { t with ck := t.ck.map fun c => { c with clean := false } }) s

/-- The team of the squad in focus that stands on core `k` of the gallery (R181). -/
def mezzTeam (s : State) (k : Nat) : Option Team :=
  match myTeam s with
  | none => none
  | some t => s.teams.find? fun u => u.squad == t.squad && u.core == t.core / 8 * 8 + k

/-- The visible and the shadow bank of a team change roles (R170, R182): the rows of the exchange region. -/
def Team.exchange (t : Team) : Team :=
  let lo := t.len - t.exch
  { t with
    land := t.land.filter (fun c => c.1 < lo) ++ t.shadow.filter fun c => lo ≤ c.1
    shadow := t.land.filter fun c => lo ≤ c.1 }

/-! ## Lockers -/

/-- Where byte j of a lane's locker lies in the group's area (R175). -/
def lockPos (lane j : Nat) : Nat := j / 8 * 256 + lane * 8 + j % 8

/-- n bytes of a lane's locker. -/
def lockRead (m : Mem) (lane o : Nat) : Nat → List Byte
  | 0 => []
  | n + 1 => m.get (lockPos lane o) :: lockRead m lane (o + 1) n

/-- Bytes stored into a lane's locker. -/
def lockWrite (m : Mem) (lane o : Nat) : List Byte → Mem
  | [] => m
  | b :: bs => lockWrite (m.set (lockPos lane o) b) lane (o + 1) bs

/-! ## Streams -/

/-- Bits hi:lo of a descriptor, counted as R117 counts them, within one dword. -/
def descBits (d : Vector Word 8) (hi lo : Nat) : Nat := slice (vget d (lo / 64)) (hi % 64) (lo % 64)

/-- The loops in use. -/
def streamDepth (d : Vector Word 8) : Nat := descBits d 73 72 + 1

/-- The count of loop k. -/
def streamCount (d : Vector Word 8) (k : Nat) : Nat := descBits d (143 + 16 * k) (128 + 16 * k)

/-- The stride of loop k. -/
def streamStride (d : Vector Word 8) (k : Nat) : Int := (vget d (3 + k)).toInt

/-- Elements in the whole stream (R119). -/
def streamTotal (d : Vector Word 8) : Nat :=
  ((List.range (streamDepth d)).map (streamCount d)).foldl (· * ·) 1

/-- The offset of element i (R119), loop 0 fastest. -/
def streamOffset (d : Vector Word 8) (i : Nat) : Int :=
  ((List.range (streamDepth d)).foldl
    (fun (acc : Int × Nat) k => (acc.1 + (acc.2 % streamCount d k : Nat) * streamStride d k, acc.2 / streamCount d k))
    ((vget d 0).toInt, i)).1

/-- Bytes of an element (R117 ELEM). -/
def streamElem (d : Vector Word 8) : Nat := 64 * 2 ^ descBits d 75 74

/-- The descriptor targets the gallery's distributor (R117 TARGET). -/
def streamToPorts (d : Vector Word 8) : Bool := descBits d 76 76 == 1

/-- The target queue (R117 QUEUE). -/
def streamQueue (d : Vector Word 8) : Nat := descBits d 79 77

/-- AHEAD (R117): 0 means 8. -/
def streamAhead (d : Vector Word 8) : Nat := if descBits d 95 88 = 0 then 8 else descBits d 95 88

/-- The stream that feeds queue q of a group (R119); one that has ended feeds nothing. -/
def feeder (s : State) (who : RunnerId) (q : Nat) : Option Stream :=
  s.streams.find? fun x => x.owner == who && !streamToPorts x.desc && !x.ended && streamQueue x.desc == q

end Sys2Proof.Machine
end

