-- ==== Sys2Proof/Machine/LaneTx.lean ====
section
/-! DEFINITION. Fragments (spec/05_lane_control.md R160 to R165) and how lanes leave an attempt
(spec/09_transactions.md R271 to R274, R286, R287). -/

namespace Sys2Proof.Machine

/-! ## Fragments -/

/-- Fragments that hold a live record (R160, R161). -/
def LaneRuns.liveCount (u : LaneRuns) : Nat := (u.frags.filter fun x => x.live && x.st == .runnable).length

/-- The least age among live runnable fragments. -/
def LaneRuns.oldestLive (u : LaneRuns) : Option Nat :=
  ((u.frags.filter fun x => x.live && x.st == .runnable).map (·.age)).min?

/-- With three live records needed, the oldest of the three spills (R161). -/
def LaneRuns.spill (u : LaneRuns) : LaneRuns :=
  if 2 < u.liveCount then
    match u.oldestLive with
    | some a =>
      { u with frags := mapIf (fun x => x.age == a) (fun x => { x with live := false }) u.frags, reload := a :: u.reload }
    | none => u
  else u

/-- A record that becomes free reloads the fragment spilled last (R161). -/
def LaneRuns.refill (u : LaneRuns) : LaneRuns :=
  match u.reload with
  | a :: rest =>
    if u.liveCount < 2 then
      { u with frags := mapIf (fun x => x.age == a) (fun x => { x with live := true }) u.frags, reload := rest }
    else u
  | [] => u

/-- The clause in progress is the fragment's: it ends. -/
def LaneRuns.dropClause (age : Nat) (u : LaneRuns) : LaneRuns :=
  { u with cur := if u.cur.any (fun c => c.age == age) then none else u.cur }

/-- A fragment disappears and its record is free. -/
def LaneRuns.remove (age : Nat) (u : LaneRuns) : LaneRuns :=
  LaneRuns.refill
    { u.dropClause age with
      frags := u.frags.filter fun x => x.age != age
      reload := u.reload.filter (· != age) }

/-- A new fragment, younger than every other (R160, R163). -/
def Lanes.create (mask : Mask) (pc : Nat) (l : Lanes) : Lanes :=
  { l with
    run := LaneRuns.spill { l.run with frags := l.run.frags ++ [⟨mask, pc, .runnable, l.nextAge, true, l.stamp⟩] }
    nextAge := l.nextAge + 1 }

/-- The fragment's clause ends and it goes on at a slot (R153, R165). -/
def Lanes.endClause (age pc : Nat) (l : Lanes) : Lanes :=
  { l with
    run := { l.run.dropClause age with
      frags := mapIf (fun x => x.age == age) (fun x => { x with pc := pc, since := l.stamp + 1 }) l.run.frags }
    stamp := l.stamp + 1 }

/-- A fragment's mask changes. -/
def Lanes.remask (age : Nat) (mask : Mask) (l : Lanes) : Lanes :=
  { l with run := { l.run with frags := mapIf (fun x => x.age == age) (fun x => { x with mask := mask }) l.run.frags } }

/-! ## One lane's registers -/

/-- One lane's word of a register. -/
def Lanes.word (l : Lanes) (d lane : Nat) : W32 := vget (vget l.v d) lane

/-- One lane's word of a register replaced. -/
def Lanes.putWord (d lane : Nat) (x : W32) (l : Lanes) : Lanes :=
  { l with v := vset l.v d (vset (vget l.v d) lane x) }

/-- Consecutive registers of one lane replaced. -/
def Lanes.putWords (d lane : Nat) (l : Lanes) : List W32 → Lanes
  | [] => l
  | x :: xs => Lanes.putWords (d + 1) lane (l.putWord d lane x) xs

/-! ## Attempts of lanes -/

/-- The snapshot of a lane comes back (R271, R274). -/
def Lanes.restore (k : Nat) (l : Lanes) : Lanes :=
  let t := vget l.tx k
  let l := Lanes.putWords t.f k l t.snap
  { l with m := l.m.mapIdx fun j x => if j = 0 then x else setBit x k (t.snapM.getLsbD j) }

/-- A lane's transaction ends with a final abort (R274): its status word stands in register D, and it is held. -/
def Lanes.endLane (code detail k : Nat) (l : Lanes) : Lanes :=
  let t := vget l.tx k
  let word := statusWord code detail t.aborts t.fb
  let l := (l.restore k).putWord t.d k word
  let t' : LaneTx :=
    { t with st := .held, rlog := [], wbuf := [], keys := [], doomed := false, fb := false, status := word, last := word }
  { l with tx := vset l.tx k t' }

/-- A lane's attempt is rolled back and awaits restart (R274); `counted` for TX_CONFLICT. Whether it held the lock stays on
record for the status word (R264). -/
def Lanes.retryLane (counted : Bool) (k : Nat) (l : Lanes) : Lanes :=
  let t := vget l.tx k
  let l := l.restore k
  let t' : LaneTx :=
    { t with
      st := .await
      aborts := if counted then t.aborts + 1 else t.aborts
      rlog := []
      wbuf := []
      keys := []
      doomed := false
      ran := 0 }
  { l with tx := vset l.tx k t' }

/-- A lane is in a transaction: running an attempt or awaiting restart (R271). -/
def LaneTx.inTx (t : LaneTx) : Bool := t.st == .running || t.st == .await

/-- The lanes of a record have all committed or ended: the fragment with mask EXPECT goes on at the continuation slot
(R272). -/
def Lanes.finishTx (k : Nat) (l : Lanes) : Lanes :=
  let t := vget l.tx k
  if t.st = .held ∧ (lanesOf t.expect).all fun j => !(vget l.tx j).inTx then
    let l := { l with tx := l.tx.mapIdx fun j u => if t.expect.getLsbD j then { u with st := .idle } else u }
    Lanes.create t.expect t.cont l
  else l

/-- A change of the group's own runs, which a handler keeps apart from its own (R434). -/
def Lanes.asOwn (f : Lanes → Lanes) (l : Lanes) : Lanes :=
  match l.held with
  | none => f l
  | some u =>
    let l' := f { l with run := u, held := none }
    { l' with run := l.run, held := some l'.run }

/-- The group's own runs: those held while its handler runs, else its runs (R434). -/
def Lanes.own (l : Lanes) : LaneRuns := l.held.getD l.run

/-- Lanes leave the fragment among the runs in force: those that ended or committed are held, those rolled back form the
fragment again at the restart slot (R272, R273). -/
def Lanes.leaveRun (age : Nat) (ended back : List Nat) (l : Lanes) : Lanes :=
  match l.run.frags.find? fun x => x.age == age with
  | none => l
  | some fr =>
    let rest := fr.mask &&& ~~~(maskOf (ended ++ back))
    let at_ := (back.head?.map fun k => (vget l.tx k).restart).getD 0
    let l :=
      if rest = 0 then
        (if back.isEmpty then { l with run := l.run.remove age }
         else (l.remask age (maskOf back)).endClause age at_)
      else
        let l := l.remask age rest
        if back.isEmpty then l else Lanes.create (maskOf back) at_ l
    ended.foldl (fun l k => l.finishTx k) l

/-- Lanes leave the fragment, which is held where a handler has interrupted it (R284, R434). -/
def Lanes.leave (age : Nat) (ended back : List Nat) (l : Lanes) : Lanes :=
  if l.held.any fun u => u.frags.any fun x => x.age == age then l.asOwn (Lanes.leaveRun age ended back)
  else l.leaveRun age ended back

/-- The lock goes back when no lane of the runner in focus is in a transaction any more (R288). -/
def laneLockDone (s : State) : State :=
  if s.wicket.holder = some s.me.id && !s.me.tx.active && !s.me.l.tx.any LaneTx.inTx then
    { s with wicket := s.wicket.release s.me.id }
  else s

/-- A TX_CONFLICT of a lane is final under FBOFF with LIMIT retries made (R287). -/
def laneConflictFinal (r : Runner) (k : Nat) : Bool := r.fboff && decide (r.limit ≤ (vget r.l.tx k).aborts)

/-- Lanes of the fragment abort: `finals` (lane, code, detail) for good, `conflicts` by TX_CONFLICT (R286, R287). -/
def laneAborts (age : Nat) (finals : List (Nat × Nat × Nat)) (conflicts : List Nat) (s : State) : State :=
  if finals.isEmpty ∧ conflicts.isEmpty then s
  else
    let spent := conflicts.filter fun k => laneConflictFinal s.me k
    let back := conflicts.filter fun k => !laneConflictFinal s.me k
    let finals := finals ++ spent.map fun k => (k, 0x53, 0)
    let l := finals.foldl (fun l x => l.endLane x.2.1 x.2.2 x.1) s.me.l
    let l := back.foldl (fun l k => l.retryLane true k) l
    laneLockDone { s with me := { s.me with l := l.leave age (finals.map (·.1)) back } }

/-- A lane's attempt would pass validation now (R282, R284). -/
def laneValid (s : State) (k : Nat) : Bool :=
  let t := vget s.me.l.tx k
  t.fb || logValid s t.rlog t.keys t.doomed

/-- Causes of lanes inside a transaction (R286): each lane ends with TX_FAULT, or with REMOTE_HOME's own code (R263), after
its early validation, with its address in VFAULTADDR. -/
def laneFaults (age : Nat) (cs : List (Nat × Nat × Word)) (s : State) : State :=
  let bad := cs.filter fun x => laneValid s x.1
  let s := { s with me := { s.me with l := { s.me.l with vfault := bad.foldl (fun v x => vset v x.1 x.2.2) s.me.l.vfault } } }
  laneAborts age (bad.map fun x => if x.2.1 = 0x27 then (x.1, 0x27, 0) else (x.1, 0x56, x.2.1)) ((cs.filter fun x => !laneValid s x.1).map (·.1)) s

end Sys2Proof.Machine
end

