-- ==== Sys2Proof/Machine/Operands.lean ====
section
/-! DEFINITION. The operand forms of a lane slot (spec/02_encoding.md R66 to R71; spec/04_lane_arith.md R127 to R131):
what an entry asks of the common fields, where sources come from, how results are written, and how a lane instruction
issues, stops and traps (spec/16_traps.md R423, R432; spec/19_programs.md R497). -/

namespace Sys2Proof.Machine

open Sys2Proof

/-! ## Types -/

/-- The width in bits of a TYPE code below 0xE (R67). -/
def tyBits (t : Nat) : Nat :=
  match t with
  | 1 | 5 | 9 | 0xD => 64
  | 2 | 6 | 0xE => 8
  | 3 | 7 | 0xA | 0xB => 16
  | _ => 32

/-- .i8 to .i64. -/
def tySigned (t : Nat) : Bool := decide (2 ≤ t ∧ t ≤ 5)

/-- .i8 to .i64 and .n8 to .n64 (R132, I). -/
def tyInt (t : Nat) : Bool := decide (2 ≤ t ∧ t ≤ 9)

/-- .f16, .bf16, .f32, .f64 (R140, F). -/
def tyFloat (t : Nat) : Bool := decide (0xA ≤ t ∧ t ≤ 0xD)

/-- The layout of a floating-point TYPE. -/
def tyFmt (t : Nat) : Fmt :=
  match t with
  | 0xA => Fmt.f16
  | 0xB => Fmt.bf16
  | 0xD => Fmt.f64
  | _ => Fmt.f32

/-- A source pattern read in an integer or bit type (R131). -/
def intRead (t raw : Nat) : Int :=
  if tySigned t then sextN (tyBits t) raw else ((raw % 2 ^ tyBits t : Nat) : Int)

/-- The pattern that an exact integer result writes (R131): wrapped or clamped, then extended to 32 bits. A bit type has
no numeric range; SAT clamps it as an unsigned one (log entry 90). -/
def intWrite (t : Nat) (sat : Bool) (x : Int) : Nat :=
  let n := tyBits t
  let r := wrapN n (if sat then clampI (rangeOf (tySigned t) n).1 (rangeOf (tySigned t) n).2 x else x)
  if tySigned t ∧ n < 32 then wrapN 32 (sextN n r) else r

/-- The FP64 pattern of an FP32 one (R70): exact, and a NaN keeps its sign and its payload's bits (R139). -/
def widenF32 (x : Nat) : Nat :=
  if (Fmt.f32.decode x).isNan then x / 2 ^ 31 % 2 * 2 ^ 63 + 0x7FF * 2 ^ 52 + x % 2 ^ 23 * 2 ^ 29
  else Fmt.f64.encode 0 (Fmt.f32.decode x)

/-- The immediate as a pattern of a type (R70). -/
def immRead (t : Nat) (li : Bool) (imm : BitVec 32) : Nat :=
  let lo := imm.toNat % 65536
  match t with
  | 0xC => if li then imm.toNat else lo * 65536
  | 0xD => widenF32 (if li then imm.toNat else lo * 65536)
  | 0xA | 0xB => lo
  | _ =>
    if tySigned t then wrapN (tyBits t) (if li then sextN 32 imm.toNat else sextN 16 lo)
    else (if li then imm.toNat else lo) % 2 ^ tyBits t

/-! ## What an entry asks of the fields -/

/-- How an entry uses a register field: not at all, as one register, as a pair, as four registers, or as something
else that the entry checks itself. -/
inductive Use where
  | none | one | pair | quad | other
deriving DecidableEq, Repr

/-- Registers that a field names. -/
def Use.size : Use → Nat
  | .none | .other => 0
  | .one => 1
  | .pair => 2
  | .quad => 4

/-- The use of a width of bits. -/
def useOf (bits : Nat) : Use := if bits = 64 then .pair else .one

/-- What an entry asks of a slot's fields. `type`: TYPE is allowed; `noType`: the instruction has no type; `x`, `i16`:
bits of X and IMM16 that the entry reads; `queue`: a source may be a queue; `also`: its further field rules; `tx`: it may
stand in a transaction (R278); `top`: one past the last register that it names otherwise; `priv`: it needs supervisor level
and the group has it not; `acc`: it accesses memory, a landing or a locker, or branches (R286); `cmp`: it sends a ticket's words to be compared, though it
accesses nothing (R464); `quiet`: it raises no
cause but a decode cause (R195). -/
structure LRule where
  type : Bool := true
  noType : Bool := false
  nf : Bool := false
  d : Use := .one
  a : Use := .none
  b : Use := .none
  c : Use := .none
  imm : Bool := false
  immTy : Nat := 0
  m : Bool := true
  rm : Bool := false
  sat : Bool := false
  fl : Bool := false
  x : Nat := 0
  i16 : Nat := 0
  queue : Bool := true
  also : Bool := true
  tx : Bool := true
  top : Nat := 0
  priv : Bool := false
  acc : Bool := false
  cmp : Bool := false
  quiet : Bool := false

/-- A destination or data field obeys its use (R68, R190). -/
def Use.dest (u : Use) (r : BitVec 8) : Bool :=
  match u with
  | .none => r == 0
  | .pair => !r.getLsbD 0
  | .quad => r.toNat % 4 == 0
  | _ => true

/-- A source field with its queue bit obeys its use (R68, R69). -/
def Use.src (u : Use) (r : BitVec 8) (q : Bool) : Bool :=
  match u with
  | .none => r == 0 && !q
  | .other => !q
  | _ => if q then decide (r.toNat < 8) else u.dest r

/-- The fields break no rule that RESERVED_FIELD guards (R67 to R71, R73). -/
def LRule.fieldsOk (r : LRule) (f : LaneF) : Bool :=
  (!r.noType || f.ty == 0)
    && (!f.nf || (r.nf && decide (0xE ≤ f.ty.toNat)))
    && r.d.dest f.d && r.a.src f.a f.qa && r.c.src f.c f.qc
    && (r.queue || !(f.qa || f.qb || f.qc))
    && (if f.ib then r.imm && f.b == 0 && !f.qb else r.b.src f.b f.qb)
    && (!f.li || (r.imm && f.ib))
    && (!f.li || !(r.immTy == 0xA || r.immTy == 0xB) || f.imm.toNat / 65536 == 0)
    && (r.m || f.m == 0)
    && (if r.rm then decide (f.rm.toNat < 5) else f.rm == 0)
    && (r.sat || !f.sat)
    && (if r.fl then f.fl != 3 else f.fl == 0)
    && (f.li || (f.imm.toNat / 65536 &&& (65535 - r.x)) == 0)
    && (f.li || f.ib || (f.imm.toNat % 65536 &&& (65535 - r.i16)) == 0)
    && r.also

/-- The flag of the clause that FL names (R71, R154): none where FL = 00, an error where the header's bit is
invalid. -/
def flagOf (f : LaneF) (c : Clause) : Option (Option Nat) :=
  match f.fl.toNat with
  | 0 => some none
  | 1 => c.fa.map some
  | _ => c.fb.map some

/-- The decode cause of a slot (R77), 0 for none. -/
def LRule.cause (r : LRule) (f : LaneF) (c : Clause) : Nat :=
  if !r.type then 0x01 else if !r.fieldsOk f then 0x02 else if (flagOf f c).isNone then 0x06
  else if r.priv then 0x05 else 0

/-- One past the last register named (R412). -/
def LRule.topReg (r : LRule) (f : LaneF) : Nat :=
  let one (u : Use) (x : BitVec 8) (q : Bool) : Nat := if q ∨ u.size = 0 then 0 else x.toNat + u.size
  max (max (one r.d f.d false) (one r.a f.a f.qa))
    (max (max (if f.ib then 0 else one r.b f.b f.qb) (one r.c f.c f.qc)) r.top)

/-- The registers that the fields name, as first register and number (R149). -/
def LRule.spans (r : LRule) (f : LaneF) : List (Nat × Nat) :=
  let one (u : Use) (x : BitVec 8) (q : Bool) : List (Nat × Nat) := if q ∨ u.size = 0 then [] else [(x.toNat, u.size)]
  one r.d f.d false ++ one r.a f.a f.qa ++ (if f.ib then [] else one r.b f.b f.qb) ++ one r.c f.c f.qc

/-- Distinct queues that the sources name, with the entries each gives (R129). A queue that a 64-bit and a 32-bit source
name gives two, and the 32-bit source reads the first (log entry 88). -/
def LRule.queues (r : LRule) (f : LaneF) : List (Nat × Nat) :=
  let use (u : Use) (x : BitVec 8) (q : Bool) : List (Nat × Nat) := if q then [(x.toNat % 8, u.size)] else []
  let all := use r.a f.a f.qa ++ use r.b f.b f.qb ++ use r.c f.c f.qc
  (all.map (·.1)).eraseDups.map fun q => (q, (all.filter fun p => p.1 == q).foldl (fun m p => max m p.2) 0)

/-! ## The executing fragment -/

/-- What a lane instruction executes with: its fields, the fragment, its clause, the lanes of active(M) (R151, R157,
R435), its flag, and its sources by lane. -/
structure LaneCtx where
  f : LaneF
  age : Nat
  m0 : Mask
  act : Mask
  cl : Clause
  flag : Option Nat
  a : Nat → Nat
  b : Nat → Nat
  c : Nat → Nat

/-- The slot of the instruction. -/
def LaneCtx.slot (c : LaneCtx) : Nat := c.cl.slot

/-- The slot after the clause (R153). -/
def LaneCtx.after (c : LaneCtx) : Nat := c.cl.hdr + c.cl.n + 1

/-- The fragment of the clause in progress. -/
def Lanes.current (l : Lanes) : Option (Clause × Frag) :=
  match l.run.cur with
  | none => none
  | some c => (l.run.frags.find? fun x => x.age == c.age).map fun x => (c, x)

/-- active(M) of a fragment (R10, R157): m0 alone, or with a mask register, without the lanes of SKIPMASK while a
trapped instruction executes again. -/
def Lanes.active (l : Lanes) (m0 : Mask) (m : Nat) : Mask :=
  (if m = 0 then m0 else m0 &&& vget l.m m) &&& ~~~l.run.skip

/-- A lane runs an attempt that its handler does not interrupt. -/
def Runner.attempting (r : Runner) (k : Nat) : Bool := (vget r.l.tx k).st == .running && !r.inTrap

/-- The lane code base of the group in focus (R49, R434). A base that is no multiple of 256 is used as it is (log entry
104). -/
def laneBase (s : State) : Word :=
  let c := ctx? s s.me.ctx
  if s.me.inTrap then (c.map (·.slcbase)).getD 0
  else ((s.grids.find? fun g => g.handle == s.me.grid).map (·.laneBase)).getD 0

/-- The address of a lane slot (R49). -/
def slotAddr (s : State) (slot : Nat) : Word := laneBase s + BitVec.ofNat 64 (12 * slot)

/-- The pattern of a source register or pair in a lane. -/
def regRaw (l : Lanes) (u : Use) (r : BitVec 8) (lane : Nat) : Nat :=
  match u with
  | .pair => (l.word r.toNat lane).toNat + (l.word (r.toNat + 1) lane).toNat * 2 ^ 32
  | .none | .other => 0
  | _ => (l.word r.toNat lane).toNat

/-- The pattern of a queue source in a lane (R129). -/
def queueRaw (es : List QEntry) (u : Use) (lane : Nat) : Nat :=
  let w (k : Nat) : Nat :=
    match es[k]? with
    | some e => (vget e.words lane).toNat
    | none => 0
  if u = .pair then w 0 + w 1 * 2 ^ 32 else w 0

/-- A source's pattern in a lane: register, queue or immediate. -/
def srcRaw (l : Lanes) (es : List (Nat × List QEntry)) (u : Use) (r : BitVec 8) (q : Bool) (lane : Nat) : Nat :=
  if q then queueRaw ((es.find? fun p => p.1 == r.toNat % 8).map (·.2) |>.getD []) u lane else regRaw l u r lane

/-! ## Registers that wait for a result -/

/-- Registers that an outstanding operation of the group will write (R149, R222, R356): first register and number. -/
def pendingRegs (s : State) : List (Nat × Nat) :=
  (s.mops.filterMap fun m =>
    match m.kind with
    | .accrd _ _ reg _ => if m.who = s.me.id then some (reg, 4) else none
    | _ => none) ++
  s.cloaks.filterMap fun e =>
    match e.take with
    | some (w, .laneReg _ _ _ d) => if w = s.me.id then some (d, 2 ^ (e.size + 1)) else none
    | _ => none

/-- A register that the slot names still waits for its result: every register is interlocked (R149). -/
def interlocked (s : State) (spans : List (Nat × Nat)) : Bool :=
  (pendingRegs s).any fun p => spans.any fun q => meets p.1 p.2 q.1 q.2

/-- The register of a matrix operation that waits for a version, among registers that wait for a result (R453). -/
def stalledOn (s : State) (spans : List (Nat × Nat)) : Option Nat :=
  s.mops.findSome? fun m =>
    match m.kind with
    | .accrd _ _ reg _ =>
      if m.who = s.me.id && (spans.any fun q => meets reg 4 q.1 q.2) && !(team? s m.team).any (MOp.due · m) then some reg else none
    | _ => none

/-- An instruction whose registers wait for a result does not issue; its slot may be a held point (R149, R453). -/
def markStall (spans : List (Nat × Nat)) (s : State) : State :=
  match stalledOn s spans with
  | none => s
  | some r =>
    let u := s.me.l.run
    let u' : LaneRuns := { u with cur := u.cur.map fun c => { c with stall := some r } }
    { s with me := { s.me with l := { s.me.l with run := u' } } }

/-- The registers named wait for no result (R149). -/
def notPending (spans : List (Nat × Nat)) : Op Unit := do
  if interlocked (← get) spans then throw (.park (markStall spans)) else pure ()

/-! ## Queues -/

/-- The entries that an execution reads: those kept from a trapping execution, else the heads of the queues. -/
def headEntries (s : State) (c : Clause) (needs : List (Nat × Nat)) : List (Nat × List QEntry) :=
  needs.map fun p =>
    match c.kept.find? fun k => k.1 == p.1 with
    | some k => k
    | none => (p.1, (vget s.me.l.q p.1).take p.2)

/-- Queues are popped (R129), those with kept entries excepted. A stream whose last element is popped
ends (R119); its name stays in use (R122). -/
def popQueues (c : Clause) (needs : List (Nat × Nat)) (s : State) : State :=
  needs.foldl (fun s p =>
    if c.kept.any fun k => k.1 == p.1 then s
    else
      let rest := (vget s.me.l.q p.1).drop p.2
      let s := { s with me := { s.me with l := { s.me.l with q := vset s.me.l.q p.1 rest } } }
      match feeder s s.me.id p.1 with
      | some x =>
        if rest.isEmpty ∧ streamTotal x.desc ≤ x.next then
          { s with streams := mapIf (fun y => y.gal == x.gal && y.os == x.os) (fun y => { y with ended := true }) s.streams }
        else s
      | none => s) s

/-- Whether the queues can give the entries needed (R119, R121, R129): a stop otherwise. `act` names the lanes that a
cause belongs to: those of active(M), or of m0 where that is empty (log entry 89). Of two queues that cannot, the first
in the order of the sources decides; a queue whose stream has no further element and which holds too few entries has no
stream that feeds it (log entry 87). -/
def queuesReady (s : State) (c : Clause) (needs : List (Nat × Nat)) (act : Mask) : Option Stop :=
  needs.findSome? fun p =>
    if c.kept.any fun k => k.1 == p.1 then none
    else
      let es := (vget s.me.l.q p.1).take p.2
      match es.findSome? (·.fault) with
      | some (cause, a) => some (.lanes ((lanesOf act).map fun l => (l, cause, a)) .stay)
      | none =>
        if p.2 ≤ es.length then none
        else
          match feeder s s.me.id p.1 with
          | some x =>
            if x.next < streamTotal x.desc then some .wait
            else some (.lanes ((lanesOf act).map fun l => (l, 0x63, 0)) .stay)
          | none => some (.lanes ((lanesOf act).map fun l => (l, 0x63, 0)) .stay)

/-! ## Traps of lanes -/

/-- The priority class of a cause (R423). -/
def causeClass (c : Nat) : Nat :=
  if c ≤ 4 ∨ c = 6 ∨ c = 7 then 1
  else if c = 5 then 2
  else if c = 0x21 ∨ c = 0x22 ∨ c = 0x26 ∨ c = 0x27 ∨ c = 0x28 ∨ c = 0x2A then 3
  else if c = 0x23 then 4
  else if c = 0x25 then 5
  else if c = 0x24 then 6
  else if 0x41 ≤ c ∧ c ≤ 0x45 then 7
  else 8

/-- One lane's cause goes before another's (R423). -/
def causeBefore (x y : Nat × Nat × Word) : Bool :=
  let k (z : Nat × Nat × Word) : Nat := causeClass z.2.1 * 2 ^ 16 + z.2.1 * 2 ^ 8 + z.1
  decide (k x < k y)

/-- The cause and address that the group reports (R423). -/
def topCause : List (Nat × Nat × Word) → Nat × Word
  | [] => (0, 0)
  | x :: xs => let t := xs.foldl (fun m y => if causeBefore y m then y else m) x; (t.2.1, t.2.2)

/-- A lane-stream trap (R432). -/
def laneTrap (m0 : Mask) (slot : Nat) (cs : List (Nat × Nat × Word)) (s : State) : State :=
  groupTrap true (topCause cs).1 (topCause cs).2 s.me.pc cs m0 (BitVec.ofNat 22 slot) s

/-- A cause is fatal (R422). -/
def fatalCause (cause : Nat) : Bool := decide (0xA1 ≤ cause ∧ cause ≤ 0xA3)

/-- Attempts of the lanes that a cause ends and that traps all the same (R284, R286): those that fail their early validation
abort with TX_CONFLICT, and the instruction executes again in the lanes left; else each ends with TX_FAULT, and the trap
`t` follows. -/
def trapAfter (age : Nat) (cs : List (Nat × Nat × Word)) (t : State → State) (s : State) : State :=
  let inside := cs.filter fun x => s.me.attempting x.1
  let stale := inside.filter fun x => !laneValid s x.1
  if stale.isEmpty then t (laneAborts age (inside.map fun x => (x.1, 0x56, x.2.1)) [] s)
  else laneAborts age [] (stale.map (·.1)) s

/-- A cause of the whole fragment (R423): every lane of m0 holds it. Lanes in an attempt end with TX_FAULT (R286); a decode
cause or a fatal one traps as well. SORT_ORDER is no cause of an access and traps as outside a transaction (R369). -/
def fragTrap (age : Nat) (m0 : Mask) (slot cause : Nat) (addr : Word) (s : State) : State :=
  let s := faultWalk cause addr s.me s
  let cs := (lanesOf m0).map fun k => (k, cause, addr)
  let inside := cs.filter fun x => s.me.attempting x.1
  if inside.isEmpty ∨ cause = 0x81 then laneTrap m0 slot cs s
  else if cause ≤ 7 ∨ fatalCause cause then trapAfter age cs (laneTrap m0 slot cs) s
  else laneFaults age inside s

/-- Causes of lanes (R191, R286): inside an attempt each lane's own transaction ends, and the instruction executes again
in the lanes left; a fatal cause of any of them takes its course. Outside, the group traps. The walks that found
translation causes have read their entries. -/
def lanesTrap (age : Nat) (m0 : Mask) (slot : Nat) (cs : List (Nat × Nat × Word)) (s : State) : State :=
  let s := (cs.map (·.2)).eraseDups.foldl (fun s x => faultWalk x.1 x.2 s.me s) s
  if cs.any fun x => s.me.attempting x.1 then
    let fatal := cs.filter fun x => fatalCause x.2.1
    if fatal.isEmpty then laneFaults age cs s else trapAfter age cs (laneTrap m0 slot fatal) s
  else laneTrap m0 slot cs s

/-- The instruction has issued: the next one of the clause comes, or the clause ends (R152, R153). -/
def LaneCtx.advance (c : LaneCtx) (s : State) : State :=
  let l := { s.me.l with run := { s.me.l.run with skip := 0 } }
  let l :=
    if c.cl.pos + 1 < c.cl.n then
      { l with run := { l.run with cur := some { c.cl with pos := c.cl.pos + 1, kept := [], stall := none } } }
    else l.endClause c.age c.after
  { s with me := { s.me with l := l } }

/-- What a lane instruction that stops does to the state it started from. -/
def stopLane (c : LaneCtx) (needs : List (Nat × Nat)) (e : Stop) (s : State) : State :=
  match e with
  | .frag cause a => fragTrap c.age c.m0 c.slot cause a s
  | .trap cause a => lanesTrap c.age c.m0 c.slot ((lanesOf (if c.act = 0 then c.m0 else c.act)).map fun k => (k, cause, a)) s
  | .trapAt cause a _ => fragTrap c.age c.m0 c.slot cause a s
  | .lanes cs q =>
    let s :=
      match q with
      | .stay => s
      | .kept =>
        if needs.isEmpty then s
        else
          let kept := headEntries s c.cl needs
          let s := popQueues c.cl needs s
          { s with me := { s.me with l := { s.me.l with run := { s.me.l.run with cur := some { c.cl with kept := kept } } } } }
      | .again => popQueues c.cl needs s
    lanesTrap c.age c.m0 c.slot cs s
  | .wait => s
  | .park f => f s
  | .abort code detail => laneAborts c.age ((lanesOf c.act).map fun k => (k, code, detail)) [] (c.advance s)
  | .conflict => s

/-- The clause in progress with no fragment cannot arise: the model's step starts a clause only for a fragment. -/
def noClause : Clause := ⟨0, 0, 0, [], 0, none, none, [], none⟩

/-- The context of the slot at issue, its sources still to be read. -/
def laneCtx (s : State) : LaneCtx :=
  let f := s.issue.slot
  match s.me.l.current with
  | some (c, x) =>
    { f := f, age := c.age, m0 := x.mask, act := s.me.l.active x.mask f.m.toNat, cl := c,
      flag := (flagOf f c).getD none, a := fun _ => 0, b := fun _ => 0, c := fun _ => 0 }
  | none =>
    { f := f, age := 0, m0 := 0, act := 0, cl := noClause, flag := none, a := fun _ => 0, b := fun _ => 0, c := fun _ => 0 }

/-- The context with its sources (R128 to R130). -/
def LaneCtx.withSources (r : LRule) (es : List (Nat × List QEntry)) (l : Lanes) (c : LaneCtx) : LaneCtx :=
  let f := c.f
  { c with
    a := srcRaw l es r.a f.a f.qa
    b := if f.ib then (fun _ => immRead r.immTy f.li f.imm) else srcRaw l es r.b f.b f.qb
    c := srcRaw l es r.c f.c f.qc }

/-- Eight free bytes as a word (log entry 7). -/
def freeWord (s : State) : Word := BitVec.ofNat 64 (leNat ((List.range 8).map fun i => Config.freeByte (s.free + i)))

/-- The shadow lanes of a protected group differ at an access or a branch of lanes of active(M) (R464): it is not performed,
and SHADOW_MISMATCH is fatal. The manual names no address for it. -/
def shadowTrap (c : LaneCtx) (s : State) : State :=
  laneTrap c.m0 c.slot ((lanesOf c.act).map fun k => (k, 0xA2, freeWord s)) { s with free := s.free + 8 }

/-- An instruction that R278 forbids, in a fragment that runs attempts: each ends before the instruction has any effect,
whatever the mask (log entry 91). -/
def forbidden (c : LaneCtx) (s : State) : State :=
  laneAborts c.age (((lanesOf c.m0).filter fun k => s.me.attempting k).map fun k => (k, 0x52, 0)) [] s

/-- Run a lane instruction: field rules, transactions, registers in range, flag and queues ready, then its effect, with
the clause already standing at the next instruction. -/
def runLane (rule : LaneF → LRule) (m : LaneCtx → Op Unit) (s : State) : Result :=
  let c := laneCtx s
  let r := rule c.f
  let needs := r.queues c.f
  let lanes := if c.act = 0 then c.m0 else c.act
  if c.m0 &&& ~~~s.me.l.run.skip = 0 then .next (c.advance s)
  else if r.cause c.f c.cl ≠ 0 then .next (stopLane c needs (.frag (r.cause c.f c.cl) (slotAddr s c.slot)) s)
  else if s.me.inTrap && !needs.isEmpty then
    .next (if r.quiet then c.advance s else stopLane c needs (.frag 0xB5 0) s)
  else if (!r.tx || !needs.isEmpty) && (lanesOf c.m0).any (fun k => s.me.attempting k) then .next (forbidden c s)
  else if s.me.l.count < r.topReg c.f then
    .next (if r.quiet then c.advance s
      else if r.acc then stopLane c needs (.frag 0x95 0) s
      else laneTrap c.m0 c.slot ((lanesOf c.m0).map fun k => (k, 0x95, 0)) s)
  else if (r.acc || r.cmp) && s.me.upset && c.act != 0 then .next (shadowTrap c s)
  else if c.flag.any fun k => vget s.me.l.w k == 63 then .next s
  else if interlocked s (r.spans c.f) then .next (markStall (r.spans c.f) s)
  else
    match queuesReady s c.cl needs lanes with
    | some e => .next (match e with | .lanes .. => if r.quiet then c.advance s else stopLane c needs e s | _ => stopLane c needs e s)
    | none =>
      let c' := c.withSources r (headEntries s c.cl needs) s.me.l
      match (m c').run (c.advance (popQueues c.cl needs s)) with
      | .ok (_, t) => .next t
      | .error e => .next (stopLane c needs e s)

/-! ## Results -/

/-- A register written in the lanes of a mask. -/
def Lanes.writeCol (d : Nat) (act : Mask) (g : Nat → Nat) (l : Lanes) : Lanes :=
  { l with v := vset l.v d (Vector.ofFn fun k : Fin 32 =>
      if act.getLsbD k then BitVec.ofNat 32 (g k) else l.word d k) }

/-- A register, or a pair for 64 bits, written in the lanes of a mask (R128). -/
def Lanes.writeRes (bits d : Nat) (act : Mask) (g : Nat → Nat) (l : Lanes) : Lanes :=
  if bits = 64 then (l.writeCol d act g).writeCol (d + 1) act (fun k => g k / 2 ^ 32) else l.writeCol d act g

/-- Change the lane half of the group in focus. -/
def onLanes (f : Lanes → Lanes) : Op Unit := onMe fun r => { r with l := f r.l }

/-- Write the destination in every lane of active(M). -/
def writeD (c : LaneCtx) (bits : Nat) (g : Nat → Nat) : Op Unit := onLanes (Lanes.writeRes bits c.f.d.toNat c.act g)

/-- A mask register written (R135, R157): bit l where lane l is in active(M) and the test holds, 0 elsewhere. -/
def writeMask (c : LaneCtx) (k : Nat) (p : Nat → Bool) : Op Unit :=
  onLanes fun l => { l with m := vset l.m k (maskOf ((lanesOf c.act).filter p)) }

end Sys2Proof.Machine
end

