-- ==== Sys2Proof/Machine/Flags.lean ====
section
/-! DEFINITION. The completion flags w0 to w11 (spec/05_lane_control.md R154 to R156; spec/06_memory.md R193). The
machine has no arithmetic flags (spec/04_lane_arith.md R127). -/

namespace Sys2Proof.Machine

/-- One operation more is outstanding in a flag. -/
def Lanes.flagUp (k : Nat) (l : Lanes) : Lanes := { l with w := vset l.w k (vget l.w k + 1) }

/-- One operation of a flag has completed. -/
def Lanes.flagDown (k : Nat) (l : Lanes) : Lanes := { l with w := vset l.w k (vget l.w k - 1) }

/-- A flag of a runner is released by one operation. -/
def State.flagDone (s : State) (who : RunnerId) (k : Nat) : State :=
  s.onRunner who fun r => { r with l := r.l.flagDown k }

/-- An operation that completes later counts in the instruction's flag (R154). -/
def flagStart (c : LaneCtx) : Op Unit :=
  match c.flag with
  | some k => onLanes (Lanes.flagUp k)
  | none => pure ()

/-- The number that a store's accepted writes carry while its flag waits for them (R193): 0 where no flag waits, or
where the scope is the group, for which they are performed as they are accepted. -/
def storeNo (c : LaneCtx) (scope : Nat) (s : State) : Nat := if c.flag.isSome && decide (2 ≤ scope) then s.nextOp + 1 else 0

/-- A lane operation numbered `nextOp + 1` has issued and counts in its flag, if it names one, until it is complete
(R154): performed on its die, or at its home where `home` says so (R237). -/
def opIssued (c : LaneCtx) (home : Bool) : Op Unit :=
  match c.flag with
  | some k => do
    onLanes fun l => l.flagUp k
    modify fun s =>
      { s with
        nextOp := s.nextOp + 1
        me := { s.me with l := { s.me.l with outst := s.me.l.outst ++ [⟨k, s.nextOp + 1, home, s.me.inTrap⟩] } } }
  | none => pure ()

/-- A store that has issued counts in its flag until its writes are performed at its scope (R193). -/
def storeIssued (c : LaneCtx) (scope : Nat) : Op Unit :=
  if 2 ≤ scope then opIssued c (decide (5 ≤ scope)) else pure ()

/-- The number of the lane operation that a delivery belongs to. -/
def Deliver.laneOp : Deliver → Option Nat
  | .laneReg _ op _ _ => some op
  | .laneLand _ op _ _ _ _ => some op
  | _ => none

/-- An operation of a runner's lanes is still on its way: an accepted write that is not performed at its scope (R193), a
write that its target beyond the package has not accepted (R482), or a claimed entry that is not delivered (R222). -/
def laneOpOpen (s : State) (who : RunnerId) (o : Outst) : Bool :=
  (s.pend.any fun w => w.who == who && w.lane && w.op == o.op && (o.home || !w.seen))
    || (s.outb.any fun b => b.who == who && b.wr && b.op == o.op)
    || s.cloaks.any fun e => match e.take with | some (w, d) => w == who && d.laneOp == some o.op | none => false

/-- The k-th outstanding lane operation of a runner, when it is complete. -/
def storeArrived (s : State) (who : RunnerId) (k : Nat) : Option Outst :=
  (s.runner? who).bind fun r => (r.l.outst[k]?).bind fun o => if laneOpOpen s who o then none else some o

/-- FLAG_RELEASE (R154, R193, R222): an outstanding lane operation that is complete releases its flag. -/
def execFlagRelease (who : RunnerId) (k : Nat) (s : State) : Result :=
  match storeArrived s who k with
  | some o => .next (s.onRunner who fun r => { r with l := { r.l.flagDown o.flag with outst := r.l.outst.eraseIdx k } })
  | none => .next s

end Sys2Proof.Machine
end

