-- ==== Sys2Proof/Machine/Fetch.lean ====
section
/-! DEFINITION. Fetching lead code (spec/19_programs.md R496, spec/06_memory.md R187) and lane clauses
(spec/02_encoding.md R49, R75; spec/05_lane_control.md R152, R165), the order of decode causes (R77, R497), and the two
rows for words that are no instruction. -/

namespace Sys2Proof.Machine

open Sys2Proof

/-! ## Words of code -/

/-- A code word in the machine (R50). A host core's caches are coherent: it fetches what its die sees. A group fetches what
is performed at package scope, or the value that its core has cached since the group's grid was placed, so of a word stored
since then either the old or the new (log entry 92). -/
def codeBytes (s : State) (key pa : Nat) : W32 :=
  if s.me.isHost then BitVec.ofNat 32 (leNat (viewRead s none s.me.die key pa 4))
  else
    match s.me.code.find? fun p => p.1 == pa with
    | some p => p.2
    | none => BitVec.ofNat 32 (leNat (homeRead s key pa 4))

/-- The 32-bit code word at an address, with EX checked (R187). Code outside the package waits for its answer like a
load. -/
def codeWord (a : Word) : Op W32 := do
  let s ← get
  match probe s s.me a 4 Need.code with
  | .error c => throw (.trapAt c a a)
  | .ok t =>
    if poisoned s t.pa 4 || (s.me.wait == .timedOut && answeredOutside s t.pa) then throw (.trapAt 0xA1 a a)
    else if answeredOutside s t.pa then
      return BitVec.ofNat 32 (leNat (← readOutside { leadAgent s with lane := s.lane } .code t.pa 4))
    else do
      markPageOf s.me t false
      if poolOf t.pa = .unmapped then
        modify badAddr
        return 0
      else
        modify fun u => countRange (touch u (some s.me.id) false false t.pa 4) t.pa 4
        return codeBytes s ((keyId s t.key).getD 0) t.pa

/-- A code word as its home holds it. -/
def homeCode (s : State) (pa : Nat) : W32 := BitVec.ofNat 32 (leNat (homeRead s (tagOf s (pa / 256)).key pa 4))

/-- A code word as it stands is noted at a grid that has been placed: a group of the grid may have it from its cache later on
(R50). -/
def noteCode (grid : Word) (pa : Nat) (s : State) : State :=
  let note (g : Grid) : Bool := g.handle == grid && decide (0 < g.nextSquad) && !g.code.any fun p => p.1 == pa
  { s with grids := mapIf note (fun g => { g with code := (pa, homeCode s pa) :: g.code }) s.grids }

/-- A group's core takes the code word at a physical address into its code cache, as it stands or as it stood at some moment
since the group's grid was placed (R50). -/
def cacheCode (who : RunnerId) (pa : Nat) (s : State) : State :=
  s.onRunner who fun r =>
    let noted := (s.grids.find? fun g => g.handle == r.grid).bind fun g => g.code.find? fun p => p.1 == pa
    if r.isHost || r.code.any (fun p => p.1 == pa) then r else { r with code := noted.getD (pa, homeCode s pa) :: r.code }

/-- A code word leaves a group's code cache (R50), or the answers that hold one from outside. -/
def dropCode (who : RunnerId) (pa : Nat) (s : State) : State :=
  { s.onRunner who (fun r => { r with code := r.code.filter fun p => p.1 != pa }) with
    outb := s.outb.filter fun o => !(o.who == who && o.ask == .code && o.pa == pa / 8 * 8) }

/-- The words of an instruction with the prefix words before it (R496), at most `n` of them. -/
def codeRun : Nat → Word → Op (List W32)
  | 0, _ => return []
  | n + 1, a => do
    let w ← codeWord a
    if isPfx w then return w :: (← codeRun n (a + 4))
    else if bits w 30 2 == 2 then return [w, ← codeWord (a + 4)]
    else return [w]

/-- The words that 2^64 bytes of addresses hold: no run has more. -/
def runLimit : Nat := 2 ^ 62

/-- Forms that only device groups execute (R62, column G; R221, R295). -/
def groupOnly : Instr → Bool
  | .redeemlLanding .. | .cpyt .. | .cpytExt .. | .cpyg .. | .cpygExt .. => true
  | .redeemlQ _ _ _ l _ => l
  | .cpylExt _ _ _ _ _ dk sk => dk == 1 || dk == 2 || sk == 1 || sk == 2
  | .cpyfExt _ _ _ _ _ dk => dk == 1 || dk == 2
  | .lrun .. | .lwait .. | .osdef .. | .osend .. | .ckptStat .. | .ckptRb | .kfetch .. | .mloop .. | .osub .. | .accz ..
  | .accld .. | .accldTyped .. | .accst .. | .accstTyped .. | .accver .. | .accverWait .. | .accverSet ..
  | .vgrow .. | .vshrink .. | .texit => true
  | _ => false

/-- The registers that a number names for a runner (R426, R429): those it holds itself, those of a group, those of the
context that it runs. The per-lane registers stand apart (R430, R431). -/
def csrNames (r : Runner) (c : Nat) : Bool :=
  if [0x008, 0x009, 0x00D, 0x103, 0x105, 0x106, 0x107].contains c then !r.isHost
  else if c = 0x11D then r.isHost
  else if c = 0x108 then r.isHost || r.ctx != 0
  else if [0x00B, 0x00C, 0x109, 0x111, 0x112, 0x113, 0x114, 0x115, 0x117, 0x118, 0x119].contains c then r.ctx != 0
  else
    [0x000, 0x00A, 0x100, 0x101, 0x102, 0x104, 0x10A, 0x10B, 0x110, 0x116, 0x11A, 0x11B, 0x11C, 0x120, 0x121].contains c
      || decide (0x140 ≤ c ∧ c < 0x180)

/-- A lead form that names a register which its runner does not hold (R64). -/
def csrUnnamed (r : Runner) : Instr → Bool
  | .csrrd _ c | .csrwr _ _ c | .csrset _ _ c | .csrclr _ _ c => !csrNames r c.toNat
  | _ => false

/-- The first decode cause of a run in the order of R77, with the index of the word that raises it (R497). -/
def runCause (r : Runner) (d : Decoded) : Option (Nat × Nat) :=
  match d.ill with
  | some k => some (1, k)
  | none =>
    if (r.isHost && groupOnly d.ins) || csrUnnamed r d.ins then some (1, 0)
    else
      match d.res with
      | some k => some (2, k)
      | none => d.orph.map fun k => (3, k)

/-- A host core has used the answers that brought n code words at an address from outside. -/
def spendCode (a : Word) (n : Nat) (s : State) : State :=
  if !s.me.isHost || s.outb.isEmpty then s
  else
    let used := (List.range n).filterMap fun k =>
      match translate s s.me (a + BitVec.ofNat 64 (4 * k)) with
      | .ok t => some (t.pa / 8 * 8)
      | .error _ => none
    { s with outb := s.outb.filter fun o => !(o.who == s.me.id && o.ask == .code && used.contains o.pa) }

/-- What a fetch leaves for the instruction it found. A host core keeps no word from outside (R50). -/
def latch (pc : Word) (d : Decoded) (s : State) : State :=
  let s := spendCode pc d.words s
  { s with
    me := { s.me with entry := false }
    issue := { s.issue with
      pc := pc, next := pc + BitVec.ofNat 64 (4 * d.words), rnd := d.mods.rnd, sat := d.mods.sat, ord := d.mods.ord } }

/-- Fetch and decode at the lead program counter: the decoded run, with its fields latched. The first fetch of a group
checks E (R406), after the causes that R77 puts before it. -/
def fetchLead : Op Decoded := do
  let pc := (← get).me.pc
  let ws ← codeRun runLimit pc
  let d := (decodeWords [] ws).getD ((decodeWords [] (ws ++ [0])).getD (decodeRun [] 0 0))
  let r := (← get).me
  if r.entry && !(ws.headD 0).getLsbD 29 && (runCause r d).isNone then throw (.trapAt 0x04 pc pc)
  modify (latch pc d)
  return d

/-- LEAD_FETCH (R187, R496): the fetch at the program counter by itself: its walk marks the pages, and a fault traps with
EPC and FAULTADDR at the word fetched. -/
def execLeadFetch (s : State) : Result :=
  match fetchLead.run s with
  | .ok (_, t) => .next t
  | .error e => .next (stopLead e s)

/-- UNUSED_OPCODE (R62, R72): an encoding that names no instruction traps ILLEGAL_OPCODE, in the stream that met it. -/
def execUnusedOpcode (s : State) : Result :=
  if s.lane && !s.me.isHost then runLane (fun _ => { type := false }) (fun _ => pure ()) s
  else .next (leadTrap 0x01 s.issue.pc s.issue.pc s)

/-- The rows that are steps of the machine itself, which no word or slot encodes (log entry 5). CLAUSE and RUN_START are
steps of a lane stream. -/
def isEvent : Instr → Bool
  | .watchWake .. | .runStart | .flagRelease .. | .issuePromotion .. | .streamElementRead ..
  | .distributorElementRead .. | .ticketDataArrival .. | .redemptionDelivery .. | .leaseExpiry ..
  | .cloakroomReconfigure .. | .porterOperationStart .. | .copyComplete .. | .usherBound .. | .gatherListMerge ..
  | .ksummBuildComplete .. | .memoryWriteArrival .. | .matrixOperationStart .. | .mloopKStep ..
  | .matrixOperationComplete .. | .gridReady .. | .squadPlacement .. | .placementReservation ..
  | .producerPreemption .. | .vgrowGrant .. | .vgrowDeadlockBreak .. | .gridComplete .. | .engineStop ..
  | .skidOverrun .. | .haltCollected .. | .preemptionComplete .. | .txEarlyValidation .. | .fallbackLockGrant
  | .fallbackLockRevoke | .msixMessage .. | .peerWrite .. | .peerRead .. | .bar4Access ..
  | .remoteAccessTimeout .. | .controllerBatchForm .. | .scrubVisit .. | .hotnessIntervalEnd ..
  | .refreshHeartbeat .. | .refreshTakeover .. | .escapeRecovery .. | .injectorAct .. | .supplySag ..
  | .supplyRecover .. | .partitionReset .. | .packageReset | .hostCoreRestart .. | .routingTableWrite ..
  | .tlbInvalidateAll | .tlbInvalidateContext | .tlbInvalidatePage .. | .ctxctlCreate .. | .curctxWrite ..
  | .clkcfgWrite .. | .lswzWrite .. | .keyInstall .. | .windowRegisterWrite .. | .counterClear ..
  | .noticeClear .. | .registerWrite .. | .linkFlitError .. | .memoryError .. | .escapeChannelEmpty ..
  | .outboundWriteAccept .. => true
  | _ => false

/-! ## Lane clauses -/

/-- The slot at an address. -/
def codeSlot (a : Word) : Op (BitVec 96) := do
  let w0 ← codeWord a
  let w1 ← codeWord (a + 4)
  let w2 ← codeWord (a + 8)
  return w2 ++ w1 ++ w0

/-- A slot of the running lane code section; a fault names the slot's first byte (R187), a slot beyond the section is
BAD_CLAUSE (R49). -/
def laneSlot (slot : Nat) : Op (BitVec 96) := do
  let s ← get
  let a := slotAddr s slot
  if 2 ^ 22 ≤ slot then throw (.frag 0x06 a)
  else
    match (codeSlot a).run s with
    | .ok (w, t) => do
      set t
      return w
    | .error (.trapAt c _ _) => throw (.frag c a)
    | .error e => throw e

/-- The clause header at a fragment's slot, or the cause that it raises (R74, R75, R153). -/
def laneHeader (slot : Nat) : Op (Except Stop Header) := do
  let w ← laneSlot slot
  let a := slotAddr (← get) slot
  if bits w 92 4 != 15 then return .error (.frag 0x06 a)
  else if bits w 84 8 != 0 then return .error (.frag 0x01 a)
  else if (decodeLane w).res || !(headerFields w).wellFormed then return .error (.frag 0x02 a)
  else return .ok (headerFields w)

/-- Every flag that the header's WAIT names is clear (R152). -/
def waitClear (l : Lanes) (h : Header) : Bool :=
  (List.range 12).all fun k => !h.wt.getLsbD k || vget l.w k == 0

/-- The fragments that may start a clause, the longest-waiting first (R165). -/
def candidates (l : Lanes) : List Frag :=
  sortBy (·.since) (l.run.frags.filter fun x => x.live && x.st == .runnable)

/-- What the next clause start finds (R152, R165): the first fragment whose header's flags are clear, or that traps, and the
state that the fetch leaves. -/
def pickClause (s : State) : Option (Frag × Except Stop Header × State) :=
  (candidates s.me.l).findSome? fun x =>
    match (laneHeader x.pc).run s with
    | .ok (.ok h, t) => if waitClear s.me.l h then some (x, .ok h, t) else none
    | .ok (.error e, t) => some (x, .error e, t)
    | .error e => some (x, .error e, s)

/-- The clause start latched for exec: the header's slot, the fragment's age and the header. -/
def latchClause (x : Frag) (h : Header) (s : State) : State :=
  { s with issue := { s.issue with pc := slotAddr s x.pc, next := BitVec.ofNat 64 x.age, hdr := h } }

/-- What a clause start that stops does. -/
def stopClause (x : Frag) (e : Stop) (s : State) : State :=
  match e with
  | .frag c a => fragTrap x.age x.mask x.pc c a s
  | .trapAt c a _ => fragTrap x.age x.mask x.pc c a s
  | .park f => f s
  | _ => s

/-- The next instruction of the clause in progress, with its fields latched. -/
def fetchSlot (c : Clause) (s : State) : Instr × State :=
  let d := decodeLane (c.code.getD c.pos 0)
  (d.ins, { s with
    issue := { s.issue with pc := slotAddr s c.slot, next := slotAddr s (c.slot + 1), slot := d.slot } })

/-! ## Who moves -/

/-- A stream of a distributor that the group in focus owns met a fault whose trap it has not taken yet (R346). A group that
has exited raises none, and the fault stays with the stream (log entry 93). -/
def streamFault (s : State) : Option (Nat × Nat × Word) :=
  if s.me.isHost then none
  else s.streams.findSome? fun x => if x.owner = s.me.id ∧ streamToPorts x.desc ∧ !x.raised then x.fault.map fun f => (x.os, f.1, f.2) else none

/-- That fault is raised at the group's next lead instruction, and OSFAULT names the stream (R346). While its handler runs the
stream raises it no more. -/
def raiseStreamFault (os cause : Nat) (a : Word) (s : State) : State :=
  let t := leadTrap cause a s.me.pc { s with me := { s.me with l := { s.me.l with osfault := BitVec.ofNat 64 (os + 1) } } }
  let mine (x : Stream) : Bool := x.owner == s.me.id && x.os == os && streamToPorts x.desc
  if t.me.id = s.me.id ∧ t.me.inTrap then { t with streams := mapIf mine (fun x => { x with raised := true }) t.streams } else t

/-- The squad of the group in focus is being pre-empted: its streams stop at their points (R452, R454). -/
def squadLeaving (s : State) : Bool :=
  match myTeam s with
  | some t => s.squads.any fun q => q.uid == t.squad && q.leaving
  | none => false

/-- The runner in focus takes the fallback lock if it is free and no other is before it, else stands in the queue
(R288). -/
def Wicket.take (w : Wicket) (who : RunnerId) (now : Nat) : Wicket :=
  if w.holder.isNone && (w.queue.isEmpty || w.queue.head? == some who) then
    { w with holder := some who, queue := w.queue.filter (· != who), since := now }
  else if w.queue.contains who || w.holder == some who then w
  else { w with queue := w.queue ++ [who] }

/-- A retried lead attempt asks for the lock before it goes on (R287). -/
def awaitLock (s : State) : State :=
  let w := s.wicket.take s.me.id s.clocks.fabric
  { s with wicket := w, me := { s.me with tx := { s.me.tx with fb := w.holder == some s.me.id } } }

/-- The grid of the group in focus has ended (R417). -/
def gridStopped (s : State) : Bool := s.grids.any fun g => g.handle == s.me.grid && g.stop.isSome

/-- The team of the group in focus is to go back to its checkpoint: its groups stop at their points (R469, R452). -/
def rollingBack (s : State) : Bool := (myTeam s).any fun t => t.ck.any fun c => c.back.isSome

/-- A lane redemption of the runs in use still waits for its data (R220, R234). -/
def laneRedeeming (s : State) : Bool :=
  s.cloaks.any fun e => e.st == .claimed &&
    match e.take with
    | some (w, .laneReg h _ _ _) | some (w, .laneLand h _ _ _ _ _) => w == s.me.id && h == s.me.inTrap
    | _ => false

/-- The runner in focus issues nothing: stopped, its partition halted (R446), past an ASSERT that failed, its lanes at their
next point (R443, R452), its squad at a pre-emption point, its grid ended or its team going back (R417, R452, R469), a handler
waiting for its group's writes (R433), its lead stream waiting for redeemed bytes (R220) or for a watched word to change (R256)
with no stream's fault to take (R346), or its lanes waiting for redeemed bytes. -/
def held (lane : Bool) (s : State) : Bool :=
  s.me.stopped || s.me.wait == .drain
    || (s.me.asserted && (!lane || s.me.l.run.cur.all fun c => c.stall == some assertStall))
    || (!s.me.isHost && halted s s.me.part)
    || (!s.me.isHost && (squadLeaving s || gridStopped s || rollingBack s) && (!lane || s.me.l.run.cur.isNone))
    || (!lane && (s.me.wait == .redeem || (s.me.wait == .watch && (streamFault s).isNone)))
    || (lane && laneRedeeming s)

/-- A host core takes an interrupt before its next instruction: IE = 1 and a notice is pending (R439). It waits for no ticket
(R233). -/
def interruptDue (s : State) : Option Word :=
  if s.me.isHost && !s.me.stopped && s.me.status.getLsbD 4 then s.me.ints.head? else none

/-- The interrupt is taken: a redemption that still waits is abandoned, to run again after the handler (R222, R233), and a
transaction in progress set aside (R290). -/
def takeInterrupt (w : Word) (s : State) : State :=
  let s := undoClaim s
  { s with me := hostInterrupt w s.me, wicket := if s.me.tx.active then s.wicket.release s.me.id else s.wicket }

/-- A context's leases stand still: no host core runs a thread of it, and no group of it is resident (R212). -/
def leaseFrozen (s : State) (n : Nat) : Bool := !s.runners.any fun r => r.ctx == n

/-- An entry's lease runs out (R211): the entry is reclaimed, and its context's TRECL counts it. -/
def expireLease (e : EntryId) (s : State) : State :=
  match s.cloaks.find? fun x => x.id == e && (x.st == .pending || x.st == .ready) with
  | none => s
  | some x =>
    settleClk { s with
      outb := s.outb.filter fun o => o.ask != .ticket e
      cloaks := mapIf (fun y => y.id == e) Cloak.reclaim s.cloaks
      ctxs := mapIf (fun c => c.id == x.ctx) (fun c => { c with trecl := c.trecl + 1 }) s.ctxs }

/-- Clocks that pass for a lease: fabric clocks on H, on a compute die core clocks of the hall whose slice it is (R35, R210,
log entry 86). -/
def Cloak.passed (core : Nat → Nat) (fabric : Nat) (e : Cloak) : Nat :=
  if e.id.die = 3 then fabric else core (2 * e.id.die + e.id.slice / 32)

/-- Core clocks pass for a group that is ready at a stage and does not issue: after 128 it is promoted (R411). -/
def Lanes.waits (n : Nat) (l : Lanes) : Lanes :=
  let a := if l.ready.1 then l.readyFor.1 + n else 0
  let b := if l.ready.2 then l.readyFor.2 + n else 0
  { l with readyFor := (a, b), promoted := (l.promoted.1 || decide (128 ≤ a), l.promoted.2 || decide (128 ≤ b)) }

/-- A stage has turned to a group: it issues there, or it is not ready (R411). -/
def Runner.served (lane : Bool) (r : Runner) : Runner :=
  if r.isHost then r
  else
    { r with l := { r.l with
      promoted := if lane then (r.l.promoted.1, false) else (false, r.l.promoted.2)
      ready := if lane then (r.l.ready.1, false) else (false, r.l.ready.2)
      readyFor := if lane then (r.l.readyFor.1, 0) else (0, r.l.readyFor.2) } }

/-- A group goes before another in placement order (R411). -/
def Runner.earlier (x y : Runner) : Bool := decide (x.placed < y.placed ∨ (x.placed = y.placed ∧ x.gno < y.gno))

/-- Another group of the core goes before the one in focus at a stage (R411): among groups that were ready when clocks last
passed, promoted ones first, the one that has waited longest before the others, then the rest in placement order. -/
def behindOthers (lane : Bool) (s : State) : Bool :=
  let pick (p : Bool × Bool) : Bool := if lane then p.2 else p.1
  let wait (r : Runner) : Nat := if lane then r.l.readyFor.2 else r.l.readyFor.1
  let before_ (r : Runner) : Bool :=
    if pick s.me.l.promoted then pick r.l.promoted && decide (wait s.me < wait r)
    else pick r.l.promoted || (pick r.l.ready && r.earlier s.me)
  !s.me.isHost && s.others.any fun r => !r.isHost && r.core == s.me.core && before_ r

/-- Core clocks pass for the attempts of a group (R284). -/
def Runner.runs (core : Nat → Nat) (r : Runner) : Runner :=
  let r := if r.isHost then r else { r with l := r.l.waits (core (r.core / 64)) }
  if r.isHost || !r.inTx then r
  else
    let n := core (r.core / 64)
    { r with
      tx := if r.tx.active then { r.tx with ran := r.tx.ran + n } else r.tx
      l := { r.l with tx := r.l.tx.map fun t => if t.st = .running then { t with ran := t.ran + n } else t } }

/-- Clocks pass, core clocks by hall. Leases run unless they are frozen (R210 to R212); one that runs out before the last of
the clocks is reclaimed on the way. -/
def advanceClocks (core : Nat → Nat) (host fabric : Nat) (s : State) : State :=
  let runs (e : Cloak) : Bool := (e.st == .pending || e.st == .ready) && !leaseFrozen s e.ctx
  let spent := s.cloaks.filter fun e => runs e && e.lease.any fun n => decide (n < e.passed core fabric)
  spent.foldl (fun s e => expireLease e.id s)
    { s with
      clocks := ⟨s.clocks.core.mapIdx fun h n => n + core h, s.clocks.host + host, s.clocks.fabric + fabric⟩
      me := s.me.runs core
      others := s.others.map (Runner.runs core)
      cloaks := mapIf runs (fun e => { e with lease := e.lease.map (· - e.passed core fabric) }) s.cloaks }

/-- Clocks pass: core clocks in the halls whose clock is not stretched (R35). -/
def passClocks (core host fabric : Nat) (s : State) : State :=
  advanceClocks (fun h => if s.stretched.contains h then 0 else core) host fabric s

/-- A saturating sum in 64 bits. -/
def satAdd (w : Word) (n : Nat) : Word := BitVec.ofNat 64 (min (2 ^ 64 - 1) (w.toNat + n))

/-- Core clocks pass in a hall whose clock is stretched (R35), each longer than 0.952 ns by up to `ns` nanoseconds, which
STRETCH adds up, rounded up for each (R494). -/
def passHall (hall core ns : Nat) (s : State) : State :=
  if s.stretched.contains hall then
    let t := advanceClocks (fun h => if h = hall then core else 0) 0 0 s
    { t with dev := { t.dev with stretch := vset t.dev.stretch hall (satAdd (vget t.dev.stretch hall) (core * max 1 ns)) } }
  else s

/-- A TLB entry leaves for lack of room (R189). -/
def evictTlb (k : Nat) (s : State) : State := { s with tlb := s.tlb.eraseIdx k }

/-- A group that stands ready to run one clause: what `withFetchWord` puts in focus for a lane slot. -/
def laneStand (s : State) : Runner :=
  if s.me.isHost then { Runner.zero (.group s.nextUid) with l := { Lanes.zero with count := 256, live := BitVec.allOnes 32 } }
  else s.me

/-- The fragment and clause in which a slot stands as the next instruction. -/
def laneStandRuns (s : State) (code : Option (BitVec 96)) : LaneRuns :=
  let r := laneStand s
  { r.l.run with
    runs := [⟨0, r.xb, 0⟩]
    running := true
    frags := [⟨r.l.live, 0, .runnable, 0, true, 0⟩]
    split := []
    reload := []
    cur := code.map fun w => ⟨0, 0, 1, [w], 0, none, none, [], none⟩ }

/-- Bytes placed at a physical address as its home holds them, nothing on the way to them, and no code word cached. -/
def placeBytes (pa : Nat) (bs : List Byte) (s : State) : State :=
  let t := homeWrite { s with pend := [] } 0 false pa bs
  { t with me := { t.me with code := [] }, poison := t.poison.filter fun u => !(unitsOf pa bs.length).contains u }

end Sys2Proof.Machine
end

