-- ==== Sys2Proof/Machine/Spans.lean ====
section
/-! DEFINITION. Accesses longer than one page: a byte range split where pages end (spec/06_memory.md R186;
spec/03_lead.md R114), for stream elements, tickets and copies. -/

namespace Sys2Proof

open Sys2Proof.Machine

/-- The X and IMM16 fields as R73 lays them out. -/
def LaneF.xbn (f : LaneF) : Nat := f.imm.toNat / 2 ^ 29
def LaneF.scope (f : LaneF) : Nat := f.imm.toNat / 2 ^ 26 % 8
def LaneF.order (f : LaneF) : Nat := f.imm.toNat / 2 ^ 23 % 8
def LaneF.scale (f : LaneF) : Nat := f.imm.toNat / 2 ^ 21 % 4
def LaneF.off (f : LaneF) : Int := sextN 16 f.imm.toNat

/-- The offset that an index gives (R191). -/
def LaneF.offset (f : LaneF) (idx : Int) : Int := idx * (2 ^ f.scale : Nat) + f.off

end Sys2Proof

namespace Sys2Proof.Machine

open Sys2Proof

/-- What a translated page permits, with its key slot (R187, R481). -/
def pageFault (s : State) (r : Runner) (t : Tr) (n : Need) : Option Nat :=
  if keyFault s t then some 0x28 else if permFault r.sup t n then some 0x23 else none

/-- A virtual range split into pieces of one page each, with a cause and its address where a page faults. -/
def vaPieces (s : State) (r : Runner) (need : Need) : Nat → Word → Nat → Except (Nat × Word) (List (Tr × Nat))
  | 0, _, _ => .ok []
  | fuel + 1, a, n =>
    if n = 0 then .ok []
    else
      match translate s r a with
      | .error c => .error (c, a)
      | .ok t =>
        match pageFault s r t need with
        | some c => .error (c, a)
        | none =>
          let k := min n (pageBytes t.size - a.toNat % pageBytes t.size)
          match vaPieces s r need fuel (a + BitVec.ofNat 64 k) (n - k) with
          | .ok l => .ok ((t, k) :: l)
          | .error e => .error e

/-- The pieces of n bytes at a virtual address. -/
def rangePieces (s : State) (r : Runner) (a : Word) (n : Nat) (need : Need) : Except (Nat × Word) (List (Tr × Nat)) :=
  vaPieces s r need (n / 4096 + 2) a n

/-- The pieces of n bytes at a signed offset through a translation register (R114). -/
def xbPieces (s : State) (r : Runner) (x : Xb) (o : Int) (n : Nat) (need : Need) : Except (Nat × Word) (List (Tr × Nat)) :=
  let va := x.base + BitVec.ofInt 64 o
  if x.v && decide (0 ≤ o ∧ o + n ≤ x.span.toNat) then
    match pageFault s r (x.tr o.toNat) need with
    | some c => .error (c, va)
    | none => .ok [(x.tr o.toNat, n)]
  else if x.v && decide (0 ≤ o ∧ o + n ≤ x.limit.toNat) then rangePieces s r va n need
  else .error (0x26, va)

/-- The range-lock table meets a piece (R259). -/
def piecesLocked (s : State) (part : Nat) (l : List (Tr × Nat)) (write : Bool) : Bool :=
  l.any fun p => rangeHit s part p.1.pa p.2 write

/-- A piece holds a poisoned unit (R312). -/
def piecesPoisoned (s : State) (l : List (Tr × Nat)) : Bool := l.any fun p => poisoned s p.1.pa p.2

/-- The bytes of the pieces, read by an agent. -/
def readPieces (g : Agent) : List (Tr × Nat) → Op (List Byte)
  | [] => return []
  | (t, n) :: l => return (← readAt g t n) ++ (← readPieces g l)

/-- Bytes stored over the pieces by an agent. -/
def writePieces (g : Agent) : List (Tr × Nat) → List Byte → Op Unit
  | [], _ => return ()
  | (t, n) :: l, bs => do
    writeAt g t (bs.take n)
    writePieces g l (bs.drop n)

/-! ## Lane accesses to memory -/

/-- A translation register as the running run captured it (R109). -/
def runXb (s : State) (n : Nat) : Xb := ((s.me.l.run.runs.head?.map fun u => vget u.xb n)).getD Xb.zero

/-- The MFB that the running run captured (R340). -/
def runMfb (s : State) : Word := ((s.me.l.run.runs.head?.map (·.mfb))).getD 0

/-- The lane stream of the group in focus as an agent; `op` numbers the instruction for its flag. -/
def laneAgent (s : State) (op : Nat) : Agent :=
  ⟨s.me.id, s.me.die, s.me.part, true, op, s.me.grid, s.issue.slot.order == 4⟩

/-- One lane's checks for z bytes at offset o of a translation register, in the order of R194, with the alignment of
R201. -/
def laneProbe (s : State) (x : Xb) (o : Int) (z : Nat) (n : Need) : Except (Nat × Word) Tr :=
  let (va, r) := viaXb s s.me x o z n
  match r with
  | .error c => .error (c, va)
  | .ok t =>
    if spanHit s s.me va t z n.wr then .error (0x25, va)
    else if va.toNat % z ≠ 0 then .error (0x24, va)
    else .ok t

/-- A read of n bytes by a lane would consume an uncorrectable error: inside its attempt only in a byte that its own buffer
does not hold (R275, R312). -/
def laneConsumes (s : State) (lane pa n : Nat) : Bool :=
  if s.me.attempting lane then freshPoisoned s (vget s.me.l.tx lane).wbuf pa n else poisoned s pa n

/-- One lane's checks, with the uncorrectable errors that a read would consume (R312, R488). -/
def laneCheck (s : State) (lane : Nat) (x : Xb) (o : Int) (z : Nat) (n : Need) : Except (Nat × Word) Tr :=
  match laneProbe s x o z n with
  | .error e => .error e
  | .ok t =>
    if n.rd && (laneConsumes s lane t.pa z || (s.me.wait == .timedOut && answeredOutside s t.pa)) then
      .error (0xA1, x.base + BitVec.ofInt 64 o)
    else .ok t

/-- The lanes' causes among their checks, in lane order. -/
def laneErrors (l : List (Nat × Except (Nat × Word) α)) : List (Nat × Nat × Word) :=
  l.filterMap fun p => match p.2 with | .error e => some (p.1, e.1, e.2) | .ok _ => none

/-- The lanes' checks that passed. -/
def laneOks (l : List (Nat × Except ε α)) : List (Nat × α) :=
  l.filterMap fun p => match p.2 with | .error _ => none | .ok a => some (p.1, a)

/-- Every lane passes, or the lanes with a cause stop the instruction (R191). -/
def allLanes (q : QPop) (l : List (Nat × Except (Nat × Word) α)) : Op (List (Nat × α)) :=
  if (laneErrors l).isEmpty then pure (laneOks l) else throw (.lanes (laneErrors l) q)

/-- One lane's checks for z bytes at offset o of a team's landing (R177, R194). -/
def landCheck (s : State) (t : Team) (o : Int) (z al : Nat) (write : Bool) : Except (Nat × Word) Nat :=
  let a := BitVec.ofInt 64 o
  if o < 0 ∨ (t.len : Int) < o + z then .error (0x2A, a)
  else if landHit s t.uid o.toNat z write then .error (0x25, a)
  else if o.toNat % al ≠ 0 then .error (0x24, a)
  else .ok o.toNat

end Sys2Proof.Machine
end

