-- ==== Sys2Proof/Machine/Tickets.lean ====
section
/-! DEFINITION. Claim tickets, cloakrooms and redemption (spec/07_tickets.md). -/

namespace Sys2Proof.Machine

open Sys2Proof

/-! ## Tickets and entries -/

/-- CHECK of a ticket's upper fields under a key (R204). -/
def ticketCheck (t tkey : Word) : Nat :=
  let h := (t >>> 20) * 0x9E3779B97F4A7C15 + tkey
  slice h 63 48 ^^^ slice h 47 32 ^^^ slice h 31 16 ^^^ slice h 15 0

/-- A ticket's fields (R203). -/
def ticketEntry (t : Word) : EntryId := ⟨slice t 62 61, slice t 60 55, slice t 54 43⟩
def ticketGen (t : Word) : Nat := slice t 42 27
def ticketSize (t : Word) : Nat := slice t 26 23

/-- The ticket of an entry (R203, R204). -/
def ticketWord (e : EntryId) (gen : BitVec 16) (size : Nat) (tkey : Word) : Word :=
  let t := BitVec.ofNat 64
    (2 ^ 63 + e.die * 2 ^ 61 + e.slice * 2 ^ 55 + e.entry * 2 ^ 43 + gen.toNat * 2 ^ 27 + size * 2 ^ 23)
  t ||| BitVec.ofNat 64 (ticketCheck t tkey * 16)

/-- Core-side L2 slices of a die (R29). -/
def slicesOf (die : Nat) : Nat := if die = 3 then 16 else 64

/-- The slice of an address on a die (R29). -/
def sliceAt (die pa : Nat) : Nat := Config.l2Slice die (pa / 256) % slicesOf die

/-- A key of a context (R204); a runner with no context holds none. -/
def tkeyOf (s : State) (n : Nat) : Word := ((ctx? s n).map (·.tkey)).getD 0

/-! ## Shares and entries -/

/-- The partitions that share a die's cloakrooms, with their weights (R205). -/
def cloakParts (s : State) (die : Nat) : List (Nat × Nat) :=
  if die = 3 then (s.parts.filter fun p => p.units != 0).map fun p => (p.no, p.units)
  else (s.parts.filter fun p => p.halls.any fun h => h / 2 == die).map fun p => (p.no, 1)

/-- A total divided in proportion, rounded down, and what remains given one each in ascending order (R205). -/
def divideShares (total : Nat) (ws : List (Nat × Nat)) : List (Nat × Nat) :=
  let sum := (ws.map (·.2)).foldl (· + ·) 0
  let base := ws.map fun w => (w.1, total * w.2 / sum)
  let rest := total - (base.map (·.2)).foldl (· + ·) 0
  base.zipIdx.map fun p => (p.1.1, p.1.2 + if p.2 < rest then 1 else 0)

/-- First number and size of a partition's share. -/
def shareOf (total : Nat) (ws : List (Nat × Nat)) (part : Nat) : Nat × Nat :=
  let l := divideShares total ws
  let before := (l.takeWhile fun p => p.1 != part).map (·.2)
  (before.foldl (· + ·) 0, ((l.find? fun p => p.1 == part).map (·.2)).getD 0)

/-- The generation of an entry not used since the last reset of the partition that owns it (R206; spec/17_protection.md
R475). -/
def freshGen (s : State) (id : EntryId) : BitVec 16 :=
  let ws := cloakParts s id.die
  let mine (p : Part) : Bool :=
    let r := shareOf 4096 ws p.no
    decide (r.1 ≤ id.entry ∧ id.entry < r.1 + r.2)
  ((s.parts.find? mine).map (·.resets)).getD 0

/-- An entry, FREE until it is first used (R206). -/
def cloakAt (s : State) (id : EntryId) : Cloak :=
  (s.cloaks.find? fun e => e.id == id).getD
    ⟨id, .free, freshGen s id, 0, 0, 0, none, false, 0, 0, 0, .host 0, true, false, [], [], none, 0, none⟩

/-- An entry changed or first used. -/
def putCloak (e : Cloak) (s : State) : State :=
  { s with cloaks := e :: s.cloaks.filter fun x => x.id != e.id }

/-- The buffer setting of a slice: in force, and as last written (R205). -/
def clkSetting (s : State) (die slice_ : Nat) : ClkCfg :=
  (s.clkcfg.find? fun c => c.die == die && c.slice == slice_).getD ⟨die, slice_, 0, none⟩

/-- Buffer units that an entry of a size holds (R205). -/
def sizeUnits (k : Nat) : Nat := max 1 (2 ^ k / 8)

/-- Buffer units of a slice in use by a partition (R205, R207). -/
def unitsUsed (s : State) (die slice_ part : Nat) : Nat :=
  let held (e : Cloak) : Nat := (if e.st.live then sizeUnits e.size else 0) + (e.late.map sizeUnits).getD 0
  ((s.cloaks.filter fun e => e.id.die == die && e.id.slice == slice_ && e.part == part).map held).foldl (· + ·) 0

/-- The SPENT entry that became so earliest among those whose data have arrived (R206). -/
def oldestSpent (s : State) (die slice_ lo n : Nat) : Option Cloak :=
  let c := s.cloaks.filter fun e =>
    e.id.die == die && e.id.slice == slice_ && e.st == .spent && e.late.isNone && decide (lo ≤ e.id.entry ∧ e.id.entry < lo + n)
  (c.map (·.spentAt)).min?.bind fun m => c.find? fun e => e.spentAt == m

/-- The entry that an allocation takes (R206). -/
def pickEntry (s : State) (die slice_ part size : Nat) : Option Cloak :=
  let ws := cloakParts s die
  let (lo, n) := shareOf 4096 ws part
  let units := (shareOf (4096 * (1 + (clkSetting s die slice_).cur)) ws part).2
  if units < unitsUsed s die slice_ part + sizeUnits size then none
  else
    match (List.range n).find? fun k => (cloakAt s ⟨die, slice_, lo + k⟩).st == .free with
    | some k => some (cloakAt s ⟨die, slice_, lo + k⟩)
    | none => oldestSpent s die slice_ lo n

/-- A lease from its code (R210). -/
def leaseOf (code : Nat) (tldef : Word) : Option Nat :=
  let d := slice tldef 15 0
  let c := if code = 0 then (if d = 0 then 0x400 else d) else code
  if c = 0xFFFF then none else some (c * 1024)

/-- The TLDEF of a context. -/
def tldefOf (s : State) (n : Nat) : Word := ((ctx? s n).map (·.tldef)).getD 0

/-- Data still in flight for an entry that is allocated anew keep their buffer units under a name of their own, beyond
the 4096 entries. -/
def ghostOf (e : Cloak) : List Cloak :=
  if e.late.isSome then [{ e with id := { e.id with entry := e.id.entry + 4096 * (1 + e.gen.toNat) }, st := .free }] else []

/-- A ticketed load issued by the runner in focus (R216): the ticket with the state, none where the cloakroom is
full. A target outside the package is asked for its bytes (R482). -/
def newTicket (code size : Nat) (sc : Bool) (t : Tr) (s : State) : Option (Word × State) :=
  let r := s.me
  (pickEntry s r.die (sliceAt r.die t.pa) r.part size).map fun old =>
    let gen := if old.st = .spent then old.gen + 1 else old.gen
    let e : Cloak :=
      { id := old.id, st := .pending, gen := gen, ctx := r.ctx, part := r.part, size := size
        lease := leaseOf code (tldefOf s r.ctx), poison := false, src := t.pa, key := (keyId s t.key).getD 0
        die := r.die, who := r.id, performed := false, sc := sc, data := [], lines := [], late := none, spentAt := 0
        take := none }
    let s := { s with outb := s.outb.filter fun o => o.ask != .ticket old.id }
    let s' := putCloak e (if answeredOutside s t.pa then outAsk r.id (.ticket old.id) r.grid t.pa e.len s else s)
    (ticketWord old.id gen size (tkeyOf s r.ctx), { s' with cloaks := s'.cloaks ++ ghostOf old })

/-! ## Checks -/

/-- The tests of R219 before the form's size, for the context of the runner in focus: a refusal or the entry. -/
def checkTicket (s : State) (t : Word) : Except Nat Cloak :=
  let e := cloakAt s (ticketEntry t)
  if !t.getLsbD 63 || slice t 22 20 != 0 || slice t 3 0 != 0 || (e.id.die == 3 && decide (15 < e.id.slice))
      || slice t 19 4 != ticketCheck t (tkeyOf s s.me.ctx) then .error 0x43
  else if e.gen.toNat ≠ ticketGen t then .error 0x42
  else if e.st = .free ∨ e.ctx ≠ s.me.ctx ∨ e.size ≠ ticketSize t then .error 0x43
  else if e.st = .claimed ∨ e.st = .spent then .error 0x41
  else .ok e

/-- The tests of R219 for a redemption that takes the sizes that `fits` holds of. -/
def checkRedeem (s : State) (t : Word) (fits : Nat → Bool) : Except Nat Cloak :=
  match checkTicket s t with
  | .error c => .error c
  | .ok e => if fits e.size then .ok e else .error 0x45

/-- The TSTAT word (R225). POISON reads 0 for a ticket that names no entry of the runner (log entry 113). -/
def tstatWord (s : State) (t : Word) : Word :=
  let e := cloakAt s (ticketEntry t)
  let named := e.gen.toNat * 2 ^ 32 + e.size * 2 ^ 28 + if e.poison then 256 else 0
  match checkTicket s t with
  | .error c => BitVec.ofNat 64 (c + if c = 0x41 then named else 0)
  | .ok e =>
    let lease := match e.lease with
      | none => 0xFFFF
      | some n => min 0xFFFF ((n + 1023) / 1024)
    BitVec.ofNat 64 (lease * 2 ^ 48 + named + if e.st = .ready then 1 else 0)

/-! ## Delivery -/

/-- An entry becomes SPENT (R207): it keeps no data, and data still in flight keep its units. -/
def spendCloak (e : Cloak) (s : State) : State :=
  let t := putCloak { e with
    st := .spent, lease := none, performed := true, data := [], lines := [], take := none, late := e.flying
    spentAt := s.nextOp } s
  settleClk { t with nextOp := s.nextOp + 1, outb := s.outb.filter fun o => o.ask != .ticket e.id }

/-- A lead redemption of a runner ends: the status register, then the next instruction. -/
def endRedeem (who : RunnerId) (sq : Option Reg) (next : Word) (s : State) : State :=
  s.onRunner who fun r =>
    { r with
      s := match sq with | some q => sregSet r.s q 0 | none => r.s
      pc := next
      wait := .none }

/-- The agent that stores a redeemed ticket's bytes (R232). -/
def redeemAgent (s : State) (who : RunnerId) (lane : Bool) (op : Nat) : Agent :=
  ⟨who, ((s.runner? who).map Runner.die).getD 3, ((s.runner? who).map (·.part)).getD 0, lane, op,
    ((s.runner? who).map (·.grid)).getD 0, false⟩

/-- Bytes stored at a physical address by units where they go to device registers, which take aligned 8-byte stores alone
(R240, R482). -/
def acceptWide (g : Agent) (pa key : Nat) (comp : Bool) (bs : List Byte) (s : State) : State :=
  if poolOf pa = .device then
    (chunks 8 (bs.length / 8) bs).zipIdx.foldl (fun s p => acceptBytes g (pa + 8 * p.2) key comp p.1 s) s
  else acceptBytes g pa key comp bs s

/-- Bytes stored over pieces of (address, length, key slot, page compressed). -/
def storePieces (g : Agent) : List (Nat × Nat × Nat × Bool) → List Byte → State → State
  | [], _, s => s
  | (pa, n, key, comp) :: l, bs, s => storePieces g l (bs.drop n) (acceptWide g pa key comp (bs.take n) s)

/-- The bytes of a ticket go where its redemption takes them (R220 to R222, R232). -/
def deliverBytes (who : RunnerId) (d : Deliver) (bs : List Byte) (s : State) : State :=
  match d with
  | .reg d sq next =>
    endRedeem who sq next (s.onRunner who fun r => { r with s := sregSet r.s d (BitVec.ofNat 64 (leNat (bs.take 8))) })
  | .mem pieces sq next => endRedeem who sq next (storePieces (redeemAgent s who false 0) pieces bs s)
  | .land team off modes sq next =>
    endRedeem who sq next (onTeam team (fun t => { t with land := landWrite t.land modes off bs }) s)
  | .laneReg _ _ lane d =>
    s.onRunner who fun r => { r with l := r.l.putWords d lane ((wordsOf 4 (bs.length / 4) bs).map (BitVec.ofNat 32)) }
  | .laneLand _ _ _ team off modes => onTeam team (fun t => { t with land := landWrite t.land modes off bs }) s

/-- A delivery waits for the holder of the fallback lock (R288), or for ticketed loads of its bytes (R229). -/
def deliveryBlocked (s : State) (who : RunnerId) : Deliver → Bool
  | .mem pieces _ _ => pieces.any fun p => !storeReady s (redeemAgent s who false 0) p.1 p.2.1
  | _ => false

/-- A READY entry is delivered at once. -/
def deliverNow (e : Cloak) (d : Deliver) (s : State) : State := deliverBytes s.me.id d e.data (spendCloak e s)

/-- An entry that still waits for its data is claimed (R219, R220). -/
def claimCloak (e : Cloak) (d : Deliver) (s : State) : State := putCloak { e with st := .claimed, take := some (s.me.id, d) } s

/-- A lead redemption of an entry (R220): delivered at once when READY, a fatal cause where its data are poisoned, else
claimed, and the stream waits. `mark` marks the pages of its destination. Of poisoned data FAULTADDR holds the ticket (log
entry 109). -/
def redeemLead (e : Cloak) (t : Word) (d : Deliver) (mark : State → State) : Op Unit := do
  readyIf (!deliveryBlocked (← get) (← get).me.id d)
  if e.st = .ready then
    if e.poison then throw (.park fun s => leadTrap 0xA1 t s.issue.pc (spendCloak e (markDirty s)))
    else modify fun s => deliverNow e d (markDirty (mark s))
  else throw (.park fun s => { claimCloak e d (markDirty (mark s)) with me := { s.me with wait := .redeem } })

/-! ## Lead forms -/

/-- A refusal (R214, R224): its code in the status register of a quiet form, else a trap with the ticket. -/
def refuse (sq : Option Reg) (code : Nat) (t : Word) : Op Unit :=
  match sq with
  | some q => setReg q (BitVec.ofNat 64 code)
  | none => stopTrap code t

/-- A form of major 0x71 on the ticket in s[a] (R219). -/
def withTicket (a : Reg) (sq : Option Reg) (fits : Nat → Bool) (k : Word → Cloak → Op Unit) : Op Unit := do
  needCtx
  notInTx
  let t ← reg a
  match checkRedeem (← get) t fits with
  | .error c => refuse sq c t
  | .ok e => k t e

/-- A status register that reports success (R214). -/
def okStatus (sq : Option Reg) : Op Unit :=
  match sq with
  | some q => setReg q 0
  | none => pure ()

/-- TLOAD (R215, R216). -/
def tloadForm (d a : Reg) (x : BitVec 3) (z : BitVec 4) (code : Nat) (try_ : Bool) : State → Result := runLead do
  let o ← ordIn [0, 2, 4]
  needCtx
  notInTx
  let s ← get
  let n := 2 ^ (z.toNat + 3)
  let xb ← getXb x
  let (va, r) := viaXb s s.me xb (← reg a).toInt n Need.read
  match r with
  | .error c => stopTrap c va
  | .ok t => do
    need (va.toNat % n == 0) 0x24 va
    need (!rangeHit s s.me.part t.pa n false) 0x25 va
    before o.1 o.2
    markPageOf (← get).me t false
    match newTicket code z.toNat (o.2 == 4) t (← get) with
    | some p => do
      set p.2
      setReg d p.1
    | none => if try_ then setReg d 0 else stopTrap 0x44 va

/-- TLOAD (R215, R216). -/
def execTload (d a : Reg) (x : BitVec 3) (z : BitVec 4) : State → Result := tloadForm d a x z 0 false

/-- TLOAD with a lease code (R215, R216). -/
def execTloadLease (d a : Reg) (x : BitVec 3) (z : BitVec 4) (c : BitVec 16) : State → Result :=
  tloadForm d a x z c.toNat false

/-- TLOAD, try form (R215, R216). -/
def execTloadTry (d a : Reg) (x : BitVec 3) (z : BitVec 4) (c : BitVec 16) : State → Result :=
  tloadForm d a x z c.toNat true

/-- REDEEM (R221): size code 0 only. -/
def redeemForm (d a : Reg) (sq : Option Reg) : State → Result := runLead do
  withTicket a sq (· == 0) fun t e => do redeemLead e t (.reg d sq (← get).issue.next) id

/-- REDEEM (R221). -/
def execRedeem (d a : Reg) : State → Result := redeemForm d a none

/-- REDEEM, quiet (R214, R221). -/
def execRedeemQ (d a sq : Reg) : State → Result := redeemForm d a (some sq)

/-- REDEEML to memory (R221): the destination is checked as a store is, before the ticket. -/
def redeemlMem (d a : Reg) (x : BitVec 3) (sq : Option Reg) : State → Result := runLead do
  needCtx
  notInTx
  let s ← get
  let n := 2 ^ (ticketSize (← reg a) + 3)
  let o := (← reg d).toInt
  let xb ← getXb x
  let va := xb.base + BitVec.ofInt 64 o
  match xbPieces s s.me xb o n Need.write with
  | .error e => stopTrap e.1 e.2
  | .ok l => do
    need (!piecesLocked s s.me.part l true) 0x25 va
    need (o % (min n 64 : Nat) == 0) 0x24 va
    withTicket a sq (fun _ => true) fun t e => do
      readyIf (l.all fun p => markReady s s.me p.1 true)
      redeemLead e t (.mem (l.map fun p => (p.1.pa, p.2, p.1.key, p.1.comp)) sq s.issue.next)
        fun s => l.foldl (fun s p => markAccess s s.me p.1 true) s

/-- REDEEML to the team's landing (R221). -/
def redeemlLand (d a : Reg) (sq : Option Reg) : State → Result := runLead do
  needGroup
  needCtx
  notInTx
  let s ← get
  let n := 2 ^ (ticketSize (← reg a) + 3)
  match myTeam s with
  | none => stopTrap 0x2A (← reg d)
  | some team =>
    match landCheck s team (← reg d).toInt n (min n 64) true with
    | .error e => stopTrap e.1 e.2
    | .ok off =>
      withTicket a sq (fun _ => true) fun t e => do
        redeemLead e t (.land team.uid off team.modes sq s.issue.next) id

/-- REDEEML (R221). -/
def execRedeeml (d a : Reg) (x : BitVec 3) : State → Result := redeemlMem d a x none

/-- REDEEML, landing form (R221). -/
def execRedeemlLanding (d a : Reg) : State → Result := redeemlLand d a none

/-- REDEEML, quiet (R214, R221). -/
def execRedeemlQ (d a : Reg) (x : BitVec 3) (l : Bool) (sq : Reg) : State → Result :=
  if l then redeemlLand d a (some sq) else redeemlMem d a x (some sq)

/-- TDROP (R223). -/
def dropForm (a : Reg) (sq : Option Reg) : State → Result := runLead do
  withTicket a sq (fun _ => true) fun _ e => do
    modify fun s => spendCloak e (markDirty s)
    okStatus sq

/-- TDROP (R223). -/
def execTdrop (a : Reg) : State → Result := dropForm a none

/-- TDROP, quiet (R214, R223). -/
def execTdropQ (a sq : Reg) : State → Result := dropForm a (some sq)

/-- TSTAT (R225). -/
def execTstat (d a : Reg) : State → Result := runLead do
  needCtx
  let t ← reg a
  setReg d (tstatWord (← get) t)

/-- TLEASE (R226). -/
def leaseForm (d a b : Reg) (sq : Option Reg) : State → Result := runLead do
  withTicket a sq (fun _ => true) fun t e => do
    let code := min (← reg b).toNat 0xFFFF
    modify fun s => putCloak { e with lease := leaseOf code (tldefOf s s.me.ctx) } s
    setReg d (tstatWord (← get) t)
    okStatus sq

/-- TLEASE (R226). -/
def execTlease (d a b : Reg) : State → Result := leaseForm d a b none

/-- TLEASE, quiet (R214, R226). -/
def execTleaseQ (d a b sq : Reg) : State → Result := leaseForm d a b (some sq)

/-! ## Lane forms -/

/-- The fields of TLOADV (R217). -/
def tloadvRule (f : LaneF) : LRule where
  noType := true
  d := .pair
  a := .one
  c := .other
  fl := true
  acc := true
  x := 0xFFE0
  i16 := 0xFFFF
  also := [0, 2, 4].contains f.order && decide (f.c.toNat < 32) && decide (f.c.toNat % 16 < 10)
  tx := false

/-- Tickets for lanes in ascending order, none where a cloakroom is full (R218). -/
def laneTickets (size : Nat) (sc : Bool) : List (Nat × Tr) → State → List (Nat × Option Word) × State
  | [], s => ([], s)
  | (k, t) :: l, s =>
    match newTicket 0 size sc t (markAccess s s.me t false) with
    | some p => let q := laneTickets size sc l p.2; ((k, some p.1) :: q.1, q.2)
    | none => let q := laneTickets size sc l s; ((k, none) :: q.1, q.2)

/-- TLOADV (R217, R218): its flag is released as it issues, since its tickets are written. Bytes with an uncorrectable error
are the redemption's (R220). -/
def execTloadv : State → Result := runLane tloadvRule fun c => do
  let s ← get
  let size := c.f.c.toNat % 16
  let x := runXb s c.f.xbn
  let off (k : Nat) : Int := c.f.offset (sextN 32 (c.a k))
  let trs ← allLanes .kept ((lanesOf c.act).map fun k => (k, laneProbe s x (off k) (2 ^ (size + 3)) Need.read))
  before c.f.scope c.f.order
  let q ← get
  readyIf (trs.all fun p => markReady q q.me p.2 false)
  let (ts, s') := laneTickets size (c.f.order == 4) trs q
  let full := if c.f.c.getLsbD 4 then [] else ts.filter fun p => p.2.isNone
  if full.isEmpty then do
    set s'
    writeD c 64 fun k => ((((ts.find? fun p => p.1 == k).bind (·.2)).getD 0 : Word)).toNat
  else throw (.lanes (full.map fun p => (p.1, 0x44, x.base + BitVec.ofInt 64 (off p.1))) .again)

/-- The fields of the lane REDEEM (R222). -/
def laneRedeemRule (f : LaneF) : LRule where
  noType := true
  d := if f.c.getLsbD 0 then (if f.c.getLsbD 1 then .one else .none) else .pair
  a := .pair
  b := if f.c.getLsbD 0 then .one else .none
  c := .other
  fl := true
  acc := f.c.getLsbD 0
  cmp := !f.c.getLsbD 0
  i16 := if f.c.getLsbD 0 then 0xFFFF else 0
  also := decide (f.c.toNat < 4) && (f.c.getLsbD 0 || !f.c.getLsbD 1)
  tx := false

/-- Claims in lane order (R222): each lane's entry as it was, or its refusal. A lane that names an entry claimed by a
lower lane finds it claimed. -/
def laneClaims (fits : Nat → Bool) : List (Nat × Word) → State → List (Nat × Word × Except Nat Cloak)
  | [], _ => []
  | (k, t) :: l, s =>
    match checkRedeem s t fits with
    | .error c => (k, t, .error c) :: laneClaims fits l s
    | .ok e => (k, t, .ok e) :: laneClaims fits l (putCloak { e with st := .claimed } s)

/-- The entries that lanes claimed. -/
def claimedOf (cs : List (Nat × Word × Except Nat Cloak)) : List (Nat × Word × Cloak) :=
  cs.filterMap fun p => match p.2.2 with | .ok e => some (p.1, p.2.1, e) | .error _ => none

/-- The refusals of lanes. -/
def refusedOf (cs : List (Nat × Word × Except Nat Cloak)) : List (Nat × Nat × Word) :=
  cs.filterMap fun p => match p.2.2 with | .ok _ => none | .error c => some (p.1, c, p.2.1)

/-- Claimed entries delivered where READY, spent where poisoned, claimed where their data are still to come (R220). -/
def deliverLanes (dst : Nat → Deliver) (cs : List (Nat × Word × Cloak)) (s : State) : State :=
  cs.foldl (fun s p =>
    if p.2.2.st = .ready then (if p.2.2.poison then spendCloak p.2.2 s else deliverNow p.2.2 (dst p.1) s)
    else claimCloak p.2.2 (dst p.1) s) s

/-- Claims of lanes completed: the flag counts them until the last is delivered, and poisoned data are a fatal cause. -/
def redeemLanes (c : LaneCtx) (cs : List (Nat × Word × Cloak)) (dst : Nat → Nat → Deliver) : Op Unit := do
  let bad := cs.filter fun p => p.2.2.st == .ready && p.2.2.poison
  let s ← get
  let op := if c.flag.isSome then s.nextOp + 1 else 0
  if bad.isEmpty then do
    opIssued c false
    modify fun s => deliverLanes (dst op) cs (if cs.isEmpty then s else markDirty s)
  else
    throw (.park fun s =>
      laneTrap c.m0 c.slot (bad.map fun p => (p.1, 0xA1, p.2.1)) (deliverLanes (dst op) cs (markDirty s)))

/-- The lanes' tickets. -/
def laneTicketsOf (c : LaneCtx) : List (Nat × Word) := (lanesOf c.act).map fun k => (k, BitVec.ofNat 64 (c.a k))

/-- The lane REDEEM to registers (R222). -/
def execLaneRedeem : State → Result := runLane laneRedeemRule fun c => do
  let s ← get
  let quad := c.f.d.toNat % 4 == 0
  let cs := laneClaims (fun z => z == 0 || (z == 1 && quad)) (laneTicketsOf c) s
  if (refusedOf cs).isEmpty then do
    if (claimedOf cs).any fun p => p.2.2.size == 1 then do
      if s.me.l.count < c.f.d.toNat + 4 then throw (.frag 0x95 0)
      notPending [(c.f.d.toNat, 4)]
    redeemLanes c (claimedOf cs) fun op k => .laneReg s.me.inTrap op k c.f.d.toNat
  else throw (.lanes (refusedOf cs) .kept)

/-- The lane REDEEM to the landing (R222). -/
def execLaneRedeemL : State → Result := runLane laneRedeemRule fun c => do
  let s ← get
  match myTeam s with
  | none => throw (.frag 0x2A 0)
  | some team =>
    let ts := laneTicketsOf c
    let dest (k : Nat) (t : Word) : Except (Nat × Word) Nat :=
      let n := 2 ^ (ticketSize t + 3)
      landCheck s team (sextN 32 (c.b k) + c.f.off) n (min n 16) true
    let offs ← allLanes .kept (ts.map fun p => (p.1, dest p.1 p.2))
    let cs := laneClaims (fun _ => true) ts s
    if (refusedOf cs).isEmpty || c.f.c.getLsbD 1 then do
      if c.f.c.getLsbD 1 then
        writeD c 32 fun k => ((((refusedOf cs).find? fun p => p.1 == k).map (·.2.1)).getD 0 : Nat)
      redeemLanes c (claimedOf cs) fun op k =>
          .laneLand s.me.inTrap op k team.uid (((offs.find? fun p => p.1 == k).map (·.2)).getD 0) team.modes
    else throw (.lanes (refusedOf cs) .kept)

/-! ## Events -/

/-- The data of an entry have arrived (R207): READY where it was PENDING; data of an entry dropped or reclaimed are
discarded and give their units back. -/
def arriveCloak (e : Cloak) (s : State) : State :=
  if e.id.entry < 4096 then
    match e.st with
    | .pending =>
      let t := performTickets (fun x => x.id == e.id) s
      putCloak { cloakAt t e.id with st := .ready } t
    | .claimed => performTickets (fun x => x.id == e.id) s
    | _ => putCloak { e with late := none } s
  else { s with cloaks := s.cloaks.filter fun x => x.id != e.id }

/-- TICKET_DATA_ARRIVAL (R207, R228): a target outside has answered before (R482). -/
def execTicketDataArrival (e : EntryId) : State → Result := runEvent do
  let s ← get
  match s.cloaks.find? fun x => x.id == e with
  | some x => do
    readyIf (x.readable s)
    modify (arriveCloak x)
  | none => throw .wait

/-- The slot and the mask of a group's lane REDEEM that still waits for its data: it issued last, and the fragment's clause
stands behind it or has ended with it. -/
def Runner.redeemSlot (r : Runner) : Nat × Mask :=
  match r.l.run.cur with
  | some c => (c.slot - 1, ((r.l.run.frags.find? fun x => x.age == c.age).map (·.mask)).getD 0)
  | none =>
    match (sortBy (·.since) r.l.run.frags).getLast? with
    | some x => (x.pc - 1, x.mask)
    | none => (0, 0)

/-- A claimed entry's poisoned data trap in the redeemer (R220). -/
def redeemFault (x : Cloak) (who : RunnerId) (d : Deliver) (s : State) : State :=
  let t := ticketWord x.id x.gen x.size (tkeyOf s x.ctx)
  match d with
  | .laneReg _ _ k _ | .laneLand _ _ k _ _ _ =>
    asRunner who (fun s => laneTrap s.me.redeemSlot.2 s.me.redeemSlot.1 [(k, 0xA1, t)] s) (spendCloak x s)
  | _ => asRunner who (fun s => leadTrap 0xA1 t s.me.pc { s with me := { s.me with wait := .none } }) (spendCloak x s)

/-- REDEMPTION_DELIVERY (R220): the data of a claimed entry have arrived. -/
def execRedemptionDelivery (e : EntryId) : State → Result := runEvent do
  modify (performTickets fun x => x.id == e && x.st == .claimed)
  let s ← get
  match s.cloaks.find? fun x => x.id == e && x.st == .claimed with
  | none => throw .wait
  | some x =>
    match x.take with
    | none => throw .wait
    | some (who, d) => do
      readyIf x.performed
      readyIf (!deliveryBlocked s who d)
      if x.poison then modify (redeemFault x who d)
      else modify fun s => deliverBytes who d x.data (spendCloak x s)

/-- LEASE_EXPIRY (R211): a lease has run out. -/
def execLeaseExpiry (e : EntryId) : State → Result := runEvent do
  let s ← get
  readyIf (s.cloaks.any fun x => x.id == e && x.lease == some 0 && !leaseFrozen s x.ctx)
  modify (expireLease e)

/-- CLOAKROOM_RECONFIGURE (R205): the slice's pending value takes effect if its cloakroom holds no live entry, which it does
wherever an entry stops being live. -/
def execCloakroomReconfigure (die slice_ : Nat) : State → Result := runEvent do
  readyIf (cloakIdle (← get) die slice_)
  modify settleClk

/-- A write of CLKCFG for a slice (R205); a slice that no die has takes nothing. -/
def setClk (die slice_ v : Nat) (s : State) : State :=
  if die < 4 ∧ slice_ < slicesOf die then
    let c : ClkCfg := { clkSetting s die slice_ with pending := some (v % 4) }
    settleClk { s with clkcfg := c :: s.clkcfg.filter fun c => !(c.die == die && c.slice == slice_) }
  else s

/-- CLKCFG as it reads: the value last written. -/
def clkRead (s : State) (die slice_ : Nat) : Nat := (clkSetting s die slice_).pending.getD (clkSetting s die slice_).cur

/-- CLKCFG_WRITE (R205): the slice that SLSEL of the runner in focus selects. -/
def execClkcfgWrite (v : BitVec 2) (s : State) : Result :=
  .next (setClk (slice s.me.slsel 7 6) (slice s.me.slsel 5 0) v.toNat s)

end Sys2Proof.Machine
end

