-- ==== Sys2Proof/Machine/Tx.lean ====
section
/-! DEFINITION. Hardware transactions (spec/09_transactions.md R262 to R291): the lead and lane forms, the commit step,
transactional accesses of lanes, and the fallback lock. -/

namespace Sys2Proof.Machine

open Sys2Proof

/-! ## Committing -/

/-- The latest byte for each address of a write buffer, addresses rising. -/
def bufferedBytes (buf : List (Nat × Byte)) : List (Nat × Byte) :=
  sortBy (·.1) (buf.foldl (fun acc p => if acc.any fun q => q.1 == p.1 then acc else p :: acc) [])

/-- Consecutive bytes of one line put together. -/
def byteRuns : List (Nat × Byte) → List (Nat × List Byte)
  | [] => []
  | (a, b) :: l =>
    match byteRuns l with
    | (c, bs) :: r => if c = a + 1 ∧ c % 256 ≠ 0 then (a, b :: bs) :: r else (a, [b]) :: (c, bs) :: r
    | [] => [(a, [b])]

/-- The buffered bytes are written at their homes as one step (R279), after the runner's ticketed loads of them (R229): other
host transactions on the lines abort (R280). -/
def commitBytes (buf : List (Nat × Byte)) (keys : List (Nat × Nat × Bool)) (s : State) : State :=
  (byteRuns (bufferedBytes buf)).foldl (fun s p =>
    let key := ((keys.find? fun k => k.1 == p.1 / 256).map (·.2)).getD (0, false)
    let s := performTickets (fun e => e.who == s.me.id && meets e.src e.len p.1 p.2.length) s
    let s := touch (drainSectors s (some s.me.id) s.me.die p.1 p.2.length) (some s.me.id) false true p.1 p.2.length
    countRange (homeWrite s key.1 key.2 p.1 p.2) p.1 p.2.length) s

/-- The runner's ticketed loads of lines that a commit writes can be read, as they are before it (R229), and what the die writes
back of their sectors need not wait for the holder of the fallback lock (R288). -/
def commitReady (s : State) (buf : List (Nat × Byte)) : Bool :=
  (ticketsReadable s fun e => e.who == s.me.id && buf.any fun p => decide (e.src ≤ p.1 ∧ p.1 < e.src + e.len))
    && (byteRuns (bufferedBytes buf)).all fun p => !sectorsLocked s (some s.me.id) s.me.die p.1 p.2.length

/-- A transaction's buffered writes meet lines of the holder of the fallback lock (R288). -/
def meetsHolder (s : State) (buf : List (Nat × Byte)) : Bool :=
  s.wicket.holder.isSome && s.wicket.holder != some s.me.id && (logLines buf).any fun l => (lockedLines s).contains l

/-- A lead commit (R281, R282): the bytes, the commit number, the status word of R264; a group's, as a transaction of one
lane (R277), clears CLEAN (R467). -/
def commitLead (s : State) : State :=
  let t := s.me.tx
  let s := markDirty (commitBytes t.wbuf t.keys s)
  { s with
    me := { s.me with tx := Tx.none, lastTx := statusWord 0 0 t.aborts t.fb, lastCommit := s.wicket.next }
    wicket := { s.wicket.release s.me.id with next := s.wicket.next + 1 } }

/-! ## The lead forms (R266 to R268) -/

/-- A first attempt of the runner takes the lock (R287: LIMIT = 0). -/
def Runner.lockFirst (r : Runner) : Bool := r.limit == 0 && !r.fboff

/-- The runner holds the lock, or takes it now; otherwise it stands in the queue and the instruction waits. -/
def needLock : Op Unit := do
  let s ← get
  if (s.wicket.take s.me.id s.clocks.fabric).holder = some s.me.id then
    modify fun s => { s with wicket := s.wicket.take s.me.id s.clocks.fabric }
  else throw (.park fun s => { s with wicket := s.wicket.take s.me.id s.clocks.fabric })

/-- TXBEG (R262, R267). -/
def execTxbeg (d : Reg) : State → Result := runLead do
  if (← get).me.tx.active then throw (.abort 0x51 0)
  let s ← get
  readyIf (s.me.isHost || !s.me.l.tx.any LaneTx.inTx)
  before 5 3
  if s.me.lockFirst then needLock
  setReg d 0
  let next := s.issue.next
  onMe fun r =>
    { r with tx := { Tx.none with active := true, d := d, resume := next, fb := r.lockFirst, snapS := r.s, snapXb := r.xb } }

/-- The commit of the runner in focus fails: a group's commit step has taken its number all the same (R277, R282, R289). -/
def commitFails (s : State) : State :=
  abortConflict (if s.me.isHost then s else { s with wicket := { s.wicket with next := s.wicket.next + 1 } })

/-- TXEND (R267, R281, R282). -/
def execTxend : State → Result := runLead do
  let s ← get
  need s.me.tx.active 0x58 0
  if !leadValid s || meetsHolder s s.me.tx.wbuf then throw (.park commitFails)
  readyIf (commitReady s s.me.tx.wbuf)
  modify commitLead

/-- TXABT (R267). -/
def execTxabt (a : Reg) : State → Result := runLead do
  need (← get).me.tx.active 0x58 0
  throw (.abort 0x55 (slice (← reg a) 7 0))

/-- The word of selector 0 (R268). -/
def txWord (act fbh : Bool) (aborts : Nat) (last : W32) : Word :=
  BitVec.ofNat 64
    ((if act then 2 ^ 63 else 0) + (if act && fbh then 2 ^ 62 else 0)
      + (if act then min aborts 255 * 2 ^ 32 else 0) + last.toNat)

/-- TXSTAT (R268). -/
def execTxstat (d : Reg) (sel : Bool) : State → Result := runLead do
  let r ← getMe
  setReg d (if sel then BitVec.ofNat 64 r.lastCommit else txWord r.tx.active r.tx.fb r.tx.aborts r.lastTx)

/-! ## Transactional accesses of lanes (R275, R276, R285) -/

/-- How a lane's transactional access ends its attempt: for good with a code, with a cause and its address, or by a
conflict. -/
inductive LaneEnd where
  | final (code : Nat)
  | fault (cause : Nat) (addr : Word)
  | conflict
deriving DecidableEq, Repr

/-- Lines of a set counted over the lead stream and all lanes of a group. -/
def groupReads (r : Runner) : List (Nat × Byte) := r.tx.rlog ++ (r.l.tx.toList.map (·.rlog)).flatten
def groupWrites (r : Runner) : List (Nat × Byte) := r.tx.wbuf ++ (r.l.tx.toList.map (·.wbuf)).flatten

/-- The virtual address of a translated place. -/
def Tr.addr (t : Tr) : Word := (BitVec.ofNat 48 (t.va + t.pa % pageBytes t.size)).signExtend 64

/-- The place and the capacity of a lane's access to lines (R263, R285). Memory alone is reached: an address of the package
that is none ends the attempt as a forbidden instruction does (log entry 114). -/
def laneTxBar (s : State) (t : Tr) (lines : List Nat) (write : Bool) : Option LaneEnd :=
  if packageOf t.pa ≠ s.pkg.toNat then some (.fault 0x27 t.addr)
  else if !(poolOf t.pa).isMemory then some (.final 0x52)
  else if (if write then 32 else 64) < (linesWith (if write then groupWrites s.me else groupReads s.me) lines).length then
    some (.final 0x54)
  else none

/-- A lane's transaction record changed. -/
def onLaneTx (k : Nat) (f : LaneTx → LaneTx) (s : State) : State :=
  { s with me := { s.me with l := { s.me.l with tx := vset s.me.l.tx k (f (vget s.me.l.tx k)) } } }

/-- A transactional read of lane k (R275): only bytes that its own buffer does not hold are read and logged (R282, R285),
and a line that the holder of the fallback lock has written ends the attempt (R288). -/
def laneTxRead (k : Nat) (t : Tr) (z : Nat) (s : State) : Except LaneEnd (List Byte × State) :=
  let buf := (vget s.me.l.tx k).wbuf
  let fresh := freshLines buf t.pa z
  match laneTxBar s t fresh false with
  | some e => .error e
  | none =>
    if fresh.isEmpty then
      .ok ((List.range z).map fun i => (bufByte buf (t.pa + i)).getD 0, markAccess s s.me t false)
    else if fresh.any fun l => (holderWrote s s.me.id).contains l then .error .conflict
    else
    let key := (keyId s t.key).getD 0
    let s1 := countRange
      (touch (drainSectors (markAccess s s.me t false) (some s.me.id) s.me.die t.pa z) (some s.me.id) false false t.pa z) t.pa z
    let mem := (List.range z).map fun i => (t.pa + i, homeByte s1 key (t.pa + i))
    let log (x : LaneTx) : LaneTx :=
      { x with
        rlog := x.rlog ++ mem.filter fun p => (bufByte buf p.1).isNone
        keys := noteKeys x.keys fresh key t.comp }
    .ok (mem.map fun p => (bufByte buf p.1).getD p.2, onLaneTx k log s1)

/-- What lane k's transactional access waits for: its page's marks, and for a read what its die writes back (R188, R249, R288). -/
def laneTxReady (k : Nat) (t : Tr) (z : Nat) (write : Bool) (s : State) : Bool :=
  markReady s s.me t write
    && (write || (freshLines (vget s.me.l.tx k).wbuf t.pa z).isEmpty || !sectorsLocked s (some s.me.id) s.me.die t.pa z)

/-- Another lane's current attempt has written one of the bytes (R276). -/
def otherWrote (s : State) (k a n : Nat) : Bool :=
  (List.range 32).any fun j =>
    j != k && (vget s.me.l.tx j).st == .running && (vget s.me.l.tx j).wbuf.any fun p => decide (a ≤ p.1 ∧ p.1 < a + n)

/-- A transactional write of lane k (R275, R276). -/
def laneTxWrite (k : Nat) (t : Tr) (bs : List Byte) (s : State) : Except LaneEnd State :=
  match laneTxBar s t (linesOf t.pa bs.length) true with
  | some e => .error e
  | none =>
    if otherWrote s k t.pa bs.length then .error .conflict
    else
      let new := (bs.zipIdx.map fun (b, i) => (t.pa + i, b)).reverse
      let log (x : LaneTx) : LaneTx :=
        { x with wbuf := new ++ x.wbuf, keys := noteKeys x.keys (linesOf t.pa bs.length) ((keyId s t.key).getD 0) t.comp }
      .ok (onLaneTx k log (markAccess s s.me t true))

/-- A conflict ends lane k's attempt at once (R274, R287): its registers come back. True where it is to begin again. -/
def conflictLane (k : Nat) (s : State) : State × Bool :=
  if laneConflictFinal s.me k then ({ s with me := { s.me with l := s.me.l.endLane 0x53 0 k } }, false)
  else ({ s with me := { s.me with l := s.me.l.retryLane true k } }, true)

/-- Lane k's attempt ends at once, in the middle of an instruction, so that the lanes after it meet nothing of it (R276, R285);
a cause is validated early (R284, R286). True where it is to begin again. -/
def endAttempt (k : Nat) (e : LaneEnd) (s : State) : State × Bool :=
  match e with
  | .conflict => conflictLane k s
  | .final c => ({ s with me := { s.me with l := s.me.l.endLane c 0 k } }, false)
  | .fault c a =>
    if laneValid s k then
      let l := { s.me.l with vfault := vset s.me.l.vfault k a }
      ({ s with me := { s.me with l := if c = 0x27 then l.endLane 0x27 0 k else l.endLane 0x56 c k } }, false)
    else conflictLane k s

/-- The lanes whose attempts an instruction ended leave their fragment (R272, R273): true for those that begin again. -/
def leaveLanes (age : Nat) (ends : List (Nat × Bool)) (s : State) : State :=
  if ends.isEmpty then s
  else
    let which (b : Bool) : List Nat := (ends.filter fun p => p.2 == b).map (·.1)
    laneLockDone { s with me := { s.me with l := s.me.l.leave age (which false) (which true) } }

/-! ## The lane forms (R269 to R274) -/

/-- The fields of the lane TXBEG (R269). -/
def laneTxbegRule (f : LaneF) : LRule where
  noType := true
  a := .other
  b := .other
  m := false
  x := 0x3F
  i16 := 0xFFFF
  also := !f.ib && decide (f.b.toNat ≤ 16 ∧ f.a.toNat + f.b.toNat ≤ 256) && (f.b != 0 || f.a == 0)
  top := if f.b = 0 then 0 else f.a.toNat + f.b.toNat

/-- A lane begins an attempt at a header's slot (R271): a restarted one keeps its record and its count. -/
def beginLane (c : LaneCtx) (locked : List Nat) (k : Nat) (l : Lanes) : Lanes :=
  let t := vget l.tx k
  let again := t.st == .await
  let f := c.f.a.toNat
  let n := c.f.b.toNat
  let t' : LaneTx :=
    { (if again then t
       else { t with
         restart := c.cl.hdr, cont := c.f.imm.toNat % 2 ^ 22, d := c.f.d.toNat, f := f, n := n, expect := c.act
         aborts := 0 }) with
      st := .running
      fb := locked.contains k
      snap := (List.range n).map fun i => l.word (f + i) k
      snapM := BitVec.ofNat 16 (((List.range 16).map fun j => if (vget l.m j).getLsbD k then 2 ^ j else 0).foldl (· + ·) 0)
      rlog := []
      wbuf := []
      keys := []
      doomed := false
      ran := 0 }
  { l with tx := vset l.tx k t' }

/-- A lane of the fragment that a TXBEG at header h finds inside a transaction of its own (R271). -/
def nestedLane (l : Lanes) (h k : Nat) : Bool :=
  let t := vget l.tx k
  t.st == .running || (t.st == .await && t.restart != h)

/-- A lane's attempt needs the fallback lock (R271, R287). -/
def laneNeedsLock (r : Runner) (k : Nat) : Bool :=
  let t := vget r.l.tx k
  !r.fboff && decide (r.limit ≤ if t.st = .await then t.aborts else 0)

/-- The lane TXBEG (R262, R270, R271). -/
def execLaneTxbeg : State → Result := runLane laneTxbegRule fun c => do
  let s ← get
  if s.me.inTrap then throw (.frag 0xB5 0)
  if c.cl.pos ≠ 0 then throw (.frag 0x06 (slotAddr s c.slot))
  readyIf (!s.me.tx.active)
  let nested := (lanesOf c.act).filter (nestedLane s.me.l c.cl.hdr)
  let others := (lanesOf c.act).filter fun k => !nestedLane s.me.l c.cl.hdr k
  let locked := others.filter (laneNeedsLock s.me)
  if !others.isEmpty then before 5 3
  if !locked.isEmpty then needLock
  modify (laneAborts c.age (nested.map fun k => (k, 0x51, 0)) [])
  onLanes fun l => others.foldl (fun l k => beginLane c locked k l) l

/-- Lanes of active(M) that have no attempt running trap TX_NOT_ACTIVE (R265). -/
def lanesInTx (c : LaneCtx) : Op Unit := do
  let s ← get
  let out := (lanesOf c.act).filter fun k => (vget s.me.l.tx k).st != .running
  if out.isEmpty then pure () else throw (.lanes (out.map fun k => (k, 0x58, 0)) .stay)

/-- The clause of the executing fragment ends (R270). -/
def endMyClause (c : LaneCtx) : Op Unit := onLanes fun l => l.endClause c.age c.after

/-- One lane of a commit step (R282): committed under the step's number, or left for its conflict. -/
def commitLane (n : Nat) (k : Nat) (s : State) : Option State :=
  let t := vget s.me.l.tx k
  if !logValid s t.rlog t.keys (t.doomed && !t.fb) || meetsHolder s t.wbuf then none
  else
    let word := statusWord 0 0 t.aborts t.fb
    let s := commitBytes t.wbuf t.keys s
    let t' : LaneTx :=
      { t with
        st := .held, rlog := [], wbuf := [], keys := [], doomed := false, fb := false, status := word, last := word
        lastCommit := n }
    some { s with me := { s.me with l := { (s.me.l.putWord t.d k word) with tx := vset s.me.l.tx k t' } } }

/-- A commit step over lanes in ascending order: the state, the lanes that committed and those that did not (R282). -/
def commitLanes (n : Nat) : List Nat → State → State × List Nat × List Nat
  | [], s => (s, [], [])
  | k :: ks, s =>
    match commitLane n k s with
    | some t => let r := commitLanes n ks t; (r.1, k :: r.2.1, r.2.2)
    | none => let r := commitLanes n ks s; (r.1, r.2.1, k :: r.2.2)

/-- The commit step of a fragment (R272, R282). -/
def commitStep (age : Nat) (act : Mask) (s : State) : State :=
  let n := s.wicket.next
  let (s, done, failed) := commitLanes n (lanesOf act) { s with wicket := { s.wicket with next := n + 1 } }
  let spent := failed.filter fun k => laneConflictFinal s.me k
  let back := failed.filter fun k => !laneConflictFinal s.me k
  let l := spent.foldl (fun l k => l.endLane 0x53 0 k) s.me.l
  let l := back.foldl (fun l k => l.retryLane true k) l
  let t := laneLockDone { s with me := { s.me with l := l.leave age (done ++ spent) back } }
  if done.isEmpty then t else markDirty t

/-- The lane TXEND (R272). -/
def execLaneTxend : State → Result :=
  runLane (fun _ => { noType := true, d := .none, m := false }) fun c => do
    lanesInTx c
    let s ← get
    readyIf ((lanesOf c.act).all fun k => meetsHolder s (vget s.me.l.tx k).wbuf || commitReady s (vget s.me.l.tx k).wbuf)
    endMyClause c
    modify (commitStep c.age c.act)

/-- The lane TXABT (R273). -/
def execLaneTxabt : State → Result :=
  runLane (fun _ => { noType := true, d := .none, i16 := 0xFF }) fun c => do
    lanesInTx c
    endMyClause c
    modify (laneAborts c.age ((lanesOf c.act).map fun k => (k, 0x55, c.f.imm.toNat % 256)) [])

/-- The lane TXSTAT (R274). -/
def execLaneTxstat : State → Result :=
  runLane (fun _ => { noType := true, d := .pair, x := 0x8000 }) fun c => do
    let s ← get
    writeD c 64 fun k =>
      let t := vget s.me.l.tx k
      if c.f.imm.getLsbD 31 then t.lastCommit else (txWord t.inTx (t.st == .running && t.fb) t.aborts t.last).toNat

/-! ## Events -/

/-- The fragment of the group's own runs that holds a lane: a handler's have no attempts (R434). -/
def fragOf (l : Lanes) (k : Nat) : Option Frag := l.own.frags.find? fun x => x.mask.getLsbD k

/-- An early validation of lane k, or of the lead stream for k beyond the lanes, of the group in focus (R284). -/
def earlyValidate (k : Nat) (s : State) : State :=
  if 32 ≤ k then (if s.me.tx.active && !leadValid s then abortConflict s else s)
  else if (vget s.me.l.tx k).st = .running && !laneValid s k then
    (match fragOf s.me.l k with
     | some x => laneAborts x.age [] [k] s
     | none => s)
  else s

/-- The clocks that an attempt of the group in focus has run since it was last validated: lane k's, or the lead stream's for
k beyond the lanes. -/
def attemptRan (s : State) (k : Nat) : Nat :=
  if 32 ≤ k then (if s.me.tx.active && !s.me.isHost then s.me.tx.ran else 0)
  else if (vget s.me.l.tx k).st = .running then (vget s.me.l.tx k).ran
  else 0

/-- The clocks of an attempt count anew from its validation. -/
def restartRan (k : Nat) (s : State) : State :=
  if 32 ≤ k then { s with me := { s.me with tx := { s.me.tx with ran := s.me.tx.ran - 65536 } } }
  else { s with me := { s.me with l := { s.me.l with tx := vset s.me.l.tx k { vget s.me.l.tx k with ran := (vget s.me.l.tx k).ran - 65536 } } } }

/-- An attempt of the group in focus is due for its validation (R284): after every 65 536 core clocks that it has run. -/
def validationDue (s : State) : Option Nat :=
  if s.me.inTx then (List.range 33).find? fun k => decide (65536 ≤ attemptRan s k) else none

/-- The validation that is due. -/
def validateNow (k : Nat) (s : State) : State := earlyValidate k (restartRan k s)

/-- TX_EARLY_VALIDATION (R284). -/
def execTxEarlyValidation (who : RunnerId) (lane : Nat) (s : State) : Result :=
  .next (asRunner who (fun s => if 65536 ≤ attemptRan s lane then validateNow lane s else s) s)

/-- The lock goes to the first runner in the queue (R288). -/
def grantLock (s : State) : State :=
  match s.wicket.holder, s.wicket.queue with
  | none, who :: rest =>
    let s := { s with wicket := { s.wicket with holder := some who, queue := rest, since := s.clocks.fabric } }
    s.onRunner who fun r => { r with tx := { r.tx with fb := r.tx.active || r.tx.fb } }
  | _, _ => s

/-- FALLBACK_LOCK_GRANT (R288). -/
def execFallbackLockGrant (s : State) : Result := .next (grantLock s)

/-- The attempts of the runner in focus that hold the lock end with a final TX_CONFLICT (R288). -/
def revokeAttempts (s : State) : State :=
  if s.me.tx.active then abortFinal 0x53 0 s
  else
    let ks := (List.range 32).filter fun k => (vget s.me.l.tx k).st == .running && (vget s.me.l.tx k).fb
    let s := ks.foldl (fun s k => match fragOf s.me.l k with | some x => laneAborts x.age [(k, 0x53, 0)] [] s | none => s) s
    { s with wicket := s.wicket.release s.me.id }

/-- FALLBACK_LOCK_REVOKE (R288): after 2^20 fabric clocks. -/
def execFallbackLockRevoke : State → Result := runEvent do
  let s ← get
  match s.wicket.holder with
  | none => throw .wait
  | some who => do
    readyIf (decide (s.wicket.since + 2 ^ 20 ≤ s.clocks.fabric))
    modify (asRunner who revokeAttempts)

end Sys2Proof.Machine
end

