-- ==== Sys2Proof/Machine/Copies.lean ====
section
/-! DEFINITION. Copy instructions, porters and batches (spec/10_porters.md R292 to R314; spec/08_ordering.md R245, R246,
R258). -/

namespace Sys2Proof.Machine

open Sys2Proof

/-! ## What an issue goes through -/

/-- How a copy or usher form reaches its operands (R295, R296): from the lanes or the lead stream, through a translation
register or by address, at a scope and an order. -/
structure Copier where
  lane : Bool
  xb : Option Xb
  scope : Nat
  order : Nat

/-- The stream of the runner in focus that issues. -/
def Copier.agent (c : Copier) (s : State) : Agent := if c.lane then laneAgent s 0 else leadAgent s

/-- A part of a memory operand within one page: its address, its translation and its bytes. -/
structure Portion where
  va : Word
  t : Tr
  n : Nat
deriving DecidableEq, Repr

/-- An address operand of n bytes (R295, R298): an offset from the register's base, within LIMIT. -/
def Copier.operand (c : Copier) (v : Word) (n : Nat) : Op Word :=
  match c.xb with
  | none => pure v
  | some x => do
    need (x.v && decide (0 ≤ v.toInt ∧ v.toInt + n ≤ x.limit.toNat)) 0x26 (x.base + v)
    return x.base + v

/-- Pages of a range, ascending, none of which is to be `barred` (R298). -/
def splitPortions (s : State) (r : Runner) (barred : Tr → Bool) : Nat → Word → Nat → Except (Nat × Word) (List Portion)
  | 0, _, _ => .ok []
  | fuel + 1, a, n =>
    if n = 0 then .ok []
    else
      match translate s r a with
      | .error c => .error (c, a)
      | .ok t =>
        if barred t then .error (0x23, a)
        else
          let k := min n (pageBytes t.size - a.toNat % pageBytes t.size)
          match splitPortions s r barred fuel (a + BitVec.ofNat 64 k) (n - k) with
          | .ok l => .ok (⟨a, t, k⟩ :: l)
          | .error e => .error e

/-- The portions of n bytes at an address, through the frame of the translation register where it holds them (R114). -/
def Copier.places (c : Copier) (s : State) (a : Word) (n : Nat) (barred : Tr → Bool) : Except (Nat × Word) (List Portion) :=
  let whole := c.xb.any fun x => x.v && decide ((a - x.base).toNat + n ≤ x.span.toNat)
  match c.xb, whole with
  | some x, true =>
    let t := x.tr (a - x.base).toNat
    if barred t then .error (0x23, a) else .ok (if n = 0 then [] else [⟨a, t, n⟩])
  | _, _ => splitPortions s s.me barred (n / 4096 + 2) a n

/-- The portions of an operand, page by page with their permission (R298). -/
def Copier.portions (c : Copier) (s : State) (a : Word) (n : Nat) (nd : Need) : Except (Nat × Word) (List Portion) :=
  c.places s a n fun t => permFault s.me.sup t nd

/-- A value or the cause with its address. -/
def orTrap : Except (Nat × Word) α → Op α
  | .ok x => pure x
  | .error e => stopTrap e.1 e.2

/-- A value or the cause at an address. -/
def orTrapAt (a : Word) : Except (Nat × Word) α → Op α
  | .ok x => pure x
  | .error e => stopTrap e.1 a

/-- One of the rlx loads, of z bytes, that the issuer makes at issue (R298, R300, R303): its causes in the order of R107 and
R423. -/
def Copier.loadOne (c : Copier) (a : Word) (z : Nat) : Op (List Byte) := do
  let s ← get
  let ps ← orTrapAt a (c.places s a z fun _ => false)
  need (!ps.any fun p => keyFault s p.t) 0x28 a
  need (!ps.any fun p => permFault s.me.sup p.t Need.read) 0x23 a
  need (!ps.any fun p => rangeHit s s.me.part p.t.pa p.n false) 0x25 a
  need (a.toNat % z == 0) 0x24 a
  need (!ps.any fun p => poisoned s p.t.pa p.n || (s.me.wait == .timedOut && answeredOutside s p.t.pa)) 0xA1 a
  readPieces (c.agent s) (ps.map fun p => (p.t, p.n))

/-- Consecutive loads of z bytes each. -/
def Copier.loads (c : Copier) (z : Nat) : Nat → Word → Op (List Byte)
  | 0, _ => return []
  | n + 1, a => return (← c.loadOne a z) ++ (← c.loads z n (a + BitVec.ofNat 64 z))

/-- The n bytes of a record or list that the issuer reads, entries of z bytes one by one. -/
def Copier.load (c : Copier) (a : Word) (n z : Nat) : Op (List Byte) := c.loads z (n / z) a

/-- The answers that the reads of an issue took from beyond the package are spent when it completes. -/
def Copier.spend (c : Copier) : Op Unit := do spendAnswers (c.agent (← get))

/-- A scratch operand of n bytes (R298, R177, R181): the team whose landing it reaches and the offset there. Kind 1 is
the landing, 2 the mezzanine. -/
def scratchSide (kind : Nat) (a : Word) (n : Nat) : Op (Team × Nat) := do
  let s ← get
  let place : Option (Team × Nat) :=
    if kind = 1 then (myTeam s).map fun t => (t, a.toNat)
    else if a.toNat < 2 ^ 22 then (mezzTeam s (a.toNat / 2 ^ 19)).map fun t => (t, a.toNat % 2 ^ 19)
    else none
  match place with
  | none => stopTrap 0x2A a
  | some (t, o) => do
    need (decide (o + n ≤ t.len)) 0x2A a
    return (t, o)

/-! ## Ranges and registration (R258, R299) -/

/-- The memory ranges of an operand: for each page the smallest run of whole sectors over its bytes, with the address of
the first byte that needed it. -/
def pageRanges (ps : List Portion) : List (Word × Nat × Nat) :=
  (ps.foldl (fun (acc : List (Nat × Word × Nat × Nat)) p =>
    let lo := p.t.pa / 64 * 64
    let hi := (p.t.pa + p.n + 63) / 64 * 64
    if acc.any fun g => g.1 == p.t.va then
      mapIf (fun g => g.1 == p.t.va) (fun g => (g.1, g.2.1, min g.2.2.1 lo, max g.2.2.2 hi)) acc
    else acc ++ [(p.t.va, p.va, lo, hi)]) []).map (·.2)

/-- What an operation registers, marks and does: the portions it writes and reads, its memory ranges with the address of
the first byte of each and whether it is written, its landing ranges, its work. -/
structure Plan where
  dst : List Portion
  src : List Portion
  ranges : List (Word × Nat × Nat × Bool)
  land : List (Nat × Nat × Nat × Bool)
  kind : EKind

/-- The memory ranges of operands, destinations first (R299). -/
def sideRanges (dst src : List Portion) : List (Word × Nat × Nat × Bool) :=
  ((pageRanges dst).map fun g => (g.1, g.2.1, g.2.2, true)) ++ (pageRanges src).map fun g => (g.1, g.2.1, g.2.2, false)

/-- The landing range of n bytes at an offset. -/
def landRange (t : Team) (o n : Nat) (dst : Bool) : Nat × Nat × Nat × Bool := (t.uid, o / 64 * 64, (o + n + 63) / 64 * 64, dst)

/-- Landing entries in use at a core. -/
def landEntries (s : State) (core : Nat) : Nat :=
  (s.lranges.filter fun g => (team? s g.team).any fun t => t.core == core).length

/-- The table of the partition and of each landing has room (R258). -/
def rangesReady (s : State) (p : Plan) : Bool :=
  let held := ((s.parts.find? fun q => q.no == s.me.part).map fun q => q.ranges.length).getD 0
  let cores := ((p.land.filterMap fun g => (team? s g.1).map (·.core)))
  decide (held + p.ranges.length ≤ 1024)
    && cores.all fun c => decide (landEntries s c + (cores.filter (· == c)).length ≤ 16)

/-- Operations that a porter holds (R292). -/
def porterLoad (s : State) (k : Nat) : Nat := (s.ops.filter fun o => o.porter == some k).length

/-- The porters that serve a runner (R292). -/
def portersOf (r : Runner) : List Nat :=
  if r.isHost then (List.range 8).map (· + 24) else (List.range 4).map (· + r.core / 64 * 4)

/-- The porter with the fewest operations, the lowest on a tie (R292). -/
def pickPorter (s : State) : Nat :=
  (portersOf s.me).foldl (fun b k => if porterLoad s k < porterLoad s b then k else b) ((portersOf s.me).headD 0)

/-- The accesses that a plan's pages are marked for (R188). -/
def markPlan (p : Plan) (s : State) : State :=
  let s := p.src.foldl (fun s q => markAccess s s.me q.t false) s
  p.dst.foldl (fun s q => markAccess s s.me q.t true) s

/-- A plan's ranges are registered under an operation number. -/
def registerPlan (p : Plan) (op : Nat) (s : State) : State :=
  { s with
    parts := mapIf (fun q => q.no == s.me.part)
      (fun q => { q with ranges := q.ranges ++ p.ranges.map fun g => ⟨g.2.1, g.2.2.1, g.2.2.2, op⟩ }) s.parts
    lranges := s.lranges ++ p.land.map fun g => ⟨g.1, g.2.1, g.2.2.1, g.2.2.2, op⟩ }

/-- The open set takes one operation more; the team's interval is no longer clean. -/
def joinOpen (s : State) : State :=
  let s := markDirty s
  { s with nextOp := s.nextOp + 1, me := { s.me with openOps := s.me.openOps ++ [s.nextOp + 1] } }

/-- An operation is queued at a porter, or at an usher, under the next number (R292, R384). -/
def queueOp (porter : Option Nat) (usher : Nat) (p : Plan) (s : State) : State :=
  let op := s.nextOp + 1
  let o : EngOp :=
    { no := op, who := s.me.id, grid := s.me.grid, team := s.me.team, ctx := s.me.ctx, part := s.me.part, porter := porter, usher := usher, die := s.me.die,
      started := porter.isNone, hit := none, kind := p.kind }
  let t := joinOpen (registerPlan p op (markPlan p s))
  { t with ops := t.ops ++ [o] }

/-- The pages of a plan can be marked: no leaf waits for the holder of the fallback lock (R188, R288). -/
def planReady (s : State) (p : Plan) : Bool :=
  (p.src.all fun q => markReady s s.me q.t false) && p.dst.all fun q => markReady s s.me q.t true

/-- A plan can issue: table entries are free (R258), its pages can be marked, and the engines of the partition have not
stopped (R446). -/
def canIssue (s : State) (p : Plan) : Bool := rangesReady s p && planReady s p && !halted s s.me.part

/-- The last steps of R298: no more than 64 ranges, no overlap, table and queue ready, then all at once. -/
def issuePlan (p : Plan) (clash : Option Word) : Op Unit := do
  match (p.ranges[64]?.map (·.1)).or clash with
  | some a => stopTrap 0x73 a
  | none => pure ()
  let s ← get
  readyIf (canIssue s p)
  let k := pickPorter s
  readyIf (porterLoad s k < 32)
  modify (queueOp (some k) 0 p)

/-- The first line of R298, the wait of its second, and what bars a copy. -/
def openCopy (c : Copier) : Op Unit := do
  let s ← get
  need (s.me.openOps.length < 64) 0x72 0
  before c.scope c.order

/-! ## Moves -/

/-- A place n bytes on. -/
def Loc.plus : Loc → Nat → Loc
  | .mem pa key comp, n => .mem (pa + n) key comp
  | .land t o m, n => .land t (o + n) m

/-- A source n bytes on; a pattern repeats every 8 bytes, and its pieces start at multiples of 8. -/
def Src.plus : Src → Nat → Src
  | .loc l, n => .loc (l.plus n)
  | .got bs, n => .got (bs.drop n)
  | x, _ => x

/-- The runs in which two lists of runs meet, walked side by side. -/
def zipRuns (f : α → Nat → α) (g : β → Nat → β) : Nat → List (α × Nat) → List (β × Nat) → List (α × β × Nat)
  | fuel + 1, (x, m) :: xs, (y, n) :: ys =>
    let k := min m n
    (x, y, k) ::
      zipRuns f g fuel (if k < m then (f x k, m - k) :: xs else xs) (if k < n then (g y k, n - k) :: ys else ys)
  | _, _, _ => []

/-- The places of portions. -/
def memLocs (s : State) (ps : List Portion) : List (Loc × Nat) :=
  ps.map fun p => (.mem p.t.pa ((keyId s p.t.key).getD 0) p.t.comp, p.n)

/-- Moves from sources to destinations of one length. -/
def movesOf (dst : List (Loc × Nat)) (src : List (Src × Nat)) : List Move :=
  (zipRuns Loc.plus Src.plus (dst.length + src.length + 1) dst src).map fun m => ⟨m.1, m.2.1, m.2.2⟩

/-- The sources of places. -/
def srcsOf (l : List (Loc × Nat)) : List (Src × Nat) := l.map fun p => (.loc p.1, p.2)

/-! ## CPYL and CPYF -/

/-- One side of a copy as found at issue: a scratch place or portions of memory. -/
structure Found where
  mem : List Portion
  locs : List (Loc × Nat)
  land : Option (Team × Nat)

/-- A scratch side; memory is left for later. -/
def findScratch (kind : Nat) (a : Word) (n : Nat) : Op Found := do
  if kind = 0 then return ⟨[], [], none⟩
  else do
    let (t, o) ← scratchSide kind a n
    return ⟨[], [(.land t.uid o t.modes, n)], some (t, o)⟩

/-- A memory side translated. -/
def findMemory (c : Copier) (kind : Nat) (a : Word) (n : Nat) (nd : Need) (f : Found) : Op Found := do
  if kind = 0 then do
    let s ← get
    let ps ← orTrap (c.portions s a n nd)
    return ⟨ps, memLocs s ps, none⟩
  else return f

/-- The first address of a destination that the source also covers (R298). -/
def overlapAt (a : Word) (dst src : Found) : Option Word :=
  let hits := dst.mem.flatMap fun p => src.mem.filterMap fun q =>
    if meets p.t.pa p.n q.t.pa q.n then some (p.va + BitVec.ofNat 64 (max p.t.pa q.t.pa - p.t.pa)) else none
  match dst.land, src.land, dst.locs, src.locs with
  | some (t, o), some (u, k), [(_, n)], [(_, m)] =>
    if t.uid = u.uid ∧ meets o n k m then some (a + BitVec.ofNat 64 (max o k - o)) else none
  | _, _, _, _ => (hits.map (·.toNat)).min?.map (BitVec.ofNat 64)

/-- The landing entries of the sides (R299). -/
def landPlan (dst src : Found) (n : Nat) : List (Nat × Nat × Nat × Bool) :=
  (dst.land.map fun p => landRange p.1 p.2 n true).toList ++ (src.land.map fun p => landRange p.1 p.2 n false).toList

/-- A portion k bytes on. -/
def Tr.plus (t : Tr) (k : Nat) : Tr := { t with pa := t.pa + k }

/-- The checks of a raw copy on keys, compression and marks, by pages that meet (R308, R382). -/
def rawCause (s : State) (dst src : List Portion) : Option (Nat × Word) :=
  let ds := dst.map fun p => ((p.va, p.t), p.n)
  let step (x : Word × Tr) (k : Nat) : Word × Tr := (x.1 + BitVec.ofNat 64 k, x.2.plus k)
  (zipRuns step (fun t k => t.plus k) (dst.length + src.length + 1) ds (src.map fun p => (p.t, p.n))).findSome? fun m =>
    let va := m.1.1
    let d := m.1.2
    let x := m.2.1
    if d.key ≠ x.key then some (0x28, va)
    else if poolOf d.pa ≠ .hbm ∨ d.comp ≠ x.comp then some (0x29, va)
    else if s.pages.any fun p => meets d.pa m.2.2 (p.block * 16384) 16384 then some (0x83, va)
    else none

/-- KEY_MISMATCH of a page whose key cannot serve (R307). -/
def keyCause (s : State) (ps : List Portion) : Op Unit :=
  match ps.find? fun p => keyFault s p.t with
  | some p => stopTrap 0x28 p.va
  | none => pure ()

/-- A raw copy's addresses and length are whole lines (R308): after the scratch checks and before the pages are translated, and
FAULTADDR names the destination where only the length is none (log entry 115). -/
def rawAligned (d a : Word) (n : Nat) : Op Unit := do
  need (d.toNat % 256 == 0) 0x24 d
  need (a.toNat % 256 == 0) 0x24 a
  need (n % 256 == 0) 0x24 d

/-- CPYL (R298, R304, R308): kinds 0 memory, 1 landing, 2 mezzanine. -/
def issueCpyl (c : Copier) (d a n : Word) (dk sk : Nat) (raw : Bool) : Op Unit := do
  need ((← get).me.openOps.length < 64) 0x72 0
  if n = 0 then modify joinOpen
  else do
    openCopy c
    let k := n.toNat
    let da ← if dk = 0 then c.operand d k else pure d
    let sa ← if sk = 0 then c.operand a k else pure a
    need (decide (k ≤ 2 ^ 24)) 0x73 da
    let f ← findScratch dk da k
    let g ← findScratch sk sa k
    if raw then rawAligned da sa k
    let f ← findMemory c dk da k Need.write f
    let g ← findMemory c sk sa k Need.read g
    let s ← get
    keyCause s f.mem
    keyCause s g.mem
    match (if raw then rawCause s f.mem g.mem else none) with
    | some e => stopTrap e.1 e.2
    | none => pure ()
    issuePlan ⟨f.mem, g.mem, sideRanges f.mem g.mem, landPlan f g k, .copy (movesOf f.locs (srcsOf g.locs)) raw⟩
      (overlapAt da f g)

/-- CPYF (R298, R305). MISALIGNED comes after the scratch checks and before the pages are translated (log entry 115). -/
def issueCpyf (c : Copier) (d pat n : Word) (dk : Nat) : Op Unit := do
  need ((← get).me.openOps.length < 64) 0x72 0
  if n = 0 then modify joinOpen
  else do
    openCopy c
    let k := n.toNat
    let da ← if dk = 0 then c.operand d k else pure d
    need (decide (k ≤ 2 ^ 24)) 0x73 da
    let f ← findScratch dk da k
    need (da.toNat % 8 == 0 && k % 8 == 0) 0x24 da
    let f ← findMemory c dk da k Need.write f
    keyCause (← get) f.mem
    issuePlan ⟨f.mem, [], sideRanges f.mem [], (f.land.map fun p => landRange p.1 p.2 k true).toList,
      .copy (movesOf f.locs [(.pat pat, k)]) false⟩ none

/-! ## Tiles (R300 to R303) -/

/-- A layout record's fields (R300), the record as one number. -/
def layRank (w : Nat) : Nat := bitsN w 71 69
def laySize (w : Nat) : Nat := 2 ^ bitsN w 66 64
def layPitch (w : Nat) : Nat := bitsN w 127 112
def layRaw (w base bits k : Nat) : Nat := w / 2 ^ (base + bits * k) % 2 ^ bits
def layBox (w k : Nat) : Nat := if k < layRank w then layRaw w 128 16 k else 1
def layDim (w k : Nat) : Nat := if k < layRank w then layRaw w 192 32 k else 1
def layStride (w k : Nat) : Nat := if k < layRank w then layRaw w 320 64 (k - 1) else 0

/-- The record breaks R301. `gather`: of a CPYG; `coords`: the tile indices of a CPYT. -/
def layoutBad (gather : Bool) (coords : Word) (w : Nat) : Bool :=
  let rank := layRank w
  let z := laySize w
  bitsN w 111 72 != 0 || bitsN w 68 67 != 0 || rank == 0 || decide (4 < rank) || decide (4 < bitsN w 66 64)
    || ((List.range 4).any fun k =>
         if k < rank then layRaw w 192 32 k == 0 || layRaw w 128 16 k == 0
         else layRaw w 192 32 k != 0 || layRaw w 128 16 k != 0 || (k != 0 && layRaw w 320 64 (k - 1) != 0))
    || ((List.range 4).any fun k => decide (0 < k ∧ k < rank) && layStride w k % z != 0)
    || w % 2 ^ 64 % z != 0
    || layPitch w % 8 != 0 || decide (layPitch w < layBox w 0 * z)
    || (!gather && (List.range 4).any fun k => decide (rank ≤ k) && slice coords (16 * k + 15) (16 * k) != 0)
    || (gather && (rank != 2 || decide (256 < layBox w 1)))

/-- A row of a tile: where it lies in scratch past the tile's start, its address in memory, its bytes in bounds. -/
structure TileRow where
  sp : Nat
  va : Word
  n : Nat

/-- Bytes of a row within the tensor (R302): from column t0, none where another index is out of bounds. -/
def rowBytes (w t0 : Nat) (inb : Bool) : Nat :=
  if inb ∧ t0 < layDim w 0 then min (layBox w 0) (layDim w 0 - t0) * laySize w else 0

/-- The rows of a CPYT tile (R302). -/
def tileRows (w : Nat) (coords : Word) : List TileRow :=
  let c (k : Nat) : Nat := slice coords (16 * k + 15) (16 * k) * layBox w k
  (List.range (layBox w 1 * layBox w 2 * layBox w 3)).map fun j =>
    let t1 := c 1 + j % layBox w 1
    let t2 := c 2 + j / layBox w 1 % layBox w 2
    let t3 := c 3 + j / (layBox w 1 * layBox w 2)
    let inb := decide (t1 < layDim w 1 ∧ t2 < layDim w 2 ∧ t3 < layDim w 3)
    let a := w % 2 ^ 64 + c 0 * laySize w + t1 * layStride w 1 + t2 * layStride w 2 + t3 * layStride w 3
    ⟨j * layPitch w, BitVec.ofNat 64 a, rowBytes w (c 0) inb⟩

/-- The rows of a CPYG tile (R303). -/
def gatherRows (w : Nat) (list : List Nat) : List TileRow :=
  list.zipIdx.map fun (t1, j) =>
    ⟨j * layPitch w, BitVec.ofNat 64 (w % 2 ^ 64 + t1 * layStride w 1), rowBytes w 0 (decide (t1 < layDim w 1))⟩

/-- The portions of rows, by rising address, each with its row's place. -/
def rowPortions (s : State) (nd : Need) : List TileRow → Except (Nat × Word) (List (Nat × List Portion))
  | [] => .ok []
  | r :: l =>
    match splitPortions s s.me (fun t => permFault s.me.sup t nd) (r.n / 4096 + 2) r.va r.n with
    | .error e => .error e
    | .ok ps =>
      match rowPortions s nd l with
      | .error e => .error e
      | .ok q => .ok ((r.sp, ps) :: q)

/-- The moves of a row between memory and the tile in scratch. -/
def rowMoves (s : State) (st : Bool) (tile : Loc) (sp : Nat) (ps : List Portion) : List Move :=
  let n := (ps.map (·.n)).foldl (· + ·) 0
  let mem := memLocs s ps
  let lo : List (Loc × Nat) := [(tile.plus sp, n)]
  if st then movesOf mem (srcsOf lo) else movesOf lo (srcsOf mem)

/-- The zeros of a row outside the tensor (R302, .ld). -/
def rowZeros (w : Nat) (tile : Loc) (r : TileRow) : List Move :=
  let full := layBox w 0 * laySize w
  if r.n < full then [⟨tile.plus (r.sp + r.n), .zero, full - r.n⟩] else []

/-- The moves of a tile: of .ld row by row, what lies outside the tensor as zeros with its row, so that no unit of scratch is
written in two parts (R245, R302). -/
def tileMoves (s : State) (w : Nat) (st : Bool) (tile : Loc) (rows : List TileRow) (rs : List (Nat × List Portion)) : List Move :=
  if st then rs.flatMap fun r => rowMoves s st tile r.1 r.2
  else rows.flatMap fun r =>
    (((rs.find? fun p => p.1 == r.sp).map fun p => rowMoves s st tile p.1 p.2).getD []) ++ rowZeros w tile r

/-- The steps of R298 after the record and the list. -/
def issueTile (d : Word) (w : Nat) (rows : List TileRow) (mz st : Bool) : Op Unit := do
  let count := layBox w 1 * layBox w 2 * layBox w 3
  let span := (count - 1) * layPitch w + layBox w 0 * laySize w
  let (t, o) ← scratchSide (if mz then 2 else 1) d span
  need (d.toNat % 8 == 0) 0x24 d
  let s ← get
  let rs ← orTrap (rowPortions s (if st then Need.write else Need.read) (sortBy (·.va.toNat) (rows.filter fun r => r.n != 0)))
  let ps := rs.flatMap (·.2)
  keyCause s ps
  let tile := Loc.land t.uid o t.modes
  let moves := tileMoves s w st tile rows rs
  let dst := if st then ps else []
  let src := if st then [] else ps
  issuePlan ⟨dst, src, sideRanges dst src, [landRange t o span (!st)], .copy moves false⟩ none

/-- The record of a tile copy (R298, R300, R301). -/
def tileRecord (c : Copier) (a : Word) (gather : Bool) (coords : Word) : Op Nat := do
  let va ← c.operand a 64
  need (va.toNat % 64 == 0) 0x24 va
  let w := leNat (← c.load va 64 64)
  need (!layoutBad gather coords w) 0x71 va
  return w

/-- A tile above 4 MiB in scratch (R299). -/
def tileSize (d : Word) (w : Nat) : Op Unit :=
  need (decide (layPitch w * layBox w 1 * layBox w 2 * layBox w 3 ≤ 2 ^ 22)) 0x73 d

/-- CPYT (R302). -/
def issueCpyt (c : Copier) (d a coords : Word) (mz st : Bool) : Op Unit := do
  openCopy c
  let w ← tileRecord c a false coords
  tileSize d w
  issueTile d w (tileRows w coords) mz st
  c.spend

/-- CPYG (R303). The list's bytes beyond LIMIT are found once the record has given its length (log entry 116). -/
def issueCpyg (c : Copier) (d a b : Word) (mz st : Bool) : Op Unit := do
  openCopy c
  let w ← tileRecord c a true 0
  let n := layBox w 1
  let la ← c.operand b (4 * n)
  let list := wordsOf 4 n (← c.load la (4 * n) 4)
  match list.findIdx? fun t => decide (layDim w 1 ≤ t) with
  | some k => stopTrap 0x82 (la + BitVec.ofNat 64 (4 * k))
  | none => pure ()
  tileSize d w
  issueTile d w (gatherRows w list) mz st
  c.spend

/-! ## The lead forms (R294, R295) -/

/-- What a lead copy or usher form reaches its operands with. -/
def leadCopier (o : Nat × Nat) (v : Bool) (x : BitVec 3) : Op Copier := do
  let b ← getXb x
  return ⟨false, if v then some b else none, o.1, o.2⟩

/-- A lead copy form: `scratch` where one side is a landing or the mezzanine. -/
def leadCopy (d a b : Reg) (v : Bool) (x : BitVec 3) (scratch : Bool) (m : Copier → Word → Word → Word → Op Unit) :
    State → Result := runLead do
  if scratch then needGroup
  let o ← ordIn [0, 2, 4]
  needCtx
  notInTx
  m (← leadCopier o v x) (← reg d) (← reg a) (← reg b)

/-- CPYT, long form (R302). -/
def execCpytExt (d a b : Reg) (v : Bool) (x : BitVec 3) (mz st : Bool) : State → Result :=
  leadCopy d a b v x true fun c p q r => issueCpyt c p q r mz st

/-- CPYT, short form: EXT = 0 (R294). -/
def execCpyt (d a b : Reg) : State → Result := leadCopy d a b false 0 true fun c p q r => issueCpyt c p q r false false

/-- CPYL, long form (R304). -/
def execCpylExt (d a b : Reg) (v : Bool) (x : BitVec 3) (dk sk : BitVec 2) : State → Result :=
  leadCopy d a b v x (dk != 0 || sk != 0) fun c p q r => issueCpyl c p q r dk.toNat sk.toNat false

/-- CPYL, short form (R294). -/
def execCpyl (d a b : Reg) : State → Result := leadCopy d a b false 0 false fun c p q r => issueCpyl c p q r 0 0 false

/-- CPYL.raw (R308). -/
def execCpylRaw (d a b : Reg) (v : Bool) (x : BitVec 3) : State → Result :=
  leadCopy d a b v x false fun c p q r => issueCpyl c p q r 0 0 true

/-- CPYF, long form (R305). -/
def execCpyfExt (d a b : Reg) (v : Bool) (x : BitVec 3) (dk : BitVec 2) : State → Result :=
  leadCopy d a b v x (dk != 0) fun c p q r => issueCpyf c p q r dk.toNat

/-- CPYF, short form (R294). -/
def execCpyf (d a b : Reg) : State → Result := leadCopy d a b false 0 false fun c p q r => issueCpyf c p q r 0

/-- CPYG, long form (R303). -/
def execCpygExt (d a b : Reg) (v : Bool) (x : BitVec 3) (mz st : Bool) : State → Result :=
  leadCopy d a b v x true fun c p q r => issueCpyg c p q r mz st

/-- CPYG, short form (R294). -/
def execCpyg (d a b : Reg) : State → Result := leadCopy d a b false 0 true fun c p q r => issueCpyg c p q r false false

/-! ## The lane forms (R296, R297) -/

/-- The fields of the lane copy forms; `bits` are the bits of C[6:0] that the form reads. -/
def laneCopyRule (bits : Nat) (kinds : LaneF → Bool) (f : LaneF) : LRule where
  noType := true
  d := .pair
  a := .pair
  b := .pair
  c := .other
  x := 0xFF80
  i16 := 0xFFFF
  queue := false
  acc := true
  also := (f.c.toNat % 128 &&& (127 - bits)) == 0 && kinds f && [0, 2, 4].contains f.order && (f.c.getLsbD 7 || f.xbn == 0)
  tx := false

/-- DK and SK of a lane form. -/
def copyDk (f : LaneF) : Nat := f.c.toNat / 16 % 4
def copySk (f : LaneF) : Nat := f.c.toNat / 4 % 4

/-- The leader lane's causes are its own (R298, R199). -/
def asLeader (k : Nat) (m : Op Unit) : Op Unit := fun s =>
  match m s with
  | .error (.trap cause a) => .error (.lanes [(k, cause, a)] .stay)
  | r => r

/-- A lane copy form acts in its leader lane (R297). -/
def laneCopy (rule : LaneF → LRule) (m : LaneF → Copier → Word → Word → Word → Op Unit) : State → Result :=
  runLane rule fun c => do
    match lowestLane c.act with
    | none => pure ()
    | some k => do
      let s ← get
      let cp : Copier := ⟨true, if c.f.c.getLsbD 7 then some (runXb s c.f.xbn) else none, c.f.scope, c.f.order⟩
      let d := BitVec.ofNat 64 (regRaw s.me.l .pair c.f.d k) + BitVec.ofInt 64 c.f.off
      asLeader k (m c.f cp d (BitVec.ofNat 64 (c.a k)) (BitVec.ofNat 64 (c.b k)))

/-- The lane CPYT (R296). -/
def execLaneCpyt : State → Result :=
  laneCopy (laneCopyRule 0x11 fun _ => true) fun f c d a b => issueCpyt c d a b (f.c.getLsbD 4) (f.c.getLsbD 0)

/-- The lane CPYL (R296, R308). -/
def execLaneCpyl : State → Result :=
  laneCopy (laneCopyRule 0x7C fun f => (copyDk f) != 3 && (copySk f) != 3 && (!f.c.getLsbD 6 || ((copyDk f) == 0 && (copySk f) == 0)))
    fun f c d a b => issueCpyl c d a b (copyDk f) (copySk f) (f.c.getLsbD 6)

/-- The lane CPYF (R296). -/
def execLaneCpyf : State → Result :=
  laneCopy (laneCopyRule 0x30 fun f => (copyDk f) != 3) fun f c d a b => issueCpyf c d a b (copyDk f)

/-- The lane CPYG (R296). -/
def execLaneCpyg : State → Result :=
  laneCopy (laneCopyRule 0x11 fun _ => true) fun f c d a b => issueCpyg c d a b (f.c.getLsbD 4) (f.c.getLsbD 0)

/-! ## Batches (R309 to R312) -/

/-- Every operation of a batch is complete (R309). -/
def batchDone (s : State) (b : Batch) : Bool := !b.ops.any fun n => s.ops.any fun o => o.no == n

/-- Sealed batches that are not finished. -/
def unfinished (s : State) : Nat := (s.me.batches.filter fun b => !batchDone s b).length

/-- BSEAL (R309). -/
def execBseal (d : Reg) : State → Result := runLead do
  notInTx
  let s ← get
  need (decide (s.me.sealed < 2 ^ 32 - 1)) 0x72 0
  readyIf (unfinished s < 16)
  onMe fun r =>
    { r with
      sealed := r.sealed + 1
      openOps := []
      openMark := none
      batches := (r.batches.filter fun b => !batchDone s b || b.mark.isSome) ++ [⟨r.sealed + 1, r.openOps, r.openMark⟩] }
  setReg d (BitVec.ofNat 64 (s.me.sealed + 1))

/-- A wait that would end with marked batches traps, and their marks are cleared (R312). -/
def reportMarks (p : Batch → Bool) : Op Unit := do
  let s ← get
  match (s.me.batches.find? fun b => p b && b.mark.isSome).bind (·.mark) with
  | none => pure ()
  | some pa =>
    throw (.park fun s => leadTrap 0xA1 pa s.issue.pc
      { s with me := { s.me with batches := mapIf p (fun b => { b with mark := none }) s.me.batches } })

/-- BWAIT (R310, R312). -/
def execBwait (a : Reg) : State → Result := runLead do
  notInTx
  let s ← get
  let n := (← reg a).toNat
  need (decide (n ≤ s.me.sealed)) 0x72 0
  readyIf (s.me.batches.all fun b => decide (n < b.no) || batchDone s b)
  reportMarks fun b => decide (b.no ≤ n)

/-- BWAITN (R310, R312): it accounts for the sealed batches that are finished. -/
def execBwaitn (a : Reg) : State → Result := runLead do
  notInTx
  let s ← get
  readyIf (unfinished s ≤ (← reg a).toNat)
  reportMarks (batchDone s)

/-- DONE (R311). -/
def batchesDone (s : State) : Nat :=
  match s.me.batches.find? fun b => !batchDone s b with
  | some b => b.no - 1
  | none => s.me.sealed

/-- BSTAT (R311). -/
def execBstat (d : Reg) : State → Result := runLead do
  let s ← get
  setReg d (BitVec.ofNat 64 (s.me.sealed * 2 ^ 32 + batchesDone s))

/-! ## Porters at work -/

/-- The first operation of a porter that has not started, while fewer than four of its operations run (R292). -/
def nextStart (s : State) (porter : Nat) : Option EngOp :=
  let mine := s.ops.filter fun o => o.porter == some porter
  if (mine.filter (·.started)).length < 4 then mine.find? fun o => !o.started else none

/-- PORTER_OPERATION_START (R292). -/
def execPorterOperationStart (porter : Nat) (s : State) : Result :=
  match nextStart s porter with
  | none => .next s
  | some o => .next { s with ops := mapIf (fun x => x.no == o.no) (fun x => { x with started := true }) s.ops }

/-- The bytes of a landing as an engine reaches them. -/
def landBytes (s : State) (t o : Nat) (m : BitVec 24) (n : Nat) : List Byte := landRead (((team? s t).map (·.land)).getD []) m o n

/-- Bytes of a register block that whole aligned units read; 0 from a unit met in part (R482). -/
def unitBytes (s : State) (pa n : Nat) : List Byte :=
  (List.range n).map fun j =>
    let u := (pa + j) / 8 * 8
    if pa ≤ u ∧ u + 8 ≤ pa + n then (leBytes 8 (devRead s (u % 65536)).toNat).getD ((pa + j) % 8) 0 else 0

/-- The bytes at a memory address as an operation reads them (R245): memory as its die sees it (R238), the answers of a
target outside, device registers by aligned units, 0 elsewhere. -/
def engineRead (s : State) (o : EngOp) (key pa n : Nat) : List Byte :=
  if answeredOutside s pa then (outAnswer s o.who (.op o.no) pa n).getD (List.replicate n 0)
  else if (poolOf pa).isMemory then viewRead s none o.die key pa n
  else if poolOf pa = .device then unitBytes s pa n
  else List.replicate n 0

/-- The bytes of a source. -/
def srcBytes (s : State) (o : EngOp) (n : Nat) : Src → List Byte
  | .loc (.mem pa key _) => engineRead s o key pa n
  | .loc (.land t off m) => landBytes s t off m n
  | .got bs => (bs.take n).map (·.1)
  | .pat p => (List.range n).map fun j => (leBytes 8 p.toNat).getD (j % 8) 0
  | .zero => List.replicate n 0

/-- The bytes of a source that come from poisoned units, or from answers that never came (R312, R488). -/
def srcBad (s : State) (o : EngOp) (n : Nat) : Src → List Nat
  | .loc (.mem pa _ _) =>
    if engineBad s o.who (.op o.no) pa n then
      (List.range n).filter fun j => engineBad s o.who (.op o.no) ((pa + j) / 8 * 8) 8
    else []
  | .got bs => (List.range n).filter fun j => (bs.getD j (0, false)).2
  | _ => []

/-- The first poisoned unit of a source. -/
def srcHit (s : State) (o : EngOp) (n : Nat) (x : Src) : Option Word :=
  match x, srcBad s o n x with
  | .loc (.mem pa _ _), j :: _ => some (BitVec.ofNat 64 ((pa + j) / 8 * 8))
  | _, _ => none

/-- What the read of a source does: transactions that it meets (R280), counts (R480, R493). -/
def srcTouch (n : Nat) (x : Src) (s : State) : State :=
  match x with
  | .loc (.mem pa _ _) =>
    if n = 0 then s
    else if (poolOf pa).isMemory then countRange (touch s none true false pa n) pa n
    else if poolOf pa = .unmapped then badAddr s
    else s
  | _ => s

/-- An aligned unit of w bytes at a place: its landing, if it is in one, and its number. -/
def Loc.unit (w : Nat) : Loc → Option Nat × Nat
  | .mem pa _ _ => (none, pa / w)
  | .land t o _ => (some t, o / w)

/-- Where in its aligned unit of w bytes a place stands. -/
def Loc.inUnit (w : Nat) : Loc → Nat
  | .mem pa _ _ => pa % w
  | .land _ o _ => o % w

/-- The destination units that take a byte from a poisoned unit (R312). -/
def badUnits (s : State) (o : EngOp) (ms : List Move) : List (Option Nat × Nat) :=
  (ms.flatMap fun m => (srcBad s o m.len m.src).map fun j => (m.dst.plus j).unit 8).eraseDups

/-- A write that the die has performed meets n bytes: a write of an engine of the die follows it there (R239). -/
def PWrite.under (die a n : Nat) (w : PWrite) : Bool := w.seen && w.die == die && meets w.addr w.bytes.length a n

/-- Bytes stored by an operation at a memory address (R245): memory at the home, after the writes that its die has
performed there before (R239); each aligned unit of a register block; a target outside has them to accept. -/
def engineWrite (o : EngOp) (key pa : Nat) (comp : Bool) (bs : List Byte) (s : State) : State :=
  if bs.isEmpty then s
  else if answeredOutside s pa then outWrite o.who (.op o.no) 0 o.grid pa key comp bs s
  else
    match poolOf pa with
    | .device =>
      (unitsIn pa bs.length).foldl (fun s u =>
        { s with dev := devWrite (u * 8 % 65536) (BitVec.ofNat 64 (leNat ((bs.drop (u * 8 - pa)).take 8))) s.dev }) s
    | .window => s
    | .unmapped => badAddr s
    | _ =>
      let s := arriveAll s (PWrite.under o.die pa bs.length)
      countRange (touch (homeWrite s key comp pa bs) none true true pa bs.length) pa bs.length

/-- Bytes stored at a place, where units of scratch in `bad` take 0 (R312). -/
def locWrite (o : EngOp) (bad : List (Option Nat × Nat)) (l : Loc) (bs : List Byte) (s : State) : State :=
  match l with
  | .mem pa key comp => engineWrite o key pa comp bs s
  | .land t off m =>
    let out := bs.zipIdx.map fun p => if bad.contains ((l.plus p.2).unit 8) then 0 else p.1
    onTeam t (fun u => { u with land := landWrite u.land m off out }) s

/-- The units of memory in a list are poisoned (R312). -/
def poisonUnits (bad : List (Option Nat × Nat)) (s : State) : State :=
  if bad.isEmpty then s
  else { s with poison := ((bad.filterMap fun u => if u.1.isNone && (poolOf (u.2 * 8)).isMemory then some u.2 else none) ++ s.poison).eraseDups }

/-- One move (R302 to R305). -/
def doMove (o : EngOp) (bad : List (Option Nat × Nat)) (m : Move) (s : State) : State :=
  locWrite o bad m.dst (srcBytes s o m.len m.src) (srcTouch m.len m.src s)

/-- The tag, the metadata and the poison of one stored line go with it (R308, R491). -/
def rawLine (dst src : Nat) (s : State) : State :=
  let t := tagOf s src
  let units (l : Nat) : List Nat := (List.range 32).map (· + l * 32)
  let bad := (units src).filterMap fun u => if s.poison.contains u then some (u - src * 32 + dst * 32) else none
  { s with
    mem := s.mem.write (dst * 256) (s.mem.read (src * 256) 256)
    tags := (if t.key = 0 then [] else [⟨dst, t.key, t.tweak⟩]) ++ s.tags.filter fun x => x.line != dst
    lineMeta := setMeta s.lineMeta dst (metaOf s src)
    poison := bad ++ s.poison.filter fun u => u / 32 != dst }

/-- One move of a raw copy (R308), after the writes of its die to either side. -/
def rawMove (o : EngOp) (m : Move) (s : State) : State :=
  match m.dst, m.src with
  | .mem d _ _, .loc (.mem a _ _) =>
    let s := arriveAll s fun w => w.under o.die d m.len || w.under o.die a m.len
    let s := countRange (touch (countRange (touch s none true false a m.len) a m.len) none true true d m.len) d m.len
    (List.range (m.len / 256)).foldl (fun s k => rawLine (d / 256 + k) (a / 256 + k) s) s
  | _, _ => s

/-- Moves of an operation, with the first poisoned source unit (R312). -/
def doMoves (o : EngOp) (raw : Bool) (ms : List Move) (s : State) : State × Option Word :=
  let first := ms.findSome? fun m => srcHit s o m.len m.src
  if raw then (ms.foldl (fun s m => rawMove o m s) s, first)
  else
    let bad := badUnits s o ms
    (poisonUnits bad (ms.foldl (fun s m => doMove o bad m s) s), first)

/-- A move cut after k bytes. -/
def Move.cut (m : Move) (k : Nat) : Move × Move := (⟨m.dst, m.src, k⟩, ⟨m.dst.plus k, m.src.plus k, m.len - k⟩)

/-- Moves cut after n bytes, or at the next boundary of an aligned unit of w bytes at the destination; `open_` is the unit
that the bytes taken so far leave unfinished. -/
def cutMoves (w : Nat) : Nat → Option (Option Nat × Nat) → List Move → List Move × List Move
  | _, _, [] => ([], [])
  | n, open_, m :: ms =>
    let lead := if open_ = some (m.dst.unit w) then w - m.dst.inUnit w else 0
    let n' := max n lead
    let k := (m.dst.inUnit w + n' + w - 1) / w * w - m.dst.inUnit w
    if n' = 0 then ([], m :: ms)
    else if k < m.len then ([(m.cut k).1], (m.cut k).2 :: ms)
    else
      let e := m.dst.plus m.len
      let r := cutMoves w (n - m.len) (if e.inUnit w = 0 then none else some (e.unit w)) ms
      (m :: r.1, r.2)

/-- The destination unit that the moves reach: 8 bytes, or a line of a raw copy. -/
def unitOf (raw : Bool) : Nat := if raw then 256 else 8

/-- The sources beyond the package that a target answers. -/
def outsideOf (s : State) (l : List (Loc × Nat)) : List (Nat × Nat) :=
  l.filterMap fun p => match p.1 with | .mem pa _ _ => if answeredOutside s pa then some (pa, p.2) else none | .land _ _ _ => none

/-- Every target outside has answered what an operation reads there. -/
def sourcesReady (s : State) (o : EngOp) (l : List (Loc × Nat)) : Bool :=
  (outsideOf s l).all fun p => (outAnswer s o.who (.op o.no) p.1 p.2).isSome

/-- The targets outside are asked for what an operation reads there (R482). -/
def askSources (o : EngOp) (l : List (Loc × Nat)) (s : State) : State :=
  (outsideOf s l).foldl (fun s p => outAsk o.who (.op o.no) o.grid p.1 p.2 s) s

/-- The aligned 8-byte units that n bytes of a source meet; bytes read already lie in none. -/
def srcUnits (n : Nat) : Src → List (Option Nat × Nat)
  | .loc l => if n = 0 then [] else (List.range ((l.inUnit 8 + n + 7) / 8)).map fun k => ((l.unit 8).1, (l.unit 8).2 + k)
  | _ => []

/-- A move's bytes that come from an aligned unit are read now; the rest of it stays as it is. -/
def fixUnit (s : State) (o : EngOp) (u : Option Nat × Nat) (m : Move) : List Move :=
  match m.src with
  | .loc l =>
    if (srcUnits m.len m.src).contains u then
      let a := (u.2 - (l.unit 8).2) * 8 - l.inUnit 8
      let b := min m.len ((u.2 - (l.unit 8).2) * 8 + 8 - l.inUnit 8)
      let bad := srcBad s o (b - a) (.loc (l.plus a))
      let bs := (srcBytes s o (b - a) (.loc (l.plus a))).zipIdx.map fun p => (p.1, bad.contains p.2)
      [⟨m.dst, m.src, a⟩, ⟨m.dst.plus a, .got bs, b - a⟩, ⟨m.dst.plus b, .loc (l.plus b), m.len - b⟩].filter fun x => x.len != 0
    else [m]
  | _ => [m]

/-- The units of their sources that moves done now share with others are read for those too, at the same point (R245,
R261). -/
def fixMoves (s : State) (o : EngOp) (now later : List Move) : List Move :=
  let mine := (now.flatMap fun m => srcUnits m.len m.src).eraseDups
  let both := (later.flatMap fun m => srcUnits m.len m.src).eraseDups.filter mine.contains
  both.foldl (fun ms u => ms.flatMap (fixUnit s o u)) later

/-- What is left of an operation still holds the landings that it touches (R313). -/
def stubsOf (k : EKind) : List Move := k.teams.eraseDups.map fun t => ⟨.land t 0 0, .zero, 0⟩

/-- The places that moves read. -/
def movesSrc (ms : List Move) : List (Loc × Nat) :=
  ms.filterMap fun m => match m.src with | .loc l => some (l, m.len) | _ => none

/-- The batch of an operation, or the open set, is marked (R312). -/
def markBatch (o : EngOp) (first : Option Word) (s : State) : State :=
  match o.hit.or first with
  | none => s
  | some pa =>
    s.onRunner o.who fun r =>
      { r with
        openMark := if r.openOps.contains o.no then r.openMark.or (some pa) else r.openMark
        batches := mapIf (fun b => b.ops.contains o.no) (fun b => { b with mark := b.mark.or (some pa) }) r.batches }

/-- An operation leaves with its ranges (R246); what waited for it goes on. -/
def endOp (n : Nat) (s : State) : State :=
  finishEnds (sweepTeams { s with
    ops := s.ops.filter fun o => o.no != n
    outb := s.outb.filter fun b => b.ask != .op n
    parts := s.parts.map fun p => { p with ranges := p.ranges.filter fun g => g.op != n }
    lranges := s.lranges.filter fun g => g.op != n })

/-- An operation has done its work: it leaves once every target outside has accepted what it wrote (R246, R482). -/
def closeOp (o : EngOp) (first : Option Word) (s : State) : State :=
  let s := markBatch o first s
  if s.outb.any fun b => b.ask == .op o.no && b.wr then
    { s with ops := mapIf (fun x => x.no == o.no) (fun x => { x with hit := none, kind := .copy (stubsOf x.kind) false }) s.ops }
  else endOp o.no s

/-- A write over places waits for the holder of the fallback lock (R288). -/
def locsLocked (s : State) (l : List (Loc × Nat)) : Bool :=
  s.wicket.holder.isSome && l.any fun p =>
    match p.1 with
    | .mem pa _ _ => lockedOut s none pa p.2
    | .land _ _ _ => false

/-- The writes of the die that go before an operation's at places wait for that holder. -/
def underLocked (s : State) (o : EngOp) (l : List (Loc × Nat)) : Bool :=
  s.wicket.holder.isSome && l.any fun p =>
    match p.1 with
    | .mem pa _ _ => arriveLocked s (PWrite.under o.die pa p.2)
    | .land _ _ _ => false

/-- An operation can write places now. -/
def placesReady (s : State) (o : EngOp) (l : List (Loc × Nat)) : Bool := !locsLocked s l && !underLocked s o l

/-- Moves that can be done now; the writes that a raw copy finds under its source arrive first, too. -/
def movesReady (s : State) (o : EngOp) (raw : Bool) (ms : List Move) : Bool :=
  placesReady s o (ms.map fun m => (m.dst, m.len)) && sourcesReady s o (movesSrc ms) && !(raw && underLocked s o (movesSrc ms))

end Sys2Proof.Machine
end

