-- ==== Sys2Proof/Machine/Barrier.lean ====
section
/-! DEFINITION. Barriers of teams and squads (spec/05_lane_control.md R167 to R171; spec/15_launch.md R405) and what a
checkpointing barrier writes (spec/17_protection.md R466 to R471). -/

namespace Sys2Proof.Machine

/-! ## Parked fragments -/

/-- Change the group's own runs. -/
def Lanes.onOwn (f : LaneRuns → LaneRuns) (l : Lanes) : Lanes :=
  match l.held with
  | some u => { l with held := some (f u) }
  | none => { l with run := f l.run }

/-- A fragment parks at a barrier and its live record is free (R161, R167). -/
def LaneRuns.park (age : Nat) (st : FragSt) (u : LaneRuns) : LaneRuns :=
  LaneRuns.refill { u with frags := mapIf (fun x => x.age == age) (fun x => { x with st := st, live := false }) u.frags }

/-- Parked fragments resume, the oldest first; of more than two, the youngest stay live (R161, R168, log entry 41). -/
def LaneRuns.unpark (p : FragSt → Bool) (u : LaneRuns) : LaneRuns :=
  let ages := (sortBy (·.age) (u.frags.filter fun x => p x.st)).map (·.age)
  ages.foldl (fun u a =>
    LaneRuns.spill
      { u with frags := mapIf (fun x => x.age == a) (fun x => { x with st := .runnable, live := true }) u.frags }) u

/-- A fragment stands at team barrier n. -/
def atTeamBar (n : Nat) : FragSt → Bool
  | .teamBar k _ => k == n
  | _ => false

/-- A fragment stands at squad barrier n. -/
def atSquadBar (n : Nat) : FragSt → Bool
  | .squadBar k => k == n
  | _ => false

/-- Lanes of the group wait at JOIN for a path (R163). -/
def LaneRuns.joining (u : LaneRuns) : Bool := u.split.any fun e => e.arrived != 0

/-- A group has arrived: every fragment of it stands there and no lane of it waits at JOIN, or it has no live lane (R167,
R405). -/
def Runner.arrived (p : FragSt → Bool) (r : Runner) : Bool :=
  r.l.live == 0 || (!r.l.own.frags.isEmpty && !r.l.own.joining && r.l.own.frags.all fun x => p x.st)

/-- A group has a fragment standing there. -/
def Runner.standsAt (p : FragSt → Bool) (r : Runner) : Bool := r.l.own.frags.any fun x => p x.st

/-- The resident groups of a team. -/
def teamGroups (s : State) (uid : Nat) : List Runner := s.runners.filter fun r => !r.isHost && r.team == uid

/-- The resident groups of a squad. -/
def squadGroups (s : State) (uid : Nat) : List Runner :=
  s.runners.filter fun r => !r.isHost && (team? s r.team).any fun t => t.squad == uid

/-- A barrier is complete: every group that has not exited has arrived, and some fragment waits at it (R168). -/
def barComplete (gs : List Runner) (p : FragSt → Bool) : Bool :=
  gs.all (Runner.arrived p) && gs.any (Runner.standsAt p)

/-- The parked fragments of the groups go on (R168). -/
def resumeGroups (mine : Runner → Bool) (p : FragSt → Bool) (s : State) : State :=
  let f (r : Runner) : Runner := if mine r then { r with l := r.l.onOwn (LaneRuns.unpark p) } else r
  { s with me := f s.me, others := s.others.map f }

/-! ## Checkpoints -/

/-- The team barrier that is complete. -/
def teamBarDone (s : State) (uid : Nat) : Option Nat :=
  (List.range 16).find? fun n => barComplete (teamGroups s uid) (atTeamBar n)

/-- A complete team barrier makes a checkpoint: the grid has the flag and a fragment stands at it by TBAR.ck (R171). -/
def ckDue (s : State) (uid : Nat) : Bool :=
  (teamBarDone s uid).isSome && (team? s uid).any (fun t => t.ck.isSome)
    && (teamGroups s uid).any fun r => r.l.own.frags.any fun x => match x.st with | .teamBar _ ck => ck | _ => false

/-- What a checkpoint of a team waits for (R466): its groups' lead streams at an instruction boundary, which a redemption
in progress is not, and its matrix operations that run or can start. -/
def ckBusy (s : State) (uid : Nat) : Bool :=
  ((teamGroups s uid).any fun r => r.wait == .redeem)
    || s.mops.any fun m => m.team == uid && (team? s uid).any (MOp.due · m)

/-- The queue streams of a team's groups, each at its first element not yet consumed (R122). -/
def ckStreams (s : State) (gs : List Runner) : List Stream :=
  s.streams.filterMap fun x =>
    if streamToPorts x.desc then none else (gs.find? fun r => r.id == x.owner).map fun r => x.rewind r.l

/-- The team's state is written to its other buffer, which becomes the valid one (R466 to R468, R471). The interval is
clean unless an operation of its groups, or of one that has exited, is incomplete (R467). -/
def checkpoint (uid : Nat) (s : State) : State :=
  match team? s uid with
  | none => s
  | some t =>
    match t.ck with
    | none => s
    | some c =>
      let gs := sortBy (·.gno) (teamGroups s uid)
      let c' : Ckpt :=
        { c with
          buf := !c.buf
          seq := c.seq + 1
          clean := !s.ops.any fun o => o.team == uid }
      let img := ckImage c' t (gs.map Runner.atRest)
      let s := arrive s ⟨t.core / 128, s.me.id, false, 0, c'.valid, fillFree s.free img, 0, false, s.me.part, false, true⟩
      let save : CkSave :=
        { team := { t with ck := some c' }
          groups := gs.map Runner.atRest
          mops := s.mops.filter fun m => m.team == uid
          streams := ckStreams s gs }
      { onTeam uid (fun t => { t with ck := some c' }) s with
        free := s.free + img.length
        cksaves := save :: s.cksaves.filter fun k => k.team.uid != uid }

/-! ## Scale bytes (spec/11_narrow_formats.md R326) -/

/-- Scale bytes of one row for `k` products (R326). -/
def Side.blocks (x : Side) (k : Nat) : Nat := if x.bl16 then (k + 15) / 16 else (k + 31) / 32

/-- The scale bytes that an operation of `rows` rows, `cols` columns and `total` products reads (R326). -/
def scaleSpans (w : Word) (rows cols total : Nat) : List (Nat × Nat) :=
  let one (x : Side) (n : Nat) : List (Nat × Nat) := if x.scl then [(x.off, n * x.blocks total)] else []
  one (sideA w) rows ++ one (sideB w) cols

/-- The scale bytes of an operation in its team's landing: modes in force, offsets and lengths. -/
def MKind.scales : MKind → BitVec 24 × List (Nat × Nat)
  | .mma false w _ modes _ _ => (modes, scaleSpans w 128 128 32)
  | .mloop false w _ modes rows cols kch .. => (modes, scaleSpans w (128 * rows) (128 * cols) (32 * kch))
  | _ => (0, [])

/-- An operation takes its scale bytes from a landing as it stands, unless a barrier before has fixed them. -/
def MOp.fix (land : Mem) (m : MOp) : MOp :=
  if m.fixed.isEmpty then
    { m with
      fixed := m.kind.scales.2.flatMap fun p => (List.range p.2).map fun i =>
        let a := landPos m.kind.scales.1 (p.1 + i)
        (a, land.get a) }
  else m

/-- A barrier comes between the scale reads of the operations that it follows and what is written after it: each reads what
stands there now (R169, R326, log entry 111). -/
def fixScales (mine : Team → Bool) (s : State) : State :=
  { s with
    mops := s.mops.map fun m =>
      match (team? s m.team).filter mine with
      | some t => m.fix t.land
      | none => m }

/-! ## Completion -/

/-- What a barrier orders (R169): the accepted writes of its groups are performed on their die. -/
def seeGroups (gs : List Runner) (s : State) : State := seeAll s fun w => gs.any fun r => r.id == w.who

/-- A complete team barrier lets its fragments go on; a checkpointing one makes a checkpoint first (R168, R169, R466). A team
that is to go back to its checkpoint stays where it is (R469). -/
def settleTeam (uid : Nat) (s : State) : State :=
  match teamBarDone s uid with
  | none => s
  | some n =>
    let go := resumeGroups (fun r => !r.isHost && r.team == uid) (atTeamBar n)
      (fixScales (·.uid == uid) (seeGroups (teamGroups s uid) s))
    if (team? s uid).any fun t => t.ck.any fun c => c.back.isSome then s
    else if ckDue s uid then checkpoint uid go else go

/-- A complete squad barrier lets its fragments go on and exchanges the banks of every landing of the gallery (R168 to
R170). -/
def settleSquad (uid : Nat) (s : State) : State :=
  match (List.range 4).find? fun n => barComplete (squadGroups s uid) (atSquadBar n) with
  | none => s
  | some n =>
    let ids := (squadGroups s uid).map (·.id)
    let gal := (s.squads.find? fun q => q.uid == uid).map (·.gal)
    let s := resumeGroups (fun r => ids.contains r.id) (atSquadBar n)
      (fixScales (·.squad == uid) (seeGroups (squadGroups s uid) s))
    { s with teams := mapIf (fun t => some (t.core / 8) == gal) Team.exchange s.teams }

/-- A barrier that an arrival or an exit has completed: a checkpoint waits for the team's matrix operations. -/
def settle (team squad : Nat) (s : State) : Op Unit := do
  readyIf (!(ckDue s team && ckBusy s team))
  set (settleSquad squad (settleTeam team s))

end Sys2Proof.Machine
end

