-- ==== Sys2Proof/Machine/LeadMem.lean ====
section
/-! DEFINITION. Scalar loads and stores (spec/03_lead.md R104 to R107), lead atomics, fences and WATCH
(spec/08_ordering.md R241 to R256). -/

namespace Sys2Proof.Machine

open Sys2Proof

/-- The effective address of F-M (R104): the base register plus size times the offset. -/
def leadAddr (z : BitVec 2) (a : Reg) (off : Word) : Op Word := return (← reg a) + BitVec.ofNat 64 (2 ^ z.toNat) * off

/-- A release part takes effect unless a transaction gives the order (R275). -/
def leadBefore (o : Nat × Nat) : Op Unit := do
  if (← get).me.tx.active then pure () else before o.1 o.2

/-- What order sc asks before a read and after a write, unless a transaction gives the order (R241, R275). -/
def leadSc (o : Nat × Nat) : Op Unit := do
  if (← get).me.tx.active then pure () else scDone o.1 o.2

/-- A load of 2^z bytes (R104). -/
def leadLoad (z : BitVec 2) (signed : Bool) (d a : Reg) (off : Word) : State → Result := runLead do
  let ea ← leadAddr z a off
  let n := 2 ^ z.toNat
  let o ← ordOf
  let t ← leadCheck ea n Need.read
  leadSc o
  let x ← leadRead ea t n
  setReg d (if signed then BitVec.ofInt 64 (sextN (8 * n) x) else BitVec.ofNat 64 x)

/-- A store of 2^z bytes (R104). -/
def leadStore (z : BitVec 2) (d a : Reg) (off : Word) : State → Result := runLead do
  let ea ← leadAddr z a off
  let n := 2 ^ z.toNat
  let o ← ordOf
  let x ← reg d
  let t ← leadCheck ea n Need.write
  leadBefore o
  leadWrite ea t (leBytes n x.toNat)
  leadSc o

/-- An atomic (R248): `f old operand compare`, on 8 or 4 bytes; `ext` extends a 4-byte old value. -/
def leadAtomicForm (w4 : Bool) (d a b : Reg) (f : Nat → Nat → Nat → Nat → Nat) (ext : Nat → Int) : State → Result := runLead do
  let z := if w4 then 4 else 8
  let ea ← reg a
  let o ← ordOf
  let c := (← reg d).toNat % 2 ^ (8 * z)
  let y := (← reg b).toNat % 2 ^ (8 * z)
  let t ← leadCheck ea z Need.both
  leadBefore o
  let old ← leadAtomic ea t z fun x => f (8 * z) x y c
  let plain := !(← get).me.tx.active
  if plain then modify markDirty else pure ()
  setReg d (if w4 then BitVec.ofInt 64 (ext old) else BitVec.ofNat 64 old)

/-- The old 4-byte value sign-extended (R248). -/
def extSigned (x : Nat) : Int := sextN 32 x

/-- The old 4-byte value zero-extended (R248). -/
def extZero (x : Nat) : Int := (x : Nat)

/-- The floating-point sum of an atomic (R247): FP64 or FP32, rne. -/
def atomicFadd (n x y : Nat) : Nat :=
  let f := if n = 64 then Fmt.f64 else Fmt.f32
  f.encode 0 ((f.decode x).add 0 (f.decode y))

/-- A fence (R253): its release part performs what precedes it, with the issuer's ticketed loads (R231); its acquire part
needs nothing, since reads perform in program order. -/
def fenceState (scope order : Nat) (s : State) : State := if hasRelease order then releaseState scope s else s

/-- An accepted write of the runner in focus that goes to a target beyond the package: CXL memory, or memory of another
package (R254). -/
def goesOut (s : State) (w : PWrite) : Bool :=
  w.who == s.me.id && (poolOf w.addr == .cxl || packageOf w.addr != s.pkg.toNat)

/-- FENCE.sys (R254): the agent's writes to windows and registers beyond the package have been accepted. -/
def outboundIdle (s : State) : Bool := !outBusy s s.me.id

/-- What FENCE.sys waits for, whatever its order (R254). -/
def sysReady (order : Nat) : Op Unit := do
  let s ← get
  readyIf (outboundIdle s)
  readyIf (!arriveLocked s (goesOut s))
  releaseReady 7 order

/-- FENCE.sys (R253, R254). -/
def sysFence (order : Nat) (s : State) : State := arriveAll (fenceState 7 order s) (goesOut s)

/-- LD (R104). -/
def execLd (z : BitVec 2) (d a : Reg) (o : BitVec 10) : State → Result :=
  leadLoad z true d a (o.signExtend 64)

/-- LD, long form (R104). -/
def execLdLong (z : BitVec 2) (d a : Reg) (o : BitVec 39) : State → Result :=
  leadLoad z true d a (o.signExtend 64)

/-- LD, zero-extending (R104). -/
def execLdN (z : BitVec 2) (d a : Reg) (o : BitVec 10) : State → Result :=
  leadLoad z false d a (o.signExtend 64)

/-- LD, zero-extending, long form (R104). -/
def execLdNLong (z : BitVec 2) (d a : Reg) (o : BitVec 39) : State → Result :=
  leadLoad z false d a (o.signExtend 64)

/-- ST (R104). -/
def execSt (z : BitVec 2) (d a : Reg) (o : BitVec 10) : State → Result :=
  leadStore z d a (o.signExtend 64)

/-- ST, long form (R104). -/
def execStLong (z : BitVec 2) (d a : Reg) (o : BitVec 39) : State → Result :=
  leadStore z d a (o.signExtend 64)

/-- AADD (R247, R248). -/
def execAadd (w4 : Bool) (d a b : Reg) : State → Result :=
  leadAtomicForm w4 d a b (fun n x y _ => (x + y) % 2 ^ n) extSigned

/-- ASUB (R247, R248). -/
def execAsub (w4 : Bool) (d a b : Reg) : State → Result :=
  leadAtomicForm w4 d a b (fun n x y _ => (x + 2 ^ n - y) % 2 ^ n) extSigned

/-- AMIN (R247, R248). -/
def execAmin (w4 : Bool) (d a b : Reg) : State → Result :=
  leadAtomicForm w4 d a b (fun n x y _ => if sextN n x ≤ sextN n y then x else y) extSigned

/-- AMAX (R247, R248). -/
def execAmax (w4 : Bool) (d a b : Reg) : State → Result :=
  leadAtomicForm w4 d a b (fun n x y _ => if sextN n y ≤ sextN n x then x else y) extSigned

/-- AMINN (R247, R248). -/
def execAminn (w4 : Bool) (d a b : Reg) : State → Result :=
  leadAtomicForm w4 d a b (fun _ x y _ => min x y) extZero

/-- AMAXN (R247, R248). -/
def execAmaxn (w4 : Bool) (d a b : Reg) : State → Result :=
  leadAtomicForm w4 d a b (fun _ x y _ => max x y) extZero

/-- AAND (R247, R248). -/
def execAand (w4 : Bool) (d a b : Reg) : State → Result :=
  leadAtomicForm w4 d a b (fun _ x y _ => x &&& y) extSigned

/-- AOR (R247, R248). -/
def execAor (w4 : Bool) (d a b : Reg) : State → Result :=
  leadAtomicForm w4 d a b (fun _ x y _ => x ||| y) extSigned

/-- AXOR (R247, R248). -/
def execAxor (w4 : Bool) (d a b : Reg) : State → Result :=
  leadAtomicForm w4 d a b (fun _ x y _ => x ^^^ y) extSigned

/-- AXCHG (R247, R248). -/
def execAxchg (w4 : Bool) (d a b : Reg) : State → Result :=
  leadAtomicForm w4 d a b (fun _ _ y _ => y) extSigned

/-- AFADD (R247, R248). -/
def execAfadd (w4 : Bool) (d a b : Reg) : State → Result :=
  leadAtomicForm w4 d a b (fun n x y _ => atomicFadd n x y) extZero

/-- ACAS (R247, R248). -/
def execAcas (w4 : Bool) (d a b : Reg) : State → Result :=
  leadAtomicForm w4 d a b (fun _ x y c => if x = c then y else x) extSigned

/-- FENCE (R253). -/
def execFence (sc o : BitVec 3) : State → Result := runLead do
  notInTx
  releaseReady sc.toNat o.toNat
  modify (fenceState sc.toNat o.toNat)

/-- FENCE.sys (R254). -/
def execFenceSys (o : BitVec 3) : State → Result := runLead do
  notInTx
  sysReady o.toNat
  modify (sysFence o.toNat)

/-- Writes landed through a stream window that have reached their port and are not performed (R487). -/
def windowBusy (s : State) (n : Nat) : Bool := s.landed.any fun w => w.window == n

/-- FENCE.sys with a window (R254, R487): it waits as well until every write that has reached its port through the window is
performed. -/
def execFenceSysWin (n : BitVec 6) (o : BitVec 3) : State → Result := runLead do
  notInTx
  readyIf (!windowBusy (← get) n.toNat)
  sysReady o.toNat
  modify (sysFence o.toNat)

/-- WATCH (R256): the word is read, after what its order asks (R241); equal to s[b], the instruction waits and reads again
after WATCH_WAKE, the answer of a target outside spent. -/
def execWatch (d a b : Reg) : State → Result := runLead do
  notInTx
  let ea ← reg a
  let o ← ordOf
  let t ← leadCheck ea 8 Need.read
  scDone o.1 o.2
  let v ← leadRead ea t 8
  if BitVec.ofNat 64 v = (← reg b) then
    throw (.park fun s => outSpend s.me.id (.instr false) { s with me := { s.me with wait := .watch } })
  else setReg d (BitVec.ofNat 64 v)

/-- WATCH_WAKE (R256): a waiting WATCH reads its word again. -/
def execWatchWake (who : RunnerId) (s : State) : Result :=
  .next (s.onRunner who fun r => { r with wait := if r.wait = .watch then .none else r.wait })

end Sys2Proof.Machine
end

