-- ==== Sys2Proof/Machine/Keys.lean ====
section
/-! DEFINITION. Key pages, their summaries, and the usher instructions (spec/14_attention.md R377 to R396), with the
completion of engine operations (spec/08_ordering.md R246). -/

namespace Sys2Proof.Machine

open Sys2Proof

/-! ## Slices and marks (R378) -/

/-- The mark of a block. -/
def page? (s : State) (block : Nat) : Option KPage := s.pages.find? fun p => p.block == block

/-- The partition that a mark counts against (R46, R378): of the hall of an HBM4 stack; the issuer's on H. -/
def markPart (s : State) (pa issuer : Nat) : Nat :=
  if poolOf pa = .hbm then ((s.parts.find? fun p => p.halls.contains (usherAt pa / 64)).map (·.no)).getD issuer else issuer

/-- Marks that a partition may hold at a slice (R378): 8192 in HBM4, a share on H. -/
def markLimit (s : State) (pa part : Nat) : Nat := if poolOf pa = .hbm then 8192 else (shareOf 8192 (cloakParts s 3) part).2

/-- Marks that a partition holds at the slice of an address. -/
def markCount (s : State) (pa part : Nat) : Nat :=
  (s.pages.filter fun p => usherAt (p.block * 16384) == usherAt pa && p.part == part).length

/-- Every channel open (R381). -/
def openSummary : Vector (BitVec 16 × BitVec 16) 128 := Vector.replicate 128 openPair

/-- The pair of an element's value: one value, or open for a NaN (R380). -/
def pairOf (v : Nat) : BitVec 16 × BitVec 16 :=
  if (Fmt.bf16.decode v).isNan then openPair else (BitVec.ofNat 16 v, BitVec.ofNat 16 v)

/-- The summary of a page as its bytes stand (R379, R381). Elements in a poisoned unit open their channel. -/
def summarize (s : State) (fmt key block : Nat) : Vector (BitVec 16 × BitVec 16) 128 :=
  let z := keyElemSize fmt
  let bs := homeRead s key (block * 16384) 16384
  let els := wordsOf z (16384 / z) bs
  let poisonedAt (k : Nat) : Bool := s.poison.contains ((block * 16384 + k * z) / 8)
  Vector.ofFn fun c : Fin 128 =>
    (List.range (128 / z - 1)).foldl
      (fun p t =>
        let k := 128 * (t + 1) + c.val
        if poisonedAt k then openPair else widenPair p (keyElem fmt (els.getD k 0)))
      (if poisonedAt c.val then openPair else pairOf (keyElem fmt (els.getD c.val 0)))

/-- The 512 bytes of a summary (R379). -/
def summaryBytes (sum : Vector (BitVec 16 × BitVec 16) 128) : List Byte :=
  sum.toList.flatMap fun p => leBytes 2 p.1.toNat ++ leBytes 2 p.2.toNat

/-! ## Issue (R384) -/

/-- Operations that an usher queues. -/
def usherLoad (s : State) (u : Nat) : Nat := (s.ops.filter fun o => o.porter.isNone && o.usher == u).length

/-- Table and queue ready, then all at once (R384, R387). -/
def issueUsher (u : Nat) (p : Plan) : Op Unit := do
  let s ← get
  readyIf (canIssue s p)
  readyIf (usherLoad s u < 16)
  modify (queueOp none u p)

/-- Everything of a lead usher form before its own checks (R383, R384), and then those. -/
def usherBody (v : Bool) (x : BitVec 3) (m : Copier → Op Unit) : Op Unit := do
  needCtx
  notInTx
  need ((← get).me.openOps.length < 64) 0x72 0
  m (← leadCopier (7, 0) v x)

/-- A lead usher form of any runner. -/
def usherForm (v : Bool) (x : BitVec 3) (m : Copier → Op Unit) : State → Result := runLead (usherBody v x m)

/-- The source range of whole portions, one for each (R387). -/
def pageRange (va : Word) (pa : Nat) : Word × Nat × Nat × Bool := (va, pa / 64 * 64, pa / 64 * 64 + 16384, false)

/-! ## KSUMM (R385) -/

/-- A page as KSUMM takes it (R385): its address is translated, and within a page of 16 KiB or more the rest of the block
goes with it. -/
def ksummPage (c : Copier) (a : Reg) : Op Portion := do
  let va ← c.operand (← reg a) 16384
  let s ← get
  let ps ← orTrap (c.portions s va 1 Need.read)
  keyCause s ps
  match ps with
  | [] => stopTrap 0x83 va
  | p :: _ => do
    need (!(poolOf p.t.pa).isMemory || packageOf p.t.pa == s.pkg.toNat) 0x27 va
    need (va.toNat % 16384 == 0 && p.t.pa % 16384 == 0 && !p.t.comp && decide (2 ≤ p.t.size)
      && (poolOf p.t.pa == .hbm || poolOf p.t.pa == .lpddr)) 0x83 va
    return { p with n := 16384 }

/-- A build of a block is queued, in a format, or 0 in the format held when it runs (R381). -/
def queueBuild (p : Portion) (fmt : Nat) : Op Unit := do
  let block := p.t.pa / 16384
  let key := (keyId (← get) p.t.key).getD 0
  issueUsher (usherAt p.t.pa) ⟨[], [p], [pageRange p.va p.t.pa], [], .build block fmt key⟩

/-- The block is marked in a format by an operation, or its format changes, which sets the old summary aside (R381,
R385). -/
def markPage (block op part fmt : Nat) (s : State) : State :=
  match page? s block with
  | none => { s with pages := ⟨block, op, part, fmt, openSummary, none⟩ :: s.pages }
  | some q =>
    if q.fmt = fmt then s
    else
      let f (q : KPage) : KPage := { q with build := op, fmt := fmt, sum := openSummary, next := none }
      { s with pages := mapIf (fun q => q.block == block) f s.pages }

/-- KSUMM in a format: 1 .bf16, 2 .e4m3, 3 .e5m2. -/
def ksummMark (fmt : Nat) (a : Reg) (v : Bool) (x : BitVec 3) : State → Result := usherForm v x fun c => do
  let p ← ksummPage c a
  let s ← get
  let block := p.t.pa / 16384
  let part := markPart s p.t.pa s.me.part
  need ((page? s block).isSome || decide (markCount s p.t.pa part < markLimit s p.t.pa part)) 0x85 p.va
  modify (markPage block (s.nextOp + 1) part fmt)
  queueBuild p fmt

/-- KSUMM.bf16 (R385). -/
def execKsummBf16 (a : Reg) (v : Bool) (x : BitVec 3) : State → Result := ksummMark 1 a v x

/-- KSUMM.e4m3 (R385). -/
def execKsummE4m3 (a : Reg) (v : Bool) (x : BitVec 3) : State → Result := ksummMark 2 a v x

/-- KSUMM.e5m2 (R385). -/
def execKsummE5m2 (a : Reg) (v : Bool) (x : BitVec 3) : State → Result := ksummMark 3 a v x

/-- The mark of a page that must have one (R385). -/
def markedPage (p : Portion) : Op KPage := do
  match page? (← get) (p.t.pa / 16384) with
  | some q => return q
  | none => stopTrap 0x83 p.va

/-- KSUMM.rebuild (R385). -/
def execKsummRebuild (a : Reg) (v : Bool) (x : BitVec 3) : State → Result := usherForm v x fun c => do
  let p ← ksummPage c a
  let _ ← markedPage p
  queueBuild p 0

/-- KSUMM.off (R385). -/
def execKsummOff (a : Reg) (v : Bool) (x : BitVec 3) : State → Result := usherForm v x fun c => do
  let p ← ksummPage c a
  issueUsher (usherAt p.t.pa) ⟨[], [p], [], [], .off (p.t.pa / 16384)⟩

/-- A destination of n bytes that an usher writes, a multiple of `al`. -/
def usherDst (c : Copier) (a : Word) (n al : Nat) : Op (List Portion) := do
  let s ← get
  let ps ← orTrap (c.portions s a n Need.write)
  keyCause s ps
  need (a.toNat % al == 0) 0x24 a
  return ps

/-- KSUMM.read (R385). -/
def execKsummRead (d a : Reg) (v : Bool) (x : BitVec 3) : State → Result := usherForm v x fun c => do
  let p ← ksummPage c a
  let q ← markedPage p
  let da ← c.operand (← reg d) 512
  let ds ← usherDst c da 512 64
  issueUsher (usherAt p.t.pa) ⟨ds, [p], sideRanges ds [], [], .read q.block (memLocs (← get) ds)⟩

/-! ## KBOUND (R386 to R390) -/

/-- The fields of a selection record (R386), the record as one number. -/
def selList (w : Nat) : Word := BitVec.ofNat 64 (bitsN w 447 384)
def selPages (w : Nat) : Word := BitVec.ofNat 64 (bitsN w 383 320)
def selQuery (w : Nat) : Word := BitVec.ofNat 64 (bitsN w 319 256)
def selCount (w : Nat) : Nat := bitsN w 207 192
def selCap (w : Nat) : Nat := bitsN w 191 176

/-- The record breaks R386, or its THRESH is a NaN (R387). -/
def selectBad (w : Nat) : Bool :=
  let mode := bitsN w 1 0
  let th := bitsN w 255 224
  let k := bitsN w 175 160
  bitsN w 511 448 % 16384 != 0 || bitsN w 447 384 % 64 != 0 || bitsN w 383 320 % 8 != 0 || bitsN w 319 256 % 64 != 0
    || bitsN w 223 208 != 0 || bitsN w 159 3 != 0 || decide (1 < mode)
    || selCount w == 0 || decide (256 < selCount w) || selCap w == 0 || decide (256 < selCap w)
    || (Fmt.f32.decode th).isNan
    || (if mode = 1 then th != 0 || k == 0 || decide (selCap w < k) else k != 0)

/-- The header of the list that KBOUND writes (R390), COUNT 0 and OVF 0 until the pages are chosen. -/
def listHeader (w : Nat) : Nat :=
  bitsN w 511 448 * 2 ^ 448 + bitsN w 1 0 * 2 ^ 128 + bitsN w 255 224 * 2 ^ 96 + selCount w * 2 ^ 64
    + selCap w * 2 ^ 16 + bitsN w 175 160

/-- One listed page (R387): its address and its portions. -/
def boundPage (c : Copier) (fmt : Option Nat) (va : Word) : Op (List Portion × Nat) := do
  need (va.toNat % 16384 == 0) 0x83 va
  let s ← get
  let ps ← orTrap (c.portions s va 1 Need.read)
  keyCause s ps
  match ps with
  | [] => stopTrap 0x83 va
  | p :: _ => do
    need (!(poolOf p.t.pa).isMemory || packageOf p.t.pa == s.pkg.toNat) 0x27 va
    need (p.t.pa % 16384 == 0) 0x83 va
    match page? s (p.t.pa / 16384) with
    | none => stopTrap 0x83 va
    | some q => do
      need (fmt.all fun f => f == q.fmt) 0x83 va
      return (ps, q.fmt)

/-- Listed pages in list order, each of the first one's format. -/
def boundPages (c : Copier) : Option Nat → List Word → Op (List (Word × List Portion))
  | _, [] => return []
  | fmt, va :: l => do
    let (ps, f) ← boundPage c fmt va
    return (va, ps) :: (← boundPages c (fmt.or (some f)) l)

/-- The block of a listed page. -/
def blockOf (ps : List Portion) : Nat := ((ps.head?.map fun p => p.t.pa / 16384)).getD 0

/-- A list on another package (R387). -/
def listHome (a : Word) (ps : List Portion) : Op Unit := do
  let s ← get
  need (!ps.any fun p => (poolOf p.t.pa).isMemory && packageOf p.t.pa != s.pkg.toNat) 0x27 a

/-- The usher of a list. -/
def listUsher (ps : List Portion) : Nat := usherAt ((ps.head?.map fun p => p.t.pa).getD 0)

/-- KBOUND (R387). -/
def execKbound (a : Reg) (v : Bool) (x : BitVec 3) : State → Result := usherForm v x fun c => do
  let ra ← c.operand (← reg a) 64
  let w := leNat (← c.load ra 64 64)
  need (!selectBad w) 0x84 ra
  let plain : Copier := { c with xb := none }
  let z := if bitN w 2 then 4 else 2
  let qs := wordsOf z 128 (← plain.load (selQuery w) (128 * z) 64)
  let query := qs.map fun q => BitVec.ofNat 32 (if z = 4 then q else q * 65536)
  let vas := (wordsOf 8 (selCount w) (← plain.load (selPages w) (8 * selCount w) 8)).map (BitVec.ofNat 64)
  let pages ← boundPages plain none vas
  let ds ← usherDst plain (selList w) (64 + 16 * selCap w) 1
  listHome (selList w) ds
  let src := pages.flatMap (·.2)
  let ranges := sideRanges ds [] ++ pages.map fun p => pageRange p.1 (blockOf p.2 * 16384)
  let marks := pages.map fun p => (p.1, blockOf p.2)
  issueUsher (listUsher ds) ⟨ds, src, ranges, [], .bound (leBytes 64 (listHeader w)) query marks [] (memLocs (← get) ds)⟩
  c.spend

/-- The term of a channel (R388): none stands for +∞. -/
def boundTerm (q : FVal) (p : BitVec 16 × BitVec 16) : Option FVal :=
  match q with
  | .fin _ 0 _ => some (.fin false 0 0)
  | .nan => none
  | q =>
    if p = openPair then none
    else
      let lo := q.mul (Fmt.bf16.decode p.1.toNat)
      let hi := q.mul (Fmt.bf16.decode p.2.toNat)
      if lo.isNan || hi.isNan then none
      else
        let t := if lo.lt hi then hi else lo
        if t = .inf false then none else some t

/-- The bound of a page (R388), rounded toward +∞. -/
def boundOf (query : List W32) (sum : Vector (BitVec 16 × BitVec 16) 128) : W32 :=
  let ts := query.zipIdx.map fun p => boundTerm (Fmt.f32.decode p.1.toNat) (vget sum p.2)
  if ts.any (·.isNone) then BitVec.ofNat 32 Fmt.f32.infBits
  else BitVec.ofNat 32 (Fmt.f32.encode 2 ((ts.filterMap id).foldl (fun acc t => acc.add 0 t) (.fin false 0 0)))

/-- USHER_BOUND (R388): the k-th listed page is bounded with the summary in force; a block unmarked by a reset counts as
open. -/
def execUsherBound (op k : Nat) (s : State) : Result :=
  let f (o : EngOp) : EngOp :=
    match o.kind with
    | .bound h q pages done dst =>
      match pages[k]? with
      | some p =>
        if done.any fun d => d.1 == k then o
        else { o with kind := .bound h q pages (done ++ [(k, boundOf q (((page? s p.2).map (·.sum)).getD openSummary))]) dst }
      | none => o
    | _ => o
  .next { s with ops := mapIf (fun o => o.no == op) f s.ops }

/-! ## Lists (R389, R390, R394) -/

/-- An entry of a gather list: position, bound, page; `bad` where its bytes came from a poisoned unit. -/
structure ListEntry where
  idx : Nat
  bound : Nat
  page : Nat
  bad : Bool

/-- Insert so that `before` holds between neighbours; an equal entry stays behind those already there. -/
def insertWith (before : α → α → Bool) (x : α) : List α → List α
  | [] => [x]
  | y :: l => if before x y then x :: y :: l else y :: insertWith before x l

/-- A list in an order, stably. -/
def sortWith (before : α → α → Bool) (l : List α) : List α := l.foldl (fun acc x => insertWith before x acc) []

/-- The order of mode 1 (R389): descending bound, then ascending position. -/
def listBefore (x y : ListEntry) : Bool :=
  let b := (Fmt.f32.decode x.bound)
  let c := (Fmt.f32.decode y.bound)
  c.lt b || (!b.lt c && decide (x.idx < y.idx))

/-- The entries chosen of all that were bounded, by the header's mode, THRESH and K (R389). -/
def chosen (header : Nat) (l : List ListEntry) : List ListEntry :=
  if bitsN header 129 128 = 1 then (sortWith listBefore l).take (bitsN header 15 0)
  else l.filter fun e => (Fmt.f32.decode (bitsN header 127 96)).le (Fmt.f32.decode e.bound)

/-- An entry's 16 bytes (R390). -/
def ListEntry.bytes (e : ListEntry) : List Byte := leBytes 8 e.page ++ leBytes 4 e.bound ++ leBytes 4 e.idx

/-- The whole list's bytes, with those that come from poisoned units, for a header without COUNT and OVF. -/
def listBytes (header : Nat) (count : Nat) (ovf : Bool) (es : List ListEntry) : List (Byte × Bool) :=
  let h := header + (if ovf then 2 ^ 130 else 0) + count % 2 ^ 32 * 2 ^ 32
  ((leBytes 64 h).map fun b => (b, false)) ++ (es.take (bitsN header 31 16)).flatMap fun e => e.bytes.map fun b => (b, e.bad)

/-- Bytes laid over places, the empty pieces left out. -/
def spreadBytes : List (Loc × Nat) → List α → List (Loc × List α)
  | [], _ => []
  | (x, n) :: l, bs => if (bs.take n).isEmpty then spreadBytes l (bs.drop n) else (x, bs.take n) :: spreadBytes l (bs.drop n)

/-- Bytes written over places as a copy writes (R245, R312). -/
def writeLocs (o : EngOp) (dst : List (Loc × Nat)) (bs : List (Byte × Bool)) (s : State) : State :=
  let ps := spreadBytes dst bs
  let bad := (ps.flatMap fun p => (p.2.zipIdx.filter (·.1.2)).map fun q => (p.1.plus q.2).unit 8).eraseDups
  poisonUnits bad (ps.foldl (fun s p => locWrite o bad p.1 (p.2.map (·.1)) s) s)

/-- The bytes of places with whether each comes from a poisoned unit, and the first such unit. -/
def readLocs (s : State) (o : EngOp) (l : List (Loc × Nat)) : List (Byte × Bool) × Option Word :=
  (l.flatMap fun p =>
    let bad := srcBad s o p.2 (.loc p.1)
    (srcBytes s o p.2 (.loc p.1)).zipIdx.map fun b => (b.1, bad.contains b.2),
   l.findSome? fun p => srcHit s o p.2 (.loc p.1))

/-- What the reads of places do. -/
def touchLocs (l : List (Loc × Nat)) (s : State) : State := l.foldl (fun s p => srcTouch p.2 (.loc p.1) s) s

/-- Places cut after n bytes. -/
def cutLocs : Nat → List (Loc × Nat) → List (Loc × Nat) × List (Loc × Nat)
  | _, [] => ([], [])
  | n, (x, k) :: l =>
    if n = 0 then ([], (x, k) :: l)
    else if n < k then ([(x, n)], (x.plus n, k - n) :: l)
    else let r := cutLocs (n - k) l; ((x, k) :: r.1, r.2)

/-- The entries of a list in memory past its header. -/
def readEntries (n : Nat) (bs : List (Byte × Bool)) : List ListEntry :=
  (chunks 16 n bs).map fun c =>
    let v := leNat (c.map (·.1))
    ⟨bitsN v 127 96, bitsN v 95 64, bitsN v 63 0, c.any (·.2)⟩

/-- The list of a KBOUND whose pages are all bounded (R389, R390). -/
def boundList (h : List Byte) (pages : List (Word × Nat)) (done : List (Nat × W32)) : List (Byte × Bool) :=
  let header := leNat h
  let all := pages.zipIdx.map fun p =>
    (⟨p.2, (((done.find? fun d => d.1 == p.2).map (·.2)).getD 0 : W32).toNat, p.1.1.toNat, false⟩ : ListEntry)
  let es := chosen header all
  listBytes header es.length (bitsN header 129 128 == 0 && decide (bitsN header 31 16 < es.length)) es

/-- The fields of a list header. -/
def headN (h : Nat) : Nat := bitsN h 95 64
def headCount (h : Nat) : Nat := bitsN h 63 32
def headCap (h : Nat) : Nat := bitsN h 31 16
def headMode (h : Nat) : Nat := bitsN h 129 128

/-- Entries that a list holds (R390). -/
def headHeld (h : Nat) : Nat := min (headCount h) (headCap h)

/-- The merge of two lists (R394). -/
def mergeLists (ha hb : Nat) (a b : List ListEntry) : List (Byte × Bool) :=
  let b' := b.map fun e => { e with idx := (e.idx + headN ha) % 2 ^ 32 }
  let n := (headN ha + headN hb) % 2 ^ 32
  let header := bitsN ha 511 448 * 2 ^ 448 + headMode ha * 2 ^ 128 + bitsN ha 127 96 * 2 ^ 96 + n * 2 ^ 64
    + headCap ha * 2 ^ 16 + bitsN ha 15 0
  if headMode ha = 1 then
    let es := (sortWith listBefore (a ++ b')).take (min (bitsN ha 15 0) n)
    listBytes header es.length false es
  else
    let count := headCount ha + headCount hb
    listBytes header count (bitN ha 130 || bitN hb 130 || decide (headCap ha < count)) (a ++ b')

/-- A header breaks R390's layout. -/
def headBad (h : Nat) : Bool := bitsN h 447 131 != 0

/-- KLIST (R394). -/
def execKlist (d a b : Reg) (v : Bool) (x : BitVec 3) : State → Result := usherForm v x fun c => do
  let aa ← c.operand (← reg a) 64
  let ba ← c.operand (← reg b) 64
  let ha := leNat (← c.load aa 64 64)
  let hb := leNat (← c.load ba 64 64)
  need (!headBad ha) 0x84 aa
  need (!headBad hb && headMode ha == headMode hb && (headMode ha != 0 || bitsN ha 127 96 == bitsN hb 127 96)) 0x84 ba
  let n := 64 + 16 * headCap ha
  let da ← c.operand (← reg d) n
  let aa ← c.operand (← reg a) (64 + 16 * headHeld ha)
  let ba ← c.operand (← reg b) (64 + 16 * headHeld hb)
  let s ← get
  let as ← orTrap (c.portions s aa (64 + 16 * headHeld ha) Need.read)
  let bs ← orTrap (c.portions s ba (64 + 16 * headHeld hb) Need.read)
  keyCause s (as ++ bs)
  let ds ← usherDst c da n 64
  listHome da ds
  need (!ds.any fun p => (as ++ bs).any fun q => meets p.t.pa p.n q.t.pa q.n) 0x84 da
  issueUsher (listUsher ds)
    ⟨ds, as ++ bs, sideRanges ds as ++ sideRanges [] bs, [],
      .list (leBytes 64 ha) (leBytes 64 hb) (memLocs s as) (memLocs s bs) (memLocs s ds)⟩
  c.spend

/-! ## KFETCH (R391 to R393) -/

/-- The listed pages that KFETCH takes, each checked (R392). -/
def fetchPages (c : Copier) (vals : Bool) (delta : Nat) : List ListEntry → Op (List (Word × List Portion))
  | [] => return []
  | e :: l => do
    let va := BitVec.ofNat 64 (e.page + if vals then delta else 0)
    need (va.toNat % 16384 == 0) 0x84 (BitVec.ofNat 64 e.page)
    let s ← get
    let ps ← orTrap (c.portions s va 16384 Need.read)
    keyCause s ps
    return (va, ps) :: (← fetchPages c vals delta l)

/-- KFETCH (R392). -/
def execKfetch (d a b : Reg) (v : Bool) (x : BitVec 3) : State → Result := runLead do
  needGroup
  usherBody v x fun c => do
    let w ← reg b
    let first := slice w 15 0
    let cnt := slice w 31 16
    need (slice w 63 37 == 0 && decide (slice w 33 32 < 2) && cnt != 0 && decide (cnt ≤ 256)) 0x84 w
    let la ← c.operand (← reg a) 64
    let h := leNat (← c.load la 64 64)
    need (!headBad h && decide (first + cnt ≤ headHeld h)) 0x84 la
    let plain : Copier := { c with xb := none }
    let ea ← c.operand ((← reg a) + BitVec.ofNat 64 (64 + 16 * first)) (16 * cnt)
    let es := readEntries cnt ((← c.load ea (16 * cnt) 16).map fun b => (b, false))
    let vals := w.getLsbD 32
    let e8 := w.getLsbD 36
    let frag := w.getLsbD 35
    let pages ← fetchPages plain vals (bitsN h 511 448) es
    let da ← reg d
    let span := 16384 * (cnt + if frag && !e8 && !vals && cnt % 2 == 1 then 1 else 0)
    need (da.toNat % 256 == 0) 0x24 da
    let (t, o) ← scratchSide (if w.getLsbD 34 then 2 else 1) da span
    let s ← get
    let p : Plan :=
      ⟨[], pages.flatMap (·.2), pages.flatMap (fun p => sideRanges [] p.2), [landRange t o span true],
        .fetch e8 frag vals cnt (pages.flatMap fun p => memLocs s p.2) [] (.land t.uid o t.modes)⟩
    readyIf (canIssue s p)
    let k := pickPorter s
    readyIf (porterLoad s k < 32)
    modify (queueOp (some k) 0 p)
    c.spend

/-- The byte of the fetched tokens that stands at byte z of a matrix image's destination (R393): none for 0. `e` is the
element width. -/
def imageSource (e : Nat) (vals : Bool) (cnt z : Nat) : Option (Nat × Nat) :=
  let r := 32 * e
  let img := 128 * r
  let m := z / img
  let y := z % img
  let j := 4 * (y / 512) + y % 16 / 4
  let x := 128 * j + 4 * (y % 512 / 16) + y % 4
  let n := x / r
  let k := x % r / e
  let by_ := x % e
  let tokens := 128 / e
  let u := if vals then 32 * m + k else 128 * (m / 4) + n
  let ch := if vals then n else 32 * (m % 4) + k
  if u < cnt * tokens then some (u / tokens, u % tokens * 128 * e + ch * e + by_) else none

/-- The bytes that KFETCH writes, in order from its destination (R392, R393). -/
def fetchBytes (e8 frag vals : Bool) (pages : List (List (Byte × Bool))) : List (Byte × Bool) :=
  if frag then
    let n := 16384 * (pages.length + if !e8 && !vals && pages.length % 2 == 1 then 1 else 0)
    let arr := pages.map List.toArray
    (List.range n).map fun z =>
      match imageSource (if e8 then 1 else 2) vals pages.length z with
      | some (i, k) => (arr.getD i #[]).getD k (0, false)
      | none => (0, false)
  else pages.flatten

/-! ## Completion (R246) -/

/-- No earlier operation of its usher stands before it (R384: run in order). -/
def usherFirst (s : State) (o : EngOp) : Bool :=
  !s.ops.any fun p => p.porter.isNone && p.usher == o.usher && decide (p.no < o.no)

/-- An operation lists a block. -/
def EngOp.lists (block : Nat) (o : EngOp) : Bool :=
  match o.kind with
  | .build b _ _ => b == block
  | .read b _ => b == block
  | .bound _ _ pages _ _ => pages.any fun q => q.2 == block
  | _ => false

/-- An operation that its usher has queued behind another. -/
def EngOp.behind (q p : EngOp) : Bool := p.porter.isNone && p.usher == q.usher && decide (q.no < p.no)

/-- The block that a KSUMM.off unmarks. -/
def EngOp.unmarks (o : EngOp) : Option Nat :=
  match o.kind with
  | .off b => some b
  | _ => none

/-- Another usher operation that lists the block is in flight (R385, .off). One issued later does not count while it stands
behind a KSUMM.off that waits in its turn, this one or one that waits for an operation of its own. -/
def blockListed (s : State) (o : EngOp) (block : Nat) : Bool :=
  let blocked (q : EngOp) : Bool :=
    q.no == o.no || q.unmarks.any fun b => s.ops.any fun p => p.no != q.no && !q.behind p && p.lists b
  s.ops.any fun p =>
    p.no != o.no && p.lists block
      && (decide (p.no < o.no) || !s.ops.any fun q => q.unmarks.isSome && q.behind p && blocked q)

/-- The last change of a block's format that its usher has queued behind operation n: the number of the first KSUMM that
names the format, and the format. -/
def laterMark (s : State) (n block : Nat) : Option (Nat × Nat) :=
  s.ops.foldl (fun acc p =>
    match p.kind with
    | .build b fmt _ => if n < p.no ∧ b = block ∧ fmt ≠ 0 ∧ acc.all (fun x => x.2 != fmt) then some (p.no, fmt) else acc
    | _ => acc) none

/-- The build of a block has started (R381): the slice gathers what it reads. -/
def gathering (s : State) (block : Nat) : Bool := (page? s block).any fun q => q.next.isSome

/-- A build starts: what it gathers holds every element as it stands, and widens from now on (R381). -/
def startBuild (op block key : Nat) (s : State) : State :=
  if gathering s block then s
  else
    srcTouch 16384 (.loc (.mem (block * 16384) key false)) { s with
      pages := mapIf (fun q => q.block == block && decide (q.build ≤ op))
        (fun q => { q with next := some (summarize s q.fmt key block) }) s.pages }

/-- A build ends (R381): it replaces the summary in one step; one that has not started before reads the page now; one issued
before the page was last marked, or its format changed, changes nothing. -/
def endBuild (op block key : Nat) (s : State) : State :=
  let t := { s with
    pages := mapIf (fun q => q.block == block && decide (q.build ≤ op))
      (fun q => { q with sum := q.next.getD (summarize s q.fmt key block), next := none }) s.pages }
  if gathering s block then t else srcTouch 16384 (.loc (.mem (block * 16384) key false)) t

/-- A block is unmarked (R385); the KSUMMs in a format that its usher has queued behind mark it again. -/
def unmark (op block : Nat) (s : State) : State :=
  let rest := s.pages.filter fun q => q.block != block
  match laterMark s op block, page? s block with
  | some (n, fmt), some q => { s with pages := ⟨block, n, q.part, fmt, openSummary, none⟩ :: rest }
  | _, _ => { s with pages := rest }

/-- KSUMM_BUILD_COMPLETE (R381, R312). -/
def execKsummBuildComplete (op : Nat) (s : State) : Result :=
  match s.ops.find? fun o => o.no == op with
  | none => .next s
  | some o =>
    match o.kind with
    | .build block _ key =>
      if usherFirst s o then
        let first := ((unitsOf (block * 16384) 16384).find? fun u => s.poison.contains u).map fun u => BitVec.ofNat 64 (u * 8)
        .next (closeOp o first (endBuild op block key s))
      else .next s
    | _ => .next s

/-- GATHER_LIST_MERGE (R389, R390, R394): with every page bounded, or the sources of a KLIST, the list is written and the
operation is complete. -/
def execGatherListMerge (op : Nat) (s : State) : Result :=
  match s.ops.find? fun o => o.no == op with
  | none => .next s
  | some o =>
    match o.kind with
    | .bound h _ pages done dst =>
      if usherFirst s o && done.length == pages.length && placesReady s o dst then
        .next (closeOp o none (writeLocs o dst (boundList h pages done) s))
      else .next s
    | .list ha hb a b dst =>
      if !usherFirst s o || !placesReady s o dst then .next s
      else if !sourcesReady s o (a ++ b) then .next (askSources o (a ++ b) s)
      else
        let ra := readLocs s o a
        let rb := readLocs s o b
        let bs := mergeLists (leNat ha) (leNat hb) (readEntries (headHeld (leNat ha)) (ra.1.drop 64))
          (readEntries (headHeld (leNat hb)) (rb.1.drop 64))
        .next (closeOp o (ra.2.or rb.2) (writeLocs o dst bs (touchLocs (a ++ b) s)))
    | _ => .next s

/-- The pages that KFETCH has read, whole. -/
def fetchAll (e8 frag vals : Bool) (cnt : Nat) (got : List (Byte × Bool)) : List (Byte × Bool) :=
  fetchBytes e8 frag vals (chunks 16384 cnt got)

/-- COPY_COMPLETE (R246, R302 to R308, R385, R392): an operation that has started does what is left of its work, marks its
batch where it consumed an error, and leaves. -/
def execCopyComplete (op : Nat) (s : State) : Result :=
  match s.ops.find? fun o => o.no == op && o.started with
  | none => .next s
  | some o =>
    match o.kind with
    | .copy ms raw =>
      if movesReady s o raw ms then let r := doMoves o raw ms s; .next (closeOp o r.2 r.1)
      else .next (askSources o (movesSrc ms) s)
    | .fetch e8 frag vals cnt src got dst =>
      if sourcesReady s o src then
        let r := readLocs s o src
        let bs := fetchAll e8 frag vals cnt (got ++ r.1)
        .next (closeOp o r.2 (writeLocs o [(dst, bs.length)] bs (touchLocs src s)))
      else .next (askSources o src s)
    | .off block =>
      if usherFirst s o && !blockListed s o block then .next (closeOp o none (unmark op block s)) else .next s
    | .read block dst =>
      if usherFirst s o && placesReady s o dst then
        let bs := summaryBytes (((page? s block).map (·.sum)).getD openSummary)
        .next (closeOp o none (writeLocs o dst (bs.map fun b => (b, false)) s))
      else .next s
    | _ => .next s

/-- Some units of an operation's work are done before the rest (R245, R312): of a copy, n bytes past the next `skip`; of a
KFETCH, the next n bytes that it reads; a build whose turn it is starts (R381). -/
def workSome (op skip n : Nat) (s : State) : State :=
  match s.ops.find? fun o => o.no == op && o.started with
  | none => s
  | some o =>
    let put (k : EKind) (hit : Option Word) (t : State) : State :=
      { t with ops := mapIf (fun x => x.no == op) (fun x => { x with kind := k, hit := x.hit.or hit }) t.ops }
    match o.kind with
    | .copy ms raw =>
      let a := cutMoves (unitOf raw) skip none ms
      let b := cutMoves (unitOf raw) n none a.2
      if movesReady s o raw b.1 then
        let rest := (fixMoves s o b.1 (a.1 ++ b.2)).filter fun m => m.len != 0
        let r := doMoves o raw b.1 s
        put (.copy (rest ++ stubsOf o.kind) raw) r.2 r.1
      else askSources o (movesSrc b.1) s
    | .fetch e8 frag vals cnt src got dst =>
      let p := cutLocs ((n + 7) / 8 * 8) src
      if sourcesReady s o p.1 then
        let r := readLocs s o p.1
        put (.fetch e8 frag vals cnt p.2 (got ++ r.1) dst) r.2 (touchLocs p.1 s)
      else askSources o p.1 s
    | .build block _ key => if usherFirst s o then startBuild op block key s else s
    | _ => s

end Sys2Proof.Machine
end

