-- ==== Sys2Proof/Machine/LeadCtl.lean ====
section
/-! DEFINITION. Handing work to the lanes, translation registers and operand streams (spec/03_lead.md R108 to R122). -/

namespace Sys2Proof.Machine

open Sys2Proof

/-! ## Runs and waits -/

/-- Runs that the queue in use holds (R108, R434). -/
def runQueueSize (r : Runner) : Nat := if r.inTrap then 4 else 16

/-- LRUN (R108, R109): the run takes copies of xb0 to xb7 and MFB. -/
def execLrun (t : BitVec 22) : State → Result := runLead do
  needGroup
  notInTx
  let r ← getMe
  readyIf (r.l.run.runs.length < runQueueSize r)
  onMe fun r => { r with l := { r.l with run := { r.l.run with runs := r.l.run.runs ++ [⟨t.toNat, r.xb, r.l.mfb⟩] } } }

/-- A matrix operation that a lane instruction issued (R111). -/
def MKind.fromLane : MKind → Bool
  | .mma .. | .accrd .. | .accwr .. => true
  | _ => false

/-- No matrix operation and no redemption that the runs in use issued is outstanding (R111, D = 1): in a handler, those of
its own runs count alone (R434). -/
def laneOpsDone (s : State) : Bool :=
  !(s.mops.any fun m => m.who == s.me.id && m.kind.fromLane && m.handler == s.me.inTrap)
    && !s.cloaks.any fun e =>
      match e.take with
      | some (w, .laneReg h _ _ _) | some (w, .laneLand h _ _ _ _ _) => w == s.me.id && h == s.me.inTrap
      | _ => false

/-- LWAIT may end (R111). -/
def waitOver (drain : Bool) (mask : BitVec 12) (s : State) : Bool :=
  ((mask == 0 && !drain) || s.me.l.run.runs.isEmpty)
    && ((List.range 12).all fun k => !mask.getLsbD k || vget s.me.l.w k == 0)
    && (!drain || laneOpsDone s)

/-- What a wait with D = 1 leaves: the lanes' stores have been performed at their scope. -/
def drainLanes (s : State) : State := arriveAll s fun w => w.who == s.me.id && w.lane

/-- The lanes' stores can be performed: none waits for the holder of the fallback lock (R288), and targets beyond the package
have accepted theirs (R482). -/
def lanesIdle (s : State) : Bool :=
  !(arriveLocked s fun w => w.who == s.me.id && w.lane)
    && !s.outb.any fun o => o.who == s.me.id && o.wr && o.ask == .instr true

/-- Wait as LWAIT does with D = 1 (R111, R412, R435). -/
def waitDrained : Op Unit := do
  readyIf (waitOver true 0 (← get) && lanesIdle (← get))
  modify drainLanes

/-- LWAIT (R111). -/
def execLwait (g : Bool) (m : BitVec 12) : State → Result := runLead do
  needGroup
  notInTx
  readyIf (waitOver g m (← get) && (!g || lanesIdle (← get)))
  if g then modify drainLanes else pure ()

/-! ## Translation registers -/

/-- A translation register set from a translation of its base (R112). -/
def Xb.ofTr (ctx : Nat) (base lim : Word) (t : Tr) : Xb where
  ctx := ctx
  base := base
  limit := lim
  frame := BitVec.ofNat 64 t.pa
  span := BitVec.ofNat 40 (min lim.toNat (pageBytes t.size - base.toNat % pageBytes t.size))
  key := BitVec.ofNat 8 t.key
  psize := BitVec.ofNat 4 t.size
  v := true
  comp := t.comp
  sup := t.sup
  wr := t.wr
  rd := t.rd

/-- Write a translation register. -/
def setXb (n : BitVec 3) (x : Xb) : Op Unit := onMe fun r => { r with xb := vset r.xb n.toNat x }

/-- XBSET (R112): the walk marks no page. With a limit of 0 the fields that R112 does not name become 0 (log entry 94). -/
def execXbset (n : BitVec 3) (a b : Reg) : State → Result := runLead do
  let base ← reg a
  let lim ← reg b
  need (decide (base.toNat + lim.toNat ≤ 2 ^ 64)) 0x26 base
  if lim = 0 then setXb n { Xb.zero with base := base, v := true, ctx := (← get).me.ctx }
  else
    let s ← get
    match translate s s.me base with
    | .error c => stopTrap c base
    | .ok t => do
      need (!keyFault s t) 0x28 base
      modify fun s => if s.me.ctx = 0 then s else walkReads s s.me t.va
      setXb n (Xb.ofTr s.me.ctx base lim t)

/-- XBCLR (R112). -/
def execXbclr (n : BitVec 3) : State → Result := runLead (setXb n Xb.zero)

/-! ## Streams -/

/-- The gallery of the group in focus. -/
def myGallery (s : State) : Nat := s.me.core / 8

/-- The squad of the group in focus. -/
def mySquad (s : State) : Nat := ((myTeam s).map (·.squad)).getD 0

/-- A descriptor breaks a rule of R118 on its own fields. -/
def descBad (d : Vector Word 8) : Bool :=
  let used := streamDepth d
  vget d 7 != 0 || slice (vget d 1) 63 32 != 0 || slice (vget d 1) 23 16 != 0 || slice (vget d 1) 7 3 != 0
    || slice (vget d 0) 5 0 != 0
    || ((List.range 4).any fun k =>
         if k < used then streamCount d k == 0 || slice (vget d (3 + k)) 5 0 != 0
         else streamCount d k != 0 || vget d (3 + k) != 0)
    || (if streamToPorts d then streamQueue d != 0 else descBits d 75 74 != 1 || decide (8 < descBits d 95 88))

/-- OSDEF traps STREAM_UNDEF (R118). -/
def streamRefused (s : State) (n : Nat) (d : Vector Word 8) : Bool :=
  descBad d || !(vget s.me.xb (slice (vget d 1) 2 0)).v
    || s.streams.any (fun x => x.gal == myGallery s && x.os == n)
    || (!streamToPorts d && (feeder s s.me.id (streamQueue d)).isSome)

/-- OSDEF (R116 to R119). -/
def execOsdef (n : BitVec 5) (a : Reg) : State → Result := runLead do
  needGroup
  notInTx
  let ea ← reg a
  let t ← leadCheck ea 64 Need.read
  let bytes := leBytes 64 (← leadRead ea t 64)
  let d : Vector Word 8 := Vector.ofFn fun k : Fin 8 => BitVec.ofNat 64 (leNat ((bytes.drop (8 * k)).take 8))
  let s ← get
  need (!streamRefused s n.toNat d) 0x63 ea
  let x : Stream :=
    ⟨myGallery s, n.toNat, mySquad s, s.me.id, s.me.ctx, s.me.part, s.me.core, s.me.sup, d,
      vget s.me.xb (slice (vget d 1) 2 0), 0, none, none, false, false, false⟩
  set { s with streams := s.streams ++ [x] }

/-- A stream ends (R116, R347): its name and its queue are free, its unconsumed elements gone, its subscriptions over. -/
def endStream (gal os : Nat) (s : State) : State :=
  match s.streams.find? fun x => x.gal == gal && x.os == os with
  | none => s
  | some x =>
    let s := if streamToPorts x.desc || x.ended then s
      else s.onRunner x.owner fun r => { r with l := { r.l with q := vset r.l.q (streamQueue x.desc) [] } }
    { outSpend x.owner (.stream gal os) s with
      streams := s.streams.filter fun y => !(y.gal == gal && y.os == os)
      subs := s.subs.filter fun b => !(b.gal == gal && b.os == os) }

/-- OSEND (R116, R122, R347). -/
def execOsend (n : BitVec 5) : State → Result := runLead do
  needGroup
  notInTx
  let s ← get
  let gal := myGallery s
  need (s.streams.any fun x => x.gal == gal && x.os == n.toNat && x.squad == mySquad s) 0x63 0
  readyIf (!s.subs.any fun b => b.gal == gal && b.os == n.toNat && portClaims s.mops b != 0)
  modify (endStream gal n.toNat)

/-- The engine of a stream as the runner whose translation, level and partition OSDEF captured: the stream outlives the group
that defined it (R116, R122). -/
def Stream.reader (x : Stream) : Runner :=
  { Runner.zero x.owner with ctx := x.ctx, part := x.part, core := x.core, status := if x.sup then 1 else 0 }

/-- The bytes of one piece of an element as its engine reads them (R120, R480, R482). -/
def pieceBytes (s : State) (x : Stream) (t : Tr) (n : Nat) : List Byte :=
  if answeredOutside s t.pa then (outAnswer s x.owner (.stream x.gal x.os) t.pa n).getD (List.replicate n 0)
  else if (poolOf t.pa).isMemory then viewRead s (some x.owner) x.reader.die ((keyId s t.key).getD 0) t.pa n
  else devBytes s t.pa n

/-- What the read of one piece of an element does (R188, R280, R480, R493). -/
def pieceRead (x : Stream) (t : Tr) (n : Nat) (s : State) : State :=
  if answeredOutside s t.pa then markAccess s x.reader t false
  else
    let s := markAccess s x.reader t false
    if poolOf t.pa = .unmapped then badAddr s
    else if (poolOf t.pa).isMemory then countRange (touch s (some x.owner) true false t.pa n) t.pa n
    else s

/-- The bytes of element i of a stream, read by its engine (R114, R119, R120): a cause with the element's address; the bytes
with the state after the read; or, while a target outside has yet to answer, the state with the requests. -/
def readElement (s : State) (x : Stream) (i : Nat) : Except (Nat × Word) (Option (List Byte) × State) :=
  let o := streamOffset x.desc i
  let n := streamElem x.desc
  let va := x.xb.base + BitVec.ofInt 64 o
  match xbPieces s x.reader x.xb o n Need.read with
  | .error e => .error (e.1, va)
  | .ok l =>
    if piecesLocked s x.part l false then .error (0x25, va)
    else if l.any fun p => engineBad s x.owner (.stream x.gal x.os) p.1.pa p.2 then .error (0xA1, va)
    else
      let out := l.filter fun p => answeredOutside s p.1.pa
      if !l.all fun p => markReady s x.reader p.1 false && deviceReady s x.owner p.1.pa then .ok (none, s)
      else if out.all fun p => (outAnswer s x.owner (.stream x.gal x.os) p.1.pa p.2).isSome then
        .ok (some (l.flatMap fun p => pieceBytes s x p.1 p.2),
          outSpend x.owner (.stream x.gal x.os) (l.foldl (fun s p => pieceRead x p.1 p.2 s) s))
      else .ok (none, out.foldl (fun s p => outAsk x.owner (.stream x.gal x.os) 0 p.1.pa p.2 s) s)

/-- A queue entry from an element's bytes (R119). -/
def entryOf (bs : List Byte) (i : Nat) : QEntry :=
  ⟨Vector.ofFn fun k : Fin 32 => BitVec.ofNat 32 (leNat ((bs.drop (4 * k)).take 4)), none, i⟩

/-- A stream's counters changed. -/
def onStream (gal os : Nat) (f : Stream → Stream) (s : State) : State :=
  { s with streams := mapIf (fun x => x.gal == gal && x.os == os) f s.streams }

/-- The element's entry with the state after its read: marked with the cause where the read faulted (R121), none while it
waits for an answer. -/
def elementEntry (s : State) (x : Stream) (i : Nat) : Option QEntry × State :=
  match readElement s x i with
  | .ok (bs, t) => (bs.map fun b => entryOf b i, t)
  | .error e => (some ⟨Vector.replicate 32 0, some e, i⟩, s)

/-- STREAM_ELEMENT_READ (R119 to R121): the engine of the owner's core reads the next element into its queue, while the
queue holds fewer entries than AHEAD. -/
def execStreamElementRead (gal os : Nat) (s : State) : Result :=
  match s.streams.find? fun x => x.gal == gal && x.os == os && !streamToPorts x.desc with
  | none => .next s
  | some x =>
    match s.runner? x.owner with
    | none => .next s
    | some r =>
      let q := streamQueue x.desc
      if streamTotal x.desc ≤ x.next ∨ streamAhead x.desc ≤ (vget r.l.q q).length ∨ halted s r.part then .next s
      else
        match elementEntry s x x.next with
        | (some e, t) =>
          .next (onStream gal os (fun y => { y with next := y.next + 1 })
            (t.onRunner x.owner fun r => { r with l := { r.l with q := vset r.l.q q (vget r.l.q q ++ [e]) } }))
        | (none, t) => .next t

/-- After a handler, the engine reads the marked element again before the popping instruction executes (R121): the first
marked entry whose address the trap reported. Where a target outside has yet to answer, the element and those behind it are
read anew as the answers come. -/
def rereadMarked (a : Word) (s : State) : State :=
  (List.range 8).foldl (fun s q =>
    let es := vget s.me.l.q q
    match (es.take 2).findIdx? fun e => e.fault.any fun f => f.2 == a with
    | none => s
    | some k =>
      match feeder s s.me.id q, es[k]? with
      | some x, some e =>
        match elementEntry s x e.elem with
        | (some e', t) => { t with me := { t.me with l := { t.me.l with q := vset t.me.l.q q (es.set k e') } } }
        | (none, t) =>
          onStream x.gal x.os (fun y => { y with next := e.elem })
            { t with me := { t.me with l := { t.me.l with q := vset t.me.l.q q (es.take k) } } }
      | _, _ => s) s

end Sys2Proof.Machine
end

