-- ==== Sys2Proof/Machine/Matrix.lean ====
section
/-! DEFINITION. Matrix arithmetic on narrow and scaled formats (spec/11_narrow_formats.md R323 to R331), accumulator tiles,
matrix instructions and the distributor (spec/12_matrix.md R332 to R361). -/

namespace Sys2Proof.Machine

open Sys2Proof

/-! ## The format-block operand (R323 to R325) -/

/-- A side breaks R324 on its own fields. -/
def Side.bad (x : Side) : Bool :=
  decide (6 < x.fmt) || (x.scl && (x.fmt == 0 || x.fmt == 1 || x.fmt == 6)) || (!x.scl && (x.fmt == 4 || x.fmt == 5))
    || (x.bl16 && !x.scl) || (x.scl && x.off % 4 != 0) || (!x.scl && x.off != 0)

/-- The allowed pairs of formats (R325). -/
def pairOk (a b : Nat) : Bool :=
  let narrow (x : Nat) : Bool := x == 2 || x == 3
  (a == b && a != 2 && a != 3) || ((narrow a || a == 4) && (narrow b || b == 4))

/-- R324 rejects the operand. -/
def formatBad (w : Word) : Bool :=
  slice w 57 56 != 0 || slice w 49 38 != 0 || (sideA w).bad || (sideB w).bad || !pairOk (sideA w).fmt (sideB w).fmt

/-! ## Elements and products (R316 to R322, R327) -/

/-- The 32 element codes of a packed run (R322). -/
def unpackRow (fmt : Nat) (bs : List Byte) : List Nat :=
  match fmt with
  | 0 | 1 => wordsOf 2 32 bs
  | 4 => bs.flatMap fun b => [b.toNat % 16, b.toNat / 16]
  | 5 => (chunks 3 8 bs).flatMap fun g => let v := leNat g; (List.range 4).map fun i => v / 2 ^ (6 * i) % 64
  | _ => bs.map (·.toNat)

/-- The value of an element code of a format other than .log6 and .i8. -/
def elemVal (fmt x : Nat) : FVal :=
  match fmt with
  | 0 => Fmt.bf16.decode x
  | 1 => Fmt.f16.decode x
  | 2 => e4m3Val x
  | 3 => e5m2Val x
  | _ => mx4Val x

/-- The table T of R327. -/
def logTable (f : Nat) : Nat := [0x10000, 0x1306F, 0x16A0A, 0x1AE8A].getD f 0

/-- The product of two .log6 codes (R327, R321). -/
def logProduct (a b : Nat) : FVal :=
  let t := a % 32 + b % 32
  if a % 32 = 0 ∨ b % 32 = 0 then .fin false 0 0
  else .fin (bitN a 5 != bitN b 5) (logTable (t % 4)) ((t / 4 : Nat) - 24)

/-- The product of two elements (R327). -/
def elemProduct (fa fb a b : Nat) : FVal := if fa = 5 then logProduct a b else (elemVal fa a).mul (elemVal fb b)

/-- A value times a power of two. -/
def FVal.scale (e : Int) : FVal → FVal
  | .fin n m k => .fin n m (k + e)
  | v => v

/-- One row or column of a chunk: its codes, and for each k the scale exponent, none for the NaN scale (R328). -/
abbrev Line := List (Nat × Option Int)

/-- The exact value of a chunk (R328). -/
def chunkValue (fa fb : Nat) (a b : Line) : FVal :=
  if a.any (fun x => x.2.isNone) || b.any (fun x => x.2.isNone) then .nan
  else (a.zip b).foldl (fun s p => s.add 0 ((elemProduct fa fb p.1.1 p.2.1).scale (p.1.2.getD 0 + p.2.2.getD 0))) (.fin false 0 0)

/-- An exact zero. -/
def FVal.isZero : FVal → Bool
  | .fin _ m _ => m == 0
  | _ => false

/-- An .f32 accumulator element takes a chunk (R329). -/
def accumulate (acc : Nat) (v : FVal) : Nat :=
  Fmt.f32.encode 0 ((Fmt.f32.decode acc).add 0 (if v.isZero then .fin false 0 0 else v))

/-- An .i32 accumulator element takes a chunk (R330). -/
def accumulateInt (acc : Nat) (a b : Line) : Nat :=
  wrapN 32 ((a.zip b).foldl (fun (s : Int) p => s + sextN 8 p.1.1 * sextN 8 p.2.1) (acc : Int))

/-- One element of a step (R329, R330). -/
def stepElem (fa fb acc : Nat) (a b : Line) : Nat :=
  if fa = 6 then accumulateInt acc a b else accumulate acc (chunkValue fa fb a b)

/-- One element of an .f64 step (R342): eight products in ascending k, one rounding each. -/
def stepElem64 (acc : Nat) (a b : Line) : Nat :=
  (a.zip b).foldl (fun x p => Fmt.f64.fma 0 (Fmt.f64.decode p.1.1) (Fmt.f64.decode p.2.1) (Fmt.f64.decode x)) acc

/-! ## Tiles (R332, R333) -/

/-- n bytes from an address of a rising list, 0 where none is listed. -/
def denseFrom : Nat → Nat → Mem → List Byte
  | 0, _, _ => []
  | n + 1, a, (k, b) :: m => if k = a then b :: denseFrom n (a + 1) m else 0 :: denseFrom n (a + 1) ((k, b) :: m)
  | n + 1, a, [] => 0 :: denseFrom n (a + 1) []

/-- The 16384 slots of tile t (R332). -/
def Team.tileWords (t : Team) (tile : Nat) : List Nat :=
  wordsOf 4 16384 (denseFrom 65536 (65536 * tile) (t.acc.dropWhile fun c => c.1 < 65536 * tile))

/-- Tile t replaced. -/
def Team.putTile (tile : Nat) (ws : List Nat) (t : Team) : Team :=
  let lo := 65536 * tile
  let new := ((ws.flatMap (leBytes 4)).zipIdx.filter fun p => p.1 != 0).map fun p => (lo + p.2, p.1)
  { t with acc := (t.acc.filter fun c => c.1 < lo) ++ new ++ t.acc.filter fun c => lo + 65536 ≤ c.1 }

/-- The scale exponents of one row or column at one K step (R326, R328), for `count` k from k0 on: the bytes of the team's
landing as they stand. -/
def scaleRow (land : Mem) (modes : BitVec 24) (x : Side) (total k0 row : Nat) : List (Option Int) :=
  if x.scl then
    let bl := if x.bl16 then 16 else 32
    (List.range (32 / bl)).flatMap fun j =>
      let c := (land.get (landPos modes (x.off + row * x.blocks total + (k0 / bl + j)))).toNat
      List.replicate bl (if c = 255 then none else some ((c : Int) - 127))
  else List.replicate 32 (some 0)

/-- The rows or columns of a slab with their scales. -/
def slabLines (land : Mem) (modes : BitVec 24) (x : Side) (total k0 : Nat) (slab : List Byte) (n : Nat) : List Line :=
  (chunks (rowSize x.fmt) n slab).zipIdx.map fun p =>
    (unpackRow x.fmt p.1).zip (scaleRow land modes x total k0 p.2)

/-- The rows or columns of an .f64 slab: 8 values each. -/
def slabLines64 (slab : List Byte) (n : Nat) : List Line :=
  (chunks 64 n slab).map fun r => (wordsOf 8 8 r).map fun v => (v, some 0)

/-- One tile after a step (R341, R342, R350). -/
def tileStep (f64 : Bool) (fa fb : Nat) (init : Bool) (rows cols : List Line) (ws : List Nat) : List Nat :=
  let ws := if init then List.replicate 16384 0 else ws
  ((chunks 128 128 ws).zip rows).flatMap fun p =>
    if f64 then
      let r := ((p.1.take 64).zip (p.1.drop 64)).zip cols
      let out := r.map fun q => stepElem64 (q.1.1 + q.1.2 * 2 ^ 32) p.2 q.2
      out.map (· % 2 ^ 32) ++ out.map (· / 2 ^ 32)
    else (p.1.zip cols).map fun q => stepElem fa fb q.1 p.2 q.2

/-- A landing as an operation's scale reads find it: with the bytes that a barrier has fixed (R326, R169). -/
def fixedLand (fixed : List (Nat × Byte)) (land : Mem) : Mem := fixed.foldl (fun m p => m.set p.1 p.2) land

/-- A region of tiles after one step (R350): `tile` its top left, `nr` and `nc` its tile rows and columns. -/
def regionStep (f64 : Bool) (w : Word) (init : Bool) (modes : BitVec 24) (fixed : List (Nat × Byte)) (total k0 tile nr nc : Nat)
    (a b : List Byte) (t : Team) : Team :=
  let width := if f64 then 64 else 128
  let land := fixedLand fixed t.land
  let rows := if f64 then slabLines64 a (128 * nr) else slabLines land modes (sideA w) total k0 a (128 * nr)
  let cols := if f64 then slabLines64 b (width * nc) else slabLines land modes (sideB w) total k0 b (width * nc)
  (List.range (nr * nc)).foldl (fun u k =>
    let i := k / nc
    let j := k % nc
    let n := tile + 8 * i + j
    u.putTile n (tileStep f64 (sideA w).fmt (sideB w).fmt init ((rows.drop (128 * i)).take 128)
      ((cols.drop (width * j)).take width) (u.tileWords n))) t

/-! ## Checks at issue -/

/-- The team of the issuer. -/
def needTeam : Op Team := do
  match myTeam (← get) with
  | some t => return t
  | none => stopTrap 0x65 0

/-- The lowest scale byte outside the landing, then the lowest under a copy's destination (R326). -/
def scaleCause (s : State) (t : Team) (spans : List (Nat × Nat)) : Option (Nat × Word) :=
  let out := spans.filterMap fun p => if t.len < p.1 + p.2 then some (max p.1 t.len) else none
  let held := spans.flatMap fun p => s.lranges.filterMap fun g =>
    if g.team == t.uid && g.dst && meets p.1 p.2 g.lo (g.hi - g.lo) then some (max p.1 g.lo) else none
  match out.min?, held.min? with
  | some a, _ => some (0x2A, BitVec.ofNat 64 a)
  | none, some a => some (0x25, BitVec.ofNat 64 a)
  | none, none => none

/-- Format block and scale bytes (R324, R326). -/
def needFormat (t : Team) (w : Word) (rows cols total : Nat) : Op Unit := do
  need (!formatBad w) 0x62 w
  match scaleCause (← get) t (scaleSpans w rows cols total) with
  | some e => stopTrap e.1 e.2
  | none => pure ()

/-- The version checks of R336 on every tile that an operation names. -/
def needVersion (t : Team) (tiles : List Nat) (ver : Nat) : Op Unit := do
  need (ver != 0xFFFF) 0x61 0
  need (tiles.all fun k => decide (vget t.vers k ≤ ver)) 0x64 0
  let s ← get
  need (!s.mops.any fun m => m.team == t.uid && m.ver == ver && m.tiles.any fun k => tiles.contains k) 0x64 0

/-- A tile within the team's allotment (R332). -/
def needTile (t : Team) (k : Nat) : Op Unit := need (decide (k < t.tiles)) 0x65 0

/-- An operation joins its core's queue of 16 (R337). One that runs keeps its place there until it completes (log entry
112). -/
def queueMatrix (t : Team) (kind : MKind) (tiles : List Nat) (ver : Nat) (flag : Option Nat) : Op Unit := do
  let s ← get
  readyIf ((s.mops.filter fun m => m.core == t.core).length < 16)
  modify fun s =>
    { s with mops := s.mops ++ [⟨t.core, t.uid, s.me.id, kind, tiles.headD 0, tiles, ver, flag, false, s.me.inTrap, []⟩] }

/-! ## MMA, ACCRD, ACCWR -/

/-- The fields of MMA (R339). -/
def mmaRule (f : LaneF) : LRule where
  type := f.ty == 0 || f.ty == 0xD
  d := .other
  a := .other
  b := .other
  m := false
  fl := true
  x := 0xFFFF
  i16 := 1
  also := decide (f.d.toNat < 16)
  tx := false

/-- A cause of the whole group (R341, R356). -/
def wholeGroup (m : Op α) : Op α := fun s =>
  match m s with
  | .error (.trap cause a) => .error (.frag cause a)
  | r => r

/-- The byte image in n registers from register v on (R340). -/
def imageBytes (l : Lanes) (v n : Nat) : List Byte :=
  (List.range n).flatMap fun k => (vget l.v (v + k)).toList.flatMap fun w => leBytes 4 w.toNat

/-- Two fragments lie within the register file and within the group's count (R340, R412). -/
def needImages (s : State) (a na b nb : Nat) : Op Unit := do
  need (decide (a + na ≤ 256 ∧ b + nb ≤ 256)) 0x65 0
  need (decide (a + na ≤ s.me.l.count ∧ b + nb ≤ s.me.l.count)) 0x95 0
  notPending [(a, na), (b, nb)]

/-- A protected grid has no MMA, ACCRD or ACCWR (spec/17_protection.md R465). -/
def needUnprotected : Op Unit := do
  let s ← get
  need (!s.grids.any fun g => g.handle == s.me.grid && g.prot) 0x65 0

/-- Bytes of the core's snapshot buffer in use (spec/16_traps.md R461). -/
def snapshotUse (s : State) (core : Nat) : Nat :=
  ((s.mops.filter fun m => m.core == core).map fun m =>
    match m.kind with
    | .mma _ _ _ _ a b => a.length + b.length
    | _ => 0).foldl (· + ·) 0

/-- The version field of a matrix slot. -/
def LaneCtx.version (c : LaneCtx) : Nat := c.f.imm.toNat / 65536

/-- MMA (R339 to R342). -/
def execMma : State → Result := runLane mmaRule fun c => wholeGroup do
  needUnprotected
  let s ← get
  need (c.m0 == s.me.l.live) 0x65 0
  let t ← needTeam
  let tile := c.f.d.toNat
  needTile t tile
  let f64 := c.f.ty == 0xD
  let w := if f64 then 0 else runMfb s
  if !f64 then need (!formatBad w) 0x62 w
  let na := if f64 then 64 else rowSize (sideA w).fmt
  let nb := if f64 then 32 else rowSize (sideB w).fmt
  needImages s c.f.a.toNat na c.f.b.toNat nb
  if !f64 then needFormat t w 128 128 32
  needVersion t [tile] c.version
  readyIf (snapshotUse s t.core + 128 * (na + nb) ≤ 49152)
  queueMatrix t (.mma f64 w (c.f.imm.getLsbD 0) t.modes (imageBytes s.me.l c.f.a.toNat na) (imageBytes s.me.l c.f.b.toNat nb))
    [tile] c.version c.flag
  flagStart c

/-- The fields of ACCRD and ACCWR (R356). -/
def accRowRule (read : Bool) (f : LaneF) : LRule where
  type := f.ty == 0 || f.ty == 0xD
  d := if read then .quad else .other
  a := if read then .other else .quad
  queue := false
  fl := true
  x := 0xFFFF
  i16 := 0x7F
  also := decide ((if read then f.a else f.d).toNat < 16)
  tx := false

/-- ACCRD (R356). -/
def execAccrd : State → Result := runLane (accRowRule true) fun c => wholeGroup do
  needUnprotected
  let t ← needTeam
  let tile := c.f.a.toNat
  needTile t tile
  needVersion t [tile] c.version
  queueMatrix t (.accrd (c.f.imm.toNat % 128) (c.f.ty == 0xD) c.f.d.toNat c.act) [tile] c.version c.flag
  flagStart c

/-- ACCWR (R356): the four registers are read at issue. -/
def execAccwr : State → Result := runLane (accRowRule false) fun c => wholeGroup do
  needUnprotected
  let s ← get
  let t ← needTeam
  let tile := c.f.d.toNat
  needTile t tile
  needVersion t [tile] c.version
  let data := (List.range 4).map fun j => vget s.me.l.v (c.f.a.toNat + j)
  queueMatrix t (.accwr (c.f.imm.toNat % 128) (c.f.ty == 0xD) c.act data) [tile] c.version c.flag
  flagStart c

/-! ## MLOOP and OSUB -/

/-- A core's subscription on a port (R343): false A, true B. -/
def portSub (s : State) (core : Nat) (port : Bool) : Option Sub := s.subs.find? fun b => b.core == core && b.port == port

/-- Bytes of a subscription's stream, by its descriptor. -/
def Sub.total (s : State) (b : Sub) : Nat :=
  ((s.streams.find? fun x => x.gal == b.gal && x.os == b.os).map fun x => streamTotal x.desc * streamElem x.desc).getD 0

/-- Bytes of a subscription's stream that are neither consumed nor claimed by a queued MLOOP (R349). -/
def unclaimed (s : State) (b : Sub) : Nat := b.total s - b.used - portClaims s.mops b

/-- A core's port can give `n` bytes (R349). -/
def portGives (s : State) (core : Nat) (port : Bool) (n : Nat) : Bool :=
  (portSub s core port).any fun b => decide (n ≤ unclaimed s b)

/-- A subscription changed. -/
def onSub (core : Nat) (port : Bool) (f : Sub → Sub) (s : State) : State :=
  { s with subs := mapIf (fun b => b.core == core && b.port == port) f s.subs }

/-- MLOOP (R348, R349). -/
def execMloop (a b : Reg) : State → Result := runLead do
  needGroup
  notInTx
  let w ← reg a
  let ctl ← reg b
  let t ← needTeam
  let kch := slice ctl 47 32
  let tile := slice ctl 31 28
  let nr := 1 + slice ctl 27 27
  let nc := 1 + slice ctl 26 24
  let f64 := ctl.getLsbD 22
  let ver := slice ctl 63 48
  need (slice ctl 21 0 == 0 && kch != 0 && decide (tile % 8 + nc ≤ 8)) 0x65 0
  let tiles := (List.range (nr * nc)).map fun k => tile + 8 * (k / nc) + k % nc
  need (decide (tile / 8 + nr ≤ 2) && (tiles.all fun k => decide (k < t.tiles)) && (!f64 || w == 0)) 0x65 0
  let width := if f64 then 64 else 128
  if !f64 then needFormat t w (128 * nr) (128 * nc) (32 * kch)
  let sa := slabSize f64 (sideA w) (128 * nr)
  let sb := slabSize f64 (sideB w) (width * nc)
  let s ← get
  need (portGives s t.core false (sa * kch) && portGives s t.core true (sb * kch)) 0x63 0
  needVersion t tiles ver
  queueMatrix t (.mloop f64 w (ctl.getLsbD 23) t.modes nr nc kch 0 [] []) tiles ver none

/-- Bytes of the distributor that a gallery's streams need, by their largest windows (R344). -/
def distributorNeed (s : State) (gal : Nat) (subs : List Sub) : Nat :=
  ((s.streams.filter fun x => x.gal == gal && streamToPorts x.desc).map fun x =>
    (((subs.filter fun b => b.gal == gal && b.os == x.os).map (·.window)).foldl max 0) * streamElem x.desc).foldl (· + ·) 0

/-- OSUB (R343, R344). -/
def execOsub (n : BitVec 5) (p : Bool) (k : BitVec 3) (w : BitVec 6) : State → Result := runLead do
  needGroup
  notInTx
  let s ← get
  let gal := myGallery s
  let count := k.toNat + 1
  let sub : Sub := ⟨s.me.core, p, gal, n.toNat, w.toNat + 1, 0, [], 0⟩
  match s.streams.find? fun x => x.gal == gal && x.os == n.toNat with
  | none => stopTrap 0x63 0
  | some x => do
    let mine := s.subs.filter fun b => b.gal == gal && b.os == n.toNat
    need (streamToPorts x.desc && x.squad == mySquad s && (portSub s s.me.core p).isNone
      && !mine.any (fun b => b.core == s.me.core) && x.nsub.all (· == count)
      && decide (mine.length < count) && !x.full
      && decide (distributorNeed s gal (s.subs ++ [sub]) ≤ 262144)) 0x63 0
    modify fun s => onStream gal n.toNat (fun x => { x with nsub := some count, full := mine.length + 1 == count }) { s with subs := s.subs ++ [sub] }

/-! ## Moving accumulators (R352 to R355) -/

/-- ACCZ (R352). -/
def execAccz (a : Reg) : State → Result := runLead do
  needGroup
  notInTx
  let v ← reg a
  let t ← needTeam
  let tiles := (List.range 16).filter fun k => v.getLsbD k
  need (!tiles.isEmpty && slice v 63 32 == 0 && tiles.all fun k => decide (k < t.tiles)) 0x65 0
  needVersion t tiles (slice v 31 16)
  queueMatrix t .accz tiles (slice v 31 16) none

/-- Bytes of a slot in the landing (R353). -/
def slotBytes (y : BitVec 4) : Nat := if y = 0 then 4 else 2

/-- The span of a tile in the landing (R354). -/
def tileSpan (pitch : Nat) (y : BitVec 4) : Nat := 127 * pitch + 128 * slotBytes y

/-- ACCLD and ACCST (R353, R354). -/
def accMove (t : BitVec 4) (a b : Reg) (y : BitVec 4) (write : Bool) (kind : Nat → Nat → BitVec 24 → MKind) : State → Result :=
  runLead do
    needGroup
    notInTx
    let o ← reg a
    let v ← reg b
    let team ← needTeam
    let pitch := slice v 47 32
    needTile team t.toNat
    need (slice v 63 48 == 0 && slice v 31 16 == 0 && pitch % 8 == 0 && decide (128 * slotBytes y ≤ pitch)) 0x65 0
    need (decide (o.toNat + tileSpan pitch y ≤ team.len)) 0x2A o
    need (o.toNat % 8 == 0) 0x24 o
    need (!landHit (← get) team.uid o.toNat (tileSpan pitch y) write) 0x25 o
    needVersion team [t.toNat] (slice v 15 0)
    queueMatrix team (kind o.toNat pitch team.modes) [t.toNat] (slice v 15 0) none

/-- ACCLD (R353). -/
def execAccld (t : BitVec 4) (a b : Reg) : State → Result := accMove t a b 0 false fun o p m => .accld o p 0 m

/-- ACCLD with a type (R353). -/
def execAccldTyped (t : BitVec 4) (a b : Reg) (y : BitVec 4) (_rm : BitVec 3) (_sat : Bool) : State → Result :=
  accMove t a b y false fun o p m => .accld o p y m

/-- ACCST (R353). -/
def execAccst (t : BitVec 4) (a b : Reg) : State → Result := accMove t a b 0 true fun o p m => .accst o p 0 0 false m

/-- ACCST with a type (R353). -/
def execAccstTyped (t : BitVec 4) (a b : Reg) (y : BitVec 4) (rm : BitVec 3) (sat : Bool) : State → Result :=
  accMove t a b y true fun o p m => .accst o p y rm sat m

/-- ACCVER, selector 0 (R357). -/
def execAccver (d : Reg) (t : BitVec 4) : State → Result := runLead do
  needGroup
  notInTx
  let team ← needTeam
  needTile team t.toNat
  setReg d (BitVec.ofNat 64 (vget team.vers t.toNat))

/-- ACCVER, selector 1 (R357). -/
def execAccverWait (a : Reg) (t : BitVec 4) : State → Result := runLead do
  needGroup
  notInTx
  let team ← needTeam
  needTile team t.toNat
  let v ← reg a
  need (slice v 63 16 == 0) 0x65 0
  readyIf (decide (v.toNat ≤ vget team.vers t.toNat))

/-- ACCVER, selector 2 (R357). -/
def execAccverSet (a : Reg) (t : BitVec 4) : State → Result := runLead do
  needGroup
  notInTx
  let team ← needTeam
  needTile team t.toNat
  let v ← reg a
  need (slice v 63 16 == 0) 0x65 0
  let s ← get
  readyIf (!s.mops.any fun m => m.team == team.uid && m.tiles.contains t.toNat)
  modify (onTeam team.uid fun u => { u with vers := vset u.vers t.toNat v.toNat })

/-! ## The sequencer (R337, R338) -/

/-- MMA and MLOOP. -/
def MKind.isCompute : MKind → Bool
  | .mma .. | .mloop .. => true
  | _ => false

/-- MLOOP. -/
def MKind.isLoop : MKind → Bool
  | .mloop .. => true
  | _ => false

/-- Every counter stands at the expected version (R335). -/
def versionsMatch (s : State) (m : MOp) : Bool := (team? s m.team).any fun t => m.tiles.all fun k => vget t.vers k == m.ver

/-- A core's port holds bytes to take (R337, log entry 96). -/
def portHolds (s : State) (core : Nat) (port : Bool) : Bool := (portSub s core port).any fun b => !b.buf.isEmpty

/-- The operations of a core in issue order. -/
def coreOps (s : State) (core : Nat) : List MOp := s.mops.filter fun m => m.core == core

/-- Every step of an MLOOP is done. -/
def MKind.finished : MKind → Bool
  | .mloop _ _ _ _ _ _ kch step _ _ => step == kch
  | _ => true

/-- The squad of a team is being pre-empted (R359). -/
def teamLeaving (s : State) (uid : Nat) : Bool :=
  (team? s uid).any fun t => s.squads.any fun q => q.uid == t.squad && q.leaving

/-- An MLOOP of a team that is being pre-empted does no further step and does not start (R359). -/
def MOp.stopped (s : State) (m : MOp) : Bool := m.kind.isLoop && !m.kind.finished && teamLeaving s m.team

/-- A compute operation may start but for one before it (R337). -/
def computeReady (s : State) (core k : Nat) (m : MOp) : Bool :=
  !m.stopped s && !m.running && m.kind.isCompute && versionsMatch s m &&
    (!m.kind.isLoop || (portHolds s core false && portHolds s core true && ((coreOps s core).take k).all fun x => x.running || !x.kind.isLoop))

/-- The k-th operation of a core may start (R337). -/
def mayStart (s : State) (core k : Nat) (m : MOp) : Bool :=
  if m.kind.isCompute then
    computeReady s core k m && !(coreOps s core).any (fun x => x.running && x.kind.isCompute && !x.stopped s)
      && !((coreOps s core).take k).zipIdx.any fun p => computeReady s core p.2 p.1
  else
    !m.running && versionsMatch s m
      && !(coreOps s core).any fun x => x.running && x.kind.isCompute && x.team == m.team && x.tiles.any fun t => m.tiles.contains t

/-- The k-th operation of a core changed. -/
def onCoreOp (core k : Nat) (f : MOp → MOp) (s : State) : State :=
  let go := s.mops.foldl (fun (acc : List MOp × Nat) m =>
    if m.core == core then (acc.1 ++ [if acc.2 = k then f m else m], acc.2 + 1) else (acc.1 ++ [m], acc.2)) ([], 0)
  { s with mops := go.1 }

/-- The k-th operation of a core gone. -/
def dropCoreOp (core k : Nat) (s : State) : State :=
  let go := s.mops.foldl (fun (acc : List MOp × Nat) m =>
    if m.core == core then (if acc.2 = k then acc.1 else acc.1 ++ [m], acc.2 + 1) else (acc.1 ++ [m], acc.2)) ([], 0)
  { s with mops := go.1 }

/-- MATRIX_OPERATION_START (R337). -/
def execMatrixOperationStart (core k : Nat) (s : State) : Result :=
  match (coreOps s core)[k]? with
  | none => .next s
  | some m => if mayStart s core k m then .next (onCoreOp core k (fun m => { m with running := true }) s) else .next s

/-- Bytes taken from a port, at most n: them, with the state after (R350). -/
def takeBytes (core : Nat) (port : Bool) (n : Nat) (s : State) : List Byte × State :=
  let bs := ((portSub s core port).map fun b => b.buf.take n).getD []
  (bs, onSub core port (fun b => { b with buf := b.buf.drop n, used := b.used + bs.length }) s)

/-- After a K step of a core a subscription whose subscriber has consumed the last byte of its stream ends, and the stream
with the last of its subscriptions (R347), but its name stays in use (R122). -/
def endSubs (core : Nat) (s : State) : State :=
  let over_ (b : Sub) : Bool := b.core == core && (s.streams.any fun x => x.gal == b.gal && x.os == b.os) && decide (b.total s ≤ b.used)
  let subs := s.subs.filter fun b => !over_ b
  let ended (x : Stream) : Bool :=
    x.full && s.subs.any (fun b => over_ b && b.gal == x.gal && b.os == x.os)
      && !subs.any fun b => b.gal == x.gal && b.os == x.os
  { s with subs := subs, streams := mapIf ended (fun x => { x with ended := true }) s.streams }

/-- MLOOP_K_STEP (R350, R359): the running MLOOP of a core takes what its ports hold of its next slabs, and does the step once
it has both. -/
def execMloopKStep (core : Nat) (s : State) : Result :=
  match (coreOps s core).findIdx? fun m => m.running && m.kind.isLoop && !m.stopped s with
  | none => .next s
  | some k =>
    match (coreOps s core)[k]? with
    | none => .next s
    | some m =>
      match m.kind with
      | .mloop f64 w init modes nr nc kch step pa pb =>
        if step < kch then
          let ra := takeBytes core false (m.kind.slab false - pa.length) s
          let rb := takeBytes core true (m.kind.slab true - pb.length) ra.2
          let a := pa ++ ra.1
          let b := pb ++ rb.1
          if a.length = m.kind.slab false ∧ b.length = m.kind.slab true then
            let total := (if f64 then 8 else 32) * kch
            let t := onTeam m.team (regionStep f64 w (init && step == 0) modes m.fixed total (32 * step) m.tile nr nc a b) rb.2
            .next (endSubs core (onCoreOp core k (fun m => { m with kind := .mloop f64 w init modes nr nc kch (step + 1) [] [] }) t))
          else .next (onCoreOp core k (fun m => { m with kind := .mloop f64 w init modes nr nc kch step a b }) rb.2)
        else .next s
      | _ => .next s

/-- The slot of a tile as ACCLD finds it in the landing (R354). -/
def loadSlot (t : Team) (modes : BitVec 24) (y : BitVec 4) (a : Nat) : Nat :=
  let raw := leNat (landRead t.land modes a (slotBytes y))
  if y = 0 then raw
  else Fmt.f32.encode 0 ((if y = 0xA then Fmt.f16 else Fmt.bf16).decode raw)

/-- The bytes of a slot as ACCST writes it (R354). -/
def storeSlot (y : BitVec 4) (rm : BitVec 3) (sat : Bool) (x : Nat) : List Byte :=
  if y = 0 then leBytes 4 x
  else
    let f := if y = 0xA then Fmt.f16 else Fmt.bf16
    let v := Fmt.f32.decode x
    let r := f.encode rm.toNat v
    let big := !v.isNan && (r % 2 ^ (f.eb + f.mb) == f.infBits)
    leBytes 2 (if sat && big then f.signBit v.isNeg + (f.infBits - 1) else r)

/-- A word of row r of a tile replaced, in lanes of a mask: `data` gives register j of the four (R356). -/
def writeRow (r : Nat) (f64 : Bool) (mask : Mask) (data : List (Vector W32 32)) (ws : List Nat) : List Nat :=
  (chunks 128 128 ws).zipIdx.flatMap fun p =>
    if p.2 = r then
      p.1.zipIdx.map fun q =>
        let n := q.2
        let j := if f64 then 2 * (n % 64 / 32) + n / 64 else n / 32
        if mask.getLsbD (n % 32) then (vget (data.getD j (Vector.replicate 32 0)) (n % 32)).toNat else q.1
    else p.1

/-- A row of a tile read into registers d to d + 3 (R356). -/
def readRow (r : Nat) (f64 : Bool) (d : Nat) (mask : Mask) (ws : List Nat) (l : Lanes) : Lanes :=
  let row := (ws.drop (128 * r)).take 128
  (List.range 128).foldl (fun l n =>
    let j := if f64 then 2 * (n % 64 / 32) + n / 64 else n / 32
    if mask.getLsbD (n % 32) then l.putWord (d + j) (n % 32) (BitVec.ofNat 32 (row.getD n 0)) else l) l

/-- The effect of an operation at its completion (R338); an MLOOP has done its steps. -/
def MOp.effect (m : MOp) (s : State) : State :=
  match m.kind with
  | .mma f64 w init modes a b => onTeam m.team (regionStep f64 w init modes m.fixed (if f64 then 8 else 32) 0 m.tile 1 1 a b) s
  | .mloop .. => s
  | .accz => onTeam m.team (fun t => m.tiles.foldl (fun t k => t.putTile k []) t) s
  | .accld o p y modes =>
    onTeam m.team (fun t =>
      t.putTile m.tile ((List.range 16384).map fun i => loadSlot t modes y (o + i / 128 * p + i % 128 * slotBytes y))) s
  | .accst o p y rm sat modes =>
    onTeam m.team (fun t =>
      { t with land := (t.tileWords m.tile).zipIdx.foldl (fun land q =>
          landWrite land modes (o + q.2 / 128 * p + q.2 % 128 * slotBytes y) (storeSlot y rm sat q.1)) t.land }) s
  | .accrd r f64 d mask =>
    match team? s m.team with
    | some t => s.onRunner m.who fun x => { x with l := readRow r f64 d mask (t.tileWords m.tile) x.l }
    | none => s
  | .accwr r f64 mask data => onTeam m.team (fun t => t.putTile m.tile (writeRow r f64 mask data (t.tileWords m.tile))) s

/-- An operation's counters move and its flag is released (R335, R338, R154). -/
def finishMatrix (core k : Nat) (m : MOp) (s : State) : State :=
  let s := m.effect s
  let s := onTeam m.team (fun t => { t with vers := m.tiles.foldl (fun v j => vset v j (vget v j + 1)) t.vers }) s
  let s := match m.flag with
    | some w => s.flagDone m.who w
    | none => s
  sweepTeams (dropCoreOp core k s)

/-- MATRIX_OPERATION_COMPLETE (R338). -/
def execMatrixOperationComplete (core k : Nat) (s : State) : Result :=
  match (coreOps s core)[k]? with
  | none => .next s
  | some m => if m.running && m.kind.finished then .next (finishMatrix core k m s) else .next s

/-! ## The distributor (R345, R346) -/

/-- Every subscriber has subscribed, and the window of each admits the element (R345). -/
def mayOffer (s : State) (x : Stream) : Bool :=
  let subs := s.subs.filter fun b => b.gal == x.gal && b.os == x.os
  x.fault.isNone && decide (x.next < streamTotal x.desc) && x.full
    && subs.all fun b => decide (x.next < b.used / streamElem x.desc + b.window)

/-- An element's bytes offered to a subscriber: those past what it has consumed and holds (R345, R360). -/
def Sub.offer (elem e : Nat) (bs : List Byte) (b : Sub) : Sub :=
  if e < b.got then b else { b with got := e + 1, buf := b.buf ++ bs.drop (b.used - e * elem) }

/-- A distributor has consumed an uncorrectable error of a stream whose owner has exited, so that no instruction traps: it
raises its partition's halt line (R445). -/
def distributorHalt (x : Stream) (e : Nat × Word) (s : State) : State :=
  if e.1 = 0xA1 ∧ !s.runners.any fun r => r.id == x.owner then
    raiseHalt x.part ⟨0x3000 + x.gal, e.1, e.2, 0, 0, 0, x.ctx, 0xFF, partClock s x.part, s.clocks.fabric, true, [], [], false⟩ s
  else s

/-- DISTRIBUTOR_ELEMENT_READ (R345, R346): a cause stays with the stream until its owner takes it. -/
def execDistributorElementRead (gal os : Nat) (s : State) : Result :=
  match s.streams.find? fun x => x.gal == gal && x.os == os && streamToPorts x.desc with
  | none => .next s
  | some x =>
    if halted s x.part then .next s
    else if !mayOffer s x then .next ((x.fault.map fun e => distributorHalt x e s).getD s)
    else
      match readElement s x x.next with
      | .error e => .next (distributorHalt x e (onStream gal os (fun y => { y with fault := some e }) s))
      | .ok (none, t) => .next t
      | .ok (some bs, t) =>
        .next (onStream gal os (fun y => { y with next := y.next + 1 })
          { t with subs := mapIf (fun b => b.gal == gal && b.os == os) (Sub.offer (streamElem x.desc) x.next bs) t.subs })

end Sys2Proof.Machine
end

