-- ==== Sys2Proof/Machine/Launch.lean ====
section
/-! DEFINITION. Launch records, dispatch tables and LAUNCH, waiting for and ending grids, growing and shrinking registers
(spec/15_launch.md R398 to R405, R412, R417). -/

namespace Sys2Proof.Machine

open Sys2Proof

/-! ## Launch records (R398, R403), the record as one number -/

def recPred (w k : Nat) : Nat := bitsN w (383 + 64 * k) (320 + 64 * k)
def recDone (w : Nat) : Nat := bitsN w 319 256
def recDispatch (w : Nat) : Nat := bitsN w 191 128
def recProducer (w : Nat) : Nat := bitsN w 895 832
def recLanding (w : Nat) : Nat := bitsN w 723 704
def recExch (w : Nat) : Nat := bitsN w 743 724
def recAcc (w : Nat) : Nat := bitsN w 676 672
def recSquad (w : Nat) : Nat := bitsN w 667 664
def recRegs (w : Nat) : Nat := bitsN w 656 648
def recGroups (w : Nat) : Nat := bitsN w 647 640
def recQueue (w : Nat) : Nat := bitsN w 685 680

/-- Landing bytes that a team needs on its core (R400). -/
def landNeed (landing exch groups : Nat) : Nat := landing + exch + 8192 * groups

/-- A check of R403 that the record alone decides fails. -/
def launchBad (s : State) (w : Nat) : Bool :=
  let g := recGroups w
  let r := recRegs w
  bitsN w 1023 896 != 0 || bitsN w 831 772 != 0 || bitsN w 703 688 != 0 || bitsN w 679 677 != 0 || bitsN w 671 668 != 0
    || bitsN w 663 657 != 0
    || (recDispatch w == 0 && bitsN w 63 0 % 4 != 0) || bitsN w 127 64 % 256 != 0 || recDispatch w % 64 != 0
    || recDone w == 0 || recDone w % 8 != 0 || s.grids.any (fun x => x.handle.toNat == recDone w)
    || ((List.range 4).any fun k => recPred w k % 8 != 0) || recProducer w % 8 != 0
    || g == 0 || decide (32 < g) || r == 0 || decide (256 < r) || r % 16 != 0
    || recSquad w == 0 || decide (8 < recSquad w) || !([0, 1, 2, 4, 8, 16].contains (recAcc w))
    || recLanding w % 512 != 0 || recExch w % 512 != 0 || decide (recLanding w < recExch w)
    || decide (524288 < landNeed (recLanding w) (recExch w) g) || decide (256 < g * r / 16)

/-- The shape that a launch takes from its record or its bucket (R400, R404). -/
structure Shape where
  entry : Nat
  x : Nat
  y : Nat
  z : Nat
  shape0 : Nat
  masked : Bool

/-- The checks of R403 on X, Y and Z. -/
def shapeBad (squad : Nat) (h : Shape) : Bool :=
  h.x == 0 || decide (2 ^ 24 < h.x * h.y * h.z) || h.x * h.y * h.z % squad != 0

/-- The record's own shape. -/
def recShape (w : Nat) : Shape := ⟨bitsN w 63 0, bitsN w 607 576, max 1 (bitsN w 623 608), max 1 (bitsN w 639 624), 0, false⟩

/-- A bucket breaks R404. -/
def bucketBad (b : Nat) : Bool := bitsN b 191 129 != 0 || bitsN b 127 64 != 0 || bitsN b 63 0 % 4 != 0

/-- A bucket holds a shape (R404). -/
def bucketHolds (h b : Nat) : Bool :=
  (List.range 4).all fun k =>
    let v := h / 2 ^ (32 * k) % 2 ^ 32
    decide (b / 2 ^ (256 + 64 * k) % 2 ^ 32 ≤ v ∧ v ≤ b / 2 ^ (288 + 64 * k) % 2 ^ 32)

/-- The shape that a bucket gives (R404). -/
def bucketShape (h b : Nat) : Shape :=
  ⟨bitsN b 63 0, bitsN b 255 224, max 1 (bitsN b 223 208), max 1 (bitsN b 207 192), h % 2 ^ 32, bitN b 128⟩

/-- The shape that a dispatch table chooses (R404). -/
def readTable (ta : Word) : Op Shape := do
  let c : Copier := ⟨false, none, 7, 0⟩
  let h := leNat (← c.load ta 64 64)
  let n := bitsN h 131 128
  need (bitsN h 511 132 == 0 && n != 0 && decide (n ≤ 8)) 0x93 ta
  let bs := wordsOf 64 n (← c.load (ta + 64) (64 * n) 64)
  need (!bs.any bucketBad) 0x93 ta
  match bs.find? (bucketHolds h) with
  | some b => return bucketShape h b
  | none => stopTrap 0x94 ta

/-! ## LAUNCH (R402) -/

/-- The same operation with another address reported. -/
def faultingAt (a : Word) (m : Op α) : Op α := fun s =>
  match m s with
  | .error (.trap cause _) => .error (.trap cause a)
  | r => r

/-- An aligned dword that a launch names, checked (R402): its physical address and key. -/
def namedWord (a : Word) (n : Need) : Op Tr := do
  let s ← get
  match probe s s.me a 8 n with
  | .error c => stopTrap c a
  | .ok t => return t

/-- The predecessors' words (R402, R407). -/
def predWords : List Nat → Op (List (Nat × Nat))
  | [] => return []
  | p :: l =>
    if p = 0 then predWords l
    else do
      let t ← namedWord (BitVec.ofNat 64 p) Need.read
      return (t.pa, (keyId (← get) t.key).getD 0) :: (← predWords l)

/-- Squads of a grid. -/
def Grid.squads (g : Grid) : Nat := g.x * g.y * g.z / g.squad

/-- The grid still holds a place of its queue (R407): it has squads not yet placed. -/
def Grid.unplaced (g : Grid) : Bool := g.stop.isNone && decide (g.nextSquad < g.squads)

/-- Grids that hold places of a queue (R407). -/
def queueLoad (s : State) (part q : Nat) : Nat := (s.grids.filter fun g => g.part == part && g.queue == q && g.unplaced).length

/-- The depth of the issuer's grid; 0 for a host core (R402). -/
def issuerDepth (s : State) : Nat :=
  if s.me.isHost then 0 else ((s.grids.find? fun g => g.handle == s.me.grid).map (·.depth)).getD 0

/-- The grid of a record, whose completion word stands at a place. -/
def newGrid (s : State) (w : Nat) (h : Shape) (t : Tr) (preds : List (Nat × Nat)) : Grid where
  handle := BitVec.ofNat 64 (recDone w)
  ctx := s.me.ctx
  part := s.me.part
  entry := BitVec.ofNat 64 h.entry
  laneBase := if bitsN w 127 64 = 0 then ((ctx? s s.me.ctx).map (·.lcbase)).getD 0 else BitVec.ofNat 64 (bitsN w 127 64)
  args := BitVec.ofNat 64 (bitsN w 255 192)
  x := h.x
  y := h.y
  z := h.z
  groups := recGroups w
  regs := recRegs w
  squad := recSquad w
  acc := recAcc w
  landing := recLanding w
  exch := recExch w
  lswz := BitVec.ofNat 24 (bitsN w 767 744)
  queue := recQueue w
  prio := bitsN w 687 686
  done := (t.pa, (keyId s t.key).getD 0)
  doneComp := t.comp
  preds := preds
  producer := BitVec.ofNat 64 (recProducer w)
  runany := bitN w 771
  contain := bitN w 770
  ckpt := bitN w 769
  prot := bitN w 768
  shape0 := h.shape0
  masked := h.masked
  depth := issuerDepth s + 1
  parent := if s.me.isHost then none else some s.me.grid
  ready := preds.isEmpty
  nextSquad := 0
  ended := 0
  stop := none
  unplacedSince := partClock s s.me.part
  code := []

/-- DONE is set to 0 at its home before the grid can complete (R402), once the holder of the fallback lock lets it arrive
(R288). -/
def clearDone (t : Tr) : Op Unit := do
  let s ← get
  readyIf (!sectorsLocked s (some s.me.id) s.me.die t.pa 8)
  writeAt (leadAgent s) t (leBytes 8 0)
  modify fun s => drainSectors s (some s.me.id) s.me.die t.pa 8

/-- LAUNCH (R402). -/
def launchForm (d a : Reg) (try_ : Bool) : State → Result := runLead do
  needCtx
  notInTx
  readyIf (outboundIdle (← get))
  before 7 2
  let ra ← reg a
  need (ra.toNat % 128 == 0) 0x24 ra
  let t ← leadCheck ra 128 Need.read
  let w := leNat (← readAt (leadAgent (← get)) t 128)
  let s ← get
  need (issuerDepth s != 10) 0x91 ra
  need (!launchBad s w) 0x93 ra
  let shape ← if recDispatch w = 0 then pure (recShape w)
    else faultingAt (BitVec.ofNat 64 (recDispatch w)) (readTable (BitVec.ofNat 64 (recDispatch w)))
  need (!shapeBad (recSquad w) shape) 0x93 ra
  let t ← faultingAt ra (namedWord (BitVec.ofNat 64 (recDone w)) Need.write)
  need (!rangeHit s s.me.part t.pa 8 true) 0x25 ra
  let preds ← faultingAt ra (predWords ((List.range 4).map (recPred w)))
  let _ ← faultingAt ra (predWords [recProducer w])
  if 256 ≤ queueLoad s s.me.part (recQueue w) then
    if try_ then setReg d 0 else throw .wait
  else do
    clearDone t
    modify fun s => { s with grids := s.grids ++ [newGrid s w shape t preds] }
    modify markDirty
    setReg d (BitVec.ofNat 64 (recDone w))
  spendAnswers (leadAgent (← get))

/-- LAUNCH (R401, R402). -/
def execLaunch (d a : Reg) : State → Result := launchForm d a false

/-- LAUNCH.try (R401, R402). -/
def execLaunchTry (d a : Reg) : State → Result := launchForm d a true

/-! ## Waiting, status and ending (R417) -/

/-- LWAITG (R417): it reads the word again until bit 63 is set, an answer from outside each time anew. -/
def execLwaitg (d a : Reg) : State → Result := runLead do
  notInTx
  let ea ← reg a
  let t ← leadCheck ea 8 Need.read
  let v := BitVec.ofNat 64 (← leadRead ea t 8)
  if v.getLsbD 63 then setReg d v
  else
    throw (.park fun s =>
      if s.outb.isEmpty then s
      else outSpend s.me.id (.instr false) { s with me := { s.me with wait := if s.me.wait = .answer then .none else s.me.wait } })

/-- The live grid of the issuer's context that a handle names; 0 names the issuer's own (R417). -/
def namedGrid (s : State) (h : Word) : Option Grid :=
  let h := if h = 0 ∧ !s.me.isHost then s.me.grid else h
  s.grids.find? fun g => g.handle == h && g.ctx == s.me.ctx

/-- Every team of a grid has ended (R416). -/
def teamsOver (s : State) (g : Grid) : Bool :=
  !g.unplaced && !(s.teams.any fun t => t.grid == g.handle && !t.exited)
    && !s.saved.any fun v => v.squad.grid == g.handle

/-- STATE of GSTAT (R417). -/
def gridState (s : State) (g : Grid) : Nat :=
  if !g.ready then (if g.stop.isSome then 5 else 1)
  else if teamsOver s g then 5
  else if g.nextSquad = 0 then 2
  else if g.unplaced then 3
  else 4

/-- The word of GSTAT (R417). -/
def gridWord (s : State) (g : Grid) : Word :=
  let children := (s.grids.filter fun c => c.parent == some g.handle).length
  BitVec.ofNat 64
    (gridState s g * 2 ^ 61 + g.depth * 2 ^ 56 + min 255 children * 2 ^ 48
      + g.nextSquad * g.squad % 2 ^ 24 * 2 ^ 24 + g.ended % 2 ^ 24)

/-- GSTAT (R417). -/
def execGstat (d a : Reg) : State → Result := runLead do
  let h ← reg a
  let s ← get
  match namedGrid s h with
  | some g => setReg d (gridWord s g)
  | none => setReg d 0

/-- TEXIT (R168, R417): the group exits once its lanes are done; its exit may complete a barrier. -/
def execTexit : State → Result := runLead do
  needGroup
  notInTx
  waitDrained
  let s ← get
  let t := countExit s.me.team (dropRunners (fun r => r.id == s.me.id) s)
  settle s.me.team (((myTeam s).map (·.squad)).getD 0) t

/-- GEXIT (R417). -/
def execGexit (a b : Reg) : State → Result := runLead do
  notInTx
  readyIf (outboundIdle (← get))
  before 7 2
  let h ← reg a
  let code := slice (← reg b) 15 0
  modify markDirty
  match namedGrid (← get) h with
  | some g => modify (endGrid g.handle 1 code)
  | none => pure ()

/-! ## Registers (R412, R413) -/

/-- Register blocks of a number of registers. -/
def blocksOf (n : Nat) : Nat := n / 16

/-- Groups resident on a core. -/
def groupsOn (s : State) (core : Nat) : List Runner := s.runners.filter fun r => !r.isHost && r.core == core

/-- Register blocks in use on a core. -/
def blocksHeld (s : State) (core : Nat) : Nat := ((groupsOn s core).map fun r => blocksOf r.l.count).foldl (· + ·) 0

/-- Blocks that a waiting VGROW of a group still asks for. -/
def blocksAsked (r : Runner) : Nat :=
  match r.l.grow with
  | some (n, _) => blocksOf n - blocksOf r.l.count
  | none => 0

/-- Blocks that the other groups of the issuer's team hold and ask for, with those it holds. -/
def teamBlocks (s : State) : Nat :=
  ((s.runners.filter fun r => !r.isHost && r.team == s.me.team).map fun r =>
    blocksOf r.l.count + if r.id = s.me.id then 0 else blocksAsked r).foldl (· + ·) 0

/-- A count that VGROW and VSHRINK take (R412). -/
def countOk (n : Nat) : Bool := n != 0 && n % 16 == 0 && decide (n ≤ 256)

/-- A waiting VGROW of an earlier-placed group stands before this one (R413). -/
def growBehind (s : State) (r : Runner) : Bool :=
  (groupsOn s r.core).any fun x => x.l.grow.isSome && decide (x.placed < r.placed)

/-- The register count of a group rises to n, the new registers 0 (R412). -/
def growTo (n : Nat) (l : Lanes) : Lanes :=
  { l with
    v := l.v.mapIdx fun k x => if l.count ≤ k ∧ k < n then Vector.replicate 32 0 else x
    count := n
    grow := none }

/-- VGROW (R412, R413). -/
def execVgrow (d a : Reg) : State → Result := runLead do
  needGroup
  notInTx
  let v ← reg a
  let n := v.toNat
  need (countOk n) 0x92 0
  let s ← get
  let c := s.me.l.count
  if n ≤ c then setReg d (BitVec.ofNat 64 c)
  else do
    need (decide (teamBlocks s + (blocksOf n - blocksOf c) ≤ 256)) 0x92 0
    if blocksHeld s s.me.core + (blocksOf n - blocksOf c) ≤ 256 ∧ !growBehind s s.me then do
      onLanes (growTo n)
      setReg d v
    else
      throw (.park fun s => { s with me := { s.me with l := { s.me.l with
        grow := s.me.l.grow.or (some (n, coreClock s s.me.core)) } } })

/-- VSHRINK (R412). -/
def execVshrink (d a : Reg) : State → Result := runLead do
  needGroup
  notInTx
  let v ← reg a
  let n := v.toNat
  need (countOk n) 0x92 0
  let s ← get
  if s.me.l.count ≤ n then setReg d (BitVec.ofNat 64 s.me.l.count)
  else do
    waitDrained
    onLanes fun l => { l with count := n }
    setReg d v

end Sys2Proof.Machine
end

