-- ==== Sys2Proof/Machine/System.lean ====
section
/-! DEFINITION. Control and status registers (spec/16_traps.md R425 to R431), return from a handler (R435, R436), TRAP
and ASSERT (R440 to R444), halt and pre-emption requests (R450, R451), checkpoint and injector instructions
(spec/17_protection.md R470 to R472). -/

namespace Sys2Proof.Machine

open Sys2Proof

/-! ## Reading registers (R426) -/

/-- A register of the context of the runner in focus. -/
def ctxReg (s : State) (f : Ctx → Word) : Word := ((ctx? s s.me.ctx).map f).getD 0

/-- A register of the partition of the runner in focus. -/
def partReg (s : State) (f : Part → Word) : Word := ((s.parts.find? fun p => p.no == s.me.part).map f).getD 0

/-- The team's swizzle modes (R180). -/
def lswzOf (s : State) : Word := BitVec.ofNat 64 ((((myTeam s).map (·.lswz)).getD 0 : BitVec 24)).toNat

/-- The weight of a queue (R409): 0 reads as 1. -/
def queueWeight (p : Part) (q : Nat) : Nat := max 1 (vget p.qwgt q).toNat

/-- The value of a register that the runner in focus holds (R426). A host core's TVEC is its own while it runs no context,
and the context's otherwise (R429). -/
def csrValue (s : State) (c : Nat) : Word :=
  let r := s.me
  let l := r.l
  match c with
  | 0x000 => BitVec.ofNat 64 (if r.isHost then s.clocks.host else coreClock s r.core)
  | 0x008 => lswzOf s
  | 0x009 => l.mfb
  | 0x00A => r.txretry
  | 0x00B => ctxReg s (·.tldef)
  | 0x00C => ctxReg s (·.trecl)
  | 0x00D => l.osfault
  | 0x100 => r.status
  | 0x101 => if r.inTrap then r.cause.setWidth 64 else 0
  | 0x102 => r.epc
  | 0x103 => l.lpc.setWidth 64
  | 0x104 => r.faultaddr
  | 0x105 => if r.inTrap then l.faultmask.setWidth 64 else 0
  | 0x106 => l.fragmask.setWidth 64
  | 0x107 => l.skipmask.setWidth 64
  | 0x108 => if r.isHost ∧ r.ctx = 0 then r.tvec else ctxReg s (·.tvec)
  | 0x109 => ctxReg s (·.slcbase)
  | 0x10A => r.sscr0
  | 0x10B => r.sscr1
  | 0x110 => BitVec.ofNat 64 r.ctx
  | 0x111 => ctxReg s (·.tkey)
  | 0x112 => ctxReg s (·.ptroot)
  | 0x113 => ctxReg s (·.atrbase)
  | 0x114 => ctxReg s (·.atrlim)
  | 0x115 => ctxReg s (·.lcbase)
  | 0x116 => 0
  | 0x117 => ctxReg s (·.slotbase)
  | 0x118 => ctxReg s (·.dbgrec)
  | 0x119 => ctxReg s (·.notify)
  | 0x11A => r.slsel
  | 0x11B => BitVec.ofNat 64 (clkRead s (slice r.slsel 7 6) (slice r.slsel 5 0))
  | 0x11D => BitVec.ofNat 64 r.ctx
  | 0x120 => partReg s (·.stopbase)
  | 0x121 => partReg s (·.haltstat)
  | n => if 0x140 ≤ n ∧ n < 0x180 then partReg s fun p => BitVec.ofNat 64 (queueWeight p (n - 0x140)) else 0

/-- The value of a register as the runner in focus reads it (R426); none where the number names no register for it. -/
def csrRead (s : State) (c : Nat) : Option Word := if csrNames s.me c then some (csrValue s c) else none

/-! ## Writes with an effect of their own -/

/-- Every TLB entry of the package is invalidated (R428, R115). -/
def tlbAll (s : State) : State := invalidate s (fun _ => true) fun _ => true

/-- Every entry of a context is invalidated (R428, R115). -/
def tlbCtx (n : Nat) (s : State) : State := invalidate s (fun t => t.ctx == n) fun x => x.ctx == n

/-- The entry of a context that maps an address at a size is invalidated (R428, R115). -/
def tlbPage (n : Nat) (va : Word) (k : Nat) (s : State) : State :=
  let page := slice va 47 0 / pageBytes k
  invalidate s (fun t => t.ctx == n && t.size == k && t.va == page * pageBytes k)
    fun x => x.ctx == n && slice x.base 47 0 / pageBytes k == page

/-- A write of TLBINV (R428). -/
def tlbWrite (v : Word) (s : State) : State :=
  if v.getLsbD 0 then tlbAll s
  else if v.getLsbD 1 then tlbCtx s.me.ctx s
  else tlbPage s.me.ctx (v &&& 0xFFFFFFFFFFFFF000) (slice v 11 8) s

/-- A context's registers at creation (R429). -/
def Ctx.fresh (n : Nat) : Ctx where
  id := n
  tldef := 0x0400
  trecl := 0
  tvec := 0
  slcbase := 0
  tkey := 0
  ptroot := 0
  atrbase := 0
  atrlim := 0
  lcbase := 0
  slotbase := 0
  dbgrec := 0
  notify := 0
  suspended := false
  asserted := false
  ending := false
  asserts := 0
  noteDue := false
  poolBase := 0
  poolSize := 0

/-- Context n becomes live unless it is (R429). -/
def createCtx (n : Nat) (s : State) : State :=
  if n = 0 ∨ (ctx? s n).isSome then s else { s with ctxs := Ctx.fresh n :: s.ctxs }

/-- A context that a core may bind (R429). -/
def liveCtx (s : State) (n : Nat) : Bool := s.ctxs.any fun c => c.id == n && !c.ending

/-- A host core switches to a context (R429, R290): its earlier accesses are performed, its transaction starts again
when the thread next runs. -/
def switchCtx (n : Nat) (s : State) : State :=
  let s := performTickets (fun e => e.who == s.me.id) (arriveAll s fun w => w.who == s.me.id)
  { s with
    wicket := if s.me.tx.active then s.wicket.release s.me.id else s.wicket
    me := { s.me.setAside with ctx := n } }

/-- The team's swizzle modes change (R180). -/
def setLswz (v : BitVec 24) (s : State) : State :=
  if s.me.isHost then s else onTeam s.me.team (fun t => { t with lswz := v }) s

/-- A register of the context of the runner in focus changes. -/
def setCtxReg (f : Ctx → Ctx) (s : State) : State := { s with ctxs := mapIf (fun c => c.id == s.me.ctx) f s.ctxs }

/-- A register of the partition of the runner in focus changes. -/
def setPartReg (f : Part → Part) (s : State) : State := { s with parts := mapIf (fun p => p.no == s.me.part) f s.parts }

/-- STATUS after a write (R427): PMODE, and on a host core PIE and IE. -/
def statusWrite (host : Bool) (v st : Word) : Word :=
  let st := setBit st 1 (v.getLsbD 1)
  if host then setBit (setBit st 5 (v.getLsbD 5)) 4 (v.getLsbD 4) else st

/-- A register write in the fields that a write reaches; a register that the runner does not hold, and a read-only one,
are left alone (R425, R426). -/
def csrStore (c : Nat) (v : Word) (s : State) : State :=
  let r := s.me
  let me (f : Runner → Runner) : State := { s with me := f r }
  let lanes (f : Lanes → Lanes) : State := if r.isHost then s else { s with me := { r with l := f r.l } }
  match c with
  | 0x008 => setLswz (v.setWidth 24) s
  | 0x009 => lanes fun l => { l with mfb := v }
  | 0x00A => me fun r => { r with txretry := v &&& 0x1FF }
  | 0x00B => setCtxReg (fun c => { c with tldef := v }) s
  | 0x00C => setCtxReg (fun c => { c with trecl := v }) s
  | 0x100 => me fun r => { r with status := statusWrite r.isHost v r.status }
  | 0x101 => me fun r => { r with cause := v.setWidth 8 }
  | 0x102 => me fun r => { r with epc := v }
  | 0x103 => lanes fun l => { l with lpc := v.setWidth 22 }
  | 0x104 => me fun r => { r with faultaddr := v }
  | 0x107 => lanes fun l => { l with skipmask := v.setWidth 32 }
  | 0x108 => if r.isHost ∧ r.ctx = 0 then me fun r => { r with tvec := v } else setCtxReg (fun c => { c with tvec := v }) s
  | 0x109 => setCtxReg (fun c => { c with slcbase := v }) s
  | 0x10A => me fun r => { r with sscr0 := v }
  | 0x10B => me fun r => { r with sscr1 := v }
  | 0x111 => setCtxReg (fun c => { c with tkey := v }) s
  | 0x112 => setCtxReg (fun c => { c with ptroot := v }) s
  | 0x113 => setCtxReg (fun c => { c with atrbase := v }) s
  | 0x114 => setCtxReg (fun c => { c with atrlim := v }) s
  | 0x115 => setCtxReg (fun c => { c with lcbase := v }) s
  | 0x117 => setCtxReg (fun c => { c with slotbase := v }) s
  | 0x118 => setCtxReg (fun c => { c with dbgrec := v }) s
  | 0x119 => setCtxReg (fun c => { c with notify := v &&& 0x3F }) s
  | 0x11A => me fun r => { r with slsel := v &&& 0xFF }
  | 0x11B => setClk (slice r.slsel 7 6) (slice r.slsel 5 0) (slice v 1 0) s
  | 0x120 => setPartReg (fun p => { p with stopbase := v }) s
  | n => if 0x140 ≤ n ∧ n < 0x180 then setPartReg (fun p => { p with qwgt := vset p.qwgt (n - 0x140) (v &&& 0xFF) }) s else s

/-- A register write by the runner in focus, with the checks that its register asks for (R425 to R429). -/
def csrWrite (c : Nat) (v : Word) : Op Unit :=
  match c with
  | 0x116 => do
    needField (slice v 7 2 == 0)
    modify (tlbWrite v)
  | 0x11C => do
    needField (slice v 63 17 == 0 && v.getLsbD 16 && slice v 15 0 != 0)
    modify (createCtx (slice v 15 0))
  | 0x11D => do
    let n := slice v 15 0
    needField (n == 0 || liveCtx (← get) n)
    let s ← get
    readyIf (outboundIdle s && ticketsReadable s fun e => e.who == s.me.id)
    readyIf (!arriveLocked s fun w => w.who == s.me.id)
    modify (switchCtx n)
  | c => modify (csrStore c v)

/-! ## The CSR instructions (R430, R431) -/

/-- The value of the register that a lead form names: ILLEGAL_OPCODE where it names none, PRIVILEGE for a supervisor
register at user level (R64). -/
def csrNamed (c : BitVec 10) : Op Word := do
  match csrRead (← get) c.toNat with
  | none => stopTrap 0x01 (← get).issue.pc
  | some v => do
    if 0x100 ≤ c.toNat then needSup else pure ()
    return v

/-- CSRWR, CSRSET and CSRCLR (R430): s[a] is read before s[d] is written. -/
def csrForm (d a : Reg) (c : BitVec 10) (f : Word → Word → Word) : State → Result := runLead do
  let old ← csrNamed c
  notInTx
  csrWrite c.toNat (f old (← reg a))
  setReg d old

/-- CSRRD (R430). -/
def execCsrrd (d : Reg) (c : BitVec 10) : State → Result := runLead do
  setReg d (← csrNamed c)

/-- CSRWR (R430). -/
def execCsrwr (d a : Reg) (c : BitVec 10) : State → Result := csrForm d a c fun _ x => x

/-- CSRSET (R430). -/
def execCsrset (d a : Reg) (c : BitVec 10) : State → Result := csrForm d a c fun old x => old ||| x

/-- CSRCLR (R430). -/
def execCsrclr (d a : Reg) (c : BitVec 10) : State → Result := csrForm d a c fun old x => old &&& ~~~x

/-- The fields of VCSRRD (R431). -/
def vcsrrdRule (r : Runner) (f : LaneF) : LRule :=
  let n := f.imm.toNat % 1024
  { type := decide (f.ty.toNat < 2) && (csrNames r n || [0x0C0, 0x0C1, 0x0C2].contains n)
    d := useOf (tyBits f.ty.toNat)
    i16 := 0x3FF
    priv := decide (0x100 ≤ n) && !r.sup }

/-- A register as a lane reads it (R431): its own value of a per-lane register, the group's of any other. -/
def vcsrValue (s : State) (c k : Nat) : Word :=
  match c with
  | 0x0C0 => if s.me.inTrap then (vget s.me.l.vcause k).setWidth 64 else 0
  | 0x0C1 => if s.me.inTrap && vget s.me.l.vcause k != 0 then vget s.me.l.vfault k else 0
  | 0x0C2 => BitVec.ofNat 64 k
  | c => csrValue s c

/-- VCSRRD (R431). -/
def execVcsrrd (s : State) : Result :=
  runLane (vcsrrdRule s.me) (fun c => do
    let s ← get
    writeD c (tyBits c.f.ty.toNat) fun k => (vcsrValue s (c.f.imm.toNat % 1024) k).toNat) s

/-! ## Returning, trapping, asserting -/

/-- A handler's return lets the distributor read again the elements whose faults the group took (R346). -/
def clearStreamFault (s : State) : State :=
  let mine (x : Stream) : Bool := x.owner == s.me.id && streamToPorts x.desc && x.raised && BitVec.ofNat 64 (x.os + 1) == s.me.l.osfault
  { s with streams := mapIf mine (fun x => { x with fault := none, raised := false }) s.streams }

/-- The queue entry that a lane trap reported is read again (R121). -/
def rereadTrapped (s : State) : State :=
  match lowestLane s.me.l.faultmask with
  | some k => if s.me.status.getLsbD 7 then rereadMarked (vget s.me.l.vfault k) s else s
  | none => s

/-- A return that begins a transaction again (R290): the runner's earlier accesses are performed at package scope first
(R279). -/
def beforeBack : Op Unit := do
  let r ← getMe
  if r.txHeld.any fun x => x.1 == r.ctx && x.2.resume == r.epc then before 5 3 else pure ()

/-- RFE (R435, R436, R429). -/
def execRfe : State → Result := runLead do
  needSup
  notInTx
  let s ← get
  if s.me.isHost then do
    need (s.me.status.getLsbD 1 || s.me.ctx != 0) 0x05 s.issue.pc
    beforeBack
    onMe hostReturn
  else do
    waitDrained
    beforeBack
    modify fun s => clearStreamFault (rereadTrapped s)
    onMe groupReturn

/-- TRAP (R440). -/
def execTrap (i : BitVec 16) : State → Result := runLead do
  notInTx
  throw (.trapAt 0xB2 (i.setWidth 64) (← get).issue.next)

/-- Every squad of a context begins to leave, and none of it is placed (R451). -/
def suspendCtx (n : Nat) (s : State) : State :=
  { s with
    ctxs := mapIf (fun c => c.id == n) (fun c => { c with suspended := true }) s.ctxs
    squads := mapIf (fun q => q.ctx == n) (fun q => { q with leaving := true }) s.squads }

/-- The debug record of a failed ASSERT of the group in focus (R444). -/
def debugRecord (s : State) (seq : Nat) (msg pc : Word) (slot : Nat) (fail : Mask) (lane : Nat) : List Byte :=
  let r := s.me
  leBytes 8 1 ++ leBytes 8 0 ++ leBytes 8 seq ++ leBytes 8 r.grid.toNat
    ++ leBytes 8 (r.ctx % 2 ^ 16 * 2 ^ 48 + lane * 2 ^ 40 + r.slot * 2 ^ 32 + r.core * 2 ^ 16)
    ++ leBytes 8 (slot * 2 ^ 42 + fail.toNat) ++ leBytes 8 pc.toNat ++ leBytes 8 msg.toNat

/-- A failed ASSERT of the group in focus (R443): the record, and the whole context suspends; the notice goes out when
its squads are saved. -/
def assertFail (msg pc : Word) (slot : Nat) (fail : Mask) (lane : Nat) (s : State) : State :=
  match ctx? s s.me.ctx with
  | none => s
  | some c =>
    let rec_ := debugRecord s (c.asserts + 1) msg pc slot fail lane
    let t := suspendCtx c.id (physWrite c.dbgrec.toNat rec_ s)
    { t with
      me := { t.me with asserted := true }
      ctxs := mapIf (fun x => x.id == c.id) (fun x => { x with asserts := x.asserts + 1, asserted := true, noteDue := true }) t.ctxs }

/-- A failing ASSERT of a context that another ASSERT has suspended stays unexecuted (R443). -/
def assertWaits (s : State) : Bool := s.ctxs.any fun c => c.id == s.me.ctx && c.asserted

/-- ASSERT (R441, R443). -/
def execAssert (a b : Reg) : State → Result := runLead do
  notInTx
  let s ← get
  if (← reg a) ≠ 0 then pure ()
  else if s.me.isHost || s.me.inTrap then stopTrap 0xB1 (← reg b)
  else do
    if assertWaits s then throw (.park fun s => { s with me := { s.me with epc := s.issue.pc, asserted := true } })
    onMe fun r => { r with epc := s.issue.next }
    modify (assertFail (← reg b) s.issue.pc 0 s.me.l.live 0xFF)

/-- The fields of the lane ASSERT (R442). -/
def laneAssertRule (f : LaneF) : LRule where
  noType := true
  d := .none
  a := .one
  b := .pair
  also := !f.qa && !f.qb
  tx := false

/-- The lanes of the group in focus stop where they stand, in the middle of a clause (R443, R452). -/
def stopLanes (s : State) : State :=
  let u := s.me.l.run
  { s with me := { s.me with l := { s.me.l with run := { u with cur := u.cur.map fun c => { c with stall := some assertStall } } } } }

/-- The lane ASSERT (R442, R443). -/
def execLaneAssert : State → Result := runLane laneAssertRule fun c => do
  let s ← get
  let bad := (lanesOf c.act).filter fun k => c.a k == 0
  match bad with
  | [] => pure ()
  | k :: _ => do
    if s.me.inTrap then throw (.frag 0xB1 (BitVec.ofNat 64 (c.b k))) else pure ()
    if assertWaits s then
      throw (.park fun s =>
        stopLanes { s with me := { s.me with asserted := true, l := { s.me.l with lpc := BitVec.ofNat 22 c.slot } } })
    onMe fun r => { r with l := { r.l with lpc := BitVec.ofNat 22 (c.slot + 1) } }
    modify fun t => stopLanes (assertFail (BitVec.ofNat 64 (c.b k)) (slotAddr s c.slot) c.slot (maskOf bad) k t)

/-! ## Halts and pre-emption -/

/-- HALTP.ctx (R450): waits until the end is reported complete. A core that its own end unbound waits for the ends in
progress. -/
def execHaltpCtx (a : Reg) : State → Result := runLead do
  needSup
  notInTx
  let s ← get
  let n := slice (← reg a) 15 0
  let n := if n = 0 then s.me.ctx else n
  match ctx? s n with
  | none => readyIf (n != 0 || !s.ctxs.any (·.ending))
  | some c => do
    readyIf (!c.ending)
    if (ctx? (endContext n s) n).isNone || (!s.me.isHost && s.me.ctx == n) then modify (endContext n)
    else throw (.park (endContext n))

/-- The engine number of the raiser (R448): a group's core; a host core has none, and a free value stands there. -/
def raiserOf (s : State) : Nat :=
  if s.me.isHost then (Config.freeByte s.free).toNat + 256 * (Config.freeByte (s.free + 1)).toNat else s.me.core

/-- HALTP.part (R450). -/
def execHaltpPart (a : Reg) : State → Result := runLead do
  needSup
  notInTx
  let s ← get
  let r := s.me
  let h : Halt :=
    ⟨raiserOf s, slice (← reg a) 7 0, 0, s.issue.pc, r.laneSlot, 0, r.ctx, r.slot, partClock s r.part, s.clocks.fabric, !r.isHost, [], [], false⟩
  modify fun s => { raiseHalt r.part h s with free := if r.isHost then s.free + 2 else s.free }

/-- PREEMPT.sus (R451): waits until every squad is saved; a group that names its own context is saved with it. -/
def execPreemptSus (a : Reg) : State → Result := runLead do
  needSup
  notInTx
  let s ← get
  let n := slice (← reg a) 15 0
  if (ctx? s n).isNone then pure ()
  else if (!s.me.isHost && s.me.ctx == n) || !s.squads.any (fun q => q.ctx == n) then modify (suspendCtx n)
  else throw (.park (suspendCtx n))

/-- PREEMPT.res (R451). -/
def execPreemptRes (a : Reg) : State → Result := runLead do
  needSup
  notInTx
  let n := slice (← reg a) 15 0
  modify fun s => { s with ctxs := mapIf (fun c => c.id == n) (fun c => { c with suspended := false, asserted := false }) s.ctxs }

/-! ## Injectors and checkpoints -/

/-- The control word of INJARM holds no reserved value (R472). -/
def injectorOk (v : Word) : Bool :=
  let link := slice v 23 16
  decide (slice v 31 29 < 4) && slice v 28 24 == 0 && slice v 14 12 == 0 && slice v 7 0 == 0
    && (decide (link < 6) || decide (8 ≤ link ∧ link < 20))

/-- INJARM (R472): an arming replaces the link's earlier one in that direction. -/
def armForm (a b : Reg) (rep : Bool) : State → Result := runLead do
  needSup
  notInTx
  let v ← reg a
  needField (injectorOk v)
  let i : Injector := ⟨slice v 23 16, v.getLsbD 15, slice v 63 32, slice v 31 29, slice v 11 8, ← reg b, rep⟩
  modify fun s =>
    let rest := s.injectors.filter fun j => !(j.link == i.link && j.dir == i.dir)
    { s with injectors := if i.n = 0 ∨ i.act = 0 then rest else i :: rest }

/-- INJARM (R472). -/
def execInjarm (a b : Reg) : State → Result := armForm a b false

/-- INJARM.rep (R472). -/
def execInjarmRep (a b : Reg) : State → Result := armForm a b true

/-- A team of a context holds pool space (R470). -/
def poolHeld (s : State) (n : Nat) : Bool :=
  (s.teams.any fun t => t.ctx == n && t.ck.isSome && !t.exited) ||
    s.saved.any fun v => v.teams.any fun t => t.ctx == n && t.ck.isSome

/-- CKPT.pool (R470). -/
def execCkptPool (a b : Reg) : State → Result := runLead do
  needSup
  notInTx
  let base ← reg a
  let size ← reg b
  need (slice base 15 0 == 0) 0x24 base
  need (slice size 15 0 == 0) 0x24 size
  let s ← get
  readyIf (!poolHeld s s.me.ctx)
  modify (setCtxReg fun c => { c with poolBase := base.toNat, poolSize := size.toNat })


/-- CKPT.stat (R470). -/
def execCkptStat (d : Reg) : State → Result := runLead do
  needGroup
  needSup
  notInTx
  setReg d (ckptWord ((myTeam (← get)).bind (·.ck)))

/-- CKPT.rb (R470): as if the group had consumed an uncorrectable error (R469). -/
def execCkptRb : State → Result := runLead do
  needGroup
  needSup
  notInTx
  throw (.park fun s => fatalGroup 0xA1 0 s.me.l.live s.me.laneSlot s)

/-! ## The writes as steps of their own -/

/-- TLB_INVALIDATE_ALL (R428). -/
def execTlbInvalidateAll (s : State) : Result := .next (tlbAll s)

/-- TLB_INVALIDATE_CONTEXT (R428). -/
def execTlbInvalidateContext (s : State) : Result := .next (tlbCtx s.me.ctx s)

/-- TLB_INVALIDATE_PAGE (R428). -/
def execTlbInvalidatePage (va : Word) (k : BitVec 4) (s : State) : Result := .next (tlbPage s.me.ctx va k.toNat s)

/-- CTXCTL_CREATE (R429). -/
def execCtxctlCreate (n : BitVec 16) (s : State) : Result := .next (createCtx n.toNat s)

/-- CURCTX_WRITE (R429). -/
def execCurctxWrite (n : BitVec 16) : State → Result := runEvent do
  readyIf (← get).me.isHost
  csrWrite 0x11D (n.setWidth 64)

/-- LSWZ_WRITE (R180). -/
def execLswzWrite (v : BitVec 24) (s : State) : Result := .next (setLswz v s)

/-- REGISTER_WRITE (R425, R426): by the runner in focus. -/
def execRegisterWrite (c : BitVec 10) (v : Word) : State → Result := runEvent do
  readyIf (csrRead (← get) c.toNat).isSome
  csrWrite c.toNat v

/-- The device registers change. -/
def onDev (f : Dev → Dev) (s : State) : State := { s with dev := f s.dev }

/-- KEY_INSTALL (R492): the last dword of a key-slot write is stored. -/
def execKeyInstall (n : BitVec 8) (v : Word) (s : State) : Result := .next (onDev (keyWrite n.toNat 7 v) s)

/-- WINDOW_REGISTER_WRITE (R484). -/
def execWindowRegisterWrite (n : BitVec 6) (ctl : Bool) (v : Word) (s : State) : Result :=
  .next (onDev (windowWrite n.toNat ctl v) s)

/-- COUNTER_CLEAR (R483). -/
def execCounterClear (off : Nat) (s : State) : Result := .next (onDev (counterClear off) s)

/-- NOTICE_CLEAR (R483). -/
def execNoticeClear (v : Word) (s : State) : Result := .next (onDev (noticeClear v) s)

end Sys2Proof.Machine
end

