-- ==== Sys2Proof/Machine/Slots.lean ====
section
/-! DEFINITION. Context slots: what pre-emption of a squad saves and what its resumption reads back
(spec/16_traps.md R451 to R461; spec/05_lane_control.md R166; spec/09_transactions.md R290; spec/12_matrix.md R359, R360). -/

namespace Sys2Proof.Machine

open Sys2Proof

/-! ## Places (R457) -/

/-- The group slot of a core and slot number. -/
def groupSlotAt (base core slot : Nat) : Nat := base + (32 * core + slot) * 0xC000

/-- The core slot of a core. -/
def coreSlotAt (base core : Nat) : Nat := base + 0x24000000 + core * 0x190000

/-- Bytes of an image stored, those undefined as free values. -/
def writeImage (a : Nat) (img : List (Option Byte)) (s : State) : State :=
  { physWrite a (fillFree s.free img) s with free := s.free + img.length }

/-! ## Lane control in a group slot (R166, R459, R460) -/

/-- Bytes cut or filled with zeros to a length. -/
def padTo (n : Nat) (bs : List Byte) : List Byte := bs.take n ++ List.replicate (n - bs.length) 0

/-- A fragment record (R166). -/
def Frag.toNat (x : Frag) : Nat :=
  let st : Nat × Nat :=
    match x.st with
    | .runnable => (0, 0)
    | .teamBar n _ => (1, n)
    | .squadBar n => (2, n)
  x.mask.toNat * 2 ^ 96 + x.pc * 2 ^ 74 + st.1 * 2 ^ 72 + st.2 * 2 ^ 68 + x.age % 2 ^ 32 * 2 ^ 32 + 1

/-- The fragment of a record; `x` is the one saved at its place, which keeps what the record does not hold. -/
def Frag.ofSaved (n : Nat) (x : Option Frag) : Frag where
  mask := BitVec.ofNat 32 (n / 2 ^ 96)
  pc := bitsN n 95 74
  st := match bitsN n 73 72 with
    | 1 => .teamBar (bitsN n 71 68) (x.any fun y => match y.st with | .teamBar _ ck => ck | _ => false)
    | 2 => .squadBar (bitsN n 71 68)
    | _ => .runnable
  age := bitsN n 63 32
  live := false
  since := (x.map (·.since)).getD 0

/-- A split-stack entry (R166). -/
def Split.toNat (e : Split) : Nat :=
  e.expect.toNat * 2 ^ 96 + e.arrived.toNat * 2 ^ 64 + e.rejoin * 2 ^ 42 + 2 ^ 32 + e.seq % 2 ^ 32

/-- A split-stack entry with the fields of its record. -/
def Split.ofSaved (n : Nat) : Split :=
  ⟨BitVec.ofNat 32 (n / 2 ^ 96), BitVec.ofNat 32 (n / 2 ^ 64), bitsN n 63 42, bitsN n 31 0⟩

/-- A clause-queue entry (R460). -/
def Run.toBytes (handler : Bool) (r : Run) : List Byte :=
  (r.xb.toList.flatMap fun x => leBytes 32 x.toNat) ++ leBytes 8 r.mfb.toNat ++ leBytes 4 r.slot
    ++ leBytes 4 (if handler then 3 else 1) ++ List.replicate 32 0

/-- The k-th clause-queue entry of an image of a context: whether it is in use and a handler run, and the run. -/
def Run.ofSaved (ctx : Nat) (high : List Byte) (k : Nat) : Nat × Run :=
  (imageNum high (0x700 + 304 * k + 268) 4 0,
    { slot := imageNum high (0x700 + 304 * k + 264) 4 0
      xb := Vector.ofFn fun j : Fin 8 => Xb.ofSaved ctx (imageNum high (0x700 + 304 * k) 32 j)
      mfb := BitVec.ofNat 64 (imageNum high (0x700 + 304 * k + 256) 8 0) })

/-- What stands in both sets of lane control, those in use first: a handler's before the group's own. -/
def Lanes.bothRuns (f : LaneRuns → List α) (l : Lanes) : List α := f l.run ++ ((l.held.map f).getD [])

/-- The split area (R166). -/
def Lanes.splitImage (l : Lanes) : List Byte :=
  padTo 512 ((l.bothRuns (·.frags)).flatMap fun x => leBytes 16 x.toNat)
    ++ padTo 1024 ((l.bothRuns (·.split)).flatMap fun e => leBytes 16 e.toNat)

/-- The transaction record (R459). -/
def Lanes.txImage (l : Lanes) : List Byte :=
  let t := (l.tx.toList.find? fun t => t.st != .idle).getD LaneTx.none
  let mask (p : LaneTx → Bool) : Nat := (maskOf ((List.range 32).filter fun k => p (vget l.tx k))).toNat
  let fields := [t.expect.toNat, mask (·.st == .held), mask fun t => t.st == .held && t.status != 0 && t.status >>> 24 != 0,
    t.restart, t.cont, t.f + t.n % 256 * 256, t.d]
  padTo 32 (fields.flatMap (leBytes 4)) ++ padTo 96 (l.tx.toList.flatMap fun t => leBytes 1 (min t.aborts 255))
    ++ l.tx.toList.flatMap fun t => leBytes 4 t.status.toNat

/-- The clause queue (R460): the running run first. -/
def Lanes.queueImage (l : Lanes) : List Byte :=
  padTo 4864 ((l.run.runs.flatMap (Run.toBytes l.held.isSome)) ++ ((l.held.map (·.runs)).getD []).flatMap (Run.toBytes false))

/-- Group-slot offsets 0xA400 to 0xBFFF (R459). -/
def Lanes.highImage (l : Lanes) : List Byte :=
  l.splitImage ++ l.txImage ++ l.queueImage ++ (l.vfault.toList.flatMap fun a => leBytes 8 a.toNat)
    ++ (l.vcause.toList.flatMap fun c => [c]) ++ List.replicate 224 0

/-- The image of a group slot (R459). -/
def Runner.slotImage (r : Runner) : List (Option Byte) :=
  r.l.vImage ++ known (r.l.locker.read 0 8192 ++ r.lowImage ++ r.l.highImage)

/-- What records at places `i`, `i + 1`, … read back as: those whose bit `v` is set, each with the one saved at its place.
What had no record left keeps its place. -/
def readBack (v : Nat) (f : Nat → Option α → α) (recs : List Nat) (old : List α) : List (Option α × α) :=
  (recs.zipIdx.filterMap fun p => if bitN p.1 v then some (old[p.2]?, f p.1 old[p.2]?) else none)
    ++ (old.drop recs.length).map fun x => (some x, x)

/-- The two youngest runnable fragments live, the rest spilled in the order that `old` records, those newly spilled on
top (R166). -/
def LaneRuns.relive (old : List Nat) (u : LaneRuns) : LaneRuns :=
  let ages := ((sortBy (·.age) (u.frags.filter fun x => x.st == .runnable)).map (·.age)).reverse
  let live := ages.take 2
  let spilled := ages.drop 2
  { u with
    frags := u.frags.map fun x => { x with live := live.contains x.age }
    reload := (spilled.filter fun a => !old.contains a) ++ old.filter fun a => spilled.contains a }

/-- Lane control with the fragments and split entries of saved records and with queued runs. A clause in progress goes on
with the fragment that stands in its fragment's place. -/
def LaneRuns.ofSaved (fs ss : List Nat) (rs : List Run) (u : LaneRuns) : LaneRuns :=
  let frags := readBack 0 Frag.ofSaved fs u.frags
  let age (a : Nat) : Option Nat := (frags.find? fun p => p.1.any fun x => x.age == a).map fun p => p.2.age
  LaneRuns.relive (u.reload.filterMap age)
    { u with
      frags := frags.map (·.2)
      split := (readBack 32 (fun n _ => Split.ofSaved n) ss u.split).map (·.2)
      runs := rs
      running := u.running && !rs.isEmpty
      cur := u.cur.bind fun c => (age c.age).map fun a => { c with age := a } }

/-- A lane's transaction with the fields of the record: a lane of EXPECT is held or awaits restart. `was` is the EXPECT of
the record as it was saved; lanes of another record keep its fields. The lanes with a final abort are those whose status
word says so. -/
def LaneTx.ofSaved (high : List Byte) (was : Mask) (k : Nat) (t : LaneTx) : LaneTx :=
  let w (j : Nat) : Nat := imageNum high 0x600 4 j
  let t := { t with aborts := imageNum high 0x620 1 k, status := BitVec.ofNat 32 (imageNum high 0x680 4 k) }
  if (w 0).testBit k then
    { t with
      st := if (w 1).testBit k then .held else .await
      expect := BitVec.ofNat 32 (w 0)
      restart := w 3 % 2 ^ 22
      cont := w 4 % 2 ^ 22
      f := w 5 % 256
      n := w 5 / 256 % 256
      d := w 6 % 256 }
  else if was.getLsbD k then { t with st := .idle }
  else t

/-- The held point of the group state word (R460): none saved, or where the clause in progress stands. -/
def LaneRuns.heldAt (n : Nat) (u : LaneRuns) : LaneRuns :=
  { u with
    cur := if bitN n 83 then u.cur.map fun c => { c with hdr := bitsN n 105 84, pos := bitsN n 127 106 - bitsN n 105 84 - 1 }
      else none }

/-- The EXPECT of the transaction record that a slot holds (R459). -/
def Lanes.recordMask (l : Lanes) : Mask := ((l.tx.toList.find? fun t => t.st != .idle).map (·.expect)).getD 0

/-- The queued runs of a set: the entries that say so, in queue order, then those that had no entry. A slot of a group that
is in no handler holds runs of one set only. -/
def runsBack (es : List (Nat × Run)) (handler : Option Bool) (rest : List Run) : List Run :=
  (es.filterMap fun e => if bitN e.1 0 && handler.all (· == bitN e.1 1) then some e.2 else none)
    ++ rest.map fun r => { r with xb := r.xb.map Xb.noSpan }

/-- The lane half with the fields of group-slot offsets 0xA400 to 0xBFFF; `state` is the group state word. -/
def Lanes.ofSaved (ctx state : Nat) (high : List Byte) (l : Lanes) : Lanes :=
  let fs := (List.range 32).map (imageNum high 0 16)
  let ss := (List.range 64).map (imageNum high 512 16)
  let rs := (List.range 16).map (Run.ofSaved ctx high)
  let i := min l.run.frags.length 32
  let j := min l.run.split.length 64
  let l' :=
    match l.held with
    | none => { l with run := LaneRuns.heldAt state (l.run.ofSaved fs ss (runsBack rs none (l.run.runs.drop 16))) }
    | some u =>
      { l with
        run := LaneRuns.heldAt state
          (l.run.ofSaved (fs.take i) (ss.take j) (runsBack rs (some true) (l.run.runs.drop 16)))
        held := some (u.ofSaved (fs.drop i) (ss.drop j) (runsBack rs (some false) (u.runs.drop (16 - l.run.runs.length)))) }
  { l' with
    tx := Vector.ofFn fun k : Fin 32 => LaneTx.ofSaved high l.recordMask k (vget l.tx k)
    vfault := Vector.ofFn fun k : Fin 32 => BitVec.ofNat 64 (imageNum high 0x1A00 8 k)
    vcause := Vector.ofFn fun k : Fin 32 => BitVec.ofNat 8 (imageNum high 0x1B00 1 k) }

/-- A group read back from its slot (R456). -/
def restoreGroup (s : State) (base : Nat) (r : Runner) : Runner :=
  let a := groupSlotAt base r.ownCore r.ownSlot
  let low := homeRead s 0 (a + 0xA000) 1024
  let r := r.fromImage (homeRead s 0 a 32768) (homeRead s 0 (a + 32768) 8192) low
  { r with l := r.l.ofSaved r.ctx (imageNum low 0x340 16 0) (homeRead s 0 (a + 0xA400) 0x1C00) }

/-! ## Spilled records (R161, R162) -/

/-- What the split area holds of a running group: its spilled fragments, the last spilled on top, and the split entries
older than the youngest 8. -/
def LaneRuns.spilled (u : LaneRuns) : List Byte × List Byte :=
  ((u.reload.reverse.filterMap fun a => u.frags.find? fun x => x.age == a).flatMap fun x => leBytes 16 x.toNat,
    (u.split.take (u.split.length - 8)).flatMap fun e => leBytes 16 e.toNat)

/-- Records stored where those that stood there do not begin with them. -/
def storeSpill (a : Nat) (old new : List Byte) (s : State) : State := if new.isPrefixOf old then s else physWrite a new s

/-- The records that the groups' own runs have spilled since `old` go to the split areas of their slots (R161, R162). -/
def spillAll (old s : State) : State :=
  (s.runners.filter fun r => !r.isHost).foldl (fun t r =>
    let was := ((old.runner? r.id).map fun x => x.l.own.spilled).getD ([], [])
    let now := r.l.own.spilled
    let a := groupSlotAt (((ctx? s r.ctx).map (·.slotbase.toNat)).getD 0) r.ownCore r.ownSlot + 0xA400
    storeSpill (a + 512) was.2 now.2 (storeSpill a was.1 now.1 t)) s

/-! ## Teams in a core slot (R461) -/

/-- Where a team's tile i lies in its core slot. -/
def tileSlotAt (base : Nat) (t : Team) (i : Nat) : Nat := coreSlotAt base t.ownCore + 0x80000 + 65536 * (t.ownTile + i)

/-- Teams of a context, resident or saved. -/
def ctxTeams (s : State) (n : Nat) : List Team := (s.teams ++ s.saved.flatMap (·.teams)).filter fun t => t.ctx == n

/-- Entries owned, with the lowest that nobody owns until there are n (R458). -/
def ownMore (own taken : List Nat) (cap n : Nat) : List Nat :=
  own ++ ((List.range cap).filter fun k => !own.contains k && !taken.contains k).take (n - own.length)

/-- The streams of a squad that a team's records hold: those of its groups' queues, and for team 0 those of the
distributor (R461). -/
def teamStreams (s : State) (t : Team) : List Stream :=
  s.streams.filter fun x => x.squad == t.squad &&
    if streamToPorts x.desc then t.sidx == 0 else (s.runner? x.owner).any fun r => r.team == t.uid

/-- Bytes of the snapshots that an operation holds (R461). -/
def MKind.snapshot : MKind → Nat
  | .mma _ _ _ _ a b => a.length + b.length
  | _ => 0

/-- Bytes of the snapshots that a team's operations hold. -/
def teamSnapshot (s : State) (uid : Nat) : Nat :=
  ((s.mops.filter fun m => m.team == uid).map fun m => m.kind.snapshot).foldl (· + ·) 0

/-- A team with the saved-operation entries, stream records and KiB of snapshots that its save uses (R458). -/
def ownRecords (s : State) (t : Team) : Team :=
  let by_ := (ctxTeams s t.ctx).filter fun u => u.uid != t.uid && u.ownCore == t.ownCore
  { t with
    ownOps := ownMore t.ownOps (by_.flatMap (·.ownOps)) 16 (s.mops.filter fun m => m.team == t.uid).length
    ownStreams := ownMore t.ownStreams (by_.flatMap (·.ownStreams)) 32 (teamStreams s t).length
    ownSnap := ownMore t.ownSnap (by_.flatMap (·.ownSnap)) 48 ((teamSnapshot s t.uid + 1023) / 1024) }

/-- The records that a team owns in its core slot hold undefined bytes, as the manual gives them no layout (log entry 40):
offset and length of each. -/
def Team.records (t : Team) : List (Nat × Nat) :=
  (0x18C000 + 256 * t.ownRec, 256) :: t.ownSnap.map (fun k => (0x180000 + 1024 * k, 1024))
    ++ t.ownOps.map (fun k => (0x18E000 + 64 * k, 64)) ++ t.ownStreams.map fun k => (0x18E400 + 128 * k, 128)

/-- A team's landing, shadow bank, its groups' lockers, tiles and records saved. -/
def saveTeam (base : Nat) (s : State) (t : Team) : State :=
  let a := coreSlotAt base t.ownCore
  let s := physWrite (a + 512 * t.ownRow) (t.landImage ++ t.shadowImage) s
  let s := (teamGroups s t.uid).foldl (fun s r =>
    physWrite (a + 512 * t.ownRow + t.len + t.exch + 8192 * r.gno) (r.l.locker.read 0 8192) s) s
  let s := (List.range t.tiles).foldl (fun s i => physWrite (tileSlotAt base t i) (t.tileImage i) s) s
  t.records.foldl (fun s p => writeImage (a + p.1) (unknownBytes p.2) s) s

/-- A team read back. -/
def restoreTeam (s : State) (base : Nat) (t : Team) : Team :=
  let a := coreSlotAt base t.ownCore + 512 * t.ownRow
  t.fromImage (homeRead s 0 a t.len) (homeRead s 0 (a + t.len) t.exch)
    ((List.range t.tiles).map fun i => homeRead s 0 (tileSlotAt base t i) 65536)

/-- Memory that a saved squad is read back from holds an uncorrectable error (R445). -/
def slotPoisoned (s : State) (base : Nat) (teams : List Team) (groups : List Runner) : Bool :=
  groups.any (fun r => poisoned s (groupSlotAt base r.ownCore r.ownSlot) 0xC000)
    || teams.any fun t =>
      poisoned s (coreSlotAt base t.ownCore + 512 * t.ownRow) (t.len + t.exch) || poisoned s (tileSlotAt base t 0) (65536 * t.tiles)

/-! ## Reaching the points (R452, R453) -/

/-- The group is at its points: no claimed redemption under way, the lanes at a clause boundary or a held point, or
stopped at an ASSERT of theirs (R443, R452). -/
def atPoint (s : State) (r : Runner) : Bool :=
  r.wait != .redeem && !(s.cloaks.any fun e => e.take.any fun x => x.1 == r.id) && lanesStill s r

/-- A matrix operation that the save can take: a stopped MLOOP, or one not started that waits for a version (R359). -/
def MOp.still (s : State) (m : MOp) : Bool :=
  if m.running then m.kind.isLoop && !m.kind.finished else m.kind.isLoop || !versionsMatch s m

/-- The engines of a leaving squad have reached their points, and its outstanding operations are complete (R454), those of
groups that have exited too (R314). -/
def squadStill (s : State) (q : Squad) : Bool :=
  let gs := squadGroups s q.uid
  let mine (who : RunnerId) : Bool := gs.any fun r => r.id == who
  q.leaving && gs.all (atPoint s)
    && !(s.ops.any fun o => mine o.who || q.teams.contains o.team)
    && !(s.cloaks.any fun e => match e.take with | some (who, _) => mine who | none => false)
    && !(s.outb.any fun o => o.wr && mine o.who)
    && (s.mops.filter fun m => q.teams.contains m.team).all (MOp.still s)

/-! ## Saving -/

/-- Lanes form one fragment at a slot, out of the fragments that they stand in. -/
def LaneRuns.reform (m : Mask) (slot age stamp : Nat) (u : LaneRuns) : LaneRuns :=
  let frags := (u.frags.map fun x => { x with mask := x.mask &&& ~~~m }).filter fun x => x.mask != 0
  { u with
    frags := frags ++ [⟨m, slot, .runnable, age, true, stamp⟩]
    cur := u.cur.filter fun c => frags.any fun x => x.age == c.age
    reload := u.reload.filter fun a => frags.any fun x => x.age == a }

/-- Lanes in an attempt are rolled back, uncounted, and with those that await restart form one fragment at each restart
slot (R290). -/
def Lanes.preemptTx (l : Lanes) : Lanes :=
  let l := ((List.range 32).filter fun k => (vget l.tx k).st == .running).foldl (fun l k => l.retryLane false k) l
  let back := (List.range 32).filter fun k => (vget l.tx k).inTx
  (back.map fun k => (vget l.tx k).restart).eraseDups.foldl (fun l slot =>
    let m := maskOf (back.filter fun k => (vget l.tx k).restart == slot)
    { l.onOwn (LaneRuns.reform m slot l.nextAge l.stamp) with nextAge := l.nextAge + 1 }) l

/-- A group as it is saved: transactions ended, queues empty, flags clear (R156, R290). -/
def Runner.leave (r : Runner) : Runner :=
  let r := r.atRest
  { r with l := r.l.preemptTx, asserted := false }

/-- A group's slot written. -/
def saveGroup (base : Nat) (s : State) (r : Runner) : State := writeImage (groupSlotAt base r.ownCore r.ownSlot) r.slotImage s

/-- The streams of a squad, each at its first element not yet consumed (R122, R360). -/
def leavingStreams (s : State) (uid : Nat) : List Stream :=
  (s.streams.filter fun x => x.squad == uid).map fun x =>
    if streamToPorts x.desc then
      let used := (s.subs.filter fun b => b.gal == x.gal && b.os == x.os).map fun b => b.used / streamElem x.desc
      { x with next := used.min?.getD x.next, fault := none, xb := x.xb.noSpan }
    else
      match s.runner? x.owner with
      | some r => x.rewind r.l
      | none => x

/-- The subscriptions of a squad's streams with what has been consumed (R360). -/
def leavingSubs (s : State) (uid : Nat) : List Sub :=
  s.subs.filterMap fun b =>
    (s.streams.find? fun x => x.gal == b.gal && x.os == b.os && x.squad == uid).map fun x =>
      { b with got := b.used / streamElem x.desc, buf := [] }

/-- The notice of a failed ASSERT goes out when no squad of its context is resident any more (R443). -/
def assertNotice (n : Nat) (s : State) : State :=
  match s.ctxs.find? fun c => c.id == n && c.noteDue with
  | some c =>
    if s.squads.any fun q => q.ctx == n then s
    else notify (slice c.notify 5 0) 1 n { s with ctxs := mapIf (fun x => x.id == n) (fun x => { x with noteDue := false }) s.ctxs }
  | none => s

/-- SLOTBASE of a context (R426). -/
def slotBase (s : State) (n : Nat) : Nat := ((ctx? s n).map (·.slotbase.toNat)).getD 0

/-- The bytes of slabs that a stopped MLOOP had taken for its next step are not consumed (R359, R360). -/
def putBack (m : MOp) (s : State) : State :=
  match m.kind with
  | .mloop _ _ _ _ _ _ _ _ pa pb =>
    onSub m.core false (fun b => { b with used := b.used - pa.length }) (onSub m.core true (fun b => { b with used := b.used - pb.length }) s)
  | _ => s

/-- An operation as it is saved (R359, R453): not running, without its flag, an MLOOP at its next whole step. -/
def MOp.leave (m : MOp) : MOp :=
  { m with
    running := false
    flag := none
    kind := match m.kind with
      | .mloop f64 w init modes nr nc kch step _ _ => .mloop f64 w init modes nr nc kch step [] []
      | k => k }

/-- The squad's state is written to its slots and its resources are free (R454). -/
def saveSquad (q : Squad) (s : State) : State :=
  let base := slotBase s q.ctx
  let gs := squadGroups s q.uid
  let mine (who : RunnerId) : Bool := gs.any fun r => r.id == who
  let s := arriveAll s fun w => mine w.who
  let ops := s.mops.filter fun m => q.teams.contains m.team
  let s := (ops.filter (·.running)).foldl (fun s m => putBack m s) s
  let s := { s with teams := s.teams.map fun t => if t.squad == q.uid then ownRecords s t else t }
  let groups := (squadGroups s q.uid).map Runner.leave
  let teams := s.teams.filter fun t => t.squad == q.uid
  let saved : Saved :=
    { squad := { q with leaving := false }
      teams := teams
      groups := groups
      mops := ops.map MOp.leave
      streams := leavingStreams s q.uid
      subs := leavingSubs s q.uid }
  let s := groups.foldl (saveGroup base) s
  let s := teams.foldl (saveTeam base) s
  assertNotice q.ctx (dropRunners (fun r => mine r.id) { s with
    saved := s.saved ++ [saved]
    squads := s.squads.filter fun x => x.uid != q.uid
    teams := s.teams.filter fun t => t.squad != q.uid
    mops := s.mops.filter fun m => !q.teams.contains m.team
    subs := s.subs.filter fun b => !s.streams.any fun x => x.gal == b.gal && x.os == b.os && x.squad == q.uid
    streams := s.streams.filter fun x => x.squad != q.uid })

/-- PREEMPTION_COMPLETE (R454): every engine of a leaving squad has acknowledged, and its accepted writes can arrive
(R288). -/
def execPreemptionComplete (squad : Nat) (s : State) : Result :=
  match s.squads.find? fun q => q.uid == squad with
  | some q =>
    let mine (w : PWrite) : Bool := (squadGroups s q.uid).any fun r => r.id == w.who
    if squadStill s q && !halted s q.part && !arriveLocked s mine then .next (saveSquad q s) else .next s
  | none => .next s

end Sys2Proof.Machine
end

