-- ==== Sys2Proof/Machine/Place.lean ====
section
/-! DEFINITION. The scheduler (spec/15_launch.md R406 to R416): readiness and cancellation, placement and resumption of
squads, register blocks, producers, completion. -/

namespace Sys2Proof.Machine

open Sys2Proof

/-! ## Free room on a core (R400, R410, R458) -/

/-- What one team needs on its core (R400): `rows` are spans of landing rows of 512 bytes from its first. -/
structure Room where
  groups : Nat
  blocks : Nat
  rows : List (Nat × Nat)
  tiles : Nat

/-- Where a team goes on a core. -/
structure Seat where
  core : Nat
  slots : List Nat
  row : Nat
  tile0 : Nat

/-- The spans of rows that a team takes from row `at_` on: its landing with its shadow bank, and the locker of each group, which
is given back when the group exits (R175). -/
def rowSpans (at_ bytes : Nat) (gnos : List Nat) : List (Nat × Nat) :=
  (if bytes = 0 then [] else [(at_, bytes / 512)]) ++ gnos.map fun g => (at_ + bytes / 512 + 16 * g, 16)

/-- The lowest start from which spans lie within `n` places and meet none taken. -/
def gap (n : Nat) (spans taken : List (Nat × Nat)) : Option Nat :=
  let free (a : Nat) : Bool := spans.all fun w => decide (a + w.1 + w.2 ≤ n) && taken.all fun p => !meets (a + w.1) w.2 p.1 p.2
  ((0 :: taken.flatMap fun p => spans.map fun w => p.1 + p.2 - w.1).filter free).min?

/-- Groups of a context, resident or saved. -/
def ctxGroups (s : State) (n : Nat) : List Runner :=
  ((s.runners.filter fun r => !r.isHost) ++ s.saved.flatMap (·.groups)).filter fun r => r.ctx == n

/-- The rows that a team holds where it runs. -/
def Team.spans (s : State) (t : Team) : List (Nat × Nat) := rowSpans t.row (t.len + t.exch) ((teamGroups s t.uid).map (·.gno))

/-- The rows that a team of a context owns in its core slot (R458). -/
def Team.ownSpans (s : State) (t : Team) : List (Nat × Nat) :=
  rowSpans t.ownRow (t.len + t.exch) (((ctxGroups s t.ctx).filter fun r => r.team == t.uid).map (·.gno))

/-- Register blocks that the waiting VGROWs of a core ask for (R413). -/
def blocksWanted (s : State) (core : Nat) : Nat := ((groupsOn s core).map blocksAsked).foldl (· + ·) 0

/-- A squad on the core is being pre-empted: no new placement there (R454). -/
def coreClosed (s : State) (core : Nat) : Bool :=
  s.teams.any fun t => t.core == core && s.squads.any fun q => q.uid == t.squad && q.leaving

/-- A place on a core for a team of a context; `fresh` for one never saved, which the slot test of R458 binds. -/
def seatOn (s : State) (room : Room) (ctx : Nat) (fresh : Bool) (core : Nat) : Option Seat :=
  let teams := s.teams.filter fun t => t.core == core
  let owned := if fresh then (ctxTeams s ctx).filter fun t => t.ownCore == core else []
  let used := (groupsOn s core).map (·.slot)
    ++ if fresh then ((ctxGroups s ctx).filter fun r => r.ownCore == core).map (·.ownSlot) else []
  let slots := ((List.range 32).filter fun k => !used.contains k).take room.groups
  if slots.length = room.groups ∧ blocksHeld s core + blocksWanted s core + room.blocks ≤ 256 ∧ !coreClosed s core then
    match gap 1024 room.rows (teams.flatMap (Team.spans s) ++ owned.flatMap (Team.ownSpans s)),
      gap 16 [(0, room.tiles)] ((teams.map fun t => (t.tile0, t.tiles)) ++ owned.map fun t => (t.ownTile, t.tiles)) with
    | some row, some tile => some ⟨core, slots, row, tile⟩
    | _, _ => none
  else none

/-- The cores of a gallery that a squad of `k` teams takes (R410), in ascending order. -/
def seatsIn (s : State) (k : Nat) (room : Room) (ctx : Nat) (fresh : Bool) (gal : Nat) : Option (List Seat) :=
  let seats := (List.range 8).filterMap fun c => seatOn s room ctx fresh (8 * gal + c)
  let best := (sortBy (fun x => (groupsOn s x.core).length * 512 + x.core) seats).take k
  if best.length = k then some (sortBy (·.core) best) else none

/-! ## Placing a squad of a grid (R406) -/

/-- What each team of a grid needs. -/
def Grid.room (g : Grid) : Room :=
  ⟨g.groups, g.groups * g.regs / 16, rowSpans 0 (g.landing + g.exch) (List.range g.groups), g.acc⟩

/-- Lanes that a group starts with (R405, R463). -/
def startLanes (g : Grid) (x gno : Nat) : Mask :=
  let w := if g.prot then 16 else 32
  maskOf ((List.range w).filter fun l => !g.masked || decide ((x * g.groups + gno) * w + l < g.shape0))

/-- The lead registers that a group starts with (R406). -/
def startRegs (g : Grid) (t : Team) (gno : Nat) : Vector Word 64 :=
  let v := [0, g.args, BitVec.ofNat 64 t.x, BitVec.ofNat 64 t.y, BitVec.ofNat 64 t.z, BitVec.ofNat 64 gno,
    BitVec.ofNat 64 t.sidx, g.handle, BitVec.ofNat 64 g.shape0, BitVec.ofNat 64 g.depth]
  Vector.ofFn fun k : Fin 64 => v.getD k 0

/-- A group of a placed team (R406). -/
def startGroup (g : Grid) (t : Team) (uid gno slot : Nat) : Runner :=
  { Runner.zero (.group uid) with
    s := startRegs g t gno
    pc := g.entry
    entry := true
    ctx := g.ctx
    part := g.part
    core := t.core
    slot := slot
    grid := g.handle
    team := t.uid
    gno := gno
    placed := uid
    ownCore := t.core
    ownSlot := slot
    l := { Lanes.zero with count := g.regs, live := startLanes g t.x gno } }

/-- The lowest team record of a core slot that no live team of the context owns (R458). -/
def freeRecord (s : State) (ctx core : Nat) : Nat :=
  let taken := ((ctxTeams s ctx).filter fun t => t.ownCore == core).map (·.ownRec)
  ((List.range 32).find? fun k => !taken.contains k).getD 0

/-- A placed team (R400, R406): the i-th of its squad. -/
def startTeam (g : Grid) (uid squad i rec_ : Nat) (seat : Seat) (ck : Option Ckpt) : Team :=
  let no := g.squad * g.nextSquad + i
  { uid := uid, grid := g.handle, ctx := g.ctx, no := no, x := no % g.x, y := no / g.x % g.y, z := no / (g.x * g.y)
    squad := squad, sidx := i, core := seat.core, len := g.landing, exch := g.exch, lswz := g.lswz, land := [], shadow := []
    tiles := g.acc, acc := [], vers := Vector.replicate 16 0, ck := ck, groups := g.groups, row := seat.row
    tile0 := seat.tile0, exited := false, ownCore := seat.core, ownRow := seat.row, ownTile := seat.tile0, ownRec := rec_
    ownOps := [], ownStreams := [], ownSnap := [] }

/-- Bytes of a checkpoint image (R468). -/
def Grid.imageSize (g : Grid) : Nat := (4096 + g.landing + g.exch + 65536 * g.acc + 41984 * g.groups + 65535) / 65536 * 65536

/-- The lowest free part of the context's pool for a team of a CKPT grid, which a team gives back when it exits (R470). -/
def poolSpace (s : State) (g : Grid) : Option Nat :=
  (ctx? s g.ctx).bind fun c =>
    (gap c.poolSize [(0, 2 * g.imageSize)]
      (((ctxTeams s g.ctx).filter fun t => !t.exited).filterMap fun t => t.ck.map fun k =>
        (k.base - c.poolBase, 2 * k.half))).map (· + c.poolBase)

/-- Checkpoint 0 of a placed team (R466). -/
def firstCheckpoint (t : Team) (gs : List Runner) (s : State) : State :=
  match t.ck with
  | none => s
  | some c =>
    { writeImage c.valid (ckImage c t (gs.map Runner.atRest)) s with cksaves := ⟨t, gs.map Runner.atRest, [], []⟩ :: s.cksaves }

/-- The i-th team of a squad placed with its groups; none where the pool has no room. -/
def placeTeam (g : Grid) (squad i : Nat) (seat : Seat) (s : State) : Option State :=
  let put (ck : Option Ckpt) : State :=
    let t := startTeam g s.nextUid squad i (freeRecord s g.ctx seat.core) seat ck
    let gs := seat.slots.zipIdx.map fun p => startGroup g t (s.nextUid + 1 + p.2) p.2 p.1
    firstCheckpoint t gs { s with
      teams := s.teams ++ [t]
      others := s.others ++ gs
      squads := mapIf (fun q => q.uid == squad) (fun q => { q with teams := q.teams ++ [t.uid] }) s.squads
      nextUid := s.nextUid + 1 + gs.length }
  if g.ckpt then (poolSpace s g).map fun a => put (some ⟨a, g.imageSize, true, false, 0, none⟩) else some (put none)

/-- The next squad of a grid placed on a gallery. -/
def placeSquad (g : Grid) (gal : Nat) (seats : List Seat) (s : State) : Option State :=
  let q : Squad := ⟨s.nextUid, g.handle, g.ctx, g.part, g.nextSquad, gal, [], false, s.nextUid⟩
  let on (x : Grid) : Grid := { x with nextSquad := x.nextSquad + 1, unplacedSince := partClock s g.part }
  let s := { s with
    squads := s.squads ++ [q]
    nextUid := s.nextUid + 1
    grids := mapIf (fun x => x.handle == g.handle) on s.grids }
  seats.zipIdx.foldl (fun s p => s.bind (placeTeam g q.uid p.2 p.1)) (some s)

/-! ## Resuming a squad (R456) -/

/-- The register count that a saved group comes back with (R456, R460). -/
def savedCount (s : State) (r : Runner) : Nat :=
  bitsN (leNat (homeRead s 0 (groupSlotAt (slotBase s r.ctx) r.ownCore r.ownSlot + 0xA340) 16)) 40 32

/-- What each team of a saved squad needs at most. -/
def Saved.room (s : State) (v : Saved) : Room :=
  let most (f : Team → Nat) : Nat := (v.teams.map f).foldl max 0
  let groups (t : Team) : List Runner := v.groups.filter fun r => r.team == t.uid
  ⟨most fun t => (groups t).length, most fun t => ((groups t).map fun r => blocksOf (savedCount s r)).foldl (· + ·) 0,
    (v.teams.flatMap fun t => rowSpans 0 (t.len + t.exch) ((groups t).map (·.gno))).eraseDups, most (·.tiles)⟩

/-- A saved squad read back on a gallery (R456): teams in order on their cores, operations requeued in issue order. The core
of its first team raises the partition's halt line where the slots hold an uncorrectable error (R445). -/
def resumeSquad (v : Saved) (gal : Nat) (seats : List Seat) (s : State) : State :=
  let base := slotBase s v.squad.ctx
  let at_ := (sortBy (·.sidx) v.teams).zip seats
  let seat (uid : Nat) : Option Seat := (at_.find? fun p => p.1.uid == uid).map (·.2)
  let coreNow (c : Nat) : Nat := ((at_.find? fun p => p.1.core == c).map fun p => p.2.core).getD c
  let teams := at_.map fun p => { restoreTeam s base p.1 with core := p.2.core, row := p.2.row, tile0 := p.2.tile0 }
  let groups := at_.flatMap fun p =>
    ((sortBy (·.gno) (v.groups.filter fun r => r.team == p.1.uid)).zip p.2.slots).map fun q =>
      { restoreGroup s base q.1 with core := p.2.core, slot := q.2 }
  let core := ((seats.head?).map (·.core)).getD 0
  let h : Halt :=
    ⟨core, 0xA1, 0, 0, 0, 0, v.squad.ctx, 0xFF, partClock s v.squad.part, s.clocks.fabric, true, [], [], false⟩
  let t := if slotPoisoned s base v.teams v.groups then raiseHalt v.squad.part h s else s
  { t with
    saved := s.saved.filter fun x => x.squad.uid != v.squad.uid
    squads := s.squads ++ [{ v.squad with gal := gal }]
    teams := s.teams ++ teams
    others := s.others ++ groups.zipIdx.map fun p => { p.1 with placed := s.nextUid + p.2 }
    nextUid := s.nextUid + groups.length
    mops := s.mops ++ v.mops.map fun m => { m with core := ((seat m.team).map (·.core)).getD m.core }
    streams := s.streams ++ v.streams.map fun x => { x with gal := gal }
    subs := s.subs ++ v.subs.map fun b => { b with gal := gal, core := coreNow b.core } }

/-! ## Fitting (R409, R410, R414) -/

/-- What may be placed: a saved squad, or the next squad of a grid. -/
inductive Cand where
  | saved (v : Saved)
  | next (g : Grid)

/-- The context of a candidate and its grid. -/
def Cand.ctx : Cand → Nat
  | .saved v => v.squad.ctx
  | .next g => g.ctx

@[inherit_doc Cand.ctx]
def Cand.grid : Cand → Word
  | .saved v => v.squad.grid
  | .next g => g.handle

/-- Squads of a context are not placed: it is suspended or ends. -/
def ctxHeld (s : State) (n : Nat) : Bool := s.ctxs.any fun x => x.id == n && (x.suspended || x.ending)

/-- The candidate placed on a gallery where it fits there. -/
def placeOn (s : State) (c : Cand) (gal : Nat) : Option State :=
  if ctxHeld s c.ctx then none
  else
    match c with
    | .saved v =>
      if v.streams.any fun x => s.streams.any fun y => y.gal == gal && y.os == x.os then none
      else (seatsIn s v.teams.length (v.room s) v.squad.ctx false gal).map fun seats => resumeSquad v gal seats s
    | .next g => (seatsIn s g.squad g.room g.ctx true gal).bind fun seats => placeSquad g gal seats s

/-- Producers of a grid that still have squads to place (R414). -/
def producersOf (s : State) (h : Word) : List Grid :=
  s.grids.filter fun p => p.unplaced &&
    (p.parent == some h || s.grids.any fun c => c.handle == h && c.producer != 0 && c.producer == p.handle)

/-- Galleries of a partition, those with fewest resident teams first (R410). -/
def galleriesOf (s : State) (p : Part) : List Nat :=
  let load (gal : Nat) : Nat := (s.teams.filter fun t => t.core / 8 == gal && t.groups != 0).length
  sortBy (fun gal => load gal * 64 + gal) (p.halls.flatMap fun h => (List.range 8).map (· + 8 * h))

/-- The candidate placed on the gallery that the scheduler takes, if it fits one: after the placement of a consumer the
gallery still fits a squad of each producer (R414). -/
def bestPlace (s : State) (p : Part) (c : Cand) : Option State :=
  (galleriesOf s p).findSome? fun gal =>
    (placeOn s c gal).filter fun t => (producersOf s c.grid).all fun x => (placeOn t (.next x) gal).isSome

/-! ## Choosing (R407 to R409) -/

/-- The head of a queue (R408). -/
def headOf (s : State) (part q : Nat) : Option Grid :=
  s.grids.find? fun g => g.part == part && g.queue == q && g.ready && g.unplaced

/-- The grid is the head of its queue. -/
def isHead (s : State) (h : Word) : Bool :=
  s.grids.any fun g => g.handle == h && (headOf s g.part g.queue).any fun x => x.handle == h

/-- Squads that have become heads since `old` wait from now on (R409), and those of a context whose squads are not placed. -/
def markHeads (old s : State) : State :=
  let now (g : Grid) : Grid := { g with unplacedSince := partClock s g.part }
  { s with grids := mapIf (fun g => isHead s g.handle && (!isHead old g.handle || ctxHeld s g.ctx)) now s.grids }

/-- The head squad that holds the reservation, the one passed over longest (R409). -/
def reserved (s : State) (p : Part) : Option Grid :=
  (sortBy (·.2) p.reserve).findSome? fun r => (headOf s p.no r.1).filter fun g => g.unplacedSince == r.2 && !ctxHeld s g.ctx

/-- Some gallery of the partition has room for the next squad of a grid, whatever R414 says of it. -/
def hasRoom (s : State) (p : Part) (g : Grid) : Bool := (galleriesOf s p).any fun gal => (placeOn s (.next g) gal).isSome

/-- The queues of a class in the order of their turns, each with the turn that a placement from it leaves (R409). -/
def turnOrder (p : Part) (c : Nat) : List (Nat × (Nat × Nat)) :=
  let (q, used) := vget p.turn c
  (if used < queueWeight p q then [(q, (q, used + 1))] else [])
    ++ (List.range 64).map fun k => ((q + 1 + k) % 64, ((q + 1 + k) % 64, 1))

/-- A placement by class and turn (R409). -/
def placeByClass (s : State) (p : Part) : Option State :=
  (List.range 4).findSome? fun c =>
    (turnOrder p c).findSome? fun k =>
      match (headOf s p.no k.1).filter fun g => g.prio == c with
      | none => none
      | some g =>
        (bestPlace s p (.next g)).map fun t =>
          { t with parts := mapIf (fun x => x.no == p.no) (fun x => { x with turn := vset x.turn c k.2 }) t.parts }

/-- The next placement of a partition's scheduler, if there is one (R409). -/
def nextPlacement (s : State) (p : Part) : Option State :=
  match (s.saved.filter fun v => v.squad.part == p.no).findSome? fun v => bestPlace s p (.saved v) with
  | some t => some t
  | none =>
    match reserved s p with
    | some g =>
      let spent (x : Part) : Part := { x with reserve := x.reserve.filter fun r => r.1 != g.queue }
      match bestPlace s p (.next g) with
      | some t => some { t with parts := mapIf (fun x => x.no == p.no) spent t.parts }
      | none => if hasRoom s p g then placeByClass s p else none
    | none => placeByClass s p

/-- A running partition with a number. -/
def partAt (s : State) (n : Nat) : Option Part := s.parts.find? fun p => p.no == n && p.halt.isNone

/-- SQUAD_PLACEMENT (R406, R409, R410, R456). -/
def execSquadPlacement (part : Nat) (s : State) : Result :=
  match (partAt s part).bind (nextPlacement s) with
  | some t => .next t
  | none => .next s

/-- PLACEMENT_RESERVATION (R409): a head squad that has been passed over for lack of room for 65 536 core clocks. -/
def execPlacementReservation (part queue : Nat) (s : State) : Result :=
  match partAt s part, headOf s part queue with
  | some p, some g =>
    if 65536 ≤ partClock s part - g.unplacedSince ∧ !ctxHeld s g.ctx ∧ !hasRoom s p g
      ∧ !p.reserve.contains (queue, g.unplacedSince)
    then
      let hold (x : Part) : Part := { x with reserve := (x.reserve.filter fun r => r.1 != queue) ++ [(queue, g.unplacedSince)] }
      .next { s with parts := mapIf (fun x => x.no == part) hold s.parts }
    else .next s
  | _, _ => .next s

/-! ## Readiness and completion (R407, R415, R416) -/

/-- A completion word (R415). -/
def doneWord (status code teams : Nat) : Word :=
  BitVec.ofNat 64 (2 ^ 63 + status % 256 * 2 ^ 48 + code % 65536 * 2 ^ 32 + teams % 2 ^ 32)

/-- The scheduler as the issuer of accesses beyond the package; no host core has its number. -/
def scheduler : RunnerId := .host 64

/-- The completion word is written at its home, and the grid is live no more (R399). One beyond the package is on its way
until its target accepts it (R482), and the grid stays live until then. -/
def writeDone (g : Grid) (w : Word) (s : State) : State :=
  let a := g.done.1
  let bs := leBytes 8 w.toNat
  if answeredOutside s a then
    if s.outb.any fun o => o.wr && (o.ask == .grid g.handle || meets o.pa o.bytes.length a 8) then s
    else outWrite scheduler (.grid g.handle) 0 0 a g.done.2 g.doneComp bs s
  else if (poolOf a).isMemory then
    let s := countRange (touch (homeWrite s g.done.2 g.doneComp a bs) none true true a 8) a 8
    { s with grids := s.grids.filter fun x => x.handle != g.handle }
  else
    let s := if poolOf a = .device then { s with dev := devWrite (a % 65536) w s.dev } else badAddr s
    { s with grids := s.grids.filter fun x => x.handle != g.handle }

/-- A predecessor's word as the scheduler reads it, once a target outside has answered (R407, R482). -/
def predWord (s : State) (h : Word) (p : Nat × Nat) : Option Word :=
  if answeredOutside s p.1 then (outAnswer s scheduler (.grid h) p.1 8).map fun bs => BitVec.ofNat 64 (leNat bs)
  else if (poolOf p.1).isMemory then some (BitVec.ofNat 64 (leNat (homeRead s p.2 p.1 8)))
  else some (BitVec.ofNat 64 (leNat (devBytes s p.1 8)))

/-- The scheduler asks for the predecessors' words that something outside answers. -/
def askPreds (g : Grid) (s : State) : State :=
  g.preds.foldl (fun s p =>
    if answeredOutside s p.1 then outAsk scheduler (.grid g.handle) 0 p.1 8 s else s) s

/-- A predecessor ended with a status other than 0x00. -/
def predFailed (w : Word) : Bool := w.getLsbD 63 && slice w 55 48 != 0

/-- A grid is cancelled (R407): its completion word is written, and it is placed no more, should the word still be on its
way. -/
def cancelGrid (g : Grid) (s : State) : State :=
  let t := writeDone g (doneWord 3 0 0) s
  { t with grids := mapIf (fun x => x.handle == g.handle) (fun x => { x with stop := some (3, 0) }) t.grids }

/-- GRID_READY (R407): the scheduler reads the predecessors' words; the grid becomes ready, and its squads look for galleries
from then on (R414), or it is cancelled. -/
def execGridReady (h : Word) (s : State) : Result :=
  match s.grids.find? fun g => g.handle == h && !g.ready && g.stop.isNone with
  | none => .next s
  | some g =>
    let ws := g.preds.map (predWord s h)
    let t := if ws.all (·.isSome) then outSpend scheduler (.grid h) s else askPreds g s
    if halted s g.part then .next s
    else if !g.runany && ws.any fun w => w.any predFailed then
      if lockedOut s none g.done.1 8 then .next s else .next (cancelGrid g (outSpend scheduler (.grid h) s))
    else if ws.all fun w => w.any fun w => w.getLsbD 63 then
      .next { t with grids := mapIf (fun x => x.handle == h) (fun x => { x with ready := true, unplacedSince := partClock s g.part }) t.grids }
    else .next t

/-- Everything that a grid's completion waits for is done (R416), and no write of its beyond the package is still on its
way. -/
def gridOver (s : State) (g : Grid) : Bool :=
  teamsOver s g && !(s.ops.any fun o => o.grid == g.handle) && !(s.grids.any fun c => c.parent == some g.handle)
    && !(s.outb.any fun o => o.wr && o.grid == g.handle)
    && !s.mops.any fun m => (team? s m.team).any fun t => t.grid == g.handle

/-- An accepted write that waits for the holder of the fallback lock (R288). -/
def anyLocked (s : State) : Bool := arriveLocked s fun _ => true

/-- GRID_COMPLETE (R415, R416): a release, since every accepted write arrives first, and the completion word. -/
def execGridComplete (h : Word) (s : State) : Result :=
  match s.grids.find? fun g => g.handle == h with
  | none => .next s
  | some g =>
    if halted s g.part || !gridOver s g || anyLocked s || lockedOut s none g.done.1 8 then .next s
    else
      let stop := g.stop.getD (0, 0)
      .next (writeDone g (doneWord stop.1 stop.2 g.ended) (arriveAll s fun _ => true))

/-! ## Register blocks (R413) -/

/-- The waiting VGROW of the earliest-placed group of a core. -/
def firstGrow (s : State) (core : Nat) : Option (Runner × Nat × Nat) :=
  (sortBy (·.placed) (groupsOn s core)).findSome? fun r => r.l.grow.map fun g => (r, g.1, g.2)

/-- The blocks that it asks for are free. -/
def growFits (s : State) (core : Nat) (r : Runner) (n : Nat) : Bool :=
  decide (blocksHeld s core + (blocksOf n - blocksOf r.l.count) ≤ 256)

/-- VGROW_GRANT (R412, R413): the group has its registers, and its VGROW answers when it executes again. -/
def execVgrowGrant (core : Nat) (s : State) : Result :=
  match firstGrow s core with
  | some (r, n, _) =>
    if growFits s core r n then .next (s.onRunner r.id fun r => { r with l := growTo n r.l }) else .next s
  | none => .next s

/-- The pre-emption of a squad begins (R454). -/
def startLeaving (uid : Nat) (s : State) : State :=
  { s with squads := mapIf (fun q => q.uid == uid) (fun q => { q with leaving := true }) s.squads }

/-- The youngest squad that the test holds of. -/
def youngest (p : Squad → Bool) (s : State) : Option Squad := (sortBy (·.order) (s.squads.filter p)).getLast?

/-- VGROW_DEADLOCK_BREAK (R413): while the request does not fit, the youngest other squad on the core is pre-empted. -/
def execVgrowDeadlockBreak (core : Nat) (s : State) : Result :=
  match firstGrow s core with
  | some (r, n, since) =>
    let mine := ((team? s r.team).map (·.squad)).getD 0
    let stands (q : Squad) : Bool := q.uid != mine && s.teams.any fun t => t.squad == q.uid && t.core == core
    let due := decide (4096 ≤ coreClock s core - since) || (groupsOn s core).all fun x => x.l.grow.isSome
    if !due || growFits s core r n || coreClosed s core then .next s
    else
      match youngest stands s with
      | some q => .next (startLeaving q.uid s)
      | none => .next s
  | none => .next s

/-! ## Producers (R414) -/

/-- Every group of a squad is not ready (R414). -/
def squadWaits (s : State) (q : Squad) : Bool := (squadGroups s q.uid).all fun r => !r.l.ready.1 && !r.l.ready.2

/-- PRODUCER_PREEMPTION (R414): a squad of a producer that has found no gallery for 4096 core clocks makes a resident squad
of a consumer leave, the waiting ones before the others, the youngest first. -/
def execProducerPreemption (h : Word) (s : State) : Result :=
  match s.grids.find? fun g => g.handle == h && g.ready && g.unplaced with
  | none => .next s
  | some g =>
    let consumer (q : Squad) : Bool := q.part == g.part && (producersOf s q.grid).any fun p => p.handle == h
    match partAt s g.part with
    | none => .next s
    | some p =>
      if partClock s g.part - g.unplacedSince < 4096 ∨ (bestPlace s p (.next g)).isSome ∨ s.squads.any (fun q => consumer q && q.leaving)
      then .next s
      else
        match (youngest (fun q => consumer q && squadWaits s q) s).or (youngest consumer s) with
        | some q => .next (startLeaving q.uid s)
        | none => .next s

/-! ## Issue (R411) -/

/-- ISSUE_PROMOTION (R411): a group that has been ready at the lead or at the lane stage for 128 core clocks without issuing
there is promoted, until it issues. -/
def execIssuePromotion (who : RunnerId) (lane : Bool) (s : State) : Result :=
  .next (s.onRunner who fun r =>
    if r.isHost then r
    else if lane then
      (if r.l.ready.2 && decide (128 ≤ r.l.readyFor.2) then { r with l := { r.l with promoted := (r.l.promoted.1, true) } } else r)
    else if r.l.ready.1 && decide (128 ≤ r.l.readyFor.1) then { r with l := { r.l with promoted := (true, r.l.promoted.2) } } else r)

/-! ## After a step -/

/-- Groups of ended grids that have reached their points are discarded with what is left of the grid there (R417, R452). -/
def reapGrids (s : State) : State :=
  let p (h : Word) : Bool := s.grids.any fun g => g.handle == h && g.stop.isSome
  if s.runners.any fun r => !r.isHost && p r.grid && atPoint s r then discardGrids p (fun r => !atPoint s r) s else s

/-- Traps whose handlers wait for their groups' writes (R433), and teams that go back to a checkpoint (R469), go on as soon as
they can. -/
def settleWaits (s : State) : State :=
  let s := (s.runners.filter fun r => r.wait == .drain).foldl (fun s r => asRunner r.id drainTrap s) s
  (s.teams.filter fun t => t.ck.any fun c => c.back.isSome).foldl (fun s t => settleRollback t.uid s) s

/-- What follows every step: heads of queues that are new, groups at the points of their ended grids, what waited for a lock
or for points, records spilled. -/
def settleStep (old s : State) : State := spillAll old (reapGrids (settleWaits (markHeads old s)))

end Sys2Proof.Machine
end

