-- ==== Sys2Proof/Machine/Events.lean ====
section
/-! DEFINITION. Steps of the machine that no instruction causes: halts and resets of partitions (spec/16_traps.md R446 to
R449; spec/17_protection.md R475), scrub, refresh, recovery and injectors (R473 to R477), peers, links, controllers and the
management interface (spec/18_outside.md R478 to R495), arrival of writes (spec/08_ordering.md R237). -/

namespace Sys2Proof.Machine

open Sys2Proof

/-! ## Arrival (R237 to R239) -/

/-- MEMORY_WRITE_ARRIVAL (R237, R488): an accepted write that is performed on its die reaches its home, none of its die's
earlier writes that lead it still on the way. -/
def execMemoryWriteArrival (k : Nat) (s : State) : Result :=
  match s.pend[k]? with
  | none => .next s
  | some w =>
    let behind := (s.pend.take k).any fun x => x.seen && x.die == w.die && x.leads s w
    if !w.seen || behind || lockedOut s (some w.who) w.addr w.bytes.length then .next s
    else .next (arrive { s with pend := s.pend.eraseIdx k } w)

/-- The grids whose completion words some accesses beyond the package carry are live no more (R399, R482). -/
def doneGrids (gone : Outbound → Bool) (s : State) : State :=
  { s with grids := s.grids.filter fun g => !s.outb.any fun o => gone o && o.wr && o.ask == .grid g.handle }

/-- The ports of the package as those who send accesses on from peers; no host core has their numbers. -/
def portRunner (port : Nat) : RunnerId := .host (65 + port)

/-- An access of a port: nobody in the package takes its answer. -/
def Outbound.ofPort (o : Outbound) : Bool := (List.range 4).any fun p => o.who == portRunner p

/-- The target of an access beyond the package can take it or answer it now: it is no package that does not answer (R488). -/
def Outbound.reaches (s : State) (o : Outbound) : Bool := poolOf o.pa == .window || !deaf s (packageOf o.pa)

/-- OUTBOUND_WRITE_ACCEPT (R482, R488): the runner's first access outside whose target can take it is taken or answered. One to
the memory of a package that answers again is performed there, a read by its reader itself. -/
def execOutboundWriteAccept (who : RunnerId) (answer : Word) (s : State) : Result :=
  match s.outb.findIdx? fun o => o.who == who && (o.wr || o.data.isNone) && o.reaches s with
  | none => .next s
  | some k =>
    match s.outb[k]? with
    | some o =>
      let s' := { doneGrids (· == o) s with outb := s.outb.eraseIdx k }
      if o.wr then
        if !(poolOf o.pa).isMemory then .next s'
        else if lockedOut s none o.pa o.bytes.length then .next s
        else .next (countRange (touch (homeWrite s' o.key o.comp o.pa o.bytes) none true true o.pa o.bytes.length) o.pa o.bytes.length)
      else if (poolOf o.pa).isMemory then .next (s'.onRunner who fun r => if r.wait = .answer then { r with wait := .none } else r)
      else if o.ofPort then .next s'
      else .next { s with outb := s.outb.set k { o with data := some answer } }
    | none => .next s

/-- REMOTE_ACCESS_TIMEOUT (R488): of the accesses whose home package has not answered within 2^20 clocks, a read completes with
poisoned data, which its reader consumes, and a write is done with. -/
def execRemoteAccessTimeout (who : RunnerId) (s : State) : Result :=
  let late (o : Outbound) : Bool :=
    o.who == who && (o.wr || o.data.isNone) && poolOf o.pa != .window && decide (o.since + 2 ^ 20 ≤ clockOf s who)
  let read (o : Outbound) : Bool := late o && o.readBy who
  let gone (o : Outbound) : Bool := late o && (o.wr || o.ofPort || o.readBy who)
  let t := doneGrids late s
  let t := if s.outb.any read then t.onRunner who (fun r => { r with wait := .timedOut }) else t
  .next { t with
    outb := (s.outb.filter fun o => !gone o).map fun o => if late o then { o with data := some 0, lost := true } else o }

/-- An accepted write is performed on its die (R237), with its issuer's earlier writes to its bytes. -/
def performWrite (k : Nat) (s : State) : State :=
  match s.pend[k]? with
  | none => s
  | some w => seeAll s fun x => x == w

/-! ## Peers (R479, R484 to R486) -/

/-- A peer's access is dropped (R485). -/
def peerDrop (s : State) : State := { s with dev := { s.dev with peerdrop := satInc s.dev.peerdrop } }

/-- Bytes that come in through a port, at system scope (R485, R486), uncompressed; what lies beyond the package they reach
through it (R482). -/
def peerStore (port key : Nat) (comp : Bool) (pa : Nat) (bs : List Byte) (s : State) : State :=
  if answeredOutside s pa then outWrite (portRunner port) (.instr false) 0 0 pa key comp bs s
  else
    match poolOf pa with
    | .unmapped => badAddr s
    | .device =>
      if bs.length = 8 ∧ pa % 8 = 0 then
        { s with dev := devWrite (pa % 65536) (BitVec.ofNat 64 (leNat bs)) s.dev }
      else s
    | _ => countRange (touch (homeWrite s key comp pa bs) none true true pa bs.length) pa bs.length

/-- What a read that comes in through a port does: conflicts (R280), counts (R480, R493) and requests beyond the package
(R482). -/
def peerLoad (port pa n : Nat) (s : State) : State :=
  if answeredOutside s pa then outAsk (portRunner port) (.instr false) 0 pa n s
  else if poolOf pa = .unmapped then badAddr s
  else if (poolOf pa).isMemory then countRange (touch s none true false pa n) pa n
  else s

/-- Where a peer's access to n bytes of BAR2 goes (R484, R485): address and key slot, or nowhere. -/
def windowSlot (s : State) (port off n : Nat) : Option (Nat × Nat) :=
  let w := off / 2 ^ 30
  let o := off % 2 ^ 30
  let ctl := vget s.dev.wctl w
  if w < 64 ∧ ctl.getLsbD 63 ∧ slice ctl 49 48 = port ∧ o + n ≤ slice ctl 14 0 * 65536 then
    some (slice (vget s.dev.wbase w) 51 16 * 65536 + o, slice ctl 47 40)
  else none

/-- Where it lands: address and key; an empty key slot takes nothing (R492). -/
def windowPlace (s : State) (port off n : Nat) : Option (Nat × Nat) :=
  (windowSlot s port off n).bind fun p => (keyId s p.2).map fun k => (p.1, k)

/-- The port is an endpoint with BARs (R479). -/
def isEndpoint (s : State) (port : Nat) : Bool := decide (port < 4) && vget s.endpoint port

/-- PEER_WRITE (R478, R485, R486): a write of at most 4096 bytes reaches its port, and lands after those that the port has
received before. -/
def execPeerWrite (port off : Nat) (data : List Byte) (s : State) : Result :=
  if !isEndpoint s port || data.isEmpty || decide (4096 < data.length) then .next s
  else
    match windowPlace s port off data.length with
    | none => .next (peerDrop s)
    | some (pa, k) => .next { s with landed := s.landed ++ [⟨port, off / 2 ^ 30, pa, k, data⟩] }

/-- A landed write past its first k bytes. -/
def Landed.past (w : Landed) (k : Nat) : Landed := { w with pa := w.pa + k, bytes := w.bytes.drop k }

/-- The next aligned 8-byte unit of the oldest landed write of a port is performed (R486), unless the holder of the fallback
lock keeps it waiting (R288). -/
def landNext (port : Nat) (s : State) : State :=
  match s.landed.find? fun w => w.port == port with
  | none => s
  | some w =>
    let k := min w.bytes.length (8 - w.pa % 8)
    if lockedOut s none w.pa k then s
    else
      let rest := s.landed.erase w
      let left := w.past k
      peerStore port w.key false w.pa (w.bytes.take k)
        { s with landed := if left.bytes.isEmpty then rest else left :: rest }

/-- What a peer's read of BAR2 returns (R485): all ones out of range. -/
def peerAnswer (s : State) (port off n : Nat) : List Byte :=
  match windowPlace s port off n with
  | none => List.replicate n 0xFF
  | some (pa, k) => if (poolOf pa).isMemory then homeRead s k pa n else if poolOf pa = .device then unitBytes s pa n else List.replicate n 0

/-- PEER_READ (R485): the answer leaves the package; an access through a window whose key slot is empty is dropped
(R492). -/
def execPeerRead (port off len : Nat) (s : State) : Result :=
  if !isEndpoint s port then .next s
  else
    match windowSlot s port off len with
    | some (pa, slot) => .next (if (keyId s slot).isSome then peerLoad port pa len s else peerDrop s)
    | none => .next s

/-- BAR4_ACCESS (R479): with APEN = 0 the answer is Unsupported Request. A read is as long as `data`. -/
def execBar4Access (port pa : Nat) (wr : Bool) (data : List Byte) (s : State) : Result :=
  let ctl := vget s.dev.portctl port
  if !isEndpoint s port || !ctl.getLsbD 63 then .next s
  else
    let a := s.pkg.toNat * 2 ^ 48 + pa % 2 ^ 48
    match keyId s (slice ctl 47 40) with
    | none => .next (peerDrop s)
    | some k =>
      if wr then (if lockedOut s none a data.length then .next s else .next (peerStore port k false a data s))
      else .next (peerLoad port a data.length s)

/-- A foreign host stores a dword of the register block through BAR0, where key slots ignore it (R479, R482). -/
def bar0Write (port off : Nat) (v : Word) (s : State) : State :=
  if isEndpoint s port && off % 8 == 0 && decide (off < 0x4000 ∨ 0x8000 ≤ off ∧ off < 0x10000) then onDev (devWrite off v) s else s

/-- A write of another package's agent, under one of this package's key slots and through a page compressed or not, arrives at
its home here (R237, R488, R491). -/
def remoteWrite (slot pa : Nat) (comp : Bool) (bs : List Byte) (s : State) : State :=
  match keyId s slot with
  | some k =>
    if packageOf pa ≠ s.pkg.toNat ∨ poolOf pa = .window ∨ lockedOut s none pa bs.length then s else peerStore 0 k comp pa bs s
  | none => s

/-- A read of another package's agent arrives at its home here (R488). -/
def remoteRead (pa n : Nat) (s : State) : State :=
  if packageOf pa = s.pkg.toNat ∧ poolOf pa ≠ .window then peerLoad 0 pa n s else s

/-- Another package falls silent, or answers again (R488). -/
def setSilent (pkg : Nat) (on : Bool) (s : State) : State :=
  let rest := s.silent.filter (· != pkg)
  { s with silent := if on && pkg != s.pkg.toNat then pkg :: rest else rest }

/-- MSIX_MESSAGE (R479, R487): the host core of the vector's routing entry has a pending INTERRUPT of kind 0. -/
def execMsixMessage (port vec : Nat) (s : State) : Result :=
  if port < 4 ∧ vec < 2048 then
    let n := ((s.msix.find? fun e => e.1 == port * 2048 + vec).map (·.2)).getD (Config.msixRoute port vec).toNat
    .next (notify n 0 vec s)
  else .next s

/-! ## Links (R472, R473, R477, R483) -/

/-- A saturating 32-bit count in bits [lo + 31:lo] of a counter register. -/
def countHalf (lo : Nat) (w : Word) : Word :=
  let n := slice w (lo + 31) lo
  setField w (lo + 31) lo (if n = 0xFFFFFFFF then n else n + 1)

/-- A link error counter counts a replay or a corrected flit (R483). -/
def countLink (link : Nat) (corrected : Bool) (s : State) : State :=
  if link < 20 then
    onDev (fun d => { d with linkerr := vset d.linkerr link (countHalf (if corrected then 0 else 32) (vget d.linkerr link)) }) s
  else s

/-- LINK_FLIT_ERROR (R473, R483). -/
def execLinkFlitError (link : Nat) (corrected : Bool) (s : State) : Result := .next (countLink link corrected s)

/-- INJECTOR_ACT (R473): the Nth flit passes an armed injector; one that is corrupted or dropped is replayed. An argument of 0
corrupts nothing. -/
def execInjectorAct (link : Nat) (dir : Bool) (s : State) : Result :=
  match s.injectors.find? fun i => i.link == link && i.dir == dir with
  | none => .next s
  | some i =>
    let t := if (i.act = 1 ∧ i.arg ≠ 0) ∨ i.act = 2 then countLink link false s else s
    .next (if i.rep then t else { t with injectors := t.injectors.filter fun j => !(j.link == link && j.dir == dir) })

/-- ESCAPE_RECOVERY (R477): the router's blocked flits go by the escape channel, its QoS weights suspended. -/
def execEscapeRecovery (router : Nat) (s : State) : Result :=
  .next (onDev (fun d => { d with recover := satInc d.recover })
    { s with escapes := if s.escapes.contains router then s.escapes else router :: s.escapes })

/-- ESCAPE_CHANNEL_EMPTY (R477): the router's weights apply again. -/
def execEscapeChannelEmpty (router : Nat) (s : State) : Result :=
  .next { s with escapes := s.escapes.filter fun r => r != router }

/-- ROUTING_TABLE_WRITE (R488): one or two links for a destination package. -/
def execRoutingTableWrite (dest : Nat) (links : List Nat) (s : State) : Result :=
  if dest < 16 ∧ 1 ≤ links.length ∧ links.length ≤ 2 ∧ (links.all fun l => decide (l < 8)) then
    .next { s with routing := (dest, links) :: s.routing.filter fun r => r.1 != dest }
  else .next s

/-! ## Memory: errors, scrub, controllers, hotness, refresh (R474, R476, R490, R493) -/

/-- The memory channel or slice of a line (R480): the numbers of the slices of R378. -/
def channelOf (line : Nat) : Nat := usherAt (line * 256)

/-- MEMORY_ERROR (R474): an error arises in the aligned 8 bytes at an address. An uncorrectable one is there for whoever
reads it. -/
def execMemoryError (addr : Nat) (correctable : Bool) (s : State) : Result :=
  let u := addr / 8
  if !(poolOf addr).isMemory then .next s
  else
    .next { s with
      latent := (u, correctable) :: s.latent.filter fun x => x.1 != u || (correctable && !x.2)
      poison := if correctable ∨ s.poison.contains u then s.poison else u :: s.poison }

/-- A row enters the history table of its channel, where the row whose last correction is oldest makes room (R474). -/
def noteRow (line : Nat) (h : List (Nat × Nat)) : List (Nat × Nat) :=
  let c := channelOf line
  let rest := h.filter fun r => r != (c, Config.memRow line)
  let mine := rest.filter fun r => r.1 == c
  (c, Config.memRow line) :: if mine.length < 256 then rest else
    match mine.getLast? with
    | some old => rest.filter fun r => r != old
    | none => rest

/-- SCRUB_VISIT (R474): correctable errors of the line are corrected and its row noted; an uncorrectable one poisons the
line. No access of an agent: nothing else changes. -/
def execScrubVisit (line : Nat) (s : State) : Result :=
  let here := s.latent.filter fun x => x.1 / 32 == line
  let s := { s with latent := s.latent.filter fun x => x.1 / 32 != line }
  let s := if here.any (·.2) then { s with history := noteRow line s.history } else s
  if here.any fun x => !x.2 then
    .next { s with poison := (List.range 32).map (fun k => line * 32 + k) ++ s.poison.filter fun u => u / 32 != line }
  else .next s

/-- CONTROLLER_BATCH_FORM (R490): a batch orders requests that wait at a controller; which accepted write arrives next is
the agenda's choice here, so only time passes. -/
def execControllerBatchForm (_c : Nat) (s : State) : Result := .next s

/-- HOTNESS_INTERVAL_END (R493): the list goes out in descending estimate order, NOTICE[16] is set, sketch and list are
cleared, SEQ counts. -/
def execHotnessIntervalEnd (c : Nat) (s : State) : Result :=
  let h := vget s.dev.hot c
  if 13 ≤ c ∨ !h.ctl.getLsbD 63 then .next s
  else
    let ws := (sortBy (fun p => 65535 - p.2) h.list).map fun p => p.1 % 2 ^ 40 * 2 ^ 24 + p.2
    let bs := (ws ++ List.replicate (32 - ws.length) 0).flatMap (leBytes 8)
    let h' : Hot := ⟨setField h.ctl 31 0 ((slice h.ctl 31 0 + 1) % 2 ^ 32), h.base, [], []⟩
    let t := physWrite h.base.toNat bs s
    .next (onDev (fun d => { d with hot := vset d.hot c h', notice := setBit d.notice 16 true }) t)

/-- A refresh sequencer changes. -/
def onRefresh (stack : Nat) (f : Refresh → Refresh) (s : State) : State :=
  if stack < 12 then { s with refresh := vset s.refresh stack (f (vget s.refresh stack)) } else s

/-- REFRESH_HEARTBEAT (R476): after four in a row the management core has refresh again. -/
def execRefreshHeartbeat (stack : Nat) (s : State) : Result :=
  .next (onRefresh stack (fun r =>
    if r.taken then (if 3 ≤ r.good then ⟨0, 0, false⟩ else ⟨0, r.good + 1, true⟩) else ⟨0, 0, false⟩) s)

/-- A heartbeat is missed (R476): four in a row are to come anew. -/
def missBeat (stack : Nat) (s : State) : State := onRefresh stack (fun r => ⟨min 2 (r.missed + 1), 0, r.taken⟩) s

/-- REFRESH_TAKEOVER (R476): two heartbeats in a row have been missed; the sequencer refreshes, and NOTICE says so. -/
def execRefreshTakeover (stack : Nat) (s : State) : Result :=
  let r := vget s.refresh stack
  if stack < 12 ∧ 2 ≤ r.missed ∧ !r.taken then
    .next (onDev (fun d => { d with notice := setBit d.notice stack true }) (onRefresh stack (fun _ => ⟨2, 0, true⟩) s))
  else .next s

/-! ## Clock stretch (R35, R494) -/

/-- SUPPLY_SAG (R35). -/
def execSupplySag (hall : Nat) (s : State) : Result :=
  .next (if hall < 6 ∧ !s.stretched.contains hall then { s with stretched := hall :: s.stretched } else s)

/-- SUPPLY_RECOVER (R35): the hall's clock is restored. The stretched clock that is under way ends first, longer by up to `ns`
nanoseconds; none is where `ns` is 0. -/
def execSupplyRecover (hall ns : Nat) (s : State) : Result :=
  let t := if ns = 0 then s else passHall hall 1 ns s
  .next { t with stretched := t.stretched.filter fun h => h != hall }

/-! ## Engines of a partition (R448) -/

/-- Numbers from `a` on. -/
def upFrom (a n : Nat) : List Nat := (List.range n).map (· + a)

/-- The engines that stop with a partition, its collector excepted (R448): cores, porters, ushers, distributors. -/
def enginesOf (p : Part) : List Nat :=
  p.halls.flatMap (fun h => upFrom (64 * h) 64)
    ++ p.halls.flatMap (fun h => upFrom (0x1000 + 4 * h) 4) ++ upFrom (0x1000 + 24) 8
    ++ p.halls.flatMap (fun h => upFrom (0x2000 + 64 * h) 64) ++ upFrom (0x2000 + 384) 32
    ++ p.halls.flatMap (fun h => upFrom (0x3000 + 8 * h) 8)

/-- Where engine n's stop record lies past STOPBASE (R448). -/
def recordAt (n : Nat) : Nat := 64 * (512 * (n / 4096) + n % 4096)

/-- The engine stands on H. -/
def onHost (n : Nat) : Bool := (n / 4096 == 1 && decide (24 ≤ n % 4096)) || (n / 4096 == 2 && decide (384 ≤ n % 4096))

/-! ## Operations that end where they stand (R313) -/

/-- A choice that the manual leaves open. -/
def freeBit (k : Nat) : Bool := (Config.freeByte k).getLsbD 0

/-- The parts of n bytes at a within aligned units of w bytes: offset and length. -/
def unitParts (w a n : Nat) : List (Nat × Nat) :=
  if n = 0 then []
  else (List.range ((a + n - 1) / w - a / w + 1)).map fun k =>
    let u := a / w + k
    let lo := max a (u * w)
    (lo - a, min (a + n) ((u + 1) * w) - lo)

/-- Moves in the groups that write one unit after another of w bytes, at most `fuel` of them. -/
def moveUnits (w : Nat) : Nat → List Move → List (List Move)
  | 0, _ => []
  | _, [] => []
  | fuel + 1, ms => let r := cutMoves w 1 none ms; r.1 :: moveUnits w fuel r.2

/-- Pieces of memory with the bytes for them, cut at aligned units. -/
def pieceUnits : List (Loc × Nat) → List (Byte × Bool) → List (Loc × List (Byte × Bool))
  | (.mem pa key comp, n) :: l, bs =>
    ((unitParts 8 pa (min n bs.length)).map fun p => (Loc.mem (pa + p.1) key comp, (bs.drop p.1).take p.2))
      ++ pieceUnits l (bs.drop n)
  | (.land _ _ _, n) :: l, bs => pieceUnits l (bs.drop n)
  | [], _ => []

/-- Some of a list, chosen by free values from `k` on. -/
def someOf (k : Nat) (l : List α) : List α := (l.zipIdx.filter fun p => freeBit (k + p.2)).map (·.1)

/-- Some units of the bytes written. -/
def writeSome (o : EngOp) (us : List (Loc × List (Byte × Bool))) (s : State) : State :=
  { (someOf s.free us).foldl (fun s u => writeLocs o [(u.1, u.2.length)] u.2 s) s with free := s.free + us.length }

/-- Some units of a list: its header only where every entry has been written (R390). -/
def writeSomeList (o : EngOp) (dst : List (Loc × Nat)) (bs : List (Byte × Bool)) (s : State) : State :=
  let c := cutLocs 64 dst
  let es := pieceUnits c.2 (bs.drop 64)
  let t := writeSome o es s
  if (someOf s.free es).length = es.length then writeSome o (pieceUnits c.1 (bs.take 64)) t else t

/-- What an operation leaves where it ends (R313): each destination unit its old value or its new one, a summary the old or
the new. Scratch of the halted partition is lost. -/
def haltWork (o : EngOp) (s : State) : State :=
  match o.kind with
  | .copy ms raw =>
    if o.started then
      let us := moveUnits (unitOf raw) ((ms.map (·.len)).foldl (· + ·) 0) ms
      { (someOf s.free us).foldl (fun s u => if movesReady s o raw u then (doMoves o raw u s).1 else s) s with free := s.free + us.length }
    else s
  | .fetch .. => s
  | .build block _ key =>
    let t := { s with free := s.free + 1 }
    if freeBit s.free then endBuild o.no block key t
    else { t with pages := mapIf (fun q => q.block == block) (fun q => { q with next := none }) t.pages }
  | .off block =>
    let t := { s with free := s.free + 1 }
    if freeBit s.free then unmark o.no block t else t
  | .read block dst =>
    if !placesReady s o dst then s
    else writeSome o (pieceUnits dst ((summaryBytes (((page? s block).map (·.sum)).getD openSummary)).map fun b => (b, false))) s
  | .bound h _ pages done dst =>
    if done.length = pages.length ∧ placesReady s o dst then writeSomeList o dst (boundList h pages done) s else s
  | .list ha hb a b dst =>
    if sourcesReady s o (a ++ b) && placesReady s o dst then
      writeSomeList o dst
        (mergeLists (leNat ha) (leNat hb) (readEntries (headHeld (leNat ha)) ((readLocs s o a).1.drop 64))
          (readEntries (headHeld (leNat hb)) ((readLocs s o b).1.drop 64))) s
    else s

/-- An operation ends where it stands, and its ranges are released (R313). -/
def haltOp (s : State) (o : EngOp) : State := endOp o.no (haltWork o s)

/-- Where the first destination or page of an operation lies: what ADDR of a stop record names (R447). -/
def EngOp.addr (o : EngOp) : Nat :=
  let first (l : List (Loc × Nat)) : Nat := match l.head? with | some (.mem pa _ _, _) => pa | _ => 0
  match o.kind with
  | .copy ms _ => first (ms.map fun m => (m.dst, m.len))
  | .fetch _ _ _ _ src _ _ => first src
  | .build b _ _ => b * 16384
  | .off b => b * 16384
  | .read b _ => b * 16384
  | .bound _ _ _ _ dst => first dst
  | .list _ _ _ _ dst => first dst

/-! ## Stopping an engine (R446, R447) -/

/-- What an engine had when the line stopped it: its oldest group, the context of its oldest work, the operations it
dropped, the address of the last. -/
structure Stopped where
  group : Option Runner
  ctx : Nat
  dropped : Nat
  addr : Nat

/-- The slots of a squad whose pre-emption the halt overtakes hold undefined values (R455). -/
def spoilSlots (core : Nat) (s : State) : State :=
  let leaving (t : Team) : Bool := t.core == core && s.squads.any fun q => q.uid == t.squad && q.leaving
  let teams := s.teams.filter leaving
  let groups := (groupsOn s core).filter fun r => teams.any fun t => t.uid == r.team
  let s := groups.foldl (fun s r =>
    writeImage (groupSlotAt (slotBase s r.ctx) r.ownCore r.ownSlot) (unknownBytes 0xC000) s) s
  teams.foldl (fun s t =>
    let t := ownRecords s t
    let a := coreSlotAt (slotBase s t.ctx) t.ownCore
    let s := (t.ownSpans s).foldl (fun s p => writeImage (a + 512 * p.1) (unknownBytes (512 * p.2)) s) s
    let s := writeImage (tileSlotAt (slotBase s t.ctx) t 0) (unknownBytes (65536 * t.tiles)) s
    t.records.foldl (fun s p => writeImage (a + p.1) (unknownBytes p.2) s) s) s

/-- Groups, teams, matrix operations, streams and stores on their way of a core are gone. A landing stays while an operation
reads or writes it (R313). -/
def dropCore (core : Nat) (s : State) : State :=
  let s := spoilSlots core s
  let mine (who : RunnerId) : Bool := (groupsOn s core).any fun r => r.id == who
  let team (uid : Nat) : Bool := s.teams.any fun t => t.uid == uid && t.core == core
  let squads := (s.squads.map fun q => { q with teams := q.teams.filter fun u => !team u }).filter fun q => !q.teams.isEmpty
  dropRunners (fun r => mine r.id) { s with
    pend := s.pend.filter fun w => !mine w.who
    outb := s.outb.filter fun o => !(mine o.who && match o.ask with | .instr _ | .code => true | _ => false)
    mops := s.mops.filter fun m => m.core != core
    streams := s.streams.filter fun x => !(x.core == core && !streamToPorts x.desc)
    subs := s.subs.filter fun b => b.core != core
    cksaves := s.cksaves.filter fun c => !team c.team.uid
    teams := (s.teams.filter fun t => t.core != core || s.ops.any (EngOp.touchesTeam t.uid)).map fun t =>
      if t.core = core then { t with groups := 0, exited := true } else t
    squads := squads }

/-- Operations of the partition that engine n holds. -/
def engineOps (s : State) (part n : Nat) : List EngOp :=
  s.ops.filter fun o => o.part == part &&
    match n / 4096 with
    | 1 => o.porter == some (n % 4096)
    | 2 => o.porter.isNone && min o.usher 415 == n % 4096
    | _ => false

/-- An engine discards its work in flight (R446, R313, R361). -/
def stopWork (part n : Nat) (s : State) : Stopped × State :=
  let k := n % 4096
  match n / 4096 with
  | 0 =>
    let gs := sortBy (·.placed) (groupsOn s k)
    let runs := (gs.map fun r => (r.l.bothRuns (·.runs)).length).foldl (· + ·) 0
    (⟨gs.head?, (gs.head?.map (·.ctx)).getD 0, runs + (coreOps s k).length, 0⟩, dropCore k s)
  | 3 =>
    let mine (x : Stream) : Bool := x.gal == k && streamToPorts x.desc
    (⟨none, ((s.streams.find? mine).map (·.ctx)).getD 0, (s.streams.filter mine).length, 0⟩,
      { s with
        streams := s.streams.filter fun x => !mine x
        subs := s.subs.filter fun b => b.gal != k })
  | _ =>
    let os := engineOps s part n
    (⟨none, (os.head?.map (·.ctx)).getD 0, os.length, (os.getLast?.map EngOp.addr).getD 0⟩, os.foldl haltOp s)

/-- A stop record (R447). -/
def stopRecord (h : Halt) (n skid cause : Nat) (x : Stopped) : List Byte :=
  let raiser := h.own && n == h.origin
  let pc := if raiser then h.pc.toNat else (x.group.map fun r => r.pc.toNat).getD 0
  let lpc := if raiser then h.lpc else (x.group.map Runner.laneSlot).getD 0
  let ctx := if raiser then h.ctx else x.ctx
  leBytes 64
    ((if raiser then h.addr.toNat else x.addr % 2 ^ 64) * 2 ^ 448 + pc * 2 ^ 384 + lpc % 2 ^ 22 * 2 ^ 362
      + (if raiser then h.lanes.toNat else 0) * 2 ^ 320 + ctx % 2 ^ 16 * 2 ^ 304 + min x.dropped 0xFFFF * 2 ^ 288
      + skid % 2 ^ 32 * 2 ^ 256 + h.origin % 2 ^ 16 * 2 ^ 112 + n % 2 ^ 16 * 2 ^ 96 + cause % 256 * 2 ^ 88
      + (if raiser then h.gslot else 0xFF) % 256 * 2 ^ 80 + 1)

/-- Clocks since the line was raised, as an engine counts them (R446). -/
def skidOf (s : State) (p : Part) (h : Halt) (n : Nat) : Nat :=
  if onHost n then s.clocks.fabric - h.sinceFabric else partClock s p.no - h.since

/-- Engine n stops: `cause` in its record, unless it raised the line (R447). -/
def stopEngine (p : Part) (h : Halt) (cause : Nat) (s : State) (n : Nat) : State :=
  let r := stopWork p.no n s
  let c := if cause = 0xB3 ∧ h.own ∧ n = h.origin then h.cause else cause
  physWrite (p.stopbase.toNat + recordAt n) (stopRecord h n (skidOf s p h n) c r.1) r.2

/-- A partition's halt changes. -/
def onHalt (part : Nat) (f : Halt → Halt) (s : State) : State :=
  { s with parts := mapIf (fun p => p.no == part) (fun p => { p with halt := p.halt.map f }) s.parts }

/-- The engines that have neither acknowledged nor been blocked. -/
def enginesLeft (p : Part) (h : Halt) : List Nat := (enginesOf p).filter fun n => !(h.acked.contains n || h.blocked.contains n)

/-- A partition whose halt is not yet collected. -/
def halting (s : State) (part : Nat) : Option (Part × Halt) :=
  (s.parts.find? fun p => p.no == part).bind fun p => (p.halt.filter fun h => !h.collected).map fun h => (p, h)

/-- ENGINE_STOP (R446 to R448): the engine's work goes, its record is written, it acknowledges. -/
def execEngineStop (part engine : Nat) (s : State) : Result :=
  match halting s part with
  | some (p, h) =>
    if (enginesLeft p h).contains engine then
      .next (onHalt part (fun h => { h with acked := h.acked ++ [engine] }) (stopEngine p h 0xB3 s engine))
    else .next s
  | none => .next s

/-- SKID_OVERRUN (R449): at its clock 4096 the collector records and blocks each engine that has not acknowledged; what a
blocked engine had reaches memory no more. -/
def execSkidOverrun (part : Nat) (s : State) : Result :=
  match halting s part with
  | some (p, h) =>
    let late := (enginesLeft p h).filter fun n => decide (4096 ≤ skidOf s p h n)
    if late.isEmpty then .next s
    else .next (onHalt part (fun h => { h with blocked := h.blocked ++ late }) (late.foldl (stopEngine p h 0xB4) s))
  | none => .next s

/-- Contexts of a partition (R213): of its grids, of the threads that its host cores run, and of entries that its runners
made. -/
def partCtxs (s : State) (part : Nat) : List Nat :=
  (((s.grids.filter fun g => g.part == part).map (·.ctx))
    ++ (s.runners.filter fun r => r.part == part && r.ctx != 0).map (·.ctx)
    ++ (s.cloaks.filter fun e => e.part == part && e.st != .free).map (·.ctx)).eraseDups

/-- The partition's grids are live no more, what its groups and grids have on the way is discarded, its tickets are
reclaimed, its range locks released, the transactions of its host cores rolled back (R446, R399, R47, R213, R290). -/
def endPartWork (part : Nat) (s : State) : State :=
  let ctxs := partCtxs s part
  let mine (h : Word) : Bool := s.grids.any fun g => g.handle == h && g.part == part
  let group (who : RunnerId) : Bool := match who with | .group _ => true | .host _ => false
  let s := { s with
    pend := s.pend.filter fun w => !(w.part == part && group w.who)
    outb := s.outb.filter fun o => !((group o.who && mine o.grid) || match o.ask with | .grid h => mine h | _ => false) }
  let s := discardGrids mine (fun _ => false) s
  let s := ctxs.foldl (fun s n => reclaimCtx n s) s
  let undo (r : Runner) : Runner := if r.isHost && r.part == part then r.txRestart else r
  let back := s.runners.filter fun r => r.isHost && r.part == part && r.tx.active
  { s with
    grids := s.grids.filter fun g => g.part != part
    parts := mapIf (fun p => p.no == part) (fun p => { p with ranges := [], reserve := [] }) s.parts
    wicket := back.foldl (fun w r => w.release r.id) s.wicket
    me := undo s.me
    others := s.others.map undo }

/-- The value of HALTSTAT after a halt (R449). -/
def haltWord (h : Halt) : Word :=
  BitVec.ofNat 64
    (2 ^ 63 + (if h.blocked.isEmpty then 0 else 2 ^ 62) + h.origin % 2 ^ 16 * 2 ^ 16 + h.cause % 256)

/-- The collector's part of a halt (R446, R449). -/
def collectHalt (p : Part) (h : Halt) (s : State) : State :=
  let s := endPartWork p.no s
  let s := physWrite (p.stopbase.toNat + recordAt 0x4000) (stopRecord h 0x4000 (skidOf s p h 0x4000) 0xB3 ⟨none, 0, 0, 0⟩) s
  let done (x : Part) : Part := { x with haltstat := haltWord h, halt := x.halt.map fun h => { h with collected := true } }
  let s := { s with parts := mapIf (fun x => x.no == p.no) done s.parts }
  let cores := (s.runners.filter fun r => r.isHost && r.part == p.no).map (·.core)
  cores.foldl (fun s n => notify n 2 p.no s) s

/-- HALT_COLLECTED (R449): every engine has acknowledged or is blocked. -/
def execHaltCollected (part : Nat) (s : State) : Result :=
  match halting s part with
  | some (p, h) => if (enginesLeft p h).isEmpty then .next (collectHalt p h s) else .next s
  | none => .next s

/-! ## Resets (R475, R484, R495) -/

/-- The dies that a link code of R472 joins, H as 3; none for other links. -/
def linkDies (link : Nat) : List Nat := ([[0, 1], [0, 2], [1, 2], [0, 3], [1, 3], [2, 3]] : List (List Nat)).getD link []

/-- A halt that the reset itself raises: its origin and cause are free values. -/
def resetHalt (part : Nat) (s : State) : Halt :=
  let b (k : Nat) : Nat := (Config.freeByte (s.free + k)).toNat
  ⟨b 0 + 256 * b 1, b 2, 0, 0, 0, 0, 0, 0xFF, partClock s part, s.clocks.fabric, false, [], [], false⟩

/-- The partition's halt, raised if it is not, is carried out; after one already collected, what the partition has begun since
is discarded as the halt would have it (R446). -/
def haltNow (part : Nat) (s : State) : State :=
  let s := if halted s part then s else { raiseHalt part (resetHalt part s) s with free := s.free + 3 }
  match halting s part with
  | some (p, h) => collectHalt p h ((enginesLeft p h).foldl (stopEngine p h 0xB3) s)
  | none => endPartWork part ((s.ops.filter fun o => o.part == part).foldl haltOp s)

/-- What a reset clears after the halt (R475, R378, R484). -/
def clearPart (p : Part) (s : State) : State :=
  let dies := (p.halls.map (· / 2)).eraseDups
  let fresh (x : Part) : Part :=
    { x with haltstat := 0, halt := none, ranges := [], reserve := [], turn := Vector.replicate 4 (0, 0), resets := x.resets + 1 }
  let inShare (e : Cloak) : Bool :=
    let r := shareOf 4096 (cloakParts s e.id.die) p.no
    decide (r.1 ≤ e.id.entry ∧ e.id.entry < r.1 + r.2)
  let marked (q : KPage) : Bool := let u := usherAt (q.block * 16384); decide (u < 384) && p.halls.contains (u / 64)
  let off (w : Word) : Word := if slice w 34 32 = p.no then setBit w 63 false else w
  let s := { s with cloaks := mapIf (fun e => inShare e && e.st == .free) (fun e => { e with gen := e.gen + 1 }) s.cloaks }
  let s := reclaimAll inShare s
  { s with
    parts := mapIf (fun x => x.no == p.no) fresh s.parts
    pages := s.pages.filter fun q => !marked q
    injectors := s.injectors.filter fun i => !(linkDies i.link).any fun d => dies.contains d
    dev := { s.dev with wctl := s.dev.wctl.map off } }

/-- PARTITION_RESET (R475). -/
def execPartitionReset (part : Nat) (s : State) : Result :=
  match s.parts.find? fun p => p.no == part with
  | some p => .next (clearPart p (haltNow part s))
  | none => .next s

/-- HOST_CORE_RESTART (R439, R495): a stopped host core goes on at its reset vector, as after reset. -/
def execHostCoreRestart (n : Nat) (s : State) : Result :=
  .next (s.onRunner (.host n) fun r => if r.stopped then { Runner.hostReset n with part := r.part, ints := r.ints } else r)

/-- The shadow lanes of a protected group differ from the primary ones (R464): its next access or branch finds that. -/
def upsetGroup (who : RunnerId) (s : State) : State :=
  s.onRunner who fun r => if s.grids.any fun g => g.handle == r.grid && g.prot then { r with upset := !r.isHost } else r

/-- A reset of the package at which the management interface fixes the modes of the ports (R206, R289, R478, R495): everything
as after reset, but the number of the package, those modes and the free values used so far. -/
def resetPackage (modes : Vector Bool 4) (s : State) : State :=
  { State.reset with
    agenda := s.agenda
    pkg := s.pkg
    pkgs := s.pkgs
    endpoint := modes
    free := s.free }

/-- PACKAGE_RESET (R206, R289, R478): the modes of the ports stay as they are. -/
def execPackageReset (s : State) : Result := .next (resetPackage s.endpoint s)

end Sys2Proof.Machine
end

