-- ==== Sys2Proof/Machine/LaneArith.lean ====
section
/-! DEFINITION. Integer lane instructions, class 0x0 (spec/04_lane_arith.md R127 to R135). -/

namespace Sys2Proof

/-- The X field (R66). -/
def LaneF.xField (f : LaneF) : Nat := f.imm.toNat / 65536

/-- Bits hi:lo of a slot's low word, in which X is [31:16] and IMM16 is [15:0] (R66). -/
def LaneF.low (f : LaneF) (hi lo : Nat) : Nat := Machine.bitsN f.imm.toNat hi lo

/-- The TYPE code. -/
def LaneF.t (f : LaneF) : Nat := f.ty.toNat

end Sys2Proof

namespace Sys2Proof.Machine

open Sys2Proof

/-! ## Types and rules (R132) -/

/-- .i32, .n32, .i64, .n64 (R132, I32). -/
def tyInt32 (t : Nat) : Bool := [4, 5, 8, 9].contains t

/-- I with .b32 and .b64 (R132, B). -/
def tyBitsOk (t : Nat) : Bool := decide (t ≤ 9)

/-- .b32 and .b64. -/
def tyB (t : Nat) : Bool := decide (t ≤ 1)

/-- A field used by a type's width, or not at all. -/
def useIf (b : Bool) (t : Nat) : Use := if b then useOf (tyBits t) else .none

/-- The rule of a form with sources a, b and c of its type's width (R132): `lit` marks an L of R72. -/
def intRule (ok : Nat → Bool) (b c lit sat : Bool) (f : LaneF) : LRule :=
  { type := ok f.t, d := useOf (tyBits f.t), a := useOf (tyBits f.t), b := useIf b f.t, c := useIf c f.t, imm := lit,
    immTy := f.t, sat := sat }

/-- A form that writes an exact result of its sources' patterns (R131, R132). -/
def intForm (rule : LaneF → LRule) (g : Nat → Nat → Nat → Nat → Int) : State → Result :=
  runLane rule fun c => writeD c (tyBits c.f.t) fun k => intWrite c.f.t c.f.sat (g c.f.t (c.a k) (c.b k) (c.c k))

/-- A form on the integers that its type reads. -/
def numForm (rule : LaneF → LRule) (g : Nat → Int → Int → Int → Int) : State → Result :=
  intForm rule fun t a b c => g t (intRead t a) (intRead t b) (intRead t c)

/-- A bitwise form (R132). -/
def bitForm (b : Bool) (g : Nat → Nat → Nat → Nat) : State → Result :=
  intForm (intRule tyBitsOk b false b false) fun t x y _ => ((g (tyBits t) (x % 2 ^ tyBits t) (y % 2 ^ tyBits t) : Nat) : Int)

/-- The rule of a shift: the count is one 32-bit register or an immediate read as for .n32 (R130). -/
def shiftRule (sat : Bool) (f : LaneF) : LRule :=
  { intRule tyBitsOk true false true sat f with b := .one, immTy := 8 }

/-- The count of a shift (R132). -/
def shiftBy (t b : Nat) : Nat := b % 2 ^ 32 % tyBits t

/-- A 32-bit count of a 32-bit or 64-bit pattern (R128, R132). -/
def countForm (g : Nat → Nat → Nat) : State → Result :=
  runLane (fun f => { type := tyB f.t, a := useOf (tyBits f.t) }) fun c =>
    writeD c 32 fun k => g (tyBits c.f.t) (c.a k)

/-! ## The instructions (R132) -/

/-- VADD (R132). -/
def execVadd : State → Result := numForm (intRule tyInt true false true true) fun _ a b _ => a + b

/-- VSUB (R132). -/
def execVsub : State → Result := numForm (intRule tyInt true false true true) fun _ a b _ => a - b

/-- VMUL (R132). -/
def execVmul : State → Result := numForm (intRule tyInt true false true true) fun _ a b _ => a * b

/-- VMULH (R132): the high n bits of the exact product. -/
def execVmulh : State → Result :=
  numForm (intRule tyInt32 true false true false) fun t a b _ => a * b / (2 ^ tyBits t : Nat)

/-- VMAD (R132). -/
def execVmad : State → Result := numForm (intRule tyInt true true false true) fun _ a b c => a * b + c

/-- VMIN (R132). -/
def execVmin : State → Result := numForm (intRule tyInt true false true false) fun _ a b _ => min a b

/-- VMAX (R132). -/
def execVmax : State → Result := numForm (intRule tyInt true false true false) fun _ a b _ => max a b

/-- VABS (R132). -/
def execVabs : State → Result := numForm (intRule tySigned false false false true) fun _ a _ _ => (a.natAbs : Int)

/-- VAND (R132). -/
def execVand : State → Result := bitForm true fun _ a b => a &&& b

/-- VOR (R132). -/
def execVor : State → Result := bitForm true fun _ a b => a ||| b

/-- VXOR (R132). -/
def execVxor : State → Result := bitForm true fun _ a b => a ^^^ b

/-- VNOT (R132). -/
def execVnot : State → Result := bitForm false fun n a _ => 2 ^ n - 1 - a

/-- VSHL (R132). -/
def execVshl : State → Result :=
  intForm (shiftRule true) fun t a b _ => intRead t a * (2 ^ shiftBy t b : Nat)

/-- VSHR (R132). -/
def execVshr : State → Result :=
  intForm (shiftRule false) fun t a b _ => ((a % 2 ^ tyBits t / 2 ^ shiftBy t b : Nat) : Int)

/-- VSAR (R132). -/
def execVsar : State → Result :=
  intForm (shiftRule false) fun t a b _ => sextN (tyBits t) a / (2 ^ shiftBy t b : Nat)

/-- VCLZ (R132). -/
def execVclz : State → Result := countForm clzN

/-- VPOPC (R132). -/
def execVpopc : State → Result := countForm popcount

/-- pos and width of VBFX (R133). -/
def bfxPos (f : LaneF) : Nat := f.low 31 27

@[inherit_doc bfxPos] def bfxWidth (f : LaneF) : Nat := f.low 26 22 + 1

/-- VBFX (R133). -/
def execVbfx : State → Result :=
  runLane
    (fun f => { type := f.t == 4 || f.t == 8, a := .one, x := 0xFFC0, also := decide (bfxPos f + bfxWidth f ≤ 32) })
    fun c => writeD c 32 fun k =>
      let x := c.a k / 2 ^ bfxPos c.f % 2 ^ bfxWidth c.f
      if c.f.t = 4 then wrapN 32 (sextN (bfxWidth c.f) x) else x

/-- VSEL (R134). -/
def execVsel : State → Result :=
  runLane (fun f => { intRule tyB true false false false f with x := 0xF000 }) fun c => do
    let l := (← get).me.l
    let mk := if c.f.low 31 28 = 0 then c.m0 else vget l.m (c.f.low 31 28)
    writeD c (tyBits c.f.t) fun k => if mk.getLsbD k then c.a k else c.b k

/-- The rule of a comparison: D names a mask register other than m0 (R135, R141). -/
def cmpRule (ok : Nat → Bool) (f : LaneF) : LRule :=
  { intRule ok true false true false f with
    d := .other
    x := 0xF000
    also := decide (f.d.toNat < 16) && f.d != 0 && decide (f.low 31 28 < 6) }

/-- The condition of VCMP (R135). -/
def intCond (c : Nat) (a b : Int) : Bool :=
  match c with
  | 0 => decide (a = b)
  | 1 => decide (a ≠ b)
  | 2 => decide (a < b)
  | 3 => decide (b ≤ a)
  | 4 => decide (a ≤ b)
  | _ => decide (b < a)

/-- VCMP (R135). -/
def execVcmp : State → Result :=
  runLane (cmpRule tyInt) fun c =>
    writeMask c c.f.d.toNat fun k => intCond (c.f.low 31 28) (intRead c.f.t (c.a k)) (intRead c.f.t (c.b k))

/-- VMOV (R132). -/
def execVmov : State → Result :=
  runLane (intRule tyB false false false false) fun c => writeD c (tyBits c.f.t) c.a

/-- VMOVI (R132): the immediate's pattern. -/
def execVmovi : State → Result :=
  runLane
    (fun f => { type := f.t != 1 && decide (f.t ≤ 0xD), d := useOf (tyBits f.t), imm := true, immTy := f.t, also := f.ib })
    fun c => writeD c (tyBits c.f.t) fun k => if tyFloat c.f.t then c.b k else intWrite c.f.t false (intRead c.f.t (c.b k))

end Sys2Proof.Machine
end

