-- ==== Sys2Proof/Machine/LaneMem.lean ====
section
/-! DEFINITION. Lane accesses to storage, class 0x4 (spec/06_memory.md R174 to R197): memory through a translation register,
landings, the mezzanine, the exchange banks, the atria and lockers. -/

namespace Sys2Proof

/-- C[0] and C[1] of class 0x4 (R190). -/
def LaneF.quad (f : LaneF) : Bool := f.c.getLsbD 0

@[inherit_doc LaneF.quad] def LaneF.noIdx (f : LaneF) : Bool := f.c.getLsbD 1

end Sys2Proof

namespace Sys2Proof.Machine

open Sys2Proof

/-! ## Places -/

/-- What an instruction reaches (R174). -/
inductive Space where
  | mem | land | mezz | exch | atrium | locker
deriving DecidableEq, Repr

/-- Where one lane's access goes. -/
inductive Spot where
  | mem (t : Tr)
  | land (team off : Nat)
  | shadow (team off : Nat)
  | atrium (pa : Nat)
  | locker (off : Nat)

/-- A check of a mezzanine address o: the team on the core it names, and the offset there (R181). -/
def mezzCheck (s : State) (o : Int) : Except (Nat × Word) (Team × Nat) :=
  if o < 0 ∨ (2 ^ 22 : Nat) ≤ o then .error (0x2A, BitVec.ofInt 64 o)
  else
    match mezzTeam s (o.toNat / 2 ^ 19) with
    | some t => .ok (t, o.toNat % 2 ^ 19)
    | none => .error (0x2A, BitVec.ofInt 64 o)

/-- A landing check reached through a mezzanine address, which VFAULTADDR holds. -/
def mezzLand (s : State) (o : Int) (z al : Nat) (write : Bool) : Except (Nat × Word) Spot :=
  match mezzCheck s o with
  | .error e => .error e
  | .ok (t, off) =>
    match landCheck s t off z al write with
    | .error (c, _) => .error (c, BitVec.ofInt 64 o)
    | .ok off => .ok (.land t.uid off)

/-- A check of a shadow bank (R182). -/
def exchCheck (s : State) (o : Int) (z al : Nat) : Except (Nat × Word) Spot :=
  match mezzCheck s o with
  | .error e => .error e
  | .ok (t, off) =>
    if off < t.len - t.exch ∨ t.len < off + z then .error (0x2A, BitVec.ofInt 64 o)
    else if off % al ≠ 0 then .error (0x24, BitVec.ofInt 64 o)
    else .ok (.shadow t.uid off)

/-- A check of an atrium offset (R183): the window of the context and the atrium's 64 MiB. -/
def atriumCheck (s : State) (die : Nat) (o : Int) (z al : Nat) (read write : Bool) : Except (Nat × Word) Spot :=
  let a := BitVec.ofInt 64 o
  let base := ((ctx? s s.me.ctx).map (·.atrbase.toNat)).getD 0
  let lim := ((ctx? s s.me.ctx).map (·.atrlim.toNat)).getD 0
  let d := if die = 3 then s.me.die else die
  let pa := atriumPa s d o.toNat
  if o < (base : Nat) ∨ ((base + lim : Nat) : Int) < o + z ∨ (2 ^ 26 : Nat) < o + z then .error (0x2A, a)
  else if rangeHit s s.me.part pa z write then .error (0x25, a)
  else if o.toNat % al ≠ 0 then .error (0x24, a)
  else if read && poisoned s pa z then .error (0xA1, a)
  else .ok (.atrium pa)

/-- A check of a locker offset (R175). -/
def lockerCheck (o : Int) (z al : Nat) : Except (Nat × Word) Spot :=
  if o < 0 ∨ 256 < o + z then .error (0x2A, BitVec.ofInt 64 o)
  else if o.toNat % al ≠ 0 then .error (0x24, BitVec.ofInt 64 o)
  else .ok (.locker o.toNat)

/-- One lane's check of z bytes at offset o in a space, in the order of R194. -/
def spotCheck (s : State) (f : LaneF) (sp : Space) (lane : Nat) (o : Int) (z : Nat) (n : Need) : Except (Nat × Word) Spot :=
  match sp with
  | .mem =>
    match laneCheck s lane (runXb s f.xbn) o z n with
    | .ok t => .ok (.mem t)
    | .error e => .error e
  | .land =>
    match myTeam s with
    | some t =>
      match landCheck s t o z z n.wr with
      | .ok off => .ok (.land t.uid off)
      | .error e => .error e
    | none => .error (0x2A, BitVec.ofInt 64 o)
  | .mezz => mezzLand s o z z n.wr
  | .exch => exchCheck s o z z
  | .atrium => atriumCheck s f.xbn o z z n.rd n.wr
  | .locker => lockerCheck o z z

/-! ## Accesses -/

/-- Bytes of a team's landing or shadow bank under its modes. -/
def teamBytes (s : State) (uid : Nat) (shadow : Bool) (off z : Nat) : List Byte :=
  match team? s uid with
  | some t => landRead (if shadow then t.shadow else t.land) t.modes off z
  | none => List.replicate z 0

/-- Bytes stored into a team's landing or shadow bank. -/
def teamStore (uid : Nat) (shadow : Bool) (off : Nat) (bs : List Byte) (s : State) : State :=
  onTeam uid (fun t =>
    if shadow then { t with shadow := landWrite t.shadow t.modes off bs }
    else { t with land := landWrite t.land t.modes off bs }) s

/-- One lane's plain read. -/
def spotRead (g : Agent) (lane z : Nat) : Spot → Op (List Byte)
  | .mem t => readAt g t z
  | .land u o => return teamBytes (← get) u false o z
  | .shadow u o => return teamBytes (← get) u true o z
  | .atrium pa => do
    modify fun s => touch s (some g.who) true false pa z
    return viewRead (← get) (some g.who) g.die 0 pa z
  | .locker o => return lockRead (← get).me.l.locker lane o z

/-- One lane's plain write. -/
def spotWrite (g : Agent) (lane : Nat) (bs : List Byte) : Spot → Op Unit
  | .mem t => writeAt g t bs
  | .land u o => modify (teamStore u false o bs)
  | .shadow u o => modify (teamStore u true o bs)
  | .atrium pa => do
    readyIf (storeReady (← get) g pa bs.length)
    modify (acceptBytes g pa 0 false bs)
  | .locker o => onLanes fun l => { l with locker := lockWrite l.locker lane o bs }

/-- A lane's transactional step: what it gives once it is ready, or how it ends the lane's attempt. -/
def laneTxStep (ready : State → Bool) (f : State → Except LaneEnd (α × State)) : Op (Except LaneEnd α) := do
  match f (← get) with
  | .ok (x, s) => do
    readyIf (ready (← get))
    set s
    return .ok x
  | .error e => return .error e

/-- One lane's read, in or out of an attempt. -/
def laneRead (g : Agent) (lane z : Nat) (p : Spot) : Op (Except LaneEnd (List Byte)) := do
  let s ← get
  match s.me.attempting lane, p with
  | true, .mem t => laneTxStep (laneTxReady lane t z false) (laneTxRead lane t z)
  | _, p => return .ok (← spotRead g lane z p)

/-- One lane's write, in or out of an attempt. -/
def laneWrite (g : Agent) (lane : Nat) (bs : List Byte) (p : Spot) : Op (Except LaneEnd Unit) := do
  let s ← get
  match s.me.attempting lane, p with
  | true, .mem t => laneTxStep (laneTxReady lane t bs.length true) fun s => (laneTxWrite lane t bs s).map fun s => ((), s)
  | _, p => return .ok (← spotWrite g lane bs p)

/-- A lane's access in lane order: the values of the lanes that performed, and which of the others begin again. -/
def eachLane (f : Nat → Spot → Op (Except LaneEnd α)) : List (Nat × Spot) → Op (List (Nat × α) × List (Nat × Bool))
  | [] => return ([], [])
  | (k, p) :: l => do
    match ← f k p with
    | .ok x => do
      let r ← eachLane f l
      return ((k, x) :: r.1, r.2)
    | .error e => do
      let (s, again) := endAttempt k e (← get)
      set s
      let r ← eachLane f l
      return (r.1, (k, again) :: r.2)

/-- Some active lane runs an attempt: scope, order and flag of its access have no further effect (R275). -/
def inAttempt (c : LaneCtx) (s : State) : Bool := (lanesOf c.act).any fun k => s.me.attempting k

/-- The release part of an order, outside attempts. -/
def laneBefore (c : LaneCtx) : Op Unit := do
  if inAttempt c (← get) then pure () else before c.f.scope c.f.order

/-- What order sc asks before a read and after a write, outside attempts (R241). -/
def laneSc (c : LaneCtx) (tx : Bool) : Op Unit := if tx then pure () else scDone c.f.scope c.f.order

/-! ## Fields (R190) -/

/-- .i8, .n8, .i16, .n16, .b32, .b64. -/
def tyMem (t : Nat) : Bool := [0, 1, 2, 3, 6, 7].contains t

/-- Bytes of an access (R190). -/
def accessSize (t : Nat) (quad : Bool) : Nat := if quad then 16 else tyBits t / 8

/-- The rule of an access of class 0x4 (R190): the bits that C may hold, whether XB names something, the widest scope and
the orders allowed. -/
def memRule (ok : Nat → Bool) (cBits : Nat) (xb : Nat) (scope : Nat) (orders : List Nat) (f : LaneF) : LRule where
  type := ok f.t
  d := if f.quad then .quad else useOf (tyBits f.t)
  a := if f.noIdx then .none else .one
  c := .other
  fl := true
  acc := true
  x := 0xFFE0
  i16 := 0xFFFF
  also := (f.c.toNat &&& (255 - cBits)) == 0 && (!f.quad || f.t == 1) && decide (f.xbn ≤ xb) && decide (f.scope ≤ scope)
    && orders.contains f.order

/-- The orders of a load and of a store (R190). -/
def loadOrders : List Nat := [0, 1, 4]

@[inherit_doc loadOrders] def storeOrders : List Nat := [0, 2, 4]

/-- The offset of a lane (R191). -/
def laneOff (c : LaneCtx) (k : Nat) : Int := c.f.offset (if c.f.noIdx then 0 else sextN 32 (c.a k))

/-- The lanes' places, or the causes of the lanes that have one (R191). -/
def lanePlaces (c : LaneCtx) (sp : Space) (z : Nat) (n : Need) : Op (List (Nat × Spot)) := do
  let s ← get
  allLanes .kept ((lanesOf c.act).map fun k => (k, spotCheck s c.f sp k (laneOff c k) z n))

/-! ## Values -/

/-- A loaded value stands in a lane's registers (R131, R190). -/
def Lanes.putLoad (t d lane : Nat) (bs : List Byte) (l : Lanes) : Lanes :=
  if bs.length < 4 then l.putWord d lane (BitVec.ofNat 32 (intWrite t false (intRead t (leNat bs))))
  else Lanes.putWords d lane l ((wordsOf 4 (bs.length / 4) bs).map (BitVec.ofNat 32))

/-- The bytes that a lane stores from register d on. -/
def laneData (l : Lanes) (d lane z : Nat) : List Byte :=
  if z < 4 then leBytes z (l.word d lane).toNat
  else (List.range (z / 4)).flatMap fun j => leBytes 4 (l.word (d + j) lane).toNat

/-- The lanes' loads from checked places (R191). -/
def loadPlaces (c : LaneCtx) (z : Nat) (ps : List (Nat × Spot)) : Op Unit := do
  laneSc c (inAttempt c (← get))
  let g := laneAgent (← get) 0
  let r ← eachLane (fun k p => laneRead g k z p) ps
  spendAnswers g
  onLanes fun l => r.1.foldl (fun l x => l.putLoad c.f.t c.f.d.toNat x.1 x.2) l
  modify (leaveLanes c.age r.2)

/-- The lanes' stores to checked places in lane order, counted in the flag where they have still to arrive (R191,
R193). -/
def storePlaces (c : LaneCtx) (z : Nat) (arrives : Bool) (ps : List (Nat × Spot)) : Op Unit := do
  let s ← get
  let tx := inAttempt c s
  let flagged := arrives && !tx
  laneBefore c
  let s ← get
  let g := laneAgent s (if flagged then storeNo c c.f.scope s else 0)
  let r ← eachLane (fun k p => laneWrite g k (laneData s.me.l c.f.d.toNat k z) p) ps
  if flagged then storeIssued c c.f.scope else pure ()
  laneSc c tx
  modify (leaveLanes c.age r.2)

/-- A load of class 0x4. -/
def loadForm (sp : Space) (rule : LaneF → LRule) : State → Result := runLane rule fun c => do
  let z := accessSize c.f.t c.f.quad
  loadPlaces c z (← lanePlaces c sp z Need.read)

/-- A store of class 0x4. -/
def storeForm (sp : Space) (rule : LaneF → LRule) : State → Result := runLane rule fun c => do
  let z := accessSize c.f.t c.f.quad
  storePlaces c z (sp == .mem) (← lanePlaces c sp z Need.write)

/-! ## The instructions -/

/-- A rule for instructions that no attempt may execute (R278). -/
def scratchRule (ok : Nat → Bool) (cBits xb scope : Nat) (orders : List Nat) (f : LaneF) : LRule :=
  { memRule ok cBits xb scope orders f with tx := false }

/-- VLD (R190, R191). -/
def execVld : State → Result := loadForm .mem (memRule tyMem 3 7 7 loadOrders)

/-- VST (R190, R191). -/
def execVst : State → Result := storeForm .mem (memRule tyMem 3 7 7 storeOrders)

/-- VLDL (R177, R190). -/
def execVldl : State → Result := loadForm .land (scratchRule tyMem 3 0 2 loadOrders)

/-- VSTL (R177, R190). -/
def execVstl : State → Result := storeForm .land (scratchRule tyMem 3 0 2 storeOrders)

/-- VLDM (R181, R190). -/
def execVldm : State → Result := loadForm .mezz (scratchRule tyMem 3 0 3 loadOrders)

/-- VSTM (R181, R190). -/
def execVstm : State → Result := storeForm .mezz (scratchRule tyMem 3 0 3 storeOrders)

/-- XST (R182, R190). -/
def execXst : State → Result := storeForm .exch (scratchRule tyB 2 0 0 [0])

/-- VLDA (R183, R190). -/
def execVlda : State → Result := loadForm .atrium (scratchRule tyMem 3 3 7 loadOrders)

/-- VSTA (R183, R190). -/
def execVsta : State → Result := storeForm .atrium (scratchRule tyMem 3 3 7 storeOrders)

/-- LKLD (R175, R190). -/
def execLkld : State → Result := loadForm .locker (scratchRule tyMem 3 0 0 [0])

/-- LKST (R175, R190). -/
def execLkst : State → Result := storeForm .locker (scratchRule tyMem 3 0 0 [0])

/-- PRF (R195): a fetch into a cache, of which the model's memory shows nothing. Where it would raise a cause other than a decode
cause it does nothing, and pops nothing (log entry 95). -/
def execPrf : State → Result :=
  runLane
    (fun f => { type := f.t == 0, d := .other, a := if f.noIdx then .none else .one, c := .other, x := 0xE060, i16 := 0xFFFF,
                also := decide (f.d.toNat < 3) && (f.c.toNat &&& 253) == 0, quiet := true })
    fun _ => pure ()

/-! ## Gather and scatter (R196, R197) -/

/-- A decoded index tile (R196). -/
structure Tile where
  base : Nat
  width : Nat
  count : Nat
  bytes : List Byte

/-- Offset e of a tile. -/
def Tile.off (t : Tile) (e : Nat) : Nat := leNat ((t.bytes.drop (16 + e * t.width)).take t.width)

/-- The header obeys R196. -/
def Tile.ok (t : Tile) : Bool :=
  ((t.bytes.drop 11).take 5).all (· == 0) && (t.width == 1 || t.width == 2) && decide (t.count ≤ 240 / t.width)

/-- The tile that 256 bytes hold. -/
def Tile.ofBytes (bs : List Byte) : Tile :=
  ⟨leNat (bs.take 8), leNat ((bs.drop 10).take 1), leNat ((bs.drop 8).take 2), bs⟩

/-- The tile at a landing offset, or the cause of every active lane (R197). -/
def readTile (s : State) (off : Int) : Except Nat Tile :=
  match myTeam s with
  | none => .error 0x82
  | some t =>
    if off < 0 ∨ off % 256 ≠ 0 ∨ (t.len : Int) < off + 256 then .error 0x82
    else if landHit s t.uid off.toNat 256 false then .error 0x25
    else
      let x := Tile.ofBytes (landRead t.land t.modes off.toNat 256)
      if x.ok then .ok x else .error 0x82

/-- One lane's place through a tile (R197). -/
def tileSpot (s : State) (f : LaneF) (t : Tile) (lane e z : Nat) (n : Need) : Except (Nat × Word) Spot :=
  if t.count ≤ e then .error (0x82, BitVec.ofNat 64 e)
  else
    let o : Int := (t.base : Int) - (runXb s f.xbn).base.toNat + f.offset (t.off e)
    spotCheck s f .mem lane o z n

/-- The lanes' places through the tile that source b names. -/
def tilePlaces (c : LaneCtx) (z : Nat) (n : Need) : Op (List (Nat × Spot)) := do
  match lowestLane c.act with
  | none => return []
  | some j => do
    let s ← get
    let off := sextN 32 (c.b j)
    match readTile s off with
    | .error cause => throw (.lanes ((lanesOf c.act).map fun k => (k, cause, BitVec.ofInt 64 off)) .kept)
    | .ok t => allLanes .kept ((lanesOf c.act).map fun k => (k, tileSpot s c.f t k (c.a k % 2 ^ 32) z n))

/-- The rule of VGATH and VSCAT (R190). -/
def tileRule (orders : List Nat) (f : LaneF) : LRule := { memRule tyMem 0 7 7 orders f with a := .one, b := .one }

/-- VGATH (R197). -/
def execVgath : State → Result := runLane (tileRule [0, 1]) fun c => do
  let z := accessSize c.f.t false
  loadPlaces c z (← tilePlaces c z Need.read)

/-- VSCAT (R197). -/
def execVscat : State → Result := runLane (tileRule [0, 2]) fun c => do
  let z := accessSize c.f.t false
  storePlaces c z true (← tilePlaces c z Need.write)

end Sys2Proof.Machine
end

