-- ==== Sys2Proof/Machine/LaneAtomic.lean ====
section
/-! DEFINITION. Lane atomics and the lane FENCE, class 0x5 (spec/08_ordering.md R249 to R252, R255). -/

namespace Sys2Proof.Machine

open Sys2Proof

/-- The storage that C[1:0] selects (R251). -/
def atomicSpace (f : LaneF) : Space :=
  match f.c.toNat % 4 with
  | 0 => .mem
  | 1 => .land
  | 2 => .mezz
  | _ => .atrium

/-- The rule of a lane atomic (R251). -/
def atomicRule (ok : Nat → Bool) (f : LaneF) : LRule where
  type := ok f.t
  d := useOf (tyBits f.t)
  a := .one
  b := useOf (tyBits f.t)
  c := .other
  fl := true
  acc := true
  x := 0xFFE0
  i16 := 0xFFFF
  tx := f.c.toNat % 4 == 0
  also := decide (f.c.toNat < 4) && decide (f.order ≤ 4) &&
    (match atomicSpace f with
     | .land => f.xbn == 0 && decide (f.scope ≤ 2)
     | .mezz => f.xbn == 0 && decide (f.scope ≤ 3)
     | .atrium => decide (f.xbn ≤ 3)
     | _ => true)

/-- An atomic applied at an atrium (R249): the bytes before it. -/
def atriumAtomic (g : Agent) (pa z : Nat) (f : Nat → Nat) : Op Nat := do
  let s ← get
  readyIf (storeReady s g pa z && !sectorsLocked s (some g.who) g.die pa z)
  let s := performTickets (fun e => e.who == g.who && meets e.src e.len pa z) s
  let s := drainSectors s (some g.who) g.die pa z
  let old := leNat (homeRead s 0 pa z)
  set (arrive s (g.write pa (leBytes z (f old)) 0 false))
  return old

/-- One lane's atomic outside an attempt. -/
def spotAtomic (g : Agent) (lane z : Nat) (f : Nat → Nat) : Spot → Op Nat
  | .mem t => atomicAt g t z f
  | .atrium pa => atriumAtomic g pa z f
  | p => do
    let old := leNat (← spotRead g lane z p)
    spotWrite g lane (leBytes z (f old)) p
    return old

/-- One lane's atomic, in an attempt a read and a write of the same bytes (R275). -/
def laneAtomic (g : Agent) (lane z : Nat) (f : Nat → Nat) (p : Spot) : Op (Except LaneEnd Nat) := do
  let s ← get
  match s.me.attempting lane, p with
  | true, .mem t =>
    laneTxStep (fun s => laneTxReady lane t z false s && laneTxReady lane t z true s) fun s =>
      match laneTxRead lane t z s with
      | .error e => .error e
      | .ok (bs, s) => (laneTxWrite lane t (leBytes z (f (leNat bs))) s).map fun s => (leNat bs, s)
  | _, p => return .ok (← spotAtomic g lane z f p)

/-- A lane atomic (R252): `f` width old operand compare gives the new value. -/
def laneAtomicForm (ok : Nat → Bool) (f : Nat → Nat → Nat → Nat → Nat) : State → Result :=
  runLane (atomicRule ok) fun c => do
    let n := tyBits c.f.t
    let z := n / 8
    let sp := atomicSpace c.f
    let s ← get
    let tx := inAttempt c s
    let off (k : Nat) : Int := c.f.offset (sextN 32 (c.a k))
    let ps ← allLanes .kept ((lanesOf c.act).map fun k => (k, spotCheck s c.f sp k (off k) z Need.both))
    laneBefore c
    let l := s.me.l
    let g := laneAgent s 0
    let cmp (k : Nat) : Nat := leNat (laneData l c.f.d.toNat k z)
    let r ← eachLane (fun k p => laneAtomic g k z (fun o => f n o (c.b k % 2 ^ n) (cmp k) % 2 ^ n) p) ps
    spendAnswers g
    onLanes fun l => r.1.foldl (fun l x => l.putLoad c.f.t c.f.d.toNat x.1 (leBytes z x.2)) l
    if tx || !(sp == .mem || sp == .atrium) then pure () else modify markDirty
    laneSc c tx
    modify (leaveLanes c.age r.2)

/-- .i32 and .i64. -/
def tySigned32 (t : Nat) : Bool := t == 4 || t == 5

/-- .n32 and .n64. -/
def tyUnsigned32 (t : Nat) : Bool := t == 8 || t == 9

/-- The smaller or larger of two patterns read as signed. -/
def signedPick (wantMax : Bool) (n o b : Nat) : Nat := if (decide (sextN n o ≤ sextN n b)) != wantMax then o else b

/-- VAADD (R251). -/
def execVaadd : State → Result := laneAtomicForm tyInt32 fun _ o b _ => o + b

/-- VASUB (R251). -/
def execVasub : State → Result := laneAtomicForm tyInt32 fun n o b _ => o + (2 ^ n - b)

/-- VAMIN (R251). -/
def execVamin : State → Result := laneAtomicForm tySigned32 fun n o b _ => signedPick false n o b

/-- VAMAX (R251). -/
def execVamax : State → Result := laneAtomicForm tySigned32 fun n o b _ => signedPick true n o b

/-- VAMINN (R251). -/
def execVaminn : State → Result := laneAtomicForm tyUnsigned32 fun _ o b _ => min o b

/-- VAMAXN (R251). -/
def execVamaxn : State → Result := laneAtomicForm tyUnsigned32 fun _ o b _ => max o b

/-- VAAND (R251). -/
def execVaand : State → Result := laneAtomicForm tyB fun _ o b _ => o &&& b

/-- VAOR (R251). -/
def execVaor : State → Result := laneAtomicForm tyB fun _ o b _ => o ||| b

/-- VAXOR (R251). -/
def execVaxor : State → Result := laneAtomicForm tyB fun _ o b _ => o ^^^ b

/-- VAXCHG (R251). -/
def execVaxchg : State → Result := laneAtomicForm tyB fun _ _ b _ => b

/-- VACAS (R251): D holds the comparison value. -/
def execVacas : State → Result := laneAtomicForm tyB fun _ o b c => if o = c then b else o

/-- VAFADD (R251). -/
def execVafadd : State → Result := laneAtomicForm (fun t => t == 0xC || t == 0xD) fun n o b _ => atomicFadd n o b

/-- The lane FENCE (R255): as the lead FENCE acts, on the group's lane accesses. -/
def execLaneFence : State → Result :=
  runLane
    (fun f => { noType := true, d := .none, m := false, x := 0x1F80, tx := false,
                also := decide (1 ≤ f.order) && decide (f.order ≤ 4) })
    fun c => do
      releaseReady c.f.scope c.f.order
      modify (fenceState c.f.scope c.f.order)

end Sys2Proof.Machine
end

