-- ==== Sys2Proof/Machine/LaneControl.lean ====
section
/-! DEFINITION. Starting runs and clauses, masks, divergence and barriers: CLAUSE, RUN_START and class 0x3
(spec/02_encoding.md R74 to R76; spec/05_lane_control.md R151 to R172). -/

namespace Sys2Proof.Machine

open Sys2Proof

/-! ## Runs and clauses -/

/-- RUN_START (R151, R405, R434): the next run of the queue starts as one fragment of the group's live lanes, or of
FAULTMASK in a handler; with no such lane it ends at once. -/
def execRunStart (s : State) : Result :=
  let u := s.me.l.run
  match u.runs with
  | [] => .next s
  | r :: rest =>
    if u.running ∨ !u.frags.isEmpty then .next s
    else
      let m0 := if s.me.inTrap then s.me.l.faultmask else s.me.l.live
      if m0 = 0 then .next { s with me := { s.me with l := { s.me.l with run := { u with runs := rest } } } }
      else
        let l := { s.me.l with run := { u with running := true, split := [], reload := [], cur := none } }
        .next { s with me := { s.me with l := l.create m0 r.slot } }

/-- The slots of a clause after its header, each read or stopped (R75). -/
def fetchClause (hdr : Nat) : Nat → State → List (Except Stop (BitVec 96)) × State
  | 0, s => ([], s)
  | n + 1, s =>
    let r := fetchClause hdr n s
    match (laneSlot (hdr + 1 + n)).run r.2 with
    | .ok (w, t) => (r.1 ++ [.ok w], t)
    | .error e => (r.1 ++ [.error e], r.2)

/-- A fetched slot makes the clause BAD_CLAUSE: another header, or beyond the section (R49, R75). -/
def badSlot : Except Stop (BitVec 96) → Bool
  | .ok w => bits w 92 4 == 15
  | .error (.frag c _) => c == 6
  | .error _ => false

/-- What the fetched slots stop the clause with: BAD_CLAUSE first, then the first fetch that stopped. -/
def clauseStop (s : State) (hdr : Nat) (l : List (Except Stop (BitVec 96))) : Option Stop :=
  match l.findIdx? badSlot with
  | some i => some (.frag 0x06 (slotAddr s (hdr + 1 + i)))
  | none => l.findSome? fun x => match x with | .error e => some e | .ok _ => none

/-- The flags of a header break R75. -/
def headerBad (h : Header) : Bool :=
  h.n == 0 || (h.sav && decide (11 < h.sa.toNat)) || (h.sbv && decide (11 < h.sb.toNat)) || (h.sav && h.sbv && h.sa == h.sb)

/-- CLAUSE (R74, R75, R152): the clause whose header the step has latched starts in its fragment. -/
def execClause (s : State) : Result :=
  let h := s.issue.hdr
  match s.me.l.run.frags.find? fun x => x.age == s.issue.next.toNat with
  | none => .next s
  | some x =>
    if headerBad h then .next (stopClause x (.frag 0x06 (slotAddr s x.pc)) s)
    else
      let r := fetchClause x.pc h.n.toNat s
      match clauseStop s x.pc r.1 with
      | some e => .next (stopClause x e s)
      | none =>
        let code := r.1.filterMap fun e => match e with | .ok w => some w | .error _ => none
        let cur : Clause :=
          { age := x.age, hdr := x.pc, n := h.n.toNat, code := code, pos := 0, fa := if h.sav then some h.sa.toNat else none,
            fb := if h.sbv then some h.sb.toNat else none, kept := [], stall := none }
        .next { r.2 with me := { r.2.me with l := { r.2.me.l with run := { r.2.me.l.run with cur := some cur } } } }

/-! ## Masks (R157 to R159) -/

/-- The rule of a control form (R158). -/
def ctlRule : LRule := { noType := true, d := .none, m := false }

/-- A field that names a mask register (R158). -/
def maskField (x : BitVec 8) : Bool := decide (x.toNat < 16)

/-- A mask register as the fragment reads it; m0 is its own mask (R157). -/
def LaneCtx.mask (c : LaneCtx) (l : Lanes) (k : BitVec 8) : Mask := if k = 0 then c.m0 else vget l.m k.toNat

/-- A form that writes mask register D from masks (R157, R159). -/
def maskForm (b : Bool) (g : Mask → Mask → Mask) : State → Result :=
  runLane
    (fun f => { ctlRule with
      m := true, d := .other, a := .other, b := if b then .other else .none
      also := maskField f.d && f.d != 0 && maskField f.a && maskField f.b })
    fun c => do
      let l := (← get).me.l
      let x := g (c.mask l c.f.a) (c.mask l c.f.b)
      writeMask c c.f.d.toNat x.getLsbD

/-- MAND (R159). -/
def execMand : State → Result := maskForm true fun x y => x &&& y

/-- MOR (R159). -/
def execMor : State → Result := maskForm true fun x y => x ||| y

/-- MNOT (R159). -/
def execMnot : State → Result := maskForm false fun x _ => ~~~x

/-- MSET (R158, R159): the immediate form or, with D[7] = 1, the register form. -/
def execMset : State → Result :=
  runLane
    (fun f =>
      let reg := f.d.getLsbD 7
      { ctlRule with
        m := true, d := .other, a := if reg then .one else .none, queue := false, x := if reg then 0 else 0xFFFF
        i16 := if reg then 0 else 0xFFFF
        also := bitsN f.d.toNat 6 4 == 0 && bitsN f.d.toNat 3 0 != 0 })
    fun c =>
      writeMask c (bitsN c.f.d.toNat 3 0) fun k => if c.f.d.getLsbD 7 then c.a k % 2 ^ 32 != 0 else c.f.imm.getLsbD k

/-- MCNT (R159). -/
def execMcnt : State → Result :=
  runLane (fun f => { ctlRule with m := true, d := .one, a := .other, x := 0x8000, also := maskField f.a }) fun c => do
    let l := (← get).me.l
    let sel := c.mask l c.f.a &&& c.act
    writeD c 32 fun k => ((lanesOf sel).filter fun j => c.f.low 31 31 == 0 || decide (j < k)).length

/-! ## Divergence (R160 to R164) -/

/-- The rule of a control form without fields that no attempt may execute (R158, R278). -/
def flowRule : LRule := { ctlRule with tx := false }

/-- A cause of the fragment at the instruction's own slot. -/
def slotTrap (c : LaneCtx) (cause : Nat) : Op Unit := do
  throw (.frag cause (slotAddr (← get) c.slot))

/-- The clause ends and the fragment goes on at a slot. -/
def goOn (c : LaneCtx) (slot : Nat) : Op Unit := onLanes (Lanes.endClause c.age slot)

/-- Lanes of the group that stand in a transaction, or are held in one (R272): they belong to another fragment. -/
def lanesAside (s : State) : Bool := !s.me.inTrap && s.me.l.tx.any fun t => t.st != .idle

/-- CEND (R164): the run ends. -/
def execCend : State → Result :=
  runLane (fun _ => flowRule) fun c => do
    let s ← get
    let u := s.me.l.run
    if u.frags.length ≠ 1 ∨ !u.split.isEmpty ∨ lanesAside s then slotTrap c 0x06
    else onLanes fun l => { l with run := { LaneRuns.empty with runs := l.run.runs.tail } }

/-- A fragment is replaced by its not-taken and its taken part (R160, R161). -/
def Lanes.splitAt (age : Nat) (rest taken : Mask) (next target : Nat) (l : Lanes) : Lanes :=
  let l := l.endClause age next
  let l := { l with run := { l.run with frags := l.run.frags.filter fun x => x.age != age } }
  (l.create rest next).create taken target

/-- A branch target that takes effect is a clause header (R76). A fetch that faults is left to the clause that starts
there. -/
def needHeader (c : LaneCtx) (target : Nat) : Op Unit := do
  match (laneSlot target).run (← get) with
  | .ok (w, t) => if bits w 92 4 == 15 then set t else slotTrap c 0x06
  | .error (.park f) => throw (.park f)
  | .error _ => pure ()

/-- BRL (R160): a handler run holds two fragments at most (R434). -/
def execBrl : State → Result :=
  runLane
    (fun f => { flowRule with m := true, acc := true, a := .other, x := 0x803F, i16 := 0xFFFF, also := maskField f.a })
    fun c => do
      let s ← get
      let mi := c.mask s.me.l c.f.a
      let taken := c.act &&& if c.f.low 31 31 = 1 then ~~~mi else mi
      let target := c.f.low 21 0
      if taken != 0 then needHeader c target
      if taken = 0 then goOn c c.after
      else if taken = c.m0 then goOn c target
      else if s.me.inTrap ∧ 1 < s.me.l.run.frags.length then throw (.frag 0xB5 0)
      else onLanes (Lanes.splitAt c.age (c.m0 &&& ~~~taken) taken c.after target)

/-- MARK (R162); a handler's split stack holds 8 entries (R434). -/
def execMark : State → Result :=
  runLane (fun _ => { flowRule with x := 0x3F, i16 := 0xFFFF }) fun c => do
    let s ← get
    let u := s.me.l.run
    if (if s.me.inTrap then 8 else 64) ≤ u.split.length then slotTrap c 0x07
    else onLanes fun l =>
      { l with
        run := { l.run with split := l.run.split ++ [⟨c.m0, 0, c.f.low 21 0, l.nextSeq⟩] }
        nextSeq := l.nextSeq + 1 }

/-- A fragment joins the youngest entry that expects its lanes, and a complete entry becomes a fragment (R163). -/
def Lanes.join (age : Nat) (m0 : Mask) (e : Split) (l : Lanes) : Lanes :=
  let l := l.endClause age 0
  let l := { l with run := l.run.remove age }
  let arrived := e.arrived ||| m0
  if arrived = e.expect then
    Lanes.create e.expect e.rejoin { l with run := { l.run with split := l.run.split.filter fun x => x.seq != e.seq } }
  else
    { l with run := { l.run with split := mapIf (fun x => x.seq == e.seq) (fun x => { x with arrived := arrived }) l.run.split } }

/-- JOIN (R163). -/
def execJoin : State → Result :=
  runLane (fun _ => flowRule) fun c => do
    match (← get).me.l.run.split.reverse.find? fun e => c.m0 &&& ~~~e.expect == 0 with
    | none => slotTrap c 0x06
    | some e => onLanes (Lanes.join c.age c.m0 e)

/-- The yielding fragment is spilled and the one spilled earliest takes its place (R172). -/
def LaneRuns.yieldTo (age : Nat) (u : LaneRuns) : LaneRuns :=
  match u.reload.getLast? with
  | none => u
  | some b =>
    { u with
      frags := mapIf (fun x => x.age == b) (fun x => { x with live := true })
        (mapIf (fun x => x.age == age) (fun x => { x with live := false }) u.frags)
      reload := age :: u.reload.dropLast }

/-- YIELD (R172). -/
def execYield : State → Result :=
  runLane (fun _ => flowRule) fun c => do
    goOn c c.after
    onLanes fun l => { l with run := l.run.yieldTo c.age }

/-! ## Barriers (R167 to R171) -/

/-- A barrier of a kind: the fragment parks, unless another stands at a different barrier; in a handler it is a
DOUBLE_TRAP (R434). -/
def barForm (x : Nat) (st : LaneF → FragSt) (same : LaneF → FragSt → Bool) : State → Result :=
  runLane (fun _ => { flowRule with x := x }) fun c => do
    let s ← get
    if s.me.inTrap then throw (.frag 0xB5 0)
    if s.me.l.run.frags.any fun y => y.st != .runnable && !same c.f y.st then slotTrap c 0x06
    goOn c c.after
    onLanes fun l => { l with run := l.run.park c.age (st c.f) }
    settle s.me.team (((myTeam s).map (·.squad)).getD 0) (← get)

/-- TBAR (R167, R168). -/
def execTbar : State → Result :=
  barForm 0xF000 (fun f => .teamBar (f.low 31 28) false) (fun f => atTeamBar (f.low 31 28))

/-- TBAR.ck (R171). -/
def execTbarCk : State → Result :=
  barForm 0xF800 (fun f => .teamBar (f.low 31 28) true) (fun f => atTeamBar (f.low 31 28))

/-- SBAR (R167, R170). -/
def execSbar : State → Result :=
  barForm 0xC000 (fun f => .squadBar (f.low 31 30)) (fun f => atSquadBar (f.low 31 30))

end Sys2Proof.Machine
end

