-- ==== Sys2Proof/Machine/LaneCross.lean ====
section
/-! DEFINITION. Cross-lane instructions, class 0x2 (spec/04_lane_arith.md R145 to R148). -/

namespace Sys2Proof.Machine

open Sys2Proof

/-! ## Shuffles (R145) -/

/-- The lane that VSHFL reads from (R145). -/
def shflLane (f : LaneF) (b lane : Nat) : Int :=
  let c := f.low 4 0
  match f.low 31 30 with
  | 0 => ((b % 32 : Nat) : Int)
  | 1 => (lane : Int) - c
  | 2 => (lane : Int) + c
  | _ => ((lane ^^^ c : Nat) : Int)

/-- The source lane itself where it lies in the fragment, else the lane's own (R145). -/
def inFragment (m0 : Mask) (j : Int) (own : Nat) : Nat := if 0 ≤ j ∧ j ≤ 31 ∧ m0.getLsbD j.toNat then j.toNat else own

/-- VSHFL (R145). -/
def execVshfl : State → Result :=
  runLane
    (fun f =>
      let idx := f.low 31 30 == 0
      { type := tyB f.t, d := useOf (tyBits f.t), a := useOf (tyBits f.t), b := if idx then .one else .none,
        x := 0xC000, i16 := if idx then 0 else 0x1F })
    fun c => writeD c (tyBits c.f.t) fun k => c.a (inFragment c.m0 (shflLane c.f (c.b k) k) k)

/-- VBCAST (R145). -/
def execVbcast : State → Result :=
  runLane
    (fun f => { type := tyB f.t, d := useOf (tyBits f.t), a := useOf (tyBits f.t), x := 0x8000,
                i16 := if f.low 31 31 = 1 then 0 else 0x1F })
    fun c =>
      let j := if c.f.low 31 31 = 1 then (lowestLane c.act).getD 0 else c.f.low 4 0
      writeD c (tyBits c.f.t) fun k => c.a (inFragment c.m0 j k)

/-! ## Reductions and scans (R146 to R148) -/

/-- The types of an op (R146); a reserved op takes any of them, and traps as a reserved field. -/
def redType (op t : Nat) : Bool :=
  if op ≤ 2 then tyInt32 t || tyFloat t else if op ≤ 5 then tyB t else tyInt32 t || tyFloat t || tyB t

/-- The rule of VRED and VSCAN (R145, R146); `x` masks X. -/
def redRule (x : Nat) (f : LaneF) : LRule :=
  let op := f.low 31 28
  { type := redType op f.t, d := useOf (tyBits f.t), a := useOf (tyBits f.t), x := x, rm := tyFloat f.t,
    sat := op == 0 && !tyFloat f.t, also := decide (op < 6) }

/-- One step of an op on patterns (R146). -/
def redStep (f : LaneF) (x y : Nat) : Nat :=
  let t := f.t
  let n := tyBits t
  if tyFloat t then
    let m := f.rm.toNat
    match f.low 31 28 with
    | 0 => (tyFmt t).encode m (((tyFmt t).decode x).add m ((tyFmt t).decode y))
    | 1 => (tyFmt t).minmax false x y
    | _ => (tyFmt t).minmax true x y
  else
    match f.low 31 28 with
    | 0 => intWrite t f.sat (intRead t x + intRead t y) % 2 ^ n
    | 1 => if intRead t x ≤ intRead t y then x else y
    | 2 => if intRead t y ≤ intRead t x then x else y
    | 3 => x &&& y
    | 4 => x ||| y
    | _ => x ^^^ y

/-- The identity of an op (R146). -/
def redIdentity (f : LaneF) : Nat :=
  let t := f.t
  let n := tyBits t
  match f.low 31 28 with
  | 1 => if tyFloat t then (tyFmt t).infBits else wrapN n (rangeOf (tySigned t) n).2
  | 2 => if tyFloat t then (tyFmt t).signBit true + (tyFmt t).infBits else wrapN n (rangeOf (tySigned t) n).1
  | 3 => 2 ^ n - 1
  | _ => 0

/-- A node's value from its children's (R147). -/
def redNode (g : Nat → Nat → Nat) : Option Nat → Option Nat → Option Nat
  | some x, some y => some (g x y)
  | some x, none => some x
  | none, y => y

/-- One level of the tree (R147). -/
def redLevel (g : Nat → Nat → Nat) : List (Option Nat) → List (Option Nat)
  | x :: y :: l => redNode g x y :: redLevel g l
  | l => l

/-- The root of the tree of 32 lanes (R147). -/
def redTree (g : Nat → Nat → Nat) (l : List (Option Nat)) : Option Nat :=
  (redLevel g (redLevel g (redLevel g (redLevel g (redLevel g l))))).head?.join

/-- The values of the lanes of active(M), by lane. -/
def redLeaves (c : LaneCtx) : List (Option Nat) :=
  (List.range 32).map fun k => if c.act.getLsbD k then some (c.a k % 2 ^ tyBits c.f.t) else none

/-- VRED (R147). -/
def execVred : State → Result :=
  runLane (redRule 0xF000) fun c =>
    let x := (redTree (redStep c.f) (redLeaves c)).getD 0
    writeD c (tyBits c.f.t) fun _ => x

/-- The running combination: for each lane what stands before it and what stands with it (R148). -/
def scanFrom (g : Nat → Nat → Nat) : Option Nat → List (Option Nat) → List (Option Nat × Option Nat)
  | _, [] => []
  | acc, v :: l => (acc, redNode g acc v) :: scanFrom g (redNode g acc v) l

/-- VSCAN (R148). -/
def execVscan : State → Result :=
  runLane (redRule 0xF800) fun c =>
    let ps := scanFrom (redStep c.f) none (redLeaves c)
    let ex := c.f.low 27 27 == 1
    writeD c (tyBits c.f.t) fun k =>
      match ps[k]? with
      | some p => if ex then p.1.getD (redIdentity c.f) else p.2.getD 0
      | none => 0

/-! ## Ballots and packing (R145) -/

/-- VBALLOT (R145). -/
def execVballot : State → Result :=
  runLane (fun f => { type := f.t == 0, a := .one }) fun c =>
    let x := (maskOf ((lanesOf c.act).filter fun k => c.a k % 2 ^ 32 != 0)).toNat
    writeD c 32 fun _ => x

/-- .i8, .n8, .i16, .n16 (R145). -/
def tyPack (t : Nat) : Bool := [2, 3, 6, 7].contains t

/-- An element to pack (R145). -/
def packElem (f : LaneF) (x : Nat) : Nat :=
  let n := tyBits f.t
  if f.sat then wrapN n (clampI (rangeOf (tySigned f.t) n).1 (rangeOf (tySigned f.t) n).2 (sextN 32 x)) else x % 2 ^ n

/-- VPACK (R145). -/
def execVpack : State → Result :=
  runLane
    (fun f => { type := tyPack f.t, a := .one, b := .one, x := 0x8000, sat := true,
                also := tyBits f.t == 8 || f.low 31 31 == 0 })
    fun c => do
      let l := (← get).me.l
      writeD c 32 fun k =>
        let a := packElem c.f (c.a k)
        let b := packElem c.f (c.b k)
        if tyBits c.f.t = 16 then a + b * 2 ^ 16
        else
          let h := c.f.low 31 31
          (setField (l.word c.f.d.toNat k) (16 * h + 15) (16 * h) (a + b * 256)).toNat

/-- VUNPK (R145). -/
def execVunpk : State → Result :=
  runLane
    (fun f => { type := tyPack f.t, a := .one, x := 0xC000, also := tyBits f.t == 8 || decide (f.low 31 30 ≤ 1) })
    fun c => writeD c 32 fun k =>
      intWrite c.f.t false (intRead c.f.t (c.a k / 2 ^ (tyBits c.f.t * c.f.low 31 30)))

end Sys2Proof.Machine
end

