-- ==== Sys2Proof/Machine/LeadFloat.lean ====
section
/-! DEFINITION. Scalar floating point and conversions (spec/03_lead.md R99 to R103). -/

namespace Sys2Proof.Machine

open Sys2Proof

/-- The TYPE code of an FP major (R101): 0 .f64, 1 .f32, 2 .f16, 3 .bf16. -/
def fpFmt (t : BitVec 2) : Fmt :=
  match t.toNat with
  | 0 => Fmt.f64
  | 1 => Fmt.f32
  | 2 => Fmt.f16
  | _ => Fmt.bf16

/-- The rounding mode of the RND prefix, rne without one (R59). -/
def rndMode : Op Nat := return (((← get).issue.rnd).map BitVec.toNat).getD 0

/-- A source's pattern (R99). -/
def fpSrc (f : Fmt) (a : Reg) : Op Nat := return (← reg a).toNat % 2 ^ f.width

/-- A binary form that rounds. -/
def fpBin (t : BitVec 2) (d a b : Reg) (g : Fmt → Nat → FVal → FVal → Nat) : State → Result := runLead do
  let f := fpFmt t
  let mode ← rndMode
  let x ← fpSrc f a
  let y ← fpSrc f b
  setReg d (BitVec.ofNat 64 (g f mode (f.decode x) (f.decode y)))

/-- A comparison (R102). -/
def fpCmp (t : BitVec 2) (d a b : Reg) (p : FVal → FVal → Bool) : State → Result := runLead do
  let f := fpFmt t
  let x ← fpSrc f a
  let y ← fpSrc f b
  setReg d (if p (f.decode x) (f.decode y) then 1 else 0)

/-- FMIN or FMAX (R102). -/
def fpMinMax (wantMax : Bool) (t : BitVec 2) (d a b : Reg) : State → Result := runLead do
  let f := fpFmt t
  let x ← fpSrc f a
  let y ← fpSrc f b
  setReg d (BitVec.ofNat 64 (f.minmax wantMax x y))

/-- A conversion between the types of R103: the pattern in the destination type. -/
def cvtBits (mode : Nat) (sat : Bool) (dty sty raw : Nat) : Nat :=
  let n := tyBits dty
  if tyFloat sty then
    let v := (tyFmt sty).decode (raw % 2 ^ tyBits sty)
    if tyFloat dty then (tyFmt dty).encode mode v else toIntType mode sat (tySigned dty) n v
  else
    let y := intRead sty raw
    if tyFloat dty then (tyFmt dty).ofInt mode y
    else wrapN n (if sat then clampI (rangeOf (tySigned dty) n).1 (rangeOf (tySigned dty) n).2 y else y)

/-- FADD (R101). -/
def execFadd (t : BitVec 2) (d a b : Reg) : State → Result :=
  fpBin t d a b fun f m x y => f.encode m (x.add m y)

/-- FSUB (R101). -/
def execFsub (t : BitVec 2) (d a b : Reg) : State → Result :=
  fpBin t d a b fun f m x y => f.encode m (x.add m y.neg)

/-- FMUL (R101). -/
def execFmul (t : BitVec 2) (d a b : Reg) : State → Result :=
  fpBin t d a b fun f m x y => f.encode m (x.mul y)

/-- FDIV (R101). -/
def execFdiv (t : BitVec 2) (d a b : Reg) : State → Result :=
  fpBin t d a b fun f m x y => f.div m x y

/-- FSQRT (R101). -/
def execFsqrt (t : BitVec 2) (d a : Reg) : State → Result :=
  fpBin t d a a fun f m x _ => f.sqrt m x

/-- FMA (R101): A × B + D with one rounding. -/
def execFma (t : BitVec 2) (d a b : Reg) : State → Result := runLead do
  let f := fpFmt t
  let mode ← rndMode
  let x ← fpSrc f a
  let y ← fpSrc f b
  let z ← fpSrc f d
  setReg d (BitVec.ofNat 64 (f.fma mode (f.decode x) (f.decode y) (f.decode z)))

/-- FMIN (R102). -/
def execFmin (t : BitVec 2) (d a b : Reg) : State → Result :=
  fpMinMax false t d a b

/-- FMAX (R102). -/
def execFmax (t : BitVec 2) (d a b : Reg) : State → Result :=
  fpMinMax true t d a b

/-- FMOV (R102): the bits of A unchanged. -/
def execFmov (t : BitVec 2) (d a : Reg) : State → Result := runLead do
  let x ← fpSrc (fpFmt t) a
  setReg d (BitVec.ofNat 64 x)

/-- FCMP.eq (R102). -/
def execFcmpEq (t : BitVec 2) (d a b : Reg) : State → Result :=
  fpCmp t d a b FVal.eq

/-- FCMP.lt (R102). -/
def execFcmpLt (t : BitVec 2) (d a b : Reg) : State → Result :=
  fpCmp t d a b FVal.lt

/-- FCMP.le (R102). -/
def execFcmpLe (t : BitVec 2) (d a b : Reg) : State → Result :=
  fpCmp t d a b FVal.le

/-- FCMP.un (R102). -/
def execFcmpUn (t : BitVec 2) (d a b : Reg) : State → Result :=
  fpCmp t d a b fun x y => x.isNan || y.isNan

/-- FCVT (R103). -/
def execFcvt (d a : Reg) (dt st : BitVec 4) : State → Result := runLead do
  let mode ← rndMode
  let sat := (← get).issue.sat.isSome
  let x ← reg a
  let p := cvtBits mode sat dt.toNat st.toNat x.toNat
  setReg d (if tyFloat dt.toNat then BitVec.ofNat 64 p else BitVec.ofInt 64 (intRead dt.toNat p))

end Sys2Proof.Machine
end

