-- ==== Sys2Proof/Machine/Trans.lean ====
section
/-! DEFINITION. The reciprocal square root and the four functions of spec/04_lane_arith.md R140, correctly rounded. The
functions are computed in fixed point with `prec` fraction bits, and what lies below is a sticky part: outside the exact
cases, which are singled out, their values at rational arguments are irrational, so no result ties (log entry 20). -/

namespace Sys2Proof.Machine

/-- Fraction bits of the fixed point in which the functions are summed. -/
def fxBits : Nat := 480

/-- Fraction bits kept of a sum; the rest is sticky. -/
def fxKeep : Nat := 420

/-- 1 in fixed point. -/
def fxOne : Nat := 2 ^ fxBits

/-- Product in fixed point. -/
def fxMul (a b : Nat) : Nat := a * b / fxOne

/-- atanh(z) = z + z³/3 + z⁵/5 + … -/
def fxAtanh (z : Nat) : Nat :=
  let z2 := fxMul z z
  ((List.range 170).foldl (fun (acc : Nat × Nat) k => (acc.1 + acc.2 / (2 * k + 1), fxMul acc.2 z2)) (0, z)).1

/-- atan(1/n), as its alternating sums of positive and of negative terms. -/
def fxAtanInv (n : Nat) : Nat :=
  let r := (List.range 220).foldl (fun (acc : Nat × Nat × Nat) k =>
    let t := acc.2.2 / (2 * k + 1)
    (if k % 2 = 0 then acc.1 + t else acc.1, if k % 2 = 1 then acc.2.1 + t else acc.2.1, acc.2.2 / (n * n))) (0, 0, fxOne / n)
  r.1 - r.2.1

/-- ln 2 = 2 atanh(1/3). -/
def fxLn2 : Nat := 2 * fxAtanh (fxOne / 3)

/-- π = 16 atan(1/5) − 4 atan(1/239). -/
def fxPi : Nat := 16 * fxAtanInv 5 - 4 * fxAtanInv 239

/-- e^y for 0 ≤ y < 1. -/
def fxExp (y : Nat) : Nat :=
  ((List.range 110).foldl (fun (acc : Nat × Nat) k => (acc.1 + acc.2, fxMul acc.2 y / (k + 1))) (0, fxOne)).1

/-- sin y (start 0) or cos y (start 1) for 0 ≤ y < 2, by their series. -/
def fxSinCos (cos : Bool) (y : Nat) : Nat :=
  let y2 := fxMul y y
  let first := if cos then fxOne else y
  let base := if cos then 0 else 1
  let r := (List.range 70).foldl (fun (acc : Nat × Nat × Nat) k =>
    let t := acc.2.2
    let n := 2 * k + base
    (if k % 2 = 0 then acc.1 + t else acc.1, if k % 2 = 1 then acc.2.1 + t else acc.2.1, fxMul t y2 / ((n + 1) * (n + 2))))
    (0, 0, first)
  r.1 - r.2.1

/-- A fixed-point sum, inexact, rounded once at scale 2^e. -/
def Fmt.ofFx (f : Fmt) (mode : Nat) (neg : Bool) (x : Nat) (e : Int) : Nat :=
  f.roundFin mode neg (x / 2 ^ (fxBits - fxKeep)) (e - (fxKeep : Int)) true

/-- 1 / √A (R140, R144). -/
def Fmt.rsqrt (f : Fmt) (mode : Nat) : FVal → Nat
  | .nan => f.nanBits
  | .inf neg => if neg then f.nanBits else 0
  | .fin neg m e =>
    if m = 0 then f.encode mode (.inf neg)
    else if neg then f.nanBits
    else
      let odd := (e % 2).toNat
      let m' := m * 2 ^ odd
      let k := bitLen m' / 2 + f.mb + 6
      let r := isqrt (2 ^ (2 * k) / m')
      f.roundFin mode false r (-(k : Int) - (e - odd) / 2) (r * r * m' != 2 ^ (2 * k))

/-- The integer part and the fixed-point fraction of a finite value, toward −∞; small exponents lie within `fxBits`. -/
def floorFrac (neg : Bool) (m : Nat) (e : Int) : Int × Nat :=
  let x : Int := if 0 ≤ e then (m * 2 ^ e.toNat * fxOne : Nat) else (m * fxOne / 2 ^ (-e).toNat : Nat)
  let x := if neg then -x else x
  (x / (fxOne : Int), (x % (fxOne : Int)).toNat)

/-- 2^A (R140, R144). -/
def Fmt.exp2 (f : Fmt) (mode : Nat) : FVal → Nat
  | .nan => f.nanBits
  | .inf neg => if neg then 0 else f.infBits
  | .fin neg m e =>
    if m = 0 then f.roundFin mode false 1 0 false
    else
      let p := floorFrac neg m e
      let n := clampI (-2000) 2000 p.1
      if p.2 = 0 then f.roundFin mode false 1 n false
      else f.ofFx mode false (fxExp (fxMul p.2 fxLn2)) n

/-- log2 A (R140, R144). -/
def Fmt.log2 (f : Fmt) (mode : Nat) : FVal → Nat
  | .nan => f.nanBits
  | .inf neg => if neg then f.nanBits else f.infBits
  | .fin neg m e =>
    if m = 0 then f.encode mode (.inf true)
    else if neg then f.nanBits
    else
      let n := bitLen m - 1
      let ex := e + (n : Int)
      if m = 2 ^ n then f.ofInt mode ex
      else
        let num := (m - 2 ^ n) * fxOne / (m + 2 ^ n)
        let frac := 2 * fxAtanh num * fxOne / fxLn2
        let x : Int := ex * (fxOne : Int) + frac
        f.ofFx mode (decide (x < 0)) x.natAbs 0

/-- sin(π A), or cos(π A) (R140, R144). -/
def Fmt.sinPi (f : Fmt) (mode : Nat) (cos : Bool) : FVal → Nat
  | .nan => f.nanBits
  | .inf _ => f.nanBits
  | .fin neg m e =>
    if m = 0 then (if cos then f.roundFin mode false 1 0 false else f.signBit neg)
    else
      let two : Nat := 2 * fxOne
      let mag : Nat := if 1 ≤ e then 0 else if 0 ≤ e then m * fxOne % two else m * fxOne / 2 ^ (-e).toNat % two
      let q := mag / (fxOne / 2)
      let t := mag % (fxOne / 2)
      let useCos := if q % 2 = 0 then cos else !cos
      let negMag := if cos then q == 1 || q == 2 else q == 2 || q == 3
      let neg' := if cos then negMag else neg != negMag
      if t = 0 then
        (if useCos then f.roundFin mode neg' 1 0 false
         else if cos then 0
         else f.signBit neg)
      else f.ofFx mode neg' (fxSinCos useCos (fxMul t fxPi)) 0

end Sys2Proof.Machine
end

