-- ==== Sys2Proof/Machine/LaneFloat.lean ====
section
/-! DEFINITION. Floating-point lane instructions, class 0x1 (spec/04_lane_arith.md R136 to R144). -/

namespace Sys2Proof.Machine

open Sys2Proof

/-- .f16, .bf16 and .f32 (R140, T). -/
def tyFloat32 (t : Nat) : Bool := decide (0xA ≤ t ∧ t ≤ 0xC)

/-- The rule of a form on floats (R140). -/
def fltRule (ok : Nat → Bool) (b c lit rm : Bool) (f : LaneF) : LRule :=
  { intRule ok b c lit false f with rm := rm }

/-- A form on the patterns of its type: the layout, the mode and the sources. -/
def fltForm (rule : LaneF → LRule) (g : Fmt → Nat → Nat → Nat → Nat → Nat) : State → Result :=
  runLane rule fun c =>
    let n := tyBits c.f.t
    writeD c n fun k => g (tyFmt c.f.t) c.f.rm.toNat (c.a k % 2 ^ n) (c.b k % 2 ^ n) (c.c k % 2 ^ n)

/-- A binary form that rounds (R140). -/
def fltBin (lit : Bool) (g : Fmt → Nat → FVal → FVal → Nat) : State → Result :=
  fltForm (fltRule tyFloat true false lit true) fun f m a b _ => g f m (f.decode a) (f.decode b)

/-- A unary form that rounds (R140). -/
def fltUn (ok : Nat → Bool) (g : Fmt → Nat → FVal → Nat) : State → Result :=
  fltForm (fltRule ok false false false true) fun f m a _ _ => g f m (f.decode a)

/-- VFADD (R140). -/
def execVfadd : State → Result := fltBin true fun f m a b => f.encode m (a.add m b)

/-- VFSUB (R140). -/
def execVfsub : State → Result := fltBin true fun f m a b => f.encode m (a.add m b.neg)

/-- VFMUL (R140). -/
def execVfmul : State → Result := fltBin true fun f m a b => f.encode m (a.mul b)

/-- VFFMA (R140). -/
def execVffma : State → Result :=
  fltForm (fltRule tyFloat true true false true) fun f m a b c => f.fma m (f.decode a) (f.decode b) (f.decode c)

/-- VFMIN (R102, R140). -/
def execVfmin : State → Result := fltForm (fltRule tyFloat true false true false) fun f _ a b _ => f.minmax false a b

/-- VFMAX (R102, R140). -/
def execVfmax : State → Result := fltForm (fltRule tyFloat true false true false) fun f _ a b _ => f.minmax true a b

/-- The condition of VFCMP (R141). -/
def fltCond (c : Nat) (a b : FVal) : Bool :=
  match c with
  | 0 => a.eq b
  | 1 => a.lt b
  | 2 => a.le b
  | 3 => a.isNan || b.isNan
  | 4 => b.lt a
  | _ => b.le a

/-- VFCMP (R141). -/
def execVfcmp : State → Result :=
  runLane (cmpRule tyFloat) fun c =>
    let n := tyBits c.f.t
    let f := tyFmt c.f.t
    writeMask c c.f.d.toNat fun k => fltCond (c.f.low 31 28) (f.decode (c.a k % 2 ^ n)) (f.decode (c.b k % 2 ^ n))

/-- VFRCP (R140, R144). -/
def execVfrcp : State → Result := fltUn tyFloat fun f m a => f.div m (.fin false 1 0) a

/-- VFRSQ (R140, R144). -/
def execVfrsq : State → Result := fltUn tyFloat fun f m a => f.rsqrt m a

/-- VFSQRT (R140, R144). -/
def execVfsqrt : State → Result := fltUn tyFloat fun f m a => f.sqrt m a

/-- VFDIV (R140, R144). -/
def execVfdiv : State → Result := fltBin false fun f m a b => f.div m a b

/-- VFEXP2 (R140, R144). -/
def execVfexp2 : State → Result := fltUn tyFloat32 fun f m a => f.exp2 m a

/-- VFLOG2 (R140, R144). -/
def execVflog2 : State → Result := fltUn tyFloat32 fun f m a => f.log2 m a

/-- VFSIN (R140, R144). -/
def execVfsin : State → Result := fltUn tyFloat32 fun f m a => f.sinPi m false a

/-- VFCOS (R140, R144). -/
def execVfcos : State → Result := fltUn tyFloat32 fun f m a => f.sinPi m true a

/-- A value rounded to an integral one (R140, R144); ∞ and zeros unchanged. -/
def FVal.roundToInt (mode : Nat) : FVal → FVal
  | .fin neg m e => FVal.ofInt (roundInt mode neg m e) 0 neg
  | v => v

/-- VFRND (R140, R144). -/
def execVfrnd : State → Result := fltUn tyFloat fun f m a => f.encode m (a.roundToInt m)

/-- A value times 2^b (R140, R144). Beyond ±4096 every format has overflowed or underflowed alike. -/
def FVal.scaleBy (b : Int) : FVal → FVal
  | .fin neg m e => .fin neg m (e + clampI (-4096) 4096 b)
  | v => v

/-- VFSCALE (R130, R140, R144): b is one 32-bit register or an immediate read as for .i32. -/
def execVfscale : State → Result :=
  runLane (fun f => { fltRule tyFloat true false true true f with b := .one, immTy := 4 }) fun c =>
    let n := tyBits c.f.t
    let f := tyFmt c.f.t
    writeD c n fun k => f.encode c.f.rm.toNat ((f.decode (c.a k % 2 ^ n)).scaleBy (sextN 32 (c.b k)))

/-- One component of VFCMA (R142): x × y ± u × v + w, one rounding. -/
def cmaPart (m : Nat) (x y u v w : FVal) : Nat := Fmt.f32.encode m (((x.mul y).add m (u.mul v)).add m w)

/-- The real and imaginary parts of a pair (R142). -/
def rePart (x : Nat) : FVal := Fmt.f32.decode (x % 2 ^ 32)

@[inherit_doc rePart] def imPart (x : Nat) : FVal := Fmt.f32.decode (x / 2 ^ 32 % 2 ^ 32)

/-- The two components of VFCMA (R142). -/
def cma (m : Nat) (conj : Bool) (a b c : Nat) : Nat :=
  let bi := if conj then (imPart b).neg else imPart b
  cmaPart m (rePart a) (rePart b) (imPart a).neg bi (rePart c)
    + cmaPart m (rePart a) bi (imPart a) (rePart b) (imPart c) * 2 ^ 32

/-- VFCMA (R142). -/
def execVfcma : State → Result :=
  runLane (fun f => { type := f.t == 0xC, d := .pair, a := .pair, b := .pair, c := .pair, x := 0x8000, rm := true })
    fun c => writeD c 64 fun k => cma c.f.rm.toNat (c.f.low 31 31 == 1) (c.a k) (c.b k) (c.c k)

/-! ## VFCVT (R143) -/

/-- The source type code and its NF bit (R143). -/
def cvtSrc (f : LaneF) : Nat := f.low 31 28

@[inherit_doc cvtSrc] def cvtSrcNf (f : LaneF) : Bool := f.low 27 27 == 1

/-- A type that VFCVT allows on either side: integers, floats, the 8-bit floats (R143). -/
def cvtType (t : Nat) : Bool := tyInt t || tyFloat t || t == 0xE

/-- The rule of VFCVT (R143). -/
def cvtRule (f : LaneF) : LRule :=
  { type := cvtType f.t && cvtType (cvtSrc f) && !(f.t == 0xE && tyInt (cvtSrc f)) && !(tyInt f.t && cvtSrc f == 0xE)
    nf := true
    d := useOf (tyBits f.t)
    a := useOf (tyBits (cvtSrc f))
    x := 0xF800
    rm := true
    sat := tyInt f.t || f.t == 0xE
    also := !cvtSrcNf f || cvtSrc f == 0xE }

/-- An .e4m3 code from a value (R143). -/
def toE4m3 (mode : Nat) (sat : Bool) : FVal → Nat
  | .nan => 0x7F
  | .inf neg => (if neg then 128 else 0) + (if sat then 0x7E else 0x7F)
  | .fin neg m e =>
    let r := roundMag 4 (-9) mode neg m e false
    let b := (r.2 + 9).toNat * 8 + r.1
    let sign := if neg then 128 else 0
    if r.1 = 0 then sign
    else if b ≤ 0x7E then sign + b
    else if sat ∨ Fmt.f32.overflow mode neg % 2 ^ 31 ≠ Fmt.f32.infBits then sign + 0x7E
    else sign + 0x7F

/-- An .e5m2 code from a value (R143). -/
def toE5m2 (mode : Nat) (sat : Bool) (v : FVal) : Nat :=
  let x := (Fmt.mk 5 2).encode mode v
  if sat && !v.isNan && decide (0x7B < x % 128) then x / 128 * 128 + 0x7B else x

/-- The value of a float source of VFCVT, 8-bit floats included. -/
def cvtVal (t : Nat) (nf : Bool) (raw : Nat) : FVal :=
  if t = 0xE then (if nf then e5m2Val (raw % 256) else e4m3Val (raw % 256)) else (tyFmt t).decode (raw % 2 ^ tyBits t)

/-- The pattern that VFCVT writes (R143). -/
def cvtResult (f : LaneF) (raw : Nat) : Nat :=
  let m := f.rm.toNat
  if f.t = 0xE then
    (if f.nf then toE5m2 else toE4m3) m f.sat (cvtVal (cvtSrc f) (cvtSrcNf f) raw)
  else if cvtSrc f = 0xE then (tyFmt f.t).encode m (cvtVal 0xE (cvtSrcNf f) raw)
  else
    let x := cvtBits m f.sat f.t (cvtSrc f) raw
    if tyFloat f.t then x else intWrite f.t false (intRead f.t x)

/-- VFCVT (R143). -/
def execVfcvt : State → Result :=
  runLane cvtRule fun c => writeD c (tyBits c.f.t) fun k => cvtResult c.f (c.a k)

end Sys2Proof.Machine
end

