-- ==== Sys2Proof/Machine/LeadBranch.lean ====
section
/-! DEFINITION. Branches, calls and returns (spec/03_lead.md R96 to R98; spec/02_encoding.md R48, R52). -/

namespace Sys2Proof.Machine

open Sys2Proof

/-- A taken branch, call or return (R97): alignment, the fetch at the target and its E bit, then the link, if there is
one, and the program counter. -/
def branchTo (target : Word) (link : Option Reg) : Op Unit := do
  need (target.toNat % 4 == 0) 0x24 target
  let s ← get
  match (codeWord target).run s with
  | .error (.trapAt c _ _) => stopTrap c target
  | .error e => throw e
  | .ok (w, t) => do
    set t
    need (w.getLsbD 29) 0x04 target
    match link with
    | some d => setReg d t.issue.next
    | none => pure ()
    onMe fun r => { r with pc := target }

/-- The target of a branch with an offset in words from its own address (R97). -/
def offsetTarget (o : Word) : Op Word := return (← get).issue.pc + 4 * o

/-- A conditional branch on two registers. -/
def condBranch (a b : Reg) (o : Word) (p : Word → Word → Bool) : State → Result := runLead do
  let x ← reg a
  let y ← reg b
  if p x y then branchTo (← offsetTarget o) none else pure ()

/-- B (R97). -/
def execB (o : BitVec 22) : State → Result :=
  runLead do branchTo (← offsetTarget (o.signExtend 64)) none

/-- B, long form (R97). -/
def execBLong (o : BitVec 51) : State → Result :=
  runLead do branchTo (← offsetTarget (o.signExtend 64)) none

/-- BL (R97). -/
def execBl (o : BitVec 22) : State → Result :=
  runLead do branchTo (← offsetTarget (o.signExtend 64)) (some 63)

/-- BL, long form (R97). -/
def execBlLong (o : BitVec 51) : State → Result :=
  runLead do branchTo (← offsetTarget (o.signExtend 64)) (some 63)

/-- BR (R97). -/
def execBr (a : Reg) : State → Result :=
  runLead do branchTo (← reg a) none

/-- BLR (R97): s[a] is read before the link is written. -/
def execBlr (d a : Reg) : State → Result :=
  runLead do branchTo (← reg a) (some d)

/-- RET (R98). -/
def execRet (a : Reg) : State → Result :=
  runLead do branchTo (← reg a) none

/-- BEQ (R96). -/
def execBeq (a b : Reg) (o : BitVec 10) : State → Result :=
  condBranch a b (o.signExtend 64) fun x y => x == y

/-- BEQ, long form (R96). -/
def execBeqLong (a b : Reg) (o : BitVec 39) : State → Result :=
  condBranch a b (o.signExtend 64) fun x y => x == y

/-- BNE (R96). -/
def execBne (a b : Reg) (o : BitVec 10) : State → Result :=
  condBranch a b (o.signExtend 64) fun x y => x != y

/-- BNE, long form (R96). -/
def execBneLong (a b : Reg) (o : BitVec 39) : State → Result :=
  condBranch a b (o.signExtend 64) fun x y => x != y

/-- BLT (R96). -/
def execBlt (a b : Reg) (o : BitVec 10) : State → Result :=
  condBranch a b (o.signExtend 64) fun x y => x.slt y

/-- BLT, long form (R96). -/
def execBltLong (a b : Reg) (o : BitVec 39) : State → Result :=
  condBranch a b (o.signExtend 64) fun x y => x.slt y

/-- BGE (R96). -/
def execBge (a b : Reg) (o : BitVec 10) : State → Result :=
  condBranch a b (o.signExtend 64) fun x y => !x.slt y

/-- BGE, long form (R96). -/
def execBgeLong (a b : Reg) (o : BitVec 39) : State → Result :=
  condBranch a b (o.signExtend 64) fun x y => !x.slt y

/-- BLTN (R96). -/
def execBltn (a b : Reg) (o : BitVec 10) : State → Result :=
  condBranch a b (o.signExtend 64) fun x y => x.ult y

/-- BLTN, long form (R96). -/
def execBltnLong (a b : Reg) (o : BitVec 39) : State → Result :=
  condBranch a b (o.signExtend 64) fun x y => x.ult y

/-- BGEN (R96). -/
def execBgen (a b : Reg) (o : BitVec 10) : State → Result :=
  condBranch a b (o.signExtend 64) fun x y => !x.ult y

/-- BGEN, long form (R96). -/
def execBgenLong (a b : Reg) (o : BitVec 39) : State → Result :=
  condBranch a b (o.signExtend 64) fun x y => !x.ult y

/-- BZ (R96). -/
def execBz (a : Reg) (o : BitVec 16) : State → Result :=
  condBranch a 0 (o.signExtend 64) fun x _ => x == 0

/-- BZ, long form (R96). -/
def execBzLong (a : Reg) (o : BitVec 45) : State → Result :=
  condBranch a 0 (o.signExtend 64) fun x _ => x == 0

/-- BNZ (R96). -/
def execBnz (a : Reg) (o : BitVec 16) : State → Result :=
  condBranch a 0 (o.signExtend 64) fun x _ => x != 0

/-- BNZ, long form (R96). -/
def execBnzLong (a : Reg) (o : BitVec 45) : State → Result :=
  condBranch a 0 (o.signExtend 64) fun x _ => x != 0

end Sys2Proof.Machine
end

