-- ==== Sys2Proof/Machine/LeadInt.lean ====
section
/-! DEFINITION. Lead integer, bit, address and hint instructions (spec/03_lead.md R88 to R95, R124). -/

namespace Sys2Proof.Machine

open Sys2Proof

/-! ## The shared frame (R88) -/

/-- The operation width that W selects. -/
def opBits (w : Bool) : Nat := if w then 32 else 64

/-- The low bits of a register that an operation reads. -/
def regBits (w : Bool) (a : Reg) : Op Nat := return (← reg a).toNat % 2 ^ opBits w

/-- An operand as the SAT payload has it read: unsigned under payload 10, else signed (R88). -/
def readBy (sat : Option (BitVec 2)) (n x : Nat) : Int := if sat = some 2 then (x : Int) else sextN n x

/-- The exact result clamped as the SAT payload says (R88). -/
def clampBy (sat : Option (BitVec 2)) (n : Nat) (x : Int) : Int :=
  match sat with
  | some 1 => clampI (rangeOf true n).1 (rangeOf true n).2 x
  | some 2 => clampI (rangeOf false n).1 (rangeOf false n).2 x
  | _ => x

/-- The low w bits of an exact result, sign-extended to 64 bits (R88). -/
def resultBits (w : Bool) (x : Int) : Word := BitVec.ofInt 64 (sextN (opBits w) (wrapN (opBits w) x))

/-- A binary form on the w-bit patterns. -/
def binForm (w : Bool) (d a b : Reg) (f : Nat → Nat → Nat → Int) : State → Result := runLead do
  let x ← regBits w a
  let y ← regBits w b
  setReg d (resultBits w (f (opBits w) x y))

/-- A unary form. -/
def unForm (w : Bool) (d a : Reg) (f : Nat → Nat → Int) : State → Result := runLead do
  let x ← regBits w a
  setReg d (resultBits w (f (opBits w) x))

/-- A form that accepts the SAT prefix, on exact integers. -/
def satForm (w : Bool) (d a b : Reg) (f : Nat → Int → Int → Int) : State → Result := runLead do
  let sat := (← get).issue.sat
  let x ← regBits w a
  let y ← regBits w b
  setReg d (resultBits w (clampBy sat (opBits w) (f (opBits w) (readBy sat (opBits w) x) (readBy sat (opBits w) y))))

/-- A form with an immediate on the w-bit pattern. -/
def immForm (w : Bool) (d a : Reg) (f : Nat → Nat → Int) : State → Result := unForm w d a f

/-- A form with an immediate that accepts the SAT prefix. -/
def satImmForm (w : Bool) (d a : Reg) (f : Int → Int) : State → Result := runLead do
  let sat := (← get).issue.sat
  let x ← regBits w a
  setReg d (resultBits w (clampBy sat (opBits w) (f (readBy sat (opBits w) x))))

/-- Write the result of a comparison (R91). -/
def boolWord (b : Bool) : Word := if b then 1 else 0

/-- A w-bit pattern rotated right by c places. -/
def rotr (n x c : Nat) : Nat := (x / 2 ^ c + x * 2 ^ (n - c)) % 2 ^ n

/-- Signed division rounded toward zero, −1 for a divisor of 0 (R90). -/
def divSigned (x y : Int) : Int := if y = 0 then -1 else quotZ x y

/-- The remainder of that division, the dividend for a divisor of 0 (R90). -/
def remSigned (x y : Int) : Int := if y = 0 then x else x - y * quotZ x y

/-- The ten conditions of CMP (R91). -/
def condHolds (c n x y : Nat) : Bool :=
  let sx := sextN n x
  let sy := sextN n y
  match c with
  | 0 => x == y
  | 1 => x != y
  | 2 => decide (sx < sy)
  | 3 => decide (sy ≤ sx)
  | 4 => decide (sx ≤ sy)
  | 5 => decide (sy < sx)
  | 6 => decide (x < y)
  | 7 => decide (y ≤ x)
  | 8 => decide (x ≤ y)
  | _ => decide (y < x)

/-! ## Register forms (R89, R90) -/

/-- ADD (R89). -/
def execAdd (w : Bool) (d a b : Reg) : State → Result :=
  satForm w d a b fun _ x y => x + y

/-- SUB (R89). -/
def execSub (w : Bool) (d a b : Reg) : State → Result :=
  satForm w d a b fun _ x y => x - y

/-- MUL (R89). -/
def execMul (w : Bool) (d a b : Reg) : State → Result :=
  satForm w d a b fun _ x y => x * y

/-- MULH (R89): the signed product's high half. -/
def execMulh (w : Bool) (d a b : Reg) : State → Result :=
  binForm w d a b fun n x y => sextN n x * sextN n y / (2 ^ n : Nat)

/-- MULHN (R89). -/
def execMulhn (w : Bool) (d a b : Reg) : State → Result :=
  binForm w d a b fun n x y => (x * y / 2 ^ n : Nat)

/-- DIV (R90). -/
def execDiv (w : Bool) (d a b : Reg) : State → Result :=
  binForm w d a b fun n x y => divSigned (sextN n x) (sextN n y)

/-- DIVN (R90). -/
def execDivn (w : Bool) (d a b : Reg) : State → Result :=
  binForm w d a b fun n x y => if y = 0 then (2 ^ n - 1 : Nat) else (x / y : Nat)

/-- REM (R90). -/
def execRem (w : Bool) (d a b : Reg) : State → Result :=
  binForm w d a b fun n x y => remSigned (sextN n x) (sextN n y)

/-- REMN (R90). -/
def execRemn (w : Bool) (d a b : Reg) : State → Result :=
  binForm w d a b fun _ x y => if y = 0 then (x : Int) else (x % y : Nat)

/-- AND (R89). -/
def execAnd (w : Bool) (d a b : Reg) : State → Result :=
  binForm w d a b fun _ x y => (x &&& y : Nat)

/-- OR (R89). -/
def execOr (w : Bool) (d a b : Reg) : State → Result :=
  binForm w d a b fun _ x y => (x ||| y : Nat)

/-- XOR (R89). -/
def execXor (w : Bool) (d a b : Reg) : State → Result :=
  binForm w d a b fun _ x y => (x ^^^ y : Nat)

/-- ANDN (R89): A and not B. -/
def execAndn (w : Bool) (d a b : Reg) : State → Result :=
  binForm w d a b fun n x y => (x &&& (2 ^ n - 1 - y) : Nat)

/-- MIN (R89). -/
def execMin (w : Bool) (d a b : Reg) : State → Result :=
  binForm w d a b fun n x y => min (sextN n x) (sextN n y)

/-- MAX (R89). -/
def execMax (w : Bool) (d a b : Reg) : State → Result :=
  binForm w d a b fun n x y => max (sextN n x) (sextN n y)

/-- MINN (R89). -/
def execMinn (w : Bool) (d a b : Reg) : State → Result :=
  binForm w d a b fun _ x y => (min x y : Nat)

/-- MAXN (R89). -/
def execMaxn (w : Bool) (d a b : Reg) : State → Result :=
  binForm w d a b fun _ x y => (max x y : Nat)

/-- SHL (R88, R89): the count is uB mod w; A is read as the SAT payload says. -/
def execShl (w : Bool) (d a b : Reg) : State → Result := runLead do
  let sat := (← get).issue.sat
  let n := opBits w
  let x ← regBits w a
  let c ← regBits w b
  setReg d (resultBits w (clampBy sat n (readBy sat n x * (2 ^ (c % n) : Nat))))

/-- SHR (R89). -/
def execShr (w : Bool) (d a b : Reg) : State → Result :=
  binForm w d a b fun n x y => (x / 2 ^ (y % n) : Nat)

/-- SAR (R89). -/
def execSar (w : Bool) (d a b : Reg) : State → Result :=
  binForm w d a b fun n x y => sextN n x / (2 ^ (y % n) : Nat)

/-- ROT (R89). -/
def execRot (w : Bool) (d a b : Reg) : State → Result :=
  binForm w d a b fun n x y => (rotr n x (y % n) : Nat)

/-- CLZ (R89). -/
def execClz (w : Bool) (d a : Reg) : State → Result :=
  unForm w d a fun n x => (clzN n x : Nat)

/-- CTZ (R89). -/
def execCtz (w : Bool) (d a : Reg) : State → Result :=
  unForm w d a fun n x => (ctzN n x : Nat)

/-- POPC (R89). -/
def execPopc (w : Bool) (d a : Reg) : State → Result :=
  unForm w d a fun n x => (popcount n x : Nat)

/-- SEXT (R89). -/
def execSext (d a : Reg) (p : BitVec 6) : State → Result :=
  unForm false d a fun _ x => sextN (p.toNat + 1) x

/-- ZEXT (R89). -/
def execZext (d a : Reg) (p : BitVec 6) : State → Result :=
  unForm false d a fun _ x => (x % 2 ^ (p.toNat + 1) : Nat)

/-- SEL (R89): chooses by the old value of d. -/
def execSel (w : Bool) (d a b : Reg) : State → Result := runLead do
  let t ← regBits w d
  let x ← regBits w a
  let y ← regBits w b
  setReg d (resultBits w (if t ≠ 0 then x else y : Nat))

/-- CMP (R91). -/
def execCmp (c : BitVec 4) (w : Bool) (d a b : Reg) : State → Result := runLead do
  let x ← regBits w a
  let y ← regBits w b
  setReg d (boolWord (condHolds c.toNat (opBits w) x y))

/-- ADDX (R94). -/
def execAddx (f : BitVec 4) (w : Bool) (d a b : Reg) : State → Result :=
  satForm w d a b fun _ x y => x + y * (2 ^ f.toNat : Nat)

/-- BFX (R92). -/
def execBfx (d a : Reg) (u q : BitVec 6) : State → Result := runLead do
  let x ← reg a
  setReg d (BitVec.ofNat 64 (bitsN x.toNat (q.toNat + u.toNat) q.toNat))

/-- BFI (R92). -/
def execBfi (d a : Reg) (u q : BitVec 6) : State → Result := runLead do
  let x ← reg a
  let old ← reg d
  setReg d (setField old (q.toNat + u.toNat) q.toNat x.toNat)

/-! ## Immediate forms (R93) -/

/-- ADDI (R88, R93). -/
def execAddi (w : Bool) (d a : Reg) (i : BitVec 10) : State → Result :=
  satImmForm w d a fun x => x + i.toInt

/-- ADDI, long form (R54, R93). -/
def execAddiLong (d a : Reg) (i : BitVec 39) : State → Result :=
  satImmForm false d a fun x => x + i.toInt

/-- ANDI (R93). -/
def execAndi (w : Bool) (d a : Reg) (i : BitVec 10) : State → Result :=
  immForm w d a fun _ x => (x &&& i.toNat : Nat)

/-- ANDI, long form (R54, R93). -/
def execAndiLong (d a : Reg) (i : BitVec 39) : State → Result :=
  immForm false d a fun _ x => (x &&& i.toNat : Nat)

/-- ORI (R93). -/
def execOri (w : Bool) (d a : Reg) (i : BitVec 10) : State → Result :=
  immForm w d a fun _ x => (x ||| i.toNat : Nat)

/-- ORI, long form (R54, R93). -/
def execOriLong (d a : Reg) (i : BitVec 39) : State → Result :=
  immForm false d a fun _ x => (x ||| i.toNat : Nat)

/-- XORI (R93). -/
def execXori (w : Bool) (d a : Reg) (i : BitVec 10) : State → Result :=
  immForm w d a fun _ x => (x ^^^ i.toNat : Nat)

/-- XORI, long form (R54, R93). -/
def execXoriLong (d a : Reg) (i : BitVec 39) : State → Result :=
  immForm false d a fun _ x => (x ^^^ i.toNat : Nat)

/-- SHLI (R93). -/
def execShli (w : Bool) (d a : Reg) (c : BitVec 6) : State → Result :=
  satImmForm w d a fun x => x * (2 ^ c.toNat : Nat)

/-- SHRI (R93). -/
def execShri (w : Bool) (d a : Reg) (c : BitVec 6) : State → Result :=
  immForm w d a fun _ x => (x / 2 ^ c.toNat : Nat)

/-- SARI (R93). -/
def execSari (w : Bool) (d a : Reg) (c : BitVec 6) : State → Result :=
  immForm w d a fun n x => sextN n x / (2 ^ c.toNat : Nat)

/-! ## Constants and addresses (R95) -/

/-- SETHI (R95). -/
def execSethi (d : Reg) (i : BitVec 32) : State → Result := runLead do
  let old ← reg d
  setReg d (BitVec.ofNat 64 (i.toNat * 2 ^ 32 + old.toNat % 2 ^ 32))

/-- LI (R95). -/
def execLi (d : Reg) (i : BitVec 45) : State → Result := runLead (setReg d (i.signExtend 64))

/-- ADDPC (R95). -/
def execAddpc (d : Reg) (i : BitVec 16) : State → Result := runLead do
  setReg d ((← get).issue.pc + 4 * i.signExtend 64)

/-- ADDPC, long form (R54, R95). -/
def execAddpcLong (d : Reg) (i : BitVec 45) : State → Result := runLead do
  setReg d ((← get).issue.pc + 4 * i.signExtend 64)

/-! ## NOP and hints (R63, R124): no hint changes any result -/

/-- NOP (R63). -/
def execNop : State → Result := runLead (pure ())

/-- HINT of a code that the VK3 does not act on (R124). -/
def execHint (_code : BitVec 6) (_arg : BitVec 16) : State → Result := runLead (pure ())

/-- HINT 0x01 (R124): the code cache it fills is seen in time only. -/
def execHintFetchLead (_arg : BitVec 16) : State → Result := runLead (pure ())

/-- HINT 0x02 (R124): the group is passed over for issue for at most 255 core clocks; issue order is the agenda's. -/
def execHintSpin (_arg : BitVec 16) : State → Result := runLead (pure ())

/-- HINT 0x03 (R124). -/
def execHintFetchLane (_arg : BitVec 16) : State → Result := runLead (pure ())

end Sys2Proof.Machine
end

