-- ==== Sys2Proof/Machine/Sparse.lean ====
section
/-! DEFINITION. Sparse and irregular instructions, class 0x8 (spec/13_sparse.md R364 to R375). -/

namespace Sys2Proof.Machine

open Sys2Proof

/-- The mask register that X[31:28] names, written where it is not m0 (R364). -/
def writeK (c : LaneCtx) (p : Nat → Bool) : Op Unit :=
  if c.f.low 31 28 = 0 then pure () else writeMask c (c.f.low 31 28) p

/-- An instruction whose active(M) is empty pops its queues and does nothing else (R365). -/
def unlessEmpty (c : LaneCtx) (m : Nat → Op Unit) : Op Unit :=
  match lowestLane c.act with
  | none => pure ()
  | some j => m j

/-! ## Conflicts (R366, R367) -/

/-- The lower active lanes with the key of lane k. -/
def lowerEqual (c : LaneCtx) (n k : Nat) : List Nat :=
  (lanesOf c.act).filter fun j => decide (j < k) && c.a j % 2 ^ n == c.a k % 2 ^ n

/-- VCONF (R366). -/
def execVconf : State → Result :=
  runLane (fun f => { type := tyB f.t, a := useOf (tyBits f.t), x := 0xF000 }) fun c => unlessEmpty c fun _ => do
    let n := tyBits c.f.t
    writeD c 32 fun k => (maskOf (lowerEqual c n k)).toNat
    writeK c fun k => (lowerEqual c n k).isEmpty

/-- The combination of a carrier with the higher lanes of its key (R367). -/
def combine (c : LaneCtx) (k : Nat) : Nat :=
  let n := tyBits c.f.t
  let rest := (lanesOf c.act).filter fun j => decide (k < j) && c.a j % 2 ^ 32 == c.a k % 2 ^ 32
  rest.foldl (fun x j => redStep c.f x (c.b j % 2 ^ n)) (c.b k % 2 ^ n)

/-- VCOMB (R367). -/
def execVcomb : State → Result :=
  runLane
    (fun f =>
      let op := f.low 31 28
      { type := tyInt32 f.t || tyFloat f.t, d := useOf (tyBits f.t), a := .one, b := useOf (tyBits f.t), x := 0xF000
        rm := tyFloat f.t && op == 0, sat := tyInt32 f.t && op == 0, also := decide (op < 3) })
    fun c =>
      let carriers := maskOf ((lanesOf c.act).filter fun k => (lowerEqual c 32 k).isEmpty)
      onLanes (Lanes.writeRes (tyBits c.f.t) c.f.d.toNat carriers (combine c))

/-! ## Sorted lists (R368 to R372) -/

/-- Two lists as an instruction walks them: their elements, which are final, and whether one was cut. -/
structure Lists where
  a : List Int
  b : List Int
  fa : Bool
  fb : Bool
  cut : Bool

/-- The index at which a list breaks its order (R369). -/
def orderBreak (dup : Bool) (l : List Int) : Option Nat :=
  ((l.zip (l.drop 1)).findIdx? fun p => decide (p.2 < p.1) || (!dup && p.1 == p.2)).map (· + 1)

/-- z of R368: the lowest lane not in active(M). -/
def lowestIdle (act : Mask) : Nat := ((List.range 32).find? fun k => !act.getLsbD k).getD 32

/-- The lists that the sources give, with the index of a violation in each (R368, R369). -/
def readLists (c : LaneCtx) (j : Nat) : List Int × List Int × Nat :=
  let w := c.c j
  let z := lowestIdle c.act
  let n (x : Nat) : Nat := min (min x 32) z
  ((List.range (n (bitsN w 5 0))).map fun k => intRead c.f.t (c.a k),
    (List.range (n (bitsN w 13 8))).map fun k => intRead c.f.t (c.b k), w)

/-- The lists cut at their violations (R369). -/
def cutLists (dup : Bool) (a b : List Int) (w : Nat) : Lists :=
  let va := orderBreak dup a
  let vb := orderBreak dup b
  { a := a.take (va.getD a.length)
    b := b.take (vb.getD b.length)
    fa := bitN w 14 && va.isNone
    fb := bitN w 15 && vb.isNone
    cut := va.isSome || vb.isSome }

/-- A walk's outputs in order, a bit for each, and its advance counts. -/
structure Walk where
  out : List (Nat × Bool)
  i : Nat
  j : Nat

/-- VISECT's walk (R370). -/
def isect (l : Lists) : Nat → Walk → Walk
  | 0, w => w
  | n + 1, w =>
    match l.a[w.i]?, l.b[w.j]? with
    | some x, some y =>
      if x < y then isect l n { w with i := w.i + 1 }
      else if y < x then isect l n { w with j := w.j + 1 }
      else isect l n { out := w.out ++ [(w.i + 2 ^ 16 * w.j, true)], i := w.i + 1, j := w.j + 1 }
    | _, _ => w

/-- VMERGE's walk (R371), of at most n outputs. -/
def merge (l : Lists) : Nat → Walk → Walk
  | 0, w => w
  | n + 1, w =>
    let takeA (x : Int) : Walk := { w with out := w.out ++ [(wrapN 32 x, false)], i := w.i + 1 }
    let takeB (y : Int) : Walk := { w with out := w.out ++ [(wrapN 32 y, true)], j := w.j + 1 }
    match l.a[w.i]?, l.b[w.j]? with
    | some x, some y => merge l n (if x ≤ y then takeA x else takeB y)
    | some x, none => if l.fb then merge l n (takeA x) else w
    | none, some y => if l.fa then merge l n (takeB y) else w
    | none, none => w

/-- The result word (R372). -/
def walkWord (cut : Bool) (w : Walk) : Nat := (if cut then 2 ^ 31 else 0) + w.out.length * 2 ^ 16 + w.j * 2 ^ 8 + w.i

/-- VISECT or VMERGE. Outputs stay below z (R372), which bounds VMERGE's walk (log entry 42). -/
def listForm (walk : Nat → Lists → Walk) : State → Result :=
  runLane
    (fun f => { type := f.t == 4 || f.t == 8, d := .pair, a := .one, b := .one, c := .one, x := 0xFC00, also := !f.qc })
    fun c => unlessEmpty c fun j => do
      let dup := c.f.low 26 26 == 1
      let (a, b, w) := readLists c j
      match orderBreak dup a, orderBreak dup b, c.f.low 27 27 with
      | some i, _, 1 => throw (.frag 0x81 (BitVec.ofNat 64 i))
      | none, some i, 1 => throw (.frag 0x81 (BitVec.ofNat 64 (i + 2 ^ 16)))
      | _, _, _ => do
        let l := cutLists dup a b w
        let r := walk (lowestIdle c.act) l
        let d := c.f.d.toNat
        let outs := maskOf (List.range r.out.length)
        onLanes fun x => x.writeCol d outs fun k => ((r.out[k]?).map (·.1)).getD 0
        onLanes fun x => x.writeCol (d + 1) c.act fun _ => walkWord l.cut r
        writeK c fun k => ((r.out[k]?).map (·.2)).getD false

/-- VISECT (R370). -/
def execVisect : State → Result := listForm fun _ l => isect l 64 ⟨[], 0, 0⟩

/-- VMERGE (R371). -/
def execVmerge : State → Result := listForm fun z l => merge l z ⟨[], 0, 0⟩

/-! ## Compaction (R373) -/

/-- A form that moves values between the p-th lanes of two lists. -/
def moveLanes (c : LaneCtx) (src dst : List Nat) : Op Unit :=
  let ps := dst.zip src
  onLanes (Lanes.writeRes (tyBits c.f.t) c.f.d.toNat (maskOf (ps.map (·.1))) fun k =>
    match ps.find? fun p => p.1 == k with
    | some p => c.a p.2
    | none => 0)

/-- The rule of VCOMPR and VEXPD. -/
def packRule (f : LaneF) : LRule := { type := tyB f.t, d := useOf (tyBits f.t), a := useOf (tyBits f.t) }

/-- VCOMPR (R373). -/
def execVcompr : State → Result := runLane packRule fun c => moveLanes c (lanesOf c.act) (lanesOf c.m0)

/-- VEXPD (R373): it reads lanes of m0 beyond active(M) too, where R365 speaks of those within it (log entry 117). -/
def execVexpd : State → Result := runLane packRule fun c =>
  moveLanes c ((lanesOf c.m0).take (lanesOf c.act).length) (lanesOf c.act)

/-! ## Index tiles (R374) -/

/-- The rule of IDXLD (R374). -/
def idxldRule (f : LaneF) : LRule where
  type := f.t == 6 || f.t == 7
  d := .none
  a := .one
  b := .one
  c := .one
  fl := true
  acc := true
  x := 0xFF80
  i16 := 0xFFFF
  tx := false
  also := !f.qc && decide (f.scope ≤ 2) && (f.order == 0 || f.order == 2)

/-- The cause of every lane, or of lanes with an offset too wide (R374). -/
def idxldCauses (s : State) (c : LaneCtx) (t : Int) (start n : Nat) : List (Nat × Nat × Word) :=
  let w := tyBits c.f.t / 8
  let every (cause : Nat) : List (Nat × Nat × Word) := (lanesOf c.act).map fun k => (k, cause, BitVec.ofInt 64 t)
  match myTeam s with
  | none => every 0x2A
  | some team =>
    if !(runXb s c.f.xbn).v then every 0x26
    else if t % 256 ≠ 0 ∨ 240 / w < start + n then every 0x82
    else if t < 0 ∨ (team.len : Int) < t + 256 then every 0x2A
    else if landHit s team.uid t.toNat 256 true then every 0x25
    else
      ((lanesOf c.act).filter fun k => decide (2 ^ (8 * w) ≤ c.a k % 2 ^ 32)).map fun k =>
        (k, 0x82, BitVec.ofNat 64 (c.a k % 2 ^ 32))

/-- IDXLD (R374, R375): its flag is released as it issues, since its bytes are written. -/
def execIdxld : State → Result := runLane idxldRule fun c => unlessEmpty c fun j => do
  let s ← get
  let t : Int := sextN 32 (c.b j) + c.f.off
  let start := c.c j % 2 ^ 32
  let lanes := lanesOf c.act
  let w := tyBits c.f.t / 8
  let bad := idxldCauses s c t start lanes.length
  if bad.isEmpty then do
    laneBefore c
    let base := (runXb s c.f.xbn).base.toNat
    let head := leBytes 8 base ++ leBytes 2 (start + lanes.length) ++ leBytes 1 w ++ leBytes 5 0
    modify (teamStore s.me.team false t.toNat head)
    modify (teamStore s.me.team false (t.toNat + 16 + start * w) (lanes.flatMap fun k => leBytes w (c.a k)))
  else throw (.lanes bad .kept)

end Sys2Proof.Machine
end

