-- ==== Sys2Proof/Machine/Dispatch.lean ====
section
/-! DEFINITION. The dispatcher: one arm for each constructor of `Instr`, each a direct call of its meaning. -/

namespace Sys2Proof.Machine

open Sys2Proof

def exec (i : Instr) (s : State) : Host.Outcome State Fault Refusal :=
  match i with
  | .hint code arg => Sys2Proof.Machine.execHint code arg s
  | .hintFetchLead arg => Sys2Proof.Machine.execHintFetchLead arg s
  | .hintSpin arg => Sys2Proof.Machine.execHintSpin arg s
  | .hintFetchLane arg => Sys2Proof.Machine.execHintFetchLane arg s
  | .add w d a b => Sys2Proof.Machine.execAdd w d a b s
  | .sub w d a b => Sys2Proof.Machine.execSub w d a b s
  | .mul w d a b => Sys2Proof.Machine.execMul w d a b s
  | .mulh w d a b => Sys2Proof.Machine.execMulh w d a b s
  | .mulhn w d a b => Sys2Proof.Machine.execMulhn w d a b s
  | .div w d a b => Sys2Proof.Machine.execDiv w d a b s
  | .divn w d a b => Sys2Proof.Machine.execDivn w d a b s
  | .rem w d a b => Sys2Proof.Machine.execRem w d a b s
  | .remn w d a b => Sys2Proof.Machine.execRemn w d a b s
  | .and w d a b => Sys2Proof.Machine.execAnd w d a b s
  | .or w d a b => Sys2Proof.Machine.execOr w d a b s
  | .xor w d a b => Sys2Proof.Machine.execXor w d a b s
  | .andn w d a b => Sys2Proof.Machine.execAndn w d a b s
  | .min w d a b => Sys2Proof.Machine.execMin w d a b s
  | .max w d a b => Sys2Proof.Machine.execMax w d a b s
  | .minn w d a b => Sys2Proof.Machine.execMinn w d a b s
  | .maxn w d a b => Sys2Proof.Machine.execMaxn w d a b s
  | .shl w d a b => Sys2Proof.Machine.execShl w d a b s
  | .shr w d a b => Sys2Proof.Machine.execShr w d a b s
  | .sar w d a b => Sys2Proof.Machine.execSar w d a b s
  | .rot w d a b => Sys2Proof.Machine.execRot w d a b s
  | .clz w d a => Sys2Proof.Machine.execClz w d a s
  | .ctz w d a => Sys2Proof.Machine.execCtz w d a s
  | .popc w d a => Sys2Proof.Machine.execPopc w d a s
  | .sext d a p => Sys2Proof.Machine.execSext d a p s
  | .zext d a p => Sys2Proof.Machine.execZext d a p s
  | .sel w d a b => Sys2Proof.Machine.execSel w d a b s
  | .cmp c w d a b => Sys2Proof.Machine.execCmp c w d a b s
  | .addx f w d a b => Sys2Proof.Machine.execAddx f w d a b s
  | .bfx d a u q => Sys2Proof.Machine.execBfx d a u q s
  | .bfi d a u q => Sys2Proof.Machine.execBfi d a u q s
  | .addi w d a im => Sys2Proof.Machine.execAddi w d a im s
  | .addiLong d a im => Sys2Proof.Machine.execAddiLong d a im s
  | .andi w d a im => Sys2Proof.Machine.execAndi w d a im s
  | .andiLong d a im => Sys2Proof.Machine.execAndiLong d a im s
  | .ori w d a im => Sys2Proof.Machine.execOri w d a im s
  | .oriLong d a im => Sys2Proof.Machine.execOriLong d a im s
  | .xori w d a im => Sys2Proof.Machine.execXori w d a im s
  | .xoriLong d a im => Sys2Proof.Machine.execXoriLong d a im s
  | .shli w d a c => Sys2Proof.Machine.execShli w d a c s
  | .shri w d a c => Sys2Proof.Machine.execShri w d a c s
  | .sari w d a c => Sys2Proof.Machine.execSari w d a c s
  | .sethi d im => Sys2Proof.Machine.execSethi d im s
  | .li d im => Sys2Proof.Machine.execLi d im s
  | .addpc d im => Sys2Proof.Machine.execAddpc d im s
  | .addpcLong d im => Sys2Proof.Machine.execAddpcLong d im s
  | .b o => Sys2Proof.Machine.execB o s
  | .bLong o => Sys2Proof.Machine.execBLong o s
  | .bl o => Sys2Proof.Machine.execBl o s
  | .blLong o => Sys2Proof.Machine.execBlLong o s
  | .br a => Sys2Proof.Machine.execBr a s
  | .blr d a => Sys2Proof.Machine.execBlr d a s
  | .ret a => Sys2Proof.Machine.execRet a s
  | .beq a b o => Sys2Proof.Machine.execBeq a b o s
  | .beqLong a b o => Sys2Proof.Machine.execBeqLong a b o s
  | .bne a b o => Sys2Proof.Machine.execBne a b o s
  | .bneLong a b o => Sys2Proof.Machine.execBneLong a b o s
  | .blt a b o => Sys2Proof.Machine.execBlt a b o s
  | .bltLong a b o => Sys2Proof.Machine.execBltLong a b o s
  | .bge a b o => Sys2Proof.Machine.execBge a b o s
  | .bgeLong a b o => Sys2Proof.Machine.execBgeLong a b o s
  | .bltn a b o => Sys2Proof.Machine.execBltn a b o s
  | .bltnLong a b o => Sys2Proof.Machine.execBltnLong a b o s
  | .bgen a b o => Sys2Proof.Machine.execBgen a b o s
  | .bgenLong a b o => Sys2Proof.Machine.execBgenLong a b o s
  | .bz a o => Sys2Proof.Machine.execBz a o s
  | .bzLong a o => Sys2Proof.Machine.execBzLong a o s
  | .bnz a o => Sys2Proof.Machine.execBnz a o s
  | .bnzLong a o => Sys2Proof.Machine.execBnzLong a o s
  | .fadd t d a b => Sys2Proof.Machine.execFadd t d a b s
  | .fsub t d a b => Sys2Proof.Machine.execFsub t d a b s
  | .fmul t d a b => Sys2Proof.Machine.execFmul t d a b s
  | .fdiv t d a b => Sys2Proof.Machine.execFdiv t d a b s
  | .fsqrt t d a => Sys2Proof.Machine.execFsqrt t d a s
  | .fma t d a b => Sys2Proof.Machine.execFma t d a b s
  | .fmin t d a b => Sys2Proof.Machine.execFmin t d a b s
  | .fmax t d a b => Sys2Proof.Machine.execFmax t d a b s
  | .fmov t d a => Sys2Proof.Machine.execFmov t d a s
  | .fcmpEq t d a b => Sys2Proof.Machine.execFcmpEq t d a b s
  | .fcmpLt t d a b => Sys2Proof.Machine.execFcmpLt t d a b s
  | .fcmpLe t d a b => Sys2Proof.Machine.execFcmpLe t d a b s
  | .fcmpUn t d a b => Sys2Proof.Machine.execFcmpUn t d a b s
  | .fcvt d a dt st => Sys2Proof.Machine.execFcvt d a dt st s
  | .ld z d a o => Sys2Proof.Machine.execLd z d a o s
  | .ldLong z d a o => Sys2Proof.Machine.execLdLong z d a o s
  | .ldN z d a o => Sys2Proof.Machine.execLdN z d a o s
  | .ldNLong z d a o => Sys2Proof.Machine.execLdNLong z d a o s
  | .st z d a o => Sys2Proof.Machine.execSt z d a o s
  | .stLong z d a o => Sys2Proof.Machine.execStLong z d a o s
  | .aadd w4 d a b => Sys2Proof.Machine.execAadd w4 d a b s
  | .asub w4 d a b => Sys2Proof.Machine.execAsub w4 d a b s
  | .amin w4 d a b => Sys2Proof.Machine.execAmin w4 d a b s
  | .amax w4 d a b => Sys2Proof.Machine.execAmax w4 d a b s
  | .aminn w4 d a b => Sys2Proof.Machine.execAminn w4 d a b s
  | .amaxn w4 d a b => Sys2Proof.Machine.execAmaxn w4 d a b s
  | .aand w4 d a b => Sys2Proof.Machine.execAand w4 d a b s
  | .aor w4 d a b => Sys2Proof.Machine.execAor w4 d a b s
  | .axor w4 d a b => Sys2Proof.Machine.execAxor w4 d a b s
  | .axchg w4 d a b => Sys2Proof.Machine.execAxchg w4 d a b s
  | .afadd w4 d a b => Sys2Proof.Machine.execAfadd w4 d a b s
  | .acas w4 d a b => Sys2Proof.Machine.execAcas w4 d a b s
  | .fence sc o => Sys2Proof.Machine.execFence sc o s
  | .fenceSys o => Sys2Proof.Machine.execFenceSys o s
  | .fenceSysWin n o => Sys2Proof.Machine.execFenceSysWin n o s
  | .watch d a b => Sys2Proof.Machine.execWatch d a b s
  | .watchWake who => Sys2Proof.Machine.execWatchWake who s
  | .lrun t => Sys2Proof.Machine.execLrun t s
  | .lwait g m => Sys2Proof.Machine.execLwait g m s
  | .xbset n a b => Sys2Proof.Machine.execXbset n a b s
  | .xbclr n => Sys2Proof.Machine.execXbclr n s
  | .osdef n a => Sys2Proof.Machine.execOsdef n a s
  | .osend n => Sys2Proof.Machine.execOsend n s
  | .trap im => Sys2Proof.Machine.execTrap im s
  | .csrrd d c => Sys2Proof.Machine.execCsrrd d c s
  | .csrwr d a c => Sys2Proof.Machine.execCsrwr d a c s
  | .csrset d a c => Sys2Proof.Machine.execCsrset d a c s
  | .csrclr d a c => Sys2Proof.Machine.execCsrclr d a c s
  | .haltpCtx a => Sys2Proof.Machine.execHaltpCtx a s
  | .haltpPart a => Sys2Proof.Machine.execHaltpPart a s
  | .preemptSus a => Sys2Proof.Machine.execPreemptSus a s
  | .preemptRes a => Sys2Proof.Machine.execPreemptRes a s
  | .injarm a b => Sys2Proof.Machine.execInjarm a b s
  | .injarmRep a b => Sys2Proof.Machine.execInjarmRep a b s
  | .ckptPool a b => Sys2Proof.Machine.execCkptPool a b s
  | .ckptStat d => Sys2Proof.Machine.execCkptStat d s
  | .assert a b => Sys2Proof.Machine.execAssert a b s
  | .tload d a x z => Sys2Proof.Machine.execTload d a x z s
  | .tloadLease d a x z c => Sys2Proof.Machine.execTloadLease d a x z c s
  | .tloadTry d a x z c => Sys2Proof.Machine.execTloadTry d a x z c s
  | .redeem d a => Sys2Proof.Machine.execRedeem d a s
  | .redeemQ d a sq => Sys2Proof.Machine.execRedeemQ d a sq s
  | .redeeml d a x => Sys2Proof.Machine.execRedeeml d a x s
  | .redeemlLanding d a => Sys2Proof.Machine.execRedeemlLanding d a s
  | .redeemlQ d a x l sq => Sys2Proof.Machine.execRedeemlQ d a x l sq s
  | .tdrop a => Sys2Proof.Machine.execTdrop a s
  | .tdropQ a sq => Sys2Proof.Machine.execTdropQ a sq s
  | .tstat d a => Sys2Proof.Machine.execTstat d a s
  | .tlease d a b => Sys2Proof.Machine.execTlease d a b s
  | .tleaseQ d a b sq => Sys2Proof.Machine.execTleaseQ d a b sq s
  | .txbeg d => Sys2Proof.Machine.execTxbeg d s
  | .txabt a => Sys2Proof.Machine.execTxabt a s
  | .txstat d sel => Sys2Proof.Machine.execTxstat d sel s
  | .cpyt d a b => Sys2Proof.Machine.execCpyt d a b s
  | .cpytExt d a b v x mz st => Sys2Proof.Machine.execCpytExt d a b v x mz st s
  | .cpyl d a b => Sys2Proof.Machine.execCpyl d a b s
  | .cpylExt d a b v x dk sk => Sys2Proof.Machine.execCpylExt d a b v x dk sk s
  | .cpylRaw d a b v x => Sys2Proof.Machine.execCpylRaw d a b v x s
  | .cpyf d a b => Sys2Proof.Machine.execCpyf d a b s
  | .cpyfExt d a b v x dk => Sys2Proof.Machine.execCpyfExt d a b v x dk s
  | .cpyg d a b => Sys2Proof.Machine.execCpyg d a b s
  | .cpygExt d a b v x mz st => Sys2Proof.Machine.execCpygExt d a b v x mz st s
  | .bseal d => Sys2Proof.Machine.execBseal d s
  | .bwait a => Sys2Proof.Machine.execBwait a s
  | .bwaitn a => Sys2Proof.Machine.execBwaitn a s
  | .bstat d => Sys2Proof.Machine.execBstat d s
  | .ksummOff a v x => Sys2Proof.Machine.execKsummOff a v x s
  | .ksummBf16 a v x => Sys2Proof.Machine.execKsummBf16 a v x s
  | .ksummE4m3 a v x => Sys2Proof.Machine.execKsummE4m3 a v x s
  | .ksummE5m2 a v x => Sys2Proof.Machine.execKsummE5m2 a v x s
  | .ksummRebuild a v x => Sys2Proof.Machine.execKsummRebuild a v x s
  | .ksummRead d a v x => Sys2Proof.Machine.execKsummRead d a v x s
  | .kbound a v x => Sys2Proof.Machine.execKbound a v x s
  | .kfetch d a b v x => Sys2Proof.Machine.execKfetch d a b v x s
  | .klist d a b v x => Sys2Proof.Machine.execKlist d a b v x s
  | .mloop a b => Sys2Proof.Machine.execMloop a b s
  | .osub n p k w => Sys2Proof.Machine.execOsub n p k w s
  | .accz a => Sys2Proof.Machine.execAccz a s
  | .accld t a b => Sys2Proof.Machine.execAccld t a b s
  | .accldTyped t a b y rm sat => Sys2Proof.Machine.execAccldTyped t a b y rm sat s
  | .accst t a b => Sys2Proof.Machine.execAccst t a b s
  | .accstTyped t a b y rm sat => Sys2Proof.Machine.execAccstTyped t a b y rm sat s
  | .accver d t => Sys2Proof.Machine.execAccver d t s
  | .accverWait a t => Sys2Proof.Machine.execAccverWait a t s
  | .accverSet a t => Sys2Proof.Machine.execAccverSet a t s
  | .launch d a => Sys2Proof.Machine.execLaunch d a s
  | .launchTry d a => Sys2Proof.Machine.execLaunchTry d a s
  | .lwaitg d a => Sys2Proof.Machine.execLwaitg d a s
  | .gstat d a => Sys2Proof.Machine.execGstat d a s
  | .vgrow d a => Sys2Proof.Machine.execVgrow d a s
  | .vshrink d a => Sys2Proof.Machine.execVshrink d a s
  | .gexit a b => Sys2Proof.Machine.execGexit a b s
  | .flagRelease who k => Sys2Proof.Machine.execFlagRelease who k s
  | .issuePromotion who lane => Sys2Proof.Machine.execIssuePromotion who lane s
  | .streamElementRead gal os => Sys2Proof.Machine.execStreamElementRead gal os s
  | .distributorElementRead gal os => Sys2Proof.Machine.execDistributorElementRead gal os s
  | .ticketDataArrival e => Sys2Proof.Machine.execTicketDataArrival e s
  | .redemptionDelivery e => Sys2Proof.Machine.execRedemptionDelivery e s
  | .leaseExpiry e => Sys2Proof.Machine.execLeaseExpiry e s
  | .cloakroomReconfigure die slice => Sys2Proof.Machine.execCloakroomReconfigure die slice s
  | .porterOperationStart porter => Sys2Proof.Machine.execPorterOperationStart porter s
  | .copyComplete op => Sys2Proof.Machine.execCopyComplete op s
  | .usherBound op k => Sys2Proof.Machine.execUsherBound op k s
  | .gatherListMerge op => Sys2Proof.Machine.execGatherListMerge op s
  | .ksummBuildComplete op => Sys2Proof.Machine.execKsummBuildComplete op s
  | .memoryWriteArrival k => Sys2Proof.Machine.execMemoryWriteArrival k s
  | .matrixOperationStart core k => Sys2Proof.Machine.execMatrixOperationStart core k s
  | .mloopKStep core => Sys2Proof.Machine.execMloopKStep core s
  | .matrixOperationComplete core k => Sys2Proof.Machine.execMatrixOperationComplete core k s
  | .gridReady h => Sys2Proof.Machine.execGridReady h s
  | .squadPlacement part => Sys2Proof.Machine.execSquadPlacement part s
  | .placementReservation part queue => Sys2Proof.Machine.execPlacementReservation part queue s
  | .producerPreemption h => Sys2Proof.Machine.execProducerPreemption h s
  | .vgrowGrant core => Sys2Proof.Machine.execVgrowGrant core s
  | .vgrowDeadlockBreak core => Sys2Proof.Machine.execVgrowDeadlockBreak core s
  | .gridComplete h => Sys2Proof.Machine.execGridComplete h s
  | .engineStop part engine => Sys2Proof.Machine.execEngineStop part engine s
  | .skidOverrun part => Sys2Proof.Machine.execSkidOverrun part s
  | .haltCollected part => Sys2Proof.Machine.execHaltCollected part s
  | .preemptionComplete squad => Sys2Proof.Machine.execPreemptionComplete squad s
  | .txEarlyValidation who lane => Sys2Proof.Machine.execTxEarlyValidation who lane s
  | .msixMessage port vec => Sys2Proof.Machine.execMsixMessage port vec s
  | .peerWrite port off data => Sys2Proof.Machine.execPeerWrite port off data s
  | .peerRead port off len => Sys2Proof.Machine.execPeerRead port off len s
  | .bar4Access port pa wr data => Sys2Proof.Machine.execBar4Access port pa wr data s
  | .remoteAccessTimeout who => Sys2Proof.Machine.execRemoteAccessTimeout who s
  | .controllerBatchForm c => Sys2Proof.Machine.execControllerBatchForm c s
  | .scrubVisit line => Sys2Proof.Machine.execScrubVisit line s
  | .hotnessIntervalEnd c => Sys2Proof.Machine.execHotnessIntervalEnd c s
  | .refreshHeartbeat stack => Sys2Proof.Machine.execRefreshHeartbeat stack s
  | .refreshTakeover stack => Sys2Proof.Machine.execRefreshTakeover stack s
  | .escapeRecovery router => Sys2Proof.Machine.execEscapeRecovery router s
  | .injectorAct link dir => Sys2Proof.Machine.execInjectorAct link dir s
  | .supplySag hall => Sys2Proof.Machine.execSupplySag hall s
  | .supplyRecover hall ns => Sys2Proof.Machine.execSupplyRecover hall ns s
  | .partitionReset part => Sys2Proof.Machine.execPartitionReset part s
  | .hostCoreRestart n => Sys2Proof.Machine.execHostCoreRestart n s
  | .routingTableWrite dest links => Sys2Proof.Machine.execRoutingTableWrite dest links s
  | .tlbInvalidatePage va k => Sys2Proof.Machine.execTlbInvalidatePage va k s
  | .ctxctlCreate n => Sys2Proof.Machine.execCtxctlCreate n s
  | .curctxWrite n => Sys2Proof.Machine.execCurctxWrite n s
  | .clkcfgWrite v => Sys2Proof.Machine.execClkcfgWrite v s
  | .lswzWrite v => Sys2Proof.Machine.execLswzWrite v s
  | .keyInstall slot dword => Sys2Proof.Machine.execKeyInstall slot dword s
  | .windowRegisterWrite n ctl v => Sys2Proof.Machine.execWindowRegisterWrite n ctl v s
  | .counterClear off => Sys2Proof.Machine.execCounterClear off s
  | .noticeClear v => Sys2Proof.Machine.execNoticeClear v s
  | .registerWrite c v => Sys2Proof.Machine.execRegisterWrite c v s
  | .linkFlitError link corrected => Sys2Proof.Machine.execLinkFlitError link corrected s
  | .memoryError addr correctable => Sys2Proof.Machine.execMemoryError addr correctable s
  | .escapeChannelEmpty router => Sys2Proof.Machine.execEscapeChannelEmpty router s
  | .outboundWriteAccept who answer => Sys2Proof.Machine.execOutboundWriteAccept who answer s
  | .nop => Sys2Proof.Machine.execNop s
  | .rfe => Sys2Proof.Machine.execRfe s
  | .ckptRb => Sys2Proof.Machine.execCkptRb s
  | .txend => Sys2Proof.Machine.execTxend s
  | .texit => Sys2Proof.Machine.execTexit s
  | .clause => Sys2Proof.Machine.execClause s
  | .runStart => Sys2Proof.Machine.execRunStart s
  | .vadd => Sys2Proof.Machine.execVadd s
  | .vsub => Sys2Proof.Machine.execVsub s
  | .vmul => Sys2Proof.Machine.execVmul s
  | .vmulh => Sys2Proof.Machine.execVmulh s
  | .vmad => Sys2Proof.Machine.execVmad s
  | .vmin => Sys2Proof.Machine.execVmin s
  | .vmax => Sys2Proof.Machine.execVmax s
  | .vabs => Sys2Proof.Machine.execVabs s
  | .vand => Sys2Proof.Machine.execVand s
  | .vor => Sys2Proof.Machine.execVor s
  | .vxor => Sys2Proof.Machine.execVxor s
  | .vnot => Sys2Proof.Machine.execVnot s
  | .vshl => Sys2Proof.Machine.execVshl s
  | .vshr => Sys2Proof.Machine.execVshr s
  | .vsar => Sys2Proof.Machine.execVsar s
  | .vclz => Sys2Proof.Machine.execVclz s
  | .vpopc => Sys2Proof.Machine.execVpopc s
  | .vbfx => Sys2Proof.Machine.execVbfx s
  | .vsel => Sys2Proof.Machine.execVsel s
  | .vcmp => Sys2Proof.Machine.execVcmp s
  | .vmov => Sys2Proof.Machine.execVmov s
  | .vmovi => Sys2Proof.Machine.execVmovi s
  | .vfadd => Sys2Proof.Machine.execVfadd s
  | .vfsub => Sys2Proof.Machine.execVfsub s
  | .vfmul => Sys2Proof.Machine.execVfmul s
  | .vffma => Sys2Proof.Machine.execVffma s
  | .vfmin => Sys2Proof.Machine.execVfmin s
  | .vfmax => Sys2Proof.Machine.execVfmax s
  | .vfcmp => Sys2Proof.Machine.execVfcmp s
  | .vfrcp => Sys2Proof.Machine.execVfrcp s
  | .vfrsq => Sys2Proof.Machine.execVfrsq s
  | .vfsqrt => Sys2Proof.Machine.execVfsqrt s
  | .vfdiv => Sys2Proof.Machine.execVfdiv s
  | .vfexp2 => Sys2Proof.Machine.execVfexp2 s
  | .vflog2 => Sys2Proof.Machine.execVflog2 s
  | .vfsin => Sys2Proof.Machine.execVfsin s
  | .vfcos => Sys2Proof.Machine.execVfcos s
  | .vfcvt => Sys2Proof.Machine.execVfcvt s
  | .vfrnd => Sys2Proof.Machine.execVfrnd s
  | .vfscale => Sys2Proof.Machine.execVfscale s
  | .vfcma => Sys2Proof.Machine.execVfcma s
  | .vshfl => Sys2Proof.Machine.execVshfl s
  | .vbcast => Sys2Proof.Machine.execVbcast s
  | .vred => Sys2Proof.Machine.execVred s
  | .vscan => Sys2Proof.Machine.execVscan s
  | .vballot => Sys2Proof.Machine.execVballot s
  | .vpack => Sys2Proof.Machine.execVpack s
  | .vunpk => Sys2Proof.Machine.execVunpk s
  | .cend => Sys2Proof.Machine.execCend s
  | .brl => Sys2Proof.Machine.execBrl s
  | .mark => Sys2Proof.Machine.execMark s
  | .join => Sys2Proof.Machine.execJoin s
  | .mset => Sys2Proof.Machine.execMset s
  | .mand => Sys2Proof.Machine.execMand s
  | .mor => Sys2Proof.Machine.execMor s
  | .mnot => Sys2Proof.Machine.execMnot s
  | .mcnt => Sys2Proof.Machine.execMcnt s
  | .tbar => Sys2Proof.Machine.execTbar s
  | .tbarCk => Sys2Proof.Machine.execTbarCk s
  | .sbar => Sys2Proof.Machine.execSbar s
  | .yield => Sys2Proof.Machine.execYield s
  | .vld => Sys2Proof.Machine.execVld s
  | .vst => Sys2Proof.Machine.execVst s
  | .vgath => Sys2Proof.Machine.execVgath s
  | .vscat => Sys2Proof.Machine.execVscat s
  | .vldl => Sys2Proof.Machine.execVldl s
  | .vstl => Sys2Proof.Machine.execVstl s
  | .vldm => Sys2Proof.Machine.execVldm s
  | .vstm => Sys2Proof.Machine.execVstm s
  | .xst => Sys2Proof.Machine.execXst s
  | .vlda => Sys2Proof.Machine.execVlda s
  | .vsta => Sys2Proof.Machine.execVsta s
  | .lkld => Sys2Proof.Machine.execLkld s
  | .lkst => Sys2Proof.Machine.execLkst s
  | .prf => Sys2Proof.Machine.execPrf s
  | .vaadd => Sys2Proof.Machine.execVaadd s
  | .vasub => Sys2Proof.Machine.execVasub s
  | .vamin => Sys2Proof.Machine.execVamin s
  | .vamax => Sys2Proof.Machine.execVamax s
  | .vaminn => Sys2Proof.Machine.execVaminn s
  | .vamaxn => Sys2Proof.Machine.execVamaxn s
  | .vaand => Sys2Proof.Machine.execVaand s
  | .vaor => Sys2Proof.Machine.execVaor s
  | .vaxor => Sys2Proof.Machine.execVaxor s
  | .vaxchg => Sys2Proof.Machine.execVaxchg s
  | .vacas => Sys2Proof.Machine.execVacas s
  | .vafadd => Sys2Proof.Machine.execVafadd s
  | .laneFence => Sys2Proof.Machine.execLaneFence s
  | .tloadv => Sys2Proof.Machine.execTloadv s
  | .laneRedeem => Sys2Proof.Machine.execLaneRedeem s
  | .laneRedeemL => Sys2Proof.Machine.execLaneRedeemL s
  | .laneTxbeg => Sys2Proof.Machine.execLaneTxbeg s
  | .laneTxend => Sys2Proof.Machine.execLaneTxend s
  | .laneTxabt => Sys2Proof.Machine.execLaneTxabt s
  | .laneTxstat => Sys2Proof.Machine.execLaneTxstat s
  | .laneCpyt => Sys2Proof.Machine.execLaneCpyt s
  | .laneCpyl => Sys2Proof.Machine.execLaneCpyl s
  | .laneCpyf => Sys2Proof.Machine.execLaneCpyf s
  | .laneCpyg => Sys2Proof.Machine.execLaneCpyg s
  | .mma => Sys2Proof.Machine.execMma s
  | .accrd => Sys2Proof.Machine.execAccrd s
  | .accwr => Sys2Proof.Machine.execAccwr s
  | .vconf => Sys2Proof.Machine.execVconf s
  | .vcomb => Sys2Proof.Machine.execVcomb s
  | .visect => Sys2Proof.Machine.execVisect s
  | .vmerge => Sys2Proof.Machine.execVmerge s
  | .vcompr => Sys2Proof.Machine.execVcompr s
  | .vexpd => Sys2Proof.Machine.execVexpd s
  | .idxld => Sys2Proof.Machine.execIdxld s
  | .laneAssert => Sys2Proof.Machine.execLaneAssert s
  | .vcsrrd => Sys2Proof.Machine.execVcsrrd s
  | .fallbackLockGrant => Sys2Proof.Machine.execFallbackLockGrant s
  | .fallbackLockRevoke => Sys2Proof.Machine.execFallbackLockRevoke s
  | .packageReset => Sys2Proof.Machine.execPackageReset s
  | .tlbInvalidateAll => Sys2Proof.Machine.execTlbInvalidateAll s
  | .tlbInvalidateContext => Sys2Proof.Machine.execTlbInvalidateContext s
  | .unusedOpcode => Sys2Proof.Machine.execUnusedOpcode s
  | .leadFetch => Sys2Proof.Machine.execLeadFetch s

end Sys2Proof.Machine
end

