-- ==== Sys2Proof/Machine/Step.lean ====
section
/-! DEFINITION. One step: who moves next, the fetch of its instruction, and `exec` of it. -/

namespace Sys2Proof.Machine

open Sys2Proof

/-- A step of the lead stream in focus (spec/19_programs.md R496, spec/02_encoding.md R77). -/
def stepLead (s : State) : Host.Outcome State Fault Refusal :=
  match streamFault s with
  | some f => .next (raiseStreamFault f.1 f.2.1 f.2.2 s)
  | none =>
    if s.me.isHost && s.me.ctx == 0 && !s.me.sup then .next (leadTrap 0x05 s.me.pc s.me.pc s)
    else
      match fetchLead.run s with
      | .error _ => exec .leadFetch s
      | .ok (d, t) =>
        match runCause t.me d with
        | none => exec d.ins t
        | some (1, 0) => exec .unusedOpcode t
        | some (c, k) => .next (leadTrap c (t.issue.pc + BitVec.ofNat 64 (4 * k)) t.issue.pc t)

/-- A step of the lane stream in focus (spec/05_lane_control.md R151 to R153, R165). -/
def stepLane (s : State) : Host.Outcome State Fault Refusal :=
  match s.me.l.run.cur with
  | some c => exec (fetchSlot c s).1 (fetchSlot c s).2
  | none =>
    match pickClause s with
    | some (x, .ok h, t) => exec .clause (latchClause x h t)
    | some (x, .error e, t) => .next (stopClause x e t)
    | none => exec .runStart s

/-- A step of the stream in focus; a host core has a lead stream only. -/
def stepFocus (s : State) : Host.Outcome State Fault Refusal :=
  match interruptDue s with
  | some w => .next (takeInterrupt w s)
  | none =>
    let lane := s.lane && !s.me.isHost
    if held lane s then .next s
    else if !lane && s.me.needsLock then .next (awaitLock s)
    else if lane then stepLane s
    else stepLead s

/-! ## Readiness (spec/15_launch.md R411) -/

/-- A lead branch, which issues even where it goes to itself. -/
def isBranch : Instr → Bool
  | .b .. | .bLong .. | .bl .. | .blLong .. | .br .. | .blr .. | .ret .. | .beq .. | .beqLong .. | .bne .. | .bneLong ..
  | .blt .. | .bltLong .. | .bge .. | .bgeLong .. | .bltn .. | .bltnLong .. | .bgen .. | .bgenLong .. | .bz .. | .bzLong ..
  | .bnz .. | .bnzLong .. => true
  | _ => false

/-- A runner but for what a stream that waits writes down. -/
def Runner.settled (r : Runner) : Runner :=
  { r with
    wait := .none
    entry := false
    l := { r.l with run := { r.l.run with cur := r.l.run.cur.map fun c => { c with stall := none } } } }

/-- The stream in focus is ready at its stage: it would issue. -/
def issues (lane : Bool) (s : State) : Bool :=
  !held lane s && ((match stepFocus s with | .next t => t.me.settled != s.me.settled | _ => false)
    || (!lane && match fetchLead.run s with | .ok (d, _) => isBranch d.ins | .error _ => false))

/-- Every group with what it is ready for now. -/
def findReady (s : State) : State :=
  let at_ (r : Runner) (lane : Bool) : Bool := (focus r.id { s with agenda := [], lane := lane }).any (issues lane)
  let f (r : Runner) : Runner := if r.isHost then r else { r with l := { r.l with ready := (at_ r false, at_ r true) } }
  if s.runners.all Runner.isHost then s else { s with me := f s.me, others := s.others.map f }

/-! ## Turns -/

/-- The stream in focus has its turn: behind another group of its core it does nothing (R411), an attempt that is due for
its validation has that first (spec/09_transactions.md R284). -/
def streamTurn (s : State) : Host.Outcome State Fault Refusal :=
  let lane := s.lane && !s.me.isHost
  if behindOthers lane s then .next s
  else
    match validationDue s with
    | some k => .next (validateNow k s)
    | none => stepFocus { s with me := s.me.served lane }

/-- The events that ask which groups are ready. -/
def asksReady : Instr → Bool
  | .producerPreemption .. | .issuePromotion .. => true
  | _ => false

/-- The head of the agenda (log entry 5), or the stream in focus. -/
def turn (s : State) : Host.Outcome State Fault Refusal :=
  match s.agenda with
  | [] => streamTurn s
  | .run who lane :: rest =>
    match focus who { s with agenda := rest, lane := lane } with
    | some t => streamTurn t
    | none => .next { s with agenda := rest }
  | .event i :: rest =>
    let t := { s with agenda := rest }
    if isEvent i then exec i (if asksReady i then findReady t else t) else .fault .notAnEvent
  | .pass core host fabric :: rest => .next (passClocks core host fabric (findReady { s with agenda := rest }))
  | .passHall hall core ns :: rest => .next (passHall hall core ns (findReady { s with agenda := rest }))
  | .evict k :: rest => .next (evictTlb k { s with agenda := rest })
  | .perform k :: rest => .next (performWrite k { s with agenda := rest })
  | .cacheCode who pa :: rest => .next (cacheCode who pa { s with agenda := rest })
  | .dropCode who pa :: rest => .next (dropCode who pa { s with agenda := rest })
  | .line e k :: rest => .next (performLine e k { s with agenda := rest })
  | .work op skip n :: rest => .next (workSome op skip n { s with agenda := rest })
  | .upset who :: rest => .next (upsetGroup who { s with agenda := rest })
  | .bar0 port off v :: rest => .next (bar0Write port off v { s with agenda := rest })
  | .remoteWrite slot pa comp bs :: rest => .next (remoteWrite slot pa comp bs { s with agenda := rest })
  | .remoteRead pa n :: rest => .next (remoteRead pa n { s with agenda := rest })
  | .noteCode h pa :: rest => .next (noteCode h pa { s with agenda := rest })
  | .land port :: rest => .next (landNext port { s with agenda := rest })
  | .missBeat stack :: rest => .next (missBeat stack { s with agenda := rest })
  | .silent pkg on :: rest => .next (setSilent pkg on { s with agenda := rest })
  | .portModes m :: rest => .next (resetPackage m { s with agenda := rest })

/-- One step: a turn, and what follows every turn. -/
def step (s : State) : Host.Outcome State Fault Refusal :=
  match turn s with
  | .next t => .next (settleStep s t)
  | r => r

/-- `s` with one instruction stored where `step` takes its next one from: a lead word at the program counter of the
runner in focus, a clause header at slot 0 of a lane code section at address 0, any other slot as the next of a clause
in progress. For a lane slot a group comes into focus, since a host core has no lanes. Log entry 5. -/
def State.withFetchWord (s : State) (nbits w : Nat) : State :=
  if nbits ≤ 64 then
    let pa := match translate s s.me s.me.pc with
      | .ok t => t.pa
      | .error _ => s.me.pc.toNat
    let t := placeBytes pa (leBytes 8 (w % 2 ^ nbits)) s
    { t with agenda := [], lane := false, me := { t.me with stopped := false, ints := [], wait := .none } }
  else
    let slot := BitVec.ofNat 96 w
    let clause := bits slot 92 4 == 15
    let r := laneStand s
    let t := if clause then placeBytes 0 (leBytes 192 w) s else s
    let me : Runner :=
      { r with
        ctx := if clause then 0 else r.ctx
        status := if clause then setBit r.status 6 false else r.status
        grid := if clause then 0 else r.grid
        stopped := false
        wait := .none
        code := []
        upset := false
        l := { r.l with run := { laneStandRuns s (if clause then none else some slot) with skip := 0 } } }
    { t with
      agenda := []
      lane := true
      me := me
      others := if s.me.isHost then s.me :: s.others else s.others
      nextUid := if s.me.isHost then s.nextUid + 1 else s.nextUid }

end Sys2Proof.Machine
end

