-- ==== Sys2Proof/Safety.lean ====
section
/-! DEFINITION. The words that claims are stated in: a safe run (every step answers a next state, and every state keeps
the model's invariant), the state after a lead instruction, and a lane instruction that issues. -/

namespace Sys2Proof

open Sys2Proof.Machine

/-- The step answers a next state. -/
def Runs (s : State) : Prop := ∃ t, step s = .next t

/-- A runner's hard-wired register s0 holds 0 (spec/00_scope.md R7), and so does the copy that a transaction's snapshot
keeps of it. -/
def RunnerOk (r : Runner) : Prop := vget r.s 0 = 0 ∧ vget r.tx.snapS 0 = 0

/-- Every runner of the package: those that run, those of saved squads, those of valid checkpoints. -/
def State.everyRunner (s : State) : List Runner :=
  s.runners ++ s.saved.flatMap (·.groups) ++ s.cksaves.flatMap (·.groups)

/-- Memory keeps its canonical form. -/
def MemOk (s : State) : Prop := s.mem.wf = true

/-- s0 is 0 in every runner. -/
def HardwiredOk (s : State) : Prop := ∀ r ∈ State.everyRunner s, RunnerOk r

/-- The invariant that every step keeps. -/
def Inv (s : State) : Prop := MemOk s ∧ HardwiredOk s

/-! ## Lead instructions -/

/-- The state with the program counter after the instruction being executed, nothing else changed. -/
def onward (s : State) : State := { s with me := { s.me with pc := s.issue.next } }

/-- The state after a lead instruction that changes only the runner in focus. -/
def ends (f : Runner → Runner) (s : State) : State := { s with me := f { s.me with pc := s.issue.next } }

/-- The state after a lead instruction that changes only register d (s0 discards the value) and the program counter. -/
def writes (d : Reg) (x : Word) (s : State) : State := ends (fun r => { r with s := sregSet r.s d x }) s

/-! ## Lane instructions -/

/-- The queues that the slot's sources name, with the entries each gives (R129). -/
def laneNeeds (rule : LaneF → LRule) (s : State) : List (Nat × Nat) := (rule s.issue.slot).queues s.issue.slot

/-- A lane instruction issues and executes: some lane of its fragment is left to execute it, its fields obey its entry,
no queue is read in a handler, it stands outside a transaction or may stand in one, the group's shadow lanes agree with
its primary ones where it accesses or branches, it holds its registers, its flag can count and no register waits for a result, and its queues hold
their entries. -/
structure LaneReady (rule : LaneF → LRule) (s : State) : Prop where
  lanes : (laneCtx s).m0 &&& ~~~s.me.l.run.skip ≠ 0
  fields : (rule s.issue.slot).cause s.issue.slot (laneCtx s).cl = 0
  queues : s.me.inTrap = false ∨ laneNeeds rule s = []
  tx : ((rule s.issue.slot).tx = true ∧ laneNeeds rule s = []) ∨
    (lanesOf (laneCtx s).m0).any (fun k => s.me.attempting k) = false
  shadow : ((rule s.issue.slot).acc || (rule s.issue.slot).cmp) = false ∨ s.me.upset = false ∨ (laneCtx s).act = 0
  room : (rule s.issue.slot).topReg s.issue.slot ≤ s.me.l.count
  flag : (laneCtx s).flag.any (fun k => vget s.me.l.w k == 63) = false
  regs : interlocked s ((rule s.issue.slot).spans s.issue.slot) = false
  entries : queuesReady s (laneCtx s).cl (laneNeeds rule s)
    (if (laneCtx s).act = 0 then (laneCtx s).m0 else (laneCtx s).act) = none

/-- The context with which it executes: fragment, active lanes and sources. -/
def laneIn (rule : LaneF → LRule) (s : State) : LaneCtx :=
  (laneCtx s).withSources (rule s.issue.slot) (headEntries s (laneCtx s).cl (laneNeeds rule s)) s.me.l

/-- The state in which it executes: its queues popped, the clause at its next instruction or ended (R129, R153). -/
def laneOn (rule : LaneF → LRule) (s : State) : State :=
  (laneCtx s).advance (popQueues (laneCtx s).cl (laneNeeds rule s) s)

/-- The state with only the lane half of the group in focus changed. -/
def onLane (f : Lanes → Lanes) (s : State) : State := { s with me := { s.me with l := f s.me.l } }

end Sys2Proof
end

