-- ==== Sys2Proof/Certificates/Slice0/Obligations.lean ====
section
/-! DEFINITION. The statements for the provers. `Sys2Proof.Claims` holds the words they share. -/

namespace Sys2Proof.Claims

open Sys2Proof Sys2Proof.Machine

/-! ## Lead register forms -/

/-- A form with two sources whose result at either width is f: W = 0 works on 64 bits, W = 1 on the low 32 bits with
the result sign-extended; only d and the program counter change. -/
def RegForm (i : Bool → Reg → Reg → Reg → Instr) (f : ∀ n, BitVec n → BitVec n → BitVec n) : Prop :=
  ∀ (s : State) (d a b : Reg),
    exec (i false d a b) s = .next (writes d (f 64 (s.me.sreg a) (s.me.sreg b)) s) ∧
    exec (i true d a b) s = .next
      (writes d ((f 32 ((s.me.sreg a).setWidth 32) ((s.me.sreg b).setWidth 32)).signExtend 64) s)

/-- The same for a form that accepts a SAT prefix, where it has none. -/
def SatFreeForm (i : Bool → Reg → Reg → Reg → Instr) (f : ∀ n, BitVec n → BitVec n → BitVec n) : Prop :=
  ∀ (s : State) (d a b : Reg), s.issue.sat = none →
    exec (i false d a b) s = .next (writes d (f 64 (s.me.sreg a) (s.me.sreg b)) s) ∧
    exec (i true d a b) s = .next
      (writes d ((f 32 ((s.me.sreg a).setWidth 32) ((s.me.sreg b).setWidth 32)).signExtend 64) s)

/-- A form with one source. -/
def UnaryForm (i : Bool → Reg → Reg → Instr) (f : ∀ n, BitVec n → BitVec n) : Prop :=
  ∀ (s : State) (d a : Reg),
    exec (i false d a) s = .next (writes d (f 64 (s.me.sreg a)) s) ∧
    exec (i true d a) s = .next (writes d ((f 32 ((s.me.sreg a).setWidth 32)).signExtend 64) s)

/-- An exact integer clamped to n bits, signed. -/
def clampSigned (n : Nat) (x : Int) : BitVec n := BitVec.ofInt n (max (-(2 : Int) ^ (n - 1)) (min ((2 : Int) ^ (n - 1) - 1) x))

/-- An exact integer clamped to n bits, unsigned. -/
def clampUnsigned (n : Nat) (x : Int) : BitVec n := BitVec.ofInt n (max 0 (min ((2 : Int) ^ n - 1) x))

/-- What a form on n-bit operands A and B writes under SAT payload 01 or 10: the exact g of the operands read signed or
unsigned, clamped to the signed or unsigned range. g also takes the pattern of B, for counts. -/
def satResult (g : Int → Int → Nat → Int) (unsigned : Bool) (n : Nat) (x y : BitVec n) : BitVec n :=
  if unsigned then clampUnsigned n (g x.toNat y.toNat y.toNat) else clampSigned n (g x.toInt y.toInt y.toNat)

/-- A form with two sources under a SAT prefix. -/
def SatForm (i : Bool → Reg → Reg → Reg → Instr) (g : Nat → Int → Int → Nat → Int) : Prop :=
  ∀ (s : State) (d a b : Reg) (u : Bool), s.issue.sat = some (if u then 2 else 1) →
    exec (i false d a b) s = .next (writes d (satResult (g 64) u 64 (s.me.sreg a) (s.me.sreg b)) s) ∧
    exec (i true d a b) s = .next
      (writes d ((satResult (g 32) u 32 ((s.me.sreg a).setWidth 32) ((s.me.sreg b).setWidth 32)).signExtend 64) s)

/-- A form with one source and an immediate whose exact value under a SAT prefix is g of the source. -/
def SatImmForm (i : Bool → Reg → Reg → Instr) (g : Int → Int) : Prop :=
  ∀ (s : State) (d a : Reg) (u : Bool), s.issue.sat = some (if u then 2 else 1) →
    exec (i false d a) s = .next (writes d (satResult (fun x _ _ => g x) u 64 (s.me.sreg a) 0) s) ∧
    exec (i true d a) s = .next
      (writes d ((satResult (fun x _ _ => g x) u 32 ((s.me.sreg a).setWidth 32) 0).signExtend 64) s)

/-- A form with one source that accepts a SAT prefix, where it has none. -/
def SatFreeImmForm (i : Bool → Reg → Reg → Instr) (f : ∀ n, BitVec n → BitVec n) : Prop :=
  ∀ (s : State) (d a : Reg), s.issue.sat = none →
    exec (i false d a) s = .next (writes d (f 64 (s.me.sreg a)) s) ∧
    exec (i true d a) s = .next (writes d ((f 32 ((s.me.sreg a).setWidth 32)).signExtend 64) s)

/-! ## Branches -/

/-- The word at an address can be fetched as code: its page is mapped and permits it, the marks of the page need not wait, and
no error or outside answer is in the way. -/
def CodeAt (s : State) (a : Word) (t : Tr) : Prop :=
  probe s s.me a 4 Need.code = .ok t ∧ poisoned s t.pa 4 = false ∧ answeredOutside s t.pa = false ∧
    markReady s s.me t false = true

/-- The state after that fetch: page and translation marked, conflicting host transactions ended, the request counted; at an
address that nothing maps BADADDR counts. -/
def fetched (t : Tr) (s : State) : State :=
  let m := markAccess s s.me t false
  if poolOf t.pa = .unmapped then badAddr m
  else countRange (touch m (some s.me.id) false false t.pa 4) t.pa 4

/-- The word fetched; an address that nothing maps reads 0 (R480). -/
def codeWordAt (t : Tr) (s : State) : W32 :=
  if poolOf t.pa = .unmapped then 0 else codeBytes s ((keyId s t.key).getD 0) t.pa

/-- The words at an address are ws, and reading them one after another as code leaves the state u. -/
def ReadsWords : List W32 → Word → State → State → Prop
  | [], _, s, u => u = s
  | w :: ws, a, s, u => ∃ t, CodeAt s a t ∧ codeWordAt t s = w ∧ ReadsWords ws (a + 4) (fetched t s) u

/-- The state after a branch: the link, if there is one, holds the address after the branch, and the program counter
the target. -/
def branched (link : Option Reg) (target : Word) (t : Tr) (s : State) : State :=
  let u := fetched t (onward s)
  { u with me := { u.me with
      s := match link with
        | some d => sregSet u.me.s d s.issue.next
        | none => u.me.s
      pc := target } }

/-- The branches of R96 with their link, target and condition: P holds of each. -/
def EveryBranch (P : Instr → Option Reg → (State → Word) → (State → Bool) → Prop) : Prop :=
  let rel (o : Word) (s : State) : Word := s.issue.pc + 4 * o
  let on (a b : Reg) (p : Word → Word → Bool) (s : State) : Bool := p (s.me.sreg a) (s.me.sreg b)
  (∀ o, P (.b o) none (rel (o.signExtend 64)) fun _ => true) ∧
  (∀ o, P (.bLong o) none (rel (o.signExtend 64)) fun _ => true) ∧
  (∀ o, P (.bl o) (some 63) (rel (o.signExtend 64)) fun _ => true) ∧
  (∀ o, P (.blLong o) (some 63) (rel (o.signExtend 64)) fun _ => true) ∧
  (∀ a, P (.br a) none (fun s => s.me.sreg a) fun _ => true) ∧
  (∀ a, P (.ret a) none (fun s => s.me.sreg a) fun _ => true) ∧
  (∀ d a, P (.blr d a) (some d) (fun s => s.me.sreg a) fun _ => true) ∧
  (∀ a b o, P (.beq a b o) none (rel (o.signExtend 64)) (on a b fun x y => x == y)) ∧
  (∀ a b o, P (.bne a b o) none (rel (o.signExtend 64)) (on a b fun x y => x != y)) ∧
  (∀ a b o, P (.blt a b o) none (rel (o.signExtend 64)) (on a b fun x y => x.slt y)) ∧
  (∀ a b o, P (.bge a b o) none (rel (o.signExtend 64)) (on a b fun x y => y.sle x)) ∧
  (∀ a b o, P (.bltn a b o) none (rel (o.signExtend 64)) (on a b fun x y => x.ult y)) ∧
  (∀ a b o, P (.bgen a b o) none (rel (o.signExtend 64)) (on a b fun x y => y.ule x)) ∧
  (∀ a b o, P (.beqLong a b o) none (rel (o.signExtend 64)) (on a b fun x y => x == y)) ∧
  (∀ a b o, P (.bneLong a b o) none (rel (o.signExtend 64)) (on a b fun x y => x != y)) ∧
  (∀ a b o, P (.bltLong a b o) none (rel (o.signExtend 64)) (on a b fun x y => x.slt y)) ∧
  (∀ a b o, P (.bgeLong a b o) none (rel (o.signExtend 64)) (on a b fun x y => y.sle x)) ∧
  (∀ a b o, P (.bltnLong a b o) none (rel (o.signExtend 64)) (on a b fun x y => x.ult y)) ∧
  (∀ a b o, P (.bgenLong a b o) none (rel (o.signExtend 64)) (on a b fun x y => y.ule x)) ∧
  (∀ a o, P (.bz a o) none (rel (o.signExtend 64)) (on a 0 fun x _ => x == 0)) ∧
  (∀ a o, P (.bnz a o) none (rel (o.signExtend 64)) (on a 0 fun x _ => x != 0)) ∧
  (∀ a o, P (.bzLong a o) none (rel (o.signExtend 64)) (on a 0 fun x _ => x == 0)) ∧
  (∀ a o, P (.bnzLong a o) none (rel (o.signExtend 64)) (on a 0 fun x _ => x != 0))

/-! ## Lead memory -/

/-- A lead access of n bytes at a passes the checks of R107 and R194: mapped and permitted, no registered range in the way of
its bytes on either page, aligned. -/
def LeadReach (s : State) (a : Word) (n : Nat) (need : Need) (t : Tr) : Prop :=
  probe s s.me a n need = .ok t ∧ spanHit s s.me a t n need.wr = false ∧ a.toNat % n = 0

/-- Outside a transaction, with no uncorrectable error among what it reads, it reaches memory that answers in the package. -/
def LeadAccess (s : State) (a : Word) (n : Nat) (need : Need) (t : Tr) : Prop :=
  LeadReach s a n need t ∧ (need.rd = true → poisoned s t.pa n = false) ∧ (poolOf t.pa).isMemory = true ∧
    answeredOutside s t.pa = false

/-- Or it reaches a device register of the package (R482). -/
def DeviceAccess (s : State) (a : Word) (n : Nat) (need : Need) (t : Tr) : Prop :=
  LeadReach s a n need t ∧ (need.rd = true → poisoned s t.pa n = false) ∧ poolOf t.pa = .device ∧
    packageOf t.pa = s.pkg.toNat

/-- The state after a plain read of n bytes of memory: page and translation marked, conflicting host transactions
ended, the request counted where sampling is on. -/
def readDone (t : Tr) (n : Nat) (s : State) : State :=
  countRange (touch (markAccess s s.me t false) (some s.me.id) true false t.pa n) t.pa n

/-- What the runner sees in n bytes once they have been read, as a number. -/
def dieSees (t : Tr) (n : Nat) (s : State) : Nat :=
  leNat (viewRead (readDone t n s) (some s.me.id) s.me.die ((keyId s t.key).getD 0) t.pa n)

/-- Answers from outside the package that an instruction of a stream of the runner has used are spent. -/
def spent (who : RunnerId) (lane : Bool) (s : State) : State :=
  if s.outb.isEmpty then s
  else
    let t := outSpend who (.instr lane) s
    { t with me := { t.me with wait := if lane = false ∧ t.me.wait = .answer then .none else t.me.wait } }

/-- Scope and order in force: those of the ORD prefix, relaxed at system scope without one (R59). -/
def orderOf (s : State) : Nat × Nat :=
  match s.issue.ord with
  | some o => ((bits o 3 3).toNat, (bits o 0 3).toNat)
  | none => (7, 0)

/-- The release part of an order at a scope has taken effect (R241). -/
def releasedAt (scope order : Nat) (s : State) : State := if hasRelease order then releaseState scope s else s

/-- It need wait neither for the holder of the fallback lock nor for an answer to a ticketed load. -/
def CanReleaseAt (scope order : Nat) (s : State) : Prop :=
  hasRelease order = true → (5 ≤ scope → dieLocked s s.me.id s.me.die = false) ∧
    ticketsReadable s (fun e => e.who == s.me.id) = true

/-- What order sc asks of the runner's earlier sc accesses at a scope has happened (R241). -/
def scAt (scope order : Nat) (s : State) : State := if order = 4 then scState scope s else s

/-- It need not wait. -/
def CanScAt (scope order : Nat) (s : State) : Prop :=
  order = 4 → (5 ≤ scope → dieLocked s s.me.id s.me.die = false) ∧
    ticketsReadable s (fun e => e.who == s.me.id && e.sc) = true

/-- The release part of the order in force has taken effect (R241). -/
def released (s : State) : State := releasedAt (orderOf s).1 (orderOf s).2 s

@[inherit_doc CanReleaseAt] def CanRelease (s : State) : Prop := CanReleaseAt (orderOf s).1 (orderOf s).2 s

/-- What the order in force asks of earlier sc accesses has happened. -/
def scNow (s : State) : State := scAt (orderOf s).1 (orderOf s).2 s

@[inherit_doc CanScAt] def CanSc (s : State) : Prop := CanScAt (orderOf s).1 (orderOf s).2 s

/-- A lead store to memory: the bytes accepted on the die at t.pa, after the page is marked. -/
def storeDone (t : Tr) (bs : List Byte) (s : State) : State :=
  acceptBytes (leadAgent s) t.pa t.key t.comp bs (markAccess s ((leadAgent s).runner s) t true)

/-- The issuer's ticketed loads of n bytes have performed (R229). -/
def ownLoadsDone (t : Tr) (n : Nat) (s : State) : State :=
  performTickets (fun e => e.who == s.me.id && meets e.src e.len t.pa n) s

/-- A lead atomic need not wait: its bytes can be accepted, its page marked, and what its die writes back can arrive. -/
def CanAtomic (t : Tr) (n : Nat) (s : State) : Prop :=
  let s1 := ownLoadsDone t n s
  storeReady s (leadAgent s) t.pa n = true ∧ markReady s1 ((leadAgent s).runner s1) t true = true ∧
    sectorsLocked s1 (some s.me.id) s.me.die t.pa n = false

/-- The state in which a lead atomic reads its old value at the home: the issuer's ticketed loads of those bytes have
performed, the page is marked, and the die has written back its sector. -/
def atomicReady (t : Tr) (n : Nat) (s : State) : State :=
  let s1 := ownLoadsDone t n s
  drainSectors (markAccess s1 ((leadAgent s).runner s1) t true) (some s.me.id) s.me.die t.pa n

/-- The old value that the atomic reads. -/
def atomicOld (t : Tr) (n : Nat) (s : State) : Nat :=
  leNat (homeRead (atomicReady t n s) ((keyId s t.key).getD 0) t.pa n)

/-- The state once the new value of a lead atomic stands at the home. -/
def atomicStored (t : Tr) (n new : Nat) (s : State) : State :=
  spent s.me.id false (arrive (atomicReady t n s) ((leadAgent s).write t.pa (leBytes n new) ((keyId s t.key).getD 0) t.comp))

/-- The state after a lead atomic: register d holds the old value, and the team's interval is no longer clean. -/
def atomicDone (d : Reg) (old : Word) (s : State) : State :=
  let u := markDirty s
  { u with me := { u.me with s := sregSet u.me.s d old } }

/-- An atomic on 8 or 4 bytes whose new value is f of the width, the old value, the operand and the compare value; a
4-byte old value is extended as `signed` says. -/
def AtomicForm (i : Bool → Reg → Reg → Reg → Instr) (signed : Bool) (f : ∀ n, BitVec n → BitVec n → BitVec n → BitVec n) : Prop :=
  ∀ (s : State) (w4 : Bool) (d a b : Reg) (t : Tr),
    let n := if w4 then 4 else 8
    let w := 8 * n
    let q := released (onward s)
    LeadAccess (onward s) (s.me.sreg a) n Need.both t → s.me.tx.active = false → CanRelease (onward s) →
    answeredOutside q t.pa = false → CanAtomic t n q →
    let old : BitVec w := BitVec.ofNat w (atomicOld t n q)
    let u := atomicStored t n (f w old ((s.me.sreg b).setWidth w) ((s.me.sreg d).setWidth w)).toNat q
    q.me.tx.active = false → u.me.tx.active = false →
    exec (i w4 d a b) s = .next (atomicDone d (if signed then old.signExtend 64 else old.setWidth 64) u)

/-- P holds of each lead atomic, whether its 4-byte old value is sign-extended and its operation (R247, R248). -/
def EveryAtomic (P : (Bool → Reg → Reg → Reg → Instr) → Bool → (∀ n, BitVec n → BitVec n → BitVec n → BitVec n) → Prop) : Prop :=
  P .aadd true (fun _ x y _ => x + y) ∧ P .asub true (fun _ x y _ => x - y) ∧
  P .amin true (fun _ x y _ => if x.sle y then x else y) ∧ P .amax true (fun _ x y _ => if y.sle x then x else y) ∧
  P .aminn false (fun _ x y _ => if x.ule y then x else y) ∧ P .amaxn false (fun _ x y _ => if y.ule x then x else y) ∧
  P .aand true (fun _ x y _ => x &&& y) ∧ P .aor true (fun _ x y _ => x ||| y) ∧ P .axor true (fun _ x y _ => x ^^^ y) ∧
  P .axchg true (fun _ _ y _ => y) ∧ P .acas true (fun _ x y c => if x = c then y else x) ∧
  P .afadd false fun n x y _ =>
    let f := if n = 64 then Fmt.f64 else Fmt.f32
    BitVec.ofNat n (f.encode 0 ((f.decode x.toNat).add 0 (f.decode y.toNat)))

/-! ## Transactional accesses -/

/-- What a transactional access must not find missing: its target is memory of the package. -/
def OwnMemory (s : State) (t : Tr) : Prop := packageOf t.pa = s.pkg.toNat ∧ (poolOf t.pa).isMemory = true

/-- Lines that a transactional read of the lead stream takes from memory: those of bytes not in its own write buffer. -/
def txFresh (t : Tr) (n : Nat) (s : State) : List Nat := freshLines s.me.tx.wbuf t.pa n

/-- The state in which it reads them at their homes: the page marked, the die's sectors written back (R249), conflicting host
transactions ended (R280). -/
def txHome (t : Tr) (n : Nat) (s : State) : State :=
  countRange (touch (drainSectors (markAccess s s.me t false) (some s.me.id) s.me.die t.pa n) (some s.me.id) false false t.pa n)
    t.pa n

/-- The bytes at home, with their addresses. -/
def txHomeBytes (t : Tr) (n : Nat) (s : State) : List (Nat × Byte) :=
  (List.range n).map fun i => (t.pa + i, homeByte (txHome t n s) ((keyId s t.key).getD 0) (t.pa + i))

/-- What it reads: each byte as the attempt itself wrote it last, else as it is at home (R275). -/
def txSees (t : Tr) (n : Nat) (s : State) : Nat :=
  leNat ((txHomeBytes t n s).map fun p => (bufByte s.me.tx.wbuf p.1).getD p.2)

/-- The state after it: the bytes that came from memory stand in the read log. -/
def txReadDone (t : Tr) (n : Nat) (s : State) : State :=
  if txFresh t n s = [] then markAccess s s.me t false
  else
    let u := txHome t n s
    { u with me := { u.me with tx := { u.me.tx with
        rlog := u.me.tx.rlog ++ (txHomeBytes t n s).filter fun p => (bufByte s.me.tx.wbuf p.1).isNone
        keys := noteKeys u.me.tx.keys (txFresh t n s) ((keyId s t.key).getD 0) t.comp } } }

/-- The state after a transactional write: its bytes stand in the buffer, the latest first, and nowhere else. -/
def txWriteDone (t : Tr) (bs : List Byte) (s : State) : State :=
  let u := markAccess s s.me t true
  { u with me := { u.me with tx := { u.me.tx with
      wbuf := (bs.zipIdx.map fun p => (t.pa + p.2, p.1)).reverse ++ u.me.tx.wbuf
      keys := noteKeys u.me.tx.keys (linesOf t.pa bs.length) ((keyId s t.key).getD 0) t.comp } } }

/-- How a read of a lead transaction can end it: a line that the holder of the fallback lock has written is a conflict (R288);
the read set may grow to 64 lines of a group, or to 8 lines in a set of a host core's L1 (R285). -/
def TxReadFits (t : Tr) (n : Nat) (s : State) : Prop :=
  ((txFresh t n s).any fun l => (holderWrote s s.me.id).contains l) = false ∧ markReady s s.me t false = true ∧
    (txFresh t n s ≠ [] → leadCapacity s.me (txFresh t n s) false = false ∧
      sectorsLocked s (some s.me.id) s.me.die t.pa n = false)

/-- The same for a write: 32 lines of a group. -/
def TxWriteFits (t : Tr) (n : Nat) (s : State) : Prop :=
  (s.me.isHost && lockedOut s (some s.me.id) t.pa n) = false ∧ leadCapacity s.me (linesOf t.pa n) true = false ∧
    markReady s s.me t true = true

/-- A form that reads n bytes in a transaction traps REMOTE_HOME beyond its package, and ends the attempt with TX_ILLEGAL_OP
(0x52) where the address is no memory, with a conflict at a line of the holder's, and with TX_CAPACITY (0x54) past the size of
its read set. -/
def TxReadEnds (i : Instr) (ea : Word) (t : Tr) (n : Nat) (s : State) : Prop :=
  let q := onward s
  (packageOf t.pa ≠ s.pkg.toNat → exec i s = .next (leadTrap 0x27 ea s.issue.pc s)) ∧
  (packageOf t.pa = s.pkg.toNat → (poolOf t.pa).isMemory = false → exec i s = .next (abortFinal 0x52 0 s)) ∧
  (OwnMemory s t → ((txFresh t n q).any fun l => (holderWrote q q.me.id).contains l) = true →
    exec i s = .next (abortConflict s)) ∧
  (OwnMemory s t → ((txFresh t n q).any fun l => (holderWrote q q.me.id).contains l) = false → markReady q q.me t false = true →
    txFresh t n q ≠ [] → leadCapacity q.me (txFresh t n q) false = true → exec i s = .next (abortFinal 0x54 0 s))

/-- The same for a write that follows in state q. -/
def TxWriteEnds (i : Instr) (ea : Word) (t : Tr) (n : Nat) (s q : State) : Prop :=
  let met := s.me.isHost && lockedOut q (some q.me.id) t.pa n
  (packageOf t.pa ≠ s.pkg.toNat → exec i s = .next (leadTrap 0x27 ea s.issue.pc s)) ∧
  (packageOf t.pa = s.pkg.toNat → (poolOf t.pa).isMemory = false → exec i s = .next (abortFinal 0x52 0 s)) ∧
  (OwnMemory s t → met = true → exec i s = .next (abortConflict s)) ∧
  (OwnMemory s t → met = false → leadCapacity q.me (linesOf t.pa n) true = true → exec i s = .next (abortFinal 0x54 0 s))

/-- An access of a lead transaction that passes its checks: an uncorrectable error counts only in bytes that its own buffer
does not hold. -/
def TxAccess (s : State) (a : Word) (n : Nat) (need : Need) (t : Tr) : Prop :=
  LeadReach s a n need t ∧ (need.rd = true → freshPoisoned s s.me.tx.wbuf t.pa n = false) ∧
    (need.rd = true → (s.me.wait == .timedOut && answeredOutside s t.pa) = false)

/-! ## Lane instructions -/

/-- A lane instruction with the given field rule that issues has the given effect, on the state in which its queues are
popped and its clause has moved on. -/
def LaneForm (i : Instr) (rule : LaneF → LRule) (eff : LaneCtx → State → State) : Prop :=
  ∀ s : State, LaneReady rule s → exec i s = .next (eff (laneIn rule s) (laneOn rule s))

/-- The effect that writes a register of `bits` bits, a pair for 64, in the lanes of active(M) and nothing else. -/
def writesLanes (bits : LaneCtx → Nat) (g : LaneCtx → State → Nat → Nat) (c : LaneCtx) (s : State) : State :=
  onLane (Lanes.writeRes (bits c) c.f.d.toNat c.act (g c s)) s

/-! ## Traps -/

/-- A host core may change its context: its outbound writes have been accepted, its ticketed loads can be read, and its
accepted writes can arrive (R429). -/
def CanSwitch (s : State) : Prop :=
  outboundIdle s = true ∧ ticketsReadable s (fun e => e.who == s.me.id) = true ∧
    arriveLocked s (fun w => w.who == s.me.id) = false

/-- A transaction set aside begins again where the runner returns (R290). -/
def beginsAgain (r : Runner) : Bool := r.txHeld.any fun x => x.1 == r.ctx && x.2.resume == r.epc

/-- Before it does, the runner's earlier accesses are performed at package scope (R279). -/
def backAt (s : State) : State := if beginsAgain s.me then releaseState 5 s else s

/-- They need not wait. -/
def CanGoBack (s : State) : Prop := beginsAgain s.me = true → CanReleaseAt 5 3 s

/-- Bit k of STATUS after a trap (R427, R432, R439). -/
def trapBit (host : Bool) (old : Word) (k : Nat) : Bool :=
  if k = 0 ∨ k = 6 then true
  else if k = 1 then old.getLsbD 0
  else if k = 5 then host && old.getLsbD 4
  else if k = 4 ∨ k = 7 then false
  else old.getLsbD k

/-- Bit k of STATUS after a return (R435, R436). -/
def returnBit (host : Bool) (old : Word) (k : Nat) : Bool :=
  if k = 0 then old.getLsbD 1
  else if k = 6 then false
  else if k = 4 ∧ host = true then old.getLsbD 5
  else old.getLsbD k

/-! ## Tickets -/

/-- A redemption with the ticket in s[a] that takes sizes which `fits` holds of, once its destination has been checked:
refused with its code in the status register of a quiet form, else with a trap; a READY entry is delivered at once and
SPENT, a poisoned one is a fatal cause, and a PENDING one is claimed and holds the stream. `prep` marks the pages of the
destination, which `marks` says need not wait. FAULTADDR of poisoned data is the ticket, the model's choice (log entry 109). -/
def Redeems (i : Instr) (a : Reg) (sq : Option Reg) (fits : Nat → Bool) (prep : State → State) (marks : State → Bool)
    (dest : State → Deliver) (ready : State → Prop) : Prop :=
  ∀ s : State, s.me.ctx ≠ 0 → s.me.tx.active = false → ready (onward s) →
    let q := onward s
    let t := s.me.sreg a
    (∀ c, checkRedeem q t fits = .error c → exec i s = .next (match sq with
      | some r => writes r (BitVec.ofNat 64 c) s
      | none => leadTrap c t s.issue.pc s)) ∧
    ∀ e, checkRedeem q t fits = .ok e → marks q = true → deliveryBlocked q q.me.id (dest q) = false →
      (e.st = .ready → e.poison = false → exec i s = .next (deliverNow e (dest q) (markDirty (prep q)))) ∧
      (e.st = .ready → e.poison = true → exec i s = .next (leadTrap 0xA1 t s.issue.pc (spendCloak e (markDirty s)))) ∧
      (e.st = .pending → exec i s = .next
        { claimCloak e (dest q) (markDirty (prep s)) with me := { s.me with wait := .redeem } })

/-- The landing that a REDEEML names: the team of the group and the offset that passes the checks. -/
def LandsAt (a d : Reg) (s : State) (team : Team) (off : Nat) : Prop :=
  let n := 2 ^ (ticketSize (s.me.sreg a) + 3)
  s.me.isHost = false ∧ myTeam s = some team ∧ landCheck s team (s.me.sreg d).toInt n (min n 64) true = .ok off

/-- The memory that a REDEEML names through translation register x: the pieces of its range, checked as a store is. -/
def StoresAt (a d : Reg) (x : BitVec 3) (s : State) (l : List (Tr × Nat)) : Prop :=
  let n := 2 ^ (ticketSize (s.me.sreg a) + 3)
  xbPieces s s.me (vget s.me.xb x.toNat) (s.me.sreg d).toInt n Need.write = .ok l ∧
    piecesLocked s s.me.part l true = false ∧ (s.me.sreg d).toInt % (min n 64 : Nat) = 0

/-- Pages marked as written. -/
def markPieces (l : List (Tr × Nat)) (s : State) : State := l.foldl (fun s p => markAccess s s.me p.1 true) s

/-- Those pages can be marked now. -/
def piecesReady (l : List (Tr × Nat)) (s : State) : Bool := l.all fun p => markReady s s.me p.1 true

/-- Where those bytes go. -/
def memDest (l : List (Tr × Nat)) (sq : Option Reg) (s : State) : Deliver :=
  .mem (l.map fun p => (p.1.pa, p.2, p.1.key, p.1.comp)) sq s.issue.next

/-! ## Copies -/

/-- A side of a copy of k bytes passes its checks: memory (kind 0) at an address, translated and permitted, its key
usable; or a landing. -/
def Side (c : Copier) (q : State) (k kind : Nat) (v : Word) (nd : Need) (ad : Word) (f : Found) : Prop :=
  (kind = 0 ∧ (c.operand v k).run q = .ok (ad, q) ∧ ∃ ps, c.portions q ad k nd = .ok ps ∧
    (∀ p ∈ ps, keyFault q p.t = false) ∧ f = ⟨ps, memLocs q ps, none⟩) ∨
  (kind ≠ 0 ∧ ad = v ∧ ∃ t o, (scratchSide kind v k).run q = .ok ((t, o), q) ∧
    f = ⟨[], [(.land t.uid o t.modes, k)], some (t, o)⟩)

/-- A plan of at most 64 ranges finds room in the tables and at its porter, in a partition that has not halted: there it is
queued. -/
def Queued (p : Plan) (q u : State) : Prop :=
  p.ranges.length ≤ 64 ∧ canIssue q p = true ∧ porterLoad q (pickPorter q) < 32 ∧ u = queueOp (some (pickPorter q)) 0 p q

/-- A CPYL issues: of no bytes it only joins the open set. -/
def IssuesCpyl (c : Copier) (s : State) (d a n : Word) (dk sk : Nat) (raw : Bool) (u : State) : Prop :=
  let q := releasedAt c.scope c.order s
  let k := n.toNat
  s.me.openOps.length < 64 ∧ ((n = 0 ∧ u = joinOpen s) ∨
    (n ≠ 0 ∧ k ≤ 2 ^ 24 ∧ CanReleaseAt c.scope c.order s ∧ ∃ da sa f g, Side c q k dk d Need.write da f ∧
      Side c q k sk a Need.read sa g ∧
      (raw = true → da.toNat % 256 = 0 ∧ sa.toNat % 256 = 0 ∧ k % 256 = 0 ∧ rawCause q f.mem g.mem = none) ∧
      overlapAt da f g = none ∧
      Queued ⟨f.mem, g.mem, sideRanges f.mem g.mem, landPlan f g k, .copy (movesOf f.locs (srcsOf g.locs)) raw⟩ q u))

/-- A CPYF issues. -/
def IssuesCpyf (c : Copier) (s : State) (d pat n : Word) (dk : Nat) (u : State) : Prop :=
  let q := releasedAt c.scope c.order s
  let k := n.toNat
  s.me.openOps.length < 64 ∧ ((n = 0 ∧ u = joinOpen s) ∨
    (n ≠ 0 ∧ k ≤ 2 ^ 24 ∧ CanReleaseAt c.scope c.order s ∧ ∃ da f, Side c q k dk d Need.write da f ∧
      da.toNat % 8 = 0 ∧ k % 8 = 0 ∧
      Queued ⟨f.mem, [], sideRanges f.mem [], (f.land.map fun p => landRange p.1 p.2 k true).toList,
        .copy (movesOf f.locs [(.pat pat, k)]) false⟩ q u))

/-- The tile of a copy under the record w, with its rows, is queued: rows of memory against the tile in scratch, and for a
load zeros for what lies outside the tensor. -/
def IssuesTile (q : State) (d : Word) (w : Nat) (rows : List TileRow) (mz st : Bool) (u : State) : Prop :=
  let span := (layBox w 1 * layBox w 2 * layBox w 3 - 1) * layPitch w + layBox w 0 * laySize w
  layPitch w * layBox w 1 * layBox w 2 * layBox w 3 ≤ 2 ^ 22 ∧ d.toNat % 8 = 0 ∧
    ∃ t o rs, (scratchSide (if mz then 2 else 1) d span).run q = .ok ((t, o), q) ∧
      rowPortions q (if st then Need.write else Need.read) (sortBy (·.va.toNat) (rows.filter fun r => r.n != 0)) = .ok rs ∧
      (∀ p ∈ rs.flatMap (·.2), keyFault q p.t = false) ∧
      let ps := rs.flatMap (·.2)
      let tile := Loc.land t.uid o t.modes
      let dst := if st then ps else []
      let src := if st then [] else ps
      Queued ⟨dst, src, sideRanges dst src, [landRange t o span (!st)],
        .copy (tileMoves q w st tile rows rs) false⟩ q u

/-- A CPYT issues: its record, read as a load reads, obeys R301; the answers that its reads took from outside are spent. -/
def IssuesCpyt (c : Copier) (s : State) (d a coords : Word) (mz st : Bool) (u : State) : Prop :=
  let q := releasedAt c.scope c.order s
  s.me.openOps.length < 64 ∧ CanReleaseAt c.scope c.order s ∧ ∃ va bs q1, (c.operand a 64).run q = .ok (va, q) ∧
    (c.load va 64 64).run q = .ok (bs, q1) ∧ layoutBad false coords (leNat bs) = false ∧
    ∃ v, IssuesTile q1 d (leNat bs) (tileRows (leNat bs) coords) mz st v ∧ u = spent v.me.id c.lane v

/-- A CPYG issues: its record obeys R301 and every listed row lies in the tensor. -/
def IssuesCpyg (c : Copier) (s : State) (d a b : Word) (mz st : Bool) (u : State) : Prop :=
  let q := releasedAt c.scope c.order s
  s.me.openOps.length < 64 ∧ CanReleaseAt c.scope c.order s ∧ ∃ va la bs ls q1 q2, (c.operand a 64).run q = .ok (va, q) ∧
    (c.load va 64 64).run q = .ok (bs, q1) ∧ layoutBad true 0 (leNat bs) = false ∧
    let w := leNat bs
    let n := layBox w 1
    (c.operand b (4 * n)).run q1 = .ok (la, q1) ∧ (c.load la (4 * n) 4).run q1 = .ok (ls, q2) ∧
      (∀ t ∈ wordsOf 4 n ls, t < layDim w 1) ∧
      ∃ v, IssuesTile q2 d w (gatherRows w (wordsOf 4 n ls)) mz st v ∧ u = spent v.me.id c.lane v

/-- A lead copy form that issues has the effect of its issue. -/
def LeadCopy (i : Instr) (scratch : Bool) (v : Bool) (x : BitVec 3) (issues : Copier → State → State → Prop) : Prop :=
  ∀ s u : State, (scratch = true → s.me.isHost = false) → s.me.ctx ≠ 0 → s.me.tx.active = false →
    [0, 2, 4].contains (orderOf s).2 = true →
    issues ⟨false, if v then some (vget s.me.xb x.toNat) else none, (orderOf s).1, (orderOf s).2⟩ (onward s) u →
    exec i s = .next u

/-- A lane copy form issues in its leader lane, the lowest of active(M); with none it has no effect (R297). -/
def LaneCopy (i : Instr) (rule : LaneF → LRule) (issues : LaneF → Copier → State → Word → Word → Word → State → Prop) : Prop :=
  ∀ s : State, LaneReady rule s →
    let c := laneIn rule s
    let q := laneOn rule s
    (lowestLane c.act = none → exec i s = .next q) ∧
    ∀ k u, lowestLane c.act = some k →
      issues c.f ⟨true, if c.f.c.getLsbD 7 then some (runXb q c.f.xbn) else none, c.f.scope, c.f.order⟩ q
        (BitVec.ofNat 64 (regRaw q.me.l .pair c.f.d k) + BitVec.ofInt 64 c.f.off)
        (BitVec.ofNat 64 (c.a k)) (BitVec.ofNat 64 (c.b k)) u → exec i s = .next u

/-! ## Key pages -/

/-- What a lead usher form reaches its operands with. -/
def usherCopier (v : Bool) (x : BitVec 3) (s : State) : Copier :=
  ⟨false, if v then some (vget s.me.xb x.toNat) else none, 7, 0⟩

/-- A lead usher form may issue. -/
def CanUsher (s : State) : Prop := s.me.ctx ≠ 0 ∧ s.me.tx.active = false ∧ s.me.openOps.length < 64

/-- The address v names a page that KSUMM takes: an aligned 16 KiB block of the package's own HBM4 or LPDDR-6, in an
uncompressed page of 16 KiB or more. -/
def KeyPageAt (c : Copier) (q : State) (v : Word) (p : Portion) : Prop :=
  ∃ va p0 l, (c.operand v 16384).run q = .ok (va, q) ∧ c.portions q va 1 Need.read = .ok (p0 :: l) ∧
    (∀ y ∈ p0 :: l, keyFault q y.t = false) ∧ p = { p0 with n := 16384 } ∧ packageOf p.t.pa = q.pkg.toNat ∧
    va.toNat % 16384 = 0 ∧ p.t.pa % 16384 = 0 ∧ p.t.comp = false ∧ 2 ≤ p.t.size ∧
    (poolOf p.t.pa = .hbm ∨ poolOf p.t.pa = .lpddr)

/-- A plan finds room in the tables and at an usher: there it is queued. -/
def AtUsher (n : Nat) (p : Plan) (q u : State) : Prop :=
  canIssue q p = true ∧ usherLoad q n < 16 ∧ u = queueOp none n p q

/-- A build of a page's block is queued, in a format or with 0 in the one that it has. -/
def BuildQueued (p : Portion) (fmt : Nat) (q u : State) : Prop :=
  AtUsher (usherAt p.t.pa) ⟨[], [p], [pageRange p.va p.t.pa], [], .build (p.t.pa / 16384) fmt ((keyId q p.t.key).getD 0)⟩ q u

/-- A plan that reads lists at issue is queued, and the answers that its reads took from outside are spent. -/
def SpentAtUsher (n : Nat) (p : Plan) (q u : State) : Prop := ∃ v, AtUsher n p q v ∧ u = spent v.me.id false v

/-- The usher's destination of n bytes at `a`, aligned to `al`: its portions. -/
def UsherDst (c : Copier) (q : State) (a : Word) (n al : Nat) (ds : List Portion) : Prop :=
  c.portions q a n Need.write = .ok ds ∧ (∀ p ∈ ds, keyFault q p.t = false) ∧ a.toNat % al = 0

/-! ## Matrix operations -/

/-- It stands in its core's queue, and with a flag counts there. -/
def queuedMatrix (t : Team) (kind : MKind) (tiles : List Nat) (ver : Nat) (flag : Option Nat) (q : State) : State :=
  { q with mops := q.mops ++ [⟨t.core, t.uid, q.me.id, kind, tiles.headD 0, tiles, ver, flag, false, q.me.inTrap, []⟩] }

/-- An operation of the team that is queued or running expects a version of one of the tiles (R336). -/
def versionTaken (q : State) (t : Team) (tiles : List Nat) (ver : Nat) : Bool :=
  q.mops.any fun m => m.team == t.uid && m.ver == ver && m.tiles.any fun k => tiles.contains k

/-- The checks of R336 and the queue of 16 (R337) at issue, on tiles of the team: version 0xFFFF and a version that is
past trap, a full queue makes the issuer wait where it stands, and otherwise the operation is queued and the issuer goes
on with `after`. -/
def IssuesMatrix (i : Instr) (s q : State) (t : Team) (kind : MKind) (tiles : List Nat) (ver : Nat) (flag : Option Nat)
    (trap : Nat → State) (after : State → State) : Prop :=
  (∀ k ∈ tiles, k < t.tiles) →
    (ver = 0xFFFF → exec i s = .next (trap 0x61)) ∧
    (ver ≠ 0xFFFF → (∃ k ∈ tiles, ver < vget t.vers k) ∨ versionTaken q t tiles ver = true → exec i s = .next (trap 0x64)) ∧
    (ver ≠ 0xFFFF → (∀ k ∈ tiles, vget t.vers k ≤ ver) → versionTaken q t tiles ver = false →
      ((q.mops.filter fun m => m.core == t.core).length < 16 →
        exec i s = .next (after (queuedMatrix t kind tiles ver flag q))) ∧
      (16 ≤ (q.mops.filter fun m => m.core == t.core).length → exec i s = .next s))

/-- The flag of a lane instruction counts one operation more (R154). -/
def flagged (c : LaneCtx) (q : State) : State :=
  match c.flag with
  | some k => onLane (Lanes.flagUp k) q
  | none => q

/-- A lead form of a group's team that names tile t: outside a transaction, of a team that holds it. -/
def HasTile (s : State) (team : Team) (k : Nat) : Prop :=
  s.me.isHost = false ∧ s.me.tx.active = false ∧ myTeam s = some team ∧ k < team.tiles

/-! ## Lane control -/

/-- The effect that writes mask register k: bit l where lane l is in active(M) and the test holds, 0 elsewhere. -/
def writesMask (k : LaneCtx → Nat) (p : LaneCtx → State → Nat → Bool) (c : LaneCtx) (s : State) : State :=
  onLane (fun l => { l with m := vset l.m (k c) (maskOf ((lanesOf c.act).filter (p c s))) }) s

/-- Mask register k as a fragment reads it: m0 is its own mask (R157). -/
def maskSeen (c : LaneCtx) (s : State) (k : BitVec 8) (j : Nat) : Bool :=
  (if k = 0 then c.m0 else vget s.me.l.m k.toNat).getLsbD j

/-- The fields of MAND and MOR, or of MNOT. -/
def maskRule (two : Bool) (f : LaneF) : LRule :=
  { ctlRule with
    m := true, d := .other, a := .other, b := if two then .other else .none
    also := maskField f.d && f.d != 0 && maskField f.a && maskField f.b }

/-- The clause ends and the fragment goes on at a slot. -/
def goesOn (c : LaneCtx) (slot : Nat) (s : State) : State := onLane (Lanes.endClause c.age slot) s

/-- A barrier form parks its fragment past the clause and settles the barrier, unless a checkpoint that the arrival makes due
has to wait; in a handler, and beside a fragment that stands at another barrier, it traps. -/
def BarrierForm (i : Instr) (x : Nat) (st : LaneF → FragSt) (same : LaneF → FragSt → Bool) : Prop :=
  ∀ s : State, LaneReady (fun _ => { flowRule with x := x }) s →
    let c := laneIn (fun _ => { flowRule with x := x }) s
    let q := laneOn (fun _ => { flowRule with x := x }) s
    let u := onLane (fun l => { l with run := l.run.park c.age (st c.f) }) (goesOn c c.after q)
    (q.me.inTrap = true → exec i s = .next (stopLane (laneCtx s) [] (.frag 0xB5 0) s)) ∧
    (q.me.inTrap = false → (q.me.l.run.frags.any fun y => y.st != .runnable && !same c.f y.st) = false →
      ((ckDue u q.me.team && ckBusy u q.me.team) = false →
        exec i s = .next (settleSquad (((myTeam q).map (·.squad)).getD 0) (settleTeam q.me.team u))) ∧
      ((ckDue u q.me.team && ckBusy u q.me.team) = true → exec i s = .next s)) ∧
    (q.me.inTrap = false → (q.me.l.run.frags.any fun y => y.st != .runnable && !same c.f y.st) = true →
      exec i s = .next (stopLane (laneCtx s) [] (.frag 0x06 (slotAddr q c.slot)) s))

/-! ## Lane arithmetic -/

/-- A source pattern read in an integer or bit type: its low n bits, sign-extended for .i types (R131). -/
def laneVal (t x : Nat) : Int := if tySigned t then (BitVec.ofNat (tyBits t) x).toInt else (BitVec.ofNat (tyBits t) x).toNat

/-- What an exact integer result writes (R131): reduced or, with SAT, clamped to the range of the type, then extended to
32 bits by the sign of the type. -/
def laneRes (t : Nat) (sat : Bool) (x : Int) : Nat :=
  let n := tyBits t
  let r : BitVec n := if sat then (if tySigned t then clampSigned n x else clampUnsigned n x) else BitVec.ofInt n x
  if tySigned t ∧ n < 32 then (r.signExtend 32).toNat else r.toNat

/-- An integer form: lane by lane, the exact result g of its sources read in its type, given with the type's width. -/
def LaneInt (i : Instr) (rule : LaneF → LRule) (g : Nat → Int → Int → Int → Int) : Prop :=
  LaneForm i rule (writesLanes (fun c => tyBits c.f.t) fun c _ k =>
    laneRes c.f.t c.f.sat (g (tyBits c.f.t) (laneVal c.f.t (c.a k)) (laneVal c.f.t (c.b k)) (laneVal c.f.t (c.c k))))

/-- A bitwise form on patterns of the type's width; SAT is 0 there. -/
def LaneBits (i : Instr) (rule : LaneF → LRule) (g : ∀ n, BitVec n → BitVec n → BitVec n) : Prop :=
  LaneForm i rule (writesLanes (fun c => tyBits c.f.t) fun c _ k =>
    let n := tyBits c.f.t
    laneRes c.f.t c.f.sat (g n (BitVec.ofNat n (c.a k)) (BitVec.ofNat n (c.b k))).toNat)

/-- A form on floats: lane by lane, the pattern g of the format, the rounding mode and the sources' patterns. -/
def LaneFlt (i : Instr) (rule : LaneF → LRule) (g : Fmt → Nat → Nat → Nat → Nat → Nat) : Prop :=
  LaneForm i rule (writesLanes (fun c => tyBits c.f.t) fun c _ k =>
    let n := tyBits c.f.t
    g (tyFmt c.f.t) c.f.rm.toNat (c.a k % 2 ^ n) (c.b k % 2 ^ n) (c.c k % 2 ^ n))

/-- A form of one float source. -/
def LaneFlt1 (i : Instr) (ok : Nat → Bool) (g : Fmt → Nat → FVal → Nat) : Prop :=
  LaneFlt i (fltRule ok false false false true) fun f m a _ _ => g f m (f.decode a)

/-- A form of two float sources. -/
def LaneFlt2 (i : Instr) (lit : Bool) (g : Fmt → Nat → FVal → FVal → Nat) : Prop :=
  LaneFlt i (fltRule tyFloat true false lit true) fun f m a b _ => g f m (f.decode a) (f.decode b)

/-! ## Lane accesses -/

/-- The checks of the lanes of active(M) for z bytes in a space. -/
def spotChecks (c : LaneCtx) (q : State) (sp : Space) (z : Nat) (n : Need) : List (Nat × Except (Nat × Word) Spot) :=
  (lanesOf c.act).map fun k => (k, spotCheck q c.f sp k (laneOff c k) z n)

/-- Loaded values stand in their lanes' registers. -/
def loadedLanes (c : LaneCtx) (vs : List (Nat × List Byte)) (s : State) : State :=
  onLane (fun l => vs.foldl (fun l x => l.putLoad c.f.t c.f.d.toNat x.1 x.2) l) s

/-- The lanes whose places are ps load from q, after what their order asks: what they load, and the state. -/
def LoadsFrom (c : LaneCtx) (q : State) (z : Nat) (ps : List (Nat × Spot)) (t : State) : Prop :=
  let q1 := if inAttempt c q then q else scAt c.f.scope c.f.order q
  (inAttempt c q = false → CanScAt c.f.scope c.f.order q) ∧
  ∃ r u, (eachLane (fun k p => laneRead (laneAgent q1 0) k z p) ps).run q1 = .ok (r, u) ∧
    t = leaveLanes c.age r.2 (loadedLanes c r.1 (spent q1.me.id true u))

/-- The lanes whose places are ps store into q, after the release part of the order: the lanes in order, the count in the
flag where writes have still to arrive, what order sc asks after. Inside an attempt only the stores happen. -/
def StoresTo (c : LaneCtx) (q : State) (z : Nat) (arrives : Bool) (ps : List (Nat × Spot)) (t : State) : Prop :=
  let tx := inAttempt c q
  let q1 := if tx then q else releasedAt c.f.scope c.f.order q
  (tx = false → CanReleaseAt c.f.scope c.f.order q) ∧
  ∃ r u v, (eachLane (fun k p => laneWrite (laneAgent q1 (if arrives && !tx then storeNo c c.f.scope q1 else 0)) k
      (laneData q1.me.l c.f.d.toNat k z) p) ps).run q1 = .ok (r, u) ∧
    (if arrives && !tx then storeIssued c c.f.scope else pure ()).run u = .ok ((), v) ∧
    (tx = false → CanScAt c.f.scope c.f.order v) ∧ t = leaveLanes c.age r.2 (if tx then v else scAt c.f.scope c.f.order v)

/-- A load of a space: every lane of active(M) that has a cause stops it, else all load. -/
def LaneLoad (i : Instr) (sp : Space) (rule : LaneF → LRule) : Prop :=
  ∀ s : State, LaneReady rule s →
    let c := laneIn rule s
    let q := laneOn rule s
    let z := accessSize c.f.t c.f.quad
    let l := spotChecks c q sp z Need.read
    (laneErrors l ≠ [] → exec i s = .next (stopLane (laneCtx s) (laneNeeds rule s) (.lanes (laneErrors l) .kept) s)) ∧
    ∀ t, laneErrors l = [] → LoadsFrom c q z (laneOks l) t → exec i s = .next t

/-- A store to a space. -/
def LaneStore (i : Instr) (sp : Space) (rule : LaneF → LRule) : Prop :=
  ∀ s : State, LaneReady rule s →
    let c := laneIn rule s
    let q := laneOn rule s
    let z := accessSize c.f.t c.f.quad
    let l := spotChecks c q sp z Need.write
    (laneErrors l ≠ [] → exec i s = .next (stopLane (laneCtx s) (laneNeeds rule s) (.lanes (laneErrors l) .kept) s)) ∧
    ∀ t, laneErrors l = [] → StoresTo c q z (sp == .mem) (laneOks l) t → exec i s = .next t

/-- A lane atomic: the new value of each lane, in the order of the lanes, is f of the width, the old value, the operand
and the compare value, mod the width; the old values are loaded. -/
def LaneAtomic (i : Instr) (ok : Nat → Bool) (f : Nat → Nat → Nat → Nat → Nat) : Prop :=
  ∀ s : State, LaneReady (atomicRule ok) s →
    let c := laneIn (atomicRule ok) s
    let q := laneOn (atomicRule ok) s
    let n := tyBits c.f.t
    let z := n / 8
    let sp := atomicSpace c.f
    let tx := inAttempt c q
    let l := (lanesOf c.act).map fun k => (k, spotCheck q c.f sp k (c.f.offset (sextN 32 (c.a k))) z Need.both)
    let q1 := if tx then q else releasedAt c.f.scope c.f.order q
    (laneErrors l ≠ [] →
      exec i s = .next (stopLane (laneCtx s) (laneNeeds (atomicRule ok) s) (.lanes (laneErrors l) .kept) s)) ∧
    ∀ r u, laneErrors l = [] → (tx = false → CanReleaseAt c.f.scope c.f.order q) →
      (eachLane (fun k p => laneAtomic (laneAgent q 0) k z
        (fun o => f n o (c.b k % 2 ^ n) (leNat (laneData q.me.l c.f.d.toNat k z)) % 2 ^ n) p) (laneOks l)).run q1 = .ok (r, u) →
      let t := loadedLanes c (r.1.map fun x => (x.1, leBytes z x.2)) (spent q.me.id true u)
      let v := if tx || !(sp == .mem || sp == .atrium) then t else markDirty t
      (tx = false → CanScAt c.f.scope c.f.order v) →
      exec i s = .next (leaveLanes c.age r.2 (if tx then v else scAt c.f.scope c.f.order v))

end Sys2Proof.Claims

open Sys2Proof Sys2Proof.Machine Sys2Proof.Claims

/-- R88, R89, R94: the sum, difference, product, bitwise and shift forms without a SAT prefix. SHL, SHR, SAR and ROT
take their count modulo the width. -/
def Obligations.LeadArithmetic : Prop :=
  SatFreeForm .add (fun _ x y => x + y) ∧ SatFreeForm .sub (fun _ x y => x - y) ∧
  SatFreeForm .mul (fun _ x y => x * y) ∧ (∀ f, SatFreeForm (.addx f) fun n x y => x + y * BitVec.ofNat n (2 ^ f.toNat)) ∧
  SatFreeForm .shl (fun n x y => x <<< (y.toNat % n)) ∧ RegForm .shr (fun n x y => x >>> (y.toNat % n)) ∧
  RegForm .sar (fun n x y => x.sshiftRight (y.toNat % n)) ∧ RegForm .rot (fun n x y => x.rotateRight (y.toNat % n)) ∧
  RegForm .and (fun _ x y => x &&& y) ∧ RegForm .or (fun _ x y => x ||| y) ∧ RegForm .xor (fun _ x y => x ^^^ y) ∧
  RegForm .andn (fun _ x y => x &&& ~~~y)

/-- R88: under SAT payload 01 the exact signed result is clamped to the signed range, under payload 10 the exact result
of unsigned operands to the unsigned range; ADDI adds its immediate at its signed value in both. -/
def Obligations.LeadSaturation : Prop :=
  SatForm .add (fun _ x y _ => x + y) ∧ SatForm .sub (fun _ x y _ => x - y) ∧ SatForm .mul (fun _ x y _ => x * y) ∧
  (∀ f, SatForm (.addx f) fun _ x y _ => x + y * 2 ^ f.toNat) ∧ SatForm .shl (fun n x _ c => x * 2 ^ (c % n)) ∧
  (∀ i : BitVec 10, SatImmForm (fun w d a => .addi w d a i) fun x => x + i.toInt) ∧
  (∀ c : BitVec 6, SatImmForm (fun w d a => .shli w d a c) fun x => x * 2 ^ c.toNat) ∧
  ∀ (i : BitVec 39) (s : State) (d a : Reg) (u : Bool), s.issue.sat = some (if u then 2 else 1) →
    exec (.addiLong d a i) s = .next (writes d (satResult (fun x _ _ => x + i.toInt) u 64 (s.me.sreg a) 0) s)

/-- R89, R90: the high halves of the signed and unsigned products, and division, whose corners raise no cause: a divisor
of 0 gives all ones and leaves the dividend as the remainder, and the most negative dividend by −1 gives itself and 0. -/
def Obligations.LeadProductsAndQuotients : Prop :=
  RegForm .mulh (fun n x y => BitVec.ofInt n (x.toInt * y.toInt / 2 ^ n)) ∧
  RegForm .mulhn (fun n x y => BitVec.ofNat n (x.toNat * y.toNat / 2 ^ n)) ∧
  RegForm .div (fun n x y => if y = 0 then BitVec.allOnes n else x.sdiv y) ∧
  RegForm .divn (fun n x y => if y = 0 then BitVec.allOnes n else x / y) ∧
  RegForm .rem (fun _ x y => if y = 0 then x else x.srem y) ∧
  RegForm .remn (fun _ x y => if y = 0 then x else x % y) ∧
  (BitVec.intMin 64).sdiv (-1) = BitVec.intMin 64 ∧ (BitVec.intMin 64).srem (-1) = 0 ∧
  (BitVec.intMin 32).sdiv (-1) = BitVec.intMin 32 ∧ (BitVec.intMin 32).srem (-1) = 0

/-- R89, R91, R92: minima and maxima, bit counts, sign and zero extension from bit p, SEL by the old value of d, CMP with
its ten conditions, and the bit field forms. -/
def Sys2Proof.Claims.LeadSelection : Prop :=
  RegForm .min (fun _ x y => if x.toInt ≤ y.toInt then x else y) ∧
  RegForm .max (fun _ x y => if x.toInt ≤ y.toInt then y else x) ∧
  RegForm .minn (fun _ x y => if x.toNat ≤ y.toNat then x else y) ∧
  RegForm .maxn (fun _ x y => if x.toNat ≤ y.toNat then y else x) ∧
  UnaryForm .clz (fun _ x => x.clz) ∧ UnaryForm .ctz (fun _ x => x.ctz) ∧ UnaryForm .popc (fun _ x => x.cpop) ∧
  (∀ (s : State) (d a : Reg) (p : BitVec 6),
    exec (.sext d a p) s = .next (writes d (((s.me.sreg a).setWidth (p.toNat + 1)).signExtend 64) s) ∧
    exec (.zext d a p) s = .next (writes d (((s.me.sreg a).setWidth (p.toNat + 1)).setWidth 64) s)) ∧
  (∀ (s : State) (d a b : Reg),
    exec (.sel false d a b) s = .next (writes d (if s.me.sreg d ≠ 0 then s.me.sreg a else s.me.sreg b) s) ∧
    exec (.sel true d a b) s = .next (writes d
      (((if (s.me.sreg d).setWidth 32 ≠ 0#32 then s.me.sreg a else s.me.sreg b).setWidth 32).signExtend 64) s)) ∧
  (∀ (s : State) (c : BitVec 4) (w : Bool) (d a b : Reg), c.toNat < 10 →
    let x : Word := if w then ((s.me.sreg a).setWidth 32).signExtend 64 else s.me.sreg a
    let y : Word := if w then ((s.me.sreg b).setWidth 32).signExtend 64 else s.me.sreg b
    exec (.cmp c w d a b) s = .next (writes d
      (if [x == y, x != y, x.slt y, !x.slt y, x.sle y, !x.sle y, x.ult y, !x.ult y, x.ule y, !x.ule y].getD c.toNat false
        then 1 else 0) s)) ∧
  ∀ (s : State) (d a : Reg) (u q : BitVec 6), q.toNat + u.toNat ≤ 63 →
    exec (.bfx d a u q) s = .next (writes d ((s.me.sreg a).extractLsb' q.toNat (u.toNat + 1) |>.setWidth 64) s) ∧
    ∃ x : Word, exec (.bfi d a u q) s = .next (writes d x s) ∧ ∀ k < 64, x.getLsbD k =
      if q.toNat ≤ k ∧ k ≤ q.toNat + u.toNat then (s.me.sreg a).getLsbD (k - q.toNat) else (s.me.sreg d).getLsbD k

/-- R93, R95: the immediate forms without a SAT prefix, short and long, and the constants. ADDI sign-extends its
immediate, the bitwise forms zero-extend theirs; ADDPC counts words from the instruction's own address. -/
def Sys2Proof.Claims.LeadImmediates : Prop :=
  (∀ i : BitVec 10, SatFreeImmForm (fun w d a => .addi w d a i) fun n x => x + i.signExtend n) ∧
  (∀ c : BitVec 6, SatFreeImmForm (fun w d a => .shli w d a c) fun _ x => x <<< c.toNat) ∧
  (∀ i : BitVec 10, UnaryForm (fun w d a => .andi w d a i) fun n x => x &&& i.setWidth n) ∧
  (∀ i : BitVec 10, UnaryForm (fun w d a => .ori w d a i) fun n x => x ||| i.setWidth n) ∧
  (∀ i : BitVec 10, UnaryForm (fun w d a => .xori w d a i) fun n x => x ^^^ i.setWidth n) ∧
  (∀ c : BitVec 6, UnaryForm (fun w d a => .shri w d a c) fun _ x => x >>> c.toNat) ∧
  (∀ c : BitVec 6, UnaryForm (fun w d a => .sari w d a c) fun _ x => x.sshiftRight c.toNat) ∧
  ∀ (s : State) (d a : Reg),
    (∀ i : BitVec 39,
      (s.issue.sat = none → exec (.addiLong d a i) s = .next (writes d (s.me.sreg a + i.signExtend 64) s)) ∧
      exec (.andiLong d a i) s = .next (writes d (s.me.sreg a &&& i.setWidth 64) s) ∧
      exec (.oriLong d a i) s = .next (writes d (s.me.sreg a ||| i.setWidth 64) s) ∧
      exec (.xoriLong d a i) s = .next (writes d (s.me.sreg a ^^^ i.setWidth 64) s)) ∧
    (∀ i : BitVec 32, exec (.sethi d i) s = .next (writes d (i ++ (s.me.sreg d).setWidth 32) s)) ∧
    (∀ i : BitVec 45, exec (.li d i) s = .next (writes d (i.signExtend 64) s) ∧
      exec (.addpcLong d i) s = .next (writes d (s.issue.pc + 4 * i.signExtend 64) s)) ∧
    ∀ i : BitVec 16, exec (.addpc d i) s = .next (writes d (s.issue.pc + 4 * i.signExtend 64) s)

/-- R89, R91 to R93, R95: selections, counts, fields and comparisons, and the immediate forms. -/
def Obligations.LeadSelectionAndImmediates : Prop :=
  LeadSelection ∧ LeadImmediates
/-- R96, R97: a taken branch fetches the word at its target, and where that word may start an instruction sequence (its
E bit is set) the link is written and the program counter moves there. -/
def Sys2Proof.Claims.BranchTaken : Prop :=
  EveryBranch fun i link target taken => ∀ (s : State) (t : Tr), taken s = true → (target s).toNat % 4 = 0 →
    CodeAt (onward s) (target s) t → (codeWordAt t (onward s)).getLsbD 29 = true →
    exec i s = .next (branched link (target s) t s)

/-- R97: a branch whose condition fails only moves past itself; its target is not read. -/
def Sys2Proof.Claims.BranchNotTaken : Prop :=
  EveryBranch fun i _ _ taken => ∀ s : State, taken s = false → exec i s = .next (onward s)

/-- R97: a taken branch traps MISALIGNED at a target that is no multiple of 4, the translation's cause where its fetch
fails, and ENTRY_MARK at a word without E bit, always with the target as FAULTADDR and the branch as EPC. -/
def Sys2Proof.Claims.BranchTraps : Prop :=
  EveryBranch fun i _ target taken => ∀ s : State, taken s = true →
    ((target s).toNat % 4 ≠ 0 → exec i s = .next (leadTrap 0x24 (target s) s.issue.pc s)) ∧
    ((target s).toNat % 4 = 0 →
      (∀ c, probe (onward s) (onward s).me (target s) 4 Need.code = .error c →
        exec i s = .next (leadTrap c (target s) s.issue.pc s)) ∧
      ∀ t, CodeAt (onward s) (target s) t → (codeWordAt t (onward s)).getLsbD 29 = false →
        exec i s = .next (leadTrap 0x04 (target s) s.issue.pc s))

/-- R96, R97: the branches, taken, not taken and trapping. -/
def Obligations.Branches : Prop :=
  BranchTaken ∧ BranchNotTaken ∧ BranchTraps
/-- R99 to R102: the scalar floating-point forms read the low bits of their registers in the format of their major,
round once in the mode of the RND prefix (rne without one), and write the pattern with zeros above it. FMA adds the old
value of d; FMIN and FMAX take the other operand beside one NaN; a comparison writes 1 or 0. -/
def Sys2Proof.Claims.LeadFloat : Prop :=
  ∀ (s : State) (t : BitVec 2) (d a b : Reg),
    let f := [Fmt.f64, Fmt.f32, Fmt.f16, Fmt.bf16].getD t.toNat Fmt.f64
    let m := (s.issue.rnd.map BitVec.toNat).getD 0
    let v (r : Reg) : FVal := f.decode ((s.me.sreg r).toNat % 2 ^ f.width)
    let gives (x : Nat) : Result := .next (writes d (BitVec.ofNat 64 x) s)
    exec (.fadd t d a b) s = gives (f.encode m ((v a).add m (v b))) ∧
    exec (.fsub t d a b) s = gives (f.encode m ((v a).add m (v b).neg)) ∧
    exec (.fmul t d a b) s = gives (f.encode m ((v a).mul (v b))) ∧
    exec (.fdiv t d a b) s = gives (f.div m (v a) (v b)) ∧
    exec (.fsqrt t d a) s = gives (f.sqrt m (v a)) ∧
    exec (.fma t d a b) s = gives (f.encode m (((v a).mul (v b)).add m (v d))) ∧
    exec (.fmin t d a b) s = gives (f.minmax false ((s.me.sreg a).toNat % 2 ^ f.width) ((s.me.sreg b).toNat % 2 ^ f.width)) ∧
    exec (.fmax t d a b) s = gives (f.minmax true ((s.me.sreg a).toNat % 2 ^ f.width) ((s.me.sreg b).toNat % 2 ^ f.width)) ∧
    exec (.fmov t d a) s = gives ((s.me.sreg a).toNat % 2 ^ f.width) ∧
    exec (.fcmpEq t d a b) s = gives (if (v a).eq (v b) then 1 else 0) ∧
    exec (.fcmpLt t d a b) s = gives (if (v a).lt (v b) then 1 else 0) ∧
    exec (.fcmpLe t d a b) s = gives (if (v a).le (v b) then 1 else 0) ∧
    exec (.fcmpUn t d a b) s = gives (if (v a).isNan || (v b).isNan then 1 else 0)

/-- R103: FCVT by the four cases of its table; an integer result fills the register, extended by its type's sign. -/
def Sys2Proof.Claims.LeadConversion : Prop :=
  ∀ (s : State) (d a : Reg) (dt st : BitVec 4), fcvtType dt = true → fcvtType st = true →
    let m := (s.issue.rnd.map BitVec.toNat).getD 0
    let sat := s.issue.sat.isSome
    let n := tyBits dt.toNat
    let signed := tySigned dt.toNat
    let raw := (s.me.sreg a).toNat
    let val := (tyFmt st.toNat).decode (raw % 2 ^ tyBits st.toNat)
    let int := if tySigned st.toNat then sextN (tyBits st.toNat) raw else ((raw % 2 ^ tyBits st.toNat : Nat) : Int)
    exec (.fcvt d a dt st) s = .next (writes d (
      if tyFloat dt.toNat then
        BitVec.ofNat 64 ((tyFmt dt.toNat).encode m (if tyFloat st.toNat then val else FVal.ofInt int 0 false))
      else
        let x := if tyFloat st.toNat then toIntType m sat signed n val
          else (BitVec.ofInt n (if sat then clampI (rangeOf signed n).1 (rangeOf signed n).2 int else int)).toNat
        if signed then (BitVec.ofNat n x).signExtend 64 else (BitVec.ofNat n x).setWidth 64) s)

/-- R13: rounding to nearest is right. For an exact magnitude m × 2^e rounded to p bits with last place 2^q, the result
M × 2^q is within half a last place of it, even at the midpoint, and needs no more than p bits but for a carry out. -/
def Obligations.RoundToNearest : Prop :=
  ∀ (p : Nat) (qmin : Int) (neg : Bool) (m : Nat) (e : Int), 0 < p →
    let r := roundMag p qmin 0 neg m e false
    let unit : Int := 2 ^ (r.2 - e).toNat
    qmin ≤ r.2 ∧ r.1 ≤ 2 ^ p ∧
      (r.2 ≤ e → r.1 = m * 2 ^ (e - r.2).toNat) ∧
      (e < r.2 → 2 * |(r.1 : Int) * unit - m| ≤ unit ∧ (2 * |(r.1 : Int) * unit - m| = unit → r.1 % 2 = 0))

/-- R99 to R103: the scalar floating-point forms and the conversion. -/
def Obligations.LeadFloatForms : Prop :=
  LeadFloat ∧ LeadConversion
/-- R104, R107, R241: a load outside a transaction whose access passes its checks writes the bytes at its effective address,
base plus size times offset, sign- or zero-extended, once what order sc asks before it has happened; the state is otherwise
that after the read. -/
def Sys2Proof.Claims.MemoryLoads : Prop :=
  ∀ (s : State) (z : BitVec 2) (d a : Reg) (t : Tr), s.me.tx.active = false → CanSc (onward s) →
    let n := 2 ^ z.toNat
    let ea (off : Word) : Word := s.me.sreg a + BitVec.ofNat 64 n * off
    let q := scNow (onward s)
    let r := spent q.me.id false (readDone t n q)
    let loads (x : Word) : Result := .next { r with me := { r.me with s := sregSet r.me.s d x } }
    let signed : Word := (BitVec.ofNat (8 * n) (dieSees t n q)).signExtend 64
    let zero : Word := BitVec.ofNat 64 (dieSees t n q)
    q.me.tx.active = false → answeredOutside q t.pa = false → markReady q q.me t false = true →
    (∀ o : BitVec 10, LeadAccess (onward s) (ea (o.signExtend 64)) n Need.read t →
      exec (.ld z d a o) s = loads signed ∧ exec (.ldN z d a o) s = loads zero) ∧
    ∀ o : BitVec 39, LeadAccess (onward s) (ea (o.signExtend 64)) n Need.read t →
      exec (.ldLong z d a o) s = loads signed ∧ exec (.ldNLong z d a o) s = loads zero

/-- R482: a load of a device register of the package reads the register whole as one aligned access of 8 bytes, and 0 as any
other, after its issuer's earlier writes to targets outside have been accepted. -/
def Sys2Proof.Claims.DeviceLoads : Prop :=
  ∀ (s : State) (z : BitVec 2) (d a : Reg) (t : Tr), s.me.tx.active = false → CanSc (onward s) →
    let n := 2 ^ z.toNat
    let ea (off : Word) : Word := s.me.sreg a + BitVec.ofNat 64 n * off
    let q := scNow (onward s)
    let r := spent q.me.id false (markAccess q q.me t false)
    let v : Word := if n = 8 ∧ t.pa % 8 = 0 then devRead q (t.pa % 65536) else 0
    let done : Result := .next { r with me := { r.me with s := sregSet r.me.s d v } }
    q.me.tx.active = false → packageOf t.pa = q.pkg.toNat → deviceReady q s.me.id t.pa = true → markReady q q.me t false = true →
    (∀ o : BitVec 10, DeviceAccess (onward s) (ea (o.signExtend 64)) n Need.read t →
      exec (.ld z d a o) s = done ∧ exec (.ldN z d a o) s = done) ∧
    ∀ o : BitVec 39, DeviceAccess (onward s) (ea (o.signExtend 64)) n Need.read t →
      exec (.ldLong z d a o) s = done ∧ exec (.ldNLong z d a o) s = done

/-- R104, R107, R241, R482: loads of memory and of device registers. -/
def Obligations.LeadLoads : Prop :=
  MemoryLoads ∧ DeviceLoads

/-- R104, R241: a store outside a transaction: its release part, then the low bytes of s[d] accepted at the effective
address, then what order sc asks, which every later access waits for. -/
def Sys2Proof.Claims.MemoryStores : Prop :=
  ∀ (s : State) (z : BitVec 2) (d a : Reg) (t : Tr), s.me.tx.active = false → CanRelease (onward s) →
    let n := 2 ^ z.toNat
    let ea (off : Word) : Word := s.me.sreg a + BitVec.ofNat 64 n * off
    let q := released (onward s)
    let u := storeDone t (leBytes n (s.me.sreg d).toNat) q
    q.me.tx.active = false → u.me.tx.active = false → storeReady q (leadAgent q) t.pa n = true →
    markReady q ((leadAgent q).runner q) t true = true → CanScAt (orderOf s).1 (orderOf s).2 u →
    let done := scAt (orderOf s).1 (orderOf s).2 u
    (∀ o : BitVec 10, LeadAccess (onward s) (ea (o.signExtend 64)) n Need.write t → exec (.st z d a o) s = .next done) ∧
    ∀ o : BitVec 39, LeadAccess (onward s) (ea (o.signExtend 64)) n Need.write t → exec (.stLong z d a o) s = .next done

/-- R482: a store to a device register of the package writes the register as one aligned access of 8 bytes; as any other it
changes no register. Memory and the accepted writes are as its page's marks and its order leave them. -/
def Sys2Proof.Claims.DeviceStores : Prop :=
  ∀ (s : State) (z : BitVec 2) (d a : Reg) (t : Tr), s.me.tx.active = false → CanRelease (onward s) →
    let n := 2 ^ z.toNat
    let ea (off : Word) : Word := s.me.sreg a + BitVec.ofNat 64 n * off
    let q := released (onward s)
    let m := performTickets (fun e => e.who == q.me.id && meets e.src e.len t.pa n) (markAccess q ((leadAgent q).runner q) t true)
    let u := if n = 8 ∧ t.pa % 8 = 0 then { m with dev := devWrite (t.pa % 65536) (s.me.sreg d) m.dev } else m
    q.me.tx.active = false → u.me.tx.active = false → packageOf t.pa = q.pkg.toNat → packageOf t.pa = m.pkg.toNat →
    storeReady q (leadAgent q) t.pa n = true → markReady q ((leadAgent q).runner q) t true = true →
    CanScAt (orderOf s).1 (orderOf s).2 u →
    let done := scAt (orderOf s).1 (orderOf s).2 u
    (∀ o : BitVec 10, DeviceAccess (onward s) (ea (o.signExtend 64)) n Need.write t → exec (.st z d a o) s = .next done) ∧
    ∀ o : BitVec 39, DeviceAccess (onward s) (ea (o.signExtend 64)) n Need.write t → exec (.stLong z d a o) s = .next done

/-- R104, R241, R482: stores to memory and to device registers. -/
def Obligations.LeadStores : Prop :=
  MemoryStores ∧ DeviceStores

/-- R237: what a store to memory outside the atrium does to memory: its bytes join the accepted writes, last, not yet
performed on the issuer's die, and no byte at any home changes but those of the page entry that the access marks. -/
def Sys2Proof.Claims.StoreIsAccepted : Prop :=
  ∀ (s : State) (t : Tr) (bs : List Byte), poolOf t.pa = .hbm ∨ poolOf t.pa = .lpddr ∨ poolOf t.pa = .cxl →
    answeredOutside s t.pa = false →
    let m := markAccess s ((leadAgent s).runner s) t true
    (storeDone t bs s).mem = m.mem ∧ ∃ w : PWrite, (storeDone t bs s).pend = m.pend ++ [w] ∧
      w.die = s.me.die ∧ w.who = s.me.id ∧ w.addr = t.pa ∧ w.bytes = bs ∧ w.seen = false

/-- R237, R238: an accepted write is what its issuer reads next within its bytes, and nobody else; once performed on its
die, as the last there, it is what every agent of the die reads that has no write of its own there; elsewhere every agent
reads as before. -/
def Sys2Proof.Claims.AcceptedWriteIsSeen : Prop :=
  ∀ (s : State) (w : PWrite) (who : Option RunnerId) (die key a : Nat),
    let now := viewByte { s with pend := s.pend ++ [w] } who die key a
    let new (p : Prop) [Decidable p] : Byte :=
      if p ∧ w.addr ≤ a ∧ a < w.addr + w.bytes.length then w.bytes.getD (a - w.addr) 0 else viewByte s who die key a
    (w.seen = false → now = new (some w.who = who)) ∧
    (w.seen = true → (∀ x ∈ s.pend, x.seen = false → some x.who = who → x.covers a = false) → now = new (w.die = die))

/-- R247, R248: the lead atomics outside a transaction, by their operations on the 64-bit or 32-bit values. -/
def Obligations.LeadAtomics : Prop :=
  EveryAtomic AtomicForm

/-- R107, R248: a misaligned scalar access traps MISALIGNED (0x24) at its address, where its page is mapped and permits
it and no registered range is in the way. -/
def Obligations.MisalignedTraps : Prop :=
  ∀ (s : State) (z : BitVec 2) (d a b : Reg) (t : Tr),
    let traps (e : Word) : Result := .next (leadTrap 0x24 e s.issue.pc s)
    let misses (e : Word) (n : Nat) (need : Need) : Prop :=
      probe (onward s) (onward s).me e n need = .ok t ∧ spanHit (onward s) (onward s).me e t n need.wr = false ∧ e.toNat % n ≠ 0
    let n := 2 ^ z.toNat
    let ea (off : Word) : Word := s.me.sreg a + BitVec.ofNat 64 n * off
    (∀ o : BitVec 10, let e := ea (o.signExtend 64)
      (misses e n Need.read → exec (.ld z d a o) s = traps e ∧ exec (.ldN z d a o) s = traps e) ∧
      (misses e n Need.write → exec (.st z d a o) s = traps e)) ∧
    (∀ o : BitVec 39, let e := ea (o.signExtend 64)
      (misses e n Need.read → exec (.ldLong z d a o) s = traps e ∧ exec (.ldNLong z d a o) s = traps e) ∧
      (misses e n Need.write → exec (.stLong z d a o) s = traps e)) ∧
    EveryAtomic fun i _ _ => ∀ w4 : Bool, misses (s.me.sreg a) (if w4 then 4 else 8) Need.both →
      exec (i w4 d a b) s = traps (s.me.sreg a)

/-- R253, R254, R256, R487: FENCE performs the issuer's ticketed loads and, with a release part at package scope or wider, its
own accepted writes and those that its die sees (log entry 25); FENCE.sys does so at system scope once its outbound writes have
been accepted, and brings its writes to memory beyond the package home whatever its order; with a window it waits as well for
the writes that have reached their port through it (log entry 73). WATCH reads its word, delivers a value that differs from
s[b], and otherwise waits until WATCH_WAKE, the answer of a target outside spent. -/
def Obligations.FencesAndWatch : Prop :=
  ∀ (s : State), s.me.tx.active = false →
    (∀ sc o : BitVec 3, fenceOrder o = true → CanReleaseAt sc.toNat o.toNat (onward s) →
      exec (.fence sc o) s = .next (releasedAt sc.toNat o.toNat (onward s))) ∧
    (∀ (o : BitVec 3) (w : BitVec 6), fenceOrder o = true →
      let landedFirst := (s.landed.any fun x => x.window == w.toNat) = false
      (outboundIdle (onward s) = true → arriveLocked (onward s) (goesOut (onward s)) = false →
        CanReleaseAt 7 o.toNat (onward s) →
        let q := arriveAll (releasedAt 7 o.toNat (onward s)) (goesOut (onward s))
        exec (.fenceSys o) s = .next q ∧ (landedFirst → exec (.fenceSysWin w o) s = .next q)) ∧
      (outboundIdle (onward s) = false → exec (.fenceSys o) s = .next s ∧ exec (.fenceSysWin w o) s = .next s) ∧
      (¬landedFirst → exec (.fenceSysWin w o) s = .next s)) ∧
    (∀ (d a b : Reg) (t : Tr), LeadAccess (onward s) (s.me.sreg a) 8 Need.read t → CanSc (onward s) →
      let q := scNow (onward s)
      let r := spent q.me.id false (readDone t 8 q)
      let v : Word := BitVec.ofNat 64 (dieSees t 8 q)
      q.me.tx.active = false → answeredOutside q t.pa = false → markReady q q.me t false = true →
      (v ≠ r.me.sreg b → exec (.watch d a b) s = .next { r with me := { r.me with s := sregSet r.me.s d v } }) ∧
      (v = r.me.sreg b → exec (.watch d a b) s =
        .next (outSpend s.me.id (.instr false) { s with me := { s.me with wait := .watch } }))) ∧
    ∀ who, exec (.watchWake who) s =
      .next (s.onRunner who fun r => { r with wait := if r.wait = .watch then .none else r.wait })

/-- R237, R238: an accepted store is what its issuer reads, and what its die reads once it is performed there. -/
def Obligations.AcceptedWrites : Prop :=
  StoreIsAccepted ∧ AcceptedWriteIsSeen
/-- R108 to R112: LRUN queues a run with copies of xb0 to xb7 and MFB, LWAIT ends once its conditions hold (and D = 1 has
the lanes' stores performed), XBSET describes the page of its base, whose walk reads its entries, XBCLR clears. With a limit of 0 the fields
of XBSET that R112 does not name become 0, which is the model's choice (log entry 94). LRUN waits on a full queue and LWAIT on
an unmet condition; a host core traps ILLEGAL_OPCODE on both. -/
def Obligations.RunsAndTranslationRegisters : Prop :=
  ∀ s : State,
    (s.me.isHost = true → ∀ (t : BitVec 22) (g : Bool) (m : BitVec 12),
      exec (.lrun t) s = .next (leadTrap 0x01 s.issue.pc s.issue.pc s) ∧
      exec (.lwait g m) s = .next (leadTrap 0x01 s.issue.pc s.issue.pc s)) ∧
    (s.me.isHost = false → s.me.tx.active = false →
      (∀ t : BitVec 22,
        (s.me.l.run.runs.length < (if s.me.inTrap then 4 else 16) →
          exec (.lrun t) s = .next (ends (fun r =>
            { r with l := { r.l with run := { r.l.run with runs := r.l.run.runs ++ [⟨t.toNat, r.xb, r.l.mfb⟩] } } }) s)) ∧
        ((if s.me.inTrap then 4 else 16) ≤ s.me.l.run.runs.length → exec (.lrun t) s = .next s)) ∧
      ∀ (g : Bool) (m : BitVec 12),
        let ended : Bool := ((m == 0 && !g) || s.me.l.run.runs.isEmpty) &&
          ((List.range 12).all fun k => !m.getLsbD k || vget s.me.l.w k == 0) &&
          (!g || (laneOpsDone (onward s) && lanesIdle (onward s)))
        (ended = true → exec (.lwait g m) s = .next (if g then drainLanes (onward s) else onward s)) ∧
        (ended = false → exec (.lwait g m) s = .next s)) ∧
    ∀ (n : BitVec 3) (a b : Reg),
      let base := s.me.sreg a
      let lim := s.me.sreg b
      let sets (x : Xb) : Result := .next (ends (fun r => { r with xb := vset r.xb n.toNat x }) s)
      exec (.xbclr n) s = sets Xb.zero ∧
      (2 ^ 64 < base.toNat + lim.toNat → exec (.xbset n a b) s = .next (leadTrap 0x26 base s.issue.pc s)) ∧
      (lim = 0 → exec (.xbset n a b) s = sets { Xb.zero with base := base, v := true, ctx := s.me.ctx }) ∧
      (lim ≠ 0 → base.toNat + lim.toNat ≤ 2 ^ 64 → ∀ t, translate (onward s) (onward s).me base = .ok t →
        keyFault (onward s) t = false →
        let w := if s.me.ctx = 0 then onward s else walkReads (onward s) (onward s).me t.va
        let walked (x : Xb) : Result := .next { w with me := { w.me with xb := vset w.me.xb n.toNat x } }
        w.me.ctx = s.me.ctx → exec (.xbset n a b) s = walked
          { ctx := s.me.ctx, base := base, limit := lim, frame := BitVec.ofNat 64 t.pa,
            span := BitVec.ofNat 40 (min lim.toNat (pageBytes t.size - base.toNat % pageBytes t.size)),
            key := BitVec.ofNat 8 t.key, psize := BitVec.ofNat 4 t.size,
            v := true, comp := t.comp, sup := t.sup, wr := t.wr, rd := t.rd }) ∧
      (lim ≠ 0 → base.toNat + lim.toNat ≤ 2 ^ 64 → ∀ c, translate (onward s) (onward s).me base = .error c →
        exec (.xbset n a b) s = .next (leadTrap c base s.issue.pc s))

/-- R116 to R119: OSDEF reads its 64-byte descriptor and adds the stream it describes, with the context, partition and level
of its group; OSEND ends a stream of the squad
whose claimed bytes have been consumed, and traps STREAM_UNDEF for a name that the squad does not hold; an element read
adds one entry to the owner's queue while it is below AHEAD, or asks a target outside the package for its bytes. -/
def Obligations.OperandStreams : Prop :=
  ∀ s : State,
    (s.me.isHost = false → s.me.tx.active = false →
      (∀ (n : BitVec 5) (a : Reg) (t : Tr), LeadAccess (onward s) (s.me.sreg a) 64 Need.read t →
        markReady (onward s) (onward s).me t false = true →
        let q := spent s.me.id false (readDone t 64 (onward s))
        let word (k : Nat) : Word := BitVec.ofNat 64 (dieSees t 64 (onward s) / 2 ^ (64 * k))
        let d : Vector Word 8 := Vector.ofFn fun k : Fin 8 => word k
        (streamRefused q n.toNat d = false → exec (.osdef n a) s = .next { q with streams := q.streams ++
          [⟨myGallery q, n.toNat, mySquad q, q.me.id, q.me.ctx, q.me.part, q.me.core, q.me.sup, d,
            vget q.me.xb (slice (vget d 1) 2 0), 0, none, none, false, false, false⟩] }) ∧
        (streamRefused q n.toNat d = true → exec (.osdef n a) s = .next (leadTrap 0x63 (s.me.sreg a) s.issue.pc s))) ∧
      ∀ n : BitVec 5,
        let mine : Bool := s.streams.any fun x => x.gal == myGallery s && x.os == n.toNat && x.squad == mySquad s
        let idle : Bool := !s.subs.any fun b => b.gal == myGallery s && b.os == n.toNat && portClaims s.mops b != 0
        (mine = false → exec (.osend n) s = .next (leadTrap 0x63 0 s.issue.pc s)) ∧
        (mine = true → idle = true → exec (.osend n) s = .next (endStream (myGallery s) n.toNat (onward s))) ∧
        (mine = true → idle = false → exec (.osend n) s = .next s)) ∧
    ∀ (gal os : Nat) (x : Stream) (r : Runner),
      (s.streams.find? fun x => x.gal == gal && x.os == os && !streamToPorts x.desc) = some x → s.runner? x.owner = some r →
      let q := streamQueue x.desc
      (x.next < streamTotal x.desc → (vget r.l.q q).length < streamAhead x.desc → halted s r.part = false →
        (∀ e t, elementEntry s x x.next = (some e, t) →
          exec (.streamElementRead gal os) s = .next (onStream gal os (fun y => { y with next := y.next + 1 })
            (t.onRunner x.owner fun r => { r with l := { r.l with q := vset r.l.q q (vget r.l.q q ++ [e]) } }))) ∧
        ∀ t, elementEntry s x x.next = (none, t) → exec (.streamElementRead gal os) s = .next t) ∧
      (streamTotal x.desc ≤ x.next ∨ streamAhead x.desc ≤ (vget r.l.q q).length →
        exec (.streamElementRead gal os) s = .next s)

/-- R430: CSRRD reads the register it names; CSRWR, CSRSET and CSRCLR write s[a], old or s[a], old and not s[a], and
deliver the old value; CTXCTL creates a context, CURCTX changes it and TLBINV invalidates
through the same forms, which trap RESERVED_FIELD (0x02) where a field of those registers forbids the value. A register below 0x100
needs no privilege. -/
def Sys2Proof.Claims.CsrForms : Prop :=
  ∀ (s : State) (d a : Reg) (c : BitVec 10), csrNames s.me c.toNat = true → (0x100 ≤ c.toNat → s.me.sup = true) →
    let old := csrValue s c.toNat
    let x := s.me.sreg a
    let done (t : State) : Result := .next { t with me := { t.me with s := sregSet t.me.s d old } }
    exec (.csrrd d c) s = .next (writes d old s) ∧
    (s.me.tx.active = false →
      let stores (i : Instr) (v : Word) : Prop :=
        let refused := exec i s = .next (leadTrap 0x02 s.issue.pc s.issue.pc s)
        let n := slice v 15 0
        (c.toNat ≠ 0x116 → c.toNat ≠ 0x11C → c.toNat ≠ 0x11D → exec i s = done (csrStore c.toNat v (onward s))) ∧
        (c.toNat = 0x116 → if slice v 7 2 = 0 then exec i s = done (tlbWrite v (onward s)) else refused) ∧
        (c.toNat = 0x11C →
          if slice v 63 17 = 0 ∧ v.getLsbD 16 = true ∧ n ≠ 0 then exec i s = done (createCtx n (onward s)) else refused) ∧
        (c.toNat = 0x11D →
          if n = 0 ∨ liveCtx s n = true then CanSwitch (onward s) → exec i s = done (switchCtx n (onward s)) else refused)
      stores (.csrwr d a c) x ∧ stores (.csrset d a c) (old ||| x) ∧ stores (.csrclr d a c) (old &&& ~~~x))

/-- R409, R425 to R427: what a register reads after a write of v: the bits that the map gives it, on a group and on a host
core; STATUS keeps MODE, TRAP and LANE, and a group's IE and PIE stay; a weight of 0 reads as 1. That the bits which the map leaves
out read 0 is the model's reading, and for [63:8] of a weight its choice (log entry 10). -/
def Sys2Proof.Claims.CsrReadsBack : Prop :=
  ∀ (s : State) (v : Word),
    let reads (c : Nat) : Word := csrValue (csrStore c v s) c
    let group := s.me.isHost = false
    let inCtx := ctx? s s.me.ctx ≠ none ∧ s.me.ctx ≠ 0
    reads 0x00A = v &&& 0x1FF ∧ reads 0x102 = v ∧ reads 0x104 = v ∧ reads 0x10A = v ∧ reads 0x10B = v ∧
    reads 0x11A = v &&& 0xFF ∧ reads 0x000 = csrValue s 0x000 ∧ reads 0x110 = csrValue s 0x110 ∧
    (∀ k < 64, (reads 0x100).getLsbD k =
      if k = 1 ∨ (s.me.isHost = true ∧ (k = 4 ∨ k = 5)) then v.getLsbD k else s.me.status.getLsbD k) ∧
    (s.me.inTrap = true → reads 0x101 = v &&& 0xFF) ∧
    ((s.parts.any fun p => p.no == s.me.part) = true → ∀ k < 64, reads (0x140 + k) = if v &&& 0xFF = 0 then 1 else v &&& 0xFF) ∧
    ((s.parts.any fun p => p.no == s.me.part) = true → reads 0x120 = v) ∧ reads 0x121 = csrValue s 0x121 ∧
    reads 0x11B = (if slice s.me.slsel 5 0 < slicesOf (slice s.me.slsel 7 6) then v &&& 3 else csrValue s 0x11B) ∧
    (group → (myTeam s).isSome = true → reads 0x008 = v &&& 0xFFFFFF) ∧
    (group → reads 0x009 = v ∧ reads 0x103 = v &&& 0x3FFFFF ∧ reads 0x107 = v &&& 0xFFFFFFFF ∧
      reads 0x00D = csrValue s 0x00D ∧ reads 0x105 = csrValue s 0x105 ∧ reads 0x106 = csrValue s 0x106) ∧
    (s.me.isHost = true → s.me.ctx = 0 → reads 0x108 = v) ∧
    (inCtx → reads 0x108 = v ∧ reads 0x00B = v ∧ reads 0x00C = v ∧ reads 0x109 = v ∧ reads 0x111 = v ∧ reads 0x112 = v ∧
      reads 0x113 = v ∧ reads 0x114 = v ∧ reads 0x115 = v ∧ reads 0x117 = v ∧ reads 0x118 = v ∧ reads 0x119 = v &&& 0x3F)

/-- R430, R431: VCSRRD writes in each lane of active(M) the register that X names: the lane's own cause, fault address or
number, else the group's register. -/
def Sys2Proof.Claims.LaneCsrRead : Prop :=
  ∀ s : State, LaneReady (vcsrrdRule s.me) s →
    let c := laneIn (vcsrrdRule s.me) s
    exec .vcsrrd s = .next (writesLanes (fun c => tyBits c.f.t) (fun c q k => (vcsrValue q (c.f.imm.toNat % 1024) k).toNat) c
      (laneOn (vcsrrdRule s.me) s))

/-- R25, R62, R64: at user level a supervisor register and every privileged form trap PRIVILEGE (0x05) at the instruction,
and a number that names no register for the runner traps ILLEGAL_OPCODE (0x01). -/
def Obligations.PrivilegeTraps : Prop :=
  ∀ (s : State) (d a b : Reg) (c : BitVec 10),
    let stops (k : Nat) : Result := .next (leadTrap k s.issue.pc s.issue.pc s)
    (csrNames s.me c.toNat = false → exec (.csrrd d c) s = stops 0x01 ∧ exec (.csrwr d a c) s = stops 0x01 ∧
      exec (.csrset d a c) s = stops 0x01 ∧ exec (.csrclr d a c) s = stops 0x01) ∧
    (s.me.sup = false →
      (csrNames s.me c.toNat = true → 0x100 ≤ c.toNat → exec (.csrrd d c) s = stops 0x05 ∧
        exec (.csrwr d a c) s = stops 0x05 ∧ exec (.csrset d a c) s = stops 0x05 ∧ exec (.csrclr d a c) s = stops 0x05) ∧
      exec .rfe s = stops 0x05 ∧ exec (.haltpCtx a) s = stops 0x05 ∧ exec (.haltpPart a) s = stops 0x05 ∧
      exec (.preemptSus a) s = stops 0x05 ∧ exec (.preemptRes a) s = stops 0x05 ∧ exec (.injarm a b) s = stops 0x05 ∧
      exec (.injarmRep a b) s = stops 0x05 ∧ exec (.ckptPool a b) s = stops 0x05 ∧
      (s.me.isHost = false → exec (.ckptStat d) s = stops 0x05 ∧ exec .ckptRb s = stops 0x05)) ∧
    (s.me.isHost = true → exec (.ckptStat d) s = stops 0x01 ∧ exec .ckptRb s = stops 0x01)

/-- R425 to R431: the register forms, what each register keeps of a write, and the read by lanes. -/
def Obligations.CsrAccess : Prop :=
  CsrForms ∧ CsrReadsBack ∧ LaneCsrRead
/-- R440: TRAP raises SOFTWARE_TRAP with its code as FAULTADDR and EPC at the word after it; inside a transaction it
aborts with TX_ILLEGAL. -/
def Sys2Proof.Claims.SoftwareTrap : Prop :=
  ∀ (s : State) (i : BitVec 16),
    (s.me.tx.active = false → exec (.trap i) s = .next (takeTrap 0xB2 (i.setWidth 64) s.issue.next s)) ∧
    (s.me.tx.active = true → exec (.trap i) s = .next (abortFinal 0x52 0 s))

/-- The causes of kinds R and H that a group's stream raises (R421, R422). -/
def Sys2Proof.Claims.handledCauses : List Nat :=
  [0x01, 0x02, 0x03, 0x04, 0x05, 0x06, 0x07, 0x21, 0x22, 0x23, 0x24, 0x25, 0x26, 0x27, 0x28, 0x29, 0x2A, 0x41, 0x42, 0x43, 0x44,
    0x45, 0x58, 0x61, 0x62, 0x63, 0x64, 0x65, 0x71, 0x72, 0x73, 0x81, 0x82, 0x83, 0x84, 0x85, 0x91, 0x92, 0x93, 0x94, 0x95, 0xB2]

/-- R432, R433: a lead-stream trap of a group with a handler, of a cause of kind R or H. The program counter stands at TVEC; STATUS, CAUSE, EPC,
FAULTADDR, FRAGMASK, FAULTMASK, SKIPMASK and the lanes' causes are set; LPC and every register stay; the held runs stand
aside; the group's accepted writes have arrived, or its handler waits with them for the holder of the fallback lock. -/
def Sys2Proof.Claims.GroupTrapEntry : Prop :=
  ∀ (s : State) (cause : Nat) (addr epc : Word), s.me.isHost = false → s.me.tx.active = false → s.me.inTrap = false →
    groupTvec s ≠ 0 → cause ∈ handledCauses →
    let t := leadTrap cause addr epc s
    t.me.pc = groupTvec s ∧ (∀ k < 64, t.me.status.getLsbD k = trapBit false s.me.status k) ∧
    t.me.cause = BitVec.ofNat 8 cause ∧ t.me.epc = epc ∧ t.me.faultaddr = addr ∧
    t.me.l.lpc = s.me.l.lpc ∧ t.me.l.fragmask = s.me.l.live ∧ t.me.l.faultmask = s.me.l.live ∧ t.me.l.skipmask = 0 ∧
    (∀ k < 32, vget t.me.l.vcause k = (if s.me.l.live.getLsbD k then BitVec.ofNat 8 cause else 0) ∧
      vget t.me.l.vfault k = if s.me.l.live.getLsbD k then addr else 0) ∧
    t.me.s = s.me.s ∧ t.me.xb = s.me.xb ∧ t.me.l.v = s.me.l.v ∧ t.me.l.m = s.me.l.m ∧ t.me.l.w = s.me.l.w ∧
    t.me.l.q = s.me.l.q ∧ t.me.l.live = s.me.l.live ∧ t.me.sscr0 = s.me.sscr0 ∧ t.me.sscr1 = s.me.sscr1 ∧
    t.me.l.run = LaneRuns.empty ∧ t.me.l.held = some (s.me.l.held.getD s.me.l.run) ∧
    (t.me.wait = .none ∨ t.me.wait = .drain) ∧ (t.me.wait = .none → ∀ w ∈ t.pend, w.who ≠ s.me.id) ∧
    ((faultWalk cause addr s.me s).wicket.holder = none → t.me.wait = .none)

/-- R439: a trap of a host core sets EPC, CAUSE, FAULTADDR and STATUS with PIE := IE and IE := 0 and fetches at its TVEC;
without a handler the core stops so, and a cause in a handler is DOUBLE_TRAP, which stops it too. Nothing else of the
core changes, and memory does not; the other runners are as the walk that raised a translation cause left them. -/
def Sys2Proof.Claims.HostTrapEntry : Prop :=
  ∀ (s : State) (cause : Nat) (addr epc : Word), s.me.isHost = true → s.me.tx.active = false →
    cause ∈ handledCauses ∨ cause = 0xA1 ∨ cause = 0xB1 →
    let t := leadTrap cause addr epc s
    t.me.pc = s.me.tvec ∧ (∀ k < 64, t.me.status.getLsbD k = trapBit true s.me.status k) ∧
    t.me.cause = BitVec.ofNat 8 (if s.me.inTrap then 0xB5 else cause) ∧ t.me.epc = epc ∧ t.me.faultaddr = addr ∧
    t.me.stopped = (s.me.inTrap || s.me.tvec == 0) ∧
    t.me.s = s.me.s ∧ t.me.xb = s.me.xb ∧ t.me.sscr0 = s.me.sscr0 ∧ t.me.sscr1 = s.me.sscr1 ∧ t.me.ctx = s.me.ctx ∧
    t.mem = s.mem ∧ t.pend = s.pend ∧
    t.others = (faultWalk cause addr s.me s).others

/-- R290, R435, R436: RFE. A host core's PC := EPC, MODE := PMODE, IE := PIE, TRAP := 0. A group waits as LWAIT with D = 1,
then its lead stream resumes at EPC with MODE := PMODE and TRAP := 0 and its held runs resume; after a lane trap every
VCAUSE is 0 and SKIPMASK is left out of the stopped instruction where it executes again. A transaction set aside begins
again where the return takes the thread to the word after its TXBEG, and till then no transaction stands open: the model's
reading (log entries 12, 85), as is that an EPC which is no multiple of 4 is taken as it is (log entry 105). -/
def Sys2Proof.Claims.ReturnFromTrap : Prop :=
  ∀ s : State, s.me.sup = true → s.me.tx.active = false →
    (s.me.isHost = true → (s.me.status.getLsbD 1 = true ∨ s.me.ctx ≠ 0) → CanGoBack (onward s) →
      exec .rfe s = .next { backAt (onward s) with me := hostReturn (backAt (onward s)).me }) ∧
    (s.me.isHost = true → s.me.status.getLsbD 1 = false → s.me.ctx = 0 →
      exec .rfe s = .next (leadTrap 0x05 s.issue.pc s.issue.pc s)) ∧
    (s.me.isHost = false → s.me.l.run.runs = [] → laneOpsDone (onward s) = true → lanesIdle (onward s) = true →
      CanGoBack (drainLanes (onward s)) →
      let q := clearStreamFault (rereadTrapped (backAt (drainLanes (onward s))))
      exec .rfe s = .next { q with me := groupReturn q.me }) ∧
    (∀ r : Runner, (hostReturn r).pc = r.epc ∧ (∀ k < 64, (hostReturn r).status.getLsbD k = returnBit true r.status k) ∧
      (beginsAgain r = false → hostReturn r = { r with pc := r.epc, status := (hostReturn r).status }) ∧
      (∀ x, r.tx.active = false → r.txHeld.find? (fun x => x.1 == r.ctx && x.2.resume == r.epc) = some x →
        (hostReturn r).tx = { x.2 with snapS := r.s, snapXb := r.xb } ∧ (hostReturn r).s = r.s)) ∧
    ∀ r : Runner, (groupReturn r).pc = r.epc ∧ (∀ k < 64, (groupReturn r).status.getLsbD k = returnBit false r.status k) ∧
      (beginsAgain r = false →
        groupReturn r = { r with pc := r.epc, status := (groupReturn r).status, l := (groupReturn r).l }) ∧
      (groupReturn r).l.held = none ∧ (groupReturn r).l.v = r.l.v ∧ (groupReturn r).l.m = r.l.m ∧
      (r.status.getLsbD 7 = false → (groupReturn r).l.run = r.l.held.getD r.l.run) ∧
      (r.status.getLsbD 7 = true → (∀ k < 32, vget (groupReturn r).l.vcause k = 0) ∧
        ((groupReturn r).l.run.cur.isSome = true → (groupReturn r).l.run.skip = r.l.skipmask))

/-- R432, R433, R439: what taking a trap does to a group and to a host core; a TVEC that is no multiple of 4 is taken as it is,
the model's choice (log entry 105). -/
def Obligations.TrapEntry : Prop :=
  GroupTrapEntry ∧ HostTrapEntry

/-- R435, R436, R440: TRAP and RFE, with the model's reading of R290 (log entries 12, 85); RFE at user level traps PRIVILEGE
(0x05). -/
def Obligations.TrapAndReturn : Prop :=
  SoftwareTrap ∧ ReturnFromTrap ∧ ∀ s : State, s.me.sup = false → exec .rfe s = .next (leadTrap 0x05 s.issue.pc s.issue.pc s)
/-- R441, R443, R470, R472: the lead ASSERT does nothing on a value other than 0 and otherwise fails with its message
pointer: a trap on a host core, the record and the suspension of the context for a group; CKPT.pool names the pool,
CKPT.stat reads the team's checkpoint word, CKPT.rb rolls back as after an uncorrectable error; INJARM arms or disarms one
link direction. -/
def Sys2Proof.Claims.AssertAndCheckpointForms : Prop :=
  ∀ (s : State) (d a b : Reg), s.me.tx.active = false →
    (s.me.sreg a ≠ 0 → exec (.assert a b) s = .next (onward s)) ∧
    (s.me.sreg a = 0 → s.me.isHost = true → exec (.assert a b) s = .next (leadTrap 0xB1 (s.me.sreg b) s.issue.pc s)) ∧
    (s.me.sreg a = 0 → s.me.isHost = false → s.me.inTrap = false → assertWaits s = false →
      exec (.assert a b) s = .next (assertFail (s.me.sreg b) s.issue.pc 0 s.me.l.live 0xFF
        (ends (fun r => { r with epc := s.issue.next }) s))) ∧
    (s.me.sup = true →
      (slice (s.me.sreg a) 15 0 = 0 → slice (s.me.sreg b) 15 0 = 0 → poolHeld s s.me.ctx = false →
        exec (.ckptPool a b) s = .next (setCtxReg
          (fun c => { c with poolBase := (s.me.sreg a).toNat, poolSize := (s.me.sreg b).toNat }) (onward s))) ∧
      (slice (s.me.sreg a) 15 0 ≠ 0 → exec (.ckptPool a b) s = .next (leadTrap 0x24 (s.me.sreg a) s.issue.pc s)) ∧
      (s.me.isHost = false →
        exec (.ckptStat d) s = .next (writes d (ckptWord ((myTeam s).bind (·.ck))) s) ∧
        exec .ckptRb s = .next (fatalGroup 0xA1 0 s.me.l.live s.me.laneSlot s)) ∧
      let v := s.me.sreg a
      let armed (rep : Bool) : State :=
        let i : Injector := ⟨slice v 23 16, v.getLsbD 15, slice v 63 32, slice v 31 29, slice v 11 8, s.me.sreg b, rep⟩
        let rest := s.injectors.filter fun j => !(j.link == i.link && j.dir == i.dir)
        { onward s with injectors := if i.n = 0 ∨ i.act = 0 then rest else i :: rest }
      (injectorOk v = true → exec (.injarm a b) s = .next (armed false) ∧ exec (.injarmRep a b) s = .next (armed true)) ∧
      (injectorOk v = false → exec (.injarm a b) s = .next (leadTrap 0x02 s.issue.pc s.issue.pc s) ∧
        exec (.injarmRep a b) s = .next (leadTrap 0x02 s.issue.pc s.issue.pc s)))

/-- R442, R443: the lane ASSERT does nothing where every lane of active(M) holds a value other than 0. Else the group
fails with the message pointer of the lowest lane that holds 0: LPC names the slot after it, and the record names the lanes
that failed, and the lanes of the group stop where they stand. In a handler the fragment traps ASSERT (0xB1). -/
def Sys2Proof.Claims.LaneAssert : Prop :=
  ∀ s : State, LaneReady laneAssertRule s →
    let c := laneIn laneAssertRule s
    let q := laneOn laneAssertRule s
    let bad := (lanesOf c.act).filter fun k => c.a k == 0
    (bad = [] → exec .laneAssert s = .next q) ∧
    ∀ k, bad.head? = some k →
      (q.me.inTrap = true → exec .laneAssert s =
        .next (stopLane (laneCtx s) (laneNeeds laneAssertRule s) (.frag 0xB1 (BitVec.ofNat 64 (c.b k))) s)) ∧
      (q.me.inTrap = false → assertWaits q = false → exec .laneAssert s =
        .next (stopLanes (assertFail (BitVec.ofNat 64 (c.b k)) (slotAddr q c.slot) c.slot (maskOf bad) k
          (onLane (fun l => { l with lpc := BitVec.ofNat 22 (c.slot + 1) }) q))))

/-- R450, R451: HALTP.ctx ends a context and completes once its end does; HALTP.part raises the partition's halt line with
its code; PREEMPT.sus suspends a context, stopping every squad of it, and completes once none is left to save, or at once where a
group suspends its own;
PREEMPT.res lifts the suspension. -/
def Obligations.HaltAndPreemptRequests : Prop :=
  ∀ (s : State) (a : Reg), s.me.sup = true → s.me.tx.active = false →
    let x := slice (s.me.sreg a) 15 0
    let n := if x = 0 then s.me.ctx else x
    (∀ c, ctx? s n = some c → c.ending = false →
      ((ctx? (endContext n (onward s)) n).isNone = true → exec (.haltpCtx a) s = .next (endContext n (onward s))) ∧
      ((ctx? (endContext n (onward s)) n).isNone = false → (s.me.isHost = true ∨ s.me.ctx ≠ n) →
        exec (.haltpCtx a) s = .next (endContext n s)) ∧
      (s.me.isHost = false → s.me.ctx = n → exec (.haltpCtx a) s = .next (endContext n (onward s)))) ∧
    (∀ c, ctx? s n = some c → c.ending = true → exec (.haltpCtx a) s = .next s) ∧
    (ctx? s n = none → n ≠ 0 → exec (.haltpCtx a) s = .next (onward s)) ∧
    (s.me.isHost = false → exec (.haltpPart a) s = .next (raiseHalt s.me.part
      ⟨s.me.core, slice (s.me.sreg a) 7 0, 0, s.issue.pc, s.me.laneSlot, 0, s.me.ctx, s.me.slot,
        partClock s s.me.part, s.clocks.fabric, true, [], [], false⟩ (onward s))) ∧
    (∃ t, exec (.haltpPart a) s = .next t ∧ t.me.pc = s.issue.next ∧
      ∀ p ∈ s.parts, p.no = s.me.part → p.halt = none → ∃ h, { p with halt := some h } ∈ t.parts ∧
        h.cause = slice (s.me.sreg a) 7 0 ∧ h.pc = s.issue.pc) ∧
    (ctx? s x = none → exec (.preemptSus a) s = .next (onward s)) ∧
    (ctx? s x ≠ none → (s.squads.any fun q => q.ctx == x) = false →
      exec (.preemptSus a) s = .next (suspendCtx x (onward s))) ∧
    (ctx? s x ≠ none → (s.squads.any fun q => q.ctx == x) = true → (s.me.isHost = true ∨ s.me.ctx ≠ x) →
      exec (.preemptSus a) s = .next (suspendCtx x s)) ∧
    (ctx? s x ≠ none → s.me.isHost = false → s.me.ctx = x → exec (.preemptSus a) s = .next (suspendCtx x (onward s))) ∧
    exec (.preemptRes a) s = .next { onward s with
      ctxs := mapIf (fun c => c.id == x) (fun c => { c with suspended := false, asserted := false }) s.ctxs }

/-- R428, R429, R180, R483, R484, R492: register writes as steps of their own: invalidations, a context created with its
reset values, a change of context, the team's swizzle modes, key and window registers, counters and notices cleared. -/
def Obligations.RegisterWriteEvents : Prop :=
  ∀ s : State,
    exec .tlbInvalidateAll s = .next (invalidate s (fun _ => true) fun _ => true) ∧
    exec .tlbInvalidateContext s = .next (invalidate s (fun t => t.ctx == s.me.ctx) fun x => x.ctx == s.me.ctx) ∧
    (∀ (va : Word) (k : BitVec 4), exec (.tlbInvalidatePage va k) s = .next (tlbPage s.me.ctx va k.toNat s)) ∧
    (∀ n : BitVec 16, n ≠ 0 → ctx? s n.toNat = none → ∃ t, exec (.ctxctlCreate n) s = .next t ∧
      t = { s with ctxs := t.ctxs } ∧ ∃ c, t.ctxs = c :: s.ctxs ∧ c.id = n.toNat ∧ c.tldef = 0x400 ∧ c.tvec = 0 ∧
        c.trecl = 0 ∧ c.tkey = 0 ∧ c.ptroot = 0 ∧ c.slotbase = 0 ∧ c.suspended = false) ∧
    (∀ n : BitVec 16, (n = 0 ∨ ctx? s n.toNat ≠ none) → exec (.ctxctlCreate n) s = .next s) ∧
    (∀ n : BitVec 16, s.me.isHost = true → (n = 0 ∨ liveCtx s n.toNat = true) →
      CanSwitch s → exec (.curctxWrite n) s = .next (switchCtx n.toNat s)) ∧
    (∀ v : BitVec 24, s.me.isHost = false →
      exec (.lswzWrite v) s = .next (onTeam s.me.team (fun t => { t with lswz := v }) s)) ∧
    (∀ (n : BitVec 8) (v : Word), exec (.keyInstall n v) s = .next { s with dev := keyWrite n.toNat 7 v s.dev }) ∧
    (∀ (n : BitVec 6) (ctl : Bool) (v : Word),
      exec (.windowRegisterWrite n ctl v) s = .next { s with dev := windowWrite n.toNat ctl v s.dev }) ∧
    (∀ off, off % 8 = 0 → ∃ t, exec (.counterClear off) s = .next t ∧ t = { s with dev := t.dev } ∧
      ((off = 0x100 ∨ off = 0x108 ∨ off = 0x8200 ∨ (0x8000 ≤ off ∧ off < 0x8030) ∨ (0x8100 ≤ off ∧ off < 0x81A0)) →
        devRead t off = 0)) ∧
    (∀ v : Word, exec (.noticeClear v) s = .next { s with dev := { s.dev with notice := s.dev.notice &&& ~~~v } }) ∧
    ∀ (c : BitVec 10) (v : Word), csrNames s.me c.toNat = true → c.toNat ≠ 0x116 → c.toNat ≠ 0x11C → c.toNat ≠ 0x11D →
      exec (.registerWrite c v) s = .next (csrStore c.toNat v s)

/-- R441 to R443, R470, R472: ASSERT in both streams, the checkpoint forms and INJARM. -/
def Obligations.AssertAndCheckpoints : Prop :=
  AssertAndCheckpointForms ∧ LaneAssert
/-- R203, R204: a ticket is valid, names its entry, generation and size, has its reserved bits 0, and carries the check
value of its fields under the key. -/
def Sys2Proof.Claims.TicketFields : Prop :=
  ∀ (e : EntryId) (gen : BitVec 16) (size : Nat) (key : Word), e.die < 4 → e.slice < 64 → e.entry < 4096 → size < 16 →
    let t := ticketWord e gen size key
    t.getLsbD 63 = true ∧ ticketEntry t = e ∧ ticketGen t = gen.toNat ∧ ticketSize t = size ∧
      slice t 22 20 = 0 ∧ slice t 3 0 = 0 ∧ slice t 19 4 = ticketCheck t key

/-- R215, R216: a ticketed load whose access passes its checks releases as its order says, marks its page and delivers
the ticket of the entry it allocates; where the cloakroom is full the try form delivers 0 and the others trap
CLOAKROOM_FULL (0x44). -/
def Obligations.TicketIssue : Prop :=
  ∀ (s : State) (d a : Reg) (x : BitVec 3) (z : BitVec 4) (c : BitVec 16) (va : Word) (tr : Tr), s.me.ctx ≠ 0 →
    s.me.tx.active = false → [0, 2, 4].contains (orderOf s).2 = true → CanRelease (onward s) →
    let n := 2 ^ (z.toNat + 3)
    viaXb (onward s) (onward s).me (vget s.me.xb x.toNat) (s.me.sreg a).toInt n Need.read = (va, .ok tr) →
    va.toNat % n = 0 → rangeHit (onward s) s.me.part tr.pa n false = false →
    let q := markAccess (released (onward s)) (released (onward s)).me tr false
    markReady (released (onward s)) (released (onward s)).me tr false = true →
    let gives (code : Nat) (i : Instr) (full : Result) : Prop :=
      (∀ w u, newTicket code z.toNat ((orderOf s).2 == 4) tr q = some (w, u) →
        exec i s = .next { u with me := { u.me with s := sregSet u.me.s d w } }) ∧
      (newTicket code z.toNat ((orderOf s).2 == 4) tr q = none → exec i s = full)
    gives 0 (.tload d a x z) (.next (leadTrap 0x44 va s.issue.pc s)) ∧
    gives c.toNat (.tloadLease d a x z c) (.next (leadTrap 0x44 va s.issue.pc s)) ∧
    gives c.toNat (.tloadTry d a x z c) (.next { q with me := { q.me with s := sregSet q.me.s d 0 } })

/-- R206, R210, R216, R219: the entry that a ticketed load allocates is PENDING under the ticket's generation and size, of
the issuer's context and partition, with the lease that the code or TLDEF gives, and its ticket passes the checks of R219. -/
def Sys2Proof.Claims.TicketIsValid : Prop :=
  ∀ (s u : State) (code size : Nat) (sc : Bool) (tr : Tr) (w : Word), size < 10 → newTicket code size sc tr s = some (w, u) →
    ∃ e, u.cloaks.find? (fun x => x.id == e.id) = some e ∧ e.st = .pending ∧ e.size = size ∧ e.ctx = s.me.ctx ∧
      e.part = s.me.part ∧ e.src = tr.pa ∧ e.lease = leaseOf code (tldefOf s s.me.ctx) ∧
      w = ticketWord e.id e.gen size (tkeyOf s s.me.ctx) ∧
      (e.id.die < 4 → e.id.slice < (if e.id.die = 3 then 16 else 64) → e.id.entry < 4096 → checkTicket u w = .ok e)

/-- R219 to R221: the lead redemptions, plain and quiet, to a register (size code 0 only), to memory and to the landing. -/
def Sys2Proof.Claims.TicketRedemption : Prop :=
  (∀ d a : Reg, Redeems (.redeem d a) a none (· == 0) id (fun _ => true) (fun s => .reg d none s.issue.next) fun _ => True) ∧
  (∀ d a sq : Reg, Redeems (.redeemQ d a sq) a (some sq) (· == 0) id (fun _ => true) (fun s => .reg d (some sq) s.issue.next) fun _ => True) ∧
  (∀ (d a : Reg) (x : BitVec 3) (l : List (Tr × Nat)),
    Redeems (.redeeml d a x) a none (fun _ => true) (markPieces l) (piecesReady l) (memDest l none) fun s => StoresAt a d x s l) ∧
  (∀ (d a sq : Reg) (x : BitVec 3) (l : List (Tr × Nat)),
    Redeems (.redeemlQ d a x false sq) a (some sq) (fun _ => true) (markPieces l) (piecesReady l) (memDest l (some sq))
      fun s => StoresAt a d x s l) ∧
  (∀ (d a : Reg) (t : Team) (off : Nat), Redeems (.redeemlLanding d a) a none (fun _ => true) id (fun _ => true)
    (fun s => .land t.uid off t.modes none s.issue.next) fun s => LandsAt a d s t off) ∧
  ∀ (d a sq : Reg) (x : BitVec 3) (t : Team) (off : Nat), Redeems (.redeemlQ d a x true sq) a (some sq) (fun _ => true) id (fun _ => true)
    (fun s => .land t.uid off t.modes (some sq) s.issue.next) fun s => LandsAt a d s t off

/-- R223, R225, R226: TDROP spends the entry, TSTAT reads its state, TLEASE sets its lease from s[b] and reads it back;
a quiet form writes 0 for success. -/
def Sys2Proof.Claims.TicketUpkeep : Prop :=
  ∀ (s : State) (d a b sq : Reg), s.me.ctx ≠ 0 →
    let q := onward s
    let t := s.me.sreg a
    exec (.tstat d a) s = .next (writes d (tstatWord q t) s) ∧
    (s.me.tx.active = false → ∀ e, checkRedeem q t (fun _ => true) = .ok e →
      let set (r : Reg) (x : Word) (u : State) : State := { u with me := { u.me with s := sregSet u.me.s r x } }
      let dropped := spendCloak e (markDirty q)
      let leased := putCloak { e with lease := leaseOf (min (s.me.sreg b).toNat 0xFFFF) (tldefOf q s.me.ctx) } q
      exec (.tdrop a) s = .next dropped ∧ exec (.tdropQ a sq) s = .next (set sq 0 dropped) ∧
      exec (.tlease d a b) s = .next (set d (tstatWord leased t) leased) ∧
      exec (.tleaseQ d a b sq) s = .next (set sq 0 (set d (tstatWord leased t) leased))) ∧
    (s.me.tx.active = false → ∀ c, checkRedeem q t (fun _ => true) = .error c →
      exec (.tdrop a) s = .next (leadTrap c t s.issue.pc s) ∧ exec (.tdropQ a sq) s = .next (writes sq (BitVec.ofNat 64 c) s) ∧
      exec (.tlease d a b) s = .next (leadTrap c t s.issue.pc s) ∧
      exec (.tleaseQ d a b sq) s = .next (writes sq (BitVec.ofNat 64 c) s))

/-- R219: a ticket that was valid names a spent entry once its entry is spent, and redeeming it again is refused with
TICKET_SPENT (0x41). -/
def Sys2Proof.Claims.SpentTicketIsRefused : Prop :=
  ∀ (s : State) (t : Word) (e : Cloak) (fits : Nat → Bool), checkTicket s t = .ok e →
    checkTicket (spendCloak e s) t = .error 0x41 ∧ checkRedeem (spendCloak e s) t fits = .error 0x41

/-- R217, R218, R222: the lane forms. TLOADV writes a ticket in every lane of active(M), or 0 where a try finds the
cloakroom full; the lane REDEEM claims each lane's entry and delivers those that are READY, to registers or to the
landing; its flag counts it until the last is delivered. -/
def Obligations.LaneTickets : Prop :=
  ∀ s : State,
    (LaneReady tloadvRule s →
      let c := laneIn tloadvRule s
      let q := laneOn tloadvRule s
      let size := c.f.c.toNat % 16
      let q1 := releasedAt c.f.scope c.f.order q
      CanReleaseAt c.f.scope c.f.order q → ∀ tr : Nat → Tr,
      (∀ k ∈ lanesOf c.act, laneProbe q (runXb q c.f.xbn) (c.f.offset (sextN 32 (c.a k))) (2 ^ (size + 3)) Need.read
        = .ok (tr k)) → (∀ k ∈ lanesOf c.act, markReady q1 q1.me (tr k) false = true) →
      let r := laneTickets size (c.f.order == 4) ((lanesOf c.act).map fun k => (k, tr k)) q1
      (c.f.c.getLsbD 4 = true ∨ ∀ p ∈ r.1, p.2.isSome = true) →
        exec .tloadv s = .next (onLane (Lanes.writeRes 64 c.f.d.toNat c.act fun k =>
          ((((r.1.find? fun p => p.1 == k).bind (·.2)).getD 0 : Word)).toNat) r.2)) ∧
    (LaneReady laneRedeemRule s →
      let c := laneIn laneRedeemRule s
      let q := laneOn laneRedeemRule s
      let dirty (u : State) (cs : List (Nat × Word × Cloak)) : State := if cs.isEmpty then u else markDirty u
      let lanes := lanesOf c.act
      let op (u : State) : Nat := if c.flag.isSome then u.nextOp + 1 else 0
      (∀ u, (opIssued c false).run q = .ok ((), u) →
        let cs := laneClaims (fun z => z == 0 || (z == 1 && c.f.d.toNat % 4 == 0)) (laneTicketsOf c) q
        refusedOf cs = [] → (∀ p ∈ claimedOf cs, ¬(p.2.2.st = .ready ∧ p.2.2.poison = true)) →
        (((claimedOf cs).any fun p => p.2.2.size == 1) = true →
          c.f.d.toNat + 4 ≤ q.me.l.count ∧ interlocked q [(c.f.d.toNat, 4)] = false) →
        exec .laneRedeem s = .next
          (deliverLanes (fun k => .laneReg q.me.inTrap (op q) k c.f.d.toNat) (claimedOf cs) (dirty u (claimedOf cs)))) ∧
      ∀ (t : Team) (off : Nat → Nat), myTeam q = some t →
        (∀ k ∈ lanes, let n := 2 ^ (ticketSize (BitVec.ofNat 64 (c.a k)) + 3)
          landCheck q t (sextN 32 (c.b k) + c.f.off) n (min n 16) true = .ok (off k)) →
        let cs := laneClaims (fun _ => true) (laneTicketsOf c) q
        let codes (k : Nat) : Nat := (((refusedOf cs).find? fun p => p.1 == k).map (·.2.1)).getD 0
        let q1 := if c.f.c.getLsbD 1 then onLane (Lanes.writeRes 32 c.f.d.toNat c.act codes) q else q
        let dest (k : Nat) : Nat := (((lanes.map fun j => (j, off j)).find? fun p => p.1 == k).map (·.2)).getD 0
        (refusedOf cs = [] ∨ c.f.c.getLsbD 1 = true) →
        (∀ p ∈ claimedOf cs, ¬(p.2.2.st = .ready ∧ p.2.2.poison = true)) → ∀ u, (opIssued c false).run q1 = .ok ((), u) →
        exec .laneRedeemL s = .next
          (deliverLanes (fun k => .laneLand q.me.inTrap (op q1) k t.uid (dest k) t.modes) (claimedOf cs) (dirty u (claimedOf cs))))

/-- R205, R207, R211, R220: the steps of a cloakroom on its own: data that arrive, where a target outside has answered,
make a PENDING entry READY, complete a
claimed redemption, or give up the units of a dropped entry; a lease that has run out reclaims its entry; a buffer
setting waits until no entry is live. -/
def Obligations.CloakroomEvents : Prop :=
  ∀ (s : State) (id : EntryId),
    (∀ e, s.cloaks.find? (fun x => x.id == id) = some e → e.readable s = true →
      exec (.ticketDataArrival id) s = .next (arriveCloak e s)) ∧
    (∀ e, s.cloaks.find? (fun x => x.id == id) = some e → e.readable s = true → e.st = .pending → id.entry < 4096 → ∃ t,
      exec (.ticketDataArrival id) s = .next t ∧ (cloakAt t id).st = .ready ∧ (cloakAt t id).gen = e.gen ∧
        (cloakAt t id).size = e.size) ∧
    (let p := performTickets (fun x => x.id == id && x.st == .claimed) s
      ∀ e who d, p.cloaks.find? (fun x => x.id == id && x.st == .claimed) = some e → e.take = some (who, d) →
        e.performed = true → e.poison = false → deliveryBlocked p who d = false →
        exec (.redemptionDelivery id) s = .next (deliverBytes who d e.data (spendCloak e p))) ∧
    (∀ e, s.cloaks.find? (fun x => x.id == id && (x.st == .pending || x.st == .ready)) = some e → e.lease = some 0 →
      leaseFrozen s e.ctx = false → ∃ t, exec (.leaseExpiry id) s = .next t ∧ (∀ x ∈ t.cloaks, x.id = id → x.st = .free) ∧
        t.mem = s.mem ∧ t.me = s.me ∧ ∀ c ∈ s.ctxs, c.id = e.ctx → { c with trecl := c.trecl + 1 } ∈ t.ctxs) ∧
    (∀ die sl : Nat, (cloakIdle s die sl = true → exec (.cloakroomReconfigure die sl) s = .next (settleClk s)) ∧
      (cloakIdle s die sl = false → exec (.cloakroomReconfigure die sl) s = .next s)) ∧
    ∀ v : BitVec 2, exec (.clkcfgWrite v) s =
      .next (setClk (slice s.me.slsel 7 6) (slice s.me.slsel 5 0) v.toNat s)

/-- R203, R204, R206, R210, R216, R219: what a ticket holds, that a new one is valid, and that a spent one is not. -/
def Obligations.TicketLife : Prop :=
  TicketFields ∧ TicketIsValid ∧ SpentTicketIsRefused

/-- R219 to R221, R223, R225, R226: redeeming tickets, dropping them, their state and leases. -/
def Obligations.TicketUse : Prop :=
  TicketRedemption ∧ TicketUpkeep
/-- R262, R266 to R268, R281: the lead forms. Outside a transaction TXBEG performs the earlier accesses at package scope,
clears s[d], takes the snapshot after that and begins an attempt that resumes at the word after it; inside one it ends it
with TX_NESTED (0x51). TXEND commits a valid attempt and rolls back one that is not, a group's commit step taking its commit
number either way (R282, R289); TXABT ends it with TX_EXPLICIT (0x55)
and the code; without one both trap TX_NOT_ACTIVE (0x58). TXSTAT reads the word of R268 or the last commit number. -/
def Sys2Proof.Claims.LeadTransactions : Prop :=
  ∀ (s : State) (d a : Reg),
    (s.me.tx.active = false → s.me.isHost = true ∨ s.me.l.tx.any LaneTx.inTx = false →
      CanReleaseAt 5 3 (onward s) →
      let q := releaseState 5 (onward s)
      let begun (u : State) : State :=
        let r := { u.me with s := sregSet u.me.s d 0 }
        { u with me := { r with tx := { Tx.none with
            active := true, d := d, resume := s.issue.next, fb := r.lockFirst, snapS := r.s, snapXb := r.xb } } }
      (s.me.lockFirst = false → exec (.txbeg d) s = .next (begun q)) ∧
      (s.me.lockFirst = true →
        let w := q.wicket.take q.me.id q.clocks.fabric
        (w.holder = some q.me.id → exec (.txbeg d) s = .next (begun { q with wicket := w })) ∧
        (w.holder ≠ some q.me.id → exec (.txbeg d) s =
          .next { s with wicket := s.wicket.take s.me.id s.clocks.fabric }))) ∧
    (s.me.tx.active = true → exec (.txbeg d) s = .next (abortFinal 0x51 0 s)) ∧
    (s.me.tx.active = true →
      ((leadValid (onward s) && !meetsHolder (onward s) s.me.tx.wbuf) = true → commitReady (onward s) s.me.tx.wbuf = true →
        exec .txend s = .next (commitLead (onward s))) ∧
      ((leadValid (onward s) && !meetsHolder (onward s) s.me.tx.wbuf) = false →
        exec .txend s = .next (abortConflict
          (if s.me.isHost then s else { s with wicket := { s.wicket with next := s.wicket.next + 1 } })))) ∧
    (s.me.tx.active = true → exec (.txabt a) s = .next (abortFinal 0x55 (slice (s.me.sreg a) 7 0) s)) ∧
    (s.me.tx.active = false → exec .txend s = .next (leadTrap 0x58 0 s.issue.pc s) ∧
      exec (.txabt a) s = .next (leadTrap 0x58 0 s.issue.pc s)) ∧
    exec (.txstat d false) s = .next (writes d (txWord s.me.tx.active s.me.tx.fb s.me.tx.aborts s.me.lastTx) s) ∧
    exec (.txstat d true) s = .next (writes d (BitVec.ofNat 64 s.me.lastCommit) s)

/-- R264, R267: a final abort discards every buffered write, restores the registers and translation registers of the
snapshot, writes the status word to s[d] and resumes at the word after TXBEG; a retried one restores them, adds 1 to
ABORTS and begins again there. -/
def Sys2Proof.Claims.AbortRestores : Prop :=
  ∀ (s : State) (code detail : Nat),
    (let t := abortFinal code detail s
     let w := BitVec.ofNat 32 (code * 2 ^ 24 + detail % 256 * 2 ^ 16 + min s.me.tx.aborts 255 * 2 ^ 8 +
       (if s.me.tx.fb then 128 else 0))
     t.mem = s.mem ∧ t.pend = s.pend ∧ t.me.tx = Tx.none ∧ t.me.pc = s.me.tx.resume ∧ t.me.xb = s.me.tx.snapXb ∧
       t.me.lastTx = w ∧ t.others = s.others ∧
       ∀ k : Reg, t.me.sreg k = if k = 0 then 0 else if k = s.me.tx.d then w.setWidth 64 else vget s.me.tx.snapS k.toNat) ∧
    (s.me.conflictFinal = false →
      let t := abortConflict s
      t.mem = s.mem ∧ t.pend = s.pend ∧ t.me.pc = s.me.tx.resume ∧ t.me.xb = s.me.tx.snapXb ∧
        t.me.tx.aborts = s.me.tx.aborts + 1 ∧ t.me.tx.active = s.me.tx.active ∧ t.me.tx.wbuf = [] ∧ t.me.tx.rlog = [] ∧
        ∀ k : Reg, t.me.sreg k = if k = 0 then 0 else vget s.me.tx.snapS k.toNat)

/-- R278: what the lead stream of a group may not do inside a transaction ends it with a final TX_ILLEGAL_OP (0x52) and
has no other effect. The privileged forms are those of supervisor mode; at user level they raise PRIVILEGE before. -/
def Obligations.ForbiddenInTransactions : Prop :=
  ∀ s : State, s.me.tx.active = true → s.me.isHost = false → s.me.ctx ≠ 0 → s.issue.ord = none →
    let out (i : Instr) : Prop := exec i s = .next (abortFinal 0x52 0 s)
    (∀ (d a b sq : Reg) (x : BitVec 3) (z y : BitVec 4) (c : BitVec 16) (l v : Bool) (k2 k3 : BitVec 2),
      out (.tload d a x z) ∧ out (.tloadLease d a x z c) ∧ out (.tloadTry d a x z c) ∧ out (.redeem d a) ∧
      out (.redeemQ d a sq) ∧ out (.redeeml d a x) ∧ out (.redeemlLanding d a) ∧ out (.redeemlQ d a x l sq) ∧
      out (.tdrop a) ∧ out (.tdropQ a sq) ∧ out (.tlease d a b) ∧ out (.tleaseQ d a b sq) ∧
      out (.cpyt d a b) ∧ out (.cpytExt d a b v x l l) ∧ out (.cpyl d a b) ∧ out (.cpylExt d a b v x k2 k3) ∧
      out (.cpylRaw d a b v x) ∧ out (.cpyf d a b) ∧ out (.cpyfExt d a b v x k2) ∧ out (.cpyg d a b) ∧
      out (.cpygExt d a b v x l l) ∧ out (.bseal d) ∧ out (.bwait a) ∧ out (.bwaitn a) ∧
      out (.ksummOff a v x) ∧ out (.ksummBf16 a v x) ∧ out (.ksummE4m3 a v x) ∧ out (.ksummE5m2 a v x) ∧
      out (.ksummRebuild a v x) ∧ out (.ksummRead d a v x) ∧ out (.kbound a v x) ∧ out (.kfetch d a b v x) ∧
      out (.klist d a b v x) ∧ out (.launch d a) ∧ out (.launchTry d a) ∧ out (.lwaitg d a) ∧ out (.gexit a b) ∧
      out (.vgrow d a) ∧ out (.vshrink d a) ∧ out (.mloop a b) ∧ out (.accz a) ∧ out (.accld z a b) ∧
      out (.accldTyped z a b y x l) ∧ out (.accst z a b) ∧ out (.accstTyped z a b y x l) ∧ out (.accver d z) ∧
      out (.accverWait a z) ∧ out (.accverSet a z) ∧ out .texit ∧ out (.watch d a b) ∧ out (.assert a b)) ∧
    (∀ (t : BitVec 22) (g p : Bool) (m : BitVec 12) (n : BitVec 5) (k sc o : BitVec 3) (w n6 : BitVec 6) (a : Reg)
        (i : BitVec 16),
      out (.lrun t) ∧ out (.lwait g m) ∧ out (.osdef n a) ∧ out (.osend n) ∧ out (.osub n p k w) ∧ out (.fence sc o) ∧
      out (.fenceSys o) ∧ out (.fenceSysWin n6 o) ∧ out (.trap i)) ∧
    (∀ (d a : Reg) (c : BitVec 10), (csrRead (onward s) c.toNat).isSome = true → c.toNat < 0x100 ∨ s.me.sup = true →
      out (.csrwr d a c) ∧ out (.csrset d a c) ∧ out (.csrclr d a c)) ∧
    (s.me.sup = true → ∀ (d a b : Reg), out .rfe ∧ out (.haltpCtx a) ∧ out (.haltpPart a) ∧ out (.preemptSus a) ∧
      out (.preemptRes a) ∧ out (.injarm a b) ∧ out (.injarmRep a b) ∧ out (.ckptPool a b) ∧ out (.ckptStat d) ∧
      out .ckptRb)

/-- R269 to R274, R282: the lane forms. TXBEG, first in its clause, ends lanes that nest and begins an attempt in the
others; TXEND runs the commit step and TXABT ends each lane of active(M) with its code, both ending the clause and, where a
lane has no attempt, trapping TX_NOT_ACTIVE; TXSTAT writes the word of R268 for each lane. -/
def Sys2Proof.Claims.LaneTransactions : Prop :=
  (∀ s : State, LaneReady laneTxbegRule s →
    let c := laneIn laneTxbegRule s
    let q := laneOn laneTxbegRule s
    let nested := (lanesOf c.act).filter (nestedLane q.me.l c.cl.hdr)
    let others := (lanesOf c.act).filter fun k => !nestedLane q.me.l c.cl.hdr k
    (q.me.inTrap = false → c.cl.pos ≠ 0 → exec .laneTxbeg s =
      .next (stopLane (laneCtx s) [] (.frag 0x06 (slotAddr q c.slot)) s)) ∧
    (q.me.inTrap = false → c.cl.pos = 0 → q.me.tx.active = false → (others ≠ [] → CanReleaseAt 5 3 q) →
      let u := if others = [] then q else releaseState 5 q
      let locked := others.filter (laneNeedsLock q.me)
      let begun (u : State) : State := onLane (fun l => others.foldl (fun l k => beginLane c locked k l) l)
        (laneAborts c.age (nested.map fun k => (k, 0x51, 0)) [] u)
      let w := u.wicket.take u.me.id u.clocks.fabric
      (locked = [] → exec .laneTxbeg s = .next (begun u)) ∧
      (locked ≠ [] → w.holder = some u.me.id → exec .laneTxbeg s = .next (begun { u with wicket := w })) ∧
      (locked ≠ [] → w.holder ≠ some u.me.id → exec .laneTxbeg s =
        .next { s with wicket := s.wicket.take s.me.id s.clocks.fabric }))) ∧
  (let rule (_ : LaneF) : LRule := { noType := true, d := .none, m := false }
   ∀ s : State, LaneReady rule s →
    let c := laneIn rule s
    let q := laneOn rule s
    let out := (lanesOf c.act).filter fun k => (vget q.me.l.tx k).st != .running
    (out = [] → (∀ k ∈ lanesOf c.act,
        meetsHolder q (vget q.me.l.tx k).wbuf = true ∨ commitReady q (vget q.me.l.tx k).wbuf = true) →
      exec .laneTxend s = .next (commitStep c.age c.act (onLane (Lanes.endClause c.age c.after) q))) ∧
    (out ≠ [] → exec .laneTxend s = .next (stopLane (laneCtx s) [] (.lanes (out.map fun k => (k, 0x58, 0)) .stay) s))) ∧
  (let rule (_ : LaneF) : LRule := { noType := true, d := .none, i16 := 0xFF }
   ∀ s : State, LaneReady rule s →
    let c := laneIn rule s
    let q := laneOn rule s
    let out := (lanesOf c.act).filter fun k => (vget q.me.l.tx k).st != .running
    (out = [] → exec .laneTxabt s = .next (laneAborts c.age
      ((lanesOf c.act).map fun k => (k, 0x55, c.f.imm.toNat % 256)) []
      (onLane (Lanes.endClause c.age c.after) q))) ∧
    (out ≠ [] → exec .laneTxabt s = .next (stopLane (laneCtx s) [] (.lanes (out.map fun k => (k, 0x58, 0)) .stay) s))) ∧
  LaneForm .laneTxstat (fun _ => { noType := true, d := .pair, x := 0x8000 })
    (writesLanes (fun _ => 64) fun c s k =>
      let t := vget s.me.l.tx k
      if c.f.imm.getLsbD 31 then t.lastCommit else (txWord t.inTx (t.st == .running && t.fb) t.aborts t.last).toNat)

/-- R263, R275, R283, R285, R286: loads, stores and atomics of the lead stream inside a transaction. A read gives each byte as
the attempt itself wrote it last and else as it stands at its home, and puts what came from memory in the read log; a write
stands in the write buffer and nowhere else; an atomic is a read and a write of the same bytes. The order of their prefix has no
effect. A home in another package, the capacities and the lines of the holder of the fallback lock end the attempt (log entry
114 for an address that is no memory). -/
def Sys2Proof.Claims.TransactionalAccesses : Prop :=
  ∀ (s : State) (d a : Reg) (t : Tr), s.me.tx.active = true →
    let q := onward s
    (∀ z : BitVec 2,
      let n := 2 ^ z.toNat
      let ea (off : Word) : Word := s.me.sreg a + BitVec.ofNat 64 n * off
      let r := txReadDone t n q
      let u := txWriteDone t (leBytes n (s.me.sreg d).toNat) q
      let signed : Word := (BitVec.ofNat (8 * n) (txSees t n q)).signExtend 64
      let zero : Word := BitVec.ofNat 64 (txSees t n q)
      let reads (i : Instr) (e x : Word) : Prop := TxAccess q e n Need.read t →
        (OwnMemory s t → TxReadFits t n q → exec i s = .next { r with me := { r.me with s := sregSet r.me.s d x } }) ∧
        TxReadEnds i e t n s
      let stores (i : Instr) (e : Word) : Prop := TxAccess q e n Need.write t →
        (OwnMemory s t → TxWriteFits t n q → exec i s = .next u) ∧ TxWriteEnds i e t n s q
      (∀ o : BitVec 10, let e := ea (o.signExtend 64)
        reads (.ld z d a o) e signed ∧ reads (.ldN z d a o) e zero ∧ stores (.st z d a o) e) ∧
      ∀ o : BitVec 39, let e := ea (o.signExtend 64)
        reads (.ldLong z d a o) e signed ∧ reads (.ldNLong z d a o) e zero ∧ stores (.stLong z d a o) e) ∧
    EveryAtomic fun i signed f => ∀ (w4 : Bool) (b : Reg),
      let n := if w4 then 4 else 8
      let w := 8 * n
      let r := txReadDone t n q
      let old : BitVec w := BitVec.ofNat w (txSees t n q)
      let u := txWriteDone t (leBytes n (f w old ((s.me.sreg b).setWidth w) ((s.me.sreg d).setWidth w)).toNat) r
      TxAccess q (s.me.sreg a) n Need.both t →
        (OwnMemory s t → TxReadFits t n q → TxWriteFits t n r → u.me.tx.active = true → exec (i w4 d a b) s =
          .next { u with me := { u.me with s := sregSet u.me.s d (if signed then old.signExtend 64 else old.setWidth 64) } }) ∧
        TxReadEnds (i w4 d a b) (s.me.sreg a) t n s ∧
        (OwnMemory s t → TxReadFits t n q → TxWriteEnds (i w4 d a b) (s.me.sreg a) t n s r)

/-- R263, R275, R276, R283, R285: accesses to memory of a lane inside its attempt, whatever the agent that they are issued for.
What the lane itself wrote is what it reads, and of another lane's buffer nothing is; a read stands in its log and a write in its
buffer, and memory is as it was. A home in another package, a group's capacity, a line of the holder of the fallback lock and
bytes that another lane of the group has written end the lane's attempt, whose buffer is then empty. -/
def Sys2Proof.Claims.LaneTransactionalAccesses : Prop :=
  ∀ (s : State) (g : Agent) (k : Nat) (t : Tr), k < 32 → s.me.attempting k = true →
    let buf := (vget s.me.l.tx k).wbuf
    let key := (keyId s t.key).getD 0
    let fresh (n : Nat) := freshLines buf t.pa n
    let full (write : Bool) (lines : List Nat) : Prop :=
      (if write then 32 else 64) < (linesWith (if write then groupWrites s.me else groupReads s.me) lines).length
    let homes (n : Nat) : List (Nat × Byte) := (List.range n).map fun i => (t.pa + i, homeByte (txHome t n s) key (t.pa + i))
    let seen (n : Nat) : List Byte := (homes n).map fun p => (bufByte buf p.1).getD p.2
    let read (n : Nat) : State :=
      if fresh n = [] then markAccess s s.me t false
      else onLaneTx k (fun x => { x with
        rlog := x.rlog ++ (homes n).filter fun p => (bufByte buf p.1).isNone
        keys := noteKeys x.keys (fresh n) key t.comp }) (txHome t n s)
    let written (bs : List Byte) : State := onLaneTx k (fun x => { x with
      wbuf := (bs.zipIdx.map fun p => (t.pa + p.2, p.1)).reverse ++ x.wbuf
      keys := noteKeys x.keys (linesOf t.pa bs.length) key t.comp }) (markAccess s s.me t true)
    (∀ n, let out (e : LaneEnd) : Prop := (laneRead g k n (.mem t)).run s = .ok (.error e, s)
      let met := (fresh n).any fun l => (holderWrote s s.me.id).contains l
      (packageOf t.pa ≠ s.pkg.toNat → out (.fault 0x27 t.addr)) ∧
      (packageOf t.pa = s.pkg.toNat → (poolOf t.pa).isMemory = false → out (.final 0x52)) ∧
      (OwnMemory s t → full false (fresh n) → out (.final 0x54)) ∧
      (OwnMemory s t → ¬full false (fresh n) → met = true → out .conflict) ∧
      (OwnMemory s t → ¬full false (fresh n) → met = false → laneTxReady k t n false s = true →
        (laneRead g k n (.mem t)).run s = .ok (.ok (seen n), read n))) ∧
    (∀ bs : List Byte, let out (e : LaneEnd) : Prop := (laneWrite g k bs (.mem t)).run s = .ok (.error e, s)
      let lines := linesOf t.pa bs.length
      (packageOf t.pa ≠ s.pkg.toNat → out (.fault 0x27 t.addr)) ∧
      (packageOf t.pa = s.pkg.toNat → (poolOf t.pa).isMemory = false → out (.final 0x52)) ∧
      (OwnMemory s t → full true lines → out (.final 0x54)) ∧
      (OwnMemory s t → ¬full true lines → otherWrote s k t.pa bs.length = true → out .conflict) ∧
      (OwnMemory s t → ¬full true lines → otherWrote s k t.pa bs.length = false → laneTxReady k t bs.length true s = true →
        (laneWrite g k bs (.mem t)).run s = .ok (.ok (), written bs))) ∧
    ∀ e : LaneEnd, let u := (endAttempt k e s).1
      u.mem = s.mem ∧ u.pend = s.pend ∧ (vget u.me.l.tx k).wbuf = [] ∧ (vget u.me.l.tx k).rlog = []

/-- R284, R288: the early validation of an attempt, and the fallback lock: granted to the first in its queue while free,
revoked after 2^20 clocks of the fabric from a holder, whose lead attempt ends with a final TX_CONFLICT (0x53). -/
def Sys2Proof.Claims.TransactionEvents : Prop :=
  (∀ (s : State) (k : Nat), s.runner? s.me.id = some s.me →
    (attemptRan s k < 65536 → exec (.txEarlyValidation s.me.id k) s = .next s) ∧
    (65536 ≤ attemptRan s k →
      let q := restartRan k s
      (32 ≤ k → s.me.tx.active = true →
        (leadValid q = true → ∃ t, exec (.txEarlyValidation s.me.id k) s = .next t ∧ t.me = q.me ∧ t.mem = s.mem) ∧
        (leadValid q = false → ∃ t, exec (.txEarlyValidation s.me.id k) s = .next t ∧ t.me = (abortConflict q).me)) ∧
      (k < 32 → (vget s.me.l.tx k).st = .running → ∀ x, fragOf q.me.l k = some x →
        (laneValid q k = true → ∃ t, exec (.txEarlyValidation s.me.id k) s = .next t ∧ t.me = q.me ∧ t.mem = s.mem) ∧
        (laneValid q k = false → ∃ t, exec (.txEarlyValidation s.me.id k) s = .next t ∧
          t.me = (laneAborts x.age [] [k] q).me)))) ∧
  (∀ (s : State) (who : RunnerId) (rest : List RunnerId), s.wicket.holder = none → s.wicket.queue = who :: rest →
    ∃ t, exec .fallbackLockGrant s = .next t ∧ t.wicket.holder = some who ∧ t.wicket.queue = rest ∧
      t.wicket.since = s.clocks.fabric ∧ t.mem = s.mem) ∧
  (∀ (s : State) (who : RunnerId), s.wicket.holder = some who → exec .fallbackLockGrant s = .next s) ∧
  ∀ s : State, s.wicket.holder = some s.me.id → s.wicket.since + 2 ^ 20 ≤ s.clocks.fabric → s.me.tx.active = true →
    ∃ t, exec .fallbackLockRevoke s = .next t ∧ t.me = (abortFinal 0x53 0 s).me ∧ t.wicket.holder = none ∧ t.mem = s.mem

/-- R262 to R264, R266 to R268, R275, R281, R283, R285, R286: the lead transaction forms, its accesses, and what an abort
restores. -/
def Obligations.LeadTransactionForms : Prop :=
  LeadTransactions ∧ TransactionalAccesses ∧ AbortRestores

/-- R263, R269 to R276, R282 to R285, R288: the lane forms, a lane's accesses, early validation and the fallback lock. -/
def Obligations.LaneTransactionForms : Prop :=
  LaneTransactions ∧ LaneTransactionalAccesses ∧ TransactionEvents
/-- R292, R294 to R299, R302 to R305, R308: the copy forms of the lead stream and of the lanes. A form that passes its
checks joins the open set under the next operation number, registers the ranges of its sides and stands in the queue of
the least loaded porter that serves its runner; a copy of no bytes only joins the open set. -/
def Obligations.CopyForms : Prop :=
  (∀ (d a b : Reg) (v : Bool) (x : BitVec 3) (dk sk : BitVec 2) (mz st : Bool),
    let on (f : Copier → State → Word → Word → Word → State → Prop) (c : Copier) (s u : State) : Prop :=
      f c s (s.me.sreg d) (s.me.sreg a) (s.me.sreg b) u
    LeadCopy (.cpyl d a b) false false 0 (on fun c s p q n u => IssuesCpyl c s p q n 0 0 false u) ∧
    LeadCopy (.cpylExt d a b v x dk sk) (dk != 0 || sk != 0) v x
      (on fun c s p q n u => IssuesCpyl c s p q n dk.toNat sk.toNat false u) ∧
    LeadCopy (.cpylRaw d a b v x) false v x (on fun c s p q n u => IssuesCpyl c s p q n 0 0 true u) ∧
    LeadCopy (.cpyf d a b) false false 0 (on fun c s p q n u => IssuesCpyf c s p q n 0 u) ∧
    LeadCopy (.cpyfExt d a b v x dk) (dk != 0) v x (on fun c s p q n u => IssuesCpyf c s p q n dk.toNat u) ∧
    LeadCopy (.cpyt d a b) true false 0 (on fun c s p q n u => IssuesCpyt c s p q n false false u) ∧
    LeadCopy (.cpytExt d a b v x mz st) true v x (on fun c s p q n u => IssuesCpyt c s p q n mz st u) ∧
    LeadCopy (.cpyg d a b) true false 0 (on fun c s p q n u => IssuesCpyg c s p q n false false u) ∧
    LeadCopy (.cpygExt d a b v x mz st) true v x (on fun c s p q n u => IssuesCpyg c s p q n mz st u)) ∧
  LaneCopy .laneCpyt (laneCopyRule 0x11 fun _ => true)
    (fun f c s d a b u => IssuesCpyt c s d a b (f.c.getLsbD 4) (f.c.getLsbD 0) u) ∧
  LaneCopy .laneCpyl (laneCopyRule 0x7C fun f =>
      copyDk f != 3 && copySk f != 3 && (!f.c.getLsbD 6 || (copyDk f == 0 && copySk f == 0)))
    (fun f c s d a n u => IssuesCpyl c s d a n (copyDk f) (copySk f) (f.c.getLsbD 6) u) ∧
  LaneCopy .laneCpyf (laneCopyRule 0x30 fun f => copyDk f != 3) (fun f c s d p n u => IssuesCpyf c s d p n (copyDk f) u) ∧
  LaneCopy .laneCpyg (laneCopyRule 0x11 fun _ => true)
    (fun f c s d a b u => IssuesCpyg c s d a b (f.c.getLsbD 4) (f.c.getLsbD 0) u)

/-- R309 to R312: BSEAL closes the open set under the next batch number, which it writes; BSTAT tells the numbers of the
last sealed and the last complete batch; BWAIT ends when the batches up to the number are complete, BWAITN when no more
than the number are not; a marked batch among them traps ECC_UNCORRECTABLE (0xA1) once. -/
def Sys2Proof.Claims.Batches : Prop :=
  ∀ (s : State) (d a : Reg), s.me.tx.active = false →
    let n := (s.me.sreg a).toNat
    let marked (p : Batch → Bool) : Option Word := (s.me.batches.find? fun b => p b && b.mark.isSome).bind (·.mark)
    let trapped (p : Batch → Bool) (pa : Word) : State := leadTrap 0xA1 pa s.issue.pc
      { s with me := { s.me with batches := mapIf p (fun b => { b with mark := none }) s.me.batches } }
    (s.me.sealed < 2 ^ 32 - 1 → unfinished s < 16 → ∃ t, exec (.bseal d) s = .next t ∧
      t.me.sealed = s.me.sealed + 1 ∧ t.me.openOps = [] ∧ t.me.openMark = none ∧
      ⟨s.me.sealed + 1, s.me.openOps, s.me.openMark⟩ ∈ t.me.batches ∧
      (∀ b ∈ s.me.batches, batchDone s b = false → b ∈ t.me.batches) ∧
      t.me.s = sregSet s.me.s d (BitVec.ofNat 64 (s.me.sealed + 1)) ∧ t.mem = s.mem ∧ t.ops = s.ops ∧ t.others = s.others) ∧
    (s.me.sealed = 2 ^ 32 - 1 → exec (.bseal d) s = .next (leadTrap 0x72 0 s.issue.pc s)) ∧
    exec (.bstat d) s = .next (writes d (BitVec.ofNat 64 (s.me.sealed * 2 ^ 32 + batchesDone s)) s) ∧
    (s.me.sealed < n → exec (.bwait a) s = .next (leadTrap 0x72 0 s.issue.pc s)) ∧
    (n ≤ s.me.sealed → (∀ b ∈ s.me.batches, n < b.no ∨ batchDone s b = true) →
      (marked (fun b => decide (b.no ≤ n)) = none → exec (.bwait a) s = .next (onward s)) ∧
      ∀ pa, marked (fun b => decide (b.no ≤ n)) = some pa →
        exec (.bwait a) s = .next (trapped (fun b => decide (b.no ≤ n)) pa)) ∧
    (unfinished s ≤ n →
      (marked (batchDone s) = none → exec (.bwaitn a) s = .next (onward s)) ∧
      ∀ pa, marked (batchDone s) = some pa → exec (.bwaitn a) s = .next (trapped (batchDone s) pa))

/-- R245, R246, R292, R312: a porter starts its operations in order, four at a time; an operation that has started
completes: its moves are made at the homes, its batch is marked where it took a poisoned unit, and it leaves with its
ranges once every target outside has accepted what it wrote. -/
def Sys2Proof.Claims.PorterWork : Prop :=
  (∀ (s : State) (p : Nat),
    (∀ o, nextStart s p = some o → ∃ t, exec (.porterOperationStart p) s = .next t ∧
      t.ops = mapIf (fun x => x.no == o.no) (fun x => { x with started := true }) s.ops ∧ t.mem = s.mem ∧ t.me = s.me) ∧
    (nextStart s p = none → exec (.porterOperationStart p) s = .next s)) ∧
  (∀ (s : State) (n : Nat) (o : EngOp), s.ops.find? (fun x => x.no == n && x.started) = some o →
    ∀ ms raw, o.kind = .copy ms raw → movesReady s o raw ms = true →
      exec (.copyComplete n) s = .next (closeOp o (doMoves o raw ms s).2 (doMoves o raw ms s).1)) ∧
  (∀ (s : State) (o : EngOp) (first : Option Word), (s.outb.any fun b => b.ask == .op o.no && b.wr) = false →
    closeOp o first s = endOp o.no (markBatch o first s)) ∧
  ∀ (s : State) (n : Nat), (∀ g ∈ (endOp n s).lranges, g.op ≠ n) ∧
    (∀ p ∈ (endOp n s).parts, ∀ g ∈ p.ranges, g.op ≠ n) ∧ ∀ o ∈ (endOp n s).ops, o.no ≠ n

/-- R245, R246, R292, R309 to R312: batches, and what porters do with the operations queued. -/
def Obligations.BatchesAndPorters : Prop :=
  Batches ∧ PorterWork
/-- R378, R381, R384, R385: the KSUMM forms. A format form marks its page where the slice has room and queues a build; a
rebuild queues one in the page's format; .off queues the end of the mark and .read the copy of the summary. -/
def Sys2Proof.Claims.SummaryForms : Prop :=
  ∀ (s u : State) (d a : Reg) (v : Bool) (x : BitVec 3) (p : Portion), CanUsher s →
    let q := onward s
    let c := usherCopier v x s
    let block := p.t.pa / 16384
    KeyPageAt c q (s.me.sreg a) p →
      (∀ (i : Reg → Bool → BitVec 3 → Instr) (fmt : Nat),
        ((fmt = 1 ∧ i = Instr.ksummBf16) ∨ (fmt = 2 ∧ i = Instr.ksummE4m3) ∨ (fmt = 3 ∧ i = Instr.ksummE5m2)) →
        let part := markPart q p.t.pa q.me.part
        (page? q block).isSome = true ∨ markCount q p.t.pa part < markLimit q p.t.pa part →
        BuildQueued p fmt (markPage block (q.nextOp + 1) part fmt q) u → exec (i a v x) s = .next u) ∧
      (∀ k, page? q block = some k → BuildQueued p 0 q u → exec (.ksummRebuild a v x) s = .next u) ∧
      (AtUsher (usherAt p.t.pa) ⟨[], [p], [], [], .off block⟩ q u → exec (.ksummOff a v x) s = .next u) ∧
      ∀ k da ds, page? q block = some k → (c.operand (s.me.sreg d) 512).run q = .ok (da, q) → UsherDst c q da 512 64 ds →
        AtUsher (usherAt p.t.pa) ⟨ds, [p], sideRanges ds [], [], .read block (memLocs q ds)⟩ q u →
        exec (.ksummRead d a v x) s = .next u

/-- R386, R387, R390, R394: KBOUND takes a record that obeys R386, the query and the listed pages, each marked and of one
format, and queues their bounding with the header of its list; KLIST takes two lists of one mode and threshold and queues
their merge. -/
def Sys2Proof.Claims.SelectionForms : Prop :=
  (∀ (s u : State) (a : Reg) (v : Bool) (x : BitVec 3), CanUsher s →
    let c := usherCopier v x s
    let plain : Copier := { c with xb := none }
    ∀ ra bs qs vs pages ds q1 q2 q, (c.operand (s.me.sreg a) 64).run (onward s) = .ok (ra, onward s) →
      (c.load ra 64 64).run (onward s) = .ok (bs, q1) →
      let w := leNat bs
      selectBad w = false →
      let z := if bitN w 2 then 4 else 2
      (plain.load (selQuery w) (128 * z) 64).run q1 = .ok (qs, q2) →
      (plain.load (selPages w) (8 * selCount w) 8).run q2 = .ok (vs, q) →
      (boundPages plain none ((wordsOf 8 (selCount w) vs).map (BitVec.ofNat 64))).run q = .ok (pages, q) →
      UsherDst plain q (selList w) (64 + 16 * selCap w) 1 ds →
      (∀ p ∈ ds, (poolOf p.t.pa).isMemory = true → packageOf p.t.pa = q.pkg.toNat) →
      let query := (wordsOf z 128 qs).map fun y => BitVec.ofNat 32 (if z = 4 then y else y * 65536)
      SpentAtUsher (listUsher ds) ⟨ds, pages.flatMap (·.2), sideRanges ds [] ++ pages.map (fun p => pageRange p.1 (blockOf p.2 * 16384)),
        [], .bound (leBytes 64 (listHeader w)) query (pages.map fun p => (p.1, blockOf p.2)) [] (memLocs q ds)⟩ q u →
      exec (.kbound a v x) s = .next u) ∧
  ∀ (s u : State) (d a b : Reg) (v : Bool) (x : BitVec 3), CanUsher s →
    let c := usherCopier v x s
    ∀ aa ba da ab bb as bs ds q1 q, (c.operand (s.me.sreg a) 64).run (onward s) = .ok (aa, onward s) →
      (c.operand (s.me.sreg b) 64).run (onward s) = .ok (ba, onward s) →
      (c.load aa 64 64).run (onward s) = .ok (ab, q1) → (c.load ba 64 64).run q1 = .ok (bb, q) →
      let ha := leNat ab
      let hb := leNat bb
      headBad ha = false → headBad hb = false → headMode ha = headMode hb →
      (headMode ha = 0 → bitsN ha 127 96 = bitsN hb 127 96) →
      let n := 64 + 16 * headCap ha
      (c.operand (s.me.sreg d) n).run q = .ok (da, q) →
      (c.operand (s.me.sreg a) (64 + 16 * headHeld ha)).run q = .ok (aa, q) →
      (c.operand (s.me.sreg b) (64 + 16 * headHeld hb)).run q = .ok (ba, q) →
      c.portions q aa (64 + 16 * headHeld ha) Need.read = .ok as →
      c.portions q ba (64 + 16 * headHeld hb) Need.read = .ok bs → (∀ p ∈ as ++ bs, keyFault q p.t = false) →
      UsherDst c q da n 64 ds →
      (∀ p ∈ ds, (poolOf p.t.pa).isMemory = true → packageOf p.t.pa = q.pkg.toNat) →
      (∀ p ∈ ds, ∀ y ∈ as ++ bs, meets p.t.pa p.n y.t.pa y.n = false) →
      SpentAtUsher (listUsher ds) ⟨ds, as ++ bs, sideRanges ds as ++ sideRanges [] bs, [],
        .list (leBytes 64 ha) (leBytes 64 hb) (memLocs q as) (memLocs q bs) (memLocs q ds)⟩ q u →
      exec (.klist d a b v x) s = .next u

/-- R391, R392: KFETCH takes entries of a list from FIRST on and queues at a porter the fetch of their pages into the
landing or the mezzanine. -/
def Sys2Proof.Claims.KeyFetch : Prop :=
  ∀ (s u : State) (d a b : Reg) (v : Bool) (x : BitVec 3), CanUsher s → s.me.isHost = false →
    let c := usherCopier v x s
    let plain : Copier := { c with xb := none }
    let w := s.me.sreg b
    let first := slice w 15 0
    let cnt := slice w 31 16
    slice w 63 37 = 0 → slice w 33 32 < 2 → cnt ≠ 0 → cnt ≤ 256 →
    ∀ la ea hs es pages q1 q t o, (c.operand (s.me.sreg a) 64).run (onward s) = .ok (la, onward s) →
      (c.load la 64 64).run (onward s) = .ok (hs, q1) → headBad (leNat hs) = false → first + cnt ≤ headHeld (leNat hs) →
      (c.operand (s.me.sreg a + BitVec.ofNat 64 (64 + 16 * first)) (16 * cnt)).run q1 = .ok (ea, q1) →
      (c.load ea (16 * cnt) 16).run q1 = .ok (es, q) →
      let vals := w.getLsbD 32
      let e8 := w.getLsbD 36
      let frag := w.getLsbD 35
      (fetchPages plain vals (bitsN (leNat hs) 511 448) (readEntries cnt (es.map fun y => (y, false)))).run q = .ok (pages, q) →
      let span := 16384 * (cnt + if frag && !e8 && !vals && cnt % 2 == 1 then 1 else 0)
      (s.me.sreg d).toNat % 256 = 0 →
      (scratchSide (if w.getLsbD 34 then 2 else 1) (s.me.sreg d) span).run q = .ok ((t, o), q) →
      let p : Plan := ⟨[], pages.flatMap (·.2), pages.flatMap (fun y => sideRanges [] y.2), [landRange t o span true],
        .fetch e8 frag vals cnt (pages.flatMap fun y => memLocs q y.2) [] (.land t.uid o t.modes)⟩
      canIssue q p = true → porterLoad q (pickPorter q) < 32 →
      (let v := queueOp (some (pickPorter q)) 0 p q; u = spent v.me.id false v) →
      exec (.kfetch d a b v x) s = .next u

/-- R381, R384, R388 to R390, R394: the work of an usher. A build that starts in its turn gathers the page as it stands, and
replaces the summary of its block in one step, where the page was not marked or changed since; a listed page is bounded with the summary in force, an unmarked block's every channel open; when all are bounded, or for the two
lists of a KLIST, the list is written and the operation leaves with its ranges once what it wrote has been accepted. -/
def Sys2Proof.Claims.UsherWork : Prop :=
  ∀ (s : State) (n : Nat) (o : EngOp), s.ops.find? (fun x => x.no == n) = some o →
    (∀ block fmt key, o.kind = .build block fmt key → usherFirst s o = true → (s.outb.any fun b => b.ask == .op n && b.wr) = false →
      ∃ t, exec (.ksummBuildComplete n) s = .next t ∧ t.mem = s.mem ∧ (∀ y ∈ t.ops, y.no ≠ n) ∧
        t.pages = mapIf (fun q => q.block == block && decide (q.build ≤ n)) (fun q => { q with
          sum := q.next.getD (summarize s q.fmt key block)
          next := none }) s.pages) ∧
    (∀ block fmt key, o.kind = .build block fmt key → o.started = true → usherFirst s o = true → gathering s block = false →
      ∀ k m, (workSome n k m s).pages = mapIf (fun q => q.block == block && decide (q.build ≤ n))
        (fun q => { q with next := some (summarize s q.fmt key block) }) s.pages) ∧
    (∀ h q pages done dst k p, o.kind = .bound h q pages done dst → pages[k]? = some p → (∀ e ∈ done, e.1 ≠ k) →
      let now := done ++ [(k, boundOf q (((page? s p.2).map (·.sum)).getD openSummary))]
      ∃ t, exec (.usherBound n k) s = .next t ∧ t.mem = s.mem ∧ t.pages = s.pages ∧
        { o with kind := .bound h q pages now dst } ∈ t.ops) ∧
    (∀ h q pages done dst, o.kind = .bound h q pages done dst → usherFirst s o = true → done.length = pages.length →
      placesReady s o dst = true →
      exec (.gatherListMerge n) s = .next (closeOp o none (writeLocs o dst (boundList h pages done) s))) ∧
    ∀ ha hb a b dst, o.kind = .list ha hb a b dst → usherFirst s o = true → placesReady s o dst = true →
      sourcesReady s o (a ++ b) = true →
      let ra := readLocs s o a
      let rb := readLocs s o b
      exec (.gatherListMerge n) s = .next (closeOp o (ra.2.or rb.2) (writeLocs o dst
        (mergeLists (leNat ha) (leNat hb) (readEntries (headHeld (leNat ha)) (ra.1.drop 64))
          (readEntries (headHeld (leNat hb)) (rb.1.drop 64))) (touchLocs (a ++ b) s)))

/-- R378, R381, R384, R385, R388 to R390, R394: the KSUMM forms and the work of an usher. -/
def Obligations.Summaries : Prop :=
  SummaryForms ∧ UsherWork

/-- R386, R387, R390 to R392, R394: KBOUND, KLIST and KFETCH. -/
def Obligations.Selections : Prop :=
  SelectionForms ∧ KeyFetch
/-- R335 to R337, R348, R349, R352 to R354, R357: the lead forms. MLOOP queues its region where both ports can give its
bytes, ACCZ the tiles of its mask, ACCLD and ACCST a tile against a span of the landing, each after the checks of R336 and
where its core's queue has room; ACCVER reads a tile's version, waits for it, or sets it once no operation names the tile. A
tile beyond the team's allotment traps MATRIX_OPERAND (0x65). -/
def Sys2Proof.Claims.MatrixLead : Prop :=
  ∀ (s : State) (team : Team) (a b d : Reg) (t y : BitVec 4) (rm : BitVec 3) (sat : Bool), s.me.isHost = false →
    s.me.tx.active = false → myTeam s = some team →
    let q := onward s
    let v := s.me.sreg b
    let ver := slice v 15 0
    let pitch := slice v 47 32
    let o := (s.me.sreg a).toNat
    let trap (c : Nat) : State := leadTrap c 0 s.issue.pc s
    let queues (i : Instr) (kind : MKind) (tiles : List Nat) (ver : Nat) : Prop :=
      IssuesMatrix i s q team kind tiles ver none trap id
    let span (z : BitVec 4) (write : Bool) : Prop :=
      slice v 63 48 = 0 ∧ slice v 31 16 = 0 ∧ pitch % 8 = 0 ∧ 128 * slotBytes z ≤ pitch ∧ o + tileSpan pitch z ≤ team.len ∧
        o % 8 = 0 ∧ landHit q team.uid o (tileSpan pitch z) write = false
    (span 0 false → queues (.accld t a b) (.accld o pitch 0 team.modes) [t.toNat] ver) ∧
    (span y false → queues (.accldTyped t a b y rm sat) (.accld o pitch y team.modes) [t.toNat] ver) ∧
    (span 0 true → queues (.accst t a b) (.accst o pitch 0 0 false team.modes) [t.toNat] ver) ∧
    (span y true → queues (.accstTyped t a b y rm sat) (.accst o pitch y rm sat team.modes) [t.toNat] ver) ∧
    (let m := s.me.sreg a
     let tiles := (List.range 16).filter fun k => m.getLsbD k
     tiles ≠ [] → slice m 63 32 = 0 → queues (.accz a) .accz tiles (slice m 31 16)) ∧
    (t.toNat < team.tiles →
      let named : Bool := q.mops.any fun m => m.team == team.uid && m.tiles.contains t.toNat
      exec (.accver d t) s = .next (writes d (BitVec.ofNat 64 (vget team.vers t.toNat)) s) ∧
      (slice (s.me.sreg a) 63 16 = 0 →
        (o ≤ vget team.vers t.toNat → exec (.accverWait a t) s = .next q) ∧
        (vget team.vers t.toNat < o → exec (.accverWait a t) s = .next s) ∧
        (named = false →
          exec (.accverSet a t) s = .next (onTeam team.uid (fun u => { u with vers := vset u.vers t.toNat o }) q)) ∧
        (named = true → exec (.accverSet a t) s = .next s)) ∧
      (slice (s.me.sreg a) 63 16 ≠ 0 →
        exec (.accverWait a t) s = .next (trap 0x65) ∧ exec (.accverSet a t) s = .next (trap 0x65))) ∧
    (team.tiles ≤ t.toNat → ∀ i ∈ [Instr.accld t a b, .accldTyped t a b y rm sat, .accst t a b, .accstTyped t a b y rm sat,
      .accver d t, .accverWait a t, .accverSet a t], exec i s = .next (trap 0x65)) ∧
    (let w := s.me.sreg a
     let kch := slice v 47 32
     let tile := slice v 31 28
     let nr := 1 + slice v 27 27
     let nc := 1 + slice v 26 24
     let f64 := v.getLsbD 22
     let tiles := (List.range (nr * nc)).map fun k => tile + 8 * (k / nc) + k % nc
     let sa := slabSize f64 (sideA w) (128 * nr) * kch
     let sb := slabSize f64 (sideB w) ((if f64 then 64 else 128) * nc) * kch
     slice v 21 0 = 0 → kch ≠ 0 → tile % 8 + nc ≤ 8 → tile / 8 + nr ≤ 2 → (∀ k ∈ tiles, k < team.tiles) → (f64 = true → w = 0) →
     (f64 = false → formatBad w = false ∧ scaleCause q team (scaleSpans w (128 * nr) (128 * nc) (32 * kch)) = none) →
     ((portGives q team.core false sa && portGives q team.core true sb) = true →
       queues (.mloop a b) (.mloop f64 w (v.getLsbD 23) team.modes nr nc kch 0 [] []) tiles (slice v 63 48)) ∧
     ((portGives q team.core false sa && portGives q team.core true sb) = false → exec (.mloop a b) s = .next (trap 0x63)))

/-- R335 to R337, R339 to R341, R356, R461, R465: the lane forms. MMA reads its two fragments at issue and queues the product
on its tile, waiting while the snapshot buffer of its core has no room for them; ACCRD and ACCWR queue a row of a tile
against four registers. Each counts in its flag; in a protected grid each of the three traps MATRIX_OPERAND (0x65) and
queues nothing. -/
def Sys2Proof.Claims.MatrixLanes : Prop :=
  let open_ (q : State) : Prop := q.grids.any (fun g => g.handle == q.me.grid && g.prot) = false
  let queues (i : Instr) (s q : State) (t : Team) (c : LaneCtx) (kind : MKind) (tile : Nat) : Prop :=
    IssuesMatrix i s q t kind [tile] c.version c.flag (fun x => stopLane (laneCtx s) [] (.frag x 0) s) (flagged c)
  (∀ (s : State) (t : Team), LaneReady mmaRule s →
    let c := laneIn mmaRule s
    let q := laneOn mmaRule s
    open_ q → c.m0 = q.me.l.live → myTeam q = some t → c.f.d.toNat < t.tiles →
    let f64 := c.f.ty == 0xD
    let w := if f64 then 0 else runMfb q
    let na := if f64 then 64 else rowSize (sideA w).fmt
    let nb := if f64 then 32 else rowSize (sideB w).fmt
    (f64 = false → formatBad w = false ∧ scaleCause q t (scaleSpans w 128 128 32) = none) →
    c.f.a.toNat + na ≤ q.me.l.count → c.f.b.toNat + nb ≤ q.me.l.count → q.me.l.count ≤ 256 →
    interlocked q [(c.f.a.toNat, na), (c.f.b.toNat, nb)] = false →
    (snapshotUse q t.core + 128 * (na + nb) ≤ 49152 →
      queues .mma s q t c (.mma f64 w (c.f.imm.getLsbD 0) t.modes
        (imageBytes q.me.l c.f.a.toNat na) (imageBytes q.me.l c.f.b.toNat nb)) c.f.d.toNat) ∧
    (49152 < snapshotUse q t.core + 128 * (na + nb) → c.version ≠ 0xFFFF → vget t.vers c.f.d.toNat ≤ c.version →
      versionTaken q t [c.f.d.toNat] c.version = false → exec .mma s = .next s)) ∧
  (∀ (s : State) (t : Team), LaneReady (accRowRule true) s →
    let c := laneIn (accRowRule true) s
    let q := laneOn (accRowRule true) s
    open_ q → myTeam q = some t →
    queues .accrd s q t c (.accrd (c.f.imm.toNat % 128) (c.f.ty == 0xD) c.f.d.toNat c.act) c.f.a.toNat) ∧
  (∀ (s : State) (t : Team), LaneReady (accRowRule false) s →
    let c := laneIn (accRowRule false) s
    let q := laneOn (accRowRule false) s
    open_ q → myTeam q = some t →
    queues .accwr s q t c (.accwr (c.f.imm.toNat % 128) (c.f.ty == 0xD) c.act
      ((List.range 4).map fun j => vget q.me.l.v (c.f.a.toNat + j))) c.f.d.toNat) ∧
  let closed (i : Instr) (rule : LaneF → LRule) : Prop := ∀ s : State, LaneReady rule s → ¬ open_ (laneOn rule s) →
    exec i s = .next (stopLane (laneCtx s) [] (.frag 0x65 0) s)
  closed .mma mmaRule ∧ closed .accrd (accRowRule true) ∧ closed .accwr (accRowRule false)

/-- R337, R338, R343 to R347, R350: the matrix engine of a core. OSUB subscribes a port to a stream; the distributor offers
the next element to every subscriber, keeps its cause (an uncorrectable error with no owner left raises the halt line), or asks
a target outside for it; an operation that may start starts;
a running MLOOP takes what its ports hold of its next slabs and does the step once it has both, which is the model's reading
(log entry 96), and stops at its step while its team is being pre-empted; an operation that has run
completes: every tile that it names has its version one higher, a product leaves the landing as it is, and memory is
unchanged. -/
def Obligations.MatrixWork : Prop :=
  (∀ (s : State) (n : BitVec 5) (p : Bool) (k : BitVec 3) (w : BitVec 6) (x : Stream), s.me.isHost = false →
    s.me.tx.active = false → s.streams.find? (fun x => x.gal == myGallery s && x.os == n.toNat) = some x →
    let gal := myGallery s
    let mine := s.subs.filter fun b => b.gal == gal && b.os == n.toNat
    let sub : Sub := ⟨s.me.core, p, gal, n.toNat, w.toNat + 1, 0, [], 0⟩
    streamToPorts x.desc = true → x.squad = mySquad s → portSub s s.me.core p = none → (∀ b ∈ mine, b.core ≠ s.me.core) →
    x.nsub = none ∨ x.nsub = some (k.toNat + 1) → mine.length < k.toNat + 1 → x.full = false →
    distributorNeed s gal (s.subs ++ [sub]) ≤ 262144 →
    exec (.osub n p k w) s = .next (onStream gal n.toNat
      (fun x => { x with nsub := some (k.toNat + 1), full := mine.length + 1 == k.toNat + 1 })
      { onward s with subs := s.subs ++ [sub] })) ∧
  (∀ (s : State) (core k : Nat) (m : MOp), (coreOps s core)[k]? = some m →
    (mayStart s core k m = true → exec (.matrixOperationStart core k) s =
      .next (onCoreOp core k (fun m => { m with running := true }) s)) ∧
    (mayStart s core k m = false → exec (.matrixOperationStart core k) s = .next s) ∧
    (m.running = true → m.kind.finished = true → exec (.matrixOperationComplete core k) s = .next (finishMatrix core k m s)) ∧
    (m.running = false → exec (.matrixOperationComplete core k) s = .next s)) ∧
  (∀ (s : State) (core k : Nat) (m : MOp) (f64 : Bool) (w : Word) (init : Bool) (modes : BitVec 24)
      (nr nc kch step : Nat) (pa pb : List Byte),
    (coreOps s core).findIdx? (fun m => m.running && m.kind.isLoop && !m.stopped s) = some k → (coreOps s core)[k]? = some m →
    m.kind = .mloop f64 w init modes nr nc kch step pa pb → step < kch →
    let ra := takeBytes core false (m.kind.slab false - pa.length) s
    let rb := takeBytes core true (m.kind.slab true - pb.length) ra.2
    let a := pa ++ ra.1
    let b := pb ++ rb.1
    let became (step : Nat) (pa pb : List Byte) : State → State :=
      onCoreOp core k fun m => { m with kind := .mloop f64 w init modes nr nc kch step pa pb }
    (a.length = m.kind.slab false → b.length = m.kind.slab true →
      exec (.mloopKStep core) s = .next (endSubs core (became (step + 1) [] []
        (onTeam m.team (regionStep f64 w (init && step == 0) modes m.fixed ((if f64 then 8 else 32) * kch) (32 * step) m.tile nr nc a b)
          rb.2)))) ∧
    (¬ (a.length = m.kind.slab false ∧ b.length = m.kind.slab true) →
      exec (.mloopKStep core) s = .next (became step a b rb.2))) ∧
  (∀ (s : State) (core : Nat), ((coreOps s core).any fun m => m.running && m.kind.isLoop && !m.stopped s) = false →
    exec (.mloopKStep core) s = .next s) ∧
  (∀ (s : State) (gal os : Nat) (x : Stream),
    s.streams.find? (fun x => x.gal == gal && x.os == os && streamToPorts x.desc) = some x →
    (halted s x.part = true → exec (.distributorElementRead gal os) s = .next s) ∧
    (mayOffer s x = false → halted s x.part = false → exec (.distributorElementRead gal os) s =
      .next ((x.fault.map fun e => distributorHalt x e s).getD s)) ∧
    (∀ e, e.1 ≠ 0xA1 ∨ (s.runners.any fun r => r.id == x.owner) = true → distributorHalt x e s = s) ∧
    (mayOffer s x = true → halted s x.part = false →
      (∀ e, readElement s x x.next = .error e →
        exec (.distributorElementRead gal os) s =
          .next (distributorHalt x e (onStream gal os (fun y => { y with fault := some e }) s))) ∧
      (∀ u, readElement s x x.next = .ok (none, u) → exec (.distributorElementRead gal os) s = .next u) ∧
      ∀ bs u, readElement s x x.next = .ok (some bs, u) →
        exec (.distributorElementRead gal os) s = .next (onStream gal os (fun y => { y with next := y.next + 1 })
          { u with subs := mapIf (fun b => b.gal == gal && b.os == os) (Sub.offer (streamElem x.desc) x.next bs) u.subs }))) ∧
  ∀ (s : State) (core k : Nat) (m : MOp) (t : Team), (coreOps s core)[k]? = some m → m.running = true →
    m.kind.finished = true → team? s m.team = some t → t.groups ≠ 0 → (∀ x ∈ s.teams, x.uid = t.uid → x = t) →
    ∃ u v, exec (.matrixOperationComplete core k) s = .next u ∧ v ∈ u.teams ∧ v.uid = t.uid ∧
      (m.tiles.Nodup → ∀ j, j < 16 → vget v.vers j = vget t.vers j + if m.tiles.contains j then 1 else 0) ∧
      (m.kind.isCompute = true → v.land = t.land) ∧ u.mem = s.mem

/-- R335 to R337, R339 to R341, R348, R349, R352 to R354, R356, R357, R465: the matrix forms of both streams. -/
def Obligations.MatrixForms : Prop :=
  MatrixLead ∧ MatrixLanes
/-- R400 to R403, R407, R412, R417: LAUNCH performs the issuer's earlier accesses, reads its record, clears the completion
word and adds the grid to its queue, delivering the handle; where the queue is full the try form delivers 0 and the other
waits. LWAITG waits for a completion word; GSTAT reads a grid's state; TEXIT ends a group whose lanes are done; GEXIT ends
a grid; VGROW and VSHRINK change the group's register count, or wait for blocks; a grid whose predecessors have all
completed becomes ready, and one with a predecessor that failed is cancelled unless its record lets it run. -/
def Obligations.LaunchForms : Prop :=
  ∀ (s : State) (d a b : Reg), s.me.tx.active = false →
    (∀ (t t2 : Tr) (preds prod : List (Nat × Nat)) (w : Nat) (shape : Shape) (q0 q1 : State), s.me.ctx ≠ 0 →
      outboundIdle (onward s) = true → CanReleaseAt 7 2 (onward s) → q0 = releaseState 7 (onward s) →
      q0.me.tx.active = false →
      let ra := s.me.sreg a
      q0.me.sreg a = ra → ra.toNat % 128 = 0 → LeadAccess q0 ra 128 Need.read t → markReady q0 q0.me t false = true → w = leNat (leBytes 128 (dieSees t 128 q0)) →
      let q := readDone t 128 q0
      issuerDepth q ≠ 10 → launchBad q w = false →
      (recDispatch w = 0 → shape = recShape w ∧ q1 = q) →
      (recDispatch w ≠ 0 → (readTable (BitVec.ofNat 64 (recDispatch w))).run q = .ok (shape, q1)) →
      shapeBad (recSquad w) shape = false →
      (namedWord (BitVec.ofNat 64 (recDone w)) Need.write).run q1 = .ok (t2, q1) → rangeHit q q.me.part t2.pa 8 true = false →
      (predWords ((List.range 4).map (recPred w))).run q1 = .ok (preds, q1) →
      (predWords [recProducer w]).run q1 = .ok (prod, q1) →
      let write (u : State) (x : Word) : State := { u with me := { u.me with s := sregSet u.me.s d x } }
      (queueLoad q q.me.part (recQueue w) < 256 → ∀ u, (clearDone t2).run q1 = .ok ((), u) →
        let made := write (markDirty { u with grids := u.grids ++ [newGrid u w shape t2 preds] }) (BitVec.ofNat 64 (recDone w))
        let done := spent made.me.id false made
        exec (.launch d a) s = .next done ∧ exec (.launchTry d a) s = .next done) ∧
      (256 ≤ queueLoad q q.me.part (recQueue w) →
        exec (.launch d a) s = .next s ∧ exec (.launchTry d a) s = .next (spent (write q1 0).me.id false (write q1 0)))) ∧
    (∀ t, LeadAccess (onward s) (s.me.sreg a) 8 Need.read t → markReady (onward s) (onward s).me t false = true →
      let v := BitVec.ofNat 64 (dieSees t 8 (onward s))
      let u := spent s.me.id false (readDone t 8 (onward s))
      (v.getLsbD 63 = true → exec (.lwaitg d a) s = .next { u with me := { u.me with s := sregSet u.me.s d v } }) ∧
      (v.getLsbD 63 = false → exec (.lwaitg d a) s = .next (spent s.me.id false s))) ∧
    (∀ g, namedGrid s (s.me.sreg a) = some g → exec (.gstat d a) s = .next (writes d (gridWord (onward s) g) s)) ∧
    (namedGrid s (s.me.sreg a) = none → exec (.gstat d a) s = .next (writes d 0 s)) ∧
    (outboundIdle (onward s) = true → CanReleaseAt 7 2 (onward s) →
      let q := markDirty (releaseState 7 (onward s))
      let code := slice (q.me.sreg b) 15 0
      (∀ g, namedGrid q (q.me.sreg a) = some g → exec (.gexit a b) s = .next (endGrid g.handle 1 code q)) ∧
      (namedGrid q (q.me.sreg a) = none → exec (.gexit a b) s = .next q)) ∧
    (s.me.isHost = false → waitOver true 0 (onward s) = true → lanesIdle (onward s) = true →
      let q := drainLanes (onward s)
      let left := countExit q.me.team (dropRunners (fun r => r.id == q.me.id) q)
      (ckDue left q.me.team && ckBusy left q.me.team) = false →
      exec .texit s = .next (settleSquad (((myTeam q).map (·.squad)).getD 0) (settleTeam q.me.team left))) ∧
    (s.me.isHost = false → countOk (s.me.sreg a).toNat = true →
      let n := (s.me.sreg a).toNat
      let c := s.me.l.count
      let q := onward s
      (n ≤ c → exec (.vgrow d a) s = .next (writes d (BitVec.ofNat 64 c) s)) ∧
      (c < n → teamBlocks q + (blocksOf n - blocksOf c) ≤ 256 →
        (blocksHeld q s.me.core + (blocksOf n - blocksOf c) ≤ 256 → growBehind q q.me = false →
          exec (.vgrow d a) s = .next (onLane (growTo n) (writes d (s.me.sreg a) s))) ∧
        (256 < blocksHeld q s.me.core + (blocksOf n - blocksOf c) ∨ growBehind q q.me = true →
          exec (.vgrow d a) s = .next (onLane (fun l => { l with grow := l.grow.or (some (n, coreClock s s.me.core)) }) s))) ∧
      (c ≤ n → exec (.vshrink d a) s = .next (writes d (BitVec.ofNat 64 c) s)) ∧
      (n < c → waitOver true 0 q = true → lanesIdle q = true → ∃ u, exec (.vshrink d a) s = .next u ∧
        u = onLane (fun l => { l with count := n })
          { drainLanes q with me := { (drainLanes q).me with s := sregSet (drainLanes q).me.s d (s.me.sreg a) } })) ∧
    ∀ (h : Word) (g : Grid), s.grids.find? (fun x => x.handle == h && !x.ready && x.stop.isNone) = some g →
      halted s g.part = false →
      let t := outSpend scheduler (.grid h) s
      let readied (x : Grid) : Grid := { x with ready := true, unplacedSince := partClock s g.part }
      ((∀ p ∈ g.preds, ∃ w, predWord s h p = some w ∧ w.getLsbD 63 = true ∧ predFailed w = false) →
        exec (.gridReady h) s = .next { t with grids := mapIf (fun x => x.handle == h) readied t.grids }) ∧
      (g.runany = false → (∃ p ∈ g.preds, ∃ w, predWord s h p = some w ∧ predFailed w = true) →
        lockedOut s none g.done.1 8 = false →
        ∃ u, exec (.gridReady h) s = .next u ∧
          (answeredOutside t g.done.1 = false → ∀ x ∈ u.grids, x.handle ≠ g.handle) ∧
          ∀ x ∈ u.grids, x.handle = g.handle → x.stop = some (3, 0))
/-- R406, R409, R411 to R416, R454, R456: the scheduler. A running partition makes its next placement; a head squad that has
found no room for 65 536 clocks gains a reservation; a producer's squad that has found none for 4096, or a request for
registers that does not fit, makes the youngest squad concerned leave; a request that fits is granted; a squad whose engines
have all acknowledged is saved; a group that has been ready at a stage for 128 clocks is promoted there. From when a head waits,
and that one event takes one victim, are the model's readings (log entries 36, 37). -/
def Sys2Proof.Claims.SchedulerSteps : Prop :=
  ∀ (s : State) (part queue core squad : Nat) (h : Word) (p : Part), partAt s part = some p →
    (∀ t, nextPlacement s p = some t → exec (.squadPlacement part) s = .next t) ∧
    (nextPlacement s p = none → exec (.squadPlacement part) s = .next s) ∧
    (∀ g, headOf s part queue = some g → 65536 ≤ partClock s part - g.unplacedSince → ctxHeld s g.ctx = false →
      hasRoom s p g = false → p.reserve.contains (queue, g.unplacedSince) = false →
      ∃ t, exec (.placementReservation part queue) s = .next t ∧ t.me = s.me ∧ t.mem = s.mem ∧
        ∃ x ∈ t.parts, x.no = part ∧ x.reserve.contains (queue, g.unplacedSince) = true) ∧
    (∀ g, headOf s part queue = some g → (partClock s part - g.unplacedSince < 65536 ∨ ctxHeld s g.ctx = true ∨
        hasRoom s p g = true ∨ p.reserve.contains (queue, g.unplacedSince) = true) →
      exec (.placementReservation part queue) s = .next s) ∧
    (∀ g q, s.grids.find? (fun x => x.handle == h && x.ready && x.unplaced) = some g → g.part = part →
      4096 ≤ partClock s part - g.unplacedSince → bestPlace s p (.next g) = none →
      let consumer (q : Squad) : Bool := q.part == part && (producersOf s q.grid).any fun x => x.handle == h
      s.squads.any (fun q => consumer q && q.leaving) = false →
      (youngest (fun q => consumer q && squadWaits s q) s).or (youngest consumer s) = some q →
      exec (.producerPreemption h) s = .next (startLeaving q.uid s)) ∧
    (∀ r n since, firstGrow s core = some (r, n, since) →
      (growFits s core r n = true → exec (.vgrowGrant core) s =
        .next (s.onRunner r.id fun r => { r with l := growTo n r.l })) ∧
      (growFits s core r n = false → exec (.vgrowGrant core) s = .next s) ∧
      ((4096 ≤ coreClock s core - since ∨ ∀ x ∈ groupsOn s core, x.l.grow.isSome = true) → growFits s core r n = false → coreClosed s core = false →
        let mine := ((team? s r.team).map (·.squad)).getD 0
        ∀ q, youngest (fun q => q.uid != mine && s.teams.any fun t => t.squad == q.uid && t.core == core) s = some q →
          exec (.vgrowDeadlockBreak core) s = .next (startLeaving q.uid s))) ∧
    (∀ q, s.squads.find? (fun q => q.uid == squad) = some q → halted s q.part = false →
      (squadStill s q = true → exec (.preemptionComplete squad) s = .next (saveSquad q s)) ∧
      (squadStill s q = false → exec (.preemptionComplete squad) s = .next s)) ∧
    ∀ (who : RunnerId) (lane : Bool), exec (.issuePromotion who lane) s = .next (s.onRunner who fun r =>
      let due : Bool :=
        if lane then r.l.ready.2 && decide (128 ≤ r.l.readyFor.2) else r.l.ready.1 && decide (128 ≤ r.l.readyFor.1)
      if r.isHost || !due then r
      else { r with l := { r.l with promoted := (if lane then r.l.promoted.1 else true, if lane then true else r.l.promoted.2) } })

/-- R399, R415, R416: a grid whose teams have all ended, with no operation, child or matrix operation left, completes: every
accepted write of the package arrives first (log entry 60: more than the grid's own, which R416 releases), its completion word
is written at its home, and the grid is live no more; where DONE lies beyond the package, the word is on its way there. -/
def Sys2Proof.Claims.GridCompletion : Prop :=
  ∀ (s : State) (h : Word) (g : Grid), s.grids.find? (fun x => x.handle == h) = some g → halted s g.part = false →
    anyLocked s = false → lockedOut s none g.done.1 8 = false → gridOver s g = true →
    let stop := g.stop.getD (0, 0)
    let w := doneWord stop.1 stop.2 g.ended
    exec (.gridComplete h) s = .next (writeDone g w (arriveAll s fun _ => true)) ∧
      (w.getLsbD 63 = true ∧ slice w 55 48 = stop.1 % 256 ∧ slice w 47 32 = stop.2 % 65536 ∧ slice w 31 0 = g.ended % 2 ^ 32) ∧
      let u := arriveAll s fun _ => true
      let t := writeDone g w u
      (answeredOutside u g.done.1 = false → ∀ x ∈ t.grids, x.handle ≠ g.handle) ∧
      (answeredOutside u g.done.1 = true →
        t.outb.any (fun o => o.wr && (o.ask == .grid g.handle || meets o.pa o.bytes.length g.done.1 8)) = true)

/-- R154, R193, R222: a lane operation that is complete gives its flag back: the flag counts one operation less and the
operation is outstanding no more. -/
def Sys2Proof.Claims.FlagRelease : Prop :=
  ∀ (s : State) (who : RunnerId) (k : Nat),
    (∀ o, storeArrived s who k = some o → exec (.flagRelease who k) s =
      .next (s.onRunner who fun r => { r with l := { r.l.flagDown o.flag with outst := r.l.outst.eraseIdx k } })) ∧
    (storeArrived s who k = none → exec (.flagRelease who k) s = .next s)

/-- R399, R406, R409, R411 to R416, R454, R456, R154, R193, R222: the steps of the scheduler, of a grid that is over, and of a flag whose operation is complete. -/
def Obligations.Scheduler : Prop :=
  SchedulerSteps ∧ GridCompletion ∧ FlagRelease
/-- R237, R478, R482, R485, R486, R488, R492: what reaches the package. The k-th accepted write, once performed on its die,
reaches its home unless an earlier one that leads it is still on its way or the holder of the fallback lock is in the way; an
access outside the package is taken or answered, and with a grid's completion word the grid is live no more; a read that has
waited 2^20 clocks times out: an instruction's completes at its reader with poisoned data, an engine's keeps a lost answer. A
peer's write through a window reaches its port, and lands at the window's target under its key, unit after unit, behind what the
port has received before; one that hits no window is counted. -/
def Obligations.TrafficSteps : Prop :=
  (∀ (s : State) (k : Nat) (w : PWrite), s.pend[k]? = some w →
    let behind := (s.pend.take k).any fun x => x.seen && x.die == w.die && x.leads s w
    (w.seen = true → behind = false → lockedOut s (some w.who) w.addr w.bytes.length = false →
      exec (.memoryWriteArrival k) s = .next (arrive { s with pend := s.pend.eraseIdx k } w)) ∧
    (w.seen = false ∨ behind = true → exec (.memoryWriteArrival k) s = .next s)) ∧
  (∀ (s : State) (who : RunnerId) (v : Word) (k : Nat) (o : Outbound),
    s.outb.findIdx? (fun o => o.who == who && (o.wr || o.data.isNone) && o.reaches s) = some k → s.outb[k]? = some o →
    let mem := (poolOf o.pa).isMemory
    let t := { doneGrids (· == o) s with outb := s.outb.eraseIdx k }
    (∀ g ∈ t.grids, o.wr = true → o.ask ≠ .grid g.handle) ∧
    (o.wr = true → mem = false → exec (.outboundWriteAccept who v) s = .next t) ∧
    (o.wr = true → mem = true → lockedOut s none o.pa o.bytes.length = false → exec (.outboundWriteAccept who v) s = .next
      (countRange (touch (homeWrite t o.key o.comp o.pa o.bytes) none true true o.pa o.bytes.length) o.pa o.bytes.length)) ∧
    (o.wr = false → mem = false → o.ofPort = false →
      exec (.outboundWriteAccept who v) s = .next { s with outb := s.outb.set k { o with data := some v } }) ∧
    (o.wr = false → mem = false → o.ofPort = true → exec (.outboundWriteAccept who v) s = .next t) ∧
    (o.wr = false → mem = true → exec (.outboundWriteAccept who v) s =
      .next (t.onRunner who fun r => if r.wait = .answer then { r with wait := .none } else r))) ∧
  (∀ (s : State) (who : RunnerId), ∃ t, exec (.remoteAccessTimeout who) s = .next t ∧ t.mem = s.mem ∧
    ∀ o ∈ s.outb,
      (clockOf s who < o.since + 2 ^ 20 → o ∈ t.outb) ∧
      (o.since + 2 ^ 20 ≤ clockOf s who → o.who = who → poolOf o.pa ≠ .window →
        (o.wr = true → o ∉ t.outb ∧ ∀ g ∈ t.grids, o.ask ≠ .grid g.handle) ∧
        (o.wr = false → o.data = none → o.readBy who = true → s.me.id = who →
          t.me = { s.me with wait := .timedOut } ∧ o ∉ t.outb) ∧
        (o.wr = false → o.data = none → o.readBy who = false → o.ofPort = false →
          { o with data := some 0, lost := true } ∈ t.outb))) ∧
  (∀ (s : State) (port off : Nat) (bs : List Byte), isEndpoint s port = true → bs ≠ [] → bs.length ≤ 4096 →
    (∀ pa k, windowPlace s port off bs.length = some (pa, k) →
      exec (.peerWrite port off bs) s = .next { s with landed := s.landed ++ [⟨port, off / 2 ^ 30, pa, k, bs⟩] }) ∧
    (windowPlace s port off bs.length = none →
      exec (.peerWrite port off bs) s = .next { s with dev := { s.dev with peerdrop := satInc s.dev.peerdrop } })) ∧
  (∀ (s : State) (port : Nat) (w : Landed), s.landed.find? (fun w => w.port == port) = some w →
    let k := min w.bytes.length (8 - w.pa % 8)
    let left : Landed := { w with pa := w.pa + k, bytes := w.bytes.drop k }
    (lockedOut s none w.pa k = true → landNext port s = s) ∧
    (lockedOut s none w.pa k = false → landNext port s = peerStore port w.key false w.pa (w.bytes.take k)
      { s with landed := if left.bytes.isEmpty then s.landed.erase w else left :: s.landed.erase w })) ∧
  (∀ (s : State) (port off n pa slot : Nat), isEndpoint s port = true → windowSlot s port off n = some (pa, slot) →
    ((keyId s slot).isSome = true → exec (.peerRead port off n) s = .next (peerLoad port pa n s)) ∧
    ((keyId s slot).isSome = false →
      exec (.peerRead port off n) s = .next { s with dev := { s.dev with peerdrop := satInc s.dev.peerdrop } })) ∧
  ∀ (s : State) (port pa : Nat) (bs : List Byte) (k : Nat), isEndpoint s port = true →
    let ctl := vget s.dev.portctl port
    let a := s.pkg.toNat * 2 ^ 48 + pa % 2 ^ 48
    ctl.getLsbD 63 = true → keyId s (slice ctl 47 40) = some k → lockedOut s none a bs.length = false →
    exec (.bar4Access port pa true bs) s = .next (peerStore port k false a bs s) ∧
    exec (.bar4Access port pa false bs) s = .next (peerLoad port a bs.length s)

/-- R35, R472 to R477, R479, R483, R488, R490, R493, R494: the steps of links, memory and supply. Each changes only what is
named: a counter, an injector, the escape channels, the routing table, the error state of memory, a hotness list in
memory, a refresh sequencer, the stretched halls. An uncorrectable error poisons its unit at once, and a scrub visit the whole
line, which is the model's reading (log entry 52); so is that each stretched clock adds at least a nanosecond and that a
recovery may end one under way (log entry 119). -/
def Obligations.MachineUpkeep : Prop :=
  ∀ (s : State) (link router dest c stack hall ns line addr port vec core : Nat) (dir corrected : Bool) (links : List Nat),
    exec (.linkFlitError link corrected) s = .next (countLink link corrected s) ∧
    (∀ i, s.injectors.find? (fun i => i.link == link && i.dir == dir) = some i →
      let t := if (i.act = 1 ∧ i.arg ≠ 0) ∨ i.act = 2 then countLink link false s else s
      exec (.injectorAct link dir) s = .next
        (if i.rep then t else { t with injectors := t.injectors.filter fun j => !(j.link == link && j.dir == dir) })) ∧
    (∃ t, exec (.escapeRecovery router) s = .next t ∧ router ∈ t.escapes ∧ t.dev.recover = satInc s.dev.recover ∧
      t.mem = s.mem ∧ t.me = s.me) ∧
    exec (.escapeChannelEmpty router) s = .next { s with escapes := s.escapes.filter fun r => r != router } ∧
    (dest < 16 → 1 ≤ links.length → links.length ≤ 2 → (∀ l ∈ links, l < 8) →
      exec (.routingTableWrite dest links) s =
        .next { s with routing := (dest, links) :: s.routing.filter fun r => r.1 != dest }) ∧
    (port < 4 → vec < 2048 → exec (.msixMessage port vec) s = .next (notify
      (((s.msix.find? fun e => e.1 == port * 2048 + vec).map (·.2)).getD (Config.msixRoute port vec).toNat) 0 vec s)) ∧
    ((poolOf addr).isMemory = true →
      (∃ t, exec (.memoryError addr true) s = .next t ∧ t.poison = s.poison ∧ (addr / 8, true) ∈ t.latent ∧ t.mem = s.mem) ∧
      ∃ t, exec (.memoryError addr false) s = .next t ∧ addr / 8 ∈ t.poison ∧ (addr / 8, false) ∈ t.latent ∧ t.mem = s.mem) ∧
    (∃ t, exec (.scrubVisit line) s = .next t ∧ (∀ x ∈ t.latent, x.1 / 32 ≠ line) ∧ t.mem = s.mem ∧ t.me = s.me ∧
      ((∃ x ∈ s.latent, x.1 / 32 = line ∧ x.2 = false) → ∀ k, k < 32 → line * 32 + k ∈ t.poison) ∧
      ((∀ x ∈ s.latent, x.1 / 32 = line → x.2 = true) → t.poison = s.poison)) ∧
    exec (.controllerBatchForm c) s = .next s ∧
    (c < 13 → (vget s.dev.hot c).ctl.getLsbD 63 = true → ∃ t, exec (.hotnessIntervalEnd c) s = .next t ∧
      (vget t.dev.hot c).list = [] ∧ (vget t.dev.hot c).sketch = [] ∧ t.dev.notice.getLsbD 16 = true ∧
      slice (vget t.dev.hot c).ctl 31 0 = (slice (vget s.dev.hot c).ctl 31 0 + 1) % 2 ^ 32) ∧
    (stack < 12 →
      (2 ≤ (vget s.refresh stack).missed → (vget s.refresh stack).taken = false →
        ∃ t, exec (.refreshTakeover stack) s = .next t ∧ (vget t.refresh stack).taken = true ∧
        t.dev.notice.getLsbD stack = true ∧ t.mem = s.mem) ∧
      ((vget s.refresh stack).missed < 2 ∨ (vget s.refresh stack).taken = true →
        exec (.refreshTakeover stack) s = .next s) ∧
      vget (missBeat stack s).refresh stack =
        ⟨min 2 ((vget s.refresh stack).missed + 1), 0, (vget s.refresh stack).taken⟩ ∧
      ∃ t, exec (.refreshHeartbeat stack) s = .next t ∧ t.mem = s.mem ∧ t.dev = s.dev ∧
        (vget t.refresh stack).taken = ((vget s.refresh stack).taken && decide ((vget s.refresh stack).good < 3))) ∧
    (hall < 6 →
      (∃ t, exec (.supplySag hall) s = .next t ∧ hall ∈ t.stretched ∧ t.mem = s.mem ∧ t.dev = s.dev) ∧
      exec (.supplyRecover hall 0) s = .next { s with stretched := s.stretched.filter fun h => h != hall } ∧
      (ns ≠ 0 → ∃ t, exec (.supplyRecover hall ns) s = .next t ∧
        t.stretched = ((passHall hall 1 ns s).stretched.filter fun h => h != hall) ∧
        t.dev = (passHall hall 1 ns s).dev ∧ t.mem = s.mem) ∧
      (s.stretched.contains hall = true → (passHall hall core ns s).mem = s.mem ∧
        (vget (passHall hall core ns s).dev.stretch hall).toNat =
          min (2 ^ 64 - 1) ((vget s.dev.stretch hall).toNat + core * max 1 ns)))

/-- R446 to R449, R475, R495: a halt and the resets. While a halt is not collected, an engine of the partition that has not
acknowledged stops: its work goes, its record is written and it acknowledges; the collector blocks those left that have
counted 4096 clocks, of their partition or, on H, of the fabric; when none is left the halt is collected. A partition reset carries out a halt and clears what it names. A host core
that has stopped restarts as after reset. A package reset is the state after reset, but for the number of the package, the
modes of its ports and the model's own fields. That a partition reset is one step is the model's reading (log entry 49), and what
a restart and a package reset keep its choice (log entry 50). -/
def Obligations.HaltsAndResets : Prop :=
  ∀ (s : State) (part engine : Nat),
    (∀ p h, halting s part = some (p, h) →
      ((enginesLeft p h).contains engine = true → exec (.engineStop part engine) s =
        .next (onHalt part (fun h => { h with acked := h.acked ++ [engine] }) (stopEngine p h 0xB3 s engine))) ∧
      ((enginesLeft p h).contains engine = false → exec (.engineStop part engine) s = .next s) ∧
      (let late := (enginesLeft p h).filter fun n =>
         decide (4096 ≤ if onHost n then s.clocks.fabric - h.sinceFabric else partClock s p.no - h.since)
       (late ≠ [] → exec (.skidOverrun part) s =
         .next (onHalt part (fun x => { x with blocked := x.blocked ++ late }) (late.foldl (stopEngine p h 0xB4) s))) ∧
       (late = [] → exec (.skidOverrun part) s = .next s)) ∧
      (enginesLeft p h = [] → exec (.haltCollected part) s = .next (collectHalt p h s)) ∧
      (enginesLeft p h ≠ [] → exec (.haltCollected part) s = .next s)) ∧
    (∀ p, s.parts.find? (fun p => p.no == part) = some p →
      exec (.partitionReset part) s = .next (clearPart p (haltNow part s))) ∧
    (∀ n, s.me.id = .host n → s.me.stopped = true → ∃ t, exec (.hostCoreRestart n) s = .next t ∧
      t.me = { Runner.hostReset n with part := s.me.part, ints := s.me.ints } ∧ t.mem = s.mem) ∧
    exec .packageReset s = .next { State.reset with
      agenda := s.agenda, pkg := s.pkg, pkgs := s.pkgs, endpoint := s.endpoint, free := s.free }
/-- R151, R152, R74, R75: a run of the queue starts as one fragment of the live lanes, or of FAULTMASK in a handler, and
ends at once where there is none, its fragment of age nextAge, which counts on over the runs of a group: the model's choice
(log entry 80); a clause whose header obeys R75 and whose slots can be fetched starts in its fragment at
its first instruction. -/
def Sys2Proof.Claims.RunsAndClauses : Prop :=
  (∀ (s : State) (r : Run) (rest : List Run), s.me.l.run.runs = r :: rest → s.me.l.run.running = false →
    s.me.l.run.frags = [] →
    let m := if s.me.inTrap then s.me.l.faultmask else s.me.l.live
    (m = 0 → exec .runStart s = .next (onLane (fun l => { l with run := { l.run with runs := rest } }) s)) ∧
    (m ≠ 0 → ∃ t, exec .runStart s = .next t ∧ t.me.l.run.running = true ∧
      t.me.l.run.frags = [⟨m, r.slot, .runnable, s.me.l.nextAge, true, s.me.l.stamp⟩] ∧ t.me.l.run.runs = s.me.l.run.runs ∧
      t.me.l.run.split = [] ∧ t.me.l.run.cur = none ∧ t.me.l.v = s.me.l.v ∧ t.me.s = s.me.s ∧ t.mem = s.mem)) ∧
  ∀ (s : State) (x : Frag), s.me.l.run.frags.find? (fun x => x.age == s.issue.next.toNat) = some x →
    let h := s.issue.hdr
    let r := fetchClause x.pc h.n.toNat s
    (headerBad h = true → exec .clause s = .next (stopClause x (.frag 0x06 (slotAddr s x.pc)) s)) ∧
    (headerBad h = false → clauseStop s x.pc r.1 = none → ∃ t, exec .clause s = .next t ∧
      t = onLane (fun l => { l with run := { l.run with cur := t.me.l.run.cur } }) r.2 ∧
      ∃ c, t.me.l.run.cur = some c ∧ c.age = x.age ∧ c.hdr = x.pc ∧ c.n = h.n.toNat ∧ c.pos = 0 ∧
        c.code = r.1.filterMap (fun e => match e with | .ok w => some w | .error _ => none))

/-- R157 to R159: the forms that write a mask register write it in the lanes of active(M) and clear its other bits; MCNT
counts the lanes of a mask, or those below each lane. -/
def Sys2Proof.Claims.MaskForms : Prop :=
  LaneForm .mand (maskRule true) (writesMask (·.f.d.toNat) fun c s j => maskSeen c s c.f.a j && maskSeen c s c.f.b j) ∧
  LaneForm .mor (maskRule true) (writesMask (·.f.d.toNat) fun c s j => maskSeen c s c.f.a j || maskSeen c s c.f.b j) ∧
  LaneForm .mnot (maskRule false) (writesMask (·.f.d.toNat) fun c s j => !maskSeen c s c.f.a j) ∧
  LaneForm .mset
    (fun f =>
      let reg := f.d.getLsbD 7
      { ctlRule with
        m := true, d := .other, a := if reg then .one else .none, queue := false, x := if reg then 0 else 0xFFFF
        i16 := if reg then 0 else 0xFFFF
        also := bitsN f.d.toNat 6 4 == 0 && bitsN f.d.toNat 3 0 != 0 })
    (writesMask (fun c => c.f.d.toNat % 16) fun c _ j =>
      if c.f.d.getLsbD 7 then c.a j % 2 ^ 32 != 0 else c.f.imm.getLsbD j) ∧
  LaneForm .mcnt (fun f => { ctlRule with m := true, d := .one, a := .other, x := 0x8000, also := maskField f.a })
    (writesLanes (fun _ => 32) fun c s k => ((lanesOf c.act).filter fun j =>
      maskSeen c s c.f.a j && (!c.f.imm.getLsbD 31 || decide (j < k))).length)

/-- R76, R160 to R164, R172: divergence. BRL sends the lanes of active(M) that its mask selects to the target and the others
on, splitting the fragment where both are; a branch that takes effect on a slot that is no clause header traps BAD_CLAUSE
(0x06), which is looked at where the BRL stands (log entry 17); MARK pushes an entry that expects the fragment's lanes; JOIN
arrives at the youngest entry that expects them; CEND ends the run of a fragment that stands alone with no entry left, and traps
BAD_CLAUSE too where lanes stand aside in transactions (log entry 19); YIELD lets a spilled fragment take the record. -/
def Sys2Proof.Claims.Divergence : Prop :=
  (let rule (f : LaneF) : LRule := { flowRule with m := true, acc := true, a := .other, x := 0x803F, i16 := 0xFFFF, also := maskField f.a }
   ∀ s : State, LaneReady rule s →
    let c := laneIn rule s
    let q := laneOn rule s
    let m := if c.f.a = 0 then c.m0 else vget q.me.l.m c.f.a.toNat
    let taken := c.act &&& if c.f.imm.getLsbD 31 then ~~~m else m
    let target := c.f.imm.toNat % 2 ^ 22
    (taken = 0 → exec .brl s = .next (goesOn c c.after q)) ∧
    (taken ≠ 0 → ∀ w u, (laneSlot target).run q = .ok (w, u) →
      (bits w 92 4 ≠ 15 → exec .brl s = .next (stopLane (laneCtx s) [] (.frag 0x06 (slotAddr q c.slot)) s)) ∧
      (bits w 92 4 = 15 → taken = c.m0 → exec .brl s = .next (goesOn c target u)) ∧
      (bits w 92 4 = 15 → taken ≠ c.m0 →
        ((q.me.inTrap = true → q.me.l.run.frags.length ≤ 1) →
          exec .brl s = .next (onLane (Lanes.splitAt c.age (c.m0 &&& ~~~taken) taken c.after target) u)) ∧
        (q.me.inTrap = true → 1 < q.me.l.run.frags.length →
          exec .brl s = .next (stopLane (laneCtx s) [] (.frag 0xB5 0) s))))) ∧
  (let rule (_ : LaneF) : LRule := { flowRule with x := 0x3F, i16 := 0xFFFF }
   ∀ s : State, LaneReady rule s →
    let c := laneIn rule s
    let q := laneOn rule s
    (q.me.l.run.split.length < (if q.me.inTrap then 8 else 64) → exec .mark s = .next (onLane (fun l =>
      { l with
        run := { l.run with split := l.run.split ++ [⟨c.m0, 0, c.f.imm.toNat % 2 ^ 22, l.nextSeq⟩] }
        nextSeq := l.nextSeq + 1 }) q)) ∧
    ((if q.me.inTrap then 8 else 64) ≤ q.me.l.run.split.length →
      exec .mark s = .next (stopLane (laneCtx s) [] (.frag 0x07 (slotAddr q c.slot)) s))) ∧
  (let rule (_ : LaneF) : LRule := flowRule
   ∀ s : State, LaneReady rule s →
    let c := laneIn rule s
    let q := laneOn rule s
    let e := q.me.l.run.split.reverse.find? fun e => c.m0 &&& ~~~e.expect == 0
    (∀ x, e = some x → exec .join s = .next (onLane (Lanes.join c.age c.m0 x) q)) ∧
    (e = none → exec .join s = .next (stopLane (laneCtx s) [] (.frag 0x06 (slotAddr q c.slot)) s)) ∧
    (q.me.l.run.frags.length = 1 → q.me.l.run.split = [] → lanesAside q = false →
      exec .cend s = .next (onLane (fun l => { l with run := { LaneRuns.empty with runs := l.run.runs.tail } }) q)) ∧
    (q.me.l.run.frags.length ≠ 1 ∨ q.me.l.run.split ≠ [] ∨ lanesAside q = true →
      exec .cend s = .next (stopLane (laneCtx s) [] (.frag 0x06 (slotAddr q c.slot)) s)) ∧
    exec .yield s = .next (onLane (fun l => { l with run := l.run.yieldTo c.age }) (goesOn c c.after q)))

/-- R167 to R171, R434: the barriers park the fragment past its clause, and the last arrival lets the fragments of the team
or squad go on, a checkpointing one once its team is at rest (log entry 63); a completed one fixes the scale bytes of the matrix
operations before it (log entry 111); a fragment beside one that stands at another barrier traps
BAD_CLAUSE (0x06), and a barrier in a handler DOUBLE_TRAP (0xB5). -/
def Sys2Proof.Claims.Barriers : Prop :=
  BarrierForm .tbar 0xF000 (fun f => .teamBar (f.imm.toNat / 2 ^ 28) false) (fun f => atTeamBar (f.imm.toNat / 2 ^ 28)) ∧
  BarrierForm .tbarCk 0xF800 (fun f => .teamBar (f.imm.toNat / 2 ^ 28) true) (fun f => atTeamBar (f.imm.toNat / 2 ^ 28)) ∧
  BarrierForm .sbar 0xC000 (fun f => .squadBar (f.imm.toNat / 2 ^ 30)) (fun f => atSquadBar (f.imm.toNat / 2 ^ 30))

/-- R74, R75, R151, R152, R157 to R159: runs, clauses and mask registers. -/
def Obligations.RunsAndMasks : Prop :=
  RunsAndClauses ∧ MaskForms

/-- R76, R160 to R164, R167 to R172: divergence and barriers. -/
def Obligations.DivergenceAndBarriers : Prop :=
  Divergence ∧ Barriers
/-- R127 to R135: the integer lane forms. In each lane of active(M) the exact result of the sources, read in TYPE, is
reduced or with SAT clamped, and extended to the register; the other lanes and registers keep their values. VCMP writes
its mask register. -/
def Sys2Proof.Claims.LaneIntegers : Prop :=
  LaneInt .vadd (intRule tyInt true false true true) (fun _ a b _ => a + b) ∧
  LaneInt .vsub (intRule tyInt true false true true) (fun _ a b _ => a - b) ∧
  LaneInt .vmul (intRule tyInt true false true true) (fun _ a b _ => a * b) ∧
  LaneInt .vmulh (intRule tyInt32 true false true false) (fun n a b _ => a * b / (2 ^ n : Int)) ∧
  LaneInt .vmad (intRule tyInt true true false true) (fun _ a b c => a * b + c) ∧
  LaneInt .vmin (intRule tyInt true false true false) (fun _ a b _ => if a ≤ b then a else b) ∧
  LaneInt .vmax (intRule tyInt true false true false) (fun _ a b _ => if a ≤ b then b else a) ∧
  LaneInt .vabs (intRule tySigned false false false true) (fun _ a _ _ => if a < 0 then -a else a) ∧
  LaneBits .vand (intRule tyBitsOk true false true false) (fun _ a b => a &&& b) ∧
  LaneBits .vor (intRule tyBitsOk true false true false) (fun _ a b => a ||| b) ∧
  LaneBits .vxor (intRule tyBitsOk true false true false) (fun _ a b => a ^^^ b) ∧
  LaneBits .vnot (intRule tyBitsOk false false false false) (fun _ a _ => ~~~a)

/-- R128, R130, R132 to R135: shifts by a 32-bit count mod the width, counts of bits, fields, selections, comparisons and
moves, lane by lane. -/
def Sys2Proof.Claims.LaneBitForms : Prop :=
  (let count (c : LaneCtx) (k : Nat) : Nat := (BitVec.ofNat 32 (c.b k)).toNat % tyBits c.f.t
   LaneForm .vshl (shiftRule true) (writesLanes (fun c => tyBits c.f.t) fun c _ k =>
     laneRes c.f.t c.f.sat (laneVal c.f.t (c.a k) * 2 ^ count c k)) ∧
   LaneForm .vshr (shiftRule false) (writesLanes (fun c => tyBits c.f.t) fun c _ k =>
     laneRes c.f.t c.f.sat (BitVec.ofNat (tyBits c.f.t) (c.a k) >>> count c k).toNat) ∧
   LaneForm .vsar (shiftRule false) (writesLanes (fun c => tyBits c.f.t) fun c _ k =>
     laneRes c.f.t c.f.sat ((BitVec.ofNat (tyBits c.f.t) (c.a k)).sshiftRight (count c k)).toInt)) ∧
  (let rule (f : LaneF) : LRule := { type := tyB f.t, a := useOf (tyBits f.t) }
   LaneForm .vclz rule (writesLanes (fun _ => 32) fun c _ k => (BitVec.ofNat (tyBits c.f.t) (c.a k)).clz.toNat) ∧
   LaneForm .vpopc rule (writesLanes (fun _ => 32) fun c _ k => (BitVec.ofNat (tyBits c.f.t) (c.a k)).cpop.toNat)) ∧
  LaneForm .vbfx
    (fun f => { type := f.t == 4 || f.t == 8, a := .one, x := 0xFFC0, also := decide (bfxPos f + bfxWidth f ≤ 32) })
    (writesLanes (fun _ => 32) fun c _ k =>
      let pos := bitsN c.f.imm.toNat 31 27
      let width := bitsN c.f.imm.toNat 26 22 + 1
      let x := (BitVec.ofNat 32 (c.a k)).extractLsb' pos width
      if c.f.ty = 4 then (x.signExtend 32).toNat else x.toNat) ∧
  LaneForm .vsel (fun f => { intRule tyB true false false false f with x := 0xF000 })
    (writesLanes (fun c => tyBits c.f.t) fun c s k =>
      let m := bitsN c.f.imm.toNat 31 28
      if (if m = 0 then c.m0 else vget s.me.l.m m).getLsbD k then c.a k else c.b k) ∧
  LaneForm .vcmp (cmpRule tyInt) (writesMask (·.f.d.toNat) fun c _ k =>
    let a := laneVal c.f.t (c.a k)
    let b := laneVal c.f.t (c.b k)
    [decide (a = b), decide (a ≠ b), decide (a < b), decide (b ≤ a), decide (a ≤ b), decide (b < a)].getD
      (bitsN c.f.imm.toNat 31 28) false) ∧
  LaneForm .vmov (intRule tyB false false false false) (writesLanes (fun c => tyBits c.f.t) fun c _ k => c.a k) ∧
  LaneForm .vmovi
    (fun f => { type := f.t != 1 && decide (f.t ≤ 0xD), d := useOf (tyBits f.t), imm := true, immTy := f.t, also := f.ib })
    (writesLanes (fun c => tyBits c.f.t) fun c _ k =>
      if tyFloat c.f.t then c.b k else laneRes c.f.t false (laneVal c.f.t (c.b k)))

/-- R127 to R135: the integer, bit and move forms of the lanes. That SAT on VSHL of a bit type clamps to the unsigned range is
the model's choice (log entry 90). -/
def Obligations.LaneIntegerForms : Prop :=
  LaneIntegers ∧ LaneBitForms
/-- R138 to R143: the floating-point lane forms, lane by lane of active(M). VFADD, VFSUB, VFMUL, VFFMA, VFRND and VFSCALE write
their exact result rounded once, in the mode of RM, to the format of TYPE; VFDIV, VFRCP, VFSQRT and VFRSQ the quotient or
root as `Fmt.div`, `Fmt.sqrt` and `Fmt.rsqrt` round it; the four functions what the fixed-point sums of `Fmt.exp2`, `Fmt.log2`
and `Fmt.sinPi` give (log entry 20; that these are correctly rounded is not stated here). VFMIN and VFMAX choose an operand;
VFCMP writes its mask register, false beside a NaN but for un; VFCMA rounds each component once; VFCVT converts by the
cases of R103 and R143. -/
def Sys2Proof.Claims.LaneFloats : Prop :=
  LaneFlt2 .vfadd true (fun f m a b => f.encode m (a.add m b)) ∧
  LaneFlt2 .vfsub true (fun f m a b => f.encode m (a.add m b.neg)) ∧
  LaneFlt2 .vfmul true (fun f m a b => f.encode m (a.mul b)) ∧
  LaneFlt2 .vfdiv false (fun f m a b => f.div m a b) ∧
  LaneFlt .vffma (fltRule tyFloat true true false true)
    (fun f m a b c => f.encode m (((f.decode a).mul (f.decode b)).add m (f.decode c))) ∧
  LaneFlt .vfmin (fltRule tyFloat true false true false) (fun f _ a b _ => f.minmax false a b) ∧
  LaneFlt .vfmax (fltRule tyFloat true false true false) (fun f _ a b _ => f.minmax true a b) ∧
  LaneFlt1 .vfrcp tyFloat (fun f m a => f.div m (.fin false 1 0) a) ∧
  LaneFlt1 .vfrsq tyFloat (fun f m a => f.rsqrt m a) ∧ LaneFlt1 .vfsqrt tyFloat (fun f m a => f.sqrt m a) ∧
  LaneFlt1 .vfexp2 tyFloat32 (fun f m a => f.exp2 m a) ∧ LaneFlt1 .vflog2 tyFloat32 (fun f m a => f.log2 m a) ∧
  LaneFlt1 .vfsin tyFloat32 (fun f m a => f.sinPi m false a) ∧ LaneFlt1 .vfcos tyFloat32 (fun f m a => f.sinPi m true a) ∧
  LaneFlt1 .vfrnd tyFloat (fun f m a => f.encode m (a.roundToInt m)) ∧
  LaneForm .vfscale (fun f => { fltRule tyFloat true false true true f with b := .one, immTy := 4 })
    (writesLanes (fun c => tyBits c.f.t) fun c _ k =>
      let f := tyFmt c.f.t
      f.encode c.f.rm.toNat ((f.decode (c.a k % 2 ^ tyBits c.f.t)).scaleBy (BitVec.ofNat 32 (c.b k)).toInt)) ∧
  LaneForm .vfcmp (cmpRule tyFloat) (writesMask (·.f.d.toNat) fun c _ k =>
    let n := tyBits c.f.t
    let a := (tyFmt c.f.t).decode (c.a k % 2 ^ n)
    let b := (tyFmt c.f.t).decode (c.b k % 2 ^ n)
    [a.eq b, a.lt b, a.le b, a.isNan || b.isNan, b.lt a, b.le a].getD (bitsN c.f.imm.toNat 31 28) false) ∧
  LaneForm .vfcma (fun f => { type := f.t == 0xC, d := .pair, a := .pair, b := .pair, c := .pair, x := 0x8000, rm := true })
    (writesLanes (fun _ => 64) fun c _ k =>
      let m := c.f.rm.toNat
      let re (x : Nat) : FVal := Fmt.f32.decode (x % 2 ^ 32)
      let im (x : Nat) : FVal := Fmt.f32.decode (x / 2 ^ 32 % 2 ^ 32)
      let bi := if c.f.imm.getLsbD 31 then (im (c.b k)).neg else im (c.b k)
      let round (v : FVal) : Nat := Fmt.f32.encode m v
      round ((((re (c.a k)).mul (re (c.b k))).add m ((im (c.a k)).neg.mul bi)).add m (re (c.c k)))
        + round ((((re (c.a k)).mul bi).add m ((im (c.a k)).mul (re (c.b k)))).add m (im (c.c k))) * 2 ^ 32) ∧
  LaneForm .vfcvt cvtRule (writesLanes (fun c => tyBits c.f.t) fun c _ k =>
    let m := c.f.rm.toNat
    let raw := c.a k
    let dst := c.f.t
    let src := bitsN c.f.imm.toNat 31 28
    let val : FVal :=
      if src = 0xE then (if c.f.imm.getLsbD 27 then e5m2Val (raw % 256) else e4m3Val (raw % 256))
      else (tyFmt src).decode (raw % 2 ^ tyBits src)
    if dst = 0xE then (if c.f.nf then toE5m2 else toE4m3) m c.f.sat val
    else if src = 0xE then (tyFmt dst).encode m val
    else if tyFloat dst then (tyFmt dst).encode m (if tyFloat src then val else FVal.ofInt (laneVal src raw) 0 false)
    else if tyFloat src then laneRes dst false (laneVal dst (toIntType m c.f.sat (tySigned dst) (tyBits dst) val))
    else laneRes dst c.f.sat (laneVal src raw))

/-- R102, R138, R139, R144: special operands, row by row of R144, with the overflow of R138; a NaN operand gives the default
NaN, and beside one NaN VFMIN and VFMAX take the other operand. -/
def Sys2Proof.Claims.FloatSpecials : Prop :=
  (∀ (f : Fmt) (m : Nat) (n1 n2 : Bool) (k j i : Nat) (e e2 : Int) (x : FVal), 0 < k →
    let zero (n : Bool) : FVal := .fin n 0 e2
    let one : Nat := f.encode m (.fin false 1 0)
    (f.div m (.fin false 1 0) (zero n1) = f.signBit n1 + f.infBits ∧ f.div m (.fin false 1 0) (.inf n1) = f.signBit n1) ∧
    (f.rsqrt m (zero n1) = f.signBit n1 + f.infBits ∧ f.rsqrt m (.inf false) = 0 ∧ f.rsqrt m (.fin true k e) = f.nanBits ∧
      f.rsqrt m (.inf true) = f.nanBits) ∧
    (f.sqrt m (zero true) = f.signBit true ∧ f.sqrt m (.fin true k e) = f.nanBits ∧ f.sqrt m (.inf true) = f.nanBits) ∧
    (f.div m (.fin n1 k e) (zero n2) = f.signBit (n1 != n2) + f.infBits ∧ f.div m (zero n1) (zero n2) = f.nanBits ∧
      f.div m (.inf n1) (.inf n2) = f.nanBits) ∧
    (f.exp2 m (.inf true) = 0 ∧ f.exp2 m (.inf false) = f.infBits ∧ f.exp2 m (zero n1) = one) ∧
    (f.log2 m (zero n1) = f.signBit true + f.infBits ∧ f.log2 m (.fin false (2 ^ i) (-(i : Int))) = 0 ∧
      f.log2 m (.inf false) = f.infBits ∧ f.log2 m (.fin true k e) = f.nanBits ∧ f.log2 m (.inf true) = f.nanBits) ∧
    (f.sinPi m false (.inf n1) = f.nanBits ∧ f.sinPi m false (.fin n1 (j * 2 ^ i) (-(i : Int))) = f.signBit n1) ∧
    (f.sinPi m true (.inf n1) = f.nanBits ∧ f.sinPi m true (.fin n1 ((2 * j + 1) * 2 ^ i) (-(i + 1 : Int))) = 0 ∧
      f.sinPi m true (zero n1) = one) ∧
    ((FVal.inf n1).roundToInt m = .inf n1 ∧ f.encode m ((zero n1).roundToInt m) = f.signBit n1 ∧
      (roundInt m n1 k e = 0 → f.encode m ((FVal.fin n1 k e).roundToInt m) = f.signBit n1)) ∧
    ((FVal.inf n1).scaleBy e = .inf n1 ∧ f.encode m ((zero n1).scaleBy e) = f.signBit n1) ∧
    (f.encode m (((zero n1).mul (.inf n2)).add m x) = f.nanBits ∧ f.encode m (((FVal.inf n1).mul (zero n2)).add m x) = f.nanBits)) ∧
  (∀ (f : Fmt) (m : Nat) (x y : FVal), f.div m .nan x = f.nanBits ∧ f.div m x .nan = f.nanBits ∧ f.rsqrt m .nan = f.nanBits ∧
    f.sqrt m .nan = f.nanBits ∧ f.exp2 m .nan = f.nanBits ∧ f.log2 m .nan = f.nanBits ∧ f.sinPi m false .nan = f.nanBits ∧
    f.sinPi m true .nan = f.nanBits ∧ f.encode m (FVal.nan.add m x) = f.nanBits ∧ f.encode m (x.add m .nan) = f.nanBits ∧
    f.encode m (FVal.nan.mul x) = f.nanBits ∧ f.encode m (x.mul .nan) = f.nanBits ∧
    f.encode m ((FVal.nan.mul x).add m y) = f.nanBits ∧ f.encode m ((x.mul .nan).add m y) = f.nanBits ∧
    f.encode m (FVal.nan.roundToInt m) = f.nanBits ∧ f.encode m (FVal.nan.scaleBy 0) = f.nanBits) ∧
  (∀ (f : Fmt) (m : Nat) (neg : Bool), f.overflow m neg =
    f.signBit neg + if m = 1 ∨ (m = 2 ∧ neg = true) ∨ (m = 3 ∧ neg = false) then f.infBits - 1 else f.infBits) ∧
  ∀ (f : Fmt) (most : Bool) (x y : Nat),
    let nan (z : Nat) : Bool := (f.decode z).isNan
    (nan x = true → nan y = true → f.minmax most x y = f.nanBits) ∧ (nan x = true → nan y = false → f.minmax most x y = y) ∧
      (nan x = false → nan y = true → f.minmax most x y = x)

/-- R103, R143: conversions at the ends of a range. To .e4m3 and .e5m2 by the table of R143: NaN; an infinity; a finite value
whose rounded magnitude lies above the largest finite one, 448 (0x7E) or 57 344 (0x7B); any other. To an integer of n bits:
NaN gives 0; an infinity 0, or under SAT the end of the range; a value beyond the range its low bits, or under SAT the
nearer end. -/
def Sys2Proof.Claims.ConversionEnds : Prop :=
  ∀ (m n k : Nat) (neg sat signed : Bool) (e : Int),
    let sign := if neg then 128 else 0
    let toMax := sat = true ∨ m = 1 ∨ (m = 2 ∧ neg = true) ∨ (m = 3 ∧ neg = false)
    (toE4m3 m sat .nan = 0x7F ∧ toE5m2 m sat .nan = 0x7E) ∧
    (toE4m3 m sat (.inf neg) = sign + (if sat then 0x7E else 0x7F) ∧
      toE5m2 m sat (.inf neg) = sign + (if sat then 0x7B else 0x7C)) ∧
    (let r := roundMag 4 (-9) m neg k e false
     let code := (r.2 + 9).toNat * 8 + r.1
     (r.1 = 0 → toE4m3 m sat (.fin neg k e) = sign) ∧
     (r.1 ≠ 0 → code ≤ 0x7E → toE4m3 m sat (.fin neg k e) = sign + code) ∧
     (r.1 ≠ 0 → 0x7E < code → toE4m3 m sat (.fin neg k e) = sign + if toMax then 0x7E else 0x7F)) ∧
    (let r := roundMag 3 (-16) m neg k e false
     let code := (r.2 + 16).toNat * 4 + r.1
     (r.1 = 0 → toE5m2 m sat (.fin neg k e) = sign) ∧
     (r.1 ≠ 0 → code ≤ 0x7B → toE5m2 m sat (.fin neg k e) = sign + code) ∧
     (r.1 ≠ 0 → 0x7B < code → toE5m2 m sat (.fin neg k e) = sign + if toMax then 0x7B else 0x7C)) ∧
    (let lo : Int := if signed then -(2 : Int) ^ (n - 1) else 0
     let hi : Int := if signed then (2 : Int) ^ (n - 1) - 1 else (2 : Int) ^ n - 1
     let y := roundInt m neg k e
     toIntType m sat signed n .nan = 0 ∧
     toIntType m sat signed n (.inf neg) = (if sat then (BitVec.ofInt n (if neg then lo else hi)).toNat else 0) ∧
     toIntType m sat signed n (.fin neg k e) = (BitVec.ofInt n (if sat then max lo (min hi y) else y)).toNat)

/-- R102, R103, R138 to R144: the floating-point forms of the lanes, special operands, and the ends of conversions. -/
def Obligations.LaneFloatForms : Prop :=
  LaneFloats ∧ FloatSpecials ∧ ConversionEnds
/-- R145 to R148: the cross-lane forms. A shuffle or broadcast reads a lane of the fragment, else the lane's own value;
VRED combines the lanes of active(M) in the tree of R147, and VSCAN in ascending order, the exclusive form from the
identity, which it does not combine, a prefix of one value left as it is (log entry 15); VBALLOT writes the mask of non-zero lanes; VPACK and VUNPK join and take apart elements of 8 and 16 bits. -/
def Obligations.LaneCrossForms : Prop :=
  (let field (c : LaneCtx) (hi lo : Nat) : Nat := bitsN c.f.imm.toNat hi lo
   LaneForm .vshfl
    (fun f =>
      let idx := f.low 31 30 == 0
      { type := tyB f.t, d := useOf (tyBits f.t), a := useOf (tyBits f.t), b := if idx then .one else .none,
        x := 0xC000, i16 := if idx then 0 else 0x1F })
    (writesLanes (fun c => tyBits c.f.t) fun c _ k =>
      let n : Nat := field c 4 0
      let j : Int := [((c.b k % 32 : Nat) : Int), (k : Int) - n, (k : Int) + n, ((k ^^^ n : Nat) : Int)].getD (field c 31 30) 0
      c.a (if 0 ≤ j ∧ j ≤ 31 ∧ c.m0.getLsbD j.toNat = true then j.toNat else k)) ∧
   LaneForm .vbcast
    (fun f => { type := tyB f.t, d := useOf (tyBits f.t), a := useOf (tyBits f.t), x := 0x8000,
                i16 := if f.low 31 31 = 1 then 0 else 0x1F })
    (writesLanes (fun c => tyBits c.f.t) fun c _ k =>
      let j := if field c 31 31 = 1 then (lowestLane c.act).getD 0 else field c 4 0
      c.a (if j ≤ 31 ∧ c.m0.getLsbD j = true then j else k)) ∧
   LaneForm .vred (redRule 0xF000) (writesLanes (fun c => tyBits c.f.t) fun c _ _ =>
     (redTree (redStep c.f) (redLeaves c)).getD 0) ∧
   LaneForm .vscan (redRule 0xF800) (writesLanes (fun c => tyBits c.f.t) fun c _ k =>
     let before := ((redLeaves c).take k).foldl (redNode (redStep c.f)) none
     if c.f.imm.getLsbD 27 then before.getD (redIdentity c.f)
     else (redNode (redStep c.f) before ((redLeaves c).getD k none)).getD 0) ∧
   LaneForm .vballot (fun f => { type := f.t == 0, a := .one }) (writesLanes (fun _ => 32) fun c _ _ =>
     ((lanesOf c.act).filter fun k => c.a k % 2 ^ 32 != 0).foldl (fun m j => m ||| 2 ^ j) 0) ∧
   LaneForm .vpack
    (fun f => { type := tyPack f.t, a := .one, b := .one, x := 0x8000, sat := true,
                also := tyBits f.t == 8 || f.low 31 31 == 0 })
    (writesLanes (fun _ => 32) fun c s k =>
      let n := tyBits c.f.t
      let el (x : Nat) : Nat := if c.f.sat then
          (if tySigned c.f.t then clampSigned n (BitVec.ofNat 32 x).toInt else clampUnsigned n (BitVec.ofNat 32 x).toInt).toNat
        else x % 2 ^ n
      if n = 16 then el (c.a k) + el (c.b k) * 2 ^ 16
      else (setField (s.me.l.word c.f.d.toNat k) (16 * field c 31 31 + 15) (16 * field c 31 31)
        (el (c.a k) + el (c.b k) * 256)).toNat) ∧
   LaneForm .vunpk
    (fun f => { type := tyPack f.t, a := .one, x := 0xC000, also := tyBits f.t == 8 || decide (f.low 31 30 ≤ 1) })
    (writesLanes (fun _ => 32) fun c _ k =>
      laneRes c.f.t false (laneVal c.f.t (c.a k / 2 ^ (tyBits c.f.t * field c 31 30)))))
/-- R174 to R177, R181 to R183, R190, R191, R194, R197: the lane loads, from memory, the team's landing, the mezzanine, an
atrium, a locker, or through an index tile. All lanes of active(M) are checked first, and those with a cause stop the
instruction; else each loads. Loads of a landing or a locker give its bytes and change nothing else. PRF has no visible
effect. -/
def Obligations.LaneLoads : Prop :=
  LaneLoad .vld .mem (memRule tyMem 3 7 7 loadOrders) ∧ LaneLoad .vldl .land (scratchRule tyMem 3 0 2 loadOrders) ∧
  LaneLoad .vldm .mezz (scratchRule tyMem 3 0 3 loadOrders) ∧ LaneLoad .vlda .atrium (scratchRule tyMem 3 3 7 loadOrders) ∧
  LaneLoad .lkld .locker (scratchRule tyMem 3 0 0 [0]) ∧
  (∀ s : State, LaneReady (tileRule [0, 1]) s →
    let c := laneIn (tileRule [0, 1]) s
    let q := laneOn (tileRule [0, 1]) s
    let z := accessSize c.f.t false
    ∀ j tile t, lowestLane c.act = some j → readTile q (sextN 32 (c.b j)) = .ok tile →
      let l := (lanesOf c.act).map fun k => (k, tileSpot q c.f tile k (c.a k % 2 ^ 32) z Need.read)
      laneErrors l = [] → LoadsFrom c q z (laneOks l) t → exec .vgath s = .next t) ∧
  LaneForm .prf
    (fun f => { type := f.t == 0, d := .other, a := if f.noIdx then .none else .one, c := .other, x := 0xE060, i16 := 0xFFFF,
                also := decide (f.d.toNat < 3) && (f.c.toNat &&& 253) == 0, quiet := true }) (fun _ s => s) ∧
  ∀ (q : State) (g : Agent) (z uid : Nat) (l : List (Nat × Nat)),
    (eachLane (fun k p => laneRead g k z p) (l.map fun p => (p.1, Spot.land uid p.2))).run q =
      .ok ((l.map fun p => (p.1, teamBytes q uid false p.2 z), []), q) ∧
    (eachLane (fun k p => laneRead g k z p) (l.map fun p => (p.1, Spot.locker p.2))).run q =
      .ok ((l.map fun p => (p.1, lockRead q.me.l.locker p.1 p.2 z), []), q)

/-- R174 to R177, R181 to R183, R190, R191, R193, R197, R241: the lane stores, in lane order after the release part of their
order, counted in the flag until they arrive; what a store puts in a landing is read back there, and each team's other
bytes are unchanged. -/
def Sys2Proof.Claims.LaneStores : Prop :=
  LaneStore .vst .mem (memRule tyMem 3 7 7 storeOrders) ∧ LaneStore .vstl .land (scratchRule tyMem 3 0 2 storeOrders) ∧
  LaneStore .vstm .mezz (scratchRule tyMem 3 0 3 storeOrders) ∧ LaneStore .xst .exch (scratchRule tyB 2 0 0 [0]) ∧
  LaneStore .vsta .atrium (scratchRule tyMem 3 3 7 storeOrders) ∧ LaneStore .lkst .locker (scratchRule tyMem 3 0 0 [0]) ∧
  (∀ s : State, LaneReady (tileRule [0, 2]) s →
    let c := laneIn (tileRule [0, 2]) s
    let q := laneOn (tileRule [0, 2]) s
    let z := accessSize c.f.t false
    ∀ j tile t, lowestLane c.act = some j → readTile q (sextN 32 (c.b j)) = .ok tile →
      let l := (lanesOf c.act).map fun k => (k, tileSpot q c.f tile k (c.a k % 2 ^ 32) z Need.write)
      laneErrors l = [] → StoresTo c q z true (laneOks l) t → exec .vscat s = .next t) ∧
  ∀ (t : Team) (o : Nat) (bs : List Byte), t.land.wf = true →
    let m := landWrite t.land t.modes o bs
    landRead m t.modes o bs.length = bs ∧
      ∀ x, x < o ∨ o + bs.length ≤ x → landRead m t.modes x 1 = landRead t.land t.modes x 1

/-- R178, R180: under any swizzle modes no two bytes of a landing lie at one place, and none leaves its 64 KiB region. The mode
of a region that the landing does not hold in full has no effect. -/
def Sys2Proof.Claims.SwizzleIsInjective : Prop :=
  (∀ (modes : BitVec 24) (o p : Nat), (landPos modes o = landPos modes p → o = p) ∧ landPos modes o / 65536 = o / 65536) ∧
  ∀ (t : Team) (o : Nat),
    (t.len < 65536 * (o / 65536 + 1) → landPos t.modes o = o) ∧
    (65536 * (o / 65536 + 1) ≤ t.len → landPos t.modes o = landPos t.lswz o)

/-- R248 to R252, R255: the lane atomics and the lane FENCE. The updates of one atomic come one after another in the order of the
lanes with nothing of another agent between, where R252 lets other agents' writes fall: the model's reading (log entry 82). -/
def Obligations.LaneAtomics : Prop :=
  LaneAtomic .vaadd tyInt32 (fun _ o b _ => o + b) ∧ LaneAtomic .vasub tyInt32 (fun n o b _ => o + (2 ^ n - b)) ∧
  LaneAtomic .vamin tySigned32 (fun n o b _ => if (BitVec.ofNat n o).sle (BitVec.ofNat n b) then o else b) ∧
  LaneAtomic .vamax tySigned32 (fun n o b _ => if (BitVec.ofNat n o).sle (BitVec.ofNat n b) then b else o) ∧
  LaneAtomic .vaminn tyUnsigned32 (fun _ o b _ => if o ≤ b then o else b) ∧
  LaneAtomic .vamaxn tyUnsigned32 (fun _ o b _ => if o ≤ b then b else o) ∧
  LaneAtomic .vaand tyB (fun _ o b _ => o &&& b) ∧ LaneAtomic .vaor tyB (fun _ o b _ => o ||| b) ∧
  LaneAtomic .vaxor tyB (fun _ o b _ => o ^^^ b) ∧ LaneAtomic .vaxchg tyB (fun _ _ b _ => b) ∧
  LaneAtomic .vacas tyB (fun _ o b c => if o = c then b else o) ∧
  LaneAtomic .vafadd (fun t => t == 0xC || t == 0xD) (fun n o b _ => atomicFadd n o b) ∧
  (let rule (f : LaneF) : LRule :=
    { noType := true, d := .none, m := false, x := 0x1F80, tx := false, also := decide (1 ≤ f.order) && decide (f.order ≤ 4) }
   ∀ s : State, LaneReady rule s →
    let c := laneIn rule s
    let q := laneOn rule s
    (CanReleaseAt c.f.scope c.f.order q → exec .laneFence s = .next (fenceState c.f.scope c.f.order q)))

/-- R174 to R178, R180 to R183, R190, R191, R193, R197, R241: the lane stores, and that no two bytes of a landing meet. -/
def Obligations.LaneStoresAndScratch : Prop :=
  LaneStores ∧ SwizzleIsInjective
/-- R364 to R374: the sparse forms. VCONF writes in each lane the lower lanes of its key, VCOMB in each key's lowest lane
the combination of the key's values; VISECT and VMERGE walk two sorted lists, cut where they break their order, and write
the outputs with the result word, VMERGE at most as many as lie below the lowest lane outside active(M): R371's bound read by
R372 (log entry 42); VCOMPR packs the lanes of active(M) to the fragment's lowest, VEXPD spreads those to active(M) (log entry
117); IDXLD
writes a tile of offsets into the landing. -/
def Obligations.SparseForms : Prop :=
  (let rule (f : LaneF) : LRule := { type := tyB f.t, a := useOf (tyBits f.t), x := 0xF000 }
   LaneForm .vconf rule fun c s =>
    let n := tyBits c.f.t
    let k := c.f.imm.toNat / 2 ^ 28
    let lower (j : Nat) : List Nat := (lanesOf c.act).filter fun i => decide (i < j) && c.a i % 2 ^ n == c.a j % 2 ^ n
    if c.act = 0 then s
    else
      let t := onLane (Lanes.writeRes 32 c.f.d.toNat c.act fun j => (maskOf (lower j)).toNat) s
      if k = 0 then t else writesMask (fun _ => k) (fun _ _ j => (lower j).isEmpty) c t) ∧
  LaneForm .vcomb
    (fun f =>
      let op := f.low 31 28
      { type := tyInt32 f.t || tyFloat f.t, d := useOf (tyBits f.t), a := .one, b := useOf (tyBits f.t), x := 0xF000
        rm := tyFloat f.t && op == 0, sat := tyInt32 f.t && op == 0, also := decide (op < 3) })
    (fun c s =>
      let n := tyBits c.f.t
      let same (i j : Nat) : Bool := c.a i % 2 ^ 32 == c.a j % 2 ^ 32
      let first := (lanesOf c.act).filter fun j => (lanesOf c.act).all fun i => !(decide (i < j) && same i j)
      onLane (Lanes.writeRes n c.f.d.toNat (maskOf first) fun j =>
        ((lanesOf c.act).filter fun i => decide (j < i) && same i j).foldl (fun x i => redStep c.f x (c.b i % 2 ^ n))
          (c.b j % 2 ^ n)) s) ∧
  (let rule (f : LaneF) : LRule :=
    { type := f.t == 4 || f.t == 8, d := .pair, a := .one, b := .one, c := .one, x := 0xFC00, also := !f.qc }
   ∀ s : State, LaneReady rule s →
    let c := laneIn rule s
    let q := laneOn rule s
    ∀ j, lowestLane c.act = some j →
      let a := (readLists c j).1
      let b := (readLists c j).2.1
      let dup := bitsN c.f.imm.toNat 26 26 == 1
      let strict := bitsN c.f.imm.toNat 27 27 == 1
      let l := cutLists dup a b (readLists c j).2.2
      let k := c.f.imm.toNat / 2 ^ 28
      let wrote (r : Walk) : State :=
        let t := onLane (fun x => (x.writeCol c.f.d.toNat (maskOf (List.range r.out.length))
          fun k => ((r.out[k]?).map (·.1)).getD 0).writeCol (c.f.d.toNat + 1) c.act fun _ => walkWord l.cut r) q
        if k = 0 then t else writesMask (fun _ => k) (fun _ _ j => ((r.out[j]?).map (·.2)).getD false) c t
      (strict = false ∨ (orderBreak dup a = none ∧ orderBreak dup b = none) →
        exec .visect s = .next (wrote (isect l 64 ⟨[], 0, 0⟩)) ∧
        exec .vmerge s = .next (wrote (merge l (lowestIdle c.act) ⟨[], 0, 0⟩))) ∧
      (∀ i, strict = true → orderBreak dup a = some i →
        exec .visect s = .next (stopLane (laneCtx s) (laneNeeds rule s) (.frag 0x81 (BitVec.ofNat 64 i)) s) ∧
        exec .vmerge s = .next (stopLane (laneCtx s) (laneNeeds rule s) (.frag 0x81 (BitVec.ofNat 64 i)) s)) ∧
      (∀ i, strict = true → orderBreak dup a = none → orderBreak dup b = some i →
        exec .visect s = .next (stopLane (laneCtx s) (laneNeeds rule s) (.frag 0x81 (BitVec.ofNat 64 (i + 2 ^ 16))) s) ∧
        exec .vmerge s = .next (stopLane (laneCtx s) (laneNeeds rule s) (.frag 0x81 (BitVec.ofNat 64 (i + 2 ^ 16))) s))) ∧
  (let moved (c : LaneCtx) (src dst : List Nat) (s : State) : State :=
    let ps := dst.zip src
    onLane (Lanes.writeRes (tyBits c.f.t) c.f.d.toNat (maskOf (ps.map (·.1))) fun k =>
      match ps.find? fun p => p.1 == k with
      | some p => c.a p.2
      | none => 0) s
   LaneForm .vcompr packRule (fun c s => moved c (lanesOf c.act) (lanesOf c.m0) s) ∧
   LaneForm .vexpd packRule (fun c s => moved c ((lanesOf c.m0).take (lanesOf c.act).length) (lanesOf c.act) s)) ∧
  ∀ s : State, LaneReady idxldRule s →
    let c := laneIn idxldRule s
    let q := laneOn idxldRule s
    ∀ j, lowestLane c.act = some j →
      let t : Int := sextN 32 (c.b j) + c.f.off
      let start := c.c j % 2 ^ 32
      let lanes := lanesOf c.act
      let w := tyBits c.f.t / 8
      let bad := idxldCauses q c t start lanes.length
      let q1 := releasedAt c.f.scope c.f.order q
      (bad ≠ [] → exec .idxld s = .next (stopLane (laneCtx s) (laneNeeds idxldRule s) (.lanes bad .kept) s)) ∧
      (bad = [] → inAttempt c q = false → CanReleaseAt c.f.scope c.f.order q → exec .idxld s = .next
        (teamStore q.me.team false (t.toNat + 16 + start * w) (lanes.flatMap fun k => leBytes w (c.a k))
          (teamStore q.me.team false t.toNat
            (leBytes 8 (runXb q c.f.xbn).base.toNat ++ leBytes 2 (start + lanes.length) ++ leBytes 1 w ++ leBytes 5 0) q1)))
/-- R63, R124: NOP and every hint only move past themselves. -/
def Sys2Proof.Claims.HintsChangeNothing : Prop :=
  ∀ (s : State) (c : BitVec 6) (x : BitVec 16),
    exec .nop s = .next (onward s) ∧ exec (.hint c x) s = .next (onward s) ∧
    exec (.hintFetchLead x) s = .next (onward s) ∧ exec (.hintSpin x) s = .next (onward s) ∧
    exec (.hintFetchLane x) s = .next (onward s)

/-- R62, R72: a word that names no instruction traps ILLEGAL_OPCODE (0x01), with EPC and FAULTADDR at the instruction; a
lane slot that names none stops its fragment so, at the slot. -/
def Sys2Proof.Claims.UnusedWords : Prop :=
  ∀ s : State,
    (s.lane = false ∨ s.me.isHost = true → exec .unusedOpcode s = .next (leadTrap 0x01 s.issue.pc s.issue.pc s)) ∧
    (s.lane = true → s.me.isHost = false → (laneCtx s).m0 &&& ~~~s.me.l.run.skip ≠ 0 →
      exec .unusedOpcode s = .next (stopLane (laneCtx s) [] (.frag 0x01 (slotAddr s (laneCtx s).slot)) s))

/-- R187, R496: a fetch reads the words of a run one after another, prefixes and instruction, and latches what they decode
to; where the first word cannot be fetched the stream traps with EPC and FAULTADDR at it. -/
def Sys2Proof.Claims.LeadFetch : Prop :=
  ∀ s : State,
    (∀ (ws : List W32) (d : Decoded) (u : State), ws.length ≤ 2 ^ 62 → ReadsWords ws s.me.pc s u →
      decodeWords [] ws = some d → d.words = ws.length → (s.me.entry = true → d.e = true) →
      exec .leadFetch s = .next (latch s.me.pc d u)) ∧
    ∀ c, probe s s.me s.me.pc 4 Need.code = .error c → exec .leadFetch s = .next (leadTrap c s.me.pc s.me.pc s)

/-- R62, R63, R72, R124, R187, R496: hints, words that name no instruction, and the fetch of a run. -/
def Obligations.HintsAndFetch : Prop := HintsChangeNothing ∧ UnusedWords ∧ LeadFetch
/-- R48 to R62 and the encoding of each entry: a lead word that the encoder writes for a well-formed instruction decodes to
it, with every operand at every value, raises no decode cause and keeps its entry mark. -/
def Obligations.DecodeEncodeLead : Prop :=
  ∀ (e : Bool) (i : Instr) (ws : List W32), i.wellFormed = true → encodeLead e i = some ws →
    decodeWords [] ws = some ⟨i, ws.length, e, Mods.none, none, none, none⟩

/-- R66, R72, R74: a lane slot that the encoder writes for an instruction decodes to it with every field, a clause header
with every field. -/
def Obligations.DecodeEncodeLane : Prop :=
  ∀ (f : LaneF) (h : Header) (i : Instr) (w : BitVec 96), encodeLane f h i = some w →
    (i ≠ .clause → i.slotOk f = true → (decodeLane w).ins = i ∧ (decodeLane w).slot = f ∧ (decodeLane w).res = false) ∧
    (i = .clause → (decodeLane w).ins = i ∧ (decodeLane w).hdr = h ∧ (decodeLane w).res = false)

/-- R57, R58, R60, R61: one prefix word that the instruction accepts, its payload in range and the instruction's own entry
mark 0, changes what follows only by its modifier; the mark of the run is that of the prefix. -/
def Obligations.PrefixesModify : Prop :=
  ∀ (e : Bool) (i : Instr) (ws : List W32) (k : BitVec 3) (p : BitVec 6), i.wellFormed = true →
    encodeLead false i = some ws → acceptsKind i k.toNat = true →
    (k = 0 → p.toNat ≤ 4) → (k = 1 → p = 1 ∨ p = 2) → (k = 2 → orderOk i (bits p 0 3) = true ∧ (bits p 0 3).toNat ≤ 4) →
    decodeWords [] (pfxWord e k p :: ws) = some ⟨i, ws.length + 1, e,
      { rnd := if k = 0 then some (bits p 0 3) else none
        sat := if k = 1 then some (bits p 0 2) else none
        ord := if k = 2 then some p else none }, none, none, none⟩

/-- Words that the worked runs of spec/03 to spec/16 write out decode to the instructions that they stand for. -/
def Obligations.DecodeWords : Prop :=
  (∀ p ∈ ([(0x240103F0, .addi false 1 0 (-16)), (0x05410401, .shri false 1 1 1), (0x42030410, .add true 3 1 1),
        (0x02040C05, .div false 4 3 0), (0x0D061B14, .fcvt 6 6 12 5), (0x0C481873, .fdiv 1 8 6 7), (0x0D092130, .fcvt 9 8 4 12),
        (0x0880FC02, .ret 63), (0x1E071800, .launch 7 6), (0x1E000005, .texit), (0x18000007, .trap 7),
        (0x1A460001, .ckptStat 6), (0x18850101, .csrrd 5 0x101), (0x18C01907, .csrwr 0 6 0x107), (0x1A801090, .assert 4 9),
        (0x1D401801, .kbound 6 false 0), (0x1D4A20B2, .kfetch 10 8 11 false 0), (0x3D401080, .ksummBf16 4 false 0),
        (0x18400000, .rfe), (0x1C940000, .txbeg 20), (0x1C802402, .txabt 9), (0x1C950013, .txstat 21 true),
        (0x1C800001, .txend)] : List (W32 × Instr)),
      ((decodeWords [] [p.1]).map fun d => (d.ins, d.clean)) = some (p.2, true)) ∧
  (decodeWords [] [0xC4000001, 0x02020410] = some ⟨.add false 2 1 1, 2, false, ⟨none, some 1, none⟩, none, none, none⟩) ∧
  ∀ p ∈ ([(0x90101400, 0, 0xC0, .vcsrrd), (0x90000008, 0x0A002000, 0, .laneAssert), (0x60001E0A, 0x04000000, 6, .laneTxbeg),
        (0xF0020040, 0, 0, .clause), (0x202C1408, 0x00004000, 0, .vred), (0x00021509, 0x00000022, 0x64, .vadd)] :
        List (W32 × W32 × W32 × Instr)),
    let d := decodeLane (p.1 ++ p.2.1 ++ p.2.2.1)
    d.ins = p.2.2.2 ∧ d.res = false
/-- R77, R496, R497: a step of a lead stream whose words at the program counter decode without a cause is `exec` of the
instruction, in the state that the fetch left. An interrupt that is due comes first, and a stream that is held does
nothing. -/
def Sys2Proof.Claims.LeadSteps : Prop :=
  ∀ s : State, s.lane = false ∨ s.me.isHost = true →
    (∀ w, interruptDue s = some w → ∃ t, stepFocus s = .next t ∧
      t.me = hostInterrupt w s.me ∧ t.mem = s.mem ∧ t.others = s.others) ∧
    (interruptDue s = none →
      (held false s = true → stepFocus s = .next s) ∧
      (held false s = false → s.me.needsLock = true → stepFocus s = .next (awaitLock s)) ∧
      (held false s = false → s.me.needsLock = false → streamFault s = none →
        ¬(s.me.isHost = true ∧ s.me.ctx = 0 ∧ s.me.sup = false) →
        ∀ (ws : List W32) (d : Decoded) (u : State), ws.length ≤ 2 ^ 62 → ReadsWords ws s.me.pc s u →
          decodeWords [] ws = some d → d.words = ws.length → (s.me.entry = true → d.e = true) →
          (runCause s.me d = none → stepFocus s = exec d.ins (latch s.me.pc d u)) ∧
          ∀ c k, runCause s.me d = some (c, k) → (c, k) ≠ (1, 0) → stepFocus s =
            .next (leadTrap c (s.me.pc + BitVec.ofNat 64 (4 * k)) s.me.pc (latch s.me.pc d u))))

/-- R151 to R153, R165: a step of a lane stream is `exec` of the clause's next instruction; without a clause in progress a
clause starts in the fragment that has waited longest, else a run. -/
def Sys2Proof.Claims.LaneSteps : Prop :=
  ∀ s : State, s.lane = true → s.me.isHost = false → interruptDue s = none ∧
    (held true s = true → stepFocus s = .next s) ∧
    (held true s = false →
      (∀ c w f h i, s.me.l.run.cur = some c → c.code.getD c.pos 0 = w → i ≠ .clause → i.slotOk f = true →
        encodeLane f h i = some w → ∃ t, stepFocus s = exec i t ∧ t.issue.slot = f ∧ t.issue.pc = slotAddr s c.slot ∧
          t.me.l.run = s.me.l.run ∧ t.me.l.v = s.me.l.v ∧ t.me.s = s.me.s ∧ t.mem = s.mem ∧ t.others = s.others) ∧
      (s.me.l.run.cur = none →
        (pickClause s = none → stepFocus s = exec .runStart s) ∧
        (∀ x h t, pickClause s = some (x, .ok h, t) → stepFocus s = exec .clause (latchClause x h t)) ∧
        ∀ x e t, pickClause s = some (x, .error e, t) → stepFocus s = .next (stopClause x e t)))

/-- What moves is the head of the agenda, the model's own field (log entry 5): a stream of a runner that it brings into
focus, a step of the machine, clocks that pass, or one of the machine's other free moves; an instruction of a program is no
step of the machine and stops the model with notAnEvent. With nothing on it the stream in focus moves. A stream behind another
group of its core does nothing (R411), and an attempt that is due has its validation first (R284). What follows
every turn (`settleStep`) is only the marking of new heads of queues, unless a grid has ended, a handler or a rollback waits, or
a group has spilled records. -/
def Sys2Proof.Claims.Turns : Prop :=
  ∀ s : State,
    (∀ t, turn s = .next t → step s = .next (settleStep s t)) ∧ (∀ f, turn s = .fault f → step s = .fault f) ∧
    (∀ t, (∀ r ∈ t.runners, r.isHost = true ∨ r.l.own.spilled = ([], [])) → (∀ g ∈ t.grids, g.stop = none) →
      (∀ r ∈ t.runners, r.wait ≠ .drain) → (∀ x ∈ t.teams, ∀ c, x.ck = some c → c.back = none) →
      settleStep s t = markHeads s t) ∧
    (let lane := s.lane && !s.me.isHost
     (behindOthers lane s = true → streamTurn s = .next s) ∧
     (behindOthers lane s = false →
       (∀ k, validationDue s = some k → streamTurn s = .next (validateNow k s)) ∧
       (validationDue s = none → streamTurn s = stepFocus { s with me := s.me.served lane }))) ∧
    (s.agenda = [] → turn s = streamTurn s) ∧
    ∀ rest,
      let q : State := { s with agenda := rest }
      (∀ who lane, s.agenda = .run who lane :: rest →
        (∀ t, focus who { q with lane := lane } = some t → turn s = streamTurn t) ∧
        (focus who { q with lane := lane } = none → turn s = .next q)) ∧
      (∀ i, s.agenda = .event i :: rest →
        (isEvent i = true → turn s = exec i (if asksReady i then findReady q else q)) ∧
        (isEvent i = false → turn s = .fault .notAnEvent)) ∧
      (∀ core host fabric, s.agenda = .pass core host fabric :: rest → ∃ t, turn s = .next t ∧
        t.clocks = ⟨s.clocks.core.mapIdx fun h n => n + if s.stretched.contains h then 0 else core,
          s.clocks.host + host, s.clocks.fabric + fabric⟩ ∧ t.mem = s.mem ∧ t.me.pc = s.me.pc ∧ t.me.s = s.me.s) ∧
      (∀ k, s.agenda = .evict k :: rest → turn s = .next (evictTlb k q)) ∧
      (∀ k, s.agenda = .perform k :: rest → turn s = .next (performWrite k q)) ∧
      (∀ who pa, s.agenda = .cacheCode who pa :: rest → turn s = .next (cacheCode who pa q)) ∧
      (∀ who pa, s.agenda = .dropCode who pa :: rest → turn s = .next (dropCode who pa q)) ∧
      (∀ hall core ns, s.agenda = .passHall hall core ns :: rest → ∃ t, turn s = .next t ∧
        t.clocks = { s.clocks with core := s.clocks.core.mapIdx fun h n =>
          if h = hall ∧ s.stretched.contains hall then n + core else n } ∧
        t.mem = s.mem ∧ t.me.pc = s.me.pc ∧ t.me.s = s.me.s) ∧
      (∀ e k, s.agenda = .line e k :: rest → turn s = .next (performLine e k q)) ∧
      (∀ op skip n, s.agenda = .work op skip n :: rest → turn s = .next (workSome op skip n q)) ∧
      (∀ who, s.agenda = .upset who :: rest → turn s = .next (upsetGroup who q)) ∧
      (∀ port off v, s.agenda = .bar0 port off v :: rest → turn s = .next (bar0Write port off v q)) ∧
      (∀ slot pa comp bs, s.agenda = .remoteWrite slot pa comp bs :: rest → turn s = .next (remoteWrite slot pa comp bs q)) ∧
      (∀ h pa, s.agenda = .noteCode h pa :: rest → turn s = .next (noteCode h pa q)) ∧
      (∀ port, s.agenda = .land port :: rest → turn s = .next (landNext port q)) ∧
      (∀ stack, s.agenda = .missBeat stack :: rest → turn s = .next (missBeat stack q)) ∧
      (∀ pkg on, s.agenda = .silent pkg on :: rest → turn s = .next (setSilent pkg on q)) ∧
      (∀ m, s.agenda = .portModes m :: rest → turn s = .next (resetPackage m q)) ∧
      ∀ pa n, s.agenda = .remoteRead pa n :: rest → turn s = .next (remoteRead pa n q)

/-- R77, R151 to R153, R165, R496, R497: a step runs the instruction that the bytes at the program counter, or the slot of
the clause in progress, decode to. -/
def Obligations.StepRunsTheDecodedInstruction : Prop := LeadSteps ∧ LaneSteps ∧ Turns

/-- What reset leaves. The values of the rules: TXRETRY is 8 (R287), CURCTX is 0 and a core without a context is in
supervisor mode (R429), CLKCFG is 0 (R205), every QWGT is 1 (R409), every cloakroom entry is free (R206), the Wicket's next
commit number is 1 and no core has committed (R268, R289), nothing is live. Memory in its form and s0 at 0 are the model's
invariant. The reset vector and the registers at 0 are the model's choices (log entries 1, 2). -/
def Obligations.ResetState : Prop :=
  let s := State.reset
  Inv s ∧ s.runners.length = 64 ∧
    (∀ r ∈ s.runners, r.txretry = 8 ∧ r.ctx = 0 ∧ r.sup = true ∧ r.isHost = true ∧ r.lastCommit = 0 ∧ r.tx.active = false ∧
      r.sealed = 0 ∧ r.pc = Config.resetVector) ∧
    (∀ p ∈ s.parts, (∀ k < 64, vget p.qwgt k = 1) ∧ p.ranges = [] ∧ p.halt = none ∧ p.haltstat = 0) ∧
    csrValue s 0x11B = 0 ∧ s.cloaks = [] ∧ s.wicket = ⟨1, none, [], 0⟩ ∧
    s.ctxs = [] ∧ s.grids = [] ∧ s.squads = [] ∧ s.teams = [] ∧ s.ops = [] ∧ s.mops = [] ∧ s.pend = [] ∧ s.tlb = [] ∧
    s.poison = [] ∧ s.clocks = ⟨Vector.replicate 6 0, 0, 0⟩

/-- The model's memory and registers read back what is written. A write at the home is read there under its key, and every
other byte reads under that key as before, where memory has its form; the form is kept. A lead register written reads as
written and every other as before, while s0 reads 0 whatever is written to it (R7). -/
def Obligations.WritesReadBack : Prop :=
  (∀ (s : State) (key a : Nat) (comp : Bool) (bs : List Byte), s.mem.wf = true → (poolOf a).isMemory = true →
    (homeWrite s key comp a bs).mem.wf = true ∧ ∀ b, homeByte (homeWrite s key comp a bs) key b =
      if a ≤ b ∧ b < a + bs.length then bs.getD (b - a) 0 else homeByte s key b) ∧
  (∀ m n : Mem, m.wf = true → n.wf = true → (∀ a, m.get a = n.get a) → m = n) ∧
  ∀ (s : State) (d a : Reg) (x : Word) (t : State), writes d x s = t →
    t.me.sreg a = (if a = 0 then 0 else if a = d then x else s.me.sreg a)

/-- Memory keeps its canonical form in every step, from any state that has it: addresses strictly rising, no byte listed
that an unlisted address reads as. -/
def Obligations.MemoryFormIsKept : Prop := ∀ s t : State, MemOk s → step s = .next t → MemOk t

/-- R7: s0 stays 0 in every step, in every runner of the package, those of saved squads and of checkpoints among them. -/
def Obligations.HardwiredRegisterIsKept : Prop := ∀ s t : State, HardwiredOk s → step s = .next t → HardwiredOk t
end

