-- ==== Sys2Proof/Laws/Bits.lean ====
section
/-! SUPPORT. The model's integer readings of patterns as Lean's own bit-vector operations. -/

namespace Sys2Proof.Machine

/-- Two's complement reading of a bit vector's number. -/
theorem sextN_toNat {n : Nat} (h : 0 < n) (x : BitVec n) : sextN n x.toNat = x.toInt := by
  obtain ⟨m, rfl⟩ : ∃ m, n = m + 1 := ⟨n - 1, by omega⟩
  have hx := x.isLt
  unfold sextN BitVec.toInt
  rw [Nat.mod_eq_of_lt hx, Nat.add_sub_cancel, Nat.pow_succ]
  split <;> split <;> omega

/-- A number in n little-endian bytes takes n bytes. -/
@[simp] theorem leBytes_length (n : Nat) : ∀ v, (leBytes n v).length = n := by
  induction n with
  | zero => exact fun _ => rfl
  | succ n ih => exact fun v => congrArg (· + 1) (ih (v / 256))

/-- Keeping the low bits of an exact integer is the bit vector of that integer. -/
theorem wrapN_eq (n : Nat) (x : Int) : wrapN n x = (BitVec.ofInt n x).toNat := by simp [wrapN]

/-- The sign extension of the low n bits of an exact integer. -/
theorem sextN_wrapN {n : Nat} (h : 0 < n) (x : Int) : sextN n (wrapN n x) = (BitVec.ofInt n x).toInt := by
  rw [wrapN_eq, sextN_toNat h]

/-- A bit vector from the signed reading of another is its sign extension. -/
theorem ofInt_toInt {n m : Nat} (x : BitVec n) : BitVec.ofInt m x.toInt = x.signExtend m := rfl

/-- The pattern of an unsigned number. -/
theorem ofInt_natCast (n x : Nat) : BitVec.ofInt n (x : Int) = BitVec.ofNat n x := BitVec.ofInt_natCast n x

/-- The low 32 bits of a register as a number. -/
theorem mod_eq_setWidth (x : BitVec 64) (n : Nat) : x.toNat % 2 ^ n = (x.setWidth n).toNat := by simp

end Sys2Proof.Machine
end

