-- ==== Sys2Proof/Laws/Encoding.lean ====
section
/-! SUPPORT. What the fields of a concatenated word are: the lemmas through which a round trip of the encoder goes. -/

namespace Sys2Proof

/-- A field that lies in the low part of a concatenation. -/
theorem bits_append_low (x : BitVec m) (y : BitVec k) (lo n : Nat) (h : lo + n ≤ k) :
    bits (x ++ y) lo n = bits y lo n := by
  apply BitVec.eq_of_getLsbD_eq
  intro i hi
  have : lo + i < k := by omega
  simp [bits, BitVec.getLsbD_append, this]

/-- A field that lies in the high part of a concatenation. -/
theorem bits_append_high (x : BitVec m) (y : BitVec k) (lo n : Nat) (h : k ≤ lo) :
    bits (x ++ y) lo n = bits x (lo - k) n := by
  apply BitVec.eq_of_getLsbD_eq
  intro i hi
  have h1 : ¬ lo + i < k := by omega
  have h2 : lo + i - k = lo - k + i := by omega
  simp [bits, BitVec.getLsbD_append, h1, h2]

/-- The field that is the whole word. -/
theorem bits_all (x : BitVec n) : bits x 0 n = x := by
  apply BitVec.eq_of_getLsbD_eq
  intro i hi
  simp [bits, hi]

/-- Bit 0 of a truth value written as one bit. -/
theorem ofBool_getLsbD_zero (b : Bool) : (BitVec.ofBool b).getLsbD 0 = b := by cases b <;> rfl

/-- The one bit that holds a truth value compares to 1 as that value. -/
theorem ofBool_eq_one (b : Bool) : (BitVec.ofBool b == 1#1) = b := by cases b <;> rfl

/-- The two parts of a long value join to it (R54). -/
theorem extend_hi_lo (n : Nat) (v : BitVec (n + 29)) : extend (hiPart n v) (loPart v) = v := by
  apply BitVec.eq_of_getLsbD_eq
  intro i hi
  simp [extend, hiPart, loPart]

/-- One bit as a field of one bit. -/
theorem bits_one (w : BitVec k) (i : Nat) : w.getLsbD i = (bits w i 1).getLsbD 0 := by simp [bits]

section words
variable (len : BitVec 2) (e : Bool) (maj : BitVec 7) (op : BitVec 22) (ext : BitVec 29)

@[simp] theorem word0_len : bits (word0 len e maj op) 30 2 = len :=
  (bits_append_high (len ++ BitVec.ofBool e ++ maj) (op) 30 2 (by decide)).trans
    ((bits_append_high (len ++ BitVec.ofBool e) (maj) 8 2 (by decide)).trans
    ((bits_append_high (len) (BitVec.ofBool e) 1 2 (by decide)).trans
    (bits_all len)))
@[simp] theorem word0_entry : (word0 len e maj op).getLsbD 29 = e :=
  (bits_one (word0 len e maj op) 29).trans ((congrArg (fun x => x.getLsbD 0) (show bits (word0 len e maj op) 29 1 = BitVec.ofBool e from
    (bits_append_high (len ++ BitVec.ofBool e ++ maj) (op) 29 1 (by decide)).trans
    ((bits_append_high (len ++ BitVec.ofBool e) (maj) 7 1 (by decide)).trans
    ((bits_append_low (len) (BitVec.ofBool e) 0 1 (by decide)).trans
    (bits_all (BitVec.ofBool e)))))).trans (ofBool_getLsbD_zero e))
@[simp] theorem word0_major : bits (word0 len e maj op) 22 7 = maj :=
  (bits_append_high (len ++ BitVec.ofBool e ++ maj) (op) 22 7 (by decide)).trans
    ((bits_append_low (len ++ BitVec.ofBool e) (maj) 0 7 (by decide)).trans
    (bits_all maj))
@[simp] theorem word0_operands : bits (word0 len e maj op) 0 22 = op :=
  (bits_append_low (len ++ BitVec.ofBool e ++ maj) (op) 0 22 (by decide)).trans
    (bits_all op)
@[simp] theorem word1_ext : bits (word1 ext) 0 29 = ext :=
  (bits_append_low (4#3) (ext) 0 29 (by decide)).trans
    (bits_all ext)
@[simp] theorem word1_tag : bits (word1 ext) 29 3 = 4 :=
  (bits_append_high (4#3) (ext) 29 3 (by decide)).trans
    (bits_all 4#3)

/-- A 32-bit instruction without prefix decodes as its operands do (R51, R496). -/
theorem decodeWords_short (w : Bool) (i : Instr) (h : decodeWord maj op w none = ⟨i, false, false⟩) :
    decodeWords [] [word0 (0#1 ++ BitVec.ofBool w) e maj op] = some ⟨i, 1, e, Mods.none, none, none, none⟩ := by
  have h1 : (0#1 ++ BitVec.ofBool w == (1 : BitVec 2)) = w := by cases w <;> rfl
  have h2 : (0#1 ++ BitVec.ofBool w == (2 : BitVec 2)) = false := by cases w <;> rfl
  have h3 : (0#1 ++ BitVec.ofBool w == (3 : BitVec 2)) = false := by cases w <;> rfl
  have h4 := word0_entry (0#1 ++ BitVec.ofBool w) e maj op
  simp only [decodeWords, isPfx, word0_len, h3, h2, decodeRun, word0_major, word0_operands, h1, List.headD_nil, h4]
  simp [h, modsOf, orphanIdx, firstIdx, minIdx, Mods.none]

/-- A long instruction without prefix decodes as its operands and extension do (R53, R54, R496). -/
theorem decodeWords_long (i : Instr) (h : decodeWord maj op false (some ext) = ⟨i, false, false⟩) :
    decodeWords [] [word0 2 e maj op, word1 ext] = some ⟨i, 2, e, Mods.none, none, none, none⟩ := by
  have h1 : ((2 : BitVec 2) == (1 : BitVec 2)) = false := by rfl
  have h3 : ((2 : BitVec 2) == (3 : BitVec 2)) = false := by rfl
  have h4 := word0_entry 2 e maj op
  simp only [decodeWords, isPfx, word0_len, h3, decodeRun, word0_major, word0_operands, h1, word1_ext, word1_tag,
    List.headD_nil, h4]
  simp [h, modsOf, orphanIdx, firstIdx, minIdx, Mods.none]

end words

section operands
variable (d a b : Reg) (f : BitVec 4) (i : BitVec 10) (u : BitVec 16)

@[simp] theorem fR_d : bits (fR d a b f) 16 6 = d :=
  (bits_append_high (d ++ a ++ b) (f) 16 6 (by decide)).trans
    ((bits_append_high (d ++ a) (b) 12 6 (by decide)).trans
    ((bits_append_high (d) (a) 6 6 (by decide)).trans
    (bits_all d)))
@[simp] theorem fR_a : bits (fR d a b f) 10 6 = a :=
  (bits_append_high (d ++ a ++ b) (f) 10 6 (by decide)).trans
    ((bits_append_high (d ++ a) (b) 6 6 (by decide)).trans
    ((bits_append_low (d) (a) 0 6 (by decide)).trans
    (bits_all a)))
@[simp] theorem fR_b : bits (fR d a b f) 4 6 = b :=
  (bits_append_high (d ++ a ++ b) (f) 4 6 (by decide)).trans
    ((bits_append_low (d ++ a) (b) 0 6 (by decide)).trans
    (bits_all b))
@[simp] theorem fR_f : bits (fR d a b f) 0 4 = f :=
  (bits_append_low (d ++ a ++ b) (f) 0 4 (by decide)).trans
    (bits_all f)
@[simp] theorem fI_d : bits (fI d a i) 16 6 = d :=
  (bits_append_high (d ++ a) (i) 16 6 (by decide)).trans
    ((bits_append_high (d) (a) 6 6 (by decide)).trans
    (bits_all d))
@[simp] theorem fI_a : bits (fI d a i) 10 6 = a :=
  (bits_append_high (d ++ a) (i) 10 6 (by decide)).trans
    ((bits_append_low (d) (a) 0 6 (by decide)).trans
    (bits_all a))
@[simp] theorem fI_i : bits (fI d a i) 0 10 = i :=
  (bits_append_low (d ++ a) (i) 0 10 (by decide)).trans
    (bits_all i)
@[simp] theorem fU_d : bits (fU d u) 16 6 = d :=
  (bits_append_high (d) (u) 16 6 (by decide)).trans
    (bits_all d)
@[simp] theorem fU_i : bits (fU d u) 0 16 = u :=
  (bits_append_low (d) (u) 0 16 (by decide)).trans
    (bits_all u)

end operands

section slots
variable (cls : BitVec 4) (op : BitVec 8) (f : LaneF)

theorem laneWord_cls : bits (laneWord cls op f) 92 4 = cls :=
  (bits_append_high (cls ++ op ++ f.ty ++ f.d ++ f.a ++ f.b ++ f.c ++ f.m ++ BitVec.ofBool f.li ++ f.fl ++ BitVec.ofBool f.qa ++ BitVec.ofBool f.qb ++ BitVec.ofBool f.qc ++ BitVec.ofBool f.ib ++ f.rm ++ BitVec.ofBool f.sat ++ BitVec.ofBool f.nf) (f.imm) 92 4 (by decide)).trans
    ((bits_append_high (cls ++ op ++ f.ty ++ f.d ++ f.a ++ f.b ++ f.c ++ f.m ++ BitVec.ofBool f.li ++ f.fl ++ BitVec.ofBool f.qa ++ BitVec.ofBool f.qb ++ BitVec.ofBool f.qc ++ BitVec.ofBool f.ib ++ f.rm ++ BitVec.ofBool f.sat) (BitVec.ofBool f.nf) 60 4 (by decide)).trans
    ((bits_append_high (cls ++ op ++ f.ty ++ f.d ++ f.a ++ f.b ++ f.c ++ f.m ++ BitVec.ofBool f.li ++ f.fl ++ BitVec.ofBool f.qa ++ BitVec.ofBool f.qb ++ BitVec.ofBool f.qc ++ BitVec.ofBool f.ib ++ f.rm) (BitVec.ofBool f.sat) 59 4 (by decide)).trans
    ((bits_append_high (cls ++ op ++ f.ty ++ f.d ++ f.a ++ f.b ++ f.c ++ f.m ++ BitVec.ofBool f.li ++ f.fl ++ BitVec.ofBool f.qa ++ BitVec.ofBool f.qb ++ BitVec.ofBool f.qc ++ BitVec.ofBool f.ib) (f.rm) 58 4 (by decide)).trans
    ((bits_append_high (cls ++ op ++ f.ty ++ f.d ++ f.a ++ f.b ++ f.c ++ f.m ++ BitVec.ofBool f.li ++ f.fl ++ BitVec.ofBool f.qa ++ BitVec.ofBool f.qb ++ BitVec.ofBool f.qc) (BitVec.ofBool f.ib) 55 4 (by decide)).trans
    ((bits_append_high (cls ++ op ++ f.ty ++ f.d ++ f.a ++ f.b ++ f.c ++ f.m ++ BitVec.ofBool f.li ++ f.fl ++ BitVec.ofBool f.qa ++ BitVec.ofBool f.qb) (BitVec.ofBool f.qc) 54 4 (by decide)).trans
    ((bits_append_high (cls ++ op ++ f.ty ++ f.d ++ f.a ++ f.b ++ f.c ++ f.m ++ BitVec.ofBool f.li ++ f.fl ++ BitVec.ofBool f.qa) (BitVec.ofBool f.qb) 53 4 (by decide)).trans
    ((bits_append_high (cls ++ op ++ f.ty ++ f.d ++ f.a ++ f.b ++ f.c ++ f.m ++ BitVec.ofBool f.li ++ f.fl) (BitVec.ofBool f.qa) 52 4 (by decide)).trans
    ((bits_append_high (cls ++ op ++ f.ty ++ f.d ++ f.a ++ f.b ++ f.c ++ f.m ++ BitVec.ofBool f.li) (f.fl) 51 4 (by decide)).trans
    ((bits_append_high (cls ++ op ++ f.ty ++ f.d ++ f.a ++ f.b ++ f.c ++ f.m) (BitVec.ofBool f.li) 49 4 (by decide)).trans
    ((bits_append_high (cls ++ op ++ f.ty ++ f.d ++ f.a ++ f.b ++ f.c) (f.m) 48 4 (by decide)).trans
    ((bits_append_high (cls ++ op ++ f.ty ++ f.d ++ f.a ++ f.b) (f.c) 44 4 (by decide)).trans
    ((bits_append_high (cls ++ op ++ f.ty ++ f.d ++ f.a) (f.b) 36 4 (by decide)).trans
    ((bits_append_high (cls ++ op ++ f.ty ++ f.d) (f.a) 28 4 (by decide)).trans
    ((bits_append_high (cls ++ op ++ f.ty) (f.d) 20 4 (by decide)).trans
    ((bits_append_high (cls ++ op) (f.ty) 12 4 (by decide)).trans
    ((bits_append_high (cls) (op) 8 4 (by decide)).trans
    (bits_all cls)))))))))))))))))
theorem laneWord_op : bits (laneWord cls op f) 84 8 = op :=
  (bits_append_high (cls ++ op ++ f.ty ++ f.d ++ f.a ++ f.b ++ f.c ++ f.m ++ BitVec.ofBool f.li ++ f.fl ++ BitVec.ofBool f.qa ++ BitVec.ofBool f.qb ++ BitVec.ofBool f.qc ++ BitVec.ofBool f.ib ++ f.rm ++ BitVec.ofBool f.sat ++ BitVec.ofBool f.nf) (f.imm) 84 8 (by decide)).trans
    ((bits_append_high (cls ++ op ++ f.ty ++ f.d ++ f.a ++ f.b ++ f.c ++ f.m ++ BitVec.ofBool f.li ++ f.fl ++ BitVec.ofBool f.qa ++ BitVec.ofBool f.qb ++ BitVec.ofBool f.qc ++ BitVec.ofBool f.ib ++ f.rm ++ BitVec.ofBool f.sat) (BitVec.ofBool f.nf) 52 8 (by decide)).trans
    ((bits_append_high (cls ++ op ++ f.ty ++ f.d ++ f.a ++ f.b ++ f.c ++ f.m ++ BitVec.ofBool f.li ++ f.fl ++ BitVec.ofBool f.qa ++ BitVec.ofBool f.qb ++ BitVec.ofBool f.qc ++ BitVec.ofBool f.ib ++ f.rm) (BitVec.ofBool f.sat) 51 8 (by decide)).trans
    ((bits_append_high (cls ++ op ++ f.ty ++ f.d ++ f.a ++ f.b ++ f.c ++ f.m ++ BitVec.ofBool f.li ++ f.fl ++ BitVec.ofBool f.qa ++ BitVec.ofBool f.qb ++ BitVec.ofBool f.qc ++ BitVec.ofBool f.ib) (f.rm) 50 8 (by decide)).trans
    ((bits_append_high (cls ++ op ++ f.ty ++ f.d ++ f.a ++ f.b ++ f.c ++ f.m ++ BitVec.ofBool f.li ++ f.fl ++ BitVec.ofBool f.qa ++ BitVec.ofBool f.qb ++ BitVec.ofBool f.qc) (BitVec.ofBool f.ib) 47 8 (by decide)).trans
    ((bits_append_high (cls ++ op ++ f.ty ++ f.d ++ f.a ++ f.b ++ f.c ++ f.m ++ BitVec.ofBool f.li ++ f.fl ++ BitVec.ofBool f.qa ++ BitVec.ofBool f.qb) (BitVec.ofBool f.qc) 46 8 (by decide)).trans
    ((bits_append_high (cls ++ op ++ f.ty ++ f.d ++ f.a ++ f.b ++ f.c ++ f.m ++ BitVec.ofBool f.li ++ f.fl ++ BitVec.ofBool f.qa) (BitVec.ofBool f.qb) 45 8 (by decide)).trans
    ((bits_append_high (cls ++ op ++ f.ty ++ f.d ++ f.a ++ f.b ++ f.c ++ f.m ++ BitVec.ofBool f.li ++ f.fl) (BitVec.ofBool f.qa) 44 8 (by decide)).trans
    ((bits_append_high (cls ++ op ++ f.ty ++ f.d ++ f.a ++ f.b ++ f.c ++ f.m ++ BitVec.ofBool f.li) (f.fl) 43 8 (by decide)).trans
    ((bits_append_high (cls ++ op ++ f.ty ++ f.d ++ f.a ++ f.b ++ f.c ++ f.m) (BitVec.ofBool f.li) 41 8 (by decide)).trans
    ((bits_append_high (cls ++ op ++ f.ty ++ f.d ++ f.a ++ f.b ++ f.c) (f.m) 40 8 (by decide)).trans
    ((bits_append_high (cls ++ op ++ f.ty ++ f.d ++ f.a ++ f.b) (f.c) 36 8 (by decide)).trans
    ((bits_append_high (cls ++ op ++ f.ty ++ f.d ++ f.a) (f.b) 28 8 (by decide)).trans
    ((bits_append_high (cls ++ op ++ f.ty ++ f.d) (f.a) 20 8 (by decide)).trans
    ((bits_append_high (cls ++ op ++ f.ty) (f.d) 12 8 (by decide)).trans
    ((bits_append_high (cls ++ op) (f.ty) 4 8 (by decide)).trans
    ((bits_append_low (cls) (op) 0 8 (by decide)).trans
    (bits_all op)))))))))))))))))
theorem laneWord_ty : bits (laneWord cls op f) 80 4 = f.ty :=
  (bits_append_high (cls ++ op ++ f.ty ++ f.d ++ f.a ++ f.b ++ f.c ++ f.m ++ BitVec.ofBool f.li ++ f.fl ++ BitVec.ofBool f.qa ++ BitVec.ofBool f.qb ++ BitVec.ofBool f.qc ++ BitVec.ofBool f.ib ++ f.rm ++ BitVec.ofBool f.sat ++ BitVec.ofBool f.nf) (f.imm) 80 4 (by decide)).trans
    ((bits_append_high (cls ++ op ++ f.ty ++ f.d ++ f.a ++ f.b ++ f.c ++ f.m ++ BitVec.ofBool f.li ++ f.fl ++ BitVec.ofBool f.qa ++ BitVec.ofBool f.qb ++ BitVec.ofBool f.qc ++ BitVec.ofBool f.ib ++ f.rm ++ BitVec.ofBool f.sat) (BitVec.ofBool f.nf) 48 4 (by decide)).trans
    ((bits_append_high (cls ++ op ++ f.ty ++ f.d ++ f.a ++ f.b ++ f.c ++ f.m ++ BitVec.ofBool f.li ++ f.fl ++ BitVec.ofBool f.qa ++ BitVec.ofBool f.qb ++ BitVec.ofBool f.qc ++ BitVec.ofBool f.ib ++ f.rm) (BitVec.ofBool f.sat) 47 4 (by decide)).trans
    ((bits_append_high (cls ++ op ++ f.ty ++ f.d ++ f.a ++ f.b ++ f.c ++ f.m ++ BitVec.ofBool f.li ++ f.fl ++ BitVec.ofBool f.qa ++ BitVec.ofBool f.qb ++ BitVec.ofBool f.qc ++ BitVec.ofBool f.ib) (f.rm) 46 4 (by decide)).trans
    ((bits_append_high (cls ++ op ++ f.ty ++ f.d ++ f.a ++ f.b ++ f.c ++ f.m ++ BitVec.ofBool f.li ++ f.fl ++ BitVec.ofBool f.qa ++ BitVec.ofBool f.qb ++ BitVec.ofBool f.qc) (BitVec.ofBool f.ib) 43 4 (by decide)).trans
    ((bits_append_high (cls ++ op ++ f.ty ++ f.d ++ f.a ++ f.b ++ f.c ++ f.m ++ BitVec.ofBool f.li ++ f.fl ++ BitVec.ofBool f.qa ++ BitVec.ofBool f.qb) (BitVec.ofBool f.qc) 42 4 (by decide)).trans
    ((bits_append_high (cls ++ op ++ f.ty ++ f.d ++ f.a ++ f.b ++ f.c ++ f.m ++ BitVec.ofBool f.li ++ f.fl ++ BitVec.ofBool f.qa) (BitVec.ofBool f.qb) 41 4 (by decide)).trans
    ((bits_append_high (cls ++ op ++ f.ty ++ f.d ++ f.a ++ f.b ++ f.c ++ f.m ++ BitVec.ofBool f.li ++ f.fl) (BitVec.ofBool f.qa) 40 4 (by decide)).trans
    ((bits_append_high (cls ++ op ++ f.ty ++ f.d ++ f.a ++ f.b ++ f.c ++ f.m ++ BitVec.ofBool f.li) (f.fl) 39 4 (by decide)).trans
    ((bits_append_high (cls ++ op ++ f.ty ++ f.d ++ f.a ++ f.b ++ f.c ++ f.m) (BitVec.ofBool f.li) 37 4 (by decide)).trans
    ((bits_append_high (cls ++ op ++ f.ty ++ f.d ++ f.a ++ f.b ++ f.c) (f.m) 36 4 (by decide)).trans
    ((bits_append_high (cls ++ op ++ f.ty ++ f.d ++ f.a ++ f.b) (f.c) 32 4 (by decide)).trans
    ((bits_append_high (cls ++ op ++ f.ty ++ f.d ++ f.a) (f.b) 24 4 (by decide)).trans
    ((bits_append_high (cls ++ op ++ f.ty ++ f.d) (f.a) 16 4 (by decide)).trans
    ((bits_append_high (cls ++ op ++ f.ty) (f.d) 8 4 (by decide)).trans
    ((bits_append_low (cls ++ op) (f.ty) 0 4 (by decide)).trans
    (bits_all f.ty))))))))))))))))
theorem laneWord_d : bits (laneWord cls op f) 72 8 = f.d :=
  (bits_append_high (cls ++ op ++ f.ty ++ f.d ++ f.a ++ f.b ++ f.c ++ f.m ++ BitVec.ofBool f.li ++ f.fl ++ BitVec.ofBool f.qa ++ BitVec.ofBool f.qb ++ BitVec.ofBool f.qc ++ BitVec.ofBool f.ib ++ f.rm ++ BitVec.ofBool f.sat ++ BitVec.ofBool f.nf) (f.imm) 72 8 (by decide)).trans
    ((bits_append_high (cls ++ op ++ f.ty ++ f.d ++ f.a ++ f.b ++ f.c ++ f.m ++ BitVec.ofBool f.li ++ f.fl ++ BitVec.ofBool f.qa ++ BitVec.ofBool f.qb ++ BitVec.ofBool f.qc ++ BitVec.ofBool f.ib ++ f.rm ++ BitVec.ofBool f.sat) (BitVec.ofBool f.nf) 40 8 (by decide)).trans
    ((bits_append_high (cls ++ op ++ f.ty ++ f.d ++ f.a ++ f.b ++ f.c ++ f.m ++ BitVec.ofBool f.li ++ f.fl ++ BitVec.ofBool f.qa ++ BitVec.ofBool f.qb ++ BitVec.ofBool f.qc ++ BitVec.ofBool f.ib ++ f.rm) (BitVec.ofBool f.sat) 39 8 (by decide)).trans
    ((bits_append_high (cls ++ op ++ f.ty ++ f.d ++ f.a ++ f.b ++ f.c ++ f.m ++ BitVec.ofBool f.li ++ f.fl ++ BitVec.ofBool f.qa ++ BitVec.ofBool f.qb ++ BitVec.ofBool f.qc ++ BitVec.ofBool f.ib) (f.rm) 38 8 (by decide)).trans
    ((bits_append_high (cls ++ op ++ f.ty ++ f.d ++ f.a ++ f.b ++ f.c ++ f.m ++ BitVec.ofBool f.li ++ f.fl ++ BitVec.ofBool f.qa ++ BitVec.ofBool f.qb ++ BitVec.ofBool f.qc) (BitVec.ofBool f.ib) 35 8 (by decide)).trans
    ((bits_append_high (cls ++ op ++ f.ty ++ f.d ++ f.a ++ f.b ++ f.c ++ f.m ++ BitVec.ofBool f.li ++ f.fl ++ BitVec.ofBool f.qa ++ BitVec.ofBool f.qb) (BitVec.ofBool f.qc) 34 8 (by decide)).trans
    ((bits_append_high (cls ++ op ++ f.ty ++ f.d ++ f.a ++ f.b ++ f.c ++ f.m ++ BitVec.ofBool f.li ++ f.fl ++ BitVec.ofBool f.qa) (BitVec.ofBool f.qb) 33 8 (by decide)).trans
    ((bits_append_high (cls ++ op ++ f.ty ++ f.d ++ f.a ++ f.b ++ f.c ++ f.m ++ BitVec.ofBool f.li ++ f.fl) (BitVec.ofBool f.qa) 32 8 (by decide)).trans
    ((bits_append_high (cls ++ op ++ f.ty ++ f.d ++ f.a ++ f.b ++ f.c ++ f.m ++ BitVec.ofBool f.li) (f.fl) 31 8 (by decide)).trans
    ((bits_append_high (cls ++ op ++ f.ty ++ f.d ++ f.a ++ f.b ++ f.c ++ f.m) (BitVec.ofBool f.li) 29 8 (by decide)).trans
    ((bits_append_high (cls ++ op ++ f.ty ++ f.d ++ f.a ++ f.b ++ f.c) (f.m) 28 8 (by decide)).trans
    ((bits_append_high (cls ++ op ++ f.ty ++ f.d ++ f.a ++ f.b) (f.c) 24 8 (by decide)).trans
    ((bits_append_high (cls ++ op ++ f.ty ++ f.d ++ f.a) (f.b) 16 8 (by decide)).trans
    ((bits_append_high (cls ++ op ++ f.ty ++ f.d) (f.a) 8 8 (by decide)).trans
    ((bits_append_low (cls ++ op ++ f.ty) (f.d) 0 8 (by decide)).trans
    (bits_all f.d)))))))))))))))
theorem laneWord_a : bits (laneWord cls op f) 64 8 = f.a :=
  (bits_append_high (cls ++ op ++ f.ty ++ f.d ++ f.a ++ f.b ++ f.c ++ f.m ++ BitVec.ofBool f.li ++ f.fl ++ BitVec.ofBool f.qa ++ BitVec.ofBool f.qb ++ BitVec.ofBool f.qc ++ BitVec.ofBool f.ib ++ f.rm ++ BitVec.ofBool f.sat ++ BitVec.ofBool f.nf) (f.imm) 64 8 (by decide)).trans
    ((bits_append_high (cls ++ op ++ f.ty ++ f.d ++ f.a ++ f.b ++ f.c ++ f.m ++ BitVec.ofBool f.li ++ f.fl ++ BitVec.ofBool f.qa ++ BitVec.ofBool f.qb ++ BitVec.ofBool f.qc ++ BitVec.ofBool f.ib ++ f.rm ++ BitVec.ofBool f.sat) (BitVec.ofBool f.nf) 32 8 (by decide)).trans
    ((bits_append_high (cls ++ op ++ f.ty ++ f.d ++ f.a ++ f.b ++ f.c ++ f.m ++ BitVec.ofBool f.li ++ f.fl ++ BitVec.ofBool f.qa ++ BitVec.ofBool f.qb ++ BitVec.ofBool f.qc ++ BitVec.ofBool f.ib ++ f.rm) (BitVec.ofBool f.sat) 31 8 (by decide)).trans
    ((bits_append_high (cls ++ op ++ f.ty ++ f.d ++ f.a ++ f.b ++ f.c ++ f.m ++ BitVec.ofBool f.li ++ f.fl ++ BitVec.ofBool f.qa ++ BitVec.ofBool f.qb ++ BitVec.ofBool f.qc ++ BitVec.ofBool f.ib) (f.rm) 30 8 (by decide)).trans
    ((bits_append_high (cls ++ op ++ f.ty ++ f.d ++ f.a ++ f.b ++ f.c ++ f.m ++ BitVec.ofBool f.li ++ f.fl ++ BitVec.ofBool f.qa ++ BitVec.ofBool f.qb ++ BitVec.ofBool f.qc) (BitVec.ofBool f.ib) 27 8 (by decide)).trans
    ((bits_append_high (cls ++ op ++ f.ty ++ f.d ++ f.a ++ f.b ++ f.c ++ f.m ++ BitVec.ofBool f.li ++ f.fl ++ BitVec.ofBool f.qa ++ BitVec.ofBool f.qb) (BitVec.ofBool f.qc) 26 8 (by decide)).trans
    ((bits_append_high (cls ++ op ++ f.ty ++ f.d ++ f.a ++ f.b ++ f.c ++ f.m ++ BitVec.ofBool f.li ++ f.fl ++ BitVec.ofBool f.qa) (BitVec.ofBool f.qb) 25 8 (by decide)).trans
    ((bits_append_high (cls ++ op ++ f.ty ++ f.d ++ f.a ++ f.b ++ f.c ++ f.m ++ BitVec.ofBool f.li ++ f.fl) (BitVec.ofBool f.qa) 24 8 (by decide)).trans
    ((bits_append_high (cls ++ op ++ f.ty ++ f.d ++ f.a ++ f.b ++ f.c ++ f.m ++ BitVec.ofBool f.li) (f.fl) 23 8 (by decide)).trans
    ((bits_append_high (cls ++ op ++ f.ty ++ f.d ++ f.a ++ f.b ++ f.c ++ f.m) (BitVec.ofBool f.li) 21 8 (by decide)).trans
    ((bits_append_high (cls ++ op ++ f.ty ++ f.d ++ f.a ++ f.b ++ f.c) (f.m) 20 8 (by decide)).trans
    ((bits_append_high (cls ++ op ++ f.ty ++ f.d ++ f.a ++ f.b) (f.c) 16 8 (by decide)).trans
    ((bits_append_high (cls ++ op ++ f.ty ++ f.d ++ f.a) (f.b) 8 8 (by decide)).trans
    ((bits_append_low (cls ++ op ++ f.ty ++ f.d) (f.a) 0 8 (by decide)).trans
    (bits_all f.a))))))))))))))
theorem laneWord_b : bits (laneWord cls op f) 56 8 = f.b :=
  (bits_append_high (cls ++ op ++ f.ty ++ f.d ++ f.a ++ f.b ++ f.c ++ f.m ++ BitVec.ofBool f.li ++ f.fl ++ BitVec.ofBool f.qa ++ BitVec.ofBool f.qb ++ BitVec.ofBool f.qc ++ BitVec.ofBool f.ib ++ f.rm ++ BitVec.ofBool f.sat ++ BitVec.ofBool f.nf) (f.imm) 56 8 (by decide)).trans
    ((bits_append_high (cls ++ op ++ f.ty ++ f.d ++ f.a ++ f.b ++ f.c ++ f.m ++ BitVec.ofBool f.li ++ f.fl ++ BitVec.ofBool f.qa ++ BitVec.ofBool f.qb ++ BitVec.ofBool f.qc ++ BitVec.ofBool f.ib ++ f.rm ++ BitVec.ofBool f.sat) (BitVec.ofBool f.nf) 24 8 (by decide)).trans
    ((bits_append_high (cls ++ op ++ f.ty ++ f.d ++ f.a ++ f.b ++ f.c ++ f.m ++ BitVec.ofBool f.li ++ f.fl ++ BitVec.ofBool f.qa ++ BitVec.ofBool f.qb ++ BitVec.ofBool f.qc ++ BitVec.ofBool f.ib ++ f.rm) (BitVec.ofBool f.sat) 23 8 (by decide)).trans
    ((bits_append_high (cls ++ op ++ f.ty ++ f.d ++ f.a ++ f.b ++ f.c ++ f.m ++ BitVec.ofBool f.li ++ f.fl ++ BitVec.ofBool f.qa ++ BitVec.ofBool f.qb ++ BitVec.ofBool f.qc ++ BitVec.ofBool f.ib) (f.rm) 22 8 (by decide)).trans
    ((bits_append_high (cls ++ op ++ f.ty ++ f.d ++ f.a ++ f.b ++ f.c ++ f.m ++ BitVec.ofBool f.li ++ f.fl ++ BitVec.ofBool f.qa ++ BitVec.ofBool f.qb ++ BitVec.ofBool f.qc) (BitVec.ofBool f.ib) 19 8 (by decide)).trans
    ((bits_append_high (cls ++ op ++ f.ty ++ f.d ++ f.a ++ f.b ++ f.c ++ f.m ++ BitVec.ofBool f.li ++ f.fl ++ BitVec.ofBool f.qa ++ BitVec.ofBool f.qb) (BitVec.ofBool f.qc) 18 8 (by decide)).trans
    ((bits_append_high (cls ++ op ++ f.ty ++ f.d ++ f.a ++ f.b ++ f.c ++ f.m ++ BitVec.ofBool f.li ++ f.fl ++ BitVec.ofBool f.qa) (BitVec.ofBool f.qb) 17 8 (by decide)).trans
    ((bits_append_high (cls ++ op ++ f.ty ++ f.d ++ f.a ++ f.b ++ f.c ++ f.m ++ BitVec.ofBool f.li ++ f.fl) (BitVec.ofBool f.qa) 16 8 (by decide)).trans
    ((bits_append_high (cls ++ op ++ f.ty ++ f.d ++ f.a ++ f.b ++ f.c ++ f.m ++ BitVec.ofBool f.li) (f.fl) 15 8 (by decide)).trans
    ((bits_append_high (cls ++ op ++ f.ty ++ f.d ++ f.a ++ f.b ++ f.c ++ f.m) (BitVec.ofBool f.li) 13 8 (by decide)).trans
    ((bits_append_high (cls ++ op ++ f.ty ++ f.d ++ f.a ++ f.b ++ f.c) (f.m) 12 8 (by decide)).trans
    ((bits_append_high (cls ++ op ++ f.ty ++ f.d ++ f.a ++ f.b) (f.c) 8 8 (by decide)).trans
    ((bits_append_low (cls ++ op ++ f.ty ++ f.d ++ f.a) (f.b) 0 8 (by decide)).trans
    (bits_all f.b)))))))))))))
theorem laneWord_c : bits (laneWord cls op f) 48 8 = f.c :=
  (bits_append_high (cls ++ op ++ f.ty ++ f.d ++ f.a ++ f.b ++ f.c ++ f.m ++ BitVec.ofBool f.li ++ f.fl ++ BitVec.ofBool f.qa ++ BitVec.ofBool f.qb ++ BitVec.ofBool f.qc ++ BitVec.ofBool f.ib ++ f.rm ++ BitVec.ofBool f.sat ++ BitVec.ofBool f.nf) (f.imm) 48 8 (by decide)).trans
    ((bits_append_high (cls ++ op ++ f.ty ++ f.d ++ f.a ++ f.b ++ f.c ++ f.m ++ BitVec.ofBool f.li ++ f.fl ++ BitVec.ofBool f.qa ++ BitVec.ofBool f.qb ++ BitVec.ofBool f.qc ++ BitVec.ofBool f.ib ++ f.rm ++ BitVec.ofBool f.sat) (BitVec.ofBool f.nf) 16 8 (by decide)).trans
    ((bits_append_high (cls ++ op ++ f.ty ++ f.d ++ f.a ++ f.b ++ f.c ++ f.m ++ BitVec.ofBool f.li ++ f.fl ++ BitVec.ofBool f.qa ++ BitVec.ofBool f.qb ++ BitVec.ofBool f.qc ++ BitVec.ofBool f.ib ++ f.rm) (BitVec.ofBool f.sat) 15 8 (by decide)).trans
    ((bits_append_high (cls ++ op ++ f.ty ++ f.d ++ f.a ++ f.b ++ f.c ++ f.m ++ BitVec.ofBool f.li ++ f.fl ++ BitVec.ofBool f.qa ++ BitVec.ofBool f.qb ++ BitVec.ofBool f.qc ++ BitVec.ofBool f.ib) (f.rm) 14 8 (by decide)).trans
    ((bits_append_high (cls ++ op ++ f.ty ++ f.d ++ f.a ++ f.b ++ f.c ++ f.m ++ BitVec.ofBool f.li ++ f.fl ++ BitVec.ofBool f.qa ++ BitVec.ofBool f.qb ++ BitVec.ofBool f.qc) (BitVec.ofBool f.ib) 11 8 (by decide)).trans
    ((bits_append_high (cls ++ op ++ f.ty ++ f.d ++ f.a ++ f.b ++ f.c ++ f.m ++ BitVec.ofBool f.li ++ f.fl ++ BitVec.ofBool f.qa ++ BitVec.ofBool f.qb) (BitVec.ofBool f.qc) 10 8 (by decide)).trans
    ((bits_append_high (cls ++ op ++ f.ty ++ f.d ++ f.a ++ f.b ++ f.c ++ f.m ++ BitVec.ofBool f.li ++ f.fl ++ BitVec.ofBool f.qa) (BitVec.ofBool f.qb) 9 8 (by decide)).trans
    ((bits_append_high (cls ++ op ++ f.ty ++ f.d ++ f.a ++ f.b ++ f.c ++ f.m ++ BitVec.ofBool f.li ++ f.fl) (BitVec.ofBool f.qa) 8 8 (by decide)).trans
    ((bits_append_high (cls ++ op ++ f.ty ++ f.d ++ f.a ++ f.b ++ f.c ++ f.m ++ BitVec.ofBool f.li) (f.fl) 7 8 (by decide)).trans
    ((bits_append_high (cls ++ op ++ f.ty ++ f.d ++ f.a ++ f.b ++ f.c ++ f.m) (BitVec.ofBool f.li) 5 8 (by decide)).trans
    ((bits_append_high (cls ++ op ++ f.ty ++ f.d ++ f.a ++ f.b ++ f.c) (f.m) 4 8 (by decide)).trans
    ((bits_append_low (cls ++ op ++ f.ty ++ f.d ++ f.a ++ f.b) (f.c) 0 8 (by decide)).trans
    (bits_all f.c))))))))))))
theorem laneWord_m : bits (laneWord cls op f) 44 4 = f.m :=
  (bits_append_high (cls ++ op ++ f.ty ++ f.d ++ f.a ++ f.b ++ f.c ++ f.m ++ BitVec.ofBool f.li ++ f.fl ++ BitVec.ofBool f.qa ++ BitVec.ofBool f.qb ++ BitVec.ofBool f.qc ++ BitVec.ofBool f.ib ++ f.rm ++ BitVec.ofBool f.sat ++ BitVec.ofBool f.nf) (f.imm) 44 4 (by decide)).trans
    ((bits_append_high (cls ++ op ++ f.ty ++ f.d ++ f.a ++ f.b ++ f.c ++ f.m ++ BitVec.ofBool f.li ++ f.fl ++ BitVec.ofBool f.qa ++ BitVec.ofBool f.qb ++ BitVec.ofBool f.qc ++ BitVec.ofBool f.ib ++ f.rm ++ BitVec.ofBool f.sat) (BitVec.ofBool f.nf) 12 4 (by decide)).trans
    ((bits_append_high (cls ++ op ++ f.ty ++ f.d ++ f.a ++ f.b ++ f.c ++ f.m ++ BitVec.ofBool f.li ++ f.fl ++ BitVec.ofBool f.qa ++ BitVec.ofBool f.qb ++ BitVec.ofBool f.qc ++ BitVec.ofBool f.ib ++ f.rm) (BitVec.ofBool f.sat) 11 4 (by decide)).trans
    ((bits_append_high (cls ++ op ++ f.ty ++ f.d ++ f.a ++ f.b ++ f.c ++ f.m ++ BitVec.ofBool f.li ++ f.fl ++ BitVec.ofBool f.qa ++ BitVec.ofBool f.qb ++ BitVec.ofBool f.qc ++ BitVec.ofBool f.ib) (f.rm) 10 4 (by decide)).trans
    ((bits_append_high (cls ++ op ++ f.ty ++ f.d ++ f.a ++ f.b ++ f.c ++ f.m ++ BitVec.ofBool f.li ++ f.fl ++ BitVec.ofBool f.qa ++ BitVec.ofBool f.qb ++ BitVec.ofBool f.qc) (BitVec.ofBool f.ib) 7 4 (by decide)).trans
    ((bits_append_high (cls ++ op ++ f.ty ++ f.d ++ f.a ++ f.b ++ f.c ++ f.m ++ BitVec.ofBool f.li ++ f.fl ++ BitVec.ofBool f.qa ++ BitVec.ofBool f.qb) (BitVec.ofBool f.qc) 6 4 (by decide)).trans
    ((bits_append_high (cls ++ op ++ f.ty ++ f.d ++ f.a ++ f.b ++ f.c ++ f.m ++ BitVec.ofBool f.li ++ f.fl ++ BitVec.ofBool f.qa) (BitVec.ofBool f.qb) 5 4 (by decide)).trans
    ((bits_append_high (cls ++ op ++ f.ty ++ f.d ++ f.a ++ f.b ++ f.c ++ f.m ++ BitVec.ofBool f.li ++ f.fl) (BitVec.ofBool f.qa) 4 4 (by decide)).trans
    ((bits_append_high (cls ++ op ++ f.ty ++ f.d ++ f.a ++ f.b ++ f.c ++ f.m ++ BitVec.ofBool f.li) (f.fl) 3 4 (by decide)).trans
    ((bits_append_high (cls ++ op ++ f.ty ++ f.d ++ f.a ++ f.b ++ f.c ++ f.m) (BitVec.ofBool f.li) 1 4 (by decide)).trans
    ((bits_append_low (cls ++ op ++ f.ty ++ f.d ++ f.a ++ f.b ++ f.c) (f.m) 0 4 (by decide)).trans
    (bits_all f.m)))))))))))
theorem laneWord_li : (laneWord cls op f).getLsbD 43 = f.li :=
  (bits_one (laneWord cls op f) 43).trans ((congrArg (fun x => x.getLsbD 0) (show bits (laneWord cls op f) 43 1 = BitVec.ofBool f.li from
    (bits_append_high (cls ++ op ++ f.ty ++ f.d ++ f.a ++ f.b ++ f.c ++ f.m ++ BitVec.ofBool f.li ++ f.fl ++ BitVec.ofBool f.qa ++ BitVec.ofBool f.qb ++ BitVec.ofBool f.qc ++ BitVec.ofBool f.ib ++ f.rm ++ BitVec.ofBool f.sat ++ BitVec.ofBool f.nf) (f.imm) 43 1 (by decide)).trans
    ((bits_append_high (cls ++ op ++ f.ty ++ f.d ++ f.a ++ f.b ++ f.c ++ f.m ++ BitVec.ofBool f.li ++ f.fl ++ BitVec.ofBool f.qa ++ BitVec.ofBool f.qb ++ BitVec.ofBool f.qc ++ BitVec.ofBool f.ib ++ f.rm ++ BitVec.ofBool f.sat) (BitVec.ofBool f.nf) 11 1 (by decide)).trans
    ((bits_append_high (cls ++ op ++ f.ty ++ f.d ++ f.a ++ f.b ++ f.c ++ f.m ++ BitVec.ofBool f.li ++ f.fl ++ BitVec.ofBool f.qa ++ BitVec.ofBool f.qb ++ BitVec.ofBool f.qc ++ BitVec.ofBool f.ib ++ f.rm) (BitVec.ofBool f.sat) 10 1 (by decide)).trans
    ((bits_append_high (cls ++ op ++ f.ty ++ f.d ++ f.a ++ f.b ++ f.c ++ f.m ++ BitVec.ofBool f.li ++ f.fl ++ BitVec.ofBool f.qa ++ BitVec.ofBool f.qb ++ BitVec.ofBool f.qc ++ BitVec.ofBool f.ib) (f.rm) 9 1 (by decide)).trans
    ((bits_append_high (cls ++ op ++ f.ty ++ f.d ++ f.a ++ f.b ++ f.c ++ f.m ++ BitVec.ofBool f.li ++ f.fl ++ BitVec.ofBool f.qa ++ BitVec.ofBool f.qb ++ BitVec.ofBool f.qc) (BitVec.ofBool f.ib) 6 1 (by decide)).trans
    ((bits_append_high (cls ++ op ++ f.ty ++ f.d ++ f.a ++ f.b ++ f.c ++ f.m ++ BitVec.ofBool f.li ++ f.fl ++ BitVec.ofBool f.qa ++ BitVec.ofBool f.qb) (BitVec.ofBool f.qc) 5 1 (by decide)).trans
    ((bits_append_high (cls ++ op ++ f.ty ++ f.d ++ f.a ++ f.b ++ f.c ++ f.m ++ BitVec.ofBool f.li ++ f.fl ++ BitVec.ofBool f.qa) (BitVec.ofBool f.qb) 4 1 (by decide)).trans
    ((bits_append_high (cls ++ op ++ f.ty ++ f.d ++ f.a ++ f.b ++ f.c ++ f.m ++ BitVec.ofBool f.li ++ f.fl) (BitVec.ofBool f.qa) 3 1 (by decide)).trans
    ((bits_append_high (cls ++ op ++ f.ty ++ f.d ++ f.a ++ f.b ++ f.c ++ f.m ++ BitVec.ofBool f.li) (f.fl) 2 1 (by decide)).trans
    ((bits_append_low (cls ++ op ++ f.ty ++ f.d ++ f.a ++ f.b ++ f.c ++ f.m) (BitVec.ofBool f.li) 0 1 (by decide)).trans
    (bits_all (BitVec.ofBool f.li))))))))))))).trans (ofBool_getLsbD_zero f.li))
theorem laneWord_fl : bits (laneWord cls op f) 41 2 = f.fl :=
  (bits_append_high (cls ++ op ++ f.ty ++ f.d ++ f.a ++ f.b ++ f.c ++ f.m ++ BitVec.ofBool f.li ++ f.fl ++ BitVec.ofBool f.qa ++ BitVec.ofBool f.qb ++ BitVec.ofBool f.qc ++ BitVec.ofBool f.ib ++ f.rm ++ BitVec.ofBool f.sat ++ BitVec.ofBool f.nf) (f.imm) 41 2 (by decide)).trans
    ((bits_append_high (cls ++ op ++ f.ty ++ f.d ++ f.a ++ f.b ++ f.c ++ f.m ++ BitVec.ofBool f.li ++ f.fl ++ BitVec.ofBool f.qa ++ BitVec.ofBool f.qb ++ BitVec.ofBool f.qc ++ BitVec.ofBool f.ib ++ f.rm ++ BitVec.ofBool f.sat) (BitVec.ofBool f.nf) 9 2 (by decide)).trans
    ((bits_append_high (cls ++ op ++ f.ty ++ f.d ++ f.a ++ f.b ++ f.c ++ f.m ++ BitVec.ofBool f.li ++ f.fl ++ BitVec.ofBool f.qa ++ BitVec.ofBool f.qb ++ BitVec.ofBool f.qc ++ BitVec.ofBool f.ib ++ f.rm) (BitVec.ofBool f.sat) 8 2 (by decide)).trans
    ((bits_append_high (cls ++ op ++ f.ty ++ f.d ++ f.a ++ f.b ++ f.c ++ f.m ++ BitVec.ofBool f.li ++ f.fl ++ BitVec.ofBool f.qa ++ BitVec.ofBool f.qb ++ BitVec.ofBool f.qc ++ BitVec.ofBool f.ib) (f.rm) 7 2 (by decide)).trans
    ((bits_append_high (cls ++ op ++ f.ty ++ f.d ++ f.a ++ f.b ++ f.c ++ f.m ++ BitVec.ofBool f.li ++ f.fl ++ BitVec.ofBool f.qa ++ BitVec.ofBool f.qb ++ BitVec.ofBool f.qc) (BitVec.ofBool f.ib) 4 2 (by decide)).trans
    ((bits_append_high (cls ++ op ++ f.ty ++ f.d ++ f.a ++ f.b ++ f.c ++ f.m ++ BitVec.ofBool f.li ++ f.fl ++ BitVec.ofBool f.qa ++ BitVec.ofBool f.qb) (BitVec.ofBool f.qc) 3 2 (by decide)).trans
    ((bits_append_high (cls ++ op ++ f.ty ++ f.d ++ f.a ++ f.b ++ f.c ++ f.m ++ BitVec.ofBool f.li ++ f.fl ++ BitVec.ofBool f.qa) (BitVec.ofBool f.qb) 2 2 (by decide)).trans
    ((bits_append_high (cls ++ op ++ f.ty ++ f.d ++ f.a ++ f.b ++ f.c ++ f.m ++ BitVec.ofBool f.li ++ f.fl) (BitVec.ofBool f.qa) 1 2 (by decide)).trans
    ((bits_append_low (cls ++ op ++ f.ty ++ f.d ++ f.a ++ f.b ++ f.c ++ f.m ++ BitVec.ofBool f.li) (f.fl) 0 2 (by decide)).trans
    (bits_all f.fl)))))))))
theorem laneWord_qa : (laneWord cls op f).getLsbD 40 = f.qa :=
  (bits_one (laneWord cls op f) 40).trans ((congrArg (fun x => x.getLsbD 0) (show bits (laneWord cls op f) 40 1 = BitVec.ofBool f.qa from
    (bits_append_high (cls ++ op ++ f.ty ++ f.d ++ f.a ++ f.b ++ f.c ++ f.m ++ BitVec.ofBool f.li ++ f.fl ++ BitVec.ofBool f.qa ++ BitVec.ofBool f.qb ++ BitVec.ofBool f.qc ++ BitVec.ofBool f.ib ++ f.rm ++ BitVec.ofBool f.sat ++ BitVec.ofBool f.nf) (f.imm) 40 1 (by decide)).trans
    ((bits_append_high (cls ++ op ++ f.ty ++ f.d ++ f.a ++ f.b ++ f.c ++ f.m ++ BitVec.ofBool f.li ++ f.fl ++ BitVec.ofBool f.qa ++ BitVec.ofBool f.qb ++ BitVec.ofBool f.qc ++ BitVec.ofBool f.ib ++ f.rm ++ BitVec.ofBool f.sat) (BitVec.ofBool f.nf) 8 1 (by decide)).trans
    ((bits_append_high (cls ++ op ++ f.ty ++ f.d ++ f.a ++ f.b ++ f.c ++ f.m ++ BitVec.ofBool f.li ++ f.fl ++ BitVec.ofBool f.qa ++ BitVec.ofBool f.qb ++ BitVec.ofBool f.qc ++ BitVec.ofBool f.ib ++ f.rm) (BitVec.ofBool f.sat) 7 1 (by decide)).trans
    ((bits_append_high (cls ++ op ++ f.ty ++ f.d ++ f.a ++ f.b ++ f.c ++ f.m ++ BitVec.ofBool f.li ++ f.fl ++ BitVec.ofBool f.qa ++ BitVec.ofBool f.qb ++ BitVec.ofBool f.qc ++ BitVec.ofBool f.ib) (f.rm) 6 1 (by decide)).trans
    ((bits_append_high (cls ++ op ++ f.ty ++ f.d ++ f.a ++ f.b ++ f.c ++ f.m ++ BitVec.ofBool f.li ++ f.fl ++ BitVec.ofBool f.qa ++ BitVec.ofBool f.qb ++ BitVec.ofBool f.qc) (BitVec.ofBool f.ib) 3 1 (by decide)).trans
    ((bits_append_high (cls ++ op ++ f.ty ++ f.d ++ f.a ++ f.b ++ f.c ++ f.m ++ BitVec.ofBool f.li ++ f.fl ++ BitVec.ofBool f.qa ++ BitVec.ofBool f.qb) (BitVec.ofBool f.qc) 2 1 (by decide)).trans
    ((bits_append_high (cls ++ op ++ f.ty ++ f.d ++ f.a ++ f.b ++ f.c ++ f.m ++ BitVec.ofBool f.li ++ f.fl ++ BitVec.ofBool f.qa) (BitVec.ofBool f.qb) 1 1 (by decide)).trans
    ((bits_append_low (cls ++ op ++ f.ty ++ f.d ++ f.a ++ f.b ++ f.c ++ f.m ++ BitVec.ofBool f.li ++ f.fl) (BitVec.ofBool f.qa) 0 1 (by decide)).trans
    (bits_all (BitVec.ofBool f.qa))))))))))).trans (ofBool_getLsbD_zero f.qa))
theorem laneWord_qb : (laneWord cls op f).getLsbD 39 = f.qb :=
  (bits_one (laneWord cls op f) 39).trans ((congrArg (fun x => x.getLsbD 0) (show bits (laneWord cls op f) 39 1 = BitVec.ofBool f.qb from
    (bits_append_high (cls ++ op ++ f.ty ++ f.d ++ f.a ++ f.b ++ f.c ++ f.m ++ BitVec.ofBool f.li ++ f.fl ++ BitVec.ofBool f.qa ++ BitVec.ofBool f.qb ++ BitVec.ofBool f.qc ++ BitVec.ofBool f.ib ++ f.rm ++ BitVec.ofBool f.sat ++ BitVec.ofBool f.nf) (f.imm) 39 1 (by decide)).trans
    ((bits_append_high (cls ++ op ++ f.ty ++ f.d ++ f.a ++ f.b ++ f.c ++ f.m ++ BitVec.ofBool f.li ++ f.fl ++ BitVec.ofBool f.qa ++ BitVec.ofBool f.qb ++ BitVec.ofBool f.qc ++ BitVec.ofBool f.ib ++ f.rm ++ BitVec.ofBool f.sat) (BitVec.ofBool f.nf) 7 1 (by decide)).trans
    ((bits_append_high (cls ++ op ++ f.ty ++ f.d ++ f.a ++ f.b ++ f.c ++ f.m ++ BitVec.ofBool f.li ++ f.fl ++ BitVec.ofBool f.qa ++ BitVec.ofBool f.qb ++ BitVec.ofBool f.qc ++ BitVec.ofBool f.ib ++ f.rm) (BitVec.ofBool f.sat) 6 1 (by decide)).trans
    ((bits_append_high (cls ++ op ++ f.ty ++ f.d ++ f.a ++ f.b ++ f.c ++ f.m ++ BitVec.ofBool f.li ++ f.fl ++ BitVec.ofBool f.qa ++ BitVec.ofBool f.qb ++ BitVec.ofBool f.qc ++ BitVec.ofBool f.ib) (f.rm) 5 1 (by decide)).trans
    ((bits_append_high (cls ++ op ++ f.ty ++ f.d ++ f.a ++ f.b ++ f.c ++ f.m ++ BitVec.ofBool f.li ++ f.fl ++ BitVec.ofBool f.qa ++ BitVec.ofBool f.qb ++ BitVec.ofBool f.qc) (BitVec.ofBool f.ib) 2 1 (by decide)).trans
    ((bits_append_high (cls ++ op ++ f.ty ++ f.d ++ f.a ++ f.b ++ f.c ++ f.m ++ BitVec.ofBool f.li ++ f.fl ++ BitVec.ofBool f.qa ++ BitVec.ofBool f.qb) (BitVec.ofBool f.qc) 1 1 (by decide)).trans
    ((bits_append_low (cls ++ op ++ f.ty ++ f.d ++ f.a ++ f.b ++ f.c ++ f.m ++ BitVec.ofBool f.li ++ f.fl ++ BitVec.ofBool f.qa) (BitVec.ofBool f.qb) 0 1 (by decide)).trans
    (bits_all (BitVec.ofBool f.qb)))))))))).trans (ofBool_getLsbD_zero f.qb))
theorem laneWord_qc : (laneWord cls op f).getLsbD 38 = f.qc :=
  (bits_one (laneWord cls op f) 38).trans ((congrArg (fun x => x.getLsbD 0) (show bits (laneWord cls op f) 38 1 = BitVec.ofBool f.qc from
    (bits_append_high (cls ++ op ++ f.ty ++ f.d ++ f.a ++ f.b ++ f.c ++ f.m ++ BitVec.ofBool f.li ++ f.fl ++ BitVec.ofBool f.qa ++ BitVec.ofBool f.qb ++ BitVec.ofBool f.qc ++ BitVec.ofBool f.ib ++ f.rm ++ BitVec.ofBool f.sat ++ BitVec.ofBool f.nf) (f.imm) 38 1 (by decide)).trans
    ((bits_append_high (cls ++ op ++ f.ty ++ f.d ++ f.a ++ f.b ++ f.c ++ f.m ++ BitVec.ofBool f.li ++ f.fl ++ BitVec.ofBool f.qa ++ BitVec.ofBool f.qb ++ BitVec.ofBool f.qc ++ BitVec.ofBool f.ib ++ f.rm ++ BitVec.ofBool f.sat) (BitVec.ofBool f.nf) 6 1 (by decide)).trans
    ((bits_append_high (cls ++ op ++ f.ty ++ f.d ++ f.a ++ f.b ++ f.c ++ f.m ++ BitVec.ofBool f.li ++ f.fl ++ BitVec.ofBool f.qa ++ BitVec.ofBool f.qb ++ BitVec.ofBool f.qc ++ BitVec.ofBool f.ib ++ f.rm) (BitVec.ofBool f.sat) 5 1 (by decide)).trans
    ((bits_append_high (cls ++ op ++ f.ty ++ f.d ++ f.a ++ f.b ++ f.c ++ f.m ++ BitVec.ofBool f.li ++ f.fl ++ BitVec.ofBool f.qa ++ BitVec.ofBool f.qb ++ BitVec.ofBool f.qc ++ BitVec.ofBool f.ib) (f.rm) 4 1 (by decide)).trans
    ((bits_append_high (cls ++ op ++ f.ty ++ f.d ++ f.a ++ f.b ++ f.c ++ f.m ++ BitVec.ofBool f.li ++ f.fl ++ BitVec.ofBool f.qa ++ BitVec.ofBool f.qb ++ BitVec.ofBool f.qc) (BitVec.ofBool f.ib) 1 1 (by decide)).trans
    ((bits_append_low (cls ++ op ++ f.ty ++ f.d ++ f.a ++ f.b ++ f.c ++ f.m ++ BitVec.ofBool f.li ++ f.fl ++ BitVec.ofBool f.qa ++ BitVec.ofBool f.qb) (BitVec.ofBool f.qc) 0 1 (by decide)).trans
    (bits_all (BitVec.ofBool f.qc))))))))).trans (ofBool_getLsbD_zero f.qc))
theorem laneWord_ib : (laneWord cls op f).getLsbD 37 = f.ib :=
  (bits_one (laneWord cls op f) 37).trans ((congrArg (fun x => x.getLsbD 0) (show bits (laneWord cls op f) 37 1 = BitVec.ofBool f.ib from
    (bits_append_high (cls ++ op ++ f.ty ++ f.d ++ f.a ++ f.b ++ f.c ++ f.m ++ BitVec.ofBool f.li ++ f.fl ++ BitVec.ofBool f.qa ++ BitVec.ofBool f.qb ++ BitVec.ofBool f.qc ++ BitVec.ofBool f.ib ++ f.rm ++ BitVec.ofBool f.sat ++ BitVec.ofBool f.nf) (f.imm) 37 1 (by decide)).trans
    ((bits_append_high (cls ++ op ++ f.ty ++ f.d ++ f.a ++ f.b ++ f.c ++ f.m ++ BitVec.ofBool f.li ++ f.fl ++ BitVec.ofBool f.qa ++ BitVec.ofBool f.qb ++ BitVec.ofBool f.qc ++ BitVec.ofBool f.ib ++ f.rm ++ BitVec.ofBool f.sat) (BitVec.ofBool f.nf) 5 1 (by decide)).trans
    ((bits_append_high (cls ++ op ++ f.ty ++ f.d ++ f.a ++ f.b ++ f.c ++ f.m ++ BitVec.ofBool f.li ++ f.fl ++ BitVec.ofBool f.qa ++ BitVec.ofBool f.qb ++ BitVec.ofBool f.qc ++ BitVec.ofBool f.ib ++ f.rm) (BitVec.ofBool f.sat) 4 1 (by decide)).trans
    ((bits_append_high (cls ++ op ++ f.ty ++ f.d ++ f.a ++ f.b ++ f.c ++ f.m ++ BitVec.ofBool f.li ++ f.fl ++ BitVec.ofBool f.qa ++ BitVec.ofBool f.qb ++ BitVec.ofBool f.qc ++ BitVec.ofBool f.ib) (f.rm) 3 1 (by decide)).trans
    ((bits_append_low (cls ++ op ++ f.ty ++ f.d ++ f.a ++ f.b ++ f.c ++ f.m ++ BitVec.ofBool f.li ++ f.fl ++ BitVec.ofBool f.qa ++ BitVec.ofBool f.qb ++ BitVec.ofBool f.qc) (BitVec.ofBool f.ib) 0 1 (by decide)).trans
    (bits_all (BitVec.ofBool f.ib)))))))).trans (ofBool_getLsbD_zero f.ib))
theorem laneWord_rm : bits (laneWord cls op f) 34 3 = f.rm :=
  (bits_append_high (cls ++ op ++ f.ty ++ f.d ++ f.a ++ f.b ++ f.c ++ f.m ++ BitVec.ofBool f.li ++ f.fl ++ BitVec.ofBool f.qa ++ BitVec.ofBool f.qb ++ BitVec.ofBool f.qc ++ BitVec.ofBool f.ib ++ f.rm ++ BitVec.ofBool f.sat ++ BitVec.ofBool f.nf) (f.imm) 34 3 (by decide)).trans
    ((bits_append_high (cls ++ op ++ f.ty ++ f.d ++ f.a ++ f.b ++ f.c ++ f.m ++ BitVec.ofBool f.li ++ f.fl ++ BitVec.ofBool f.qa ++ BitVec.ofBool f.qb ++ BitVec.ofBool f.qc ++ BitVec.ofBool f.ib ++ f.rm ++ BitVec.ofBool f.sat) (BitVec.ofBool f.nf) 2 3 (by decide)).trans
    ((bits_append_high (cls ++ op ++ f.ty ++ f.d ++ f.a ++ f.b ++ f.c ++ f.m ++ BitVec.ofBool f.li ++ f.fl ++ BitVec.ofBool f.qa ++ BitVec.ofBool f.qb ++ BitVec.ofBool f.qc ++ BitVec.ofBool f.ib ++ f.rm) (BitVec.ofBool f.sat) 1 3 (by decide)).trans
    ((bits_append_low (cls ++ op ++ f.ty ++ f.d ++ f.a ++ f.b ++ f.c ++ f.m ++ BitVec.ofBool f.li ++ f.fl ++ BitVec.ofBool f.qa ++ BitVec.ofBool f.qb ++ BitVec.ofBool f.qc ++ BitVec.ofBool f.ib) (f.rm) 0 3 (by decide)).trans
    (bits_all f.rm))))
theorem laneWord_sat : (laneWord cls op f).getLsbD 33 = f.sat :=
  (bits_one (laneWord cls op f) 33).trans ((congrArg (fun x => x.getLsbD 0) (show bits (laneWord cls op f) 33 1 = BitVec.ofBool f.sat from
    (bits_append_high (cls ++ op ++ f.ty ++ f.d ++ f.a ++ f.b ++ f.c ++ f.m ++ BitVec.ofBool f.li ++ f.fl ++ BitVec.ofBool f.qa ++ BitVec.ofBool f.qb ++ BitVec.ofBool f.qc ++ BitVec.ofBool f.ib ++ f.rm ++ BitVec.ofBool f.sat ++ BitVec.ofBool f.nf) (f.imm) 33 1 (by decide)).trans
    ((bits_append_high (cls ++ op ++ f.ty ++ f.d ++ f.a ++ f.b ++ f.c ++ f.m ++ BitVec.ofBool f.li ++ f.fl ++ BitVec.ofBool f.qa ++ BitVec.ofBool f.qb ++ BitVec.ofBool f.qc ++ BitVec.ofBool f.ib ++ f.rm ++ BitVec.ofBool f.sat) (BitVec.ofBool f.nf) 1 1 (by decide)).trans
    ((bits_append_low (cls ++ op ++ f.ty ++ f.d ++ f.a ++ f.b ++ f.c ++ f.m ++ BitVec.ofBool f.li ++ f.fl ++ BitVec.ofBool f.qa ++ BitVec.ofBool f.qb ++ BitVec.ofBool f.qc ++ BitVec.ofBool f.ib ++ f.rm) (BitVec.ofBool f.sat) 0 1 (by decide)).trans
    (bits_all (BitVec.ofBool f.sat)))))).trans (ofBool_getLsbD_zero f.sat))
theorem laneWord_nf : (laneWord cls op f).getLsbD 32 = f.nf :=
  (bits_one (laneWord cls op f) 32).trans ((congrArg (fun x => x.getLsbD 0) (show bits (laneWord cls op f) 32 1 = BitVec.ofBool f.nf from
    (bits_append_high (cls ++ op ++ f.ty ++ f.d ++ f.a ++ f.b ++ f.c ++ f.m ++ BitVec.ofBool f.li ++ f.fl ++ BitVec.ofBool f.qa ++ BitVec.ofBool f.qb ++ BitVec.ofBool f.qc ++ BitVec.ofBool f.ib ++ f.rm ++ BitVec.ofBool f.sat ++ BitVec.ofBool f.nf) (f.imm) 32 1 (by decide)).trans
    ((bits_append_low (cls ++ op ++ f.ty ++ f.d ++ f.a ++ f.b ++ f.c ++ f.m ++ BitVec.ofBool f.li ++ f.fl ++ BitVec.ofBool f.qa ++ BitVec.ofBool f.qb ++ BitVec.ofBool f.qc ++ BitVec.ofBool f.ib ++ f.rm ++ BitVec.ofBool f.sat) (BitVec.ofBool f.nf) 0 1 (by decide)).trans
    (bits_all (BitVec.ofBool f.nf))))).trans (ofBool_getLsbD_zero f.nf))
theorem laneWord_imm : bits (laneWord cls op f) 0 32 = f.imm :=
  (bits_append_low (cls ++ op ++ f.ty ++ f.d ++ f.a ++ f.b ++ f.c ++ f.m ++ BitVec.ofBool f.li ++ f.fl ++ BitVec.ofBool f.qa ++ BitVec.ofBool f.qb ++ BitVec.ofBool f.qc ++ BitVec.ofBool f.ib ++ f.rm ++ BitVec.ofBool f.sat ++ BitVec.ofBool f.nf) (f.imm) 0 32 (by decide)).trans
    (bits_all f.imm)

/-- A slot's fields are those that it was made of (R66). -/
theorem laneFields_laneWord : laneFields (laneWord cls op f) = f := by
  unfold laneFields
  rw [laneWord_ty, laneWord_d, laneWord_a, laneWord_b, laneWord_c, laneWord_m, laneWord_li, laneWord_fl, laneWord_qa, laneWord_qb, laneWord_qc, laneWord_ib, laneWord_rm, laneWord_sat, laneWord_nf, laneWord_imm]

end slots

section headers
variable (h : Header)

theorem headerWord_cls : bits (headerWord h) 92 4 = 15#4 :=
  (bits_append_high (15#4 ++ 0#8 ++ h.n ++ h.wt ++ BitVec.ofBool h.sav ++ h.sa ++ BitVec.ofBool h.sbv ++ h.sb) (0#58) 92 4 (by decide)).trans
    ((bits_append_high (15#4 ++ 0#8 ++ h.n ++ h.wt ++ BitVec.ofBool h.sav ++ h.sa ++ BitVec.ofBool h.sbv) (h.sb) 34 4 (by decide)).trans
    ((bits_append_high (15#4 ++ 0#8 ++ h.n ++ h.wt ++ BitVec.ofBool h.sav ++ h.sa) (BitVec.ofBool h.sbv) 30 4 (by decide)).trans
    ((bits_append_high (15#4 ++ 0#8 ++ h.n ++ h.wt ++ BitVec.ofBool h.sav) (h.sa) 29 4 (by decide)).trans
    ((bits_append_high (15#4 ++ 0#8 ++ h.n ++ h.wt) (BitVec.ofBool h.sav) 25 4 (by decide)).trans
    ((bits_append_high (15#4 ++ 0#8 ++ h.n) (h.wt) 24 4 (by decide)).trans
    ((bits_append_high (15#4 ++ 0#8) (h.n) 12 4 (by decide)).trans
    ((bits_append_high (15#4) (0#8) 8 4 (by decide)).trans
    (bits_all 15#4))))))))
theorem headerWord_op : bits (headerWord h) 84 8 = 0#8 :=
  (bits_append_high (15#4 ++ 0#8 ++ h.n ++ h.wt ++ BitVec.ofBool h.sav ++ h.sa ++ BitVec.ofBool h.sbv ++ h.sb) (0#58) 84 8 (by decide)).trans
    ((bits_append_high (15#4 ++ 0#8 ++ h.n ++ h.wt ++ BitVec.ofBool h.sav ++ h.sa ++ BitVec.ofBool h.sbv) (h.sb) 26 8 (by decide)).trans
    ((bits_append_high (15#4 ++ 0#8 ++ h.n ++ h.wt ++ BitVec.ofBool h.sav ++ h.sa) (BitVec.ofBool h.sbv) 22 8 (by decide)).trans
    ((bits_append_high (15#4 ++ 0#8 ++ h.n ++ h.wt ++ BitVec.ofBool h.sav) (h.sa) 21 8 (by decide)).trans
    ((bits_append_high (15#4 ++ 0#8 ++ h.n ++ h.wt) (BitVec.ofBool h.sav) 17 8 (by decide)).trans
    ((bits_append_high (15#4 ++ 0#8 ++ h.n) (h.wt) 16 8 (by decide)).trans
    ((bits_append_high (15#4 ++ 0#8) (h.n) 4 8 (by decide)).trans
    ((bits_append_low (15#4) (0#8) 0 8 (by decide)).trans
    (bits_all 0#8))))))))
theorem headerWord_n : bits (headerWord h) 80 4 = h.n :=
  (bits_append_high (15#4 ++ 0#8 ++ h.n ++ h.wt ++ BitVec.ofBool h.sav ++ h.sa ++ BitVec.ofBool h.sbv ++ h.sb) (0#58) 80 4 (by decide)).trans
    ((bits_append_high (15#4 ++ 0#8 ++ h.n ++ h.wt ++ BitVec.ofBool h.sav ++ h.sa ++ BitVec.ofBool h.sbv) (h.sb) 22 4 (by decide)).trans
    ((bits_append_high (15#4 ++ 0#8 ++ h.n ++ h.wt ++ BitVec.ofBool h.sav ++ h.sa) (BitVec.ofBool h.sbv) 18 4 (by decide)).trans
    ((bits_append_high (15#4 ++ 0#8 ++ h.n ++ h.wt ++ BitVec.ofBool h.sav) (h.sa) 17 4 (by decide)).trans
    ((bits_append_high (15#4 ++ 0#8 ++ h.n ++ h.wt) (BitVec.ofBool h.sav) 13 4 (by decide)).trans
    ((bits_append_high (15#4 ++ 0#8 ++ h.n) (h.wt) 12 4 (by decide)).trans
    ((bits_append_low (15#4 ++ 0#8) (h.n) 0 4 (by decide)).trans
    (bits_all h.n)))))))
theorem headerWord_wt : bits (headerWord h) 68 12 = h.wt :=
  (bits_append_high (15#4 ++ 0#8 ++ h.n ++ h.wt ++ BitVec.ofBool h.sav ++ h.sa ++ BitVec.ofBool h.sbv ++ h.sb) (0#58) 68 12 (by decide)).trans
    ((bits_append_high (15#4 ++ 0#8 ++ h.n ++ h.wt ++ BitVec.ofBool h.sav ++ h.sa ++ BitVec.ofBool h.sbv) (h.sb) 10 12 (by decide)).trans
    ((bits_append_high (15#4 ++ 0#8 ++ h.n ++ h.wt ++ BitVec.ofBool h.sav ++ h.sa) (BitVec.ofBool h.sbv) 6 12 (by decide)).trans
    ((bits_append_high (15#4 ++ 0#8 ++ h.n ++ h.wt ++ BitVec.ofBool h.sav) (h.sa) 5 12 (by decide)).trans
    ((bits_append_high (15#4 ++ 0#8 ++ h.n ++ h.wt) (BitVec.ofBool h.sav) 1 12 (by decide)).trans
    ((bits_append_low (15#4 ++ 0#8 ++ h.n) (h.wt) 0 12 (by decide)).trans
    (bits_all h.wt))))))
theorem headerWord_sav : (headerWord h).getLsbD 67 = h.sav :=
  (bits_one (headerWord h) 67).trans ((congrArg (fun x => x.getLsbD 0) (show bits (headerWord h) 67 1 = BitVec.ofBool h.sav from
    (bits_append_high (15#4 ++ 0#8 ++ h.n ++ h.wt ++ BitVec.ofBool h.sav ++ h.sa ++ BitVec.ofBool h.sbv ++ h.sb) (0#58) 67 1 (by decide)).trans
    ((bits_append_high (15#4 ++ 0#8 ++ h.n ++ h.wt ++ BitVec.ofBool h.sav ++ h.sa ++ BitVec.ofBool h.sbv) (h.sb) 9 1 (by decide)).trans
    ((bits_append_high (15#4 ++ 0#8 ++ h.n ++ h.wt ++ BitVec.ofBool h.sav ++ h.sa) (BitVec.ofBool h.sbv) 5 1 (by decide)).trans
    ((bits_append_high (15#4 ++ 0#8 ++ h.n ++ h.wt ++ BitVec.ofBool h.sav) (h.sa) 4 1 (by decide)).trans
    ((bits_append_low (15#4 ++ 0#8 ++ h.n ++ h.wt) (BitVec.ofBool h.sav) 0 1 (by decide)).trans
    (bits_all (BitVec.ofBool h.sav)))))))).trans (ofBool_getLsbD_zero h.sav))
theorem headerWord_sa : bits (headerWord h) 63 4 = h.sa :=
  (bits_append_high (15#4 ++ 0#8 ++ h.n ++ h.wt ++ BitVec.ofBool h.sav ++ h.sa ++ BitVec.ofBool h.sbv ++ h.sb) (0#58) 63 4 (by decide)).trans
    ((bits_append_high (15#4 ++ 0#8 ++ h.n ++ h.wt ++ BitVec.ofBool h.sav ++ h.sa ++ BitVec.ofBool h.sbv) (h.sb) 5 4 (by decide)).trans
    ((bits_append_high (15#4 ++ 0#8 ++ h.n ++ h.wt ++ BitVec.ofBool h.sav ++ h.sa) (BitVec.ofBool h.sbv) 1 4 (by decide)).trans
    ((bits_append_low (15#4 ++ 0#8 ++ h.n ++ h.wt ++ BitVec.ofBool h.sav) (h.sa) 0 4 (by decide)).trans
    (bits_all h.sa))))
theorem headerWord_sbv : (headerWord h).getLsbD 62 = h.sbv :=
  (bits_one (headerWord h) 62).trans ((congrArg (fun x => x.getLsbD 0) (show bits (headerWord h) 62 1 = BitVec.ofBool h.sbv from
    (bits_append_high (15#4 ++ 0#8 ++ h.n ++ h.wt ++ BitVec.ofBool h.sav ++ h.sa ++ BitVec.ofBool h.sbv ++ h.sb) (0#58) 62 1 (by decide)).trans
    ((bits_append_high (15#4 ++ 0#8 ++ h.n ++ h.wt ++ BitVec.ofBool h.sav ++ h.sa ++ BitVec.ofBool h.sbv) (h.sb) 4 1 (by decide)).trans
    ((bits_append_low (15#4 ++ 0#8 ++ h.n ++ h.wt ++ BitVec.ofBool h.sav ++ h.sa) (BitVec.ofBool h.sbv) 0 1 (by decide)).trans
    (bits_all (BitVec.ofBool h.sbv)))))).trans (ofBool_getLsbD_zero h.sbv))
theorem headerWord_sb : bits (headerWord h) 58 4 = h.sb :=
  (bits_append_high (15#4 ++ 0#8 ++ h.n ++ h.wt ++ BitVec.ofBool h.sav ++ h.sa ++ BitVec.ofBool h.sbv ++ h.sb) (0#58) 58 4 (by decide)).trans
    ((bits_append_low (15#4 ++ 0#8 ++ h.n ++ h.wt ++ BitVec.ofBool h.sav ++ h.sa ++ BitVec.ofBool h.sbv) (h.sb) 0 4 (by decide)).trans
    (bits_all h.sb))
theorem headerWord_rest : bits (headerWord h) 0 58 = 0#58 :=
  (bits_append_low (15#4 ++ 0#8 ++ h.n ++ h.wt ++ BitVec.ofBool h.sav ++ h.sa ++ BitVec.ofBool h.sbv ++ h.sb) (0#58) 0 58 (by decide)).trans
    (bits_all 0#58)

/-- A header's fields are those that it was made of (R74). -/
theorem headerFields_headerWord : headerFields (headerWord h) = h := by
  unfold headerFields
  rw [headerWord_n, headerWord_wt, headerWord_sav, headerWord_sa, headerWord_sbv, headerWord_sb]

end headers

end Sys2Proof
end

