-- ==== Sys2Proof/Laws/Exec.lean ====
section
/-! SUPPORT. The arms of `exec`, one equation each: a proof about an instruction rewrites with its arm and never unfolds
`exec`. -/

namespace Sys2Proof.Machine.Exec

open Sys2Proof

variable (s : State)

theorem hint {code} {arg} : exec (.hint code arg) s = execHint code arg s := rfl
theorem hintFetchLead {arg} : exec (.hintFetchLead arg) s = execHintFetchLead arg s := rfl
theorem hintSpin {arg} : exec (.hintSpin arg) s = execHintSpin arg s := rfl
theorem hintFetchLane {arg} : exec (.hintFetchLane arg) s = execHintFetchLane arg s := rfl
theorem add {w} {d} {a} {b} : exec (.add w d a b) s = execAdd w d a b s := rfl
theorem sub {w} {d} {a} {b} : exec (.sub w d a b) s = execSub w d a b s := rfl
theorem mul {w} {d} {a} {b} : exec (.mul w d a b) s = execMul w d a b s := rfl
theorem mulh {w} {d} {a} {b} : exec (.mulh w d a b) s = execMulh w d a b s := rfl
theorem mulhn {w} {d} {a} {b} : exec (.mulhn w d a b) s = execMulhn w d a b s := rfl
theorem div {w} {d} {a} {b} : exec (.div w d a b) s = execDiv w d a b s := rfl
theorem divn {w} {d} {a} {b} : exec (.divn w d a b) s = execDivn w d a b s := rfl
theorem rem {w} {d} {a} {b} : exec (.rem w d a b) s = execRem w d a b s := rfl
theorem remn {w} {d} {a} {b} : exec (.remn w d a b) s = execRemn w d a b s := rfl
theorem and {w} {d} {a} {b} : exec (.and w d a b) s = execAnd w d a b s := rfl
theorem or {w} {d} {a} {b} : exec (.or w d a b) s = execOr w d a b s := rfl
theorem xor {w} {d} {a} {b} : exec (.xor w d a b) s = execXor w d a b s := rfl
theorem andn {w} {d} {a} {b} : exec (.andn w d a b) s = execAndn w d a b s := rfl
theorem min {w} {d} {a} {b} : exec (.min w d a b) s = execMin w d a b s := rfl
theorem max {w} {d} {a} {b} : exec (.max w d a b) s = execMax w d a b s := rfl
theorem minn {w} {d} {a} {b} : exec (.minn w d a b) s = execMinn w d a b s := rfl
theorem maxn {w} {d} {a} {b} : exec (.maxn w d a b) s = execMaxn w d a b s := rfl
theorem shl {w} {d} {a} {b} : exec (.shl w d a b) s = execShl w d a b s := rfl
theorem shr {w} {d} {a} {b} : exec (.shr w d a b) s = execShr w d a b s := rfl
theorem sar {w} {d} {a} {b} : exec (.sar w d a b) s = execSar w d a b s := rfl
theorem rot {w} {d} {a} {b} : exec (.rot w d a b) s = execRot w d a b s := rfl
theorem clz {w} {d} {a} : exec (.clz w d a) s = execClz w d a s := rfl
theorem ctz {w} {d} {a} : exec (.ctz w d a) s = execCtz w d a s := rfl
theorem popc {w} {d} {a} : exec (.popc w d a) s = execPopc w d a s := rfl
theorem sext {d} {a} {p} : exec (.sext d a p) s = execSext d a p s := rfl
theorem zext {d} {a} {p} : exec (.zext d a p) s = execZext d a p s := rfl
theorem sel {w} {d} {a} {b} : exec (.sel w d a b) s = execSel w d a b s := rfl
theorem cmp {c} {w} {d} {a} {b} : exec (.cmp c w d a b) s = execCmp c w d a b s := rfl
theorem addx {f} {w} {d} {a} {b} : exec (.addx f w d a b) s = execAddx f w d a b s := rfl
theorem bfx {d} {a} {u} {q} : exec (.bfx d a u q) s = execBfx d a u q s := rfl
theorem bfi {d} {a} {u} {q} : exec (.bfi d a u q) s = execBfi d a u q s := rfl
theorem addi {w} {d} {a} {im} : exec (.addi w d a im) s = execAddi w d a im s := rfl
theorem addiLong {d} {a} {im} : exec (.addiLong d a im) s = execAddiLong d a im s := rfl
theorem andi {w} {d} {a} {im} : exec (.andi w d a im) s = execAndi w d a im s := rfl
theorem andiLong {d} {a} {im} : exec (.andiLong d a im) s = execAndiLong d a im s := rfl
theorem ori {w} {d} {a} {im} : exec (.ori w d a im) s = execOri w d a im s := rfl
theorem oriLong {d} {a} {im} : exec (.oriLong d a im) s = execOriLong d a im s := rfl
theorem xori {w} {d} {a} {im} : exec (.xori w d a im) s = execXori w d a im s := rfl
theorem xoriLong {d} {a} {im} : exec (.xoriLong d a im) s = execXoriLong d a im s := rfl
theorem shli {w} {d} {a} {c} : exec (.shli w d a c) s = execShli w d a c s := rfl
theorem shri {w} {d} {a} {c} : exec (.shri w d a c) s = execShri w d a c s := rfl
theorem sari {w} {d} {a} {c} : exec (.sari w d a c) s = execSari w d a c s := rfl
theorem sethi {d} {im} : exec (.sethi d im) s = execSethi d im s := rfl
theorem li {d} {im} : exec (.li d im) s = execLi d im s := rfl
theorem addpc {d} {im} : exec (.addpc d im) s = execAddpc d im s := rfl
theorem addpcLong {d} {im} : exec (.addpcLong d im) s = execAddpcLong d im s := rfl
theorem b {o} : exec (.b o) s = execB o s := rfl
theorem bLong {o} : exec (.bLong o) s = execBLong o s := rfl
theorem bl {o} : exec (.bl o) s = execBl o s := rfl
theorem blLong {o} : exec (.blLong o) s = execBlLong o s := rfl
theorem br {a} : exec (.br a) s = execBr a s := rfl
theorem blr {d} {a} : exec (.blr d a) s = execBlr d a s := rfl
theorem ret {a} : exec (.ret a) s = execRet a s := rfl
theorem beq {a} {b} {o} : exec (.beq a b o) s = execBeq a b o s := rfl
theorem beqLong {a} {b} {o} : exec (.beqLong a b o) s = execBeqLong a b o s := rfl
theorem bne {a} {b} {o} : exec (.bne a b o) s = execBne a b o s := rfl
theorem bneLong {a} {b} {o} : exec (.bneLong a b o) s = execBneLong a b o s := rfl
theorem blt {a} {b} {o} : exec (.blt a b o) s = execBlt a b o s := rfl
theorem bltLong {a} {b} {o} : exec (.bltLong a b o) s = execBltLong a b o s := rfl
theorem bge {a} {b} {o} : exec (.bge a b o) s = execBge a b o s := rfl
theorem bgeLong {a} {b} {o} : exec (.bgeLong a b o) s = execBgeLong a b o s := rfl
theorem bltn {a} {b} {o} : exec (.bltn a b o) s = execBltn a b o s := rfl
theorem bltnLong {a} {b} {o} : exec (.bltnLong a b o) s = execBltnLong a b o s := rfl
theorem bgen {a} {b} {o} : exec (.bgen a b o) s = execBgen a b o s := rfl
theorem bgenLong {a} {b} {o} : exec (.bgenLong a b o) s = execBgenLong a b o s := rfl
theorem bz {a} {o} : exec (.bz a o) s = execBz a o s := rfl
theorem bzLong {a} {o} : exec (.bzLong a o) s = execBzLong a o s := rfl
theorem bnz {a} {o} : exec (.bnz a o) s = execBnz a o s := rfl
theorem bnzLong {a} {o} : exec (.bnzLong a o) s = execBnzLong a o s := rfl
theorem fadd {t} {d} {a} {b} : exec (.fadd t d a b) s = execFadd t d a b s := rfl
theorem fsub {t} {d} {a} {b} : exec (.fsub t d a b) s = execFsub t d a b s := rfl
theorem fmul {t} {d} {a} {b} : exec (.fmul t d a b) s = execFmul t d a b s := rfl
theorem fdiv {t} {d} {a} {b} : exec (.fdiv t d a b) s = execFdiv t d a b s := rfl
theorem fsqrt {t} {d} {a} : exec (.fsqrt t d a) s = execFsqrt t d a s := rfl
theorem fma {t} {d} {a} {b} : exec (.fma t d a b) s = execFma t d a b s := rfl
theorem fmin {t} {d} {a} {b} : exec (.fmin t d a b) s = execFmin t d a b s := rfl
theorem fmax {t} {d} {a} {b} : exec (.fmax t d a b) s = execFmax t d a b s := rfl
theorem fmov {t} {d} {a} : exec (.fmov t d a) s = execFmov t d a s := rfl
theorem fcmpEq {t} {d} {a} {b} : exec (.fcmpEq t d a b) s = execFcmpEq t d a b s := rfl
theorem fcmpLt {t} {d} {a} {b} : exec (.fcmpLt t d a b) s = execFcmpLt t d a b s := rfl
theorem fcmpLe {t} {d} {a} {b} : exec (.fcmpLe t d a b) s = execFcmpLe t d a b s := rfl
theorem fcmpUn {t} {d} {a} {b} : exec (.fcmpUn t d a b) s = execFcmpUn t d a b s := rfl
theorem fcvt {d} {a} {dt} {st} : exec (.fcvt d a dt st) s = execFcvt d a dt st s := rfl
theorem ld {z} {d} {a} {o} : exec (.ld z d a o) s = execLd z d a o s := rfl
theorem ldLong {z} {d} {a} {o} : exec (.ldLong z d a o) s = execLdLong z d a o s := rfl
theorem ldN {z} {d} {a} {o} : exec (.ldN z d a o) s = execLdN z d a o s := rfl
theorem ldNLong {z} {d} {a} {o} : exec (.ldNLong z d a o) s = execLdNLong z d a o s := rfl
theorem st {z} {d} {a} {o} : exec (.st z d a o) s = execSt z d a o s := rfl
theorem stLong {z} {d} {a} {o} : exec (.stLong z d a o) s = execStLong z d a o s := rfl
theorem aadd {w4} {d} {a} {b} : exec (.aadd w4 d a b) s = execAadd w4 d a b s := rfl
theorem asub {w4} {d} {a} {b} : exec (.asub w4 d a b) s = execAsub w4 d a b s := rfl
theorem amin {w4} {d} {a} {b} : exec (.amin w4 d a b) s = execAmin w4 d a b s := rfl
theorem amax {w4} {d} {a} {b} : exec (.amax w4 d a b) s = execAmax w4 d a b s := rfl
theorem aminn {w4} {d} {a} {b} : exec (.aminn w4 d a b) s = execAminn w4 d a b s := rfl
theorem amaxn {w4} {d} {a} {b} : exec (.amaxn w4 d a b) s = execAmaxn w4 d a b s := rfl
theorem aand {w4} {d} {a} {b} : exec (.aand w4 d a b) s = execAand w4 d a b s := rfl
theorem aor {w4} {d} {a} {b} : exec (.aor w4 d a b) s = execAor w4 d a b s := rfl
theorem axor {w4} {d} {a} {b} : exec (.axor w4 d a b) s = execAxor w4 d a b s := rfl
theorem axchg {w4} {d} {a} {b} : exec (.axchg w4 d a b) s = execAxchg w4 d a b s := rfl
theorem afadd {w4} {d} {a} {b} : exec (.afadd w4 d a b) s = execAfadd w4 d a b s := rfl
theorem acas {w4} {d} {a} {b} : exec (.acas w4 d a b) s = execAcas w4 d a b s := rfl
theorem fence {sc} {o} : exec (.fence sc o) s = execFence sc o s := rfl
theorem fenceSys {o} : exec (.fenceSys o) s = execFenceSys o s := rfl
theorem fenceSysWin {n} {o} : exec (.fenceSysWin n o) s = execFenceSysWin n o s := rfl
theorem watch {d} {a} {b} : exec (.watch d a b) s = execWatch d a b s := rfl
theorem watchWake {who} : exec (.watchWake who) s = execWatchWake who s := rfl
theorem lrun {t} : exec (.lrun t) s = execLrun t s := rfl
theorem lwait {g} {m} : exec (.lwait g m) s = execLwait g m s := rfl
theorem xbset {n} {a} {b} : exec (.xbset n a b) s = execXbset n a b s := rfl
theorem xbclr {n} : exec (.xbclr n) s = execXbclr n s := rfl
theorem osdef {n} {a} : exec (.osdef n a) s = execOsdef n a s := rfl
theorem osend {n} : exec (.osend n) s = execOsend n s := rfl
theorem trap {im} : exec (.trap im) s = execTrap im s := rfl
theorem csrrd {d} {c} : exec (.csrrd d c) s = execCsrrd d c s := rfl
theorem csrwr {d} {a} {c} : exec (.csrwr d a c) s = execCsrwr d a c s := rfl
theorem csrset {d} {a} {c} : exec (.csrset d a c) s = execCsrset d a c s := rfl
theorem csrclr {d} {a} {c} : exec (.csrclr d a c) s = execCsrclr d a c s := rfl
theorem haltpCtx {a} : exec (.haltpCtx a) s = execHaltpCtx a s := rfl
theorem haltpPart {a} : exec (.haltpPart a) s = execHaltpPart a s := rfl
theorem preemptSus {a} : exec (.preemptSus a) s = execPreemptSus a s := rfl
theorem preemptRes {a} : exec (.preemptRes a) s = execPreemptRes a s := rfl
theorem injarm {a} {b} : exec (.injarm a b) s = execInjarm a b s := rfl
theorem injarmRep {a} {b} : exec (.injarmRep a b) s = execInjarmRep a b s := rfl
theorem ckptPool {a} {b} : exec (.ckptPool a b) s = execCkptPool a b s := rfl
theorem ckptStat {d} : exec (.ckptStat d) s = execCkptStat d s := rfl
theorem assert {a} {b} : exec (.assert a b) s = execAssert a b s := rfl
theorem tload {d} {a} {x} {z} : exec (.tload d a x z) s = execTload d a x z s := rfl
theorem tloadLease {d} {a} {x} {z} {c} : exec (.tloadLease d a x z c) s = execTloadLease d a x z c s := rfl
theorem tloadTry {d} {a} {x} {z} {c} : exec (.tloadTry d a x z c) s = execTloadTry d a x z c s := rfl
theorem redeem {d} {a} : exec (.redeem d a) s = execRedeem d a s := rfl
theorem redeemQ {d} {a} {sq} : exec (.redeemQ d a sq) s = execRedeemQ d a sq s := rfl
theorem redeeml {d} {a} {x} : exec (.redeeml d a x) s = execRedeeml d a x s := rfl
theorem redeemlLanding {d} {a} : exec (.redeemlLanding d a) s = execRedeemlLanding d a s := rfl
theorem redeemlQ {d} {a} {x} {l} {sq} : exec (.redeemlQ d a x l sq) s = execRedeemlQ d a x l sq s := rfl
theorem tdrop {a} : exec (.tdrop a) s = execTdrop a s := rfl
theorem tdropQ {a} {sq} : exec (.tdropQ a sq) s = execTdropQ a sq s := rfl
theorem tstat {d} {a} : exec (.tstat d a) s = execTstat d a s := rfl
theorem tlease {d} {a} {b} : exec (.tlease d a b) s = execTlease d a b s := rfl
theorem tleaseQ {d} {a} {b} {sq} : exec (.tleaseQ d a b sq) s = execTleaseQ d a b sq s := rfl
theorem txbeg {d} : exec (.txbeg d) s = execTxbeg d s := rfl
theorem txabt {a} : exec (.txabt a) s = execTxabt a s := rfl
theorem txstat {d} {sel} : exec (.txstat d sel) s = execTxstat d sel s := rfl
theorem cpyt {d} {a} {b} : exec (.cpyt d a b) s = execCpyt d a b s := rfl
theorem cpytExt {d} {a} {b} {v} {x} {mz} {st} : exec (.cpytExt d a b v x mz st) s = execCpytExt d a b v x mz st s := rfl
theorem cpyl {d} {a} {b} : exec (.cpyl d a b) s = execCpyl d a b s := rfl
theorem cpylExt {d} {a} {b} {v} {x} {dk} {sk} : exec (.cpylExt d a b v x dk sk) s = execCpylExt d a b v x dk sk s := rfl
theorem cpylRaw {d} {a} {b} {v} {x} : exec (.cpylRaw d a b v x) s = execCpylRaw d a b v x s := rfl
theorem cpyf {d} {a} {b} : exec (.cpyf d a b) s = execCpyf d a b s := rfl
theorem cpyfExt {d} {a} {b} {v} {x} {dk} : exec (.cpyfExt d a b v x dk) s = execCpyfExt d a b v x dk s := rfl
theorem cpyg {d} {a} {b} : exec (.cpyg d a b) s = execCpyg d a b s := rfl
theorem cpygExt {d} {a} {b} {v} {x} {mz} {st} : exec (.cpygExt d a b v x mz st) s = execCpygExt d a b v x mz st s := rfl
theorem bseal {d} : exec (.bseal d) s = execBseal d s := rfl
theorem bwait {a} : exec (.bwait a) s = execBwait a s := rfl
theorem bwaitn {a} : exec (.bwaitn a) s = execBwaitn a s := rfl
theorem bstat {d} : exec (.bstat d) s = execBstat d s := rfl
theorem ksummOff {a} {v} {x} : exec (.ksummOff a v x) s = execKsummOff a v x s := rfl
theorem ksummBf16 {a} {v} {x} : exec (.ksummBf16 a v x) s = execKsummBf16 a v x s := rfl
theorem ksummE4m3 {a} {v} {x} : exec (.ksummE4m3 a v x) s = execKsummE4m3 a v x s := rfl
theorem ksummE5m2 {a} {v} {x} : exec (.ksummE5m2 a v x) s = execKsummE5m2 a v x s := rfl
theorem ksummRebuild {a} {v} {x} : exec (.ksummRebuild a v x) s = execKsummRebuild a v x s := rfl
theorem ksummRead {d} {a} {v} {x} : exec (.ksummRead d a v x) s = execKsummRead d a v x s := rfl
theorem kbound {a} {v} {x} : exec (.kbound a v x) s = execKbound a v x s := rfl
theorem kfetch {d} {a} {b} {v} {x} : exec (.kfetch d a b v x) s = execKfetch d a b v x s := rfl
theorem klist {d} {a} {b} {v} {x} : exec (.klist d a b v x) s = execKlist d a b v x s := rfl
theorem mloop {a} {b} : exec (.mloop a b) s = execMloop a b s := rfl
theorem osub {n} {p} {k} {w} : exec (.osub n p k w) s = execOsub n p k w s := rfl
theorem accz {a} : exec (.accz a) s = execAccz a s := rfl
theorem accld {t} {a} {b} : exec (.accld t a b) s = execAccld t a b s := rfl
theorem accldTyped {t} {a} {b} {y} {rm} {sat} : exec (.accldTyped t a b y rm sat) s = execAccldTyped t a b y rm sat s := rfl
theorem accst {t} {a} {b} : exec (.accst t a b) s = execAccst t a b s := rfl
theorem accstTyped {t} {a} {b} {y} {rm} {sat} : exec (.accstTyped t a b y rm sat) s = execAccstTyped t a b y rm sat s := rfl
theorem accver {d} {t} : exec (.accver d t) s = execAccver d t s := rfl
theorem accverWait {a} {t} : exec (.accverWait a t) s = execAccverWait a t s := rfl
theorem accverSet {a} {t} : exec (.accverSet a t) s = execAccverSet a t s := rfl
theorem launch {d} {a} : exec (.launch d a) s = execLaunch d a s := rfl
theorem launchTry {d} {a} : exec (.launchTry d a) s = execLaunchTry d a s := rfl
theorem lwaitg {d} {a} : exec (.lwaitg d a) s = execLwaitg d a s := rfl
theorem gstat {d} {a} : exec (.gstat d a) s = execGstat d a s := rfl
theorem vgrow {d} {a} : exec (.vgrow d a) s = execVgrow d a s := rfl
theorem vshrink {d} {a} : exec (.vshrink d a) s = execVshrink d a s := rfl
theorem gexit {a} {b} : exec (.gexit a b) s = execGexit a b s := rfl
theorem flagRelease {who} {k} : exec (.flagRelease who k) s = execFlagRelease who k s := rfl
theorem issuePromotion {who} {lane} : exec (.issuePromotion who lane) s = execIssuePromotion who lane s := rfl
theorem streamElementRead {gal} {os} : exec (.streamElementRead gal os) s = execStreamElementRead gal os s := rfl
theorem distributorElementRead {gal} {os} : exec (.distributorElementRead gal os) s = execDistributorElementRead gal os s := rfl
theorem ticketDataArrival {e} : exec (.ticketDataArrival e) s = execTicketDataArrival e s := rfl
theorem redemptionDelivery {e} : exec (.redemptionDelivery e) s = execRedemptionDelivery e s := rfl
theorem leaseExpiry {e} : exec (.leaseExpiry e) s = execLeaseExpiry e s := rfl
theorem cloakroomReconfigure {die} {slice} : exec (.cloakroomReconfigure die slice) s = execCloakroomReconfigure die slice s := rfl
theorem porterOperationStart {porter} : exec (.porterOperationStart porter) s = execPorterOperationStart porter s := rfl
theorem copyComplete {op} : exec (.copyComplete op) s = execCopyComplete op s := rfl
theorem usherBound {op} {k} : exec (.usherBound op k) s = execUsherBound op k s := rfl
theorem gatherListMerge {op} : exec (.gatherListMerge op) s = execGatherListMerge op s := rfl
theorem ksummBuildComplete {op} : exec (.ksummBuildComplete op) s = execKsummBuildComplete op s := rfl
theorem memoryWriteArrival {k} : exec (.memoryWriteArrival k) s = execMemoryWriteArrival k s := rfl
theorem matrixOperationStart {core} {k} : exec (.matrixOperationStart core k) s = execMatrixOperationStart core k s := rfl
theorem mloopKStep {core} : exec (.mloopKStep core) s = execMloopKStep core s := rfl
theorem matrixOperationComplete {core} {k} : exec (.matrixOperationComplete core k) s = execMatrixOperationComplete core k s := rfl
theorem gridReady {h} : exec (.gridReady h) s = execGridReady h s := rfl
theorem squadPlacement {part} : exec (.squadPlacement part) s = execSquadPlacement part s := rfl
theorem placementReservation {part} {queue} : exec (.placementReservation part queue) s = execPlacementReservation part queue s := rfl
theorem producerPreemption {h} : exec (.producerPreemption h) s = execProducerPreemption h s := rfl
theorem vgrowGrant {core} : exec (.vgrowGrant core) s = execVgrowGrant core s := rfl
theorem vgrowDeadlockBreak {core} : exec (.vgrowDeadlockBreak core) s = execVgrowDeadlockBreak core s := rfl
theorem gridComplete {h} : exec (.gridComplete h) s = execGridComplete h s := rfl
theorem engineStop {part} {engine} : exec (.engineStop part engine) s = execEngineStop part engine s := rfl
theorem skidOverrun {part} : exec (.skidOverrun part) s = execSkidOverrun part s := rfl
theorem haltCollected {part} : exec (.haltCollected part) s = execHaltCollected part s := rfl
theorem preemptionComplete {squad} : exec (.preemptionComplete squad) s = execPreemptionComplete squad s := rfl
theorem txEarlyValidation {who} {lane} : exec (.txEarlyValidation who lane) s = execTxEarlyValidation who lane s := rfl
theorem msixMessage {port} {vec} : exec (.msixMessage port vec) s = execMsixMessage port vec s := rfl
theorem peerWrite {port} {off} {data} : exec (.peerWrite port off data) s = execPeerWrite port off data s := rfl
theorem peerRead {port} {off} {len} : exec (.peerRead port off len) s = execPeerRead port off len s := rfl
theorem bar4Access {port} {pa} {wr} {data} : exec (.bar4Access port pa wr data) s = execBar4Access port pa wr data s := rfl
theorem remoteAccessTimeout {who} : exec (.remoteAccessTimeout who) s = execRemoteAccessTimeout who s := rfl
theorem controllerBatchForm {c} : exec (.controllerBatchForm c) s = execControllerBatchForm c s := rfl
theorem scrubVisit {line} : exec (.scrubVisit line) s = execScrubVisit line s := rfl
theorem hotnessIntervalEnd {c} : exec (.hotnessIntervalEnd c) s = execHotnessIntervalEnd c s := rfl
theorem refreshHeartbeat {stack} : exec (.refreshHeartbeat stack) s = execRefreshHeartbeat stack s := rfl
theorem refreshTakeover {stack} : exec (.refreshTakeover stack) s = execRefreshTakeover stack s := rfl
theorem escapeRecovery {router} : exec (.escapeRecovery router) s = execEscapeRecovery router s := rfl
theorem injectorAct {link} {dir} : exec (.injectorAct link dir) s = execInjectorAct link dir s := rfl
theorem supplySag {hall} : exec (.supplySag hall) s = execSupplySag hall s := rfl
theorem supplyRecover {hall} {ns} : exec (.supplyRecover hall ns) s = execSupplyRecover hall ns s := rfl
theorem partitionReset {part} : exec (.partitionReset part) s = execPartitionReset part s := rfl
theorem hostCoreRestart {n} : exec (.hostCoreRestart n) s = execHostCoreRestart n s := rfl
theorem routingTableWrite {dest} {links} : exec (.routingTableWrite dest links) s = execRoutingTableWrite dest links s := rfl
theorem tlbInvalidatePage {va} {k} : exec (.tlbInvalidatePage va k) s = execTlbInvalidatePage va k s := rfl
theorem ctxctlCreate {n} : exec (.ctxctlCreate n) s = execCtxctlCreate n s := rfl
theorem curctxWrite {n} : exec (.curctxWrite n) s = execCurctxWrite n s := rfl
theorem clkcfgWrite {v} : exec (.clkcfgWrite v) s = execClkcfgWrite v s := rfl
theorem lswzWrite {v} : exec (.lswzWrite v) s = execLswzWrite v s := rfl
theorem keyInstall {slot} {dword} : exec (.keyInstall slot dword) s = execKeyInstall slot dword s := rfl
theorem windowRegisterWrite {n} {ctl} {v} : exec (.windowRegisterWrite n ctl v) s = execWindowRegisterWrite n ctl v s := rfl
theorem counterClear {off} : exec (.counterClear off) s = execCounterClear off s := rfl
theorem noticeClear {v} : exec (.noticeClear v) s = execNoticeClear v s := rfl
theorem registerWrite {c} {v} : exec (.registerWrite c v) s = execRegisterWrite c v s := rfl
theorem linkFlitError {link} {corrected} : exec (.linkFlitError link corrected) s = execLinkFlitError link corrected s := rfl
theorem memoryError {addr} {correctable} : exec (.memoryError addr correctable) s = execMemoryError addr correctable s := rfl
theorem escapeChannelEmpty {router} : exec (.escapeChannelEmpty router) s = execEscapeChannelEmpty router s := rfl
theorem outboundWriteAccept {who} {answer} : exec (.outboundWriteAccept who answer) s = execOutboundWriteAccept who answer s := rfl
theorem nop : exec (.nop) s = execNop s := rfl
theorem rfe : exec (.rfe) s = execRfe s := rfl
theorem ckptRb : exec (.ckptRb) s = execCkptRb s := rfl
theorem txend : exec (.txend) s = execTxend s := rfl
theorem texit : exec (.texit) s = execTexit s := rfl
theorem clause : exec (.clause) s = execClause s := rfl
theorem runStart : exec (.runStart) s = execRunStart s := rfl
theorem vadd : exec (.vadd) s = execVadd s := rfl
theorem vsub : exec (.vsub) s = execVsub s := rfl
theorem vmul : exec (.vmul) s = execVmul s := rfl
theorem vmulh : exec (.vmulh) s = execVmulh s := rfl
theorem vmad : exec (.vmad) s = execVmad s := rfl
theorem vmin : exec (.vmin) s = execVmin s := rfl
theorem vmax : exec (.vmax) s = execVmax s := rfl
theorem vabs : exec (.vabs) s = execVabs s := rfl
theorem vand : exec (.vand) s = execVand s := rfl
theorem vor : exec (.vor) s = execVor s := rfl
theorem vxor : exec (.vxor) s = execVxor s := rfl
theorem vnot : exec (.vnot) s = execVnot s := rfl
theorem vshl : exec (.vshl) s = execVshl s := rfl
theorem vshr : exec (.vshr) s = execVshr s := rfl
theorem vsar : exec (.vsar) s = execVsar s := rfl
theorem vclz : exec (.vclz) s = execVclz s := rfl
theorem vpopc : exec (.vpopc) s = execVpopc s := rfl
theorem vbfx : exec (.vbfx) s = execVbfx s := rfl
theorem vsel : exec (.vsel) s = execVsel s := rfl
theorem vcmp : exec (.vcmp) s = execVcmp s := rfl
theorem vmov : exec (.vmov) s = execVmov s := rfl
theorem vmovi : exec (.vmovi) s = execVmovi s := rfl
theorem vfadd : exec (.vfadd) s = execVfadd s := rfl
theorem vfsub : exec (.vfsub) s = execVfsub s := rfl
theorem vfmul : exec (.vfmul) s = execVfmul s := rfl
theorem vffma : exec (.vffma) s = execVffma s := rfl
theorem vfmin : exec (.vfmin) s = execVfmin s := rfl
theorem vfmax : exec (.vfmax) s = execVfmax s := rfl
theorem vfcmp : exec (.vfcmp) s = execVfcmp s := rfl
theorem vfrcp : exec (.vfrcp) s = execVfrcp s := rfl
theorem vfrsq : exec (.vfrsq) s = execVfrsq s := rfl
theorem vfsqrt : exec (.vfsqrt) s = execVfsqrt s := rfl
theorem vfdiv : exec (.vfdiv) s = execVfdiv s := rfl
theorem vfexp2 : exec (.vfexp2) s = execVfexp2 s := rfl
theorem vflog2 : exec (.vflog2) s = execVflog2 s := rfl
theorem vfsin : exec (.vfsin) s = execVfsin s := rfl
theorem vfcos : exec (.vfcos) s = execVfcos s := rfl
theorem vfcvt : exec (.vfcvt) s = execVfcvt s := rfl
theorem vfrnd : exec (.vfrnd) s = execVfrnd s := rfl
theorem vfscale : exec (.vfscale) s = execVfscale s := rfl
theorem vfcma : exec (.vfcma) s = execVfcma s := rfl
theorem vshfl : exec (.vshfl) s = execVshfl s := rfl
theorem vbcast : exec (.vbcast) s = execVbcast s := rfl
theorem vred : exec (.vred) s = execVred s := rfl
theorem vscan : exec (.vscan) s = execVscan s := rfl
theorem vballot : exec (.vballot) s = execVballot s := rfl
theorem vpack : exec (.vpack) s = execVpack s := rfl
theorem vunpk : exec (.vunpk) s = execVunpk s := rfl
theorem cend : exec (.cend) s = execCend s := rfl
theorem brl : exec (.brl) s = execBrl s := rfl
theorem mark : exec (.mark) s = execMark s := rfl
theorem join : exec (.join) s = execJoin s := rfl
theorem mset : exec (.mset) s = execMset s := rfl
theorem mand : exec (.mand) s = execMand s := rfl
theorem mor : exec (.mor) s = execMor s := rfl
theorem mnot : exec (.mnot) s = execMnot s := rfl
theorem mcnt : exec (.mcnt) s = execMcnt s := rfl
theorem tbar : exec (.tbar) s = execTbar s := rfl
theorem tbarCk : exec (.tbarCk) s = execTbarCk s := rfl
theorem sbar : exec (.sbar) s = execSbar s := rfl
theorem yield : exec (.yield) s = execYield s := rfl
theorem vld : exec (.vld) s = execVld s := rfl
theorem vst : exec (.vst) s = execVst s := rfl
theorem vgath : exec (.vgath) s = execVgath s := rfl
theorem vscat : exec (.vscat) s = execVscat s := rfl
theorem vldl : exec (.vldl) s = execVldl s := rfl
theorem vstl : exec (.vstl) s = execVstl s := rfl
theorem vldm : exec (.vldm) s = execVldm s := rfl
theorem vstm : exec (.vstm) s = execVstm s := rfl
theorem xst : exec (.xst) s = execXst s := rfl
theorem vlda : exec (.vlda) s = execVlda s := rfl
theorem vsta : exec (.vsta) s = execVsta s := rfl
theorem lkld : exec (.lkld) s = execLkld s := rfl
theorem lkst : exec (.lkst) s = execLkst s := rfl
theorem prf : exec (.prf) s = execPrf s := rfl
theorem vaadd : exec (.vaadd) s = execVaadd s := rfl
theorem vasub : exec (.vasub) s = execVasub s := rfl
theorem vamin : exec (.vamin) s = execVamin s := rfl
theorem vamax : exec (.vamax) s = execVamax s := rfl
theorem vaminn : exec (.vaminn) s = execVaminn s := rfl
theorem vamaxn : exec (.vamaxn) s = execVamaxn s := rfl
theorem vaand : exec (.vaand) s = execVaand s := rfl
theorem vaor : exec (.vaor) s = execVaor s := rfl
theorem vaxor : exec (.vaxor) s = execVaxor s := rfl
theorem vaxchg : exec (.vaxchg) s = execVaxchg s := rfl
theorem vacas : exec (.vacas) s = execVacas s := rfl
theorem vafadd : exec (.vafadd) s = execVafadd s := rfl
theorem laneFence : exec (.laneFence) s = execLaneFence s := rfl
theorem tloadv : exec (.tloadv) s = execTloadv s := rfl
theorem laneRedeem : exec (.laneRedeem) s = execLaneRedeem s := rfl
theorem laneRedeemL : exec (.laneRedeemL) s = execLaneRedeemL s := rfl
theorem laneTxbeg : exec (.laneTxbeg) s = execLaneTxbeg s := rfl
theorem laneTxend : exec (.laneTxend) s = execLaneTxend s := rfl
theorem laneTxabt : exec (.laneTxabt) s = execLaneTxabt s := rfl
theorem laneTxstat : exec (.laneTxstat) s = execLaneTxstat s := rfl
theorem laneCpyt : exec (.laneCpyt) s = execLaneCpyt s := rfl
theorem laneCpyl : exec (.laneCpyl) s = execLaneCpyl s := rfl
theorem laneCpyf : exec (.laneCpyf) s = execLaneCpyf s := rfl
theorem laneCpyg : exec (.laneCpyg) s = execLaneCpyg s := rfl
theorem mma : exec (.mma) s = execMma s := rfl
theorem accrd : exec (.accrd) s = execAccrd s := rfl
theorem accwr : exec (.accwr) s = execAccwr s := rfl
theorem vconf : exec (.vconf) s = execVconf s := rfl
theorem vcomb : exec (.vcomb) s = execVcomb s := rfl
theorem visect : exec (.visect) s = execVisect s := rfl
theorem vmerge : exec (.vmerge) s = execVmerge s := rfl
theorem vcompr : exec (.vcompr) s = execVcompr s := rfl
theorem vexpd : exec (.vexpd) s = execVexpd s := rfl
theorem idxld : exec (.idxld) s = execIdxld s := rfl
theorem laneAssert : exec (.laneAssert) s = execLaneAssert s := rfl
theorem vcsrrd : exec (.vcsrrd) s = execVcsrrd s := rfl
theorem fallbackLockGrant : exec (.fallbackLockGrant) s = execFallbackLockGrant s := rfl
theorem fallbackLockRevoke : exec (.fallbackLockRevoke) s = execFallbackLockRevoke s := rfl
theorem packageReset : exec (.packageReset) s = execPackageReset s := rfl
theorem tlbInvalidateAll : exec (.tlbInvalidateAll) s = execTlbInvalidateAll s := rfl
theorem tlbInvalidateContext : exec (.tlbInvalidateContext) s = execTlbInvalidateContext s := rfl
theorem unusedOpcode : exec (.unusedOpcode) s = execUnusedOpcode s := rfl
theorem leadFetch : exec (.leadFetch) s = execLeadFetch s := rfl

end Sys2Proof.Machine.Exec
end

