-- ==== Sys2Proof/Laws/Op.lean ====
section
/-! SUPPORT. How an operation runs: one lemma per building block of a meaning, so that a proof about a meaning rewrites
and never unfolds the monad; what a lead instruction, a lane instruction and an event answer. -/

namespace Sys2Proof.Machine

open Sys2Proof

/-! ## Building blocks -/

@[simp] theorem except_pure {α : Type} (x : α) : (pure x : Except Stop α) = .ok x := rfl

@[simp] theorem except_bind_ok {α β : Type} (x : α) (f : α → Except Stop β) : (Except.ok x >>= f) = f x := rfl

@[simp] theorem except_bind_error {α β : Type} (e : Stop) (f : α → Except Stop β) : (Except.error e >>= f) = .error e := rfl

@[simp] theorem except_map_ok {α β : Type} (f : α → β) (x : α) : (f <$> (Except.ok x : Except Stop α)) = .ok (f x) := rfl

@[simp] theorem run_pure {α : Type} (x : α) (s : State) : (pure x : Op α).run s = .ok (x, s) := rfl

@[simp] theorem run_bind {α β : Type} (m : Op α) (f : α → Op β) (s : State) :
    (m >>= f).run s = match m.run s with | .ok (x, t) => (f x).run t | .error e => .error e := by
  simp only [StateT.run_bind]
  rcases m.run s with e | ⟨x, t⟩ <;> rfl

@[simp] theorem run_map {α β : Type} (f : α → β) (m : Op α) (s : State) :
    (f <$> m).run s = match m.run s with | .ok (x, t) => .ok (f x, t) | .error e => .error e := by
  simp only [StateT.run_map]
  rcases m.run s with e | ⟨x, t⟩ <;> rfl

@[simp] theorem run_get (s : State) : (get : Op State).run s = .ok (s, s) := rfl

@[simp] theorem run_set (t s : State) : (set t : Op PUnit).run s = .ok (⟨⟩, t) := rfl

@[simp] theorem run_modify (f : State → State) (s : State) : (modify f : Op PUnit).run s = .ok (⟨⟩, f s) := rfl

@[simp] theorem run_throw {α : Type} (e : Stop) (s : State) : (throw e : Op α).run s = .error e := rfl

@[simp] theorem run_stopTrap {α : Type} (c : Nat) (a : Word) (s : State) :
    (stopTrap c a : Op α).run s = .error (.trap c a) := rfl

@[simp] theorem run_ite {α : Type} (p : Prop) [Decidable p] (m n : Op α) (s : State) :
    (if p then m else n).run s = if p then m.run s else n.run s := by split <;> rfl

/-- `need` lets a condition that holds pass. -/
@[simp] theorem run_need_true (c : Nat) (a : Word) (s : State) : (need true c a).run s = .ok ((), s) := rfl

/-- `need` traps where the condition fails. -/
@[simp] theorem run_need_false (c : Nat) (a : Word) (s : State) : (need false c a).run s = .error (.trap c a) := rfl

@[simp] theorem run_readyIf_true (s : State) : (readyIf true).run s = .ok ((), s) := rfl

@[simp] theorem run_readyIf_false (s : State) : (readyIf false).run s = .error .wait := rfl

@[simp] theorem run_getMe (s : State) : getMe.run s = .ok (s.me, s) := rfl

@[simp] theorem run_onMe (f : Runner → Runner) (s : State) : (onMe f).run s = .ok ((), { s with me := f s.me }) := rfl

@[simp] theorem run_onLanes (f : Lanes → Lanes) (s : State) : (onLanes f).run s = .ok ((), onLane f s) := rfl

@[simp] theorem run_reg (a : Reg) (s : State) : (reg a).run s = .ok (s.me.sreg a, s) := rfl

@[simp] theorem run_setReg (d : Reg) (x : Word) (s : State) :
    (setReg d x).run s = .ok ((), { s with me := { s.me with s := sregSet s.me.s d x } }) := rfl

@[simp] theorem run_getXb (n : BitVec 3) (s : State) : (getXb n).run s = .ok (vget s.me.xb n.toNat, s) := rfl

@[simp] theorem run_ordOf (s : State) : ordOf.run s = .ok ((match s.issue.ord with
    | some o => ((bits o 3 3).toNat, (bits o 0 3).toNat)
    | none => (7, 0)), s) := by
  simp only [ordOf, run_bind, run_get]
  cases s.issue.ord <;> rfl

@[simp] theorem run_needSup (s : State) :
    needSup.run s = if s.me.sup then .ok ((), s) else .error (.trap 0x05 s.issue.pc) := by
  simp only [needSup, run_bind, run_get, need]
  split <;> simp_all

@[simp] theorem run_needGroup (s : State) :
    needGroup.run s = if s.me.isHost then .error (.trap 0x01 s.issue.pc) else .ok ((), s) := by
  simp only [needGroup, run_bind, run_get, need]
  cases s.me.isHost <;> simp

@[simp] theorem run_notInTx (s : State) :
    notInTx.run s = if s.me.tx.active then .error (.abort 0x52 0) else .ok ((), s) := by
  simp only [notInTx, run_bind, run_get]
  split <;> rfl

@[simp] theorem run_needCtx (s : State) :
    needCtx.run s = if s.me.ctx = 0 then .error (.trap 0x05 s.issue.pc) else .ok ((), s) := by
  simp only [needCtx, run_bind, run_get, need]
  by_cases h : s.me.ctx = 0 <;> simp [h]

@[simp] theorem run_needField (c : Bool) (s : State) :
    (needField c).run s = if c then .ok ((), s) else .error (.trap 0x02 s.issue.pc) := by
  simp only [needField, run_bind, run_get, need]
  split <;> rfl

/-! ## What the three kinds of step answer -/

/-- A lead instruction whose operation succeeds. -/
theorem runLead_ok {m : Op Unit} {s t : State} {u : Unit} (h : m.run (onward s) = .ok (u, t)) : runLead m s = .next t := by
  unfold onward at h
  simp [runLead, h]

/-- A lead instruction whose operation stops. -/
theorem runLead_error {m : Op Unit} {s : State} {e : Stop} (h : m.run (onward s) = .error e) :
    runLead m s = .next (stopLead e s) := by
  unfold onward at h
  simp [runLead, h]

/-- A lead instruction always answers a next state. -/
theorem runLead_next (m : Op Unit) (s : State) : ∃ t, runLead m s = .next t := by
  unfold runLead
  split <;> exact ⟨_, rfl⟩

/-- An event whose operation succeeds. -/
theorem runEvent_ok {m : Op Unit} {s t : State} {u : Unit} (h : m.run s = .ok (u, t)) : runEvent m s = .next t := by
  simp [runEvent, h]

/-- An event always answers a next state. -/
theorem runEvent_next (m : Op Unit) (s : State) : ∃ t, runEvent m s = .next t := by
  unfold runEvent
  split <;> exact ⟨_, rfl⟩

/-- A lane instruction that issues runs its effect in the state with its queues popped and its clause moved on. -/
theorem runLane_ready {rule : LaneF → LRule} {s : State} (h : LaneReady rule s) (m : LaneCtx → Op Unit) :
    runLane rule m s = match (m (laneIn rule s)).run (laneOn rule s) with
      | .ok (_, t) => .next t
      | .error e => .next (stopLane (laneCtx s) (laneNeeds rule s) e s) := by
  have hf : (laneCtx s).f = s.issue.slot := by
    unfold laneCtx
    dsimp only
    split <;> rfl
  obtain ⟨h1, h2, h3, h4, h9, h5, h6, h7, h8⟩ := h
  unfold laneNeeds at h3 h4 h8
  unfold runLane laneIn laneOn laneNeeds
  dsimp only
  rw [hf, if_neg h1, if_neg (by simpa using h2)]
  rw [if_neg (by rcases h3 with h | h <;> simp [h])]
  rw [if_neg (by rcases h4 with ⟨h, h'⟩ | h <;> simp [*])]
  rw [if_neg (by omega), if_neg (by rcases h9 with h | h | h <;> simp [h]), if_neg (by simp [h6]), if_neg (by simp [h7]), h8] <;> rfl

/-- A lane instruction that issues and whose effect succeeds. -/
theorem runLane_ok {rule : LaneF → LRule} {s t : State} {u : Unit} {m : LaneCtx → Op Unit} (h : LaneReady rule s)
    (hm : (m (laneIn rule s)).run (laneOn rule s) = .ok (u, t)) : runLane rule m s = .next t := by
  rw [runLane_ready h, hm]

/-- A lane instruction always answers a next state. -/
theorem runLane_next (rule : LaneF → LRule) (m : LaneCtx → Op Unit) (s : State) : ∃ t, runLane rule m s = .next t := by
  unfold runLane
  dsimp only
  split; · exact ⟨_, rfl⟩
  split; · exact ⟨_, rfl⟩
  split; · exact ⟨_, rfl⟩
  split; · exact ⟨_, rfl⟩
  split; · exact ⟨_, rfl⟩
  split; · exact ⟨_, rfl⟩
  split; · exact ⟨_, rfl⟩
  split; · exact ⟨_, rfl⟩
  split
  · exact ⟨_, rfl⟩
  · split <;> exact ⟨_, rfl⟩

end Sys2Proof.Machine
end

