-- ==== Sys2Proof/Laws/State.lean ====
section
/-! SUPPORT. What each named update of a state, a runner and its lanes leaves in each field, so that no proof unfolds a
record update. -/

namespace Sys2Proof.Machine

open Sys2Proof

/-! ## Updates of states -/

@[simp] theorem onward_me (s : State) :
    (onward s).me = { s.me with pc := s.issue.next } := rfl
@[simp] theorem onward_others (s : State) :
    (onward s).others = s.others := rfl
@[simp] theorem onward_agenda (s : State) :
    (onward s).agenda = s.agenda := rfl
@[simp] theorem onward_lane (s : State) :
    (onward s).lane = s.lane := rfl
@[simp] theorem onward_issue (s : State) :
    (onward s).issue = s.issue := rfl
@[simp] theorem onward_mem (s : State) :
    (onward s).mem = s.mem := rfl
@[simp] theorem onward_pend (s : State) :
    (onward s).pend = s.pend := rfl
@[simp] theorem onward_tags (s : State) :
    (onward s).tags = s.tags := rfl
@[simp] theorem onward_lineMeta (s : State) :
    (onward s).lineMeta = s.lineMeta := rfl
@[simp] theorem onward_poison (s : State) :
    (onward s).poison = s.poison := rfl
@[simp] theorem onward_latent (s : State) :
    (onward s).latent = s.latent := rfl
@[simp] theorem onward_history (s : State) :
    (onward s).history = s.history := rfl
@[simp] theorem onward_tlb (s : State) :
    (onward s).tlb = s.tlb := rfl
@[simp] theorem onward_ctxs (s : State) :
    (onward s).ctxs = s.ctxs := rfl
@[simp] theorem onward_parts (s : State) :
    (onward s).parts = s.parts := rfl
@[simp] theorem onward_grids (s : State) :
    (onward s).grids = s.grids := rfl
@[simp] theorem onward_squads (s : State) :
    (onward s).squads = s.squads := rfl
@[simp] theorem onward_teams (s : State) :
    (onward s).teams = s.teams := rfl
@[simp] theorem onward_saved (s : State) :
    (onward s).saved = s.saved := rfl
@[simp] theorem onward_cksaves (s : State) :
    (onward s).cksaves = s.cksaves := rfl
@[simp] theorem onward_lranges (s : State) :
    (onward s).lranges = s.lranges := rfl
@[simp] theorem onward_streams (s : State) :
    (onward s).streams = s.streams := rfl
@[simp] theorem onward_subs (s : State) :
    (onward s).subs = s.subs := rfl
@[simp] theorem onward_mops (s : State) :
    (onward s).mops = s.mops := rfl
@[simp] theorem onward_cloaks (s : State) :
    (onward s).cloaks = s.cloaks := rfl
@[simp] theorem onward_clkcfg (s : State) :
    (onward s).clkcfg = s.clkcfg := rfl
@[simp] theorem onward_ops (s : State) :
    (onward s).ops = s.ops := rfl
@[simp] theorem onward_pages (s : State) :
    (onward s).pages = s.pages := rfl
@[simp] theorem onward_wicket (s : State) :
    (onward s).wicket = s.wicket := rfl
@[simp] theorem onward_dev (s : State) :
    (onward s).dev = s.dev := rfl
@[simp] theorem onward_outb (s : State) :
    (onward s).outb = s.outb := rfl
@[simp] theorem onward_landed (s : State) :
    (onward s).landed = s.landed := rfl
@[simp] theorem onward_routing (s : State) :
    (onward s).routing = s.routing := rfl
@[simp] theorem onward_silent (s : State) :
    (onward s).silent = s.silent := rfl
@[simp] theorem onward_injectors (s : State) :
    (onward s).injectors = s.injectors := rfl
@[simp] theorem onward_refresh (s : State) :
    (onward s).refresh = s.refresh := rfl
@[simp] theorem onward_stretched (s : State) :
    (onward s).stretched = s.stretched := rfl
@[simp] theorem onward_escapes (s : State) :
    (onward s).escapes = s.escapes := rfl
@[simp] theorem onward_msix (s : State) :
    (onward s).msix = s.msix := rfl
@[simp] theorem onward_endpoint (s : State) :
    (onward s).endpoint = s.endpoint := rfl
@[simp] theorem onward_clocks (s : State) :
    (onward s).clocks = s.clocks := rfl
@[simp] theorem onward_pkg (s : State) :
    (onward s).pkg = s.pkg := rfl
@[simp] theorem onward_pkgs (s : State) :
    (onward s).pkgs = s.pkgs := rfl
@[simp] theorem onward_nextOp (s : State) :
    (onward s).nextOp = s.nextOp := rfl
@[simp] theorem onward_nextUid (s : State) :
    (onward s).nextUid = s.nextUid := rfl
@[simp] theorem onward_free (s : State) :
    (onward s).free = s.free := rfl

@[simp] theorem ends_me (f : Runner → Runner) (s : State) :
    (ends f s).me = f { s.me with pc := s.issue.next } := rfl
@[simp] theorem ends_others (f : Runner → Runner) (s : State) :
    (ends f s).others = s.others := rfl
@[simp] theorem ends_agenda (f : Runner → Runner) (s : State) :
    (ends f s).agenda = s.agenda := rfl
@[simp] theorem ends_lane (f : Runner → Runner) (s : State) :
    (ends f s).lane = s.lane := rfl
@[simp] theorem ends_issue (f : Runner → Runner) (s : State) :
    (ends f s).issue = s.issue := rfl
@[simp] theorem ends_mem (f : Runner → Runner) (s : State) :
    (ends f s).mem = s.mem := rfl
@[simp] theorem ends_pend (f : Runner → Runner) (s : State) :
    (ends f s).pend = s.pend := rfl
@[simp] theorem ends_tags (f : Runner → Runner) (s : State) :
    (ends f s).tags = s.tags := rfl
@[simp] theorem ends_lineMeta (f : Runner → Runner) (s : State) :
    (ends f s).lineMeta = s.lineMeta := rfl
@[simp] theorem ends_poison (f : Runner → Runner) (s : State) :
    (ends f s).poison = s.poison := rfl
@[simp] theorem ends_latent (f : Runner → Runner) (s : State) :
    (ends f s).latent = s.latent := rfl
@[simp] theorem ends_history (f : Runner → Runner) (s : State) :
    (ends f s).history = s.history := rfl
@[simp] theorem ends_tlb (f : Runner → Runner) (s : State) :
    (ends f s).tlb = s.tlb := rfl
@[simp] theorem ends_ctxs (f : Runner → Runner) (s : State) :
    (ends f s).ctxs = s.ctxs := rfl
@[simp] theorem ends_parts (f : Runner → Runner) (s : State) :
    (ends f s).parts = s.parts := rfl
@[simp] theorem ends_grids (f : Runner → Runner) (s : State) :
    (ends f s).grids = s.grids := rfl
@[simp] theorem ends_squads (f : Runner → Runner) (s : State) :
    (ends f s).squads = s.squads := rfl
@[simp] theorem ends_teams (f : Runner → Runner) (s : State) :
    (ends f s).teams = s.teams := rfl
@[simp] theorem ends_saved (f : Runner → Runner) (s : State) :
    (ends f s).saved = s.saved := rfl
@[simp] theorem ends_cksaves (f : Runner → Runner) (s : State) :
    (ends f s).cksaves = s.cksaves := rfl
@[simp] theorem ends_lranges (f : Runner → Runner) (s : State) :
    (ends f s).lranges = s.lranges := rfl
@[simp] theorem ends_streams (f : Runner → Runner) (s : State) :
    (ends f s).streams = s.streams := rfl
@[simp] theorem ends_subs (f : Runner → Runner) (s : State) :
    (ends f s).subs = s.subs := rfl
@[simp] theorem ends_mops (f : Runner → Runner) (s : State) :
    (ends f s).mops = s.mops := rfl
@[simp] theorem ends_cloaks (f : Runner → Runner) (s : State) :
    (ends f s).cloaks = s.cloaks := rfl
@[simp] theorem ends_clkcfg (f : Runner → Runner) (s : State) :
    (ends f s).clkcfg = s.clkcfg := rfl
@[simp] theorem ends_ops (f : Runner → Runner) (s : State) :
    (ends f s).ops = s.ops := rfl
@[simp] theorem ends_pages (f : Runner → Runner) (s : State) :
    (ends f s).pages = s.pages := rfl
@[simp] theorem ends_wicket (f : Runner → Runner) (s : State) :
    (ends f s).wicket = s.wicket := rfl
@[simp] theorem ends_dev (f : Runner → Runner) (s : State) :
    (ends f s).dev = s.dev := rfl
@[simp] theorem ends_outb (f : Runner → Runner) (s : State) :
    (ends f s).outb = s.outb := rfl
@[simp] theorem ends_landed (f : Runner → Runner) (s : State) :
    (ends f s).landed = s.landed := rfl
@[simp] theorem ends_routing (f : Runner → Runner) (s : State) :
    (ends f s).routing = s.routing := rfl
@[simp] theorem ends_silent (f : Runner → Runner) (s : State) :
    (ends f s).silent = s.silent := rfl
@[simp] theorem ends_injectors (f : Runner → Runner) (s : State) :
    (ends f s).injectors = s.injectors := rfl
@[simp] theorem ends_refresh (f : Runner → Runner) (s : State) :
    (ends f s).refresh = s.refresh := rfl
@[simp] theorem ends_stretched (f : Runner → Runner) (s : State) :
    (ends f s).stretched = s.stretched := rfl
@[simp] theorem ends_escapes (f : Runner → Runner) (s : State) :
    (ends f s).escapes = s.escapes := rfl
@[simp] theorem ends_msix (f : Runner → Runner) (s : State) :
    (ends f s).msix = s.msix := rfl
@[simp] theorem ends_endpoint (f : Runner → Runner) (s : State) :
    (ends f s).endpoint = s.endpoint := rfl
@[simp] theorem ends_clocks (f : Runner → Runner) (s : State) :
    (ends f s).clocks = s.clocks := rfl
@[simp] theorem ends_pkg (f : Runner → Runner) (s : State) :
    (ends f s).pkg = s.pkg := rfl
@[simp] theorem ends_pkgs (f : Runner → Runner) (s : State) :
    (ends f s).pkgs = s.pkgs := rfl
@[simp] theorem ends_nextOp (f : Runner → Runner) (s : State) :
    (ends f s).nextOp = s.nextOp := rfl
@[simp] theorem ends_nextUid (f : Runner → Runner) (s : State) :
    (ends f s).nextUid = s.nextUid := rfl
@[simp] theorem ends_free (f : Runner → Runner) (s : State) :
    (ends f s).free = s.free := rfl

@[simp] theorem writes_me (d : Reg) (x : Word) (s : State) :
    (writes d x s).me = { s.me with pc := s.issue.next, s := sregSet s.me.s d x } := rfl
@[simp] theorem writes_others (d : Reg) (x : Word) (s : State) :
    (writes d x s).others = s.others := rfl
@[simp] theorem writes_agenda (d : Reg) (x : Word) (s : State) :
    (writes d x s).agenda = s.agenda := rfl
@[simp] theorem writes_lane (d : Reg) (x : Word) (s : State) :
    (writes d x s).lane = s.lane := rfl
@[simp] theorem writes_issue (d : Reg) (x : Word) (s : State) :
    (writes d x s).issue = s.issue := rfl
@[simp] theorem writes_mem (d : Reg) (x : Word) (s : State) :
    (writes d x s).mem = s.mem := rfl
@[simp] theorem writes_pend (d : Reg) (x : Word) (s : State) :
    (writes d x s).pend = s.pend := rfl
@[simp] theorem writes_tags (d : Reg) (x : Word) (s : State) :
    (writes d x s).tags = s.tags := rfl
@[simp] theorem writes_lineMeta (d : Reg) (x : Word) (s : State) :
    (writes d x s).lineMeta = s.lineMeta := rfl
@[simp] theorem writes_poison (d : Reg) (x : Word) (s : State) :
    (writes d x s).poison = s.poison := rfl
@[simp] theorem writes_latent (d : Reg) (x : Word) (s : State) :
    (writes d x s).latent = s.latent := rfl
@[simp] theorem writes_history (d : Reg) (x : Word) (s : State) :
    (writes d x s).history = s.history := rfl
@[simp] theorem writes_tlb (d : Reg) (x : Word) (s : State) :
    (writes d x s).tlb = s.tlb := rfl
@[simp] theorem writes_ctxs (d : Reg) (x : Word) (s : State) :
    (writes d x s).ctxs = s.ctxs := rfl
@[simp] theorem writes_parts (d : Reg) (x : Word) (s : State) :
    (writes d x s).parts = s.parts := rfl
@[simp] theorem writes_grids (d : Reg) (x : Word) (s : State) :
    (writes d x s).grids = s.grids := rfl
@[simp] theorem writes_squads (d : Reg) (x : Word) (s : State) :
    (writes d x s).squads = s.squads := rfl
@[simp] theorem writes_teams (d : Reg) (x : Word) (s : State) :
    (writes d x s).teams = s.teams := rfl
@[simp] theorem writes_saved (d : Reg) (x : Word) (s : State) :
    (writes d x s).saved = s.saved := rfl
@[simp] theorem writes_cksaves (d : Reg) (x : Word) (s : State) :
    (writes d x s).cksaves = s.cksaves := rfl
@[simp] theorem writes_lranges (d : Reg) (x : Word) (s : State) :
    (writes d x s).lranges = s.lranges := rfl
@[simp] theorem writes_streams (d : Reg) (x : Word) (s : State) :
    (writes d x s).streams = s.streams := rfl
@[simp] theorem writes_subs (d : Reg) (x : Word) (s : State) :
    (writes d x s).subs = s.subs := rfl
@[simp] theorem writes_mops (d : Reg) (x : Word) (s : State) :
    (writes d x s).mops = s.mops := rfl
@[simp] theorem writes_cloaks (d : Reg) (x : Word) (s : State) :
    (writes d x s).cloaks = s.cloaks := rfl
@[simp] theorem writes_clkcfg (d : Reg) (x : Word) (s : State) :
    (writes d x s).clkcfg = s.clkcfg := rfl
@[simp] theorem writes_ops (d : Reg) (x : Word) (s : State) :
    (writes d x s).ops = s.ops := rfl
@[simp] theorem writes_pages (d : Reg) (x : Word) (s : State) :
    (writes d x s).pages = s.pages := rfl
@[simp] theorem writes_wicket (d : Reg) (x : Word) (s : State) :
    (writes d x s).wicket = s.wicket := rfl
@[simp] theorem writes_dev (d : Reg) (x : Word) (s : State) :
    (writes d x s).dev = s.dev := rfl
@[simp] theorem writes_outb (d : Reg) (x : Word) (s : State) :
    (writes d x s).outb = s.outb := rfl
@[simp] theorem writes_landed (d : Reg) (x : Word) (s : State) :
    (writes d x s).landed = s.landed := rfl
@[simp] theorem writes_routing (d : Reg) (x : Word) (s : State) :
    (writes d x s).routing = s.routing := rfl
@[simp] theorem writes_silent (d : Reg) (x : Word) (s : State) :
    (writes d x s).silent = s.silent := rfl
@[simp] theorem writes_injectors (d : Reg) (x : Word) (s : State) :
    (writes d x s).injectors = s.injectors := rfl
@[simp] theorem writes_refresh (d : Reg) (x : Word) (s : State) :
    (writes d x s).refresh = s.refresh := rfl
@[simp] theorem writes_stretched (d : Reg) (x : Word) (s : State) :
    (writes d x s).stretched = s.stretched := rfl
@[simp] theorem writes_escapes (d : Reg) (x : Word) (s : State) :
    (writes d x s).escapes = s.escapes := rfl
@[simp] theorem writes_msix (d : Reg) (x : Word) (s : State) :
    (writes d x s).msix = s.msix := rfl
@[simp] theorem writes_endpoint (d : Reg) (x : Word) (s : State) :
    (writes d x s).endpoint = s.endpoint := rfl
@[simp] theorem writes_clocks (d : Reg) (x : Word) (s : State) :
    (writes d x s).clocks = s.clocks := rfl
@[simp] theorem writes_pkg (d : Reg) (x : Word) (s : State) :
    (writes d x s).pkg = s.pkg := rfl
@[simp] theorem writes_pkgs (d : Reg) (x : Word) (s : State) :
    (writes d x s).pkgs = s.pkgs := rfl
@[simp] theorem writes_nextOp (d : Reg) (x : Word) (s : State) :
    (writes d x s).nextOp = s.nextOp := rfl
@[simp] theorem writes_nextUid (d : Reg) (x : Word) (s : State) :
    (writes d x s).nextUid = s.nextUid := rfl
@[simp] theorem writes_free (d : Reg) (x : Word) (s : State) :
    (writes d x s).free = s.free := rfl

@[simp] theorem onLane_me (f : Lanes → Lanes) (s : State) :
    (onLane f s).me = { s.me with l := f s.me.l } := rfl
@[simp] theorem onLane_others (f : Lanes → Lanes) (s : State) :
    (onLane f s).others = s.others := rfl
@[simp] theorem onLane_agenda (f : Lanes → Lanes) (s : State) :
    (onLane f s).agenda = s.agenda := rfl
@[simp] theorem onLane_lane (f : Lanes → Lanes) (s : State) :
    (onLane f s).lane = s.lane := rfl
@[simp] theorem onLane_issue (f : Lanes → Lanes) (s : State) :
    (onLane f s).issue = s.issue := rfl
@[simp] theorem onLane_mem (f : Lanes → Lanes) (s : State) :
    (onLane f s).mem = s.mem := rfl
@[simp] theorem onLane_pend (f : Lanes → Lanes) (s : State) :
    (onLane f s).pend = s.pend := rfl
@[simp] theorem onLane_tags (f : Lanes → Lanes) (s : State) :
    (onLane f s).tags = s.tags := rfl
@[simp] theorem onLane_lineMeta (f : Lanes → Lanes) (s : State) :
    (onLane f s).lineMeta = s.lineMeta := rfl
@[simp] theorem onLane_poison (f : Lanes → Lanes) (s : State) :
    (onLane f s).poison = s.poison := rfl
@[simp] theorem onLane_latent (f : Lanes → Lanes) (s : State) :
    (onLane f s).latent = s.latent := rfl
@[simp] theorem onLane_history (f : Lanes → Lanes) (s : State) :
    (onLane f s).history = s.history := rfl
@[simp] theorem onLane_tlb (f : Lanes → Lanes) (s : State) :
    (onLane f s).tlb = s.tlb := rfl
@[simp] theorem onLane_ctxs (f : Lanes → Lanes) (s : State) :
    (onLane f s).ctxs = s.ctxs := rfl
@[simp] theorem onLane_parts (f : Lanes → Lanes) (s : State) :
    (onLane f s).parts = s.parts := rfl
@[simp] theorem onLane_grids (f : Lanes → Lanes) (s : State) :
    (onLane f s).grids = s.grids := rfl
@[simp] theorem onLane_squads (f : Lanes → Lanes) (s : State) :
    (onLane f s).squads = s.squads := rfl
@[simp] theorem onLane_teams (f : Lanes → Lanes) (s : State) :
    (onLane f s).teams = s.teams := rfl
@[simp] theorem onLane_saved (f : Lanes → Lanes) (s : State) :
    (onLane f s).saved = s.saved := rfl
@[simp] theorem onLane_cksaves (f : Lanes → Lanes) (s : State) :
    (onLane f s).cksaves = s.cksaves := rfl
@[simp] theorem onLane_lranges (f : Lanes → Lanes) (s : State) :
    (onLane f s).lranges = s.lranges := rfl
@[simp] theorem onLane_streams (f : Lanes → Lanes) (s : State) :
    (onLane f s).streams = s.streams := rfl
@[simp] theorem onLane_subs (f : Lanes → Lanes) (s : State) :
    (onLane f s).subs = s.subs := rfl
@[simp] theorem onLane_mops (f : Lanes → Lanes) (s : State) :
    (onLane f s).mops = s.mops := rfl
@[simp] theorem onLane_cloaks (f : Lanes → Lanes) (s : State) :
    (onLane f s).cloaks = s.cloaks := rfl
@[simp] theorem onLane_clkcfg (f : Lanes → Lanes) (s : State) :
    (onLane f s).clkcfg = s.clkcfg := rfl
@[simp] theorem onLane_ops (f : Lanes → Lanes) (s : State) :
    (onLane f s).ops = s.ops := rfl
@[simp] theorem onLane_pages (f : Lanes → Lanes) (s : State) :
    (onLane f s).pages = s.pages := rfl
@[simp] theorem onLane_wicket (f : Lanes → Lanes) (s : State) :
    (onLane f s).wicket = s.wicket := rfl
@[simp] theorem onLane_dev (f : Lanes → Lanes) (s : State) :
    (onLane f s).dev = s.dev := rfl
@[simp] theorem onLane_outb (f : Lanes → Lanes) (s : State) :
    (onLane f s).outb = s.outb := rfl
@[simp] theorem onLane_landed (f : Lanes → Lanes) (s : State) :
    (onLane f s).landed = s.landed := rfl
@[simp] theorem onLane_routing (f : Lanes → Lanes) (s : State) :
    (onLane f s).routing = s.routing := rfl
@[simp] theorem onLane_silent (f : Lanes → Lanes) (s : State) :
    (onLane f s).silent = s.silent := rfl
@[simp] theorem onLane_injectors (f : Lanes → Lanes) (s : State) :
    (onLane f s).injectors = s.injectors := rfl
@[simp] theorem onLane_refresh (f : Lanes → Lanes) (s : State) :
    (onLane f s).refresh = s.refresh := rfl
@[simp] theorem onLane_stretched (f : Lanes → Lanes) (s : State) :
    (onLane f s).stretched = s.stretched := rfl
@[simp] theorem onLane_escapes (f : Lanes → Lanes) (s : State) :
    (onLane f s).escapes = s.escapes := rfl
@[simp] theorem onLane_msix (f : Lanes → Lanes) (s : State) :
    (onLane f s).msix = s.msix := rfl
@[simp] theorem onLane_endpoint (f : Lanes → Lanes) (s : State) :
    (onLane f s).endpoint = s.endpoint := rfl
@[simp] theorem onLane_clocks (f : Lanes → Lanes) (s : State) :
    (onLane f s).clocks = s.clocks := rfl
@[simp] theorem onLane_pkg (f : Lanes → Lanes) (s : State) :
    (onLane f s).pkg = s.pkg := rfl
@[simp] theorem onLane_pkgs (f : Lanes → Lanes) (s : State) :
    (onLane f s).pkgs = s.pkgs := rfl
@[simp] theorem onLane_nextOp (f : Lanes → Lanes) (s : State) :
    (onLane f s).nextOp = s.nextOp := rfl
@[simp] theorem onLane_nextUid (f : Lanes → Lanes) (s : State) :
    (onLane f s).nextUid = s.nextUid := rfl
@[simp] theorem onLane_free (f : Lanes → Lanes) (s : State) :
    (onLane f s).free = s.free := rfl

@[simp] theorem onRunner_me (s : State) (who : RunnerId) (f : Runner → Runner) :
    (s.onRunner who f).me = if s.me.id = who then f s.me else s.me := rfl
@[simp] theorem onRunner_others (s : State) (who : RunnerId) (f : Runner → Runner) :
    (s.onRunner who f).others = mapIf (fun r => r.id == who) f s.others := rfl
@[simp] theorem onRunner_agenda (s : State) (who : RunnerId) (f : Runner → Runner) :
    (s.onRunner who f).agenda = s.agenda := rfl
@[simp] theorem onRunner_lane (s : State) (who : RunnerId) (f : Runner → Runner) :
    (s.onRunner who f).lane = s.lane := rfl
@[simp] theorem onRunner_issue (s : State) (who : RunnerId) (f : Runner → Runner) :
    (s.onRunner who f).issue = s.issue := rfl
@[simp] theorem onRunner_mem (s : State) (who : RunnerId) (f : Runner → Runner) :
    (s.onRunner who f).mem = s.mem := rfl
@[simp] theorem onRunner_pend (s : State) (who : RunnerId) (f : Runner → Runner) :
    (s.onRunner who f).pend = s.pend := rfl
@[simp] theorem onRunner_tags (s : State) (who : RunnerId) (f : Runner → Runner) :
    (s.onRunner who f).tags = s.tags := rfl
@[simp] theorem onRunner_lineMeta (s : State) (who : RunnerId) (f : Runner → Runner) :
    (s.onRunner who f).lineMeta = s.lineMeta := rfl
@[simp] theorem onRunner_poison (s : State) (who : RunnerId) (f : Runner → Runner) :
    (s.onRunner who f).poison = s.poison := rfl
@[simp] theorem onRunner_latent (s : State) (who : RunnerId) (f : Runner → Runner) :
    (s.onRunner who f).latent = s.latent := rfl
@[simp] theorem onRunner_history (s : State) (who : RunnerId) (f : Runner → Runner) :
    (s.onRunner who f).history = s.history := rfl
@[simp] theorem onRunner_tlb (s : State) (who : RunnerId) (f : Runner → Runner) :
    (s.onRunner who f).tlb = s.tlb := rfl
@[simp] theorem onRunner_ctxs (s : State) (who : RunnerId) (f : Runner → Runner) :
    (s.onRunner who f).ctxs = s.ctxs := rfl
@[simp] theorem onRunner_parts (s : State) (who : RunnerId) (f : Runner → Runner) :
    (s.onRunner who f).parts = s.parts := rfl
@[simp] theorem onRunner_grids (s : State) (who : RunnerId) (f : Runner → Runner) :
    (s.onRunner who f).grids = s.grids := rfl
@[simp] theorem onRunner_squads (s : State) (who : RunnerId) (f : Runner → Runner) :
    (s.onRunner who f).squads = s.squads := rfl
@[simp] theorem onRunner_teams (s : State) (who : RunnerId) (f : Runner → Runner) :
    (s.onRunner who f).teams = s.teams := rfl
@[simp] theorem onRunner_saved (s : State) (who : RunnerId) (f : Runner → Runner) :
    (s.onRunner who f).saved = s.saved := rfl
@[simp] theorem onRunner_cksaves (s : State) (who : RunnerId) (f : Runner → Runner) :
    (s.onRunner who f).cksaves = s.cksaves := rfl
@[simp] theorem onRunner_lranges (s : State) (who : RunnerId) (f : Runner → Runner) :
    (s.onRunner who f).lranges = s.lranges := rfl
@[simp] theorem onRunner_streams (s : State) (who : RunnerId) (f : Runner → Runner) :
    (s.onRunner who f).streams = s.streams := rfl
@[simp] theorem onRunner_subs (s : State) (who : RunnerId) (f : Runner → Runner) :
    (s.onRunner who f).subs = s.subs := rfl
@[simp] theorem onRunner_mops (s : State) (who : RunnerId) (f : Runner → Runner) :
    (s.onRunner who f).mops = s.mops := rfl
@[simp] theorem onRunner_cloaks (s : State) (who : RunnerId) (f : Runner → Runner) :
    (s.onRunner who f).cloaks = s.cloaks := rfl
@[simp] theorem onRunner_clkcfg (s : State) (who : RunnerId) (f : Runner → Runner) :
    (s.onRunner who f).clkcfg = s.clkcfg := rfl
@[simp] theorem onRunner_ops (s : State) (who : RunnerId) (f : Runner → Runner) :
    (s.onRunner who f).ops = s.ops := rfl
@[simp] theorem onRunner_pages (s : State) (who : RunnerId) (f : Runner → Runner) :
    (s.onRunner who f).pages = s.pages := rfl
@[simp] theorem onRunner_wicket (s : State) (who : RunnerId) (f : Runner → Runner) :
    (s.onRunner who f).wicket = s.wicket := rfl
@[simp] theorem onRunner_dev (s : State) (who : RunnerId) (f : Runner → Runner) :
    (s.onRunner who f).dev = s.dev := rfl
@[simp] theorem onRunner_outb (s : State) (who : RunnerId) (f : Runner → Runner) :
    (s.onRunner who f).outb = s.outb := rfl
@[simp] theorem onRunner_landed (s : State) (who : RunnerId) (f : Runner → Runner) :
    (s.onRunner who f).landed = s.landed := rfl
@[simp] theorem onRunner_routing (s : State) (who : RunnerId) (f : Runner → Runner) :
    (s.onRunner who f).routing = s.routing := rfl
@[simp] theorem onRunner_silent (s : State) (who : RunnerId) (f : Runner → Runner) :
    (s.onRunner who f).silent = s.silent := rfl
@[simp] theorem onRunner_injectors (s : State) (who : RunnerId) (f : Runner → Runner) :
    (s.onRunner who f).injectors = s.injectors := rfl
@[simp] theorem onRunner_refresh (s : State) (who : RunnerId) (f : Runner → Runner) :
    (s.onRunner who f).refresh = s.refresh := rfl
@[simp] theorem onRunner_stretched (s : State) (who : RunnerId) (f : Runner → Runner) :
    (s.onRunner who f).stretched = s.stretched := rfl
@[simp] theorem onRunner_escapes (s : State) (who : RunnerId) (f : Runner → Runner) :
    (s.onRunner who f).escapes = s.escapes := rfl
@[simp] theorem onRunner_msix (s : State) (who : RunnerId) (f : Runner → Runner) :
    (s.onRunner who f).msix = s.msix := rfl
@[simp] theorem onRunner_endpoint (s : State) (who : RunnerId) (f : Runner → Runner) :
    (s.onRunner who f).endpoint = s.endpoint := rfl
@[simp] theorem onRunner_clocks (s : State) (who : RunnerId) (f : Runner → Runner) :
    (s.onRunner who f).clocks = s.clocks := rfl
@[simp] theorem onRunner_pkg (s : State) (who : RunnerId) (f : Runner → Runner) :
    (s.onRunner who f).pkg = s.pkg := rfl
@[simp] theorem onRunner_pkgs (s : State) (who : RunnerId) (f : Runner → Runner) :
    (s.onRunner who f).pkgs = s.pkgs := rfl
@[simp] theorem onRunner_nextOp (s : State) (who : RunnerId) (f : Runner → Runner) :
    (s.onRunner who f).nextOp = s.nextOp := rfl
@[simp] theorem onRunner_nextUid (s : State) (who : RunnerId) (f : Runner → Runner) :
    (s.onRunner who f).nextUid = s.nextUid := rfl
@[simp] theorem onRunner_free (s : State) (who : RunnerId) (f : Runner → Runner) :
    (s.onRunner who f).free = s.free := rfl

@[simp] theorem onTeam_me (u : Nat) (f : Team → Team) (s : State) :
    (onTeam u f s).me = s.me := rfl
@[simp] theorem onTeam_others (u : Nat) (f : Team → Team) (s : State) :
    (onTeam u f s).others = s.others := rfl
@[simp] theorem onTeam_agenda (u : Nat) (f : Team → Team) (s : State) :
    (onTeam u f s).agenda = s.agenda := rfl
@[simp] theorem onTeam_lane (u : Nat) (f : Team → Team) (s : State) :
    (onTeam u f s).lane = s.lane := rfl
@[simp] theorem onTeam_issue (u : Nat) (f : Team → Team) (s : State) :
    (onTeam u f s).issue = s.issue := rfl
@[simp] theorem onTeam_mem (u : Nat) (f : Team → Team) (s : State) :
    (onTeam u f s).mem = s.mem := rfl
@[simp] theorem onTeam_pend (u : Nat) (f : Team → Team) (s : State) :
    (onTeam u f s).pend = s.pend := rfl
@[simp] theorem onTeam_tags (u : Nat) (f : Team → Team) (s : State) :
    (onTeam u f s).tags = s.tags := rfl
@[simp] theorem onTeam_lineMeta (u : Nat) (f : Team → Team) (s : State) :
    (onTeam u f s).lineMeta = s.lineMeta := rfl
@[simp] theorem onTeam_poison (u : Nat) (f : Team → Team) (s : State) :
    (onTeam u f s).poison = s.poison := rfl
@[simp] theorem onTeam_latent (u : Nat) (f : Team → Team) (s : State) :
    (onTeam u f s).latent = s.latent := rfl
@[simp] theorem onTeam_history (u : Nat) (f : Team → Team) (s : State) :
    (onTeam u f s).history = s.history := rfl
@[simp] theorem onTeam_tlb (u : Nat) (f : Team → Team) (s : State) :
    (onTeam u f s).tlb = s.tlb := rfl
@[simp] theorem onTeam_ctxs (u : Nat) (f : Team → Team) (s : State) :
    (onTeam u f s).ctxs = s.ctxs := rfl
@[simp] theorem onTeam_parts (u : Nat) (f : Team → Team) (s : State) :
    (onTeam u f s).parts = s.parts := rfl
@[simp] theorem onTeam_grids (u : Nat) (f : Team → Team) (s : State) :
    (onTeam u f s).grids = s.grids := rfl
@[simp] theorem onTeam_squads (u : Nat) (f : Team → Team) (s : State) :
    (onTeam u f s).squads = s.squads := rfl
@[simp] theorem onTeam_teams (u : Nat) (f : Team → Team) (s : State) :
    (onTeam u f s).teams = mapIf (fun t => t.uid == u) f s.teams := rfl
@[simp] theorem onTeam_saved (u : Nat) (f : Team → Team) (s : State) :
    (onTeam u f s).saved = s.saved := rfl
@[simp] theorem onTeam_cksaves (u : Nat) (f : Team → Team) (s : State) :
    (onTeam u f s).cksaves = s.cksaves := rfl
@[simp] theorem onTeam_lranges (u : Nat) (f : Team → Team) (s : State) :
    (onTeam u f s).lranges = s.lranges := rfl
@[simp] theorem onTeam_streams (u : Nat) (f : Team → Team) (s : State) :
    (onTeam u f s).streams = s.streams := rfl
@[simp] theorem onTeam_subs (u : Nat) (f : Team → Team) (s : State) :
    (onTeam u f s).subs = s.subs := rfl
@[simp] theorem onTeam_mops (u : Nat) (f : Team → Team) (s : State) :
    (onTeam u f s).mops = s.mops := rfl
@[simp] theorem onTeam_cloaks (u : Nat) (f : Team → Team) (s : State) :
    (onTeam u f s).cloaks = s.cloaks := rfl
@[simp] theorem onTeam_clkcfg (u : Nat) (f : Team → Team) (s : State) :
    (onTeam u f s).clkcfg = s.clkcfg := rfl
@[simp] theorem onTeam_ops (u : Nat) (f : Team → Team) (s : State) :
    (onTeam u f s).ops = s.ops := rfl
@[simp] theorem onTeam_pages (u : Nat) (f : Team → Team) (s : State) :
    (onTeam u f s).pages = s.pages := rfl
@[simp] theorem onTeam_wicket (u : Nat) (f : Team → Team) (s : State) :
    (onTeam u f s).wicket = s.wicket := rfl
@[simp] theorem onTeam_dev (u : Nat) (f : Team → Team) (s : State) :
    (onTeam u f s).dev = s.dev := rfl
@[simp] theorem onTeam_outb (u : Nat) (f : Team → Team) (s : State) :
    (onTeam u f s).outb = s.outb := rfl
@[simp] theorem onTeam_landed (u : Nat) (f : Team → Team) (s : State) :
    (onTeam u f s).landed = s.landed := rfl
@[simp] theorem onTeam_routing (u : Nat) (f : Team → Team) (s : State) :
    (onTeam u f s).routing = s.routing := rfl
@[simp] theorem onTeam_silent (u : Nat) (f : Team → Team) (s : State) :
    (onTeam u f s).silent = s.silent := rfl
@[simp] theorem onTeam_injectors (u : Nat) (f : Team → Team) (s : State) :
    (onTeam u f s).injectors = s.injectors := rfl
@[simp] theorem onTeam_refresh (u : Nat) (f : Team → Team) (s : State) :
    (onTeam u f s).refresh = s.refresh := rfl
@[simp] theorem onTeam_stretched (u : Nat) (f : Team → Team) (s : State) :
    (onTeam u f s).stretched = s.stretched := rfl
@[simp] theorem onTeam_escapes (u : Nat) (f : Team → Team) (s : State) :
    (onTeam u f s).escapes = s.escapes := rfl
@[simp] theorem onTeam_msix (u : Nat) (f : Team → Team) (s : State) :
    (onTeam u f s).msix = s.msix := rfl
@[simp] theorem onTeam_endpoint (u : Nat) (f : Team → Team) (s : State) :
    (onTeam u f s).endpoint = s.endpoint := rfl
@[simp] theorem onTeam_clocks (u : Nat) (f : Team → Team) (s : State) :
    (onTeam u f s).clocks = s.clocks := rfl
@[simp] theorem onTeam_pkg (u : Nat) (f : Team → Team) (s : State) :
    (onTeam u f s).pkg = s.pkg := rfl
@[simp] theorem onTeam_pkgs (u : Nat) (f : Team → Team) (s : State) :
    (onTeam u f s).pkgs = s.pkgs := rfl
@[simp] theorem onTeam_nextOp (u : Nat) (f : Team → Team) (s : State) :
    (onTeam u f s).nextOp = s.nextOp := rfl
@[simp] theorem onTeam_nextUid (u : Nat) (f : Team → Team) (s : State) :
    (onTeam u f s).nextUid = s.nextUid := rfl
@[simp] theorem onTeam_free (u : Nat) (f : Team → Team) (s : State) :
    (onTeam u f s).free = s.free := rfl

@[simp] theorem onStream_me (g o : Nat) (f : Stream → Stream) (s : State) :
    (onStream g o f s).me = s.me := rfl
@[simp] theorem onStream_others (g o : Nat) (f : Stream → Stream) (s : State) :
    (onStream g o f s).others = s.others := rfl
@[simp] theorem onStream_agenda (g o : Nat) (f : Stream → Stream) (s : State) :
    (onStream g o f s).agenda = s.agenda := rfl
@[simp] theorem onStream_lane (g o : Nat) (f : Stream → Stream) (s : State) :
    (onStream g o f s).lane = s.lane := rfl
@[simp] theorem onStream_issue (g o : Nat) (f : Stream → Stream) (s : State) :
    (onStream g o f s).issue = s.issue := rfl
@[simp] theorem onStream_mem (g o : Nat) (f : Stream → Stream) (s : State) :
    (onStream g o f s).mem = s.mem := rfl
@[simp] theorem onStream_pend (g o : Nat) (f : Stream → Stream) (s : State) :
    (onStream g o f s).pend = s.pend := rfl
@[simp] theorem onStream_tags (g o : Nat) (f : Stream → Stream) (s : State) :
    (onStream g o f s).tags = s.tags := rfl
@[simp] theorem onStream_lineMeta (g o : Nat) (f : Stream → Stream) (s : State) :
    (onStream g o f s).lineMeta = s.lineMeta := rfl
@[simp] theorem onStream_poison (g o : Nat) (f : Stream → Stream) (s : State) :
    (onStream g o f s).poison = s.poison := rfl
@[simp] theorem onStream_latent (g o : Nat) (f : Stream → Stream) (s : State) :
    (onStream g o f s).latent = s.latent := rfl
@[simp] theorem onStream_history (g o : Nat) (f : Stream → Stream) (s : State) :
    (onStream g o f s).history = s.history := rfl
@[simp] theorem onStream_tlb (g o : Nat) (f : Stream → Stream) (s : State) :
    (onStream g o f s).tlb = s.tlb := rfl
@[simp] theorem onStream_ctxs (g o : Nat) (f : Stream → Stream) (s : State) :
    (onStream g o f s).ctxs = s.ctxs := rfl
@[simp] theorem onStream_parts (g o : Nat) (f : Stream → Stream) (s : State) :
    (onStream g o f s).parts = s.parts := rfl
@[simp] theorem onStream_grids (g o : Nat) (f : Stream → Stream) (s : State) :
    (onStream g o f s).grids = s.grids := rfl
@[simp] theorem onStream_squads (g o : Nat) (f : Stream → Stream) (s : State) :
    (onStream g o f s).squads = s.squads := rfl
@[simp] theorem onStream_teams (g o : Nat) (f : Stream → Stream) (s : State) :
    (onStream g o f s).teams = s.teams := rfl
@[simp] theorem onStream_saved (g o : Nat) (f : Stream → Stream) (s : State) :
    (onStream g o f s).saved = s.saved := rfl
@[simp] theorem onStream_cksaves (g o : Nat) (f : Stream → Stream) (s : State) :
    (onStream g o f s).cksaves = s.cksaves := rfl
@[simp] theorem onStream_lranges (g o : Nat) (f : Stream → Stream) (s : State) :
    (onStream g o f s).lranges = s.lranges := rfl
@[simp] theorem onStream_subs (g o : Nat) (f : Stream → Stream) (s : State) :
    (onStream g o f s).subs = s.subs := rfl
@[simp] theorem onStream_mops (g o : Nat) (f : Stream → Stream) (s : State) :
    (onStream g o f s).mops = s.mops := rfl
@[simp] theorem onStream_cloaks (g o : Nat) (f : Stream → Stream) (s : State) :
    (onStream g o f s).cloaks = s.cloaks := rfl
@[simp] theorem onStream_clkcfg (g o : Nat) (f : Stream → Stream) (s : State) :
    (onStream g o f s).clkcfg = s.clkcfg := rfl
@[simp] theorem onStream_ops (g o : Nat) (f : Stream → Stream) (s : State) :
    (onStream g o f s).ops = s.ops := rfl
@[simp] theorem onStream_pages (g o : Nat) (f : Stream → Stream) (s : State) :
    (onStream g o f s).pages = s.pages := rfl
@[simp] theorem onStream_wicket (g o : Nat) (f : Stream → Stream) (s : State) :
    (onStream g o f s).wicket = s.wicket := rfl
@[simp] theorem onStream_dev (g o : Nat) (f : Stream → Stream) (s : State) :
    (onStream g o f s).dev = s.dev := rfl
@[simp] theorem onStream_outb (g o : Nat) (f : Stream → Stream) (s : State) :
    (onStream g o f s).outb = s.outb := rfl
@[simp] theorem onStream_landed (g o : Nat) (f : Stream → Stream) (s : State) :
    (onStream g o f s).landed = s.landed := rfl
@[simp] theorem onStream_routing (g o : Nat) (f : Stream → Stream) (s : State) :
    (onStream g o f s).routing = s.routing := rfl
@[simp] theorem onStream_silent (g o : Nat) (f : Stream → Stream) (s : State) :
    (onStream g o f s).silent = s.silent := rfl
@[simp] theorem onStream_injectors (g o : Nat) (f : Stream → Stream) (s : State) :
    (onStream g o f s).injectors = s.injectors := rfl
@[simp] theorem onStream_refresh (g o : Nat) (f : Stream → Stream) (s : State) :
    (onStream g o f s).refresh = s.refresh := rfl
@[simp] theorem onStream_stretched (g o : Nat) (f : Stream → Stream) (s : State) :
    (onStream g o f s).stretched = s.stretched := rfl
@[simp] theorem onStream_escapes (g o : Nat) (f : Stream → Stream) (s : State) :
    (onStream g o f s).escapes = s.escapes := rfl
@[simp] theorem onStream_msix (g o : Nat) (f : Stream → Stream) (s : State) :
    (onStream g o f s).msix = s.msix := rfl
@[simp] theorem onStream_endpoint (g o : Nat) (f : Stream → Stream) (s : State) :
    (onStream g o f s).endpoint = s.endpoint := rfl
@[simp] theorem onStream_clocks (g o : Nat) (f : Stream → Stream) (s : State) :
    (onStream g o f s).clocks = s.clocks := rfl
@[simp] theorem onStream_pkg (g o : Nat) (f : Stream → Stream) (s : State) :
    (onStream g o f s).pkg = s.pkg := rfl
@[simp] theorem onStream_pkgs (g o : Nat) (f : Stream → Stream) (s : State) :
    (onStream g o f s).pkgs = s.pkgs := rfl
@[simp] theorem onStream_nextOp (g o : Nat) (f : Stream → Stream) (s : State) :
    (onStream g o f s).nextOp = s.nextOp := rfl
@[simp] theorem onStream_nextUid (g o : Nat) (f : Stream → Stream) (s : State) :
    (onStream g o f s).nextUid = s.nextUid := rfl
@[simp] theorem onStream_free (g o : Nat) (f : Stream → Stream) (s : State) :
    (onStream g o f s).free = s.free := rfl

@[simp] theorem abortFinal_me (c d : Nat) (s : State) :
    (abortFinal c d s).me = s.me.abortFinal c d := rfl
@[simp] theorem abortFinal_others (c d : Nat) (s : State) :
    (abortFinal c d s).others = s.others := rfl
@[simp] theorem abortFinal_agenda (c d : Nat) (s : State) :
    (abortFinal c d s).agenda = s.agenda := rfl
@[simp] theorem abortFinal_lane (c d : Nat) (s : State) :
    (abortFinal c d s).lane = s.lane := rfl
@[simp] theorem abortFinal_issue (c d : Nat) (s : State) :
    (abortFinal c d s).issue = s.issue := rfl
@[simp] theorem abortFinal_mem (c d : Nat) (s : State) :
    (abortFinal c d s).mem = s.mem := rfl
@[simp] theorem abortFinal_pend (c d : Nat) (s : State) :
    (abortFinal c d s).pend = s.pend := rfl
@[simp] theorem abortFinal_tags (c d : Nat) (s : State) :
    (abortFinal c d s).tags = s.tags := rfl
@[simp] theorem abortFinal_lineMeta (c d : Nat) (s : State) :
    (abortFinal c d s).lineMeta = s.lineMeta := rfl
@[simp] theorem abortFinal_poison (c d : Nat) (s : State) :
    (abortFinal c d s).poison = s.poison := rfl
@[simp] theorem abortFinal_latent (c d : Nat) (s : State) :
    (abortFinal c d s).latent = s.latent := rfl
@[simp] theorem abortFinal_history (c d : Nat) (s : State) :
    (abortFinal c d s).history = s.history := rfl
@[simp] theorem abortFinal_tlb (c d : Nat) (s : State) :
    (abortFinal c d s).tlb = s.tlb := rfl
@[simp] theorem abortFinal_ctxs (c d : Nat) (s : State) :
    (abortFinal c d s).ctxs = s.ctxs := rfl
@[simp] theorem abortFinal_parts (c d : Nat) (s : State) :
    (abortFinal c d s).parts = s.parts := rfl
@[simp] theorem abortFinal_grids (c d : Nat) (s : State) :
    (abortFinal c d s).grids = s.grids := rfl
@[simp] theorem abortFinal_squads (c d : Nat) (s : State) :
    (abortFinal c d s).squads = s.squads := rfl
@[simp] theorem abortFinal_teams (c d : Nat) (s : State) :
    (abortFinal c d s).teams = s.teams := rfl
@[simp] theorem abortFinal_saved (c d : Nat) (s : State) :
    (abortFinal c d s).saved = s.saved := rfl
@[simp] theorem abortFinal_cksaves (c d : Nat) (s : State) :
    (abortFinal c d s).cksaves = s.cksaves := rfl
@[simp] theorem abortFinal_lranges (c d : Nat) (s : State) :
    (abortFinal c d s).lranges = s.lranges := rfl
@[simp] theorem abortFinal_streams (c d : Nat) (s : State) :
    (abortFinal c d s).streams = s.streams := rfl
@[simp] theorem abortFinal_subs (c d : Nat) (s : State) :
    (abortFinal c d s).subs = s.subs := rfl
@[simp] theorem abortFinal_mops (c d : Nat) (s : State) :
    (abortFinal c d s).mops = s.mops := rfl
@[simp] theorem abortFinal_cloaks (c d : Nat) (s : State) :
    (abortFinal c d s).cloaks = s.cloaks := rfl
@[simp] theorem abortFinal_clkcfg (c d : Nat) (s : State) :
    (abortFinal c d s).clkcfg = s.clkcfg := rfl
@[simp] theorem abortFinal_ops (c d : Nat) (s : State) :
    (abortFinal c d s).ops = s.ops := rfl
@[simp] theorem abortFinal_pages (c d : Nat) (s : State) :
    (abortFinal c d s).pages = s.pages := rfl
@[simp] theorem abortFinal_wicket (c d : Nat) (s : State) :
    (abortFinal c d s).wicket = s.wicket.release s.me.id := rfl
@[simp] theorem abortFinal_dev (c d : Nat) (s : State) :
    (abortFinal c d s).dev = s.dev := rfl
@[simp] theorem abortFinal_outb (c d : Nat) (s : State) :
    (abortFinal c d s).outb = s.outb := rfl
@[simp] theorem abortFinal_landed (c d : Nat) (s : State) :
    (abortFinal c d s).landed = s.landed := rfl
@[simp] theorem abortFinal_routing (c d : Nat) (s : State) :
    (abortFinal c d s).routing = s.routing := rfl
@[simp] theorem abortFinal_silent (c d : Nat) (s : State) :
    (abortFinal c d s).silent = s.silent := rfl
@[simp] theorem abortFinal_injectors (c d : Nat) (s : State) :
    (abortFinal c d s).injectors = s.injectors := rfl
@[simp] theorem abortFinal_refresh (c d : Nat) (s : State) :
    (abortFinal c d s).refresh = s.refresh := rfl
@[simp] theorem abortFinal_stretched (c d : Nat) (s : State) :
    (abortFinal c d s).stretched = s.stretched := rfl
@[simp] theorem abortFinal_escapes (c d : Nat) (s : State) :
    (abortFinal c d s).escapes = s.escapes := rfl
@[simp] theorem abortFinal_msix (c d : Nat) (s : State) :
    (abortFinal c d s).msix = s.msix := rfl
@[simp] theorem abortFinal_endpoint (c d : Nat) (s : State) :
    (abortFinal c d s).endpoint = s.endpoint := rfl
@[simp] theorem abortFinal_clocks (c d : Nat) (s : State) :
    (abortFinal c d s).clocks = s.clocks := rfl
@[simp] theorem abortFinal_pkg (c d : Nat) (s : State) :
    (abortFinal c d s).pkg = s.pkg := rfl
@[simp] theorem abortFinal_pkgs (c d : Nat) (s : State) :
    (abortFinal c d s).pkgs = s.pkgs := rfl
@[simp] theorem abortFinal_nextOp (c d : Nat) (s : State) :
    (abortFinal c d s).nextOp = s.nextOp := rfl
@[simp] theorem abortFinal_nextUid (c d : Nat) (s : State) :
    (abortFinal c d s).nextUid = s.nextUid := rfl
@[simp] theorem abortFinal_free (c d : Nat) (s : State) :
    (abortFinal c d s).free = s.free := rfl

@[simp] theorem abortConflict_me (s : State) :
    (abortConflict s).me = s.me.conflict := rfl
@[simp] theorem abortConflict_others (s : State) :
    (abortConflict s).others = s.others := rfl
@[simp] theorem abortConflict_agenda (s : State) :
    (abortConflict s).agenda = s.agenda := rfl
@[simp] theorem abortConflict_lane (s : State) :
    (abortConflict s).lane = s.lane := rfl
@[simp] theorem abortConflict_issue (s : State) :
    (abortConflict s).issue = s.issue := rfl
@[simp] theorem abortConflict_mem (s : State) :
    (abortConflict s).mem = s.mem := rfl
@[simp] theorem abortConflict_pend (s : State) :
    (abortConflict s).pend = s.pend := rfl
@[simp] theorem abortConflict_tags (s : State) :
    (abortConflict s).tags = s.tags := rfl
@[simp] theorem abortConflict_lineMeta (s : State) :
    (abortConflict s).lineMeta = s.lineMeta := rfl
@[simp] theorem abortConflict_poison (s : State) :
    (abortConflict s).poison = s.poison := rfl
@[simp] theorem abortConflict_latent (s : State) :
    (abortConflict s).latent = s.latent := rfl
@[simp] theorem abortConflict_history (s : State) :
    (abortConflict s).history = s.history := rfl
@[simp] theorem abortConflict_tlb (s : State) :
    (abortConflict s).tlb = s.tlb := rfl
@[simp] theorem abortConflict_ctxs (s : State) :
    (abortConflict s).ctxs = s.ctxs := rfl
@[simp] theorem abortConflict_parts (s : State) :
    (abortConflict s).parts = s.parts := rfl
@[simp] theorem abortConflict_grids (s : State) :
    (abortConflict s).grids = s.grids := rfl
@[simp] theorem abortConflict_squads (s : State) :
    (abortConflict s).squads = s.squads := rfl
@[simp] theorem abortConflict_teams (s : State) :
    (abortConflict s).teams = s.teams := rfl
@[simp] theorem abortConflict_saved (s : State) :
    (abortConflict s).saved = s.saved := rfl
@[simp] theorem abortConflict_cksaves (s : State) :
    (abortConflict s).cksaves = s.cksaves := rfl
@[simp] theorem abortConflict_lranges (s : State) :
    (abortConflict s).lranges = s.lranges := rfl
@[simp] theorem abortConflict_streams (s : State) :
    (abortConflict s).streams = s.streams := rfl
@[simp] theorem abortConflict_subs (s : State) :
    (abortConflict s).subs = s.subs := rfl
@[simp] theorem abortConflict_mops (s : State) :
    (abortConflict s).mops = s.mops := rfl
@[simp] theorem abortConflict_cloaks (s : State) :
    (abortConflict s).cloaks = s.cloaks := rfl
@[simp] theorem abortConflict_clkcfg (s : State) :
    (abortConflict s).clkcfg = s.clkcfg := rfl
@[simp] theorem abortConflict_ops (s : State) :
    (abortConflict s).ops = s.ops := rfl
@[simp] theorem abortConflict_pages (s : State) :
    (abortConflict s).pages = s.pages := rfl
@[simp] theorem abortConflict_wicket (s : State) :
    (abortConflict s).wicket = s.wicket.afterAbort s.me.conflict := rfl
@[simp] theorem abortConflict_dev (s : State) :
    (abortConflict s).dev = s.dev := rfl
@[simp] theorem abortConflict_outb (s : State) :
    (abortConflict s).outb = s.outb := rfl
@[simp] theorem abortConflict_landed (s : State) :
    (abortConflict s).landed = s.landed := rfl
@[simp] theorem abortConflict_routing (s : State) :
    (abortConflict s).routing = s.routing := rfl
@[simp] theorem abortConflict_silent (s : State) :
    (abortConflict s).silent = s.silent := rfl
@[simp] theorem abortConflict_injectors (s : State) :
    (abortConflict s).injectors = s.injectors := rfl
@[simp] theorem abortConflict_refresh (s : State) :
    (abortConflict s).refresh = s.refresh := rfl
@[simp] theorem abortConflict_stretched (s : State) :
    (abortConflict s).stretched = s.stretched := rfl
@[simp] theorem abortConflict_escapes (s : State) :
    (abortConflict s).escapes = s.escapes := rfl
@[simp] theorem abortConflict_msix (s : State) :
    (abortConflict s).msix = s.msix := rfl
@[simp] theorem abortConflict_endpoint (s : State) :
    (abortConflict s).endpoint = s.endpoint := rfl
@[simp] theorem abortConflict_clocks (s : State) :
    (abortConflict s).clocks = s.clocks := rfl
@[simp] theorem abortConflict_pkg (s : State) :
    (abortConflict s).pkg = s.pkg := rfl
@[simp] theorem abortConflict_pkgs (s : State) :
    (abortConflict s).pkgs = s.pkgs := rfl
@[simp] theorem abortConflict_nextOp (s : State) :
    (abortConflict s).nextOp = s.nextOp := rfl
@[simp] theorem abortConflict_nextUid (s : State) :
    (abortConflict s).nextUid = s.nextUid := rfl
@[simp] theorem abortConflict_free (s : State) :
    (abortConflict s).free = s.free := rfl

@[simp] theorem latch_others (a : Word) (d : Decoded) (s : State) :
    (latch a d s).others = s.others := by unfold latch spendCode; dsimp only; split <;> rfl
@[simp] theorem latch_agenda (a : Word) (d : Decoded) (s : State) :
    (latch a d s).agenda = s.agenda := by unfold latch spendCode; dsimp only; split <;> rfl
@[simp] theorem latch_lane (a : Word) (d : Decoded) (s : State) :
    (latch a d s).lane = s.lane := by unfold latch spendCode; dsimp only; split <;> rfl
@[simp] theorem latch_mem (a : Word) (d : Decoded) (s : State) :
    (latch a d s).mem = s.mem := by unfold latch spendCode; dsimp only; split <;> rfl
@[simp] theorem latch_pend (a : Word) (d : Decoded) (s : State) :
    (latch a d s).pend = s.pend := by unfold latch spendCode; dsimp only; split <;> rfl
@[simp] theorem latch_tags (a : Word) (d : Decoded) (s : State) :
    (latch a d s).tags = s.tags := by unfold latch spendCode; dsimp only; split <;> rfl
@[simp] theorem latch_lineMeta (a : Word) (d : Decoded) (s : State) :
    (latch a d s).lineMeta = s.lineMeta := by unfold latch spendCode; dsimp only; split <;> rfl
@[simp] theorem latch_poison (a : Word) (d : Decoded) (s : State) :
    (latch a d s).poison = s.poison := by unfold latch spendCode; dsimp only; split <;> rfl
@[simp] theorem latch_latent (a : Word) (d : Decoded) (s : State) :
    (latch a d s).latent = s.latent := by unfold latch spendCode; dsimp only; split <;> rfl
@[simp] theorem latch_history (a : Word) (d : Decoded) (s : State) :
    (latch a d s).history = s.history := by unfold latch spendCode; dsimp only; split <;> rfl
@[simp] theorem latch_tlb (a : Word) (d : Decoded) (s : State) :
    (latch a d s).tlb = s.tlb := by unfold latch spendCode; dsimp only; split <;> rfl
@[simp] theorem latch_ctxs (a : Word) (d : Decoded) (s : State) :
    (latch a d s).ctxs = s.ctxs := by unfold latch spendCode; dsimp only; split <;> rfl
@[simp] theorem latch_parts (a : Word) (d : Decoded) (s : State) :
    (latch a d s).parts = s.parts := by unfold latch spendCode; dsimp only; split <;> rfl
@[simp] theorem latch_grids (a : Word) (d : Decoded) (s : State) :
    (latch a d s).grids = s.grids := by unfold latch spendCode; dsimp only; split <;> rfl
@[simp] theorem latch_squads (a : Word) (d : Decoded) (s : State) :
    (latch a d s).squads = s.squads := by unfold latch spendCode; dsimp only; split <;> rfl
@[simp] theorem latch_teams (a : Word) (d : Decoded) (s : State) :
    (latch a d s).teams = s.teams := by unfold latch spendCode; dsimp only; split <;> rfl
@[simp] theorem latch_saved (a : Word) (d : Decoded) (s : State) :
    (latch a d s).saved = s.saved := by unfold latch spendCode; dsimp only; split <;> rfl
@[simp] theorem latch_cksaves (a : Word) (d : Decoded) (s : State) :
    (latch a d s).cksaves = s.cksaves := by unfold latch spendCode; dsimp only; split <;> rfl
@[simp] theorem latch_lranges (a : Word) (d : Decoded) (s : State) :
    (latch a d s).lranges = s.lranges := by unfold latch spendCode; dsimp only; split <;> rfl
@[simp] theorem latch_streams (a : Word) (d : Decoded) (s : State) :
    (latch a d s).streams = s.streams := by unfold latch spendCode; dsimp only; split <;> rfl
@[simp] theorem latch_subs (a : Word) (d : Decoded) (s : State) :
    (latch a d s).subs = s.subs := by unfold latch spendCode; dsimp only; split <;> rfl
@[simp] theorem latch_mops (a : Word) (d : Decoded) (s : State) :
    (latch a d s).mops = s.mops := by unfold latch spendCode; dsimp only; split <;> rfl
@[simp] theorem latch_cloaks (a : Word) (d : Decoded) (s : State) :
    (latch a d s).cloaks = s.cloaks := by unfold latch spendCode; dsimp only; split <;> rfl
@[simp] theorem latch_clkcfg (a : Word) (d : Decoded) (s : State) :
    (latch a d s).clkcfg = s.clkcfg := by unfold latch spendCode; dsimp only; split <;> rfl
@[simp] theorem latch_ops (a : Word) (d : Decoded) (s : State) :
    (latch a d s).ops = s.ops := by unfold latch spendCode; dsimp only; split <;> rfl
@[simp] theorem latch_pages (a : Word) (d : Decoded) (s : State) :
    (latch a d s).pages = s.pages := by unfold latch spendCode; dsimp only; split <;> rfl
@[simp] theorem latch_wicket (a : Word) (d : Decoded) (s : State) :
    (latch a d s).wicket = s.wicket := by unfold latch spendCode; dsimp only; split <;> rfl
@[simp] theorem latch_dev (a : Word) (d : Decoded) (s : State) :
    (latch a d s).dev = s.dev := by unfold latch spendCode; dsimp only; split <;> rfl
@[simp] theorem latch_landed (a : Word) (d : Decoded) (s : State) :
    (latch a d s).landed = s.landed := by unfold latch spendCode; dsimp only; split <;> rfl
@[simp] theorem latch_routing (a : Word) (d : Decoded) (s : State) :
    (latch a d s).routing = s.routing := by unfold latch spendCode; dsimp only; split <;> rfl
@[simp] theorem latch_silent (a : Word) (d : Decoded) (s : State) :
    (latch a d s).silent = s.silent := by unfold latch spendCode; dsimp only; split <;> rfl
@[simp] theorem latch_injectors (a : Word) (d : Decoded) (s : State) :
    (latch a d s).injectors = s.injectors := by unfold latch spendCode; dsimp only; split <;> rfl
@[simp] theorem latch_refresh (a : Word) (d : Decoded) (s : State) :
    (latch a d s).refresh = s.refresh := by unfold latch spendCode; dsimp only; split <;> rfl
@[simp] theorem latch_stretched (a : Word) (d : Decoded) (s : State) :
    (latch a d s).stretched = s.stretched := by unfold latch spendCode; dsimp only; split <;> rfl
@[simp] theorem latch_escapes (a : Word) (d : Decoded) (s : State) :
    (latch a d s).escapes = s.escapes := by unfold latch spendCode; dsimp only; split <;> rfl
@[simp] theorem latch_msix (a : Word) (d : Decoded) (s : State) :
    (latch a d s).msix = s.msix := by unfold latch spendCode; dsimp only; split <;> rfl
@[simp] theorem latch_endpoint (a : Word) (d : Decoded) (s : State) :
    (latch a d s).endpoint = s.endpoint := by unfold latch spendCode; dsimp only; split <;> rfl
@[simp] theorem latch_clocks (a : Word) (d : Decoded) (s : State) :
    (latch a d s).clocks = s.clocks := by unfold latch spendCode; dsimp only; split <;> rfl
@[simp] theorem latch_pkg (a : Word) (d : Decoded) (s : State) :
    (latch a d s).pkg = s.pkg := by unfold latch spendCode; dsimp only; split <;> rfl
@[simp] theorem latch_pkgs (a : Word) (d : Decoded) (s : State) :
    (latch a d s).pkgs = s.pkgs := by unfold latch spendCode; dsimp only; split <;> rfl
@[simp] theorem latch_nextOp (a : Word) (d : Decoded) (s : State) :
    (latch a d s).nextOp = s.nextOp := by unfold latch spendCode; dsimp only; split <;> rfl
@[simp] theorem latch_nextUid (a : Word) (d : Decoded) (s : State) :
    (latch a d s).nextUid = s.nextUid := by unfold latch spendCode; dsimp only; split <;> rfl
@[simp] theorem latch_free (a : Word) (d : Decoded) (s : State) :
    (latch a d s).free = s.free := by unfold latch spendCode; dsimp only; split <;> rfl

@[simp] theorem latchClause_me (x : Frag) (h : Header) (s : State) :
    (latchClause x h s).me = s.me := rfl
@[simp] theorem latchClause_others (x : Frag) (h : Header) (s : State) :
    (latchClause x h s).others = s.others := rfl
@[simp] theorem latchClause_agenda (x : Frag) (h : Header) (s : State) :
    (latchClause x h s).agenda = s.agenda := rfl
@[simp] theorem latchClause_lane (x : Frag) (h : Header) (s : State) :
    (latchClause x h s).lane = s.lane := rfl
@[simp] theorem latchClause_issue (x : Frag) (h : Header) (s : State) :
    (latchClause x h s).issue = { s.issue with pc := slotAddr s x.pc, next := BitVec.ofNat 64 x.age, hdr := h } := rfl
@[simp] theorem latchClause_mem (x : Frag) (h : Header) (s : State) :
    (latchClause x h s).mem = s.mem := rfl
@[simp] theorem latchClause_pend (x : Frag) (h : Header) (s : State) :
    (latchClause x h s).pend = s.pend := rfl
@[simp] theorem latchClause_tags (x : Frag) (h : Header) (s : State) :
    (latchClause x h s).tags = s.tags := rfl
@[simp] theorem latchClause_lineMeta (x : Frag) (h : Header) (s : State) :
    (latchClause x h s).lineMeta = s.lineMeta := rfl
@[simp] theorem latchClause_poison (x : Frag) (h : Header) (s : State) :
    (latchClause x h s).poison = s.poison := rfl
@[simp] theorem latchClause_latent (x : Frag) (h : Header) (s : State) :
    (latchClause x h s).latent = s.latent := rfl
@[simp] theorem latchClause_history (x : Frag) (h : Header) (s : State) :
    (latchClause x h s).history = s.history := rfl
@[simp] theorem latchClause_tlb (x : Frag) (h : Header) (s : State) :
    (latchClause x h s).tlb = s.tlb := rfl
@[simp] theorem latchClause_ctxs (x : Frag) (h : Header) (s : State) :
    (latchClause x h s).ctxs = s.ctxs := rfl
@[simp] theorem latchClause_parts (x : Frag) (h : Header) (s : State) :
    (latchClause x h s).parts = s.parts := rfl
@[simp] theorem latchClause_grids (x : Frag) (h : Header) (s : State) :
    (latchClause x h s).grids = s.grids := rfl
@[simp] theorem latchClause_squads (x : Frag) (h : Header) (s : State) :
    (latchClause x h s).squads = s.squads := rfl
@[simp] theorem latchClause_teams (x : Frag) (h : Header) (s : State) :
    (latchClause x h s).teams = s.teams := rfl
@[simp] theorem latchClause_saved (x : Frag) (h : Header) (s : State) :
    (latchClause x h s).saved = s.saved := rfl
@[simp] theorem latchClause_cksaves (x : Frag) (h : Header) (s : State) :
    (latchClause x h s).cksaves = s.cksaves := rfl
@[simp] theorem latchClause_lranges (x : Frag) (h : Header) (s : State) :
    (latchClause x h s).lranges = s.lranges := rfl
@[simp] theorem latchClause_streams (x : Frag) (h : Header) (s : State) :
    (latchClause x h s).streams = s.streams := rfl
@[simp] theorem latchClause_subs (x : Frag) (h : Header) (s : State) :
    (latchClause x h s).subs = s.subs := rfl
@[simp] theorem latchClause_mops (x : Frag) (h : Header) (s : State) :
    (latchClause x h s).mops = s.mops := rfl
@[simp] theorem latchClause_cloaks (x : Frag) (h : Header) (s : State) :
    (latchClause x h s).cloaks = s.cloaks := rfl
@[simp] theorem latchClause_clkcfg (x : Frag) (h : Header) (s : State) :
    (latchClause x h s).clkcfg = s.clkcfg := rfl
@[simp] theorem latchClause_ops (x : Frag) (h : Header) (s : State) :
    (latchClause x h s).ops = s.ops := rfl
@[simp] theorem latchClause_pages (x : Frag) (h : Header) (s : State) :
    (latchClause x h s).pages = s.pages := rfl
@[simp] theorem latchClause_wicket (x : Frag) (h : Header) (s : State) :
    (latchClause x h s).wicket = s.wicket := rfl
@[simp] theorem latchClause_dev (x : Frag) (h : Header) (s : State) :
    (latchClause x h s).dev = s.dev := rfl
@[simp] theorem latchClause_outb (x : Frag) (h : Header) (s : State) :
    (latchClause x h s).outb = s.outb := rfl
@[simp] theorem latchClause_landed (x : Frag) (h : Header) (s : State) :
    (latchClause x h s).landed = s.landed := rfl
@[simp] theorem latchClause_routing (x : Frag) (h : Header) (s : State) :
    (latchClause x h s).routing = s.routing := rfl
@[simp] theorem latchClause_silent (x : Frag) (h : Header) (s : State) :
    (latchClause x h s).silent = s.silent := rfl
@[simp] theorem latchClause_injectors (x : Frag) (h : Header) (s : State) :
    (latchClause x h s).injectors = s.injectors := rfl
@[simp] theorem latchClause_refresh (x : Frag) (h : Header) (s : State) :
    (latchClause x h s).refresh = s.refresh := rfl
@[simp] theorem latchClause_stretched (x : Frag) (h : Header) (s : State) :
    (latchClause x h s).stretched = s.stretched := rfl
@[simp] theorem latchClause_escapes (x : Frag) (h : Header) (s : State) :
    (latchClause x h s).escapes = s.escapes := rfl
@[simp] theorem latchClause_msix (x : Frag) (h : Header) (s : State) :
    (latchClause x h s).msix = s.msix := rfl
@[simp] theorem latchClause_endpoint (x : Frag) (h : Header) (s : State) :
    (latchClause x h s).endpoint = s.endpoint := rfl
@[simp] theorem latchClause_clocks (x : Frag) (h : Header) (s : State) :
    (latchClause x h s).clocks = s.clocks := rfl
@[simp] theorem latchClause_pkg (x : Frag) (h : Header) (s : State) :
    (latchClause x h s).pkg = s.pkg := rfl
@[simp] theorem latchClause_pkgs (x : Frag) (h : Header) (s : State) :
    (latchClause x h s).pkgs = s.pkgs := rfl
@[simp] theorem latchClause_nextOp (x : Frag) (h : Header) (s : State) :
    (latchClause x h s).nextOp = s.nextOp := rfl
@[simp] theorem latchClause_nextUid (x : Frag) (h : Header) (s : State) :
    (latchClause x h s).nextUid = s.nextUid := rfl
@[simp] theorem latchClause_free (x : Frag) (h : Header) (s : State) :
    (latchClause x h s).free = s.free := rfl

/-! ## Updates of runners -/

@[simp] theorem hostTrap_id (c : Nat) (a p : Word) (r : Runner) :
    (hostTrap c a p r).id = r.id := rfl
@[simp] theorem hostTrap_s (c : Nat) (a p : Word) (r : Runner) :
    (hostTrap c a p r).s = r.s := rfl
@[simp] theorem hostTrap_xb (c : Nat) (a p : Word) (r : Runner) :
    (hostTrap c a p r).xb = r.xb := rfl
@[simp] theorem hostTrap_pc (c : Nat) (a p : Word) (r : Runner) :
    (hostTrap c a p r).pc = r.tvec := rfl
@[simp] theorem hostTrap_status (c : Nat) (a p : Word) (r : Runner) :
    (hostTrap c a p r).status = trapStatus true false r.status := rfl
@[simp] theorem hostTrap_epc (c : Nat) (a p : Word) (r : Runner) :
    (hostTrap c a p r).epc = p := rfl
@[simp] theorem hostTrap_faultaddr (c : Nat) (a p : Word) (r : Runner) :
    (hostTrap c a p r).faultaddr = a := rfl
@[simp] theorem hostTrap_sscr0 (c : Nat) (a p : Word) (r : Runner) :
    (hostTrap c a p r).sscr0 = r.sscr0 := rfl
@[simp] theorem hostTrap_sscr1 (c : Nat) (a p : Word) (r : Runner) :
    (hostTrap c a p r).sscr1 = r.sscr1 := rfl
@[simp] theorem hostTrap_txretry (c : Nat) (a p : Word) (r : Runner) :
    (hostTrap c a p r).txretry = r.txretry := rfl
@[simp] theorem hostTrap_tvec (c : Nat) (a p : Word) (r : Runner) :
    (hostTrap c a p r).tvec = r.tvec := rfl
@[simp] theorem hostTrap_slsel (c : Nat) (a p : Word) (r : Runner) :
    (hostTrap c a p r).slsel = r.slsel := rfl
@[simp] theorem hostTrap_ctx (c : Nat) (a p : Word) (r : Runner) :
    (hostTrap c a p r).ctx = r.ctx := rfl
@[simp] theorem hostTrap_part (c : Nat) (a p : Word) (r : Runner) :
    (hostTrap c a p r).part = r.part := rfl
@[simp] theorem hostTrap_core (c : Nat) (a p : Word) (r : Runner) :
    (hostTrap c a p r).core = r.core := rfl
@[simp] theorem hostTrap_slot (c : Nat) (a p : Word) (r : Runner) :
    (hostTrap c a p r).slot = r.slot := rfl
@[simp] theorem hostTrap_ints (c : Nat) (a p : Word) (r : Runner) :
    (hostTrap c a p r).ints = r.ints := rfl
@[simp] theorem hostTrap_sealed (c : Nat) (a p : Word) (r : Runner) :
    (hostTrap c a p r).sealed = r.sealed := rfl
@[simp] theorem hostTrap_openOps (c : Nat) (a p : Word) (r : Runner) :
    (hostTrap c a p r).openOps = r.openOps := rfl
@[simp] theorem hostTrap_openMark (c : Nat) (a p : Word) (r : Runner) :
    (hostTrap c a p r).openMark = r.openMark := rfl
@[simp] theorem hostTrap_batches (c : Nat) (a p : Word) (r : Runner) :
    (hostTrap c a p r).batches = r.batches := rfl
@[simp] theorem hostTrap_tx (c : Nat) (a p : Word) (r : Runner) :
    (hostTrap c a p r).tx = r.tx := rfl
@[simp] theorem hostTrap_lastTx (c : Nat) (a p : Word) (r : Runner) :
    (hostTrap c a p r).lastTx = r.lastTx := rfl
@[simp] theorem hostTrap_lastCommit (c : Nat) (a p : Word) (r : Runner) :
    (hostTrap c a p r).lastCommit = r.lastCommit := rfl
@[simp] theorem hostTrap_wait (c : Nat) (a p : Word) (r : Runner) :
    (hostTrap c a p r).wait = .none := rfl
@[simp] theorem hostTrap_grid (c : Nat) (a p : Word) (r : Runner) :
    (hostTrap c a p r).grid = r.grid := rfl
@[simp] theorem hostTrap_team (c : Nat) (a p : Word) (r : Runner) :
    (hostTrap c a p r).team = r.team := rfl
@[simp] theorem hostTrap_gno (c : Nat) (a p : Word) (r : Runner) :
    (hostTrap c a p r).gno = r.gno := rfl
@[simp] theorem hostTrap_placed (c : Nat) (a p : Word) (r : Runner) :
    (hostTrap c a p r).placed = r.placed := rfl
@[simp] theorem hostTrap_ownCore (c : Nat) (a p : Word) (r : Runner) :
    (hostTrap c a p r).ownCore = r.ownCore := rfl
@[simp] theorem hostTrap_ownSlot (c : Nat) (a p : Word) (r : Runner) :
    (hostTrap c a p r).ownSlot = r.ownSlot := rfl
@[simp] theorem hostTrap_entry (c : Nat) (a p : Word) (r : Runner) :
    (hostTrap c a p r).entry = r.entry := rfl
@[simp] theorem hostTrap_asserted (c : Nat) (a p : Word) (r : Runner) :
    (hostTrap c a p r).asserted = r.asserted := rfl
@[simp] theorem hostTrap_code (c : Nat) (a p : Word) (r : Runner) :
    (hostTrap c a p r).code = r.code := rfl
@[simp] theorem hostTrap_upset (c : Nat) (a p : Word) (r : Runner) :
    (hostTrap c a p r).upset = r.upset := rfl
@[simp] theorem hostTrap_txHeld (c : Nat) (a p : Word) (r : Runner) :
    (hostTrap c a p r).txHeld = r.txHeld := rfl
@[simp] theorem hostTrap_l (c : Nat) (a p : Word) (r : Runner) :
    (hostTrap c a p r).l = r.l := rfl

@[simp] theorem enter_id (b : Bool) (c : Nat) (a p v : Word) (vc : List (Nat × Nat × Word)) (f : Mask) (k : BitVec 22) (r : Runner) :
    (r.enter b c a p v vc f k).id = r.id := rfl
@[simp] theorem enter_s (b : Bool) (c : Nat) (a p v : Word) (vc : List (Nat × Nat × Word)) (f : Mask) (k : BitVec 22) (r : Runner) :
    (r.enter b c a p v vc f k).s = r.s := rfl
@[simp] theorem enter_xb (b : Bool) (c : Nat) (a p v : Word) (vc : List (Nat × Nat × Word)) (f : Mask) (k : BitVec 22) (r : Runner) :
    (r.enter b c a p v vc f k).xb = r.xb := rfl
@[simp] theorem enter_pc (b : Bool) (c : Nat) (a p v : Word) (vc : List (Nat × Nat × Word)) (f : Mask) (k : BitVec 22) (r : Runner) :
    (r.enter b c a p v vc f k).pc = v := rfl
@[simp] theorem enter_status (b : Bool) (c : Nat) (a p v : Word) (vc : List (Nat × Nat × Word)) (f : Mask) (k : BitVec 22) (r : Runner) :
    (r.enter b c a p v vc f k).status = trapStatus false b r.status := rfl
@[simp] theorem enter_cause (b : Bool) (c : Nat) (a p v : Word) (vc : List (Nat × Nat × Word)) (f : Mask) (k : BitVec 22) (r : Runner) :
    (r.enter b c a p v vc f k).cause = BitVec.ofNat 8 c := rfl
@[simp] theorem enter_epc (b : Bool) (c : Nat) (a p v : Word) (vc : List (Nat × Nat × Word)) (f : Mask) (k : BitVec 22) (r : Runner) :
    (r.enter b c a p v vc f k).epc = p := rfl
@[simp] theorem enter_faultaddr (b : Bool) (c : Nat) (a p v : Word) (vc : List (Nat × Nat × Word)) (f : Mask) (k : BitVec 22) (r : Runner) :
    (r.enter b c a p v vc f k).faultaddr = a := rfl
@[simp] theorem enter_sscr0 (b : Bool) (c : Nat) (a p v : Word) (vc : List (Nat × Nat × Word)) (f : Mask) (k : BitVec 22) (r : Runner) :
    (r.enter b c a p v vc f k).sscr0 = r.sscr0 := rfl
@[simp] theorem enter_sscr1 (b : Bool) (c : Nat) (a p v : Word) (vc : List (Nat × Nat × Word)) (f : Mask) (k : BitVec 22) (r : Runner) :
    (r.enter b c a p v vc f k).sscr1 = r.sscr1 := rfl
@[simp] theorem enter_txretry (b : Bool) (c : Nat) (a p v : Word) (vc : List (Nat × Nat × Word)) (f : Mask) (k : BitVec 22) (r : Runner) :
    (r.enter b c a p v vc f k).txretry = r.txretry := rfl
@[simp] theorem enter_tvec (b : Bool) (c : Nat) (a p v : Word) (vc : List (Nat × Nat × Word)) (f : Mask) (k : BitVec 22) (r : Runner) :
    (r.enter b c a p v vc f k).tvec = r.tvec := rfl
@[simp] theorem enter_slsel (b : Bool) (c : Nat) (a p v : Word) (vc : List (Nat × Nat × Word)) (f : Mask) (k : BitVec 22) (r : Runner) :
    (r.enter b c a p v vc f k).slsel = r.slsel := rfl
@[simp] theorem enter_ctx (b : Bool) (c : Nat) (a p v : Word) (vc : List (Nat × Nat × Word)) (f : Mask) (k : BitVec 22) (r : Runner) :
    (r.enter b c a p v vc f k).ctx = r.ctx := rfl
@[simp] theorem enter_part (b : Bool) (c : Nat) (a p v : Word) (vc : List (Nat × Nat × Word)) (f : Mask) (k : BitVec 22) (r : Runner) :
    (r.enter b c a p v vc f k).part = r.part := rfl
@[simp] theorem enter_core (b : Bool) (c : Nat) (a p v : Word) (vc : List (Nat × Nat × Word)) (f : Mask) (k : BitVec 22) (r : Runner) :
    (r.enter b c a p v vc f k).core = r.core := rfl
@[simp] theorem enter_slot (b : Bool) (c : Nat) (a p v : Word) (vc : List (Nat × Nat × Word)) (f : Mask) (k : BitVec 22) (r : Runner) :
    (r.enter b c a p v vc f k).slot = r.slot := rfl
@[simp] theorem enter_stopped (b : Bool) (c : Nat) (a p v : Word) (vc : List (Nat × Nat × Word)) (f : Mask) (k : BitVec 22) (r : Runner) :
    (r.enter b c a p v vc f k).stopped = r.stopped := rfl
@[simp] theorem enter_ints (b : Bool) (c : Nat) (a p v : Word) (vc : List (Nat × Nat × Word)) (f : Mask) (k : BitVec 22) (r : Runner) :
    (r.enter b c a p v vc f k).ints = r.ints := rfl
@[simp] theorem enter_sealed (b : Bool) (c : Nat) (a p v : Word) (vc : List (Nat × Nat × Word)) (f : Mask) (k : BitVec 22) (r : Runner) :
    (r.enter b c a p v vc f k).sealed = r.sealed := rfl
@[simp] theorem enter_openOps (b : Bool) (c : Nat) (a p v : Word) (vc : List (Nat × Nat × Word)) (f : Mask) (k : BitVec 22) (r : Runner) :
    (r.enter b c a p v vc f k).openOps = r.openOps := rfl
@[simp] theorem enter_openMark (b : Bool) (c : Nat) (a p v : Word) (vc : List (Nat × Nat × Word)) (f : Mask) (k : BitVec 22) (r : Runner) :
    (r.enter b c a p v vc f k).openMark = r.openMark := rfl
@[simp] theorem enter_batches (b : Bool) (c : Nat) (a p v : Word) (vc : List (Nat × Nat × Word)) (f : Mask) (k : BitVec 22) (r : Runner) :
    (r.enter b c a p v vc f k).batches = r.batches := rfl
@[simp] theorem enter_tx (b : Bool) (c : Nat) (a p v : Word) (vc : List (Nat × Nat × Word)) (f : Mask) (k : BitVec 22) (r : Runner) :
    (r.enter b c a p v vc f k).tx = r.tx := rfl
@[simp] theorem enter_lastTx (b : Bool) (c : Nat) (a p v : Word) (vc : List (Nat × Nat × Word)) (f : Mask) (k : BitVec 22) (r : Runner) :
    (r.enter b c a p v vc f k).lastTx = r.lastTx := rfl
@[simp] theorem enter_lastCommit (b : Bool) (c : Nat) (a p v : Word) (vc : List (Nat × Nat × Word)) (f : Mask) (k : BitVec 22) (r : Runner) :
    (r.enter b c a p v vc f k).lastCommit = r.lastCommit := rfl
@[simp] theorem enter_wait (b : Bool) (c : Nat) (a p v : Word) (vc : List (Nat × Nat × Word)) (f : Mask) (k : BitVec 22) (r : Runner) :
    (r.enter b c a p v vc f k).wait = .none := rfl
@[simp] theorem enter_grid (b : Bool) (c : Nat) (a p v : Word) (vc : List (Nat × Nat × Word)) (f : Mask) (k : BitVec 22) (r : Runner) :
    (r.enter b c a p v vc f k).grid = r.grid := rfl
@[simp] theorem enter_team (b : Bool) (c : Nat) (a p v : Word) (vc : List (Nat × Nat × Word)) (f : Mask) (k : BitVec 22) (r : Runner) :
    (r.enter b c a p v vc f k).team = r.team := rfl
@[simp] theorem enter_gno (b : Bool) (c : Nat) (a p v : Word) (vc : List (Nat × Nat × Word)) (f : Mask) (k : BitVec 22) (r : Runner) :
    (r.enter b c a p v vc f k).gno = r.gno := rfl
@[simp] theorem enter_placed (b : Bool) (c : Nat) (a p v : Word) (vc : List (Nat × Nat × Word)) (f : Mask) (k : BitVec 22) (r : Runner) :
    (r.enter b c a p v vc f k).placed = r.placed := rfl
@[simp] theorem enter_ownCore (b : Bool) (c : Nat) (a p v : Word) (vc : List (Nat × Nat × Word)) (f : Mask) (k : BitVec 22) (r : Runner) :
    (r.enter b c a p v vc f k).ownCore = r.ownCore := rfl
@[simp] theorem enter_ownSlot (b : Bool) (c : Nat) (a p v : Word) (vc : List (Nat × Nat × Word)) (f : Mask) (k : BitVec 22) (r : Runner) :
    (r.enter b c a p v vc f k).ownSlot = r.ownSlot := rfl
@[simp] theorem enter_entry (b : Bool) (c : Nat) (a p v : Word) (vc : List (Nat × Nat × Word)) (f : Mask) (k : BitVec 22) (r : Runner) :
    (r.enter b c a p v vc f k).entry = false := rfl
@[simp] theorem enter_asserted (b : Bool) (c : Nat) (a p v : Word) (vc : List (Nat × Nat × Word)) (f : Mask) (k : BitVec 22) (r : Runner) :
    (r.enter b c a p v vc f k).asserted = r.asserted := rfl
@[simp] theorem enter_code (b : Bool) (c : Nat) (a p v : Word) (vc : List (Nat × Nat × Word)) (f : Mask) (k : BitVec 22) (r : Runner) :
    (r.enter b c a p v vc f k).code = r.code := rfl
@[simp] theorem enter_upset (b : Bool) (c : Nat) (a p v : Word) (vc : List (Nat × Nat × Word)) (f : Mask) (k : BitVec 22) (r : Runner) :
    (r.enter b c a p v vc f k).upset = r.upset := rfl
@[simp] theorem enter_txHeld (b : Bool) (c : Nat) (a p v : Word) (vc : List (Nat × Nat × Word)) (f : Mask) (k : BitVec 22) (r : Runner) :
    (r.enter b c a p v vc f k).txHeld = r.txHeld := rfl

@[simp] theorem hostReturn_id (r : Runner) :
    (hostReturn r).id = r.id := by unfold hostReturn Runner.takeBack; dsimp only; split <;> (try split) <;> rfl
@[simp] theorem hostReturn_s (r : Runner) :
    (hostReturn r).s = r.s := by unfold hostReturn Runner.takeBack; dsimp only; split <;> (try split) <;> rfl
@[simp] theorem hostReturn_xb (r : Runner) :
    (hostReturn r).xb = r.xb := by unfold hostReturn Runner.takeBack; dsimp only; split <;> (try split) <;> rfl
@[simp] theorem hostReturn_pc (r : Runner) :
    (hostReturn r).pc = r.epc := by unfold hostReturn Runner.takeBack; dsimp only; split <;> (try split) <;> rfl
@[simp] theorem hostReturn_status (r : Runner) :
    (hostReturn r).status = returnStatus true r.status := by unfold hostReturn Runner.takeBack; dsimp only; split <;> (try split) <;> rfl
@[simp] theorem hostReturn_cause (r : Runner) :
    (hostReturn r).cause = r.cause := by unfold hostReturn Runner.takeBack; dsimp only; split <;> (try split) <;> rfl
@[simp] theorem hostReturn_epc (r : Runner) :
    (hostReturn r).epc = r.epc := by unfold hostReturn Runner.takeBack; dsimp only; split <;> (try split) <;> rfl
@[simp] theorem hostReturn_faultaddr (r : Runner) :
    (hostReturn r).faultaddr = r.faultaddr := by unfold hostReturn Runner.takeBack; dsimp only; split <;> (try split) <;> rfl
@[simp] theorem hostReturn_sscr0 (r : Runner) :
    (hostReturn r).sscr0 = r.sscr0 := by unfold hostReturn Runner.takeBack; dsimp only; split <;> (try split) <;> rfl
@[simp] theorem hostReturn_sscr1 (r : Runner) :
    (hostReturn r).sscr1 = r.sscr1 := by unfold hostReturn Runner.takeBack; dsimp only; split <;> (try split) <;> rfl
@[simp] theorem hostReturn_txretry (r : Runner) :
    (hostReturn r).txretry = r.txretry := by unfold hostReturn Runner.takeBack; dsimp only; split <;> (try split) <;> rfl
@[simp] theorem hostReturn_tvec (r : Runner) :
    (hostReturn r).tvec = r.tvec := by unfold hostReturn Runner.takeBack; dsimp only; split <;> (try split) <;> rfl
@[simp] theorem hostReturn_slsel (r : Runner) :
    (hostReturn r).slsel = r.slsel := by unfold hostReturn Runner.takeBack; dsimp only; split <;> (try split) <;> rfl
@[simp] theorem hostReturn_ctx (r : Runner) :
    (hostReturn r).ctx = r.ctx := by unfold hostReturn Runner.takeBack; dsimp only; split <;> (try split) <;> rfl
@[simp] theorem hostReturn_part (r : Runner) :
    (hostReturn r).part = r.part := by unfold hostReturn Runner.takeBack; dsimp only; split <;> (try split) <;> rfl
@[simp] theorem hostReturn_core (r : Runner) :
    (hostReturn r).core = r.core := by unfold hostReturn Runner.takeBack; dsimp only; split <;> (try split) <;> rfl
@[simp] theorem hostReturn_slot (r : Runner) :
    (hostReturn r).slot = r.slot := by unfold hostReturn Runner.takeBack; dsimp only; split <;> (try split) <;> rfl
@[simp] theorem hostReturn_stopped (r : Runner) :
    (hostReturn r).stopped = r.stopped := by unfold hostReturn Runner.takeBack; dsimp only; split <;> (try split) <;> rfl
@[simp] theorem hostReturn_ints (r : Runner) :
    (hostReturn r).ints = r.ints := by unfold hostReturn Runner.takeBack; dsimp only; split <;> (try split) <;> rfl
@[simp] theorem hostReturn_sealed (r : Runner) :
    (hostReturn r).sealed = r.sealed := by unfold hostReturn Runner.takeBack; dsimp only; split <;> (try split) <;> rfl
@[simp] theorem hostReturn_openOps (r : Runner) :
    (hostReturn r).openOps = r.openOps := by unfold hostReturn Runner.takeBack; dsimp only; split <;> (try split) <;> rfl
@[simp] theorem hostReturn_openMark (r : Runner) :
    (hostReturn r).openMark = r.openMark := by unfold hostReturn Runner.takeBack; dsimp only; split <;> (try split) <;> rfl
@[simp] theorem hostReturn_batches (r : Runner) :
    (hostReturn r).batches = r.batches := by unfold hostReturn Runner.takeBack; dsimp only; split <;> (try split) <;> rfl
@[simp] theorem hostReturn_lastTx (r : Runner) :
    (hostReturn r).lastTx = r.lastTx := by unfold hostReturn Runner.takeBack; dsimp only; split <;> (try split) <;> rfl
@[simp] theorem hostReturn_lastCommit (r : Runner) :
    (hostReturn r).lastCommit = r.lastCommit := by unfold hostReturn Runner.takeBack; dsimp only; split <;> (try split) <;> rfl
@[simp] theorem hostReturn_wait (r : Runner) :
    (hostReturn r).wait = r.wait := by unfold hostReturn Runner.takeBack; dsimp only; split <;> (try split) <;> rfl
@[simp] theorem hostReturn_grid (r : Runner) :
    (hostReturn r).grid = r.grid := by unfold hostReturn Runner.takeBack; dsimp only; split <;> (try split) <;> rfl
@[simp] theorem hostReturn_team (r : Runner) :
    (hostReturn r).team = r.team := by unfold hostReturn Runner.takeBack; dsimp only; split <;> (try split) <;> rfl
@[simp] theorem hostReturn_gno (r : Runner) :
    (hostReturn r).gno = r.gno := by unfold hostReturn Runner.takeBack; dsimp only; split <;> (try split) <;> rfl
@[simp] theorem hostReturn_placed (r : Runner) :
    (hostReturn r).placed = r.placed := by unfold hostReturn Runner.takeBack; dsimp only; split <;> (try split) <;> rfl
@[simp] theorem hostReturn_ownCore (r : Runner) :
    (hostReturn r).ownCore = r.ownCore := by unfold hostReturn Runner.takeBack; dsimp only; split <;> (try split) <;> rfl
@[simp] theorem hostReturn_ownSlot (r : Runner) :
    (hostReturn r).ownSlot = r.ownSlot := by unfold hostReturn Runner.takeBack; dsimp only; split <;> (try split) <;> rfl
@[simp] theorem hostReturn_entry (r : Runner) :
    (hostReturn r).entry = r.entry := by unfold hostReturn Runner.takeBack; dsimp only; split <;> (try split) <;> rfl
@[simp] theorem hostReturn_asserted (r : Runner) :
    (hostReturn r).asserted = r.asserted := by unfold hostReturn Runner.takeBack; dsimp only; split <;> (try split) <;> rfl
@[simp] theorem hostReturn_code (r : Runner) :
    (hostReturn r).code = r.code := by unfold hostReturn Runner.takeBack; dsimp only; split <;> (try split) <;> rfl
@[simp] theorem hostReturn_upset (r : Runner) :
    (hostReturn r).upset = r.upset := by unfold hostReturn Runner.takeBack; dsimp only; split <;> (try split) <;> rfl
@[simp] theorem hostReturn_l (r : Runner) :
    (hostReturn r).l = r.l := by unfold hostReturn Runner.takeBack; dsimp only; split <;> (try split) <;> rfl

@[simp] theorem groupReturn_id (r : Runner) :
    (groupReturn r).id = r.id := by unfold groupReturn Runner.takeBack; dsimp only; split <;> (try split) <;> rfl
@[simp] theorem groupReturn_s (r : Runner) :
    (groupReturn r).s = r.s := by unfold groupReturn Runner.takeBack; dsimp only; split <;> (try split) <;> rfl
@[simp] theorem groupReturn_xb (r : Runner) :
    (groupReturn r).xb = r.xb := by unfold groupReturn Runner.takeBack; dsimp only; split <;> (try split) <;> rfl
@[simp] theorem groupReturn_pc (r : Runner) :
    (groupReturn r).pc = r.epc := by unfold groupReturn Runner.takeBack; dsimp only; split <;> (try split) <;> rfl
@[simp] theorem groupReturn_status (r : Runner) :
    (groupReturn r).status = returnStatus false r.status := by unfold groupReturn Runner.takeBack; dsimp only; split <;> (try split) <;> rfl
@[simp] theorem groupReturn_cause (r : Runner) :
    (groupReturn r).cause = r.cause := by unfold groupReturn Runner.takeBack; dsimp only; split <;> (try split) <;> rfl
@[simp] theorem groupReturn_epc (r : Runner) :
    (groupReturn r).epc = r.epc := by unfold groupReturn Runner.takeBack; dsimp only; split <;> (try split) <;> rfl
@[simp] theorem groupReturn_faultaddr (r : Runner) :
    (groupReturn r).faultaddr = r.faultaddr := by unfold groupReturn Runner.takeBack; dsimp only; split <;> (try split) <;> rfl
@[simp] theorem groupReturn_sscr0 (r : Runner) :
    (groupReturn r).sscr0 = r.sscr0 := by unfold groupReturn Runner.takeBack; dsimp only; split <;> (try split) <;> rfl
@[simp] theorem groupReturn_sscr1 (r : Runner) :
    (groupReturn r).sscr1 = r.sscr1 := by unfold groupReturn Runner.takeBack; dsimp only; split <;> (try split) <;> rfl
@[simp] theorem groupReturn_txretry (r : Runner) :
    (groupReturn r).txretry = r.txretry := by unfold groupReturn Runner.takeBack; dsimp only; split <;> (try split) <;> rfl
@[simp] theorem groupReturn_tvec (r : Runner) :
    (groupReturn r).tvec = r.tvec := by unfold groupReturn Runner.takeBack; dsimp only; split <;> (try split) <;> rfl
@[simp] theorem groupReturn_slsel (r : Runner) :
    (groupReturn r).slsel = r.slsel := by unfold groupReturn Runner.takeBack; dsimp only; split <;> (try split) <;> rfl
@[simp] theorem groupReturn_ctx (r : Runner) :
    (groupReturn r).ctx = r.ctx := by unfold groupReturn Runner.takeBack; dsimp only; split <;> (try split) <;> rfl
@[simp] theorem groupReturn_part (r : Runner) :
    (groupReturn r).part = r.part := by unfold groupReturn Runner.takeBack; dsimp only; split <;> (try split) <;> rfl
@[simp] theorem groupReturn_core (r : Runner) :
    (groupReturn r).core = r.core := by unfold groupReturn Runner.takeBack; dsimp only; split <;> (try split) <;> rfl
@[simp] theorem groupReturn_slot (r : Runner) :
    (groupReturn r).slot = r.slot := by unfold groupReturn Runner.takeBack; dsimp only; split <;> (try split) <;> rfl
@[simp] theorem groupReturn_stopped (r : Runner) :
    (groupReturn r).stopped = r.stopped := by unfold groupReturn Runner.takeBack; dsimp only; split <;> (try split) <;> rfl
@[simp] theorem groupReturn_ints (r : Runner) :
    (groupReturn r).ints = r.ints := by unfold groupReturn Runner.takeBack; dsimp only; split <;> (try split) <;> rfl
@[simp] theorem groupReturn_sealed (r : Runner) :
    (groupReturn r).sealed = r.sealed := by unfold groupReturn Runner.takeBack; dsimp only; split <;> (try split) <;> rfl
@[simp] theorem groupReturn_openOps (r : Runner) :
    (groupReturn r).openOps = r.openOps := by unfold groupReturn Runner.takeBack; dsimp only; split <;> (try split) <;> rfl
@[simp] theorem groupReturn_openMark (r : Runner) :
    (groupReturn r).openMark = r.openMark := by unfold groupReturn Runner.takeBack; dsimp only; split <;> (try split) <;> rfl
@[simp] theorem groupReturn_batches (r : Runner) :
    (groupReturn r).batches = r.batches := by unfold groupReturn Runner.takeBack; dsimp only; split <;> (try split) <;> rfl
@[simp] theorem groupReturn_lastTx (r : Runner) :
    (groupReturn r).lastTx = r.lastTx := by unfold groupReturn Runner.takeBack; dsimp only; split <;> (try split) <;> rfl
@[simp] theorem groupReturn_lastCommit (r : Runner) :
    (groupReturn r).lastCommit = r.lastCommit := by unfold groupReturn Runner.takeBack; dsimp only; split <;> (try split) <;> rfl
@[simp] theorem groupReturn_wait (r : Runner) :
    (groupReturn r).wait = r.wait := by unfold groupReturn Runner.takeBack; dsimp only; split <;> (try split) <;> rfl
@[simp] theorem groupReturn_grid (r : Runner) :
    (groupReturn r).grid = r.grid := by unfold groupReturn Runner.takeBack; dsimp only; split <;> (try split) <;> rfl
@[simp] theorem groupReturn_team (r : Runner) :
    (groupReturn r).team = r.team := by unfold groupReturn Runner.takeBack; dsimp only; split <;> (try split) <;> rfl
@[simp] theorem groupReturn_gno (r : Runner) :
    (groupReturn r).gno = r.gno := by unfold groupReturn Runner.takeBack; dsimp only; split <;> (try split) <;> rfl
@[simp] theorem groupReturn_placed (r : Runner) :
    (groupReturn r).placed = r.placed := by unfold groupReturn Runner.takeBack; dsimp only; split <;> (try split) <;> rfl
@[simp] theorem groupReturn_ownCore (r : Runner) :
    (groupReturn r).ownCore = r.ownCore := by unfold groupReturn Runner.takeBack; dsimp only; split <;> (try split) <;> rfl
@[simp] theorem groupReturn_ownSlot (r : Runner) :
    (groupReturn r).ownSlot = r.ownSlot := by unfold groupReturn Runner.takeBack; dsimp only; split <;> (try split) <;> rfl
@[simp] theorem groupReturn_entry (r : Runner) :
    (groupReturn r).entry = r.entry := by unfold groupReturn Runner.takeBack; dsimp only; split <;> (try split) <;> rfl
@[simp] theorem groupReturn_asserted (r : Runner) :
    (groupReturn r).asserted = r.asserted := by unfold groupReturn Runner.takeBack; dsimp only; split <;> (try split) <;> rfl
@[simp] theorem groupReturn_code (r : Runner) :
    (groupReturn r).code = r.code := by unfold groupReturn Runner.takeBack; dsimp only; split <;> (try split) <;> rfl
@[simp] theorem groupReturn_upset (r : Runner) :
    (groupReturn r).upset = r.upset := by unfold groupReturn Runner.takeBack; dsimp only; split <;> (try split) <;> rfl
@[simp] theorem groupReturn_l (r : Runner) :
    (groupReturn r).l = r.l.unhold (r.status.getLsbD 7) := by unfold groupReturn Runner.takeBack; dsimp only; split <;> (try split) <;> rfl

@[simp] theorem Runner_abortFinal_id (c d : Nat) (r : Runner) :
    (r.abortFinal c d).id = r.id := rfl
@[simp] theorem Runner_abortFinal_xb (c d : Nat) (r : Runner) :
    (r.abortFinal c d).xb = r.tx.snapXb := rfl
@[simp] theorem Runner_abortFinal_pc (c d : Nat) (r : Runner) :
    (r.abortFinal c d).pc = r.tx.resume := rfl
@[simp] theorem Runner_abortFinal_status (c d : Nat) (r : Runner) :
    (r.abortFinal c d).status = r.status := rfl
@[simp] theorem Runner_abortFinal_cause (c d : Nat) (r : Runner) :
    (r.abortFinal c d).cause = r.cause := rfl
@[simp] theorem Runner_abortFinal_epc (c d : Nat) (r : Runner) :
    (r.abortFinal c d).epc = r.epc := rfl
@[simp] theorem Runner_abortFinal_faultaddr (c d : Nat) (r : Runner) :
    (r.abortFinal c d).faultaddr = r.faultaddr := rfl
@[simp] theorem Runner_abortFinal_sscr0 (c d : Nat) (r : Runner) :
    (r.abortFinal c d).sscr0 = r.sscr0 := rfl
@[simp] theorem Runner_abortFinal_sscr1 (c d : Nat) (r : Runner) :
    (r.abortFinal c d).sscr1 = r.sscr1 := rfl
@[simp] theorem Runner_abortFinal_txretry (c d : Nat) (r : Runner) :
    (r.abortFinal c d).txretry = r.txretry := rfl
@[simp] theorem Runner_abortFinal_tvec (c d : Nat) (r : Runner) :
    (r.abortFinal c d).tvec = r.tvec := rfl
@[simp] theorem Runner_abortFinal_slsel (c d : Nat) (r : Runner) :
    (r.abortFinal c d).slsel = r.slsel := rfl
@[simp] theorem Runner_abortFinal_ctx (c d : Nat) (r : Runner) :
    (r.abortFinal c d).ctx = r.ctx := rfl
@[simp] theorem Runner_abortFinal_part (c d : Nat) (r : Runner) :
    (r.abortFinal c d).part = r.part := rfl
@[simp] theorem Runner_abortFinal_core (c d : Nat) (r : Runner) :
    (r.abortFinal c d).core = r.core := rfl
@[simp] theorem Runner_abortFinal_slot (c d : Nat) (r : Runner) :
    (r.abortFinal c d).slot = r.slot := rfl
@[simp] theorem Runner_abortFinal_stopped (c d : Nat) (r : Runner) :
    (r.abortFinal c d).stopped = r.stopped := rfl
@[simp] theorem Runner_abortFinal_ints (c d : Nat) (r : Runner) :
    (r.abortFinal c d).ints = r.ints := rfl
@[simp] theorem Runner_abortFinal_sealed (c d : Nat) (r : Runner) :
    (r.abortFinal c d).sealed = r.sealed := rfl
@[simp] theorem Runner_abortFinal_openOps (c d : Nat) (r : Runner) :
    (r.abortFinal c d).openOps = r.openOps := rfl
@[simp] theorem Runner_abortFinal_openMark (c d : Nat) (r : Runner) :
    (r.abortFinal c d).openMark = r.openMark := rfl
@[simp] theorem Runner_abortFinal_batches (c d : Nat) (r : Runner) :
    (r.abortFinal c d).batches = r.batches := rfl
@[simp] theorem Runner_abortFinal_tx (c d : Nat) (r : Runner) :
    (r.abortFinal c d).tx = Tx.none := rfl
@[simp] theorem Runner_abortFinal_lastCommit (c d : Nat) (r : Runner) :
    (r.abortFinal c d).lastCommit = r.lastCommit := rfl
@[simp] theorem Runner_abortFinal_wait (c d : Nat) (r : Runner) :
    (r.abortFinal c d).wait = .none := rfl
@[simp] theorem Runner_abortFinal_grid (c d : Nat) (r : Runner) :
    (r.abortFinal c d).grid = r.grid := rfl
@[simp] theorem Runner_abortFinal_team (c d : Nat) (r : Runner) :
    (r.abortFinal c d).team = r.team := rfl
@[simp] theorem Runner_abortFinal_gno (c d : Nat) (r : Runner) :
    (r.abortFinal c d).gno = r.gno := rfl
@[simp] theorem Runner_abortFinal_placed (c d : Nat) (r : Runner) :
    (r.abortFinal c d).placed = r.placed := rfl
@[simp] theorem Runner_abortFinal_ownCore (c d : Nat) (r : Runner) :
    (r.abortFinal c d).ownCore = r.ownCore := rfl
@[simp] theorem Runner_abortFinal_ownSlot (c d : Nat) (r : Runner) :
    (r.abortFinal c d).ownSlot = r.ownSlot := rfl
@[simp] theorem Runner_abortFinal_entry (c d : Nat) (r : Runner) :
    (r.abortFinal c d).entry = r.entry := rfl
@[simp] theorem Runner_abortFinal_asserted (c d : Nat) (r : Runner) :
    (r.abortFinal c d).asserted = r.asserted := rfl
@[simp] theorem Runner_abortFinal_code (c d : Nat) (r : Runner) :
    (r.abortFinal c d).code = r.code := rfl
@[simp] theorem Runner_abortFinal_upset (c d : Nat) (r : Runner) :
    (r.abortFinal c d).upset = r.upset := rfl
@[simp] theorem Runner_abortFinal_txHeld (c d : Nat) (r : Runner) :
    (r.abortFinal c d).txHeld = r.txHeld := rfl
@[simp] theorem Runner_abortFinal_l (c d : Nat) (r : Runner) :
    (r.abortFinal c d).l = r.l := rfl

@[simp] theorem Runner_rollback_id (b : Bool) (r : Runner) :
    (r.rollback b).id = r.id := rfl
@[simp] theorem Runner_rollback_s (b : Bool) (r : Runner) :
    (r.rollback b).s = r.tx.snapS := rfl
@[simp] theorem Runner_rollback_xb (b : Bool) (r : Runner) :
    (r.rollback b).xb = r.tx.snapXb := rfl
@[simp] theorem Runner_rollback_pc (b : Bool) (r : Runner) :
    (r.rollback b).pc = r.tx.resume := rfl
@[simp] theorem Runner_rollback_status (b : Bool) (r : Runner) :
    (r.rollback b).status = r.status := rfl
@[simp] theorem Runner_rollback_cause (b : Bool) (r : Runner) :
    (r.rollback b).cause = r.cause := rfl
@[simp] theorem Runner_rollback_epc (b : Bool) (r : Runner) :
    (r.rollback b).epc = r.epc := rfl
@[simp] theorem Runner_rollback_faultaddr (b : Bool) (r : Runner) :
    (r.rollback b).faultaddr = r.faultaddr := rfl
@[simp] theorem Runner_rollback_sscr0 (b : Bool) (r : Runner) :
    (r.rollback b).sscr0 = r.sscr0 := rfl
@[simp] theorem Runner_rollback_sscr1 (b : Bool) (r : Runner) :
    (r.rollback b).sscr1 = r.sscr1 := rfl
@[simp] theorem Runner_rollback_txretry (b : Bool) (r : Runner) :
    (r.rollback b).txretry = r.txretry := rfl
@[simp] theorem Runner_rollback_tvec (b : Bool) (r : Runner) :
    (r.rollback b).tvec = r.tvec := rfl
@[simp] theorem Runner_rollback_slsel (b : Bool) (r : Runner) :
    (r.rollback b).slsel = r.slsel := rfl
@[simp] theorem Runner_rollback_ctx (b : Bool) (r : Runner) :
    (r.rollback b).ctx = r.ctx := rfl
@[simp] theorem Runner_rollback_part (b : Bool) (r : Runner) :
    (r.rollback b).part = r.part := rfl
@[simp] theorem Runner_rollback_core (b : Bool) (r : Runner) :
    (r.rollback b).core = r.core := rfl
@[simp] theorem Runner_rollback_slot (b : Bool) (r : Runner) :
    (r.rollback b).slot = r.slot := rfl
@[simp] theorem Runner_rollback_stopped (b : Bool) (r : Runner) :
    (r.rollback b).stopped = r.stopped := rfl
@[simp] theorem Runner_rollback_ints (b : Bool) (r : Runner) :
    (r.rollback b).ints = r.ints := rfl
@[simp] theorem Runner_rollback_sealed (b : Bool) (r : Runner) :
    (r.rollback b).sealed = r.sealed := rfl
@[simp] theorem Runner_rollback_openOps (b : Bool) (r : Runner) :
    (r.rollback b).openOps = r.openOps := rfl
@[simp] theorem Runner_rollback_openMark (b : Bool) (r : Runner) :
    (r.rollback b).openMark = r.openMark := rfl
@[simp] theorem Runner_rollback_batches (b : Bool) (r : Runner) :
    (r.rollback b).batches = r.batches := rfl
@[simp] theorem Runner_rollback_lastTx (b : Bool) (r : Runner) :
    (r.rollback b).lastTx = r.lastTx := rfl
@[simp] theorem Runner_rollback_lastCommit (b : Bool) (r : Runner) :
    (r.rollback b).lastCommit = r.lastCommit := rfl
@[simp] theorem Runner_rollback_wait (b : Bool) (r : Runner) :
    (r.rollback b).wait = .none := rfl
@[simp] theorem Runner_rollback_grid (b : Bool) (r : Runner) :
    (r.rollback b).grid = r.grid := rfl
@[simp] theorem Runner_rollback_team (b : Bool) (r : Runner) :
    (r.rollback b).team = r.team := rfl
@[simp] theorem Runner_rollback_gno (b : Bool) (r : Runner) :
    (r.rollback b).gno = r.gno := rfl
@[simp] theorem Runner_rollback_placed (b : Bool) (r : Runner) :
    (r.rollback b).placed = r.placed := rfl
@[simp] theorem Runner_rollback_ownCore (b : Bool) (r : Runner) :
    (r.rollback b).ownCore = r.ownCore := rfl
@[simp] theorem Runner_rollback_ownSlot (b : Bool) (r : Runner) :
    (r.rollback b).ownSlot = r.ownSlot := rfl
@[simp] theorem Runner_rollback_entry (b : Bool) (r : Runner) :
    (r.rollback b).entry = r.entry := rfl
@[simp] theorem Runner_rollback_asserted (b : Bool) (r : Runner) :
    (r.rollback b).asserted = r.asserted := rfl
@[simp] theorem Runner_rollback_code (b : Bool) (r : Runner) :
    (r.rollback b).code = r.code := rfl
@[simp] theorem Runner_rollback_upset (b : Bool) (r : Runner) :
    (r.rollback b).upset = r.upset := rfl
@[simp] theorem Runner_rollback_txHeld (b : Bool) (r : Runner) :
    (r.rollback b).txHeld = r.txHeld := rfl
@[simp] theorem Runner_rollback_l (b : Bool) (r : Runner) :
    (r.rollback b).l = r.l := rfl

/-! ## Updates of lanes -/

@[simp] theorem Lanes_hold_v (b : Bool) (l : Lanes) :
    (l.hold b).v = l.v := rfl
@[simp] theorem Lanes_hold_count (b : Bool) (l : Lanes) :
    (l.hold b).count = l.count := rfl
@[simp] theorem Lanes_hold_m (b : Bool) (l : Lanes) :
    (l.hold b).m = l.m := rfl
@[simp] theorem Lanes_hold_live (b : Bool) (l : Lanes) :
    (l.hold b).live = l.live := rfl
@[simp] theorem Lanes_hold_w (b : Bool) (l : Lanes) :
    (l.hold b).w = l.w := rfl
@[simp] theorem Lanes_hold_q (b : Bool) (l : Lanes) :
    (l.hold b).q = l.q := rfl
@[simp] theorem Lanes_hold_run (b : Bool) (l : Lanes) :
    (l.hold b).run = LaneRuns.empty := rfl
@[simp] theorem Lanes_hold_nextAge (b : Bool) (l : Lanes) :
    (l.hold b).nextAge = l.nextAge := rfl
@[simp] theorem Lanes_hold_nextSeq (b : Bool) (l : Lanes) :
    (l.hold b).nextSeq = l.nextSeq := rfl
@[simp] theorem Lanes_hold_stamp (b : Bool) (l : Lanes) :
    (l.hold b).stamp = l.stamp := rfl
@[simp] theorem Lanes_hold_lpc (b : Bool) (l : Lanes) :
    (l.hold b).lpc = l.lpc := rfl
@[simp] theorem Lanes_hold_faultmask (b : Bool) (l : Lanes) :
    (l.hold b).faultmask = l.faultmask := rfl
@[simp] theorem Lanes_hold_fragmask (b : Bool) (l : Lanes) :
    (l.hold b).fragmask = l.fragmask := rfl
@[simp] theorem Lanes_hold_skipmask (b : Bool) (l : Lanes) :
    (l.hold b).skipmask = l.skipmask := rfl
@[simp] theorem Lanes_hold_mfb (b : Bool) (l : Lanes) :
    (l.hold b).mfb = l.mfb := rfl
@[simp] theorem Lanes_hold_osfault (b : Bool) (l : Lanes) :
    (l.hold b).osfault = l.osfault := rfl
@[simp] theorem Lanes_hold_vcause (b : Bool) (l : Lanes) :
    (l.hold b).vcause = l.vcause := rfl
@[simp] theorem Lanes_hold_vfault (b : Bool) (l : Lanes) :
    (l.hold b).vfault = l.vfault := rfl
@[simp] theorem Lanes_hold_locker (b : Bool) (l : Lanes) :
    (l.hold b).locker = l.locker := rfl
@[simp] theorem Lanes_hold_tx (b : Bool) (l : Lanes) :
    (l.hold b).tx = l.tx := rfl
@[simp] theorem Lanes_hold_outst (b : Bool) (l : Lanes) :
    (l.hold b).outst = l.outst := rfl
@[simp] theorem Lanes_hold_grow (b : Bool) (l : Lanes) :
    (l.hold b).grow = l.grow := rfl
@[simp] theorem Lanes_hold_busy (b : Bool) (l : Lanes) :
    (l.hold b).busy = l.busy := rfl
@[simp] theorem Lanes_hold_promoted (b : Bool) (l : Lanes) :
    (l.hold b).promoted = l.promoted := rfl
@[simp] theorem Lanes_hold_ready (b : Bool) (l : Lanes) :
    (l.hold b).ready = l.ready := rfl
@[simp] theorem Lanes_hold_readyFor (b : Bool) (l : Lanes) :
    (l.hold b).readyFor = l.readyFor := rfl

@[simp] theorem Lanes_endClause_v (a p : Nat) (l : Lanes) :
    (l.endClause a p).v = l.v := rfl
@[simp] theorem Lanes_endClause_count (a p : Nat) (l : Lanes) :
    (l.endClause a p).count = l.count := rfl
@[simp] theorem Lanes_endClause_m (a p : Nat) (l : Lanes) :
    (l.endClause a p).m = l.m := rfl
@[simp] theorem Lanes_endClause_live (a p : Nat) (l : Lanes) :
    (l.endClause a p).live = l.live := rfl
@[simp] theorem Lanes_endClause_w (a p : Nat) (l : Lanes) :
    (l.endClause a p).w = l.w := rfl
@[simp] theorem Lanes_endClause_q (a p : Nat) (l : Lanes) :
    (l.endClause a p).q = l.q := rfl
@[simp] theorem Lanes_endClause_held (a p : Nat) (l : Lanes) :
    (l.endClause a p).held = l.held := rfl
@[simp] theorem Lanes_endClause_nextAge (a p : Nat) (l : Lanes) :
    (l.endClause a p).nextAge = l.nextAge := rfl
@[simp] theorem Lanes_endClause_nextSeq (a p : Nat) (l : Lanes) :
    (l.endClause a p).nextSeq = l.nextSeq := rfl
@[simp] theorem Lanes_endClause_stamp (a p : Nat) (l : Lanes) :
    (l.endClause a p).stamp = l.stamp + 1 := rfl
@[simp] theorem Lanes_endClause_lpc (a p : Nat) (l : Lanes) :
    (l.endClause a p).lpc = l.lpc := rfl
@[simp] theorem Lanes_endClause_faultmask (a p : Nat) (l : Lanes) :
    (l.endClause a p).faultmask = l.faultmask := rfl
@[simp] theorem Lanes_endClause_fragmask (a p : Nat) (l : Lanes) :
    (l.endClause a p).fragmask = l.fragmask := rfl
@[simp] theorem Lanes_endClause_skipmask (a p : Nat) (l : Lanes) :
    (l.endClause a p).skipmask = l.skipmask := rfl
@[simp] theorem Lanes_endClause_mfb (a p : Nat) (l : Lanes) :
    (l.endClause a p).mfb = l.mfb := rfl
@[simp] theorem Lanes_endClause_osfault (a p : Nat) (l : Lanes) :
    (l.endClause a p).osfault = l.osfault := rfl
@[simp] theorem Lanes_endClause_vcause (a p : Nat) (l : Lanes) :
    (l.endClause a p).vcause = l.vcause := rfl
@[simp] theorem Lanes_endClause_vfault (a p : Nat) (l : Lanes) :
    (l.endClause a p).vfault = l.vfault := rfl
@[simp] theorem Lanes_endClause_locker (a p : Nat) (l : Lanes) :
    (l.endClause a p).locker = l.locker := rfl
@[simp] theorem Lanes_endClause_tx (a p : Nat) (l : Lanes) :
    (l.endClause a p).tx = l.tx := rfl
@[simp] theorem Lanes_endClause_outst (a p : Nat) (l : Lanes) :
    (l.endClause a p).outst = l.outst := rfl
@[simp] theorem Lanes_endClause_grow (a p : Nat) (l : Lanes) :
    (l.endClause a p).grow = l.grow := rfl
@[simp] theorem Lanes_endClause_busy (a p : Nat) (l : Lanes) :
    (l.endClause a p).busy = l.busy := rfl
@[simp] theorem Lanes_endClause_promoted (a p : Nat) (l : Lanes) :
    (l.endClause a p).promoted = l.promoted := rfl
@[simp] theorem Lanes_endClause_ready (a p : Nat) (l : Lanes) :
    (l.endClause a p).ready = l.ready := rfl
@[simp] theorem Lanes_endClause_readyFor (a p : Nat) (l : Lanes) :
    (l.endClause a p).readyFor = l.readyFor := rfl

@[simp] theorem Lanes_writeCol_count (d : Nat) (a : Mask) (g : Nat → Nat) (l : Lanes) :
    (Lanes.writeCol d a g l).count = l.count := rfl
@[simp] theorem Lanes_writeCol_m (d : Nat) (a : Mask) (g : Nat → Nat) (l : Lanes) :
    (Lanes.writeCol d a g l).m = l.m := rfl
@[simp] theorem Lanes_writeCol_live (d : Nat) (a : Mask) (g : Nat → Nat) (l : Lanes) :
    (Lanes.writeCol d a g l).live = l.live := rfl
@[simp] theorem Lanes_writeCol_w (d : Nat) (a : Mask) (g : Nat → Nat) (l : Lanes) :
    (Lanes.writeCol d a g l).w = l.w := rfl
@[simp] theorem Lanes_writeCol_q (d : Nat) (a : Mask) (g : Nat → Nat) (l : Lanes) :
    (Lanes.writeCol d a g l).q = l.q := rfl
@[simp] theorem Lanes_writeCol_run (d : Nat) (a : Mask) (g : Nat → Nat) (l : Lanes) :
    (Lanes.writeCol d a g l).run = l.run := rfl
@[simp] theorem Lanes_writeCol_held (d : Nat) (a : Mask) (g : Nat → Nat) (l : Lanes) :
    (Lanes.writeCol d a g l).held = l.held := rfl
@[simp] theorem Lanes_writeCol_nextAge (d : Nat) (a : Mask) (g : Nat → Nat) (l : Lanes) :
    (Lanes.writeCol d a g l).nextAge = l.nextAge := rfl
@[simp] theorem Lanes_writeCol_nextSeq (d : Nat) (a : Mask) (g : Nat → Nat) (l : Lanes) :
    (Lanes.writeCol d a g l).nextSeq = l.nextSeq := rfl
@[simp] theorem Lanes_writeCol_stamp (d : Nat) (a : Mask) (g : Nat → Nat) (l : Lanes) :
    (Lanes.writeCol d a g l).stamp = l.stamp := rfl
@[simp] theorem Lanes_writeCol_lpc (d : Nat) (a : Mask) (g : Nat → Nat) (l : Lanes) :
    (Lanes.writeCol d a g l).lpc = l.lpc := rfl
@[simp] theorem Lanes_writeCol_faultmask (d : Nat) (a : Mask) (g : Nat → Nat) (l : Lanes) :
    (Lanes.writeCol d a g l).faultmask = l.faultmask := rfl
@[simp] theorem Lanes_writeCol_fragmask (d : Nat) (a : Mask) (g : Nat → Nat) (l : Lanes) :
    (Lanes.writeCol d a g l).fragmask = l.fragmask := rfl
@[simp] theorem Lanes_writeCol_skipmask (d : Nat) (a : Mask) (g : Nat → Nat) (l : Lanes) :
    (Lanes.writeCol d a g l).skipmask = l.skipmask := rfl
@[simp] theorem Lanes_writeCol_mfb (d : Nat) (a : Mask) (g : Nat → Nat) (l : Lanes) :
    (Lanes.writeCol d a g l).mfb = l.mfb := rfl
@[simp] theorem Lanes_writeCol_osfault (d : Nat) (a : Mask) (g : Nat → Nat) (l : Lanes) :
    (Lanes.writeCol d a g l).osfault = l.osfault := rfl
@[simp] theorem Lanes_writeCol_vcause (d : Nat) (a : Mask) (g : Nat → Nat) (l : Lanes) :
    (Lanes.writeCol d a g l).vcause = l.vcause := rfl
@[simp] theorem Lanes_writeCol_vfault (d : Nat) (a : Mask) (g : Nat → Nat) (l : Lanes) :
    (Lanes.writeCol d a g l).vfault = l.vfault := rfl
@[simp] theorem Lanes_writeCol_locker (d : Nat) (a : Mask) (g : Nat → Nat) (l : Lanes) :
    (Lanes.writeCol d a g l).locker = l.locker := rfl
@[simp] theorem Lanes_writeCol_tx (d : Nat) (a : Mask) (g : Nat → Nat) (l : Lanes) :
    (Lanes.writeCol d a g l).tx = l.tx := rfl
@[simp] theorem Lanes_writeCol_outst (d : Nat) (a : Mask) (g : Nat → Nat) (l : Lanes) :
    (Lanes.writeCol d a g l).outst = l.outst := rfl
@[simp] theorem Lanes_writeCol_grow (d : Nat) (a : Mask) (g : Nat → Nat) (l : Lanes) :
    (Lanes.writeCol d a g l).grow = l.grow := rfl
@[simp] theorem Lanes_writeCol_busy (d : Nat) (a : Mask) (g : Nat → Nat) (l : Lanes) :
    (Lanes.writeCol d a g l).busy = l.busy := rfl
@[simp] theorem Lanes_writeCol_promoted (d : Nat) (a : Mask) (g : Nat → Nat) (l : Lanes) :
    (Lanes.writeCol d a g l).promoted = l.promoted := rfl
@[simp] theorem Lanes_writeCol_ready (d : Nat) (a : Mask) (g : Nat → Nat) (l : Lanes) :
    (Lanes.writeCol d a g l).ready = l.ready := rfl
@[simp] theorem Lanes_writeCol_readyFor (d : Nat) (a : Mask) (g : Nat → Nat) (l : Lanes) :
    (Lanes.writeCol d a g l).readyFor = l.readyFor := rfl

end Sys2Proof.Machine
end

