-- ==== Sys2Proof/Laws/Lead.lean ====
section
/-! SUPPORT. What the shared lead forms write, at each width, in terms of bit vectors. -/

namespace Sys2Proof.Machine

open Sys2Proof

/-- The written pattern at 64 bits. -/
theorem resultBits_false (x : Int) : resultBits false x = BitVec.ofInt 64 x := by
  show BitVec.ofInt 64 (sextN 64 (wrapN 64 x)) = _
  rw [sextN_wrapN (by decide), ofInt_toInt, BitVec.signExtend_eq]

/-- The written pattern at 32 bits. -/
theorem resultBits_true (x : Int) : resultBits true x = (BitVec.ofInt 32 x).signExtend 64 := by
  show BitVec.ofInt 64 (sextN 32 (wrapN 32 x)) = _
  rw [sextN_wrapN (by decide), ofInt_toInt]

/-- The bits that an operation of width w reads of a value. -/
def lowOf (w : Bool) (x : Word) : Nat := x.toNat % 2 ^ opBits w

theorem lowOf_false (x : Word) : lowOf false x = x.toNat := Nat.mod_eq_of_lt x.isLt

theorem lowOf_true (x : Word) : lowOf true x = (x.setWidth 32).toNat := mod_eq_setWidth x 32

@[simp] theorem run_regBits (w : Bool) (a : Reg) (s : State) :
    (regBits w a).run s = .ok (lowOf w (s.me.sreg a), s) := rfl

/-- A lead register does not depend on the program counter. -/
@[simp] theorem onward_sreg (s : State) (a : Reg) : (onward s).me.sreg a = s.me.sreg a := rfl

/-- A binary form writes its result. -/
theorem binForm_next (w : Bool) (d a b : Reg) (f : Nat → Nat → Nat → Int) (s : State) :
    binForm w d a b f s =
      .next (writes d (resultBits w (f (opBits w) (lowOf w (s.me.sreg a)) (lowOf w (s.me.sreg b)))) s) :=
  runLead_ok (u := ()) (by simp; rfl)

/-- A unary form writes its result. -/
theorem unForm_next (w : Bool) (d a : Reg) (f : Nat → Nat → Int) (s : State) :
    unForm w d a f s = .next (writes d (resultBits w (f (opBits w) (lowOf w (s.me.sreg a)))) s) :=
  runLead_ok (u := ()) (by simp; rfl)

/-- A form that accepts the SAT prefix writes its clamped result. -/
theorem satForm_next (w : Bool) (d a b : Reg) (f : Nat → Int → Int → Int) (s : State) :
    satForm w d a b f s = .next (writes d (resultBits w (clampBy s.issue.sat (opBits w) (f (opBits w)
      (readBy s.issue.sat (opBits w) (lowOf w (s.me.sreg a))) (readBy s.issue.sat (opBits w) (lowOf w (s.me.sreg b)))))) s) :=
  runLead_ok (u := ()) (by simp; rfl)

/-- A form with an immediate that accepts the SAT prefix writes its clamped result. -/
theorem satImmForm_next (w : Bool) (d a : Reg) (f : Int → Int) (s : State) :
    satImmForm w d a f s = .next (writes d (resultBits w (clampBy s.issue.sat (opBits w)
      (f (readBy s.issue.sat (opBits w) (lowOf w (s.me.sreg a)))))) s) :=
  runLead_ok (u := ()) (by simp; rfl)

end Sys2Proof.Machine
end

