-- ==== Sys2Proof/Laws/Mem.lean ====
section
/-! SUPPORT. The canonical form of the memory list: every operation on it keeps the form, and reset has it. -/

namespace Sys2Proof.Machine

/-- A list whose addresses start at `lo` also starts at anything lower. -/
theorem Mem.wfFrom_mono {lo lo' : Nat} (h : lo' ≤ lo) : ∀ m : Mem, Mem.wfFrom lo m = true → Mem.wfFrom lo' m = true
  | [], _ => rfl
  | (k, b) :: m, hm => by
    simp only [Mem.wfFrom, Bool.and_eq_true, decide_eq_true_eq] at hm ⊢
    exact ⟨⟨h.trans hm.1.1, hm.1.2⟩, hm.2⟩

/-- Setting a byte at or above the start keeps the form. -/
theorem Mem.wfFrom_set (a : Nat) (b : Byte) : ∀ (lo : Nat) (m : Mem), lo ≤ a → Mem.wfFrom lo m = true →
    Mem.wfFrom lo (Mem.set m a b) = true
  | lo, [], ha, _ => by
    unfold Mem.set
    split
    · rfl
    · rename_i h
      simp only [Mem.wfFrom, Bool.and_eq_true, decide_eq_true_eq]
      exact ⟨⟨ha, by simpa using h⟩, trivial⟩
  | lo, (k, c) :: m, ha, hm => by
    have hm' := hm
    simp only [Mem.wfFrom, Bool.and_eq_true, decide_eq_true_eq] at hm
    unfold Mem.set
    split
    · split
      · exact hm'
      · rename_i h1 h2
        simp only [Mem.wfFrom, Bool.and_eq_true, decide_eq_true_eq]
        exact ⟨⟨ha, by simpa using h2⟩, ⟨h1, hm.1.2⟩, hm.2⟩
    · split
      · rename_i h1 h2
        subst h2
        split
        · exact Mem.wfFrom_mono (by omega) m hm.2
        · rename_i h3
          simp only [Mem.wfFrom, Bool.and_eq_true, decide_eq_true_eq]
          exact ⟨⟨ha, by simpa using h3⟩, hm.2⟩
      · rename_i h1 h2
        simp only [Mem.wfFrom, Bool.and_eq_true, decide_eq_true_eq]
        exact ⟨hm.1, Mem.wfFrom_set a b (k + 1) m (by omega) hm.2⟩

/-- Setting a byte keeps the canonical form. -/
theorem Mem.wf_set (m : Mem) (a : Nat) (b : Byte) (h : m.wf = true) : (Mem.set m a b).wf = true :=
  Mem.wfFrom_set a b 0 m (Nat.zero_le a) h

/-- The cells of consecutive bytes, followed by a list that starts after them, are in form. -/
theorem wfFrom_cellsOf_append : ∀ (bs : List Byte) (lo a : Nat) (m : Mem), lo ≤ a → Mem.wfFrom (a + bs.length) m = true →
    Mem.wfFrom lo (cellsOf a bs ++ m) = true
  | [], lo, a, m, h, hm => by
    simpa [cellsOf] using Mem.wfFrom_mono (by simpa using h) m hm
  | b :: bs, lo, a, m, h, hm => by
    have hl : a + (b :: bs).length = a + 1 + bs.length := by simp; omega
    rw [hl] at hm
    unfold cellsOf
    split
    · exact wfFrom_cellsOf_append bs lo (a + 1) m (by omega) hm
    · rename_i hb
      simp only [List.cons_append, Mem.wfFrom, Bool.and_eq_true, decide_eq_true_eq]
      exact ⟨⟨h, by simpa using hb⟩, wfFrom_cellsOf_append bs (a + 1) (a + 1) m (Nat.le_refl _) hm⟩

/-- What remains of a list past an address starts there. -/
theorem wfFrom_dropWhile (n : Nat) : ∀ (m : Mem) (lo : Nat), Mem.wfFrom lo m = true →
    Mem.wfFrom n (m.dropWhile fun x => decide (x.1 < n)) = true
  | [], _, _ => rfl
  | (k, c) :: m, lo, h => by
    have h' := h
    simp only [Mem.wfFrom, Bool.and_eq_true, decide_eq_true_eq] at h
    by_cases hk : k < n
    · simpa [List.dropWhile, hk] using wfFrom_dropWhile n m (k + 1) h.2
    · simp only [List.dropWhile, hk, decide_false, Mem.wfFrom, Bool.and_eq_true, decide_eq_true_eq]
      exact ⟨⟨by omega, h.1.2⟩, h.2⟩

/-- Writing bytes at or above the start keeps the form. -/
theorem Mem.wfFrom_write (a : Nat) (bs : List Byte) : ∀ (lo : Nat) (m : Mem), lo ≤ a → Mem.wfFrom lo m = true →
    Mem.wfFrom lo (Mem.write m a bs) = true
  | lo, [], ha, _ => by
    have := wfFrom_cellsOf_append bs lo a [] ha rfl
    simpa [Mem.write] using this
  | lo, (k, c) :: m, ha, hm => by
    unfold Mem.write
    split
    · rename_i hk
      simp only [Mem.wfFrom, Bool.and_eq_true, decide_eq_true_eq] at hm ⊢
      exact ⟨hm.1, Mem.wfFrom_write a bs (k + 1) m (by omega) hm.2⟩
    · exact wfFrom_cellsOf_append bs lo a _ ha (wfFrom_dropWhile (a + bs.length) _ lo hm)

/-- Writing bytes keeps the canonical form. -/
theorem Mem.wf_write (m : Mem) (a : Nat) (bs : List Byte) (h : m.wf = true) : (Mem.write m a bs).wf = true :=
  Mem.wfFrom_write a bs 0 m (Nat.zero_le a) h

/-- The memory of the reset state is in form. -/
theorem reset_mem_wf : State.reset.mem.wf = true := rfl

/-- A line taken over by another key keeps the form. -/
theorem rekeyLine_wf (s : State) (key line : Nat) (h : s.mem.wf = true) : (rekeyLine s key line).mem.wf = true := by
  unfold rekeyLine
  split
  · exact h
  · exact Mem.wf_write _ _ _ h

/-- Lines taken over one after another keep the form. -/
theorem rekeyLines_wf (key : Nat) : ∀ (l : List Nat) (s : State), s.mem.wf = true →
    (l.foldl (fun s x => rekeyLine s key x) s).mem.wf = true
  | [], _, h => h
  | x :: l, s, h => rekeyLines_wf key l (rekeyLine s key x) (rekeyLine_wf s key x h)

/-- A write at the home keeps the form. -/
theorem homeWrite_wf (s : State) (key : Nat) (comp : Bool) (a : Nat) (bs : List Byte) (h : s.mem.wf = true) :
    (homeWrite s key comp a bs).mem.wf = true := by
  unfold homeWrite
  split
  · exact h
  · exact Mem.wf_write _ _ _ (rekeyLines_wf key _ s h)

/-- Counting a request leaves memory alone. -/
@[simp] theorem countHot_mem (s : State) (pa : Nat) : (countHot s pa).mem = s.mem := by
  unfold countHot
  split
  · rfl
  · dsimp only
    split <;> rfl

/-- A fold of steps that leave memory alone leaves it alone. -/
theorem foldl_mem {α : Type} (f : State → α → State) (hf : ∀ s x, (f s x).mem = s.mem) :
    ∀ (l : List α) (s : State), (l.foldl f s).mem = s.mem
  | [], _ => rfl
  | x :: l, s => (foldl_mem f hf l (f s x)).trans (hf s x)

/-- Counting the requests of a range leaves memory alone. -/
@[simp] theorem countRange_mem (s : State) (a n : Nat) : (countRange s a n).mem = s.mem := by
  unfold countRange
  split
  · rfl
  · exact foldl_mem _ (fun s k => countHot_mem s _) _ s

/-- A conflict leaves memory alone. -/
@[simp] theorem conflictAt_mem (s : State) (who : RunnerId) : (conflictAt s who).mem = s.mem := by
  unfold conflictAt
  split
  · rfl
  · dsimp only
    split <;> rfl

/-- What an access does to transactions leaves memory alone. -/
@[simp] theorem touch_mem (s : State) (who : Option RunnerId) (plain write : Bool) (a n : Nat) :
    (touch s who plain write a n).mem = s.mem := by
  unfold touch
  split
  · refine foldl_mem _ (fun s line => ?_) _ s
    dsimp only
    split
    · exact foldl_mem _ (fun (s : State) (r : Runner) => conflictAt_mem s r.id) _ s
    · exact foldl_mem _ (fun (s : State) (r : Runner) => conflictAt_mem s r.id) _ s
  · rfl

/-- A write that performs on its die leaves the homes alone (R237). -/
@[simp] theorem seeAll_mem (s : State) (p : PWrite → Bool) : (seeAll s p).mem = s.mem := by
  unfold seeAll
  exact foldl_mem _ (fun s w => touch_mem s _ _ _ _ _) _ _

/-- An arriving write keeps the form. -/
theorem arrive_wf (s : State) (w : PWrite) (h : s.mem.wf = true) : (arrive s w).mem.wf = true := by
  have hw := homeWrite_wf s w.key w.comp w.addr w.bytes h
  unfold arrive
  dsimp only
  rw [countRange_mem]
  split
  · rwa [foldl_mem _ (fun (s : State) (l : Nat) => (rfl : (doomLine s l).mem = s.mem))]
  · rwa [touch_mem]

/-- Writes that arrive one after another keep the form. -/
theorem arrives_wf : ∀ (l : List PWrite) (s : State), s.mem.wf = true → (l.foldl arrive s).mem.wf = true
  | [], _, h => h
  | w :: l, s, h => arrives_wf l (arrive s w) (arrive_wf s w h)

/-- The arrival of accepted writes keeps the form. -/
theorem arriveAll_wf (s : State) (p : PWrite → Bool) (h : s.mem.wf = true) : (arriveAll s p).mem.wf = true :=
  arrives_wf _ _ (by simpa using h)

/-- Draining a die keeps the form. -/
theorem drainDie_wf (s : State) (who : RunnerId) (die : Nat) (h : s.mem.wf = true) : (drainDie s who die).mem.wf = true :=
  arriveAll_wf s _ h

/-- Draining sectors keeps the form. -/
theorem drainSectors_wf (s : State) (who : Option RunnerId) (die a n : Nat) (h : s.mem.wf = true) :
    (drainSectors s who die a n).mem.wf = true :=
  arriveAll_wf s _ h

/-- Reads: n bytes are n bytes long. -/
@[simp] theorem Mem.read_length (m : Mem) : ∀ (n a : Nat), (Mem.read m a n).length = n
  | 0, _ => rfl
  | n + 1, a => by simp [Mem.read, Mem.read_length m n (a + 1)]

end Sys2Proof.Machine
end

