-- ==== Sys2Proof/Laws/PerInstr.lean ====
section
/-! SUPPORT. One lemma per instruction: the opcode map of lane slots gives back the instruction whose class and op the
encoder writes (spec/02_encoding.md R72). It holds of every other instruction too, which has neither. -/

namespace Sys2Proof.Laws.SlotMap

open Sys2Proof

/-- The opcode map at an instruction's class and op is that instruction, where its fields select it (R72). -/
def Statement (i : Instr) : Prop :=
  ∀ (f : LaneF) (k : BitVec 4 × BitVec 8), i.slotOk f = true → laneKey i = some k → laneCtor f k.1.toNat k.2.toNat = some i

/-- An instruction that is no lane slot. -/
theorem none_of (i : Instr) (h : laneKey i = none) : Statement i := by
  intro f k _ hk
  rw [h] at hk
  cases hk

/-- An instruction that its class and op select alone. -/
theorem some_of (i : Instr) (c : BitVec 4) (o : BitVec 8) (h : laneKey i = some (c, o))
    (hc : ∀ f : LaneF, i.slotOk f = true → laneCtor f c.toNat o.toNat = some i) : Statement i := by
  intro f k hi hk
  rw [h] at hk
  cases hk
  exact hc f hi

theorem hint (code : BitVec 6) (arg : BitVec 16) : Statement (.hint code arg) := none_of _ rfl
theorem hintFetchLead (arg : BitVec 16) : Statement (.hintFetchLead arg) := none_of _ rfl
theorem hintSpin (arg : BitVec 16) : Statement (.hintSpin arg) := none_of _ rfl
theorem hintFetchLane (arg : BitVec 16) : Statement (.hintFetchLane arg) := none_of _ rfl
theorem add (w : Bool) (d : Reg) (a : Reg) (b : Reg) : Statement (.add w d a b) := none_of _ rfl
theorem sub (w : Bool) (d : Reg) (a : Reg) (b : Reg) : Statement (.sub w d a b) := none_of _ rfl
theorem mul (w : Bool) (d : Reg) (a : Reg) (b : Reg) : Statement (.mul w d a b) := none_of _ rfl
theorem mulh (w : Bool) (d : Reg) (a : Reg) (b : Reg) : Statement (.mulh w d a b) := none_of _ rfl
theorem mulhn (w : Bool) (d : Reg) (a : Reg) (b : Reg) : Statement (.mulhn w d a b) := none_of _ rfl
theorem div (w : Bool) (d : Reg) (a : Reg) (b : Reg) : Statement (.div w d a b) := none_of _ rfl
theorem divn (w : Bool) (d : Reg) (a : Reg) (b : Reg) : Statement (.divn w d a b) := none_of _ rfl
theorem rem (w : Bool) (d : Reg) (a : Reg) (b : Reg) : Statement (.rem w d a b) := none_of _ rfl
theorem remn (w : Bool) (d : Reg) (a : Reg) (b : Reg) : Statement (.remn w d a b) := none_of _ rfl
theorem and (w : Bool) (d : Reg) (a : Reg) (b : Reg) : Statement (.and w d a b) := none_of _ rfl
theorem or (w : Bool) (d : Reg) (a : Reg) (b : Reg) : Statement (.or w d a b) := none_of _ rfl
theorem xor (w : Bool) (d : Reg) (a : Reg) (b : Reg) : Statement (.xor w d a b) := none_of _ rfl
theorem andn (w : Bool) (d : Reg) (a : Reg) (b : Reg) : Statement (.andn w d a b) := none_of _ rfl
theorem min (w : Bool) (d : Reg) (a : Reg) (b : Reg) : Statement (.min w d a b) := none_of _ rfl
theorem max (w : Bool) (d : Reg) (a : Reg) (b : Reg) : Statement (.max w d a b) := none_of _ rfl
theorem minn (w : Bool) (d : Reg) (a : Reg) (b : Reg) : Statement (.minn w d a b) := none_of _ rfl
theorem maxn (w : Bool) (d : Reg) (a : Reg) (b : Reg) : Statement (.maxn w d a b) := none_of _ rfl
theorem shl (w : Bool) (d : Reg) (a : Reg) (b : Reg) : Statement (.shl w d a b) := none_of _ rfl
theorem shr (w : Bool) (d : Reg) (a : Reg) (b : Reg) : Statement (.shr w d a b) := none_of _ rfl
theorem sar (w : Bool) (d : Reg) (a : Reg) (b : Reg) : Statement (.sar w d a b) := none_of _ rfl
theorem rot (w : Bool) (d : Reg) (a : Reg) (b : Reg) : Statement (.rot w d a b) := none_of _ rfl
theorem clz (w : Bool) (d : Reg) (a : Reg) : Statement (.clz w d a) := none_of _ rfl
theorem ctz (w : Bool) (d : Reg) (a : Reg) : Statement (.ctz w d a) := none_of _ rfl
theorem popc (w : Bool) (d : Reg) (a : Reg) : Statement (.popc w d a) := none_of _ rfl
theorem sext (d : Reg) (a : Reg) (p : BitVec 6) : Statement (.sext d a p) := none_of _ rfl
theorem zext (d : Reg) (a : Reg) (p : BitVec 6) : Statement (.zext d a p) := none_of _ rfl
theorem sel (w : Bool) (d : Reg) (a : Reg) (b : Reg) : Statement (.sel w d a b) := none_of _ rfl
theorem cmp (c : BitVec 4) (w : Bool) (d : Reg) (a : Reg) (b : Reg) : Statement (.cmp c w d a b) := none_of _ rfl
theorem addx (f : BitVec 4) (w : Bool) (d : Reg) (a : Reg) (b : Reg) : Statement (.addx f w d a b) := none_of _ rfl
theorem bfx (d : Reg) (a : Reg) (u : BitVec 6) (q : BitVec 6) : Statement (.bfx d a u q) := none_of _ rfl
theorem bfi (d : Reg) (a : Reg) (u : BitVec 6) (q : BitVec 6) : Statement (.bfi d a u q) := none_of _ rfl
theorem addi (w : Bool) (d : Reg) (a : Reg) (i : BitVec 10) : Statement (.addi w d a i) := none_of _ rfl
theorem addiLong (d : Reg) (a : Reg) (i : BitVec 39) : Statement (.addiLong d a i) := none_of _ rfl
theorem andi (w : Bool) (d : Reg) (a : Reg) (i : BitVec 10) : Statement (.andi w d a i) := none_of _ rfl
theorem andiLong (d : Reg) (a : Reg) (i : BitVec 39) : Statement (.andiLong d a i) := none_of _ rfl
theorem ori (w : Bool) (d : Reg) (a : Reg) (i : BitVec 10) : Statement (.ori w d a i) := none_of _ rfl
theorem oriLong (d : Reg) (a : Reg) (i : BitVec 39) : Statement (.oriLong d a i) := none_of _ rfl
theorem xori (w : Bool) (d : Reg) (a : Reg) (i : BitVec 10) : Statement (.xori w d a i) := none_of _ rfl
theorem xoriLong (d : Reg) (a : Reg) (i : BitVec 39) : Statement (.xoriLong d a i) := none_of _ rfl
theorem shli (w : Bool) (d : Reg) (a : Reg) (c : BitVec 6) : Statement (.shli w d a c) := none_of _ rfl
theorem shri (w : Bool) (d : Reg) (a : Reg) (c : BitVec 6) : Statement (.shri w d a c) := none_of _ rfl
theorem sari (w : Bool) (d : Reg) (a : Reg) (c : BitVec 6) : Statement (.sari w d a c) := none_of _ rfl
theorem sethi (d : Reg) (i : BitVec 32) : Statement (.sethi d i) := none_of _ rfl
theorem li (d : Reg) (i : BitVec 45) : Statement (.li d i) := none_of _ rfl
theorem addpc (d : Reg) (i : BitVec 16) : Statement (.addpc d i) := none_of _ rfl
theorem addpcLong (d : Reg) (i : BitVec 45) : Statement (.addpcLong d i) := none_of _ rfl
theorem b (o : BitVec 22) : Statement (.b o) := none_of _ rfl
theorem bLong (o : BitVec 51) : Statement (.bLong o) := none_of _ rfl
theorem bl (o : BitVec 22) : Statement (.bl o) := none_of _ rfl
theorem blLong (o : BitVec 51) : Statement (.blLong o) := none_of _ rfl
theorem br (a : Reg) : Statement (.br a) := none_of _ rfl
theorem blr (d : Reg) (a : Reg) : Statement (.blr d a) := none_of _ rfl
theorem ret (a : Reg) : Statement (.ret a) := none_of _ rfl
theorem beq (a : Reg) (b : Reg) (o : BitVec 10) : Statement (.beq a b o) := none_of _ rfl
theorem beqLong (a : Reg) (b : Reg) (o : BitVec 39) : Statement (.beqLong a b o) := none_of _ rfl
theorem bne (a : Reg) (b : Reg) (o : BitVec 10) : Statement (.bne a b o) := none_of _ rfl
theorem bneLong (a : Reg) (b : Reg) (o : BitVec 39) : Statement (.bneLong a b o) := none_of _ rfl
theorem blt (a : Reg) (b : Reg) (o : BitVec 10) : Statement (.blt a b o) := none_of _ rfl
theorem bltLong (a : Reg) (b : Reg) (o : BitVec 39) : Statement (.bltLong a b o) := none_of _ rfl
theorem bge (a : Reg) (b : Reg) (o : BitVec 10) : Statement (.bge a b o) := none_of _ rfl
theorem bgeLong (a : Reg) (b : Reg) (o : BitVec 39) : Statement (.bgeLong a b o) := none_of _ rfl
theorem bltn (a : Reg) (b : Reg) (o : BitVec 10) : Statement (.bltn a b o) := none_of _ rfl
theorem bltnLong (a : Reg) (b : Reg) (o : BitVec 39) : Statement (.bltnLong a b o) := none_of _ rfl
theorem bgen (a : Reg) (b : Reg) (o : BitVec 10) : Statement (.bgen a b o) := none_of _ rfl
theorem bgenLong (a : Reg) (b : Reg) (o : BitVec 39) : Statement (.bgenLong a b o) := none_of _ rfl
theorem bz (a : Reg) (o : BitVec 16) : Statement (.bz a o) := none_of _ rfl
theorem bzLong (a : Reg) (o : BitVec 45) : Statement (.bzLong a o) := none_of _ rfl
theorem bnz (a : Reg) (o : BitVec 16) : Statement (.bnz a o) := none_of _ rfl
theorem bnzLong (a : Reg) (o : BitVec 45) : Statement (.bnzLong a o) := none_of _ rfl
theorem fadd (t : BitVec 2) (d : Reg) (a : Reg) (b : Reg) : Statement (.fadd t d a b) := none_of _ rfl
theorem fsub (t : BitVec 2) (d : Reg) (a : Reg) (b : Reg) : Statement (.fsub t d a b) := none_of _ rfl
theorem fmul (t : BitVec 2) (d : Reg) (a : Reg) (b : Reg) : Statement (.fmul t d a b) := none_of _ rfl
theorem fdiv (t : BitVec 2) (d : Reg) (a : Reg) (b : Reg) : Statement (.fdiv t d a b) := none_of _ rfl
theorem fsqrt (t : BitVec 2) (d : Reg) (a : Reg) : Statement (.fsqrt t d a) := none_of _ rfl
theorem fma (t : BitVec 2) (d : Reg) (a : Reg) (b : Reg) : Statement (.fma t d a b) := none_of _ rfl
theorem fmin (t : BitVec 2) (d : Reg) (a : Reg) (b : Reg) : Statement (.fmin t d a b) := none_of _ rfl
theorem fmax (t : BitVec 2) (d : Reg) (a : Reg) (b : Reg) : Statement (.fmax t d a b) := none_of _ rfl
theorem fmov (t : BitVec 2) (d : Reg) (a : Reg) : Statement (.fmov t d a) := none_of _ rfl
theorem fcmpEq (t : BitVec 2) (d : Reg) (a : Reg) (b : Reg) : Statement (.fcmpEq t d a b) := none_of _ rfl
theorem fcmpLt (t : BitVec 2) (d : Reg) (a : Reg) (b : Reg) : Statement (.fcmpLt t d a b) := none_of _ rfl
theorem fcmpLe (t : BitVec 2) (d : Reg) (a : Reg) (b : Reg) : Statement (.fcmpLe t d a b) := none_of _ rfl
theorem fcmpUn (t : BitVec 2) (d : Reg) (a : Reg) (b : Reg) : Statement (.fcmpUn t d a b) := none_of _ rfl
theorem fcvt (d : Reg) (a : Reg) (dt : BitVec 4) (st : BitVec 4) : Statement (.fcvt d a dt st) := none_of _ rfl
theorem ld (z : BitVec 2) (d : Reg) (a : Reg) (o : BitVec 10) : Statement (.ld z d a o) := none_of _ rfl
theorem ldLong (z : BitVec 2) (d : Reg) (a : Reg) (o : BitVec 39) : Statement (.ldLong z d a o) := none_of _ rfl
theorem ldN (z : BitVec 2) (d : Reg) (a : Reg) (o : BitVec 10) : Statement (.ldN z d a o) := none_of _ rfl
theorem ldNLong (z : BitVec 2) (d : Reg) (a : Reg) (o : BitVec 39) : Statement (.ldNLong z d a o) := none_of _ rfl
theorem st (z : BitVec 2) (d : Reg) (a : Reg) (o : BitVec 10) : Statement (.st z d a o) := none_of _ rfl
theorem stLong (z : BitVec 2) (d : Reg) (a : Reg) (o : BitVec 39) : Statement (.stLong z d a o) := none_of _ rfl
theorem aadd (w4 : Bool) (d : Reg) (a : Reg) (b : Reg) : Statement (.aadd w4 d a b) := none_of _ rfl
theorem asub (w4 : Bool) (d : Reg) (a : Reg) (b : Reg) : Statement (.asub w4 d a b) := none_of _ rfl
theorem amin (w4 : Bool) (d : Reg) (a : Reg) (b : Reg) : Statement (.amin w4 d a b) := none_of _ rfl
theorem amax (w4 : Bool) (d : Reg) (a : Reg) (b : Reg) : Statement (.amax w4 d a b) := none_of _ rfl
theorem aminn (w4 : Bool) (d : Reg) (a : Reg) (b : Reg) : Statement (.aminn w4 d a b) := none_of _ rfl
theorem amaxn (w4 : Bool) (d : Reg) (a : Reg) (b : Reg) : Statement (.amaxn w4 d a b) := none_of _ rfl
theorem aand (w4 : Bool) (d : Reg) (a : Reg) (b : Reg) : Statement (.aand w4 d a b) := none_of _ rfl
theorem aor (w4 : Bool) (d : Reg) (a : Reg) (b : Reg) : Statement (.aor w4 d a b) := none_of _ rfl
theorem axor (w4 : Bool) (d : Reg) (a : Reg) (b : Reg) : Statement (.axor w4 d a b) := none_of _ rfl
theorem axchg (w4 : Bool) (d : Reg) (a : Reg) (b : Reg) : Statement (.axchg w4 d a b) := none_of _ rfl
theorem afadd (w4 : Bool) (d : Reg) (a : Reg) (b : Reg) : Statement (.afadd w4 d a b) := none_of _ rfl
theorem acas (w4 : Bool) (d : Reg) (a : Reg) (b : Reg) : Statement (.acas w4 d a b) := none_of _ rfl
theorem fence (sc : BitVec 3) (o : BitVec 3) : Statement (.fence sc o) := none_of _ rfl
theorem fenceSys (o : BitVec 3) : Statement (.fenceSys o) := none_of _ rfl
theorem fenceSysWin (n : BitVec 6) (o : BitVec 3) : Statement (.fenceSysWin n o) := none_of _ rfl
theorem watch (d : Reg) (a : Reg) (b : Reg) : Statement (.watch d a b) := none_of _ rfl
theorem watchWake (who : RunnerId) : Statement (.watchWake who) := none_of _ rfl
theorem lrun (t : BitVec 22) : Statement (.lrun t) := none_of _ rfl
theorem lwait (g : Bool) (m : BitVec 12) : Statement (.lwait g m) := none_of _ rfl
theorem xbset (n : BitVec 3) (a : Reg) (b : Reg) : Statement (.xbset n a b) := none_of _ rfl
theorem xbclr (n : BitVec 3) : Statement (.xbclr n) := none_of _ rfl
theorem osdef (n : BitVec 5) (a : Reg) : Statement (.osdef n a) := none_of _ rfl
theorem osend (n : BitVec 5) : Statement (.osend n) := none_of _ rfl
theorem trap (i : BitVec 16) : Statement (.trap i) := none_of _ rfl
theorem csrrd (d : Reg) (c : BitVec 10) : Statement (.csrrd d c) := none_of _ rfl
theorem csrwr (d : Reg) (a : Reg) (c : BitVec 10) : Statement (.csrwr d a c) := none_of _ rfl
theorem csrset (d : Reg) (a : Reg) (c : BitVec 10) : Statement (.csrset d a c) := none_of _ rfl
theorem csrclr (d : Reg) (a : Reg) (c : BitVec 10) : Statement (.csrclr d a c) := none_of _ rfl
theorem haltpCtx (a : Reg) : Statement (.haltpCtx a) := none_of _ rfl
theorem haltpPart (a : Reg) : Statement (.haltpPart a) := none_of _ rfl
theorem preemptSus (a : Reg) : Statement (.preemptSus a) := none_of _ rfl
theorem preemptRes (a : Reg) : Statement (.preemptRes a) := none_of _ rfl
theorem injarm (a : Reg) (b : Reg) : Statement (.injarm a b) := none_of _ rfl
theorem injarmRep (a : Reg) (b : Reg) : Statement (.injarmRep a b) := none_of _ rfl
theorem ckptPool (a : Reg) (b : Reg) : Statement (.ckptPool a b) := none_of _ rfl
theorem ckptStat (d : Reg) : Statement (.ckptStat d) := none_of _ rfl
theorem assert (a : Reg) (b : Reg) : Statement (.assert a b) := none_of _ rfl
theorem tload (d : Reg) (a : Reg) (x : BitVec 3) (z : BitVec 4) : Statement (.tload d a x z) := none_of _ rfl
theorem tloadLease (d : Reg) (a : Reg) (x : BitVec 3) (z : BitVec 4) (c : BitVec 16) : Statement (.tloadLease d a x z c) :=
  none_of _ rfl
theorem tloadTry (d : Reg) (a : Reg) (x : BitVec 3) (z : BitVec 4) (c : BitVec 16) : Statement (.tloadTry d a x z c) :=
  none_of _ rfl
theorem redeem (d : Reg) (a : Reg) : Statement (.redeem d a) := none_of _ rfl
theorem redeemQ (d : Reg) (a : Reg) (sq : Reg) : Statement (.redeemQ d a sq) := none_of _ rfl
theorem redeeml (d : Reg) (a : Reg) (x : BitVec 3) : Statement (.redeeml d a x) := none_of _ rfl
theorem redeemlLanding (d : Reg) (a : Reg) : Statement (.redeemlLanding d a) := none_of _ rfl
theorem redeemlQ (d : Reg) (a : Reg) (x : BitVec 3) (l : Bool) (sq : Reg) : Statement (.redeemlQ d a x l sq) :=
  none_of _ rfl
theorem tdrop (a : Reg) : Statement (.tdrop a) := none_of _ rfl
theorem tdropQ (a : Reg) (sq : Reg) : Statement (.tdropQ a sq) := none_of _ rfl
theorem tstat (d : Reg) (a : Reg) : Statement (.tstat d a) := none_of _ rfl
theorem tlease (d : Reg) (a : Reg) (b : Reg) : Statement (.tlease d a b) := none_of _ rfl
theorem tleaseQ (d : Reg) (a : Reg) (b : Reg) (sq : Reg) : Statement (.tleaseQ d a b sq) := none_of _ rfl
theorem txbeg (d : Reg) : Statement (.txbeg d) := none_of _ rfl
theorem txabt (a : Reg) : Statement (.txabt a) := none_of _ rfl
theorem txstat (d : Reg) (sel : Bool) : Statement (.txstat d sel) := none_of _ rfl
theorem cpyt (d : Reg) (a : Reg) (b : Reg) : Statement (.cpyt d a b) := none_of _ rfl
theorem cpytExt (d : Reg) (a : Reg) (b : Reg) (v : Bool) (x : BitVec 3) (mz : Bool) (st : Bool) : Statement (.cpytExt d a b v x mz st) :=
  none_of _ rfl
theorem cpyl (d : Reg) (a : Reg) (b : Reg) : Statement (.cpyl d a b) := none_of _ rfl
theorem cpylExt (d : Reg) (a : Reg) (b : Reg) (v : Bool) (x : BitVec 3) (dk : BitVec 2) (sk : BitVec 2) : Statement (.cpylExt d a b v x dk sk) :=
  none_of _ rfl
theorem cpylRaw (d : Reg) (a : Reg) (b : Reg) (v : Bool) (x : BitVec 3) : Statement (.cpylRaw d a b v x) :=
  none_of _ rfl
theorem cpyf (d : Reg) (a : Reg) (b : Reg) : Statement (.cpyf d a b) := none_of _ rfl
theorem cpyfExt (d : Reg) (a : Reg) (b : Reg) (v : Bool) (x : BitVec 3) (dk : BitVec 2) : Statement (.cpyfExt d a b v x dk) :=
  none_of _ rfl
theorem cpyg (d : Reg) (a : Reg) (b : Reg) : Statement (.cpyg d a b) := none_of _ rfl
theorem cpygExt (d : Reg) (a : Reg) (b : Reg) (v : Bool) (x : BitVec 3) (mz : Bool) (st : Bool) : Statement (.cpygExt d a b v x mz st) :=
  none_of _ rfl
theorem bseal (d : Reg) : Statement (.bseal d) := none_of _ rfl
theorem bwait (a : Reg) : Statement (.bwait a) := none_of _ rfl
theorem bwaitn (a : Reg) : Statement (.bwaitn a) := none_of _ rfl
theorem bstat (d : Reg) : Statement (.bstat d) := none_of _ rfl
theorem ksummOff (a : Reg) (v : Bool) (x : BitVec 3) : Statement (.ksummOff a v x) := none_of _ rfl
theorem ksummBf16 (a : Reg) (v : Bool) (x : BitVec 3) : Statement (.ksummBf16 a v x) := none_of _ rfl
theorem ksummE4m3 (a : Reg) (v : Bool) (x : BitVec 3) : Statement (.ksummE4m3 a v x) := none_of _ rfl
theorem ksummE5m2 (a : Reg) (v : Bool) (x : BitVec 3) : Statement (.ksummE5m2 a v x) := none_of _ rfl
theorem ksummRebuild (a : Reg) (v : Bool) (x : BitVec 3) : Statement (.ksummRebuild a v x) := none_of _ rfl
theorem ksummRead (d : Reg) (a : Reg) (v : Bool) (x : BitVec 3) : Statement (.ksummRead d a v x) := none_of _ rfl
theorem kbound (a : Reg) (v : Bool) (x : BitVec 3) : Statement (.kbound a v x) := none_of _ rfl
theorem kfetch (d : Reg) (a : Reg) (b : Reg) (v : Bool) (x : BitVec 3) : Statement (.kfetch d a b v x) :=
  none_of _ rfl
theorem klist (d : Reg) (a : Reg) (b : Reg) (v : Bool) (x : BitVec 3) : Statement (.klist d a b v x) := none_of _ rfl
theorem mloop (a : Reg) (b : Reg) : Statement (.mloop a b) := none_of _ rfl
theorem osub (n : BitVec 5) (p : Bool) (k : BitVec 3) (w : BitVec 6) : Statement (.osub n p k w) := none_of _ rfl
theorem accz (a : Reg) : Statement (.accz a) := none_of _ rfl
theorem accld (t : BitVec 4) (a : Reg) (b : Reg) : Statement (.accld t a b) := none_of _ rfl
theorem accldTyped (t : BitVec 4) (a : Reg) (b : Reg) (y : BitVec 4) (rm : BitVec 3) (sat : Bool) : Statement (.accldTyped t a b y rm sat) :=
  none_of _ rfl
theorem accst (t : BitVec 4) (a : Reg) (b : Reg) : Statement (.accst t a b) := none_of _ rfl
theorem accstTyped (t : BitVec 4) (a : Reg) (b : Reg) (y : BitVec 4) (rm : BitVec 3) (sat : Bool) : Statement (.accstTyped t a b y rm sat) :=
  none_of _ rfl
theorem accver (d : Reg) (t : BitVec 4) : Statement (.accver d t) := none_of _ rfl
theorem accverWait (a : Reg) (t : BitVec 4) : Statement (.accverWait a t) := none_of _ rfl
theorem accverSet (a : Reg) (t : BitVec 4) : Statement (.accverSet a t) := none_of _ rfl
theorem launch (d : Reg) (a : Reg) : Statement (.launch d a) := none_of _ rfl
theorem launchTry (d : Reg) (a : Reg) : Statement (.launchTry d a) := none_of _ rfl
theorem lwaitg (d : Reg) (a : Reg) : Statement (.lwaitg d a) := none_of _ rfl
theorem gstat (d : Reg) (a : Reg) : Statement (.gstat d a) := none_of _ rfl
theorem vgrow (d : Reg) (a : Reg) : Statement (.vgrow d a) := none_of _ rfl
theorem vshrink (d : Reg) (a : Reg) : Statement (.vshrink d a) := none_of _ rfl
theorem gexit (a : Reg) (b : Reg) : Statement (.gexit a b) := none_of _ rfl
theorem flagRelease (who : RunnerId) (k : Nat) : Statement (.flagRelease who k) := none_of _ rfl
theorem issuePromotion (who : RunnerId) (lane : Bool) : Statement (.issuePromotion who lane) := none_of _ rfl
theorem streamElementRead (gal : Nat) (os : Nat) : Statement (.streamElementRead gal os) := none_of _ rfl
theorem distributorElementRead (gal : Nat) (os : Nat) : Statement (.distributorElementRead gal os) := none_of _ rfl
theorem ticketDataArrival (e : EntryId) : Statement (.ticketDataArrival e) := none_of _ rfl
theorem redemptionDelivery (e : EntryId) : Statement (.redemptionDelivery e) := none_of _ rfl
theorem leaseExpiry (e : EntryId) : Statement (.leaseExpiry e) := none_of _ rfl
theorem cloakroomReconfigure (die : Nat) (slice : Nat) : Statement (.cloakroomReconfigure die slice) := none_of _ rfl
theorem porterOperationStart (porter : Nat) : Statement (.porterOperationStart porter) := none_of _ rfl
theorem copyComplete (op : Nat) : Statement (.copyComplete op) := none_of _ rfl
theorem usherBound (op : Nat) (k : Nat) : Statement (.usherBound op k) := none_of _ rfl
theorem gatherListMerge (op : Nat) : Statement (.gatherListMerge op) := none_of _ rfl
theorem ksummBuildComplete (op : Nat) : Statement (.ksummBuildComplete op) := none_of _ rfl
theorem memoryWriteArrival (k : Nat) : Statement (.memoryWriteArrival k) := none_of _ rfl
theorem matrixOperationStart (core : Nat) (k : Nat) : Statement (.matrixOperationStart core k) := none_of _ rfl
theorem mloopKStep (core : Nat) : Statement (.mloopKStep core) := none_of _ rfl
theorem matrixOperationComplete (core : Nat) (k : Nat) : Statement (.matrixOperationComplete core k) := none_of _ rfl
theorem gridReady (h : Word) : Statement (.gridReady h) := none_of _ rfl
theorem squadPlacement (part : Nat) : Statement (.squadPlacement part) := none_of _ rfl
theorem placementReservation (part : Nat) (queue : Nat) : Statement (.placementReservation part queue) :=
  none_of _ rfl
theorem producerPreemption (h : Word) : Statement (.producerPreemption h) := none_of _ rfl
theorem vgrowGrant (core : Nat) : Statement (.vgrowGrant core) := none_of _ rfl
theorem vgrowDeadlockBreak (core : Nat) : Statement (.vgrowDeadlockBreak core) := none_of _ rfl
theorem gridComplete (h : Word) : Statement (.gridComplete h) := none_of _ rfl
theorem engineStop (part : Nat) (engine : Nat) : Statement (.engineStop part engine) := none_of _ rfl
theorem skidOverrun (part : Nat) : Statement (.skidOverrun part) := none_of _ rfl
theorem haltCollected (part : Nat) : Statement (.haltCollected part) := none_of _ rfl
theorem preemptionComplete (squad : Nat) : Statement (.preemptionComplete squad) := none_of _ rfl
theorem txEarlyValidation (who : RunnerId) (lane : Nat) : Statement (.txEarlyValidation who lane) := none_of _ rfl
theorem msixMessage (port : Nat) (vec : Nat) : Statement (.msixMessage port vec) := none_of _ rfl
theorem peerWrite (port : Nat) (off : Nat) (data : List Byte) : Statement (.peerWrite port off data) := none_of _ rfl
theorem peerRead (port : Nat) (off : Nat) (len : Nat) : Statement (.peerRead port off len) := none_of _ rfl
theorem bar4Access (port : Nat) (pa : Nat) (wr : Bool) (data : List Byte) : Statement (.bar4Access port pa wr data) :=
  none_of _ rfl
theorem remoteAccessTimeout (who : RunnerId) : Statement (.remoteAccessTimeout who) := none_of _ rfl
theorem controllerBatchForm (c : Nat) : Statement (.controllerBatchForm c) := none_of _ rfl
theorem scrubVisit (line : Nat) : Statement (.scrubVisit line) := none_of _ rfl
theorem hotnessIntervalEnd (c : Nat) : Statement (.hotnessIntervalEnd c) := none_of _ rfl
theorem refreshHeartbeat (stack : Nat) : Statement (.refreshHeartbeat stack) := none_of _ rfl
theorem refreshTakeover (stack : Nat) : Statement (.refreshTakeover stack) := none_of _ rfl
theorem escapeRecovery (router : Nat) : Statement (.escapeRecovery router) := none_of _ rfl
theorem injectorAct (link : Nat) (dir : Bool) : Statement (.injectorAct link dir) := none_of _ rfl
theorem supplySag (hall : Nat) : Statement (.supplySag hall) := none_of _ rfl
theorem supplyRecover (hall : Nat) (ns : Nat) : Statement (.supplyRecover hall ns) := none_of _ rfl
theorem partitionReset (part : Nat) : Statement (.partitionReset part) := none_of _ rfl
theorem hostCoreRestart (n : Nat) : Statement (.hostCoreRestart n) := none_of _ rfl
theorem routingTableWrite (dest : Nat) (links : List Nat) : Statement (.routingTableWrite dest links) := none_of _ rfl
theorem tlbInvalidatePage (va : Word) (k : BitVec 4) : Statement (.tlbInvalidatePage va k) := none_of _ rfl
theorem ctxctlCreate (n : BitVec 16) : Statement (.ctxctlCreate n) := none_of _ rfl
theorem curctxWrite (n : BitVec 16) : Statement (.curctxWrite n) := none_of _ rfl
theorem clkcfgWrite (v : BitVec 2) : Statement (.clkcfgWrite v) := none_of _ rfl
theorem lswzWrite (v : BitVec 24) : Statement (.lswzWrite v) := none_of _ rfl
theorem keyInstall (slot : BitVec 8) (dword : Word) : Statement (.keyInstall slot dword) := none_of _ rfl
theorem windowRegisterWrite (n : BitVec 6) (ctl : Bool) (v : Word) : Statement (.windowRegisterWrite n ctl v) :=
  none_of _ rfl
theorem counterClear (off : Nat) : Statement (.counterClear off) := none_of _ rfl
theorem noticeClear (v : Word) : Statement (.noticeClear v) := none_of _ rfl
theorem registerWrite (c : BitVec 10) (v : Word) : Statement (.registerWrite c v) := none_of _ rfl
theorem linkFlitError (link : Nat) (corrected : Bool) : Statement (.linkFlitError link corrected) := none_of _ rfl
theorem memoryError (addr : Nat) (correctable : Bool) : Statement (.memoryError addr correctable) := none_of _ rfl
theorem escapeChannelEmpty (router : Nat) : Statement (.escapeChannelEmpty router) := none_of _ rfl
theorem outboundWriteAccept (who : RunnerId) (answer : Word) : Statement (.outboundWriteAccept who answer) :=
  none_of _ rfl
theorem nop : Statement .nop := none_of _ rfl
theorem rfe : Statement .rfe := none_of _ rfl
theorem ckptRb : Statement .ckptRb := none_of _ rfl
theorem txend : Statement .txend := none_of _ rfl
theorem texit : Statement .texit := none_of _ rfl
theorem clause : Statement .clause := none_of _ rfl
theorem runStart : Statement .runStart := none_of _ rfl
theorem vadd : Statement .vadd := some_of _ 0x0 0x00 rfl fun _ _ => rfl
theorem vsub : Statement .vsub := some_of _ 0x0 0x01 rfl fun _ _ => rfl
theorem vmul : Statement .vmul := some_of _ 0x0 0x02 rfl fun _ _ => rfl
theorem vmulh : Statement .vmulh := some_of _ 0x0 0x03 rfl fun _ _ => rfl
theorem vmad : Statement .vmad := some_of _ 0x0 0x04 rfl fun _ _ => rfl
theorem vmin : Statement .vmin := some_of _ 0x0 0x05 rfl fun _ _ => rfl
theorem vmax : Statement .vmax := some_of _ 0x0 0x06 rfl fun _ _ => rfl
theorem vabs : Statement .vabs := some_of _ 0x0 0x07 rfl fun _ _ => rfl
theorem vand : Statement .vand := some_of _ 0x0 0x08 rfl fun _ _ => rfl
theorem vor : Statement .vor := some_of _ 0x0 0x09 rfl fun _ _ => rfl
theorem vxor : Statement .vxor := some_of _ 0x0 0x0A rfl fun _ _ => rfl
theorem vnot : Statement .vnot := some_of _ 0x0 0x0B rfl fun _ _ => rfl
theorem vshl : Statement .vshl := some_of _ 0x0 0x0C rfl fun _ _ => rfl
theorem vshr : Statement .vshr := some_of _ 0x0 0x0D rfl fun _ _ => rfl
theorem vsar : Statement .vsar := some_of _ 0x0 0x0E rfl fun _ _ => rfl
theorem vclz : Statement .vclz := some_of _ 0x0 0x0F rfl fun _ _ => rfl
theorem vpopc : Statement .vpopc := some_of _ 0x0 0x10 rfl fun _ _ => rfl
theorem vbfx : Statement .vbfx := some_of _ 0x0 0x11 rfl fun _ _ => rfl
theorem vsel : Statement .vsel := some_of _ 0x0 0x12 rfl fun _ _ => rfl
theorem vcmp : Statement .vcmp := some_of _ 0x0 0x13 rfl fun _ _ => rfl
theorem vmov : Statement .vmov := some_of _ 0x0 0x14 rfl fun _ _ => rfl
theorem vmovi : Statement .vmovi := some_of _ 0x0 0x15 rfl fun _ _ => rfl
theorem vfadd : Statement .vfadd := some_of _ 0x1 0x00 rfl fun _ _ => rfl
theorem vfsub : Statement .vfsub := some_of _ 0x1 0x01 rfl fun _ _ => rfl
theorem vfmul : Statement .vfmul := some_of _ 0x1 0x02 rfl fun _ _ => rfl
theorem vffma : Statement .vffma := some_of _ 0x1 0x03 rfl fun _ _ => rfl
theorem vfmin : Statement .vfmin := some_of _ 0x1 0x04 rfl fun _ _ => rfl
theorem vfmax : Statement .vfmax := some_of _ 0x1 0x05 rfl fun _ _ => rfl
theorem vfcmp : Statement .vfcmp := some_of _ 0x1 0x06 rfl fun _ _ => rfl
theorem vfrcp : Statement .vfrcp := some_of _ 0x1 0x07 rfl fun _ _ => rfl
theorem vfrsq : Statement .vfrsq := some_of _ 0x1 0x08 rfl fun _ _ => rfl
theorem vfsqrt : Statement .vfsqrt := some_of _ 0x1 0x09 rfl fun _ _ => rfl
theorem vfdiv : Statement .vfdiv := some_of _ 0x1 0x0A rfl fun _ _ => rfl
theorem vfexp2 : Statement .vfexp2 := some_of _ 0x1 0x0B rfl fun _ _ => rfl
theorem vflog2 : Statement .vflog2 := some_of _ 0x1 0x0C rfl fun _ _ => rfl
theorem vfsin : Statement .vfsin := some_of _ 0x1 0x0D rfl fun _ _ => rfl
theorem vfcos : Statement .vfcos := some_of _ 0x1 0x0E rfl fun _ _ => rfl
theorem vfcvt : Statement .vfcvt := some_of _ 0x1 0x0F rfl fun _ _ => rfl
theorem vfrnd : Statement .vfrnd := some_of _ 0x1 0x10 rfl fun _ _ => rfl
theorem vfscale : Statement .vfscale := some_of _ 0x1 0x11 rfl fun _ _ => rfl
theorem vfcma : Statement .vfcma := some_of _ 0x1 0x12 rfl fun _ _ => rfl
theorem vshfl : Statement .vshfl := some_of _ 0x2 0x00 rfl fun _ _ => rfl
theorem vbcast : Statement .vbcast := some_of _ 0x2 0x01 rfl fun _ _ => rfl
theorem vred : Statement .vred := some_of _ 0x2 0x02 rfl fun _ _ => rfl
theorem vscan : Statement .vscan := some_of _ 0x2 0x03 rfl fun _ _ => rfl
theorem vballot : Statement .vballot := some_of _ 0x2 0x04 rfl fun _ _ => rfl
theorem vpack : Statement .vpack := some_of _ 0x2 0x05 rfl fun _ _ => rfl
theorem vunpk : Statement .vunpk := some_of _ 0x2 0x06 rfl fun _ _ => rfl
theorem cend : Statement .cend := some_of _ 0x3 0x00 rfl fun _ _ => rfl
theorem brl : Statement .brl := some_of _ 0x3 0x01 rfl fun _ _ => rfl
theorem mark : Statement .mark := some_of _ 0x3 0x02 rfl fun _ _ => rfl
theorem join : Statement .join := some_of _ 0x3 0x03 rfl fun _ _ => rfl
theorem mset : Statement .mset := some_of _ 0x3 0x04 rfl fun _ _ => rfl
theorem mand : Statement .mand := some_of _ 0x3 0x05 rfl fun _ _ => rfl
theorem mor : Statement .mor := some_of _ 0x3 0x06 rfl fun _ _ => rfl
theorem mnot : Statement .mnot := some_of _ 0x3 0x07 rfl fun _ _ => rfl
theorem mcnt : Statement .mcnt := some_of _ 0x3 0x08 rfl fun _ _ => rfl
theorem tbar : Statement .tbar :=
  some_of _ 0x3 0x09 rfl fun f h => by
    simp only [Instr.slotOk, Bool.not_eq_true'] at h
    change some (if _ then _ else _) = _
    rw [h]
    rfl
theorem tbarCk : Statement .tbarCk :=
  some_of _ 0x3 0x09 rfl fun f h => by
    simp only [Instr.slotOk] at h
    change some (if _ then _ else _) = _
    rw [h]
    rfl
theorem sbar : Statement .sbar := some_of _ 0x3 0x0A rfl fun _ _ => rfl
theorem yield : Statement .yield := some_of _ 0x3 0x0B rfl fun _ _ => rfl
theorem vld : Statement .vld := some_of _ 0x4 0x00 rfl fun _ _ => rfl
theorem vst : Statement .vst := some_of _ 0x4 0x01 rfl fun _ _ => rfl
theorem vgath : Statement .vgath := some_of _ 0x4 0x02 rfl fun _ _ => rfl
theorem vscat : Statement .vscat := some_of _ 0x4 0x03 rfl fun _ _ => rfl
theorem vldl : Statement .vldl := some_of _ 0x4 0x04 rfl fun _ _ => rfl
theorem vstl : Statement .vstl := some_of _ 0x4 0x05 rfl fun _ _ => rfl
theorem vldm : Statement .vldm := some_of _ 0x4 0x06 rfl fun _ _ => rfl
theorem vstm : Statement .vstm := some_of _ 0x4 0x07 rfl fun _ _ => rfl
theorem xst : Statement .xst := some_of _ 0x4 0x08 rfl fun _ _ => rfl
theorem vlda : Statement .vlda := some_of _ 0x4 0x09 rfl fun _ _ => rfl
theorem vsta : Statement .vsta := some_of _ 0x4 0x0A rfl fun _ _ => rfl
theorem lkld : Statement .lkld := some_of _ 0x4 0x0B rfl fun _ _ => rfl
theorem lkst : Statement .lkst := some_of _ 0x4 0x0C rfl fun _ _ => rfl
theorem prf : Statement .prf := some_of _ 0x4 0x0D rfl fun _ _ => rfl
theorem vaadd : Statement .vaadd := some_of _ 0x5 0x00 rfl fun _ _ => rfl
theorem vasub : Statement .vasub := some_of _ 0x5 0x01 rfl fun _ _ => rfl
theorem vamin : Statement .vamin := some_of _ 0x5 0x02 rfl fun _ _ => rfl
theorem vamax : Statement .vamax := some_of _ 0x5 0x03 rfl fun _ _ => rfl
theorem vaminn : Statement .vaminn := some_of _ 0x5 0x04 rfl fun _ _ => rfl
theorem vamaxn : Statement .vamaxn := some_of _ 0x5 0x05 rfl fun _ _ => rfl
theorem vaand : Statement .vaand := some_of _ 0x5 0x06 rfl fun _ _ => rfl
theorem vaor : Statement .vaor := some_of _ 0x5 0x07 rfl fun _ _ => rfl
theorem vaxor : Statement .vaxor := some_of _ 0x5 0x08 rfl fun _ _ => rfl
theorem vaxchg : Statement .vaxchg := some_of _ 0x5 0x09 rfl fun _ _ => rfl
theorem vacas : Statement .vacas := some_of _ 0x5 0x0A rfl fun _ _ => rfl
theorem vafadd : Statement .vafadd := some_of _ 0x5 0x0B rfl fun _ _ => rfl
theorem laneFence : Statement .laneFence := some_of _ 0x5 0x10 rfl fun _ _ => rfl
theorem tloadv : Statement .tloadv := some_of _ 0x5 0x20 rfl fun _ _ => rfl
theorem laneRedeem : Statement .laneRedeem :=
  some_of _ 0x5 0x21 rfl fun f h => by
    simp only [Instr.slotOk, Bool.not_eq_true'] at h
    change some (if _ then _ else _) = _
    rw [h]
    rfl
theorem laneRedeemL : Statement .laneRedeemL :=
  some_of _ 0x5 0x21 rfl fun f h => by
    simp only [Instr.slotOk] at h
    change some (if _ then _ else _) = _
    rw [h]
    rfl
theorem laneTxbeg : Statement .laneTxbeg := some_of _ 0x6 0x00 rfl fun _ _ => rfl
theorem laneTxend : Statement .laneTxend := some_of _ 0x6 0x01 rfl fun _ _ => rfl
theorem laneTxabt : Statement .laneTxabt := some_of _ 0x6 0x02 rfl fun _ _ => rfl
theorem laneTxstat : Statement .laneTxstat := some_of _ 0x6 0x03 rfl fun _ _ => rfl
theorem laneCpyt : Statement .laneCpyt := some_of _ 0x6 0x10 rfl fun _ _ => rfl
theorem laneCpyl : Statement .laneCpyl := some_of _ 0x6 0x11 rfl fun _ _ => rfl
theorem laneCpyf : Statement .laneCpyf := some_of _ 0x6 0x12 rfl fun _ _ => rfl
theorem laneCpyg : Statement .laneCpyg := some_of _ 0x6 0x13 rfl fun _ _ => rfl
theorem mma : Statement .mma := some_of _ 0x7 0x00 rfl fun _ _ => rfl
theorem accrd : Statement .accrd := some_of _ 0x7 0x01 rfl fun _ _ => rfl
theorem accwr : Statement .accwr := some_of _ 0x7 0x02 rfl fun _ _ => rfl
theorem vconf : Statement .vconf := some_of _ 0x8 0x00 rfl fun _ _ => rfl
theorem vcomb : Statement .vcomb := some_of _ 0x8 0x01 rfl fun _ _ => rfl
theorem visect : Statement .visect := some_of _ 0x8 0x02 rfl fun _ _ => rfl
theorem vmerge : Statement .vmerge := some_of _ 0x8 0x03 rfl fun _ _ => rfl
theorem vcompr : Statement .vcompr := some_of _ 0x8 0x04 rfl fun _ _ => rfl
theorem vexpd : Statement .vexpd := some_of _ 0x8 0x05 rfl fun _ _ => rfl
theorem idxld : Statement .idxld := some_of _ 0x8 0x06 rfl fun _ _ => rfl
theorem laneAssert : Statement .laneAssert := some_of _ 0x9 0x00 rfl fun _ _ => rfl
theorem vcsrrd : Statement .vcsrrd := some_of _ 0x9 0x01 rfl fun _ _ => rfl
theorem fallbackLockGrant : Statement .fallbackLockGrant := none_of _ rfl
theorem fallbackLockRevoke : Statement .fallbackLockRevoke := none_of _ rfl
theorem packageReset : Statement .packageReset := none_of _ rfl
theorem tlbInvalidateAll : Statement .tlbInvalidateAll := none_of _ rfl
theorem tlbInvalidateContext : Statement .tlbInvalidateContext := none_of _ rfl
theorem unusedOpcode : Statement .unusedOpcode := none_of _ rfl
theorem leadFetch : Statement .leadFetch := none_of _ rfl

end Sys2Proof.Laws.SlotMap
end

