-- ==== Sys2Proof/Laws/Shared.lean ====
section
/-! SUPPORT. What the shared operations of the lead stream answer, once for each: its checks, its fetch of a branch target,
its accesses, its tickets, its copies. The hypotheses are those that the statements use. -/

namespace Sys2Proof.Laws

open Sys2Proof Sys2Proof.Machine Sys2Proof.Claims

/-! ## The state that moves past the instruction -/

@[simp] theorem onward_isHost (s : State) : (onward s).me.isHost = s.me.isHost := rfl

@[simp] theorem onward_sup (s : State) : (onward s).me.sup = s.me.sup := rfl

@[simp] theorem onward_ctx (s : State) : (onward s).me.ctx = s.me.ctx := rfl

@[simp] theorem onward_tx (s : State) : (onward s).me.tx = s.me.tx := rfl

@[simp] theorem onward_xb (s : State) : (onward s).me.xb = s.me.xb := rfl

/-! ## Values or causes -/

/-- A computation that answers, answers its value. -/
theorem ok_get {ε α : Type} (x : Except ε α) (d : α) (h : x.isOk = true) : x = .ok (x.toOption.getD d) := by
  cases x with
  | error e => simp [Except.isOk, Except.toBool] at h
  | ok a => rfl

/-- A value that a check found goes on. -/
theorem run_orTrap_ok {α : Type} {x : α} {e : Except (Nat × Word) α} {s : State} (h : e = .ok x) :
    (orTrap e).run s = .ok (x, s) := by rw [h]; rfl

/-- A cause that a check found traps. -/
theorem run_orTrap_error {α : Type} {c : Nat × Word} {e : Except (Nat × Word) α} {s : State} (h : e = .error c) :
    (orTrap e).run s = .error (.trap c.1 c.2) := by rw [h]; rfl

/-! ## Pages (R188) -/

/-- A page that can be marked is marked. -/
theorem run_markPageOf {r : Runner} {t : Tr} {w : Bool} {s : State} (h : markReady s r t w = true) :
    (markPageOf r t w).run s = .ok ((), markAccess s r t w) := by simp [markPageOf, h]

/-! ## Branch targets (R97) -/

/-- A word that can be fetched is fetched. -/
theorem run_codeWord {s : State} {t : Tr} {a : Word} (h : CodeAt s a t) :
    (codeWord a).run s = .ok (codeWordAt t s, fetched t s) := by
  obtain ⟨h1, h2, h3, h4⟩ := h
  unfold codeWord codeWordAt fetched
  simp only [run_bind, run_get, h1, h2, h3, Bool.and_false, Bool.or_false, Bool.false_eq_true, if_false, run_markPageOf h4]
  split <;> simp

/-- A branch to an aligned word with its entry mark goes there. -/
theorem run_branchTo {s : State} {t : Tr} {a : Word} {link : Option Reg} (h : CodeAt s a t) (ha : a.toNat % 4 = 0)
    (he : (codeWordAt t s).getLsbD 29 = true) :
    (branchTo a link).run s = .ok ((), { fetched t s with me := { (fetched t s).me with
      s := (match link with
        | some d => sregSet (fetched t s).me.s d (fetched t s).issue.next
        | none => (fetched t s).me.s)
      pc := a } }) := by
  have := run_codeWord h
  simp only [branchTo, run_bind, ha, beq_self_eq_true, run_need_true, run_get, this, run_set, he]
  cases link <;> simp

/-! ## Lead accesses (R104, R107) -/

/-- An access outside a transaction that passes its checks finds its translation. -/
theorem run_leadCheck {s : State} {a : Word} {n : Nat} {need : Need} {t : Tr} (h : LeadReach s a n need t)
    (h1 : need.rd = true → poisoned s t.pa n = false) (h2 : answeredOutside s t.pa = false) (htx : s.me.tx.active = false) :
    (leadCheck a n need).run s = .ok (t, s) := by
  obtain ⟨h3, h4, h5⟩ := h
  simp only [leadCheck, run_bind, run_get, h3, h4, h5, h2, htx]
  cases hr : need.rd <;> simp [h1, hr]

/-- The same inside one. -/
theorem run_leadCheck_tx {s : State} {a : Word} {n : Nat} {need : Need} {t : Tr} (h : TxAccess s a n need t)
    (htx : s.me.tx.active = true) : (leadCheck a n need).run s = .ok (t, s) := by
  obtain ⟨⟨h3, h4, h5⟩, h1, h2⟩ := h
  simp only [leadCheck, run_bind, run_get, h3, h4, h5, htx]
  cases hr : need.rd
  · simp
  · have h4 := h2 hr
    simp [h1 hr, h4]

/-- A read of memory by the lead stream. -/
theorem run_readAt {s : State} {t : Tr} {n : Nat} (hm : (poolOf t.pa).isMemory = true)
    (ho : answeredOutside s t.pa = false) (hr : markReady s s.me t false = true) : (readAt (leadAgent s) t n).run s =
      .ok (viewRead (readDone t n s) (some s.me.id) s.me.die ((keyId s t.key).getD 0) t.pa n, readDone t n s) := by
  have hd : deviceReady s (leadAgent s).who t.pa = true := by
    unfold deviceReady
    cases hp : poolOf t.pa <;> simp_all [Pool.isMemory]
  have hr' : markReady s ((leadAgent s).runner s) t false = true := by simpa [leadAgent, Agent.runner] using hr
  unfold readAt
  simp only [run_bind, run_get, ho, Bool.false_eq_true, if_false, hd, run_readyIf_true, run_markPageOf hr']
  simp only [readDone, leadAgent, Agent.runner]
  split <;> simp_all [Pool.isMemory]

/-- Answers used are spent. -/
theorem run_spendAnswers (g : Agent) (s : State) : (spendAnswers g).run s = .ok ((), spent g.who g.lane s) := by
  unfold spendAnswers spent
  simp only [run_modify]
  cases g.lane <;> simp

/-- A lead load outside a transaction. -/
theorem run_leadRead {s : State} {a : Word} {n : Nat} {t : Tr} (hm : (poolOf t.pa).isMemory = true)
    (ho : answeredOutside s t.pa = false) (hr : markReady s s.me t false = true) (htx : s.me.tx.active = false) :
    (leadRead a t n).run s = .ok (dieSees t n s, spent s.me.id false (readDone t n s)) := by
  simp only [leadRead, run_bind, run_get, htx, Bool.false_eq_true, if_false, run_readAt hm ho hr, run_spendAnswers, run_pure]
  rfl

/-- A lead store outside a transaction. -/
theorem run_leadWrite {s : State} {a : Word} {t : Tr} {bs : List Byte} (htx : s.me.tx.active = false)
    (h : storeReady s (leadAgent s) t.pa bs.length = true) (hr : markReady s ((leadAgent s).runner s) t true = true) :
    (leadWrite a t bs).run s = .ok ((), storeDone t bs s) := by
  simp only [leadWrite, run_bind, run_get, htx, Bool.false_eq_true, if_false, writeAt, h, run_readyIf_true,
    run_markPageOf hr, run_modify]
  rfl

/-! ## Accesses of a lead transaction (R275) -/

/-- Where no line is fresh, the write buffer holds every byte. -/
theorem held_of_fresh {buf : List (Nat × Byte)} {pa n i : Nat} (h : freshLines buf pa n = []) (hi : i < n) :
    ∃ b, bufByte buf (pa + i) = some b := by
  cases hb : bufByte buf (pa + i) with
  | some b => exact ⟨b, rfl⟩
  | none =>
    have : (pa + i) / 256 ∈ freshLines buf pa n := by
      simp only [freshLines, List.mem_eraseDups, List.mem_map, List.mem_filter]
      exact ⟨pa + i, ⟨⟨i, List.mem_range.mpr hi, Nat.add_comm ..⟩, by simp [hb]⟩, rfl⟩
    rw [h] at this; exact absurd this List.not_mem_nil

/-- A target that is memory of the package stands in a transaction. -/
theorem run_txPlace {a : Word} {t : Tr} {s : State} (h : OwnMemory s t) : (txPlace a t).run s = .ok ((), s) := by
  simp [txPlace, h.1, h.2]

/-- A read of a lead transaction that fits. -/
theorem run_txRead {a : Word} {t : Tr} {n : Nat} {s : State} (ho : OwnMemory s t) (h : TxReadFits t n s) :
    (txRead a t n).run s =
      .ok ((txHomeBytes t n s).map fun p => (bufByte s.me.tx.wbuf p.1).getD p.2, txReadDone t n s) := by
  obtain ⟨h1, h2, h3⟩ := h
  unfold txFresh at h1 h3
  simp only [txRead, run_bind, run_txPlace ho, run_get, h1, h2, run_readyIf_true, Bool.false_eq_true, if_false, txReadDone, txFresh]
  by_cases hf : freshLines s.me.tx.wbuf t.pa n = []
  · simp only [hf, txHomeBytes, List.isEmpty_nil, if_true, run_bind, run_modify, run_pure, List.map_map]
    refine congrArg Except.ok (Prod.ext (List.map_congr_left fun i hi => ?_) rfl)
    obtain ⟨b, hb⟩ := held_of_fresh hf (List.mem_range.mp hi)
    simp [hb]
  · obtain ⟨h4, h5⟩ := h3 hf
    simp [hf, h4, h5, txHomeBytes, txHome]

/-- A write of a lead transaction that fits. -/
theorem run_txWrite {a : Word} {t : Tr} {bs : List Byte} {s : State} (ho : OwnMemory s t) (h : TxWriteFits t bs.length s) :
    (txWrite a t bs).run s = .ok ((), txWriteDone t bs s) := by
  obtain ⟨h1, h2, h3⟩ := h
  simp only [txWrite, run_bind, run_txPlace ho, run_get, h1, h2, h3, run_readyIf_true, Bool.false_eq_true, if_false, run_set]
  rfl

/-! ## Orders (R241) -/

/-- Scope and order in force. -/
theorem run_orderOf (s : State) : ordOf.run s = .ok (orderOf s, s) := by rw [run_ordOf]; rfl

/-- A release part that need not wait. -/
theorem run_releaseReady {sc o : Nat} {s : State} (h : CanReleaseAt sc o s) : (releaseReady sc o).run s = .ok ((), s) := by
  unfold releaseReady
  simp only [run_bind, run_get]
  cases h1 : hasRelease o
  · simp
  · obtain ⟨h2, h3⟩ := h h1
    have h4 : (!(true && decide (5 ≤ sc) && dieLocked s s.me.id s.me.die)) = true := by
      by_cases h5 : 5 ≤ sc
      · rw [h2 h5]; simp
      · simp [h5]
    rw [h4, h3]; simp

/-- The release part of an order. -/
theorem run_before {sc o : Nat} {s : State} (h : CanReleaseAt sc o s) :
    (before sc o).run s = .ok ((), releasedAt sc o s) := by
  unfold before releasedAt
  simp only [run_bind, run_releaseReady h]
  split <;> simp

/-- What order sc asks of a read at a scope (R241). -/
theorem run_scDone {sc o : Nat} {s : State} (h : CanScAt sc o s) : (scDone sc o).run s = .ok ((), scAt sc o s) := by
  unfold scDone scAt
  by_cases ho : o = 4
  · obtain ⟨h1, h2⟩ := h ho
    have h4 : (!(decide (5 ≤ sc) && dieLocked s s.me.id s.me.die)) = true := by
      by_cases h5 : 5 ≤ sc <;> simp [h5, h1]
    simp only [ho, if_true, run_bind, run_get, h4, h2, run_readyIf_true, run_modify]
  · simp [ho]

/-- What order sc asks outside a transaction. -/
theorem run_leadSc {o : Nat × Nat} {s : State} (htx : s.me.tx.active = false) (h : CanScAt o.1 o.2 s) :
    (leadSc o).run s = .ok ((), scAt o.1 o.2 s) := by simp [leadSc, htx, run_scDone h]

/-- The release part outside a transaction. -/
theorem run_leadBefore {o : Nat × Nat} {s : State} (htx : s.me.tx.active = false) (h : CanReleaseAt o.1 o.2 s) :
    (leadBefore o).run s = .ok ((), releasedAt o.1 o.2 s) := by simp [leadBefore, htx, run_before h]

/-! ## Tickets (R219, R220) -/

/-- A ticket that passes its checks. -/
theorem run_withTicket_ok {s : State} {a : Reg} {sq : Option Reg} {fits : Nat → Bool} {k : Word → Cloak → Op Unit}
    {e : Cloak} (h1 : s.me.ctx ≠ 0) (h2 : s.me.tx.active = false) (h : checkRedeem s (s.me.sreg a) fits = .ok e) :
    (withTicket a sq fits k).run s = (k (s.me.sreg a) e).run s := by simp [withTicket, h1, h2, h]

/-- A ticket that is refused. -/
theorem run_withTicket_error {s : State} {a : Reg} {sq : Option Reg} {fits : Nat → Bool} {k : Word → Cloak → Op Unit}
    {c : Nat} (h1 : s.me.ctx ≠ 0) (h2 : s.me.tx.active = false) (h : checkRedeem s (s.me.sreg a) fits = .error c) :
    (withTicket a sq fits k).run s = (refuse sq c (s.me.sreg a)).run s := by simp [withTicket, h1, h2, h]

/-- A READY entry is delivered, once the pages of its destination are marked. -/
theorem run_redeemLead_ready {s : State} {e : Cloak} {t : Word} {d : Deliver} {mark : State → State}
    (h : deliveryBlocked s s.me.id d = false) (h1 : e.st = .ready) (h2 : e.poison = false) :
    (redeemLead e t d mark).run s = .ok ((), deliverNow e d (markDirty (mark s))) := by simp [redeemLead, h, h1, h2]

/-! ## Copies and ushers (R298, R384) -/

/-- An address operand by itself. -/
theorem run_operand {c : Copier} (h : c.xb = none) (v : Word) (n : Nat) (s : State) :
    (c.operand v n).run s = .ok (v, s) := by simp [Copier.operand, h]

/-- A landing operand that lies in the team's landing. -/
theorem run_scratchSide_land {a : Word} {n : Nat} {s : State} {t : Team} (h : myTeam s = some t) (hl : a.toNat + n ≤ t.len) :
    (scratchSide 1 a n).run s = .ok ((t, a.toNat), s) := by simp [scratchSide, h, hl]

/-- Pages whose keys can serve. -/
theorem run_keyCause {s q : State} {ps : List Portion} (h : ∀ p ∈ ps, keyFault s p.t = false) :
    (keyCause s ps).run q = .ok ((), q) := by
  unfold keyCause
  have : ps.find? (fun p => keyFault s p.t) = none := by simpa [List.find?_eq_none] using h
  rw [this]; rfl

/-- The first line of R298. -/
theorem run_openCopy {c : Copier} {s : State} (h0 : s.me.openOps.length < 64) (h : CanReleaseAt c.scope c.order s) :
    (openCopy c).run s = .ok ((), releasedAt c.scope c.order s) := by
  unfold openCopy
  simp [h0, run_before h]

/-- A plan that finds room is queued at a porter. -/
theorem run_issuePlan {p : Plan} {q u : State} (h : Queued p q u) : (issuePlan p none).run q = .ok ((), u) := by
  obtain ⟨h1, h2, h3, h4⟩ := h
  unfold issuePlan
  have : p.ranges[64]? = none := by simp [h1]
  simp [this, h2, h3, h4]

/-- A plan that finds room is queued at an usher. -/
theorem run_issueUsher {n : Nat} {p : Plan} {q u : State} (h : AtUsher n p q u) : (issueUsher n p).run q = .ok ((), u) := by
  obtain ⟨h1, h2, h3⟩ := h
  simp [issueUsher, h1, h2, h3]

/-- One listed page of a KBOUND. -/
theorem run_boundPage {c : Copier} {fmt : Option Nat} {va : Word} {s : State} {p : Portion} {l : List Portion} {k : KPage}
    (h : c.portions s va 1 Need.read = .ok (p :: l)) (hk : ∀ y ∈ p :: l, keyFault s y.t = false)
    (ha : va.toNat % 16384 = 0 ∧ p.t.pa % 16384 = 0) (hp : (poolOf p.t.pa).isMemory = true → packageOf p.t.pa = s.pkg.toNat)
    (hm : page? s (p.t.pa / 16384) = some k) (hf : (fmt.all fun f => f == k.fmt) = true) :
    (boundPage c fmt va).run s = .ok ((p :: l, k.fmt), s) := by
  have h1 : (!(poolOf p.t.pa).isMemory || packageOf p.t.pa == s.pkg.toNat) = true := by
    cases hq : (poolOf p.t.pa).isMemory <;> simp [hp, hq]
  simp only [boundPage, run_bind, run_get, run_orTrap_ok h, run_keyCause hk, ha.1, ha.2, beq_self_eq_true, run_need_true,
    h1, hm, hf, run_pure]

end Sys2Proof.Laws
end

