-- ==== Sys2Proof/Tests/Slice0.lean ====
section
/-! SUPPORT. The model's own tests: ill-formed terms refused, words that the spec's encoding tables give decoded, single
steps on small states, and for every statement with hypotheses a state and operands that meet them. -/

namespace Sys2Proof.Tests

set_option Elab.async false

open Sys2Proof Sys2Proof.Machine Sys2Proof.Claims
open Sys2Proof.Laws (ok_get run_operand run_boundPage run_scratchSide_land)

/-! ## Well-formedness: one ill-formed term for each check -/

/-- R124, R91, R92, R93, R103, R104, R253, R215, R221, R295, R383, R353: each term breaks one condition on fields, and is
refused. -/
theorem test_wellFormed_refuses :
    ([.hint 1 0, .hint 3 7, .cmp 10 false 1 2 3, .bfx 1 2 32 32, .bfi 1 2 63 1, .shli true 1 2 32, .shri true 1 2 63,
      .sari true 1 2 40, .fcvt 1 2 1 12, .fcvt 1 2 12 14, .ldN 3 1 2 0, .ldNLong 3 1 2 0, .fence 0 0, .fenceSys 5,
      .fenceSysWin 3 0, .tload 1 2 0 10, .tloadLease 1 2 0 11 5, .tloadTry 1 2 0 15 5, .redeemlQ 1 2 1 true 3] :
        List Instr).all (fun i => !i.wellFormed) = true := by
  decide

theorem test_wellFormed_refuses_copies :
    ([.cpytExt 1 2 3 false 1 false false, .cpylExt 1 2 3 false 7 0 0, .cpylExt 1 2 3 true 1 3 0, .cpylExt 1 2 3 true 1 0 3,
      .cpylRaw 1 2 3 false 2, .cpyfExt 1 2 3 false 1 0, .cpyfExt 1 2 3 true 1 3, .cpygExt 1 2 3 false 4 true true,
      .ksummOff 1 false 1, .ksummBf16 1 false 1, .ksummE4m3 1 false 1, .ksummE5m2 1 false 1, .ksummRebuild 1 false 1,
      .ksummRead 1 2 false 1, .kbound 1 false 1, .kfetch 1 2 3 false 1, .klist 1 2 3 false 1, .accldTyped 1 2 3 12 0 false,
      .accldTyped 1 2 3 10 1 false, .accldTyped 1 2 3 10 0 true, .accstTyped 1 2 3 4 0 false, .accstTyped 1 2 3 11 5 false,
      .accstTyped 1 2 3 0 1 false, .accstTyped 1 2 3 0 0 true] : List Instr).all (fun i => !i.wellFormed) = true := by
  decide

/-- Neighbours of those terms on the legal side of each bound are well formed. -/
theorem test_wellFormed_accepts :
    ([.hint 0 5, .hint 4 0, .cmp 9 true 1 2 3, .bfx 1 2 31 32, .bfi 1 2 63 0, .shli true 1 2 31, .shri false 1 2 63,
      .fcvt 1 2 2 13, .ldN 2 1 2 0, .fence 7 1, .fenceSys 4, .tload 1 2 0 9, .redeemlQ 1 2 0 true 3, .redeemlQ 1 2 7 false 3,
      .cpytExt 1 2 3 true 7 false false, .cpylExt 1 2 3 false 0 2 2, .kbound 1 true 7, .accldTyped 1 2 3 11 0 false,
      .accstTyped 1 2 3 10 4 true, .accstTyped 1 2 3 0 0 false] : List Instr).all (fun i => i.wellFormed) = true := by
  decide

/-- R75: a header's flag number without its valid bit; R171, R222: the bits that tell TBAR from TBAR.ck and the forms of
the lane REDEEM apart. -/
theorem test_wellFormed_slots :
    let h : Header := ⟨1, 0, false, 0, false, 0⟩
    let f : LaneF := LaneF.zero
    (h.wellFormed, { h with sa := 1 }.wellFormed, { h with sb := 11 }.wellFormed,
        { h with sav := true, sa := 11 }.wellFormed) = (true, false, false, true) ∧
      (Instr.tbar.slotOk { f with imm := 0x08000000 }, Instr.tbarCk.slotOk f, Instr.laneRedeem.slotOk { f with c := 1 },
        Instr.laneRedeemL.slotOk f) = (false, false, false, false) := by
  decide

/-- R63, R124: NOP and HINT words. -/
theorem test_decode_hints :
    ([(32, 0x00400000, .nop), (32, 0x00A7BEEF, .hint 39 0xBEEF), (32, 0x00818001, .hintFetchLead 0x8001),
      (32, 0x00820102, .hintSpin 0x102), (32, 0x00837ABC, .hintFetchLane 0x7ABC)] : List (Nat × Nat × Instr)).all
      (fun p => decodeTableWord p.1 p.2.1 == some p.2.2) = true := by
  decide +kernel

/-- R62, R89, R91, R94: the register forms, W = 1 where the form has it. -/
theorem test_decode_integer :
    ([(32, 0x420526A0, .add true 5 9 42), (32, 0x420526A1, .sub true 5 9 42), (32, 0x420526A2, .mul true 5 9 42),
      (32, 0x420526A3, .mulh true 5 9 42), (32, 0x420526A4, .mulhn true 5 9 42),
      (32, 0x420526A5, .div true 5 9 42), (32, 0x420526A6, .divn true 5 9 42), (32, 0x420526A7, .rem true 5 9 42),
      (32, 0x420526A8, .remn true 5 9 42), (32, 0x420526A9, .and true 5 9 42), (32, 0x420526AA, .or true 5 9 42),
      (32, 0x420526AB, .xor true 5 9 42), (32, 0x420526AC, .andn true 5 9 42), (32, 0x420526AD, .min true 5 9 42),
      (32, 0x420526AE, .max true 5 9 42), (32, 0x420526AF, .minn true 5 9 42),
      (32, 0x424526A0, .maxn true 5 9 42), (32, 0x424526A1, .shl true 5 9 42), (32, 0x424526A2, .shr true 5 9 42),
      (32, 0x424526A3, .sar true 5 9 42), (32, 0x424526A4, .rot true 5 9 42), (32, 0x42452405, .clz true 5 9),
      (32, 0x42452406, .ctz true 5 9), (32, 0x42452407, .popc true 5 9), (32, 0x02452538, .sext 5 9 19),
      (32, 0x02452539, .zext 5 9 19), (32, 0x424526AA, .sel true 5 9 42), (32, 0x428526A7, .cmp 7 true 5 9 42),
      (32, 0x42C526AD, .addx 13 true 5 9 42)] : List (Nat × Nat × Instr)).all
      (fun p => decodeTableWord p.1 p.2.1 == some p.2.2) = true := by
  decide +kernel

/-- R62, R93, R95: the immediate forms. -/
theorem test_decode_immediate :
    ([(32, 0x440526AB, .addi true 5 9 0x2AB), (32, 0x444526AB, .andi true 5 9 0x2AB),
      (32, 0x448526AB, .ori true 5 9 0x2AB), (32, 0x44C526AB, .xori true 5 9 0x2AB),
      (32, 0x45052417, .shli true 5 9 23), (32, 0x45452417, .shri true 5 9 23),
      (32, 0x45852417, .sari true 5 9 23), (32, 0x06858123, .addpc 5 0x8123)] : List (Nat × Nat × Instr)).all
      (fun p => decodeTableWord p.1 p.2.1 == some p.2.2) = true := by
  decide +kernel

/-- R62, R96 to R98: branches, calls and returns. -/
theorem test_decode_branch :
    ([(32, 0x082ABCDE, .b 0x2ABCDE), (32, 0x08523456, .bl 0x123456), (32, 0x08802400, .br 9),
      (32, 0x08852401, .blr 5 9), (32, 0x08802402, .ret 9), (32, 0x08C9A955, .beq 9 42 0x155),
      (32, 0x0909A955, .bne 9 42 0x155), (32, 0x0949A955, .blt 9 42 0x155), (32, 0x0989A955, .bge 9 42 0x155),
      (32, 0x09C9A955, .bltn 9 42 0x155), (32, 0x0A09A955, .bgen 9 42 0x155), (32, 0x0A499ABC, .bz 9 0x9ABC),
      (32, 0x0A895678, .bnz 9 0x5678)] : List (Nat × Nat × Instr)).all
      (fun p => decodeTableWord p.1 p.2.1 == some p.2.2) = true := by
  decide +kernel

/-- R62, R101 to R103: scalar floating point, FP32 at major 0x31. -/
theorem test_decode_float :
    ([(32, 0x0C4526A0, .fadd 1 5 9 42), (32, 0x0C4526A1, .fsub 1 5 9 42), (32, 0x0C4526A2, .fmul 1 5 9 42),
      (32, 0x0C4526A3, .fdiv 1 5 9 42), (32, 0x0C452404, .fsqrt 1 5 9), (32, 0x0C4526A5, .fma 1 5 9 42),
      (32, 0x0C4526A6, .fmin 1 5 9 42), (32, 0x0C4526A7, .fmax 1 5 9 42), (32, 0x0C452408, .fmov 1 5 9),
      (32, 0x0C4526A9, .fcmpEq 1 5 9 42), (32, 0x0C4526AA, .fcmpLt 1 5 9 42), (32, 0x0C4526AB, .fcmpLe 1 5 9 42),
      (32, 0x0C4526AC, .fcmpUn 1 5 9 42), (32, 0x0D0525B4, .fcvt 5 9 6 13)] : List (Nat × Nat × Instr)).all
      (fun p => decodeTableWord p.1 p.2.1 == some p.2.2) = true := by
  decide +kernel

/-- R62, R65, R104, R248, R256: loads, stores, atomics, fences, WATCH. -/
theorem test_decode_memory :
    ([(32, 0x10C52555, .ld 3 5 9 0x155), (32, 0x11452555, .ldN 1 5 9 0x155), (32, 0x12C52555, .st 3 5 9 0x155),
      (32, 0x134526A0, .aadd true 5 9 42), (32, 0x134526A1, .asub true 5 9 42),
      (32, 0x134526A2, .amin true 5 9 42), (32, 0x134526A3, .amax true 5 9 42),
      (32, 0x134526A4, .aminn true 5 9 42), (32, 0x134526A5, .amaxn true 5 9 42),
      (32, 0x134526A6, .aand true 5 9 42), (32, 0x134526A7, .aor true 5 9 42),
      (32, 0x134526A8, .axor true 5 9 42), (32, 0x134526A9, .axchg true 5 9 42),
      (32, 0x134526AA, .afadd true 5 9 42), (32, 0x134526AB, .acas true 5 9 42), (32, 0x1380001A, .fence 3 2),
      (32, 0x1380023C, .fenceSys 4), (32, 0x13AB0339, .fenceSysWin 43 1), (32, 0x13C526A0, .watch 5 9 42)] : List (Nat × Nat × Instr)).all
      (fun p => decodeTableWord p.1 p.2.1 == some p.2.2) = true := by
  decide +kernel

/-- R62: the clause queue, xb registers, streams, CSRs, HALTP, PREEMPT, INJARM, CKPT and ASSERT. -/
theorem test_decode_control :
    ([(32, 0x143ABCDE, .lrun 0x3ABCDE), (32, 0x14600A53, .lwait true 0xA53), (32, 0x14B026A0, .xbset 6 9 42),
      (32, 0x14B80001, .xbclr 7), (32, 0x14EA2400, .osdef 21 9), (32, 0x14F40001, .osend 26),
      (32, 0x1800CAFE, .trap 0xCAFE), (32, 0x18400000, .rfe), (32, 0x18850101, .csrrd 5 0x101),
      (32, 0x18C526C7, .csrwr 5 9 0x2C7), (32, 0x19052507, .csrset 5 9 0x107),
      (32, 0x194527FF, .csrclr 5 9 0x3FF), (32, 0x19802400, .haltpCtx 9), (32, 0x19802401, .haltpPart 9),
      (32, 0x19C02400, .preemptSus 9), (32, 0x19C02401, .preemptRes 9), (32, 0x1A0026A0, .injarm 9 42),
      (32, 0x1A4026A0, .ckptPool 9 42), (32, 0x1A450001, .ckptStat 5), (32, 0x1A400002, .ckptRb),
      (32, 0x1A8026A0, .assert 9 42)] : List (Nat × Nat × Instr)).all
      (fun p => decodeTableWord p.1 p.2.1 == some p.2.2) = true := by
  decide +kernel

/-- R62, R214 to R226, R266 to R269: tickets and transactions. -/
theorem test_decode_requests :
    ([(32, 0x1C052709, .tload 5 9 6 9), (32, 0x1C452400, .redeem 5 9), (32, 0x1C452681, .redeeml 5 9 5),
      (32, 0x1C452441, .redeemlLanding 5 9), (32, 0x1C402402, .tdrop 9), (32, 0x1C452403, .tstat 5 9),
      (32, 0x1C4526A4, .tlease 5 9 42), (32, 0x1C850000, .txbeg 5), (32, 0x1C800001, .txend),
      (32, 0x1C802402, .txabt 9), (32, 0x1C850013, .txstat 5 true)] : List (Nat × Nat × Instr)).all
      (fun p => decodeTableWord p.1 p.2.1 == some p.2.2) = true := by
  decide +kernel

/-- R294, R383: copies, batches and key pages. -/
theorem test_decode_copies :
    ([(32, 0x1D0526A0, .cpyt 5 9 42), (32, 0x1D0526A1, .cpyl 5 9 42), (32, 0x1D0526A2, .cpyf 5 9 42),
      (32, 0x1D0526A3, .cpyg 5 9 42), (32, 0x1D050004, .bseal 5), (32, 0x1D002405, .bwait 9),
      (32, 0x1D002406, .bwaitn 9), (32, 0x1D050007, .bstat 5), (32, 0x1D402400, .ksummOff 9 false 0),
      (32, 0x1D402480, .ksummBf16 9 false 0), (32, 0x1D402500, .ksummE4m3 9 false 0),
      (32, 0x1D402580, .ksummE5m2 9 false 0), (32, 0x1D402600, .ksummRebuild 9 false 0),
      (32, 0x1D452680, .ksummRead 5 9 false 0), (32, 0x1D402401, .kbound 9 false 0),
      (32, 0x1D4526A2, .kfetch 5 9 42 false 0), (32, 0x1D4526A3, .klist 5 9 42 false 0)] : List (Nat × Nat × Instr)).all
      (fun p => decodeTableWord p.1 p.2.1 == some p.2.2) = true := by
  decide +kernel

/-- R62, R342 to R357, R401 to R417: matrix and launch forms. -/
theorem test_decode_matrix :
    ([(32, 0x1D8026A0, .mloop 9 42), (32, 0x1DA716D1, .osub 19 true 5 45), (32, 0x1D802402, .accz 9),
      (32, 0x1D8B26A3, .accld 11 9 42), (32, 0x1D8E26A4, .accst 14 9 42), (32, 0x1D850095, .accver 5 9),
      (32, 0x1D8025C5, .accverWait 9 12), (32, 0x1D802635, .accverSet 9 3), (32, 0x1E052400, .launch 5 9),
      (32, 0x1E052401, .lwaitg 5 9), (32, 0x1E052402, .gstat 5 9), (32, 0x1E052403, .vgrow 5 9),
      (32, 0x1E052404, .vshrink 5 9), (32, 0x1E000005, .texit), (32, 0x1E0026A6, .gexit 9 42)] : List (Nat × Nat × Instr)).all
      (fun p => decodeTableWord p.1 p.2.1 == some p.2.2) = true := by
  decide +kernel

/-- R53, R54 and the entries that use EXT: the first word has LEN 10, the second [31:29] = 100. -/
theorem test_decode_long :
    ([(64, 0x800004C783052400, .bfx 5 9 19 7), (64, 0x80000FC083452400, .bfi 5 9 63 0),
      (64, 0x92345678840526AB, .addiLong 5 9 0x5572345678), (64, 0x92345678844526AB, .andiLong 5 9 0x5572345678),
      (64, 0x92345678848526AB, .oriLong 5 9 0x5572345678), (64, 0x9234567884C526AB, .xoriLong 5 9 0x5572345678),
      (64, 0x9234567886050005, .sethi 5 0xB2345678), (64, 0x9234567886458123, .li 5 0x102472345678),
      (64, 0x9234567886854321, .addpcLong 5 0x86432345678), (64, 0x92345678882ABCDE, .bLong 0x5579BD2345678),
      (64, 0x9234567888523456, .blLong 0x2468AD2345678), (64, 0x9234567888C52555, .beqLong 5 9 0x2AB2345678),
      (64, 0x9234567889052555, .bneLong 5 9 0x2AB2345678), (64, 0x9234567889452555, .bltLong 5 9 0x2AB2345678),
      (64, 0x9234567889852555, .bgeLong 5 9 0x2AB2345678), (64, 0x9234567889C52555, .bltnLong 5 9 0x2AB2345678),
      (64, 0x923456788A052555, .bgenLong 5 9 0x2AB2345678), (64, 0x923456788A459ABC, .bzLong 5 0x135792345678),
      (64, 0x923456788A855678, .bnzLong 5 0xACF12345678), (64, 0x9234567890452555, .ldLong 1 5 9 0x2AB2345678)] : List (Nat × Nat × Instr)).all
      (fun p => decodeTableWord p.1 p.2.1 == some p.2.2) = true := by
  decide +kernel

/-- R215, R214, R295, R353, R383, R401, R472: the long forms of the request majors. -/
theorem test_decode_long_requests :
    ([(64, 0x9234567891852555, .ldNLong 2 5 9 0x2AB2345678), (64, 0x9234567892C52555, .stLong 3 5 9 0x2AB2345678),
      (64, 0x800000019A001050, .injarmRep 4 5), (64, 0x8000BEEF9C052709, .tloadLease 5 9 6 9 0xBEEF),
      (64, 0x800112349C052709, .tloadTry 5 9 6 9 0x1234), (64, 0x8000001D9C452400, .redeemQ 5 9 14),
      (64, 0x8000001D9C473101, .redeemlQ 7 12 2 false 14), (64, 0x8000001D9C402402, .tdropQ 9 14),
      (64, 0x8000001D9C4526A4, .tleaseQ 5 9 42 14), (64, 0x800007119D0526A0, .cpytExt 5 9 42 true 6 true true),
      (64, 0x800007249D0526A1, .cpylExt 5 9 42 true 6 2 1), (64, 0x800007409D0526A1, .cpylRaw 5 9 42 true 6),
      (64, 0x800007109D0526A2, .cpyfExt 5 9 42 true 6 1),
      (64, 0x800007019D0526A3, .cpygExt 5 9 42 true 6 false true), (64, 0x800007009D402400, .ksummOff 9 true 6),
      (64, 0x800007009D402480, .ksummBf16 9 true 6), (64, 0x800007009D402500, .ksummE4m3 9 true 6),
      (64, 0x800007009D402580, .ksummE5m2 9 true 6), (64, 0x800007009D402600, .ksummRebuild 9 true 6),
      (64, 0x800007009D452680, .ksummRead 5 9 true 6), (64, 0x800007009D402401, .kbound 9 true 6),
      (64, 0x800007009D4526A2, .kfetch 5 9 42 true 6), (64, 0x800007009D4526A3, .klist 5 9 42 true 6),
      (64, 0x800001609D8B26A3, .accldTyped 11 9 42 11 0 false),
      (64, 0x80000F409D8B26A4, .accstTyped 11 9 42 10 3 true), (64, 0x800000019E052400, .launchTry 5 9)] : List (Nat × Nat × Instr)).all
      (fun p => decodeTableWord p.1 p.2.1 == some p.2.2) = true := by
  decide +kernel

/-- R66, R72: classes 0x0 to 0x2, with D = 6, A = 8, B = 10, C = 12, M = 3 and TYPE = 4. -/
theorem test_decode_lane_arith :
    ([(96, 0x000406080A0C300000000000, .vadd), (96, 0x001406080A0C300000000000, .vsub),
      (96, 0x002406080A0C300000000000, .vmul), (96, 0x003406080A0C300000000000, .vmulh),
      (96, 0x004406080A0C300000000000, .vmad), (96, 0x005406080A0C300000000000, .vmin),
      (96, 0x006406080A0C300000000000, .vmax), (96, 0x007406080A0C300000000000, .vabs),
      (96, 0x008406080A0C300000000000, .vand), (96, 0x009406080A0C300000000000, .vor),
      (96, 0x00A406080A0C300000000000, .vxor), (96, 0x00B406080A0C300000000000, .vnot),
      (96, 0x00C406080A0C300000000000, .vshl), (96, 0x00D406080A0C300000000000, .vshr),
      (96, 0x00E406080A0C300000000000, .vsar), (96, 0x00F406080A0C300000000000, .vclz),
      (96, 0x010406080A0C300000000000, .vpopc), (96, 0x011406080A0C300000000000, .vbfx),
      (96, 0x012406080A0C300000000000, .vsel), (96, 0x013406080A0C300000000000, .vcmp),
      (96, 0x014406080A0C300000000000, .vmov), (96, 0x015406080A0C300000000000, .vmovi),
      (96, 0x100406080A0C300000000000, .vfadd), (96, 0x101406080A0C300000000000, .vfsub),
      (96, 0x102406080A0C300000000000, .vfmul), (96, 0x103406080A0C300000000000, .vffma),
      (96, 0x104406080A0C300000000000, .vfmin), (96, 0x105406080A0C300000000000, .vfmax),
      (96, 0x106406080A0C300000000000, .vfcmp), (96, 0x107406080A0C300000000000, .vfrcp),
      (96, 0x108406080A0C300000000000, .vfrsq), (96, 0x109406080A0C300000000000, .vfsqrt),
      (96, 0x10A406080A0C300000000000, .vfdiv), (96, 0x10B406080A0C300000000000, .vfexp2),
      (96, 0x10C406080A0C300000000000, .vflog2), (96, 0x10D406080A0C300000000000, .vfsin),
      (96, 0x10E406080A0C300000000000, .vfcos), (96, 0x10F406080A0C300000000000, .vfcvt),
      (96, 0x110406080A0C300000000000, .vfrnd), (96, 0x111406080A0C300000000000, .vfscale),
      (96, 0x112406080A0C300000000000, .vfcma), (96, 0x200406080A0C300000000000, .vshfl),
      (96, 0x201406080A0C300000000000, .vbcast), (96, 0x202406080A0C300000000000, .vred),
      (96, 0x203406080A0C300000000000, .vscan), (96, 0x204406080A0C300000000000, .vballot),
      (96, 0x205406080A0C300000000000, .vpack), (96, 0x206406080A0C300000000000, .vunpk)] : List (Nat × Nat × Instr)).all
      (fun p => decodeTableWord p.1 p.2.1 == some p.2.2) = true := by
  decide +kernel

/-- R66, R72, R74, R171: classes 0x3 and 0x4 and a clause header. -/
theorem test_decode_lane_control :
    ([(96, 0x300406080A0C300000000000, .cend), (96, 0x301406080A0C300000000000, .brl),
      (96, 0x302406080A0C300000000000, .mark), (96, 0x303406080A0C300000000000, .join),
      (96, 0x304406080A0C300000000000, .mset), (96, 0x305406080A0C300000000000, .mand),
      (96, 0x306406080A0C300000000000, .mor), (96, 0x307406080A0C300000000000, .mnot),
      (96, 0x308406080A0C300000000000, .mcnt), (96, 0x309406080A0C300000000000, .tbar),
      (96, 0x309406080A0C300008000000, .tbarCk), (96, 0x30A406080A0C300000000000, .sbar),
      (96, 0x30B406080A0C300000000000, .yield), (96, 0x400406080A0C300000000000, .vld),
      (96, 0x401406080A0C300000000000, .vst), (96, 0x402406080A0C300000000000, .vgath),
      (96, 0x403406080A0C300000000000, .vscat), (96, 0x404406080A0C300000000000, .vldl),
      (96, 0x405406080A0C300000000000, .vstl), (96, 0x406406080A0C300000000000, .vldm),
      (96, 0x407406080A0C300000000000, .vstm), (96, 0x408406080A0C300000000000, .xst),
      (96, 0x409406080A0C300000000000, .vlda), (96, 0x40A406080A0C300000000000, .vsta),
      (96, 0x40B406080A0C300000000000, .lkld), (96, 0x40C406080A0C300000000000, .lkst),
      (96, 0x40D406080A0C300000000000, .prf), (96, 0xF003009A8000000000000000, .clause)] : List (Nat × Nat × Instr)).all
      (fun p => decodeTableWord p.1 p.2.1 == some p.2.2) = true := by
  decide +kernel

/-- R66, R72, R222: classes 0x5 to 0x9. -/
theorem test_decode_lane_rest :
    ([(96, 0x500406080A0C300000000000, .vaadd), (96, 0x501406080A0C300000000000, .vasub),
      (96, 0x502406080A0C300000000000, .vamin), (96, 0x503406080A0C300000000000, .vamax),
      (96, 0x504406080A0C300000000000, .vaminn), (96, 0x505406080A0C300000000000, .vamaxn),
      (96, 0x506406080A0C300000000000, .vaand), (96, 0x507406080A0C300000000000, .vaor),
      (96, 0x508406080A0C300000000000, .vaxor), (96, 0x509406080A0C300000000000, .vaxchg),
      (96, 0x50A406080A0C300000000000, .vacas), (96, 0x50B406080A0C300000000000, .vafadd),
      (96, 0x510406080A0C300000000000, .laneFence), (96, 0x520406080A0C300000000000, .tloadv),
      (96, 0x521406080A0C300000000000, .laneRedeem), (96, 0x521406080A0D300000000000, .laneRedeemL),
      (96, 0x600406080A0C300000000000, .laneTxbeg), (96, 0x601406080A0C300000000000, .laneTxend),
      (96, 0x602406080A0C300000000000, .laneTxabt), (96, 0x603406080A0C300000000000, .laneTxstat),
      (96, 0x610406080A0C300000000000, .laneCpyt), (96, 0x611406080A0C300000000000, .laneCpyl),
      (96, 0x612406080A0C300000000000, .laneCpyf), (96, 0x613406080A0C300000000000, .laneCpyg),
      (96, 0x700406080A0C300000000000, .mma), (96, 0x701406080A0C300000000000, .accrd),
      (96, 0x702406080A0C300000000000, .accwr), (96, 0x800406080A0C300000000000, .vconf),
      (96, 0x801406080A0C300000000000, .vcomb), (96, 0x802406080A0C300000000000, .visect),
      (96, 0x803406080A0C300000000000, .vmerge), (96, 0x804406080A0C300000000000, .vcompr),
      (96, 0x805406080A0C300000000000, .vexpd), (96, 0x806406080A0C300000000000, .idxld),
      (96, 0x900406080A0C300000000000, .laneAssert), (96, 0x901406080A0C300000000000, .vcsrrd)] : List (Nat × Nat × Instr)).all
      (fun p => decodeTableWord p.1 p.2.1 == some p.2.2) = true := by
  decide +kernel

/-- R62, R54, R77: encodings that no entry defines are refused by name: major 0, a reserved major, an unlisted minor, a
32-bit word of a long-only major, a long word of a major without a long form; lane class 0xA and unlisted OPs. -/
theorem test_decode_unused :
    ([0x00000000, 0x00C00000, 0x0280000A, 0x03000000, 0x82000000] : List W32).all
        (fun w => (decodeWords [] [w, 0x80000000]).map (fun x => x.ins) == some .unusedOpcode) = true ∧
      ([0xA00000000000000000000000, 0x016000000000000000000000, 0x113000000000000000000000,
          0xF01000000000000000000000] : List (BitVec 96)).all (fun w => (decodeLane w).ins == .unusedOpcode) = true := by
  decide +kernel

/-- R53, R56, R57, R60, R77: a second word without its tag, an unread field, a prefix that its instruction does not accept
and a reserved prefix payload are decode causes. -/
theorem test_decode_causes :
    (decodeWords [] [0x84000000, 0x00000000]).map (fun x => (x.res, x.clean)) = some (some 1, false) ∧
      (decodeWords [] [0x02400015]).map (fun x => (x.res, x.clean)) = some (some 0, false) ∧
      (decodeWords [] [0xC0000001, 0x02000000]).map (fun x => (x.orph, x.clean)) = some (some 1, false) ∧
      (decodeWords [] [0xC4000003, 0x02000000]).map (fun x => (x.res, x.clean)) = some (some 0, false) := by
  decide +kernel

/-! ## Small states -/

/-- Host core 0 as reset leaves it, alone. -/
def core : State := { State.reset with others := [] }

/-- Context 1 with a trap handler at 0x1000. -/
def ctx1 : Ctx :=
  ⟨1, 0x400, 0, 0x1000, 0, 0, 0, 0, 0, 0, 0, 0, 0, false, false, false, 0, false, 0, 0⟩

/-- Team 7 of grid 0x100, alone in squad 3. -/
def team1 : Team :=
  ⟨7, 0x100, 1, 0, 0, 0, 0, 3, 0, 0, 4096, 0, 0, [], [], 2, [], Vector.replicate 16 0, none, 1, false, 0, 0, 0, 0, 0, 0, [], [], []⟩

/-- The first 1 GiB of context 1 mapped to itself, readable, writable and executable, in a TLB. -/
def pageIn (p : TlbAt) : Tlb := ⟨p, 1, 0, 14, 0x00E000000000033B, 0x8000⟩

/-- Group 0 of team 7 in context 1 at user level. -/
def group : State :=
  { core with
    me := { Runner.zero (.group 0) with
      ctx := 1, team := 7, grid := 0x100, l := { Lanes.zero with count := 32, live := BitVec.allOnes 32 } }
    ctxs := [ctx1]
    tlb := [pageIn (.core 0), pageIn (.host 0)]
    teams := [team1] }

/-- The host core at user level in context 1. -/
def user : State := { core with me := { core.me with status := 0, ctx := 1 }, ctxs := [ctx1], tlb := [pageIn (.core 0), pageIn (.host 0)] }

/-- The runner in focus changed. -/
def me (f : Runner → Runner) (s : State) : State := { s with me := f s.me }

/-- Register d of the runner in focus at x. -/
def sets (d : Nat) (x : Word) (s : State) : State := me (fun r => { r with s := vset r.s d x }) s

/-- The same in supervisor mode. -/
def super (s : State) : State := me (fun r => { r with status := r.status ||| 1 }) s

/-- A leading SAT prefix before the instruction. -/
def satOf (p : BitVec 2) (s : State) : State := { s with issue := { s.issue with sat := some p } }

/-- A leading ORD prefix. -/
def ordOf (p : BitVec 6) (s : State) : State := { s with issue := { s.issue with ord := some p } }

/-- The translation of an address of the group or of the user-level core. -/
def page1 (a : Nat) : Tr := Tr.ofLeaf 0x00E000000000033B 0x8000 a

/-! ## Lane slots at issue -/

/-- Common fields of a slot: TYPE, D, A, B, C and the immediate. -/
def slot (ty : BitVec 4) (d a b c : BitVec 8) (imm : BitVec 32) : LaneF :=
  { LaneF.zero with ty := ty, d := d, a := a, b := b, c := c, imm := imm }

/-- A group of two lanes whose clause stands at a slot with the fields f. -/
def laneOf (f : LaneF) : State :=
  { group with
    lane := true
    issue := { group.issue with slot := f }
    me := { group.me with l := { group.me.l with
      live := 3
      run := { LaneRuns.empty with
        runs := [⟨0, Vector.replicate 8 Xb.zero, 0⟩], running := true, frags := [⟨3, 0, .runnable, 0, true, 0⟩]
        cur := some ⟨0, 0, 1, [0], 0, none, none, [], none⟩ } } } }

/-- The lane half of the state changed. -/
def lanes (f : Lanes → Lanes) (s : State) : State := onLane f s

/-- The checks of LaneReady, as they evaluate. -/
def readyB (rule : LaneF → LRule) (s : State) : Bool :=
  let c := laneCtx s
  let r := rule s.issue.slot
  (c.m0 &&& ~~~s.me.l.run.skip != 0) && r.cause s.issue.slot c.cl == 0 && (!s.me.inTrap || (laneNeeds rule s).isEmpty) &&
    ((r.tx && (laneNeeds rule s).isEmpty) || !(lanesOf c.m0).any fun k => s.me.attempting k) && (!(r.acc || r.cmp) || !s.me.upset || c.act == 0) &&
    decide (r.topReg s.issue.slot ≤ s.me.l.count) && !(c.flag.any fun k => vget s.me.l.w k == 63) &&
    !interlocked s (r.spans s.issue.slot) &&
    (queuesReady s c.cl (laneNeeds rule s) (if c.act = 0 then c.m0 else c.act)).isNone

theorem ready_of (rule : LaneF → LRule) (s : State) (h : readyB rule s = true) : LaneReady rule s := by
  simp only [readyB, Bool.and_eq_true, bne_iff_ne, beq_iff_eq, decide_eq_true_eq, Bool.or_eq_true, Bool.not_eq_true',
    List.isEmpty_iff, Option.isNone_iff_eq_none] at h
  obtain ⟨⟨⟨⟨⟨⟨⟨⟨h1, h2⟩, h3⟩, h4⟩, h5⟩, h6⟩, h7⟩, h8⟩, h9⟩ := h
  exact ⟨h1, h2, h3, h4, by rcases h5 with (h | h) | h <;> simp [h], h6, h7, h8, h9⟩

theorem all_ready (l : List ((LaneF → LRule) × LaneF)) (h : (l.all fun p => readyB p.1 (laneOf p.2)) = true) :
    ∀ p ∈ l, LaneReady p.1 (laneOf p.2) := fun p hp => ready_of _ _ (List.all_eq_true.mp h p hp)

/-! ## Hypotheses met: the lead stream -/

theorem witness_LeadArithmetic : core.issue.sat = none := by decide

theorem witness_LeadSaturation :
    (satOf 1 core).issue.sat = some (if false then 2 else 1) ∧ (satOf 2 core).issue.sat = some (if true then 2 else 1) := by
  decide

theorem witness_LeadSelectionAndImmediates :
    (9#4).toNat < 10 ∧ (63#6).toNat + (0#6).toNat ≤ 63 ∧ (0#6).toNat + (63#6).toNat ≤ 63 ∧ core.issue.sat = none := by decide

/-- A core whose branch stands 0x1FF words below 0x2000, where a word with its E bit stands; s1 = 0x2000, s2 = −1. -/
def jump : State :=
  { sets 1 0x2000 (sets 2 (-1) core) with
    issue := { core.issue with pc := 0x2000 - 4 * 0x1FF, next := 0x2000 - 4 * 0x1FE }, mem := [(0x2003, 0x20)] }

/-- The same with no E bit at the target. -/
def jumpOff : State := { jump with mem := [] }

theorem witness_Branches_taken :
    CodeAt (onward jump) 0x2000 (Tr.physical 0x2000) ∧
      (codeWordAt (Tr.physical 0x2000) (onward jump)).getLsbD 29 = true ∧
      jump.issue.pc + 4 * (0x1FF#10).signExtend 64 = 0x2000 ∧ jump.issue.pc + 4 * (0x1FF#16).signExtend 64 = 0x2000 ∧
      jump.issue.pc + 4 * (0x1FF#22).signExtend 64 = 0x2000 ∧ jump.issue.pc + 4 * (0x1FF#39).signExtend 64 = 0x2000 ∧
      jump.issue.pc + 4 * (0x1FF#45).signExtend 64 = 0x2000 ∧ jump.issue.pc + 4 * (0x1FF#51).signExtend 64 = 0x2000 ∧
      jump.me.sreg 1 = 0x2000 ∧ (0x2000#64).toNat % 4 = 0 := by
  refine ⟨⟨?_, ?_, ?_, ?_⟩, ?_⟩ <;> decide +kernel

/-- Each condition holds of some pair of s0 = 0, s1 and s2 = −1, and fails of another. -/
theorem witness_Branches_conditions :
    let x (r : Reg) := jump.me.sreg r
    (x 0 == x 0 ∧ x 0 != x 1 ∧ (x 2).slt (x 0) ∧ (x 2).sle (x 2) ∧ (x 0).ult (x 2) ∧ (x 2).ule (x 2) ∧ x 0 == 0 ∧ x 1 != 0) ∧
      (x 0 == x 1) = false ∧ (x 0 != x 0) = false ∧ (x 0).slt (x 2) = false ∧ (x 0).sle (x 2) = false ∧
      (x 2).ult (x 0) = false ∧ (x 2).ule (x 0) = false ∧ (x 1 == 0) = false ∧ (x 0 != 0) = false := by
  decide +kernel

theorem witness_Branches_traps :
    (sets 1 0x2002 jump).me.sreg 1 = 0x2002 ∧ (0x2002#64).toNat % 4 ≠ 0 ∧
      CodeAt (onward jumpOff) 0x2000 (Tr.physical 0x2000) ∧
      (codeWordAt (Tr.physical 0x2000) (onward jumpOff)).getLsbD 29 = false ∧
      probe (onward group) (onward group).me (0 - 4) 4 Need.code = .error 0x22 := by
  refine ⟨by decide, by decide, ⟨?_, ?_, ?_, ?_⟩, ?_⟩ <;> decide +kernel

theorem witness_LeadFloatForms : fcvtType 2 = true ∧ fcvtType 13 = true := by decide

theorem witness_RoundToNearest : 0 < 1 ∧ 0 < 53 := by decide

/-- s1 = 0x1000 and s2 = 0x1001 on a host core. -/
def mover : State := sets 1 0x1000 (sets 2 0x1001 core)

theorem reach_at (s : State) (a : Word) (n : Nat) (need : Need) (t : Tr)
    (h : decide (probe s s.me a n need = .ok t) && !spanHit s s.me a t n need.wr && a.toNat % n == 0) :
    LeadReach s a n need t := by
  simp only [Bool.and_eq_true, decide_eq_true_eq, Bool.not_eq_true', beq_iff_eq] at h
  exact ⟨h.1.1, h.1.2, h.2⟩

theorem access_at (s : State) (a : Word) (n : Nat) (need : Need) (t : Tr)
    (h : (decide (probe s s.me a n need = .ok t) && !spanHit s s.me a t n need.wr && a.toNat % n == 0) &&
      ((!need.rd || !poisoned s t.pa n) && (poolOf t.pa).isMemory && !answeredOutside s t.pa)) : LeadAccess s a n need t := by
  rw [Bool.and_eq_true] at h
  refine ⟨reach_at _ _ _ _ _ h.1, ?_⟩
  have := h.2
  simp only [Bool.and_eq_true, Bool.not_eq_true', Bool.or_eq_true] at this
  exact ⟨fun hr => by simpa [hr] using this.1.1, this.1.2, this.2⟩

/-- Without a prefix, and with order sc at system scope (56 + 4). -/
theorem witness_LeadLoads : ∀ s ∈ [mover, ordOf 60 mover],
    s.me.tx.active = false ∧ CanSc (onward s) ∧ (scNow (onward s)).me.tx.active = false ∧
      (∀ a ∈ [0x1FF8, 0x1001], answeredOutside (scNow (onward s)) a = false ∧
        markReady (scNow (onward s)) (scNow (onward s)).me (Tr.physical a) false = true) ∧
      LeadAccess (onward s) (s.me.sreg 1 + BitVec.ofNat 64 (2 ^ (3#2).toNat) * (0x1FF#10).signExtend 64) 8 Need.read
        (Tr.physical 0x1FF8) ∧
      LeadAccess (onward s) (s.me.sreg 2 + BitVec.ofNat 64 (2 ^ (0#2).toNat) * (0#39).signExtend 64) 1 Need.read
        (Tr.physical 0x1001) := by
  intro s hs
  simp only [List.mem_cons, List.not_mem_nil, or_false] at hs
  rcases hs with rfl | rfl <;>
    exact ⟨by decide, by unfold CanSc CanScAt; decide +kernel, by decide +kernel, by decide +kernel,
      access_at _ _ _ _ _ (by decide +kernel), access_at _ _ _ _ _ (by decide +kernel)⟩

/-- s1 names the register block of package 0 on a host core. -/
def registers : State := sets 1 0x40000000000 core

theorem witness_LeadLoads_device : ∀ s ∈ [registers, ordOf 60 registers],
    let q := scNow (onward s)
    let t := Tr.physical 0x40000000000
    s.me.tx.active = false ∧ CanSc (onward s) ∧ q.me.tx.active = false ∧ packageOf t.pa = q.pkg.toNat ∧
      deviceReady q s.me.id t.pa = true ∧ markReady q q.me t false = true ∧
      DeviceAccess (onward s) (s.me.sreg 1) 8 Need.read t ∧ DeviceAccess (onward s) (s.me.sreg 1) 4 Need.read t := by
  intro s hs
  simp only [List.mem_cons, List.not_mem_nil, or_false] at hs
  rcases hs with rfl | rfl <;>
    exact ⟨by decide, by unfold CanSc CanScAt; decide +kernel, by decide +kernel, by decide +kernel, by decide +kernel,
      by decide +kernel, ⟨reach_at _ _ _ _ _ (by decide +kernel), by decide +kernel, by decide +kernel, by decide +kernel⟩,
      ⟨reach_at _ _ _ _ _ (by decide +kernel), by decide +kernel, by decide +kernel, by decide +kernel⟩⟩

theorem witness_LeadStores_device : ∀ s ∈ [registers, ordOf 60 registers],
    let q := released (onward s)
    let t := Tr.physical 0x40000000000
    let m := performTickets (fun e => e.who == q.me.id && meets e.src e.len t.pa 8) (markAccess q ((leadAgent q).runner q) t true)
    let u : State := { m with dev := devWrite (t.pa % 65536) (s.me.sreg 2) m.dev }
    s.me.tx.active = false ∧ CanRelease (onward s) ∧ q.me.tx.active = false ∧ u.me.tx.active = false ∧
      packageOf t.pa = q.pkg.toNat ∧ packageOf t.pa = m.pkg.toNat ∧ storeReady q (leadAgent q) t.pa 8 = true ∧
      markReady q ((leadAgent q).runner q) t true = true ∧ CanScAt (orderOf s).1 (orderOf s).2 u ∧
      DeviceAccess (onward s) (s.me.sreg 1) 8 Need.write t := by
  intro s hs
  simp only [List.mem_cons, List.not_mem_nil, or_false] at hs
  rcases hs with rfl | rfl <;>
    exact ⟨by decide, by unfold CanRelease CanReleaseAt; decide +kernel, by decide +kernel, by decide +kernel, by decide +kernel,
      by decide +kernel, by decide +kernel, by decide +kernel, by unfold CanScAt; decide +kernel,
      ⟨reach_at _ _ _ _ _ (by decide +kernel), by decide +kernel, by decide +kernel, by decide +kernel⟩⟩

/-- With order sc at system scope (56 + 4), and without a prefix. -/
theorem witness_LeadStores : ∀ s ∈ [mover, ordOf 60 mover],
    let q := released (onward s)
    let t := Tr.physical 0x1000
    let u := storeDone t (leBytes 8 (s.me.sreg 1).toNat) q
    s.me.tx.active = false ∧ CanRelease (onward s) ∧ q.me.tx.active = false ∧ u.me.tx.active = false ∧
      storeReady q (leadAgent q) t.pa 8 = true ∧ markReady q ((leadAgent q).runner q) t true = true ∧
      CanScAt (orderOf s).1 (orderOf s).2 u ∧ LeadAccess (onward s) (s.me.sreg 1) 8 Need.write t := by
  intro s hs
  simp only [List.mem_cons, List.not_mem_nil, or_false] at hs
  rcases hs with rfl | rfl <;>
    exact ⟨by decide +kernel, by unfold CanRelease CanReleaseAt; decide +kernel, by decide +kernel, by decide +kernel,
      by decide +kernel, by decide +kernel, by unfold CanScAt; decide +kernel, access_at _ _ _ _ _ (by decide +kernel)⟩

theorem witness_LeadStores_order :
    ((orderOf (ordOf 60 mover)).2 = 4 ∧ 5 ≤ (orderOf (ordOf 60 mover)).1) ∧ (orderOf mover).2 ≠ 4 := by decide

theorem witness_AcceptedWrites :
    (∀ a ∈ [0x1000, 0x10000000000], answeredOutside core a = false) ∧ poolOf 0x1000 = .hbm ∧ poolOf 0x10000000000 = .lpddr ∧
      ∃ a, poolOf a = .cxl ∧ answeredOutside core a = false := by
  refine ⟨by decide +kernel, by decide +kernel, by decide +kernel, ⟨0x30000000000, ?_⟩⟩ <;> decide +kernel

theorem witness_LeadAtomics : ∀ w4 : Bool,
    let n := if w4 then 4 else 8
    let q := released (onward mover)
    let t := Tr.physical 0x1000
    LeadAccess (onward mover) (mover.me.sreg 1) n Need.both t ∧ mover.me.tx.active = false ∧ CanRelease (onward mover) ∧
      answeredOutside q t.pa = false ∧ CanAtomic t n q ∧ q.me.tx.active = false ∧
      (atomicStored t n 5 q).me.tx.active = false := by
  intro w4
  cases w4 <;>
    exact ⟨access_at _ _ _ _ _ (by decide +kernel), by decide, by unfold CanRelease CanReleaseAt; decide +kernel, by decide +kernel,
      by unfold CanAtomic; decide +kernel, by decide +kernel, by decide +kernel⟩

theorem witness_MisalignedTraps : ∀ need ∈ [Need.read, Need.write, Need.both],
    probe (onward mover) (onward mover).me 0x1001 8 need = .ok (Tr.physical 0x1001) ∧
      spanHit (onward mover) (onward mover).me 0x1001 (Tr.physical 0x1001) 8 need.wr = false ∧ (0x1001#64).toNat % 2 ≠ 0 := by
  intro need hn
  simp only [List.mem_cons, List.not_mem_nil, or_false] at hn
  rcases hn with rfl | rfl | rfl <;> decide +kernel

theorem witness_FencesAndWatch :
    mover.me.tx.active = false ∧ fenceOrder 1 = true ∧ fenceOrder 4 = true ∧ outboundIdle (onward mover) = true ∧
      arriveLocked (onward mover) (goesOut (onward mover)) = false ∧ (mover.landed.any fun x => x.window == 0) = false ∧
      (∃ x, outboundIdle (onward { mover with outb := x }) = false) ∧ (∃ x, ({ mover with landed := x }.landed.any fun x => x.window == 0) = true) ∧
      LeadAccess (onward mover) (mover.me.sreg 1) 8 Need.read (Tr.physical 0x1000) ∧
      let q := scNow (onward mover)
      let r := spent q.me.id false (readDone (Tr.physical 0x1000) 8 q)
      let v : Word := BitVec.ofNat 64 (dieSees (Tr.physical 0x1000) 8 q)
      q.me.tx.active = false ∧ answeredOutside q 0x1000 = false ∧ markReady q q.me (Tr.physical 0x1000) false = true ∧
      v ≠ r.me.sreg 1 ∧ v = r.me.sreg 0 := by
  refine ⟨by decide, by decide, by decide, by decide +kernel, by decide +kernel, by decide +kernel, ⟨[⟨.host 0, .instr false, 0, 0, 0x80000000000, true, [1], none, false, 0, false, 0⟩], ?_⟩,
    ⟨[⟨0, 0, 0x1000, 0, [1]⟩], ?_⟩, access_at _ _ _ _ _ ?_, ?_⟩ <;> decide +kernel

theorem witness_FencesAndWatch_order : CanSc (onward mover) ∧ ∀ sc o, CanReleaseAt sc o (onward mover) := by
  refine ⟨by unfold CanSc CanScAt; decide +kernel, fun sc o _ => ⟨fun _ => ?_, ?_⟩⟩ <;> decide +kernel

/-! ## Hypotheses met: runs, registers and traps -/

/-- The group with k runs queued. -/
def runs (k : Nat) (s : State) : State :=
  me (fun r => { r with l := { r.l with run := { r.l.run with runs := List.replicate k ⟨0, Vector.replicate 8 Xb.zero, 0⟩ } } }) s

/-- The runner in a trap handler, in supervisor mode. -/
def handler (s : State) : State := me (fun r => { r with status := r.status ||| 0x41 }) s

theorem witness_RunsAndTranslationRegisters_lrun :
    core.me.isHost = true ∧ group.me.isHost = false ∧ group.me.tx.active = false ∧
      (runs 15 group).me.l.run.runs.length < (if (runs 15 group).me.inTrap then 4 else 16) ∧
      (runs 3 (handler group)).me.l.run.runs.length < (if (runs 3 (handler group)).me.inTrap then 4 else 16) ∧
      (if (runs 16 group).me.inTrap then 4 else 16) ≤ (runs 16 group).me.l.run.runs.length ∧
      (if (runs 4 (handler group)).me.inTrap then 4 else 16) ≤ (runs 4 (handler group)).me.l.run.runs.length := by
  decide +kernel

theorem witness_RunsAndTranslationRegisters_lwait :
    let ended (s : State) (g : Bool) (m : BitVec 12) : Bool := ((m == 0 && !g) || s.me.l.run.runs.isEmpty) &&
      ((List.range 12).all fun k => !m.getLsbD k || vget s.me.l.w k == 0) && (!g || (laneOpsDone (onward s) && lanesIdle (onward s)))
    ended group true 0xFFF = true ∧ ended (runs 1 group) false 0 = true ∧ ended (runs 1 group) true 0 = false := by
  decide +kernel

/-- s1 = 0x1000, s2 = −1, s3 = 2^63 with the group's page. -/
def ranges : State := sets 1 0x1000 (sets 2 (-1) (sets 3 0x8000000000000000 group))

theorem witness_RunsAndTranslationRegisters_xbset :
    let x (r : Reg) := ranges.me.sreg r
    2 ^ 64 < (x 2).toNat + (x 1).toNat ∧ x 0 = 0 ∧ x 1 ≠ 0 ∧ (x 3).toNat + (x 3).toNat ≤ 2 ^ 64 ∧
      translate (onward ranges) (onward ranges).me (x 1) = .ok (page1 0x1000) ∧
      keyFault (onward ranges) (page1 0x1000) = false ∧
      translate (onward ranges) (onward ranges).me (x 3) = .error 0x22 := by
  decide +kernel

/-- A descriptor of two elements of 64 bytes apart from offset 0x2000, for queue q0. -/
def streamD : Vector Word 8 := #v[0x2000, 0x400, 2, 0x40, 0, 0, 0, 0]

/-- The group with xb0 valid, s1 = 0x1000 and the descriptor's bytes there. -/
def streaming : State :=
  { sets 1 0x1000 (me (fun r => { r with xb := vset r.xb 0 { Xb.zero with v := true } }) group) with
    mem := [(0x1001, 0x20), (0x1009, 4), (0x1010, 2), (0x1018, 0x40)] }

/-- The group's squad holds the stream as OS 5, at element n, with k entries in its queue. -/
def streamed (n k : Nat) : State :=
  { me (fun r => { r with l := { r.l with q := vset r.l.q 0 (List.replicate k ⟨Vector.replicate 32 0, none, 0⟩) } }) group with
    streams := [⟨0, 5, 3, .group 0, 1, 0, 0, false, streamD, Xb.zero, n, none, none, false, false, false⟩] }

/-- The descriptor that OSDEF reads. -/
def readD (s : State) : Vector Word 8 :=
  Vector.ofFn fun k : Fin 8 => BitVec.ofNat 64 (dieSees (page1 0x1000) 64 (onward s) / 2 ^ (64 * k.val))

theorem witness_OperandStreams_osdef :
    streaming.me.isHost = false ∧ streaming.me.tx.active = false ∧ streaming.me.sreg 1 = 0x1000 ∧
      LeadAccess (onward streaming) 0x1000 64 Need.read (page1 0x1000) ∧ readD streaming = streamD ∧
      streamRefused (spent streaming.me.id false (readDone (page1 0x1000) 64 (onward streaming))) 31 (readD streaming) = false ∧
      streamRefused (spent ranges.me.id false (readDone (page1 0x1000) 64 (onward ranges))) 0 (readD ranges) = true := by
  refine ⟨by decide, by decide, by decide, access_at _ _ _ _ _ ?_, ?_⟩ <;> decide +kernel

theorem witness_OperandStreams_osend :
    let mine (s : State) (n : Nat) : Bool := s.streams.any fun x => x.gal == myGallery s && x.os == n && x.squad == mySquad s
    let idle (s : State) (n : Nat) : Bool := !s.subs.any fun b => b.gal == myGallery s && b.os == n && portClaims s.mops b != 0
    mine group 5 = false ∧ mine (streamed 0 0) 5 = true ∧ idle (streamed 0 0) 5 = true ∧
      idle { streamed 0 0 with
        subs := [⟨0, false, 0, 5, 1, 0, [], 0⟩]
        mops := [⟨0, 7, .group 0, .mloop false 0 true 0 1 1 1 0 [] [], 0, [0], 0, none, false, false, []⟩] } 5 = false := by
  decide +kernel

theorem witness_OperandStreams_element : ∀ s ∈ [streamed 1 7, streamed 2 0, streamed 0 8],
    (∃ x, (s.streams.find? fun x => x.gal == 0 && x.os == 5 && !streamToPorts x.desc) = some x ∧
      s.runner? x.owner = some s.me ∧
      ((x.next < streamTotal x.desc ∧ (vget s.me.l.q (streamQueue x.desc)).length < streamAhead x.desc ∧
          halted s s.me.part = false ∧ (elementEntry s x x.next).1.isSome = true) ∨
        streamTotal x.desc ≤ x.next ∨ streamAhead x.desc ≤ (vget s.me.l.q (streamQueue x.desc)).length)) := by
  intro s hs
  simp only [List.mem_cons, List.not_mem_nil, or_false] at hs
  rcases hs with rfl | rfl | rfl <;> exact ⟨_, rfl, by decide +kernel, by decide +kernel⟩

theorem witness_PrivilegeTraps :
    csrNames core.me 0x3FF = false ∧ user.me.sup = false ∧ csrNames user.me 0x100 = true ∧ group.me.isHost = false ∧
      group.me.sup = false ∧ core.me.isHost = true := by
  decide +kernel

theorem witness_CsrAccess_forms :
    csrNames core.me 0x100 = true ∧ core.me.sup = true ∧ csrNames user.me 0x00A = true ∧ core.me.tx.active = false ∧
      csrNames core.me 0x116 = true ∧ slice (1#64) 7 2 = 0 ∧ csrNames core.me 0x11C = true ∧ slice (0x10001#64) 63 17 = 0 ∧
      (0x10001#64).getLsbD 16 = true ∧ slice (0x10001#64) 15 0 ≠ 0 ∧ csrNames core.me 0x11D = true ∧ slice (0#64) 15 0 = 0 ∧
      liveCtx user (slice (1#64) 15 0) = true ∧ CanSwitch (onward core) := by
  unfold CanSwitch; decide +kernel

theorem witness_CsrAccess_readsBack :
    group.me.isHost = false ∧ (ctx? group group.me.ctx ≠ none ∧ group.me.ctx ≠ 0) ∧ (handler group).me.inTrap = true ∧
      core.me.isHost = true ∧ core.me.ctx = 0 ∧ (myTeam group).isSome = true ∧
      (core.parts.any fun p => p.no == core.me.part) = true ∧
      slice core.me.slsel 5 0 < slicesOf (slice core.me.slsel 7 6) := by
  decide +kernel

theorem witness_TrapEntry_group :
    group.me.isHost = false ∧ group.me.tx.active = false ∧ group.me.inTrap = false ∧ groupTvec group ≠ 0 ∧
      0x01 ∈ handledCauses ∧ 0xB2 ∈ handledCauses ∧ (faultWalk 0xB2 0 group.me group).wicket.holder = none := by
  decide +kernel

theorem witness_TrapEntry_host : core.me.isHost = true ∧ core.me.tx.active = false ∧ 0x22 ∈ handledCauses := by decide

/-- In a transaction. -/
def inTx (s : State) : State := me (fun r => { r with tx := { r.tx with active := true } }) s

theorem witness_TrapAndReturn :
    core.me.tx.active = false ∧ (inTx core).me.tx.active = true ∧ user.me.sup = false ∧
      (super user).me.sup = true ∧ (super user).me.isHost = true ∧ (super user).me.ctx ≠ 0 ∧
      (me (fun r => { r with status := 3 }) core).me.status.getLsbD 1 = true ∧
      core.me.sup = true ∧ core.me.status.getLsbD 1 = false ∧ core.me.ctx = 0 ∧
      (handler group).me.sup = true ∧ (handler group).me.isHost = false ∧ (handler group).me.l.run.runs = [] ∧
      laneOpsDone (onward (handler group)) = true ∧ lanesIdle (onward (handler group)) = true := by
  decide +kernel

/-- A transaction of a thread set aside, which begins again where the runner returns. -/
def aside (s : State) : State :=
  me (fun r => { r with txHeld := [(r.ctx, { r.tx with active := true, resume := 0x80 })], epc := 0x80 }) s

theorem witness_TrapAndReturn_again : ∀ s ∈ [onward core, onward (aside core), drainLanes (onward (aside (handler group)))],
    CanGoBack s ∧ s.me.tx.active = false := by
  intro s hs
  simp only [List.mem_cons, List.not_mem_nil, or_false] at hs
  rcases hs with rfl | rfl | rfl <;> unfold CanGoBack CanReleaseAt <;> decide +kernel

theorem witness_TrapAndReturn_begins :
    beginsAgain (aside core).me = true ∧ beginsAgain core.me = false ∧
      (∃ x, (aside core).me.txHeld.find? (fun x => x.1 == (aside core).me.ctx && x.2.resume == (aside core).me.epc) = some x) ∧
      ((laneOf LaneF.zero).me.l.run.cur.isSome = true) := by
  refine ⟨by decide, by decide, ⟨_, rfl⟩, by decide⟩

theorem witness_TrapAndReturn_lanes :
    (handler group).me.status.getLsbD 7 = false ∧
      (me (fun r => { r with status := 0xC1 }) group).me.status.getLsbD 7 = true := by decide

/-! ## Hypotheses met: requests of the lead stream -/

theorem witness_AssertAndCheckpoints_assert :
    mover.me.tx.active = false ∧ mover.me.sreg 1 ≠ 0 ∧ mover.me.sreg 0 = 0 ∧ mover.me.isHost = true ∧
      group.me.isHost = false ∧ group.me.inTrap = false ∧ assertWaits group = false := by decide +kernel

theorem witness_AssertAndCheckpoints_forms :
    let s := sets 1 0x10000 (sets 2 0xFFFF (sets 3 0x120000000 (super group)))
    s.me.sup = true ∧ slice (s.me.sreg 1) 15 0 = 0 ∧ slice (s.me.sreg 0) 15 0 = 0 ∧ poolHeld s s.me.ctx = false ∧
      slice (s.me.sreg 2) 15 0 ≠ 0 ∧ s.me.isHost = false ∧ injectorOk (s.me.sreg 3) = true ∧
      injectorOk (s.me.sreg 2) = false := by decide +kernel

/-- Context 1, in which no squad runs, seen from a host core in supervisor mode. -/
def admin : State := sets 1 1 { core with ctxs := [ctx1] }

theorem witness_HaltAndPreemptRequests :
    admin.me.sup = true ∧ admin.me.tx.active = false ∧ slice (admin.me.sreg 1) 15 0 = 1 ∧ ctx? admin 1 = some ctx1 ∧
      ctx1.ending = false ∧ (ctx? (endContext 1 (onward admin)) 1).isNone = true ∧ ctx? core 1 = none ∧
      (super group).me.sup = true ∧ (super group).me.isHost = false ∧ ctx? admin 1 ≠ none ∧
      (admin.squads.any fun q => q.ctx == 1) = false := by decide +kernel

theorem witness_HaltAndPreemptRequests_waits :
    let s : State := { admin with
      squads := [⟨3, 0x100, 1, 0, 0, 0, [7], false, 0⟩], teams := [team1]
      ops := [⟨1, .host 0, 0, 0, 1, 0, some 0, 0, 0, true, none, .copy [] false⟩] }
    let e : State := { admin with ctxs := [{ ctx1 with ending := true }] }
    (ctx? (endContext 1 (onward s)) 1).isNone = false ∧ s.me.isHost = true ∧ (s.squads.any fun q => q.ctx == 1) = true ∧
      (∃ c, ctx? e 1 = some c ∧ c.ending = true) ∧ ∃ p ∈ s.parts, p.no = s.me.part ∧ p.halt = none := by
  refine ⟨by decide +kernel, by decide, by decide, ⟨_, rfl, by decide⟩, ⟨Part.atReset 0, by decide +kernel, by decide, rfl⟩⟩

theorem witness_RegisterWriteEvents :
    (1#16) ≠ 0 ∧ ctx? core 1 = none ∧ ctx? admin 1 ≠ none ∧ core.me.isHost = true ∧ liveCtx admin 1 = true ∧
      CanSwitch (onward admin) ∧ group.me.isHost = false ∧
      ([0x100, 0x108, 0x8200, 0x8000, 0x8028, 0x8100, 0x8198].all fun k => k % 8 == 0) = true ∧
      csrNames core.me 0x100 = true ∧ csrNames user.me 0x117 = true := by
  unfold CanSwitch; decide +kernel

/-! ## Hypotheses met: tickets and transactions -/

/-- A translation register for the first 64 KiB. -/
def xb1 : Xb := ⟨0x1000, 0x10000, 0x1000, 0x10000, 0, 14, true, false, false, true, true, 1⟩

/-- An entry of the core in context 1, and its ticket. -/
def entry (st : CSt) : Cloak :=
  ⟨⟨3, 1, 2⟩, st, 5, 1, 0, 0, some 1024, false, 0x2000, 0, 3, .host 0, true, false, List.replicate 8 1, [], none, 0, none⟩

/-- The user-level core that holds that ticket in s1, with xb1 as translation register 1. -/
def holder (st : CSt) : State :=
  { sets 1 (ticketWord ⟨3, 1, 2⟩ 5 0 0) (me (fun r => { r with xb := vset r.xb 1 xb1 }) user) with cloaks := [entry st] }

/-- That core with every entry FREE. -/
def loader : State := me (fun r => { r with xb := vset r.xb 1 xb1 }) user

/-- A group that holds it. -/
def groupHolder (st : CSt) : State := { sets 1 (ticketWord ⟨3, 1, 2⟩ 5 0 0) group with cloaks := [entry st] }

theorem witness_TicketLife :
    (3 < 4 ∧ 63 < 64 ∧ 4095 < 4096 ∧ 15 < 16) ∧ 9 < 10 ∧
      checkTicket (holder .ready) ((holder .ready).me.sreg 1) = .ok (entry .ready) := by
  decide +kernel

theorem witness_TicketLife_new : ∃ w u, newTicket 0 9 false (page1 0x1000) user = some (w, u) := by
  have h : (newTicket 0 9 false (page1 0x1000) user).isSome = true := by decide +kernel
  obtain ⟨⟨w, u⟩, h⟩ := Option.isSome_iff_exists.mp h
  exact ⟨w, u, h⟩

theorem witness_TicketIssue :
    let s := loader
    let q := markAccess (released (onward s)) (released (onward s)).me (xb1.tr 0xF000) false
    let full : State := { q with parts := [] }
    markReady (released (onward s)) (released (onward s)).me (xb1.tr 0xF000) false = true ∧
    s.me.ctx ≠ 0 ∧ s.me.tx.active = false ∧ [0, 2, 4].contains (orderOf s).2 = true ∧
      CanRelease (onward s) ∧
      viaXb (onward s) (onward s).me (vget s.me.xb 1) 0xF000 (2 ^ 12) Need.read = (0x10000, .ok (xb1.tr 0xF000)) ∧
      (0x10000#64).toNat % 2 ^ 12 = 0 ∧ rangeHit (onward s) s.me.part (xb1.tr 0xF000).pa (2 ^ 12) false = false ∧
      (newTicket 0 9 false (xb1.tr 0xF000) q).isSome = true ∧ (newTicket 0 9 false (xb1.tr 0xF000) full).isNone = true := by
  unfold CanRelease CanReleaseAt; decide +kernel

theorem witness_TicketUse_refused : ∀ st ∈ [CSt.claimed, .spent, .free],
    (holder st).me.ctx ≠ 0 ∧ (holder st).me.tx.active = false ∧
      ∃ c, checkRedeem (onward (holder st)) ((holder st).me.sreg 1) (fun _ => true) = .error c := by
  intro st hs
  simp only [List.mem_cons, List.not_mem_nil, or_false] at hs
  rcases hs with rfl | rfl | rfl
  · exact ⟨by decide, by decide, 0x41, by decide +kernel⟩
  · exact ⟨by decide, by decide, 0x41, by decide +kernel⟩
  · exact ⟨by decide, by decide, 0x43, by decide +kernel⟩

theorem witness_TicketUse_ok : ∀ st ∈ [CSt.ready, .pending],
    checkRedeem (onward (holder st)) ((holder st).me.sreg 1) (· == 0) = .ok (entry st) ∧
      checkRedeem (onward (groupHolder st)) ((groupHolder st).me.sreg 1) (fun _ => true) = .ok (entry st) ∧
      (entry st).st = st ∧ (entry st).poison = false ∧ { entry st with poison := true }.poison = true := by
  decide +kernel

theorem witness_TicketUse_places :
    (∃ l, StoresAt 1 0 1 (onward (holder .ready)) l ∧ piecesReady l (onward (holder .ready)) = true ∧
      deliveryBlocked (markPieces l (onward (holder .ready))) (holder .ready).me.id (memDest l none (holder .ready)) = false) ∧
      LandsAt 1 0 (onward (groupHolder .ready)) team1 0 := by
  have h : (xbPieces (onward (holder .ready)) (holder .ready).me xb1 0 8 Need.write) = .ok [(xb1.tr 0, 8)] := by decide +kernel
  refine ⟨⟨[(xb1.tr 0, 8)], ⟨?_, ?_, ?_⟩, ?_, ?_⟩, ?_⟩
  · decide +kernel
  · decide +kernel
  · decide +kernel
  · decide +kernel
  · decide +kernel
  · unfold LandsAt; decide +kernel

/-- A lane slot of two lanes with the ticket in the pair v8, a landing offset in v12 and no index, in a group whose
xb1 is valid. -/
def laneHolder (f : LaneF) (st : CSt) : State :=
  { lanes (fun l => { l with
      v := vset (vset l.v 8 (vset (vget l.v 8) 0 ((ticketWord ⟨3, 1, 2⟩ 5 0 0).setWidth 32))) 9
        (vset (vget l.v 9) 0 (((ticketWord ⟨3, 1, 2⟩ 5 0 0) >>> 32).setWidth 32)) })
      (me (fun r => { r with xb := vset r.xb 1 xb1, l := { r.l with live := 1, run := { r.l.run with
        runs := [⟨0, vset (Vector.replicate 8 Xb.zero) 1 xb1, 0⟩], frags := [⟨1, 0, .runnable, 0, true, 0⟩] } } })
        (laneOf f)) with
    cloaks := match st with | .free => [] | _ => [entry st] }

theorem witness_LaneTickets_tloadv :
    let s := laneHolder (slot 0 4 16 0 16 0x20000000) .free
    let c := laneIn tloadvRule s
    let q := laneOn tloadvRule s
    LaneReady tloadvRule s ∧ CanReleaseAt c.f.scope c.f.order q ∧ c.f.c.getLsbD 4 = true ∧
      ∃ tr : Nat → Tr, ∀ k ∈ lanesOf c.act,
        laneProbe q (runXb q c.f.xbn) (c.f.offset (sextN 32 (c.a k))) (2 ^ 3) Need.read = .ok (tr k) ∧
          markReady (releasedAt c.f.scope c.f.order q) (releasedAt c.f.scope c.f.order q).me (tr k) false = true := by
  refine ⟨ready_of _ _ (by decide +kernel), by unfold CanReleaseAt; decide +kernel, by decide +kernel, fun _ => xb1.tr 0, ?_⟩
  decide +kernel

theorem witness_LaneTickets_redeem : ∀ st ∈ [CSt.ready, .pending],
    let s := laneHolder (slot 0 4 8 0 0 0) st
    let c := laneIn laneRedeemRule s
    let q := laneOn laneRedeemRule s
    let cs := laneClaims (fun z => z == 0 || (z == 1 && c.f.d.toNat % 4 == 0)) (laneTicketsOf c) q
    LaneReady laneRedeemRule s ∧ (∃ u, (opIssued c false).run q = .ok ((), u)) ∧ refusedOf cs = [] ∧ claimedOf cs ≠ [] ∧
      (∀ p ∈ claimedOf cs, ¬(p.2.2.st = .ready ∧ p.2.2.poison = true)) ∧
      ((claimedOf cs).any fun p => p.2.2.size == 1) = false := by
  intro st hs
  simp only [List.mem_cons, List.not_mem_nil, or_false] at hs
  rcases hs with rfl | rfl <;>
    exact ⟨ready_of _ _ (by decide +kernel), ⟨_, rfl⟩, by decide +kernel, by decide +kernel, by decide +kernel, by decide +kernel⟩

theorem witness_LaneTickets_landing :
    let s := laneHolder (slot 0 0 8 12 1 0) .ready
    let c := laneIn laneRedeemRule s
    let q := laneOn laneRedeemRule s
    let cs := laneClaims (fun _ => true) (laneTicketsOf c) q
    LaneReady laneRedeemRule s ∧ myTeam q = some team1 ∧ refusedOf cs = [] ∧ claimedOf cs ≠ [] ∧
      (∀ k ∈ lanesOf c.act, let n := 2 ^ (ticketSize (BitVec.ofNat 64 (c.a k)) + 3)
        landCheck q team1 (sextN 32 (c.b k) + c.f.off) n (min n 16) true = .ok 0) ∧
      (∃ u, (opIssued c false).run q = .ok ((), u)) := by
  exact ⟨ready_of _ _ (by decide +kernel), by decide +kernel, by decide +kernel, by decide +kernel, by decide +kernel, ⟨_, rfl⟩⟩

theorem witness_CloakroomEvents :
    let s : State := { user with cloaks := [{ entry .pending with lease := some 0 }] }
    let p : State := { user with cloaks := [{ entry .claimed with take := some (.host 0, .reg 5 none 0x40) }] }
    let q := performTickets (fun x => x.id == ⟨3, 1, 2⟩ && x.st == .claimed) p
    (∃ e, s.cloaks.find? (fun x => x.id == ⟨3, 1, 2⟩) = some e ∧ e.st = .pending ∧ e.lease = some 0 ∧
      e.readable s = true ∧ leaseFrozen s e.ctx = false) ∧
      ∃ e, q.cloaks.find? (fun x => x.id == ⟨3, 1, 2⟩ && x.st == .claimed) = some e ∧
        e.take = some (.host 0, .reg 5 none 0x40) ∧ e.performed = true ∧ e.poison = false ∧
        deliveryBlocked q (.host 0) (.reg 5 none 0x40) = false := by
  exact ⟨⟨_, rfl, by decide +kernel, by decide +kernel, by decide +kernel, by decide +kernel⟩,
    ⟨_, rfl, by decide +kernel, by decide +kernel, by decide +kernel, by decide +kernel⟩⟩

/-! ## Hypotheses met: transactions -/

/-- The core in an attempt that resumes at 0x80. -/
def attempt : State := me (fun r => { r with tx := { r.tx with active := true, resume := 0x80 } }) user

/-- An attempt that has read a byte that no longer stands. -/
def stale (s : State) : State := me (fun r => { r with tx := { r.tx with rlog := [(0x1000, 5)] } }) s

/-- The core next to lock first: its attempts are spent. -/
def locker (holder : Option RunnerId) : State :=
  { me (fun r => { r with txretry := 0 }) user with wicket := { user.wicket with holder := holder } }

theorem witness_LeadTransactionForms_begin :
    user.me.tx.active = false ∧ user.me.isHost = true ∧ group.me.l.tx.any LaneTx.inTx = false ∧
      CanReleaseAt 5 3 (onward user) ∧ user.me.lockFirst = false := by
  unfold CanReleaseAt; decide +kernel

theorem witness_LeadTransactionForms_lock : ∀ h ∈ [none, some (RunnerId.host 5)],
    let s := locker h
    let q := releaseState 5 (onward s)
    let w := q.wicket.take q.me.id q.clocks.fabric
    s.me.tx.active = false ∧ s.me.lockFirst = true ∧
      (h = none ↔ w.holder = some q.me.id) ∧ CanReleaseAt 5 3 (onward s) := by
  unfold CanReleaseAt; decide +kernel

theorem witness_LeadTransactionForms_commit :
    attempt.me.tx.active = true ∧ leadValid (onward attempt) = true ∧ commitReady (onward attempt) attempt.me.tx.wbuf = true ∧
      meetsHolder (onward attempt) attempt.me.tx.wbuf = false ∧
      (inTx group).me.tx.active = true ∧
      leadValid (onward (stale (inTx group))) = false ∧
      commitReady (onward (stale (inTx group))) (stale (inTx group)).me.tx.wbuf = true ∧
      attempt.me.conflictFinal = false := by decide +kernel

/-- What the accesses of an attempt meet: its target is memory, or another package's, or no memory. -/
def txState (w : Nat) : State :=
  me (fun r => { r with tx := { r.tx with
    wbuf := (List.range w).map fun k => (0x4000 + 256 * k, 1), rlog := (List.range (2 * w)).map fun k => (0x8000 + 256 * k, 1) } })
    (inTx (sets 1 0x1000 group))

theorem witness_LeadTransactionForms_access : ∀ need ∈ [Need.read, Need.write, Need.both],
    let s := txState 0
    let q := onward s
    let t := page1 0x1000
    s.me.tx.active = true ∧ s.me.sreg 1 + BitVec.ofNat 64 (2 ^ (3#2).toNat) * (0#10).signExtend 64 = 0x1000 ∧
      TxAccess q 0x1000 8 need t ∧ OwnMemory s t ∧ TxReadFits t 8 q ∧ TxWriteFits t 8 q ∧ TxWriteFits t 8 (txReadDone t 8 q) ∧
      (txWriteDone t (leBytes 8 5) (txReadDone t 8 q)).me.tx.active = true := by
  intro need hn
  simp only [List.mem_cons, List.not_mem_nil, or_false] at hn
  rcases hn with rfl | rfl | rfl <;>
    exact ⟨by decide, by decide, ⟨reach_at _ _ _ _ _ (by decide +kernel), by decide +kernel, by decide +kernel⟩,
      by unfold OwnMemory; decide +kernel, by unfold TxReadFits; decide +kernel, by unfold TxWriteFits; decide +kernel,
      by unfold TxWriteFits; decide +kernel, by decide +kernel⟩

/-- The lead stream's sets are full, a line is the lock holder's, and its page may lie in another package or the register block. -/
theorem witness_LeadTransactionForms_bars :
    let q := onward (txState 32)
    let t := page1 0x1000
    let h : State := { onward (inTx (sets 1 0x1000 group)) with
      wicket := { group.wicket with holder := some (.host 0) }
      others := [me (fun r => { r with tx := { r.tx with active := true, wbuf := [(0x1000, 1)] } }) user].map State.me }
    (txFresh t 8 q).any (fun l => (holderWrote q q.me.id).contains l) = false ∧ markReady q q.me t false = true ∧
      txFresh t 8 q ≠ [] ∧ leadCapacity q.me (txFresh t 8 q) false = true ∧ leadCapacity q.me (linesOf t.pa 8) true = true ∧
      (q.me.isHost && lockedOut q (some q.me.id) t.pa 8) = false ∧
      packageOf { t with pa := 2 ^ 48 }.pa ≠ q.pkg.toNat ∧
      (packageOf { t with pa := 0x40000000000 }.pa = q.pkg.toNat ∧ (poolOf { t with pa := 0x40000000000 }.pa).isMemory = false) ∧
      (txFresh t 8 h).any (fun l => (holderWrote h h.me.id).contains l) = true := by decide +kernel

theorem witness_ForbiddenInTransactions :
    (inTx group).me.tx.active = true ∧ (inTx group).me.isHost = false ∧ (inTx group).me.ctx ≠ 0 ∧
      (inTx group).issue.ord = none ∧ (csrRead (onward (inTx group)) 0x00A).isSome = true ∧ 0x00A < 0x100 ∧
      (inTx (super group)).me.sup = true ∧ (csrRead (onward (inTx (super group))) 0x100).isSome = true := by decide +kernel

/-- A group of two lanes at the slot, whose lanes of the mask stand in attempts begun at another clause. -/
def laneAttempt (f : LaneF) (m : Mask) : State :=
  let one (k : Fin 32) : LaneTx :=
    if m.getLsbD k.val then { LaneTx.none with st := .running, cont := 9, restart := 9 } else LaneTx.none
  lanes (fun l => { l with tx := Vector.ofFn one }) (laneOf f)

theorem witness_LaneTransactionForms_begin :
    let s := laneOf (slot 0 4 8 12 0 0)
    let c := laneIn laneTxbegRule s
    let q := laneOn laneTxbegRule s
    let others := (lanesOf c.act).filter fun k => !nestedLane q.me.l c.cl.hdr k
    LaneReady laneTxbegRule s ∧ q.me.inTrap = false ∧ c.cl.pos = 0 ∧ q.me.tx.active = false ∧ others ≠ [] ∧
      others.filter (laneNeedsLock q.me) = [] ∧ CanReleaseAt 5 3 q := by
  exact ⟨ready_of _ _ (by decide +kernel), by decide +kernel, by decide +kernel, by decide +kernel, by decide +kernel,
    by decide +kernel, by unfold CanReleaseAt; decide +kernel⟩

/-- A lane whose attempts are spent needs the fallback lock, free or held. -/
theorem witness_LaneTransactionForms_lock : ∀ h ∈ [none, some (RunnerId.host 5)],
    let s : State := { me (fun r => { r with txretry := 0 }) (laneOf (slot 0 4 8 12 0 0)) with
      wicket := { core.wicket with holder := h } }
    let c := laneIn laneTxbegRule s
    let q := laneOn laneTxbegRule s
    let others := (lanesOf c.act).filter fun k => !nestedLane q.me.l c.cl.hdr k
    let u := releaseState 5 q
    let w := u.wicket.take u.me.id u.clocks.fabric
    LaneReady laneTxbegRule s ∧ others.filter (laneNeedsLock q.me) ≠ [] ∧ (h = none ↔ w.holder = some u.me.id) := by
  intro h hh
  simp only [List.mem_cons, List.not_mem_nil, or_false] at hh
  rcases hh with rfl | rfl <;> exact ⟨ready_of _ _ (by decide +kernel), by decide +kernel, by decide +kernel⟩

theorem witness_LaneTransactionForms_late :
    let s := lanes (fun l => { l with run := { l.run with cur := some ⟨0, 0, 2, [0, 0], 1, none, none, [], none⟩ } })
      (laneOf (slot 0 4 8 12 0 0))
    LaneReady laneTxbegRule s ∧ (laneOn laneTxbegRule s).me.inTrap = false ∧ (laneIn laneTxbegRule s).cl.pos ≠ 0 :=
  ⟨ready_of _ _ (by decide +kernel), by decide +kernel, by decide +kernel⟩

/-- Every lane of active(M) stands in an attempt, or one does not. -/
theorem witness_LaneTransactionForms_end : ∀ m ∈ [3, 1], ∀ rule ∈ ([fun _ => { noType := true, d := .none, m := false },
    fun _ => { noType := true, d := .none, i16 := 0xFF }] : List (LaneF → LRule)),
    let s := laneAttempt (slot 0 0 0 0 0 0) m
    let c := laneIn rule s
    LaneReady rule s ∧
      (((lanesOf c.act).filter fun k => (vget (laneOn rule s).me.l.tx k).st != .running) = [] ↔ m = 3) ∧
      ∀ k ∈ lanesOf c.act, commitReady (laneOn rule s) (vget (laneOn rule s).me.l.tx k).wbuf = true := by
  have h : ([3, 1] : List Mask).all (fun m => ([fun _ => { noType := true, d := .none, m := false },
      fun _ => { noType := true, d := .none, i16 := 0xFF }] : List (LaneF → LRule)).all fun rule =>
        readyB rule (laneAttempt (slot 0 0 0 0 0 0) m) &&
        ((((lanesOf (laneIn rule (laneAttempt (slot 0 0 0 0 0 0) m)).act).filter fun k =>
          (vget (laneOn rule (laneAttempt (slot 0 0 0 0 0 0) m)).me.l.tx k).st != .running) == []) == (m == 3)) &&
        (lanesOf (laneIn rule (laneAttempt (slot 0 0 0 0 0 0) m)).act).all fun k =>
          commitReady (laneOn rule (laneAttempt (slot 0 0 0 0 0 0) m))
            (vget (laneOn rule (laneAttempt (slot 0 0 0 0 0 0) m)).me.l.tx k).wbuf) = true := by
    decide +kernel
  intro m hm rule hr
  have := List.all_eq_true.mp (List.all_eq_true.mp h m hm) rule hr
  simp only [Bool.and_eq_true, Bool.beq_eq_decide_eq] at this
  exact ⟨ready_of _ _ this.1.1, by simpa using this.1.2, fun k hk => List.all_eq_true.mp this.2 k hk⟩

/-- A lane inside its attempt, beside one that has written the byte at 0x2000, the group's sets at w lines. -/
def laneInside (w : Nat) : State :=
  lanes (fun l => { l with tx := vset l.tx 1 { vget l.tx 1 with
    wbuf := (0x2000, 1) :: (List.range w).map fun k => (0x4000 + 256 * k, 1)
    rlog := (List.range (2 * w)).map fun k => (0x8000 + 256 * k, 1) } }) (laneAttempt LaneF.zero 3)

theorem witness_LaneTransactionForms_access :
    let s := laneInside 0
    let full := laneInside 32
    let t := page1 0x1000
    let held : State := { s with
      wicket := { s.wicket with holder := some (.host 0) }
      others := [me (fun r => { r with tx := { r.tx with active := true, wbuf := [(0x1000, 1)] } }) user].map State.me }
    s.me.attempting 0 = true ∧ OwnMemory s t ∧ (linesWith (groupReads s.me) (freshLines [] t.pa 8)).length ≤ 64 ∧
      (linesWith (groupWrites s.me) (linesOf t.pa 8)).length ≤ 32 ∧
      ((freshLines [] t.pa 8).any fun l => (holderWrote s s.me.id).contains l) = false ∧ laneTxReady 0 t 8 false s = true ∧
      laneTxReady 0 t 8 true s = true ∧ otherWrote s 0 t.pa 8 = false ∧ otherWrote s 0 0x2000 8 = true ∧
      64 < (linesWith (groupReads full.me) (freshLines [] t.pa 8)).length ∧
      32 < (linesWith (groupWrites full.me) (linesOf t.pa 8)).length ∧
      ((freshLines [] t.pa 8).any fun l => (holderWrote held held.me.id).contains l) = true := by
  unfold OwnMemory; decide +kernel

/-- Attempts of the lead stream and of a lane, due for their validation, valid and not. -/
theorem witness_LaneTransactionForms_validation :
    let s := me (fun r => { r with tx := { r.tx with ran := 65536 } }) (inTx group)
    let l (old : List (Nat × Byte)) : State := lanes (fun l => { l with
      tx := vset l.tx 1 { LaneTx.none with st := .running, rlog := old, ran := 70000 } }) (laneOf LaneF.zero)
    65536 ≤ attemptRan s 32 ∧ leadValid (restartRan 32 s) = true ∧ leadValid (restartRan 32 (stale s)) = false ∧
      attemptRan (inTx group) 32 < 65536 ∧
      (∀ old ∈ [[], [(0x1000, 5)]], 65536 ≤ attemptRan (l old) 1 ∧ (l old).runner? (l old).me.id = some (l old).me ∧
        (vget (l old).me.l.tx 1).st = .running ∧ (fragOf (restartRan 1 (l old)).me.l 1).isSome = true ∧
        laneValid (restartRan 1 (l old)) 1 = old.isEmpty) := by
  decide +kernel

theorem witness_LaneTransactionForms_events :
    let s := (inTx group)
    let w (h : Option RunnerId) (q : List RunnerId) (n : Nat) : State :=
      { inTx core with wicket := { core.wicket with holder := h, queue := q }, clocks := { core.clocks with fabric := n } }
    s.me.tx.active = true ∧ s.runner? s.me.id = some s.me ∧ leadValid s = true ∧
      leadValid (stale s) = false ∧
      (w none [.host 3] 0).wicket.holder = none ∧ (w none [.host 3] 0).wicket.queue = .host 3 :: [] ∧
      (w (some (.host 0)) [] (2 ^ 20)).wicket.holder = some (w (some (.host 0)) [] (2 ^ 20)).me.id ∧
      core.wicket.since + 2 ^ 20 ≤ (w (some (.host 0)) [] (2 ^ 20)).clocks.fabric ∧
      (w (some (.host 0)) [] (2 ^ 20)).me.tx.active = true := by decide +kernel

/-! ## Hypotheses met: lane instructions that are ready -/

theorem witness_LaneIntegerForms_ready : ∀ p ∈ ([
    (intRule tyInt true false true true, slot 4 4 8 12 0 0),
    (intRule tyInt32 true false true false, slot 4 4 8 12 0 0),
    (intRule tyInt true true false true, slot 4 4 8 12 16 0),
    (intRule tyInt true false true false, slot 4 4 8 12 0 0),
    (intRule tySigned false false false true, slot 4 4 8 0 0 0),
    (intRule tyBitsOk true false true false, slot 0 4 8 12 0 0),
    (intRule tyBitsOk false false false false, slot 0 4 8 0 0 0),
    (shiftRule true, slot 0 4 8 12 0 0),
    (shiftRule false, slot 0 4 8 12 0 0),
    (fun f => { type := tyB f.t, a := useOf (tyBits f.t) }, slot 0 4 8 0 0 0),
    (fun f => { type := f.t == 4 || f.t == 8, a := .one, x := 0xFFC0,
                                    also := decide (bfxPos f + bfxWidth f ≤ 32) }, slot 4 4 8 0 0 0),
    (fun f => { intRule tyB true false false false f with x := 0xF000 }, slot 0 4 8 12 0 0),
    (cmpRule tyInt, slot 4 4 8 12 0 0),
    (intRule tyB false false false false, slot 0 4 8 0 0 0),
    (fun f => { type := f.t != 1 && decide (f.t ≤ 0xD), d := useOf (tyBits f.t), imm := true, immTy := f.t,
                                    also := f.ib }, { slot 4 4 0 0 0 7 with ib := true })] :
      List ((LaneF → LRule) × LaneF)), LaneReady p.1 (laneOf p.2) :=
  all_ready _ (by decide +kernel)

theorem witness_LaneCrossForms_ready : ∀ p ∈ ([
    (fun f =>
      let idx := f.low 31 30 == 0
      { type := tyB f.t, d := useOf (tyBits f.t), a := useOf (tyBits f.t), b := if idx then .one else .none,
        x := 0xC000, i16 := if idx then 0 else 0x1F }, slot 0 4 8 12 0 0),
    (fun f => { type := tyB f.t, d := useOf (tyBits f.t), a := useOf (tyBits f.t), x := 0x8000, i16 := if f.low 31 31 = 1 then 0 else 0x1F }, slot 0 4 8 0 0 31),
    (redRule 0xF000, slot 12 4 8 0 0 0),
    (redRule 0xF800, slot 12 4 8 0 0 0),
    (fun f => { type := f.t == 0, a := .one }, slot 0 4 8 0 0 0),
    (fun f => { type := tyPack f.t, a := .one, b := .one, x := 0x8000, sat := true,
                                    also := tyBits f.t == 8 || f.low 31 31 == 0 }, slot 6 4 8 12 0 0x80000000),
    (fun f => { type := tyPack f.t, a := .one, x := 0xC000,
                                    also := tyBits f.t == 8 || decide (f.low 31 30 ≤ 1) }, slot 6 4 8 0 0 0)] :
      List ((LaneF → LRule) × LaneF)), LaneReady p.1 (laneOf p.2) :=
  all_ready _ (by decide +kernel)

theorem witness_RunsAndMasks_ready : ∀ p ∈ ([
    (maskRule true, slot 0 4 8 12 0 0),
    (maskRule false, slot 0 4 8 0 0 0),
    (fun f =>
      let reg := f.d.getLsbD 7
      { ctlRule with
        m := true, d := .other, a := if reg then .one else .none, x := if reg then 0 else 0xFFFF
        i16 := if reg then 0 else 0xFFFF
        also := bitsN f.d.toNat 6 4 == 0 && bitsN f.d.toNat 3 0 != 0 }, slot 0 0x84 8 0 0 0),
    (fun f => { ctlRule with m := true, d := .one, a := .other, x := 0x8000,
                                    also := maskField f.a }, slot 0 4 8 0 0 0)] :
      List ((LaneF → LRule) × LaneF)), LaneReady p.1 (laneOf p.2) :=
  all_ready _ (by decide +kernel)

theorem witness_LaneLoads_ready : ∀ p ∈ ([
    (memRule tyMem 3 7 7 loadOrders, slot 0 4 8 0 0 0),
    (scratchRule tyMem 3 0 2 loadOrders, slot 0 4 8 0 0 0),
    (scratchRule tyMem 3 0 3 loadOrders, slot 0 4 8 0 0 0),
    (scratchRule tyMem 3 3 7 loadOrders, slot 0 4 8 0 0 0),
    (scratchRule tyMem 3 0 0 [0], slot 0 4 8 0 0 0),
    (tileRule [0, 1], slot 0 4 8 12 0 0),
    (fun f => { type := f.t == 0, d := .other, a := if f.noIdx then .none else .one, c := .other, x := 0xE060, i16 := 0xFFFF,
                                    also := decide (f.d.toNat < 3) && (f.c.toNat &&& 253) == 0 }, slot 0 1 8 0 0 0)] :
      List ((LaneF → LRule) × LaneF)), LaneReady p.1 (laneOf p.2) :=
  all_ready _ (by decide +kernel)

theorem witness_LaneStoresAndScratch_ready : ∀ p ∈ ([
    (memRule tyMem 3 7 7 storeOrders, slot 0 4 8 0 0 0),
    (scratchRule tyMem 3 0 2 storeOrders, slot 0 4 8 0 0 0),
    (scratchRule tyMem 3 0 3 storeOrders, slot 0 4 8 0 0 0),
    (scratchRule tyB 2 0 0 [0], slot 0 4 8 0 0 0),
    (scratchRule tyMem 3 3 7 storeOrders, slot 0 4 8 0 0 0),
    (scratchRule tyMem 3 0 0 [0], slot 0 4 8 0 0 0),
    (tileRule [0, 2], slot 0 4 8 12 0 0)] :
      List ((LaneF → LRule) × LaneF)), LaneReady p.1 (laneOf p.2) :=
  all_ready _ (by decide +kernel)

theorem witness_LaneAtomics_ready : ∀ p ∈ ([
    (atomicRule tyInt32, slot 4 4 8 12 0 0),
    (atomicRule tySigned32, slot 4 4 8 12 0 0),
    (atomicRule tyUnsigned32, slot 8 4 8 12 0 0),
    (atomicRule tyB, slot 0 4 8 12 0 0),
    (atomicRule fun t => t == 0xC || t == 0xD, slot 12 4 8 12 0 0),
    (fun f => { noType := true, d := .none, m := false, x := 0x1F80, tx := false,
                                    also := decide (1 ≤ f.order) && decide (f.order ≤ 4) }, slot 0 0 0 0 0 0x800000)] :
      List ((LaneF → LRule) × LaneF)), LaneReady p.1 (laneOf p.2) :=
  all_ready _ (by decide +kernel)

theorem witness_SparseForms_ready : ∀ p ∈ ([
    (fun f => { type := tyB f.t, a := useOf (tyBits f.t), x := 0xF000 }, slot 0 4 8 0 0 0),
    (fun f =>
      let op := f.low 31 28
      { type := tyInt32 f.t || tyFloat f.t, d := useOf (tyBits f.t), a := .one, b := useOf (tyBits f.t), x := 0xF000
        rm := tyFloat f.t && op == 0, sat := tyInt32 f.t && op == 0, also := decide (op < 3) }, slot 12 4 8 12 0 0),
    (fun f => { type := f.t == 4 || f.t == 8, d := .pair, a := .one, b := .one, c := .one, x := 0xFC00,
                                    also := !f.qc }, slot 4 4 8 12 16 0),
    (packRule, slot 0 4 8 0 0 0),
    (idxldRule, slot 6 0 8 12 16 0)] :
      List ((LaneF → LRule) × LaneF)), LaneReady p.1 (laneOf p.2) :=
  all_ready _ (by decide +kernel)

theorem witness_LaneFloatForms_ready : ∀ p ∈ ([
    (fltRule tyFloat true false true true, slot 12 4 8 12 0 0),
    (fltRule tyFloat true false false true, slot 12 4 8 12 0 0),
    (fltRule tyFloat true true false true, slot 12 4 8 12 16 0),
    (fltRule tyFloat true false true false, slot 12 4 8 12 0 0),
    (fltRule tyFloat false false false true, slot 12 4 8 0 0 0),
    (fltRule tyFloat32 false false false true, slot 12 4 8 0 0 0),
    (fun f => { fltRule tyFloat true false true true f with b := .one, immTy := 4 }, slot 12 4 8 12 0 0),
    (cmpRule tyFloat, slot 12 4 8 12 0 0),
    (fun f => { type := f.t == 0xC, d := .pair, a := .pair, b := .pair, c := .pair, x := 0x8000, rm := true }, slot 12 4 8 12 16 0),
    (cvtRule, slot 12 4 8 0 0 0x40000000)] :
      List ((LaneF → LRule) × LaneF)), LaneReady p.1 (laneOf p.2) :=
  all_ready _ (by decide +kernel)

theorem witness_DivergenceAndBarriers_ready : ∀ p ∈ ([
    (fun f => { flowRule with m := true, a := .other, x := 0x803F, i16 := 0xFFFF,
                                    also := maskField f.a }, slot 0 0 8 0 0 0),
    (fun _ => { flowRule with x := 0x3F, i16 := 0xFFFF }, slot 0 0 0 0 0 0),
    (fun _ => flowRule, slot 0 0 0 0 0 0),
    (fun _ => { flowRule with x := 0xF000 }, slot 0 0 0 0 0 0),
    (fun _ => { flowRule with x := 0xF800 }, slot 0 0 0 0 0 0),
    (fun _ => { flowRule with x := 0xC000 }, slot 0 0 0 0 0 0)] :
      List ((LaneF → LRule) × LaneF)), LaneReady p.1 (laneOf p.2) :=
  all_ready _ (by decide +kernel)

theorem witness_lane_requests_ready : ∀ p ∈ ([
    (tloadvRule, slot 0 4 8 0 16 0),
    (laneRedeemRule, slot 0 4 8 0 0 0),
    (laneTxbegRule, slot 0 4 8 12 0 0),
    (fun _ => { noType := true, d := .none, m := false }, slot 0 0 0 0 0 0),
    (fun _ => { noType := true, d := .none, i16 := 0xFF }, slot 0 0 0 0 0 0),
    (fun _ => { noType := true, d := .pair, x := 0x8000 }, slot 0 4 0 0 0 0),
    (laneAssertRule, slot 0 0 8 12 0 0),
    (vcsrrdRule group.me, slot 0 4 0 0 0 0),
    (mmaRule, slot 0 4 8 12 0 0),
    (accRowRule true, slot 0 4 8 0 0 0),
    (accRowRule false, slot 0 4 8 0 0 0),
    (laneCopyRule 0x11 fun _ => true, slot 0 4 8 12 16 0),
    (laneCopyRule 0x7C fun f => copyDk f != 3 && copySk f != 3 &&
      (!f.c.getLsbD 6 || (copyDk f == 0 && copySk f == 0)), slot 0 4 8 12 16 0),
    (laneCopyRule 0x30 fun f => copyDk f != 3, slot 0 4 8 12 16 0)] :
      List ((LaneF → LRule) × LaneF)), LaneReady p.1 (laneOf p.2) :=
  all_ready _ (by decide +kernel)

/-! ## Hypotheses met: copies and batches -/

/-- The bytes of w at an address, as cells. -/
def cells (a n w : Nat) : Mem := (List.range n).filterMap fun k =>
  if w / 256 ^ k % 256 = 0 then none else some (a + k, BitVec.ofNat 8 (w / 256 ^ k))

/-- A copier by address at system scope, relaxed. -/
def plain (lane : Bool) : Copier := ⟨lane, none, 7, 0⟩

/-- One portion of the group's page. -/
def part1 (a : Word) (n : Nat) : Portion := ⟨a, page1 a.toNat, n⟩

/-- A layout record: base 0x200000, elements of 4 bytes, rank 2, pitch 32, boxes 8 × 2, a tensor of 8 × 4 with rows of 32
bytes. -/
def layout : Nat :=
  0x200000 + 2 * 2 ^ 64 + 2 * 2 ^ 69 + 32 * 2 ^ 112 + 8 * 2 ^ 128 + 2 * 2 ^ 144 + 8 * 2 ^ 192 + 4 * 2 ^ 224 + 32 * 2 ^ 320

/-- The group with that record at 0x1000 and the list of rows 3, 1 at 0x2000. -/
def tiler : State := { group with mem := cells 0x1000 64 layout ++ cells 0x2000 8 (3 + 2 ^ 32) }

theorem side_mem (c : Copier) (q : State) (hx : c.xb = none) (k : Nat) (v : Word) (nd : Need) (ps : List Portion)
    (h : c.portions q v k nd = .ok ps) (hk : (ps.all fun p => !keyFault q p.t) = true) :
    Side c q k 0 v nd v ⟨ps, memLocs q ps, none⟩ :=
  .inl ⟨rfl, by simp [Copier.operand, hx], ps, h, fun p hp => by simpa using List.all_eq_true.mp hk p hp, rfl⟩

theorem witness_CopyForms_basics :
    group.me.isHost = false ∧ group.me.ctx ≠ 0 ∧ group.me.tx.active = false ∧ [0, 2, 4].contains (orderOf group).2 = true := by
  decide

/-- CPYL of no bytes; of 256 bytes from memory to memory, raw or not; and into the landing. -/
theorem witness_CopyForms_linear :
    IssuesCpyl (plain false) group 0x100000 0x200000 0 0 0 false (joinOpen group) ∧
      (∀ raw, ∃ u, IssuesCpyl (plain false) group 0x100000 0x200000 256 0 0 raw u) ∧
      ∃ u, IssuesCpyl (plain true) group 0x40 0x200000 256 1 0 false u := by
  have m : ∀ (b : Bool) (a : Word) (nd : Need), (a = 0x100000 ∨ a = 0x200000) → (nd = Need.read ∨ nd = Need.write) →
      Side (plain b) group 256 0 a nd a ⟨[part1 a 256], memLocs group [part1 a 256], none⟩ := by
    intro b a nd ha hn
    refine side_mem _ _ rfl _ _ _ _ ?_ ?_ <;> rcases ha with rfl | rfl <;> rcases hn with rfl | rfl <;> cases b <;>
      decide +kernel
  refine ⟨⟨by decide, .inl ⟨rfl, rfl⟩⟩, fun raw => ⟨_, by decide, .inr ⟨by decide, by decide, ?_, 0x100000, 0x200000, _, _,
    m _ _ _ (.inl rfl) (.inr rfl), m _ _ _ (.inr rfl) (.inl rfl), ?_, ?_, ?_, ?_, ?_, rfl⟩⟩, ⟨_, by decide, .inr ⟨by decide,
    by decide, ?_, 0x40, 0x200000, _, _, .inr ⟨by decide, rfl, team1, 0x40, run_scratchSide_land ?_ ?_, rfl⟩,
    m _ _ _ (.inr rfl) (.inl rfl), by simp, ?_, ?_, ?_, ?_, rfl⟩⟩⟩
  · unfold CanReleaseAt; decide
  · intro _; decide +kernel
  · decide +kernel
  · cases raw <;> decide +kernel
  · cases raw <;> decide +kernel
  · decide +kernel
  · unfold CanReleaseAt; decide
  all_goals decide +kernel

/-- CPYF of 256 bytes of memory and of the landing. -/
theorem witness_CopyForms_fill :
    (∃ u, IssuesCpyf (plain false) group 0x100000 0xABCD 256 0 u) ∧ ∃ u, IssuesCpyf (plain true) group 0x40 0 16 1 u := by
  refine ⟨⟨_, by decide, .inr ⟨by decide, by decide, ?_, 0x100000, _, side_mem _ _ rfl 256 _ _ [part1 0x100000 256] ?_ ?_,
    ?_, ?_, ?_, ?_, ?_, rfl⟩⟩, ⟨_, by decide, .inr ⟨by decide, by decide, ?_, 0x40, _,
    .inr ⟨by decide, rfl, team1, 0x40, run_scratchSide_land ?_ ?_, rfl⟩, ?_, ?_, ?_, ?_, ?_, rfl⟩⟩⟩
  all_goals first | (unfold CanReleaseAt; decide) | decide +kernel

/-- The same group with a lane copy slot in progress: leader lane 0, its pairs D = v4 at the tile, A = v8 the record, B = v12
the coordinates or the list. -/
def laneTiler (f : LaneF) (b : W32) : State :=
  { lanes (fun l => { l with v := vset (vset l.v 8 (vset (vget l.v 8) 0 0x1000)) 12 (vset (vget l.v 12) 0 b) }) (laneOf f) with
    mem := tiler.mem }

/-- The loads of the record and of the list. -/
def loaded (c : Copier) (s : State) (a : Word) (n al : Nat) : List Byte × State :=
  ((c.load a n al).run s).toOption.getD ([], s)

/-- What CPYT and CPYG check, as it evaluates: the record, its rows, the pages. -/
def tileB (c : Copier) (q : State) (rows : List TileRow) : Bool :=
  let rs := (rowPortions q Need.read (sortBy (·.va.toNat) (rows.filter fun r => r.n != 0))).toOption.getD []
  let ps := rs.flatMap (·.2)
  (rowPortions q Need.read (sortBy (·.va.toNat) (rows.filter fun r => r.n != 0))).isOk && ps.all (fun p => !keyFault q p.t) &&
    decide (myTeam q = some team1) && decide ((sideRanges [] ps).length ≤ 64) && c.xb.isNone &&
    canIssue q ⟨[], ps, sideRanges [] ps, [landRange team1 0 64 true], .copy [] false⟩ &&
    decide (porterLoad q (pickPorter q) < 32)

theorem tile_of (c : Copier) (q : State) (rows : List TileRow) (h : tileB c q rows = true) :
    ∃ u, IssuesTile q 0 layout rows false false u := by
  simp only [tileB, Bool.and_eq_true, decide_eq_true_eq] at h
  obtain ⟨⟨⟨⟨⟨⟨h1, h2⟩, h3⟩, h4⟩, h5⟩, h6⟩, h7⟩ := h
  refine ⟨_, by decide +kernel, by decide, team1, 0, _, run_scratchSide_land h3 (by decide +kernel), ok_get _ [] h1,
    fun p hp => by simpa using List.all_eq_true.mp h2 p hp, h4, h6, h7, rfl⟩

theorem witness_CopyForms_tile : ∀ s ∈ [tiler, laneOn (laneCopyRule 0x11 fun _ => true) (laneTiler (slot 0 4 8 12 0 0) 0)],
    ∃ u, IssuesCpyt (plain s.lane) s 0 0x1000 0 false false u := by
  intro s hs
  have h : ([tiler, laneOn (laneCopyRule 0x11 fun _ => true) (laneTiler (slot 0 4 8 12 0 0) 0)].all fun s =>
      let y := loaded (plain s.lane) s 0x1000 64 64
      decide (s.me.openOps.length < 64) && ((plain s.lane).load 0x1000 64 64 |>.run s).isOk && decide (leNat y.1 = layout) &&
        !layoutBad false 0 layout && tileB (plain s.lane) y.2 (tileRows layout 0)) = true := by decide +kernel
  have h := List.all_eq_true.mp h s hs
  simp only [Bool.and_eq_true, decide_eq_true_eq, Bool.not_eq_true'] at h
  obtain ⟨⟨⟨⟨h0, h1⟩, h2⟩, h3⟩, h4⟩ := h
  obtain ⟨u, hu⟩ := tile_of _ _ _ h4
  have hr : releasedAt (plain s.lane).scope (plain s.lane).order s = s := rfl
  have hc : CanReleaseAt (plain s.lane).scope (plain s.lane).order s := fun x => nomatch x
  have hl : ((plain s.lane).load 0x1000 64 64).run s = .ok (loaded (plain s.lane) s 0x1000 64 64) := ok_get _ _ h1
  refine ⟨spent u.me.id s.lane u, ?_⟩
  simp only [IssuesCpyt, hr]
  exact ⟨h0, hc, 0x1000, (loaded (plain s.lane) s 0x1000 64 64).1, (loaded (plain s.lane) s 0x1000 64 64).2, rfl, hl,
    h2 ▸ h3, u, h2.symm ▸ hu, rfl⟩

theorem witness_CopyForms_gather : ∀ s ∈ [tiler, laneOn (laneCopyRule 0x11 fun _ => true) (laneTiler (slot 0 4 8 12 0 0) 0x2000)],
    ∃ u, IssuesCpyg (plain s.lane) s 0 0x1000 0x2000 false false u := by
  intro s hs
  have h : ([tiler, laneOn (laneCopyRule 0x11 fun _ => true) (laneTiler (slot 0 4 8 12 0 0) 0x2000)].all fun s =>
      let y := loaded (plain s.lane) s 0x1000 64 64
      let z := loaded (plain s.lane) y.2 0x2000 (4 * 2) 4
      decide (s.me.openOps.length < 64) && ((plain s.lane).load 0x1000 64 64 |>.run s).isOk && decide (leNat y.1 = layout) &&
        !layoutBad true 0 layout && ((plain s.lane).load 0x2000 (4 * 2) 4 |>.run y.2).isOk && decide (wordsOf 4 2 z.1 = [3, 1]) &&
        tileB (plain s.lane) z.2 (gatherRows layout [3, 1])) = true := by decide +kernel
  have h := List.all_eq_true.mp h s hs
  simp only [Bool.and_eq_true, decide_eq_true_eq, Bool.not_eq_true'] at h
  obtain ⟨⟨⟨⟨⟨⟨h0, h1⟩, h2⟩, h3⟩, h4⟩, h5⟩, h6⟩ := h
  obtain ⟨u, hu⟩ := tile_of _ _ _ h6
  have hr : releasedAt (plain s.lane).scope (plain s.lane).order s = s := rfl
  have hc : CanReleaseAt (plain s.lane).scope (plain s.lane).order s := fun x => nomatch x
  have hl : ((plain s.lane).load 0x1000 64 64).run s = .ok (loaded (plain s.lane) s 0x1000 64 64) := ok_get _ _ h1
  have hm : ((plain s.lane).load 0x2000 (4 * 2) 4).run (loaded (plain s.lane) s 0x1000 64 64).2 =
      .ok (loaded (plain s.lane) (loaded (plain s.lane) s 0x1000 64 64).2 0x2000 (4 * 2) 4) := ok_get _ _ h4
  have hb : layBox layout 1 = 2 := by decide +kernel
  have hd : ∀ t ∈ [3, 1], t < layDim layout 1 := by decide +kernel
  refine ⟨spent u.me.id s.lane u, ?_⟩
  simp only [IssuesCpyg, hr]
  refine ⟨h0, hc, 0x1000, 0x2000, (loaded (plain s.lane) s 0x1000 64 64).1,
    (loaded (plain s.lane) (loaded (plain s.lane) s 0x1000 64 64).2 0x2000 (4 * 2) 4).1, (loaded (plain s.lane) s 0x1000 64 64).2,
    (loaded (plain s.lane) (loaded (plain s.lane) s 0x1000 64 64).2 0x2000 (4 * 2) 4).2, rfl, hl, h2 ▸ h3, ?_⟩
  rw [h2, hb]
  refine ⟨rfl, hm, ?_, ?_⟩
  · rw [h5]; exact hd
  · rw [h5]; exact ⟨u, hu, rfl⟩

/-- In the lanes: a leader, with the operands read; and none where active(M) is empty. -/
theorem witness_CopyForms_lanes :
    let s := laneTiler (slot 0 4 8 12 0 0) 0x2000
    let e := laneTiler { slot 0 4 8 12 0 0 with m := 1 } 0
    let rule := laneCopyRule 0x11 fun _ => true
    LaneReady rule s ∧ lowestLane (laneIn rule s).act = some 0 ∧ (laneIn rule s).a 0 = 0x1000 ∧
      (laneIn rule s).b 0 = 0x2000 ∧ LaneReady rule e ∧ lowestLane (laneIn rule e).act = none :=
  ⟨ready_of _ _ (by decide +kernel), by decide +kernel, by decide +kernel, by decide +kernel, ready_of _ _ (by decide +kernel),
    by decide +kernel⟩

/-! ## Batches and porters -/

/-- A core with a sealed batch of one operation, complete or not, perhaps marked. -/
def batcher (busy : Bool) (mark : Option Word) : State :=
  { me (fun r => { r with sealed := 1, batches := [⟨1, [9], mark⟩] }) (sets 1 1 core) with
    ops := if busy then [⟨9, .host 0, 0, 0, 0, 0, some 24, 0, 3, true, none, .copy [] false⟩] else [] }

theorem witness_BatchesAndPorters_batches :
    core.me.tx.active = false ∧ core.me.sealed < 2 ^ 32 - 1 ∧ unfinished core < 16 ∧
      (me (fun r => { r with sealed := 0xFFFFFFFF }) core).me.sealed = 2 ^ 32 - 1 ∧
      core.me.sealed < ((sets 1 1 core).me.sreg 1).toNat := by
  refine ⟨rfl, ?_, by decide, ?_, by decide⟩
  · show (0 : Nat) < 2 ^ 32 - 1
    norm_num
  · show (0xFFFFFFFF : Nat) = 2 ^ 32 - 1
    norm_num

theorem witness_BatchesAndPorters_waits : ∀ marked : Bool,
    let mark : Option Word := if marked then some 0x40 else none
    let s := batcher false mark
    (s.me.sreg 1).toNat ≤ s.me.sealed ∧ (∀ b ∈ s.me.batches, (s.me.sreg 1).toNat < b.no ∨ batchDone s b = true) ∧
      unfinished s ≤ (s.me.sreg 1).toNat ∧
      (s.me.batches.find? fun b => decide (b.no ≤ (s.me.sreg 1).toNat) && b.mark.isSome).bind (·.mark) = mark ∧
      (s.me.batches.find? fun b => batchDone s b && b.mark.isSome).bind (·.mark) = mark := by
  decide +kernel

theorem witness_BatchesAndPorters_porters :
    let q : EngOp := ⟨9, .host 0, 0, 0, 0, 0, some 24, 0, 3, false, none, .copy [] false⟩
    let s : State := { core with ops := [q] }
    nextStart s 24 = some q ∧ nextStart core 24 = none ∧
      (∀ raw, ∃ o, ({ core with ops := [{ q with started := true, kind := .copy [] raw }] } : State).ops.find?
        (fun x => x.no == 9 && x.started) = some o ∧ o.kind = .copy [] raw) ∧ (∀ raw, movesReady s q raw [] = true) ∧ (s.outb.any fun b => b.ask == .op q.no && b.wr) = false := by
  exact ⟨by decide +kernel, by decide +kernel, fun raw => ⟨_, rfl, rfl⟩, by decide +kernel, by decide +kernel⟩

/-! ## Hypotheses met: key pages -/

/-- The group with the page at 0x40000 unmarked, or marked in .bf16. -/
def keyed (marked : Bool) : State :=
  { sets 1 0x40000 (sets 2 0x100000 group) with pages := if marked then [⟨16, 0, 0, 1, openSummary, none⟩] else [] }

/-- The key page as KSUMM takes it. -/
def keyPortion : Portion := ⟨0x40000, page1 0x40000, 16384⟩

theorem at_usher {n : Nat} {p : Plan} {q : State} (h : q.ops = []) (hr : canIssue q p = true) : ∃ u, AtUsher n p q u :=
  ⟨_, hr, by simp [usherLoad, h], rfl⟩

theorem witness_SummaryForms_page : ∀ marked : Bool, CanUsher (keyed marked) ∧
    KeyPageAt (usherCopier false 0 (keyed marked)) (onward (keyed marked)) ((keyed marked).me.sreg 1) keyPortion := by
  intro m
  refine ⟨?_, 0x40000, ⟨0x40000, page1 0x40000, 1⟩, [], ?_, ?_, ?_, ?_, ?_⟩
  · cases m <;> (unfold CanUsher; decide +kernel)
  · exact run_operand rfl _ _ _
  all_goals cases m <;> decide +kernel

/-- An unmarked page has room at its slice; a build, the end of the mark and the copy of the summary can be queued. -/
theorem witness_SummaryForms_queue :
    markCount (onward (keyed false)) keyPortion.t.pa 0 < markLimit (onward (keyed false)) keyPortion.t.pa 0 ∧
      (∀ fmt, ∃ u, BuildQueued keyPortion fmt (markPage 16 ((onward (keyed false)).nextOp + 1) 0 fmt (onward (keyed false))) u) ∧
      (∃ k, page? (onward (keyed true)) 16 = some k ∧ ∃ u, BuildQueued keyPortion k.fmt (onward (keyed true)) u) ∧
      (∃ u, AtUsher (usherAt keyPortion.t.pa) ⟨[], [keyPortion], [], [], .off 16⟩ (onward (keyed true)) u) ∧
      let q := onward (keyed true)
      ∃ ds, UsherDst (usherCopier false 0 (keyed true)) q 0x100000 512 64 ds ∧
        ∃ u, AtUsher (usherAt keyPortion.t.pa) ⟨ds, [keyPortion], sideRanges ds [], [], .read 16 (memLocs q ds)⟩ q u := by
  refine ⟨?_, fun fmt => ?_, ?_, at_usher rfl (by decide +kernel), [⟨0x100000, page1 0x100000, 512⟩], ⟨?_, ?_, ?_⟩,
    at_usher rfl (by decide +kernel)⟩
  · show (0 : Nat) < markLimit _ _ _
    decide +kernel
  · obtain ⟨t, ht⟩ := at_usher (n := usherAt keyPortion.t.pa) (q := markPage 16 ((onward (keyed false)).nextOp + 1) 0 fmt (onward (keyed false)))
      (p := ⟨[], [keyPortion], [pageRange keyPortion.va keyPortion.t.pa], [],
        .build 16 fmt ((keyId (markPage 16 ((onward (keyed false)).nextOp + 1) 0 fmt (onward (keyed false))) keyPortion.t.key).getD 0)⟩) rfl rfl
    exact ⟨t, ht⟩
  · obtain ⟨t, ht⟩ := at_usher (n := usherAt keyPortion.t.pa) (q := onward (keyed true))
      (p := ⟨[], [keyPortion], [pageRange keyPortion.va keyPortion.t.pa], [],
        .build 16 1 ((keyId (onward (keyed true)) keyPortion.t.key).getD 0)⟩) rfl (by decide +kernel)
    exact ⟨⟨16, 0, 0, 1, openSummary, none⟩, rfl, t, ht⟩
  all_goals decide +kernel

/-- A selection record: one page in a list at 0x50000, the query at 0x60000, the list to write at 0x300000. -/
def selection : Nat := 0x300000 * 2 ^ 384 + 0x50000 * 2 ^ 320 + 0x60000 * 2 ^ 256 + 2 ^ 192 + 2 ^ 176

/-- The group with that record at 0x1000, the page marked. -/
def selector : State :=
  { sets 1 0x1000 (keyed true) with mem := cells 0x1000 64 selection ++ cells 0x50000 8 0x40000 }

theorem loaded_ok (c : Copier) (s : State) (a : Word) (n al : Nat) (h : ((c.load a n al).run s).isOk = true) :
    (c.load a n al).run s = .ok (loaded c s a n al) := ok_get _ _ h

/-- The second and third loads of KBOUND. -/
def selected (s : State) : (List Byte × State) × (List Byte × State) × (List Byte × State) :=
  let a := loaded (plain false) (onward s) 0x1000 64 64
  let b := loaded (plain false) a.2 0x60000 256 64
  (a, b, loaded (plain false) b.2 0x50000 8 8)

/-- What KBOUND checks, as it evaluates. -/
def boundB (s : State) : Bool :=
  let l := selected s
  let q := l.2.2.2
  ((plain false).load 0x1000 64 64 |>.run (onward s)).isOk && decide (leNat l.1.1 = selection) &&
    ((plain false).load 0x60000 256 64 |>.run l.1.2).isOk && ((plain false).load 0x50000 8 8 |>.run l.2.1.2).isOk &&
    decide ((wordsOf 8 1 l.2.2.1).map (BitVec.ofNat 64) = [0x40000]) &&
    decide ((plain false).portions q 0x40000 1 Need.read = .ok [⟨0x40000, page1 0x40000, 1⟩]) &&
    !keyFault q (page1 0x40000) && decide (page? q 16 = some ⟨16, 0, 0, 1, openSummary, none⟩) && q.pkg == 0 &&
    decide ((plain false).portions q 0x300000 80 Need.write = .ok [⟨0x300000, page1 0x300000, 80⟩]) &&
    !keyFault q (page1 0x300000) && q.ops.isEmpty &&
    canIssue q ⟨[⟨0x300000, page1 0x300000, 80⟩], [⟨0x40000, page1 0x40000, 1⟩],
      sideRanges [⟨0x300000, page1 0x300000, 80⟩] [] ++ [pageRange 0x40000 0x40000], [], .off 0⟩

theorem selection_fields : selectBad selection = false ∧ selQuery selection = 0x60000 ∧ selPages selection = 0x50000 ∧
    selCount selection = 1 ∧ selCap selection = 1 ∧ selList selection = 0x300000 ∧ bitN selection 2 = false := by
  decide +kernel

theorem witness_SelectionForms_bound : CanUsher selector ∧
    (let c := usherCopier false 0 selector
     let plain : Copier := { c with xb := none }
     ∃ ra bs qs vs pages ds q1 q2 q, (c.operand (selector.me.sreg 1) 64).run (onward selector) = .ok (ra, onward selector) ∧
       (c.load ra 64 64).run (onward selector) = .ok (bs, q1) ∧
       (let w := leNat bs
        let z := if bitN w 2 then 4 else 2
        selectBad w = false ∧ (plain.load (selQuery w) (128 * z) 64).run q1 = .ok (qs, q2) ∧
        (plain.load (selPages w) (8 * selCount w) 8).run q2 = .ok (vs, q) ∧
        (boundPages plain none ((wordsOf 8 (selCount w) vs).map (BitVec.ofNat 64))).run q = .ok (pages, q) ∧
        UsherDst plain q (selList w) (64 + 16 * selCap w) 1 ds ∧
        (∀ p ∈ ds, (poolOf p.t.pa).isMemory = true → packageOf p.t.pa = q.pkg.toNat) ∧
        (let query := (wordsOf z 128 qs).map fun y => BitVec.ofNat 32 (if z = 4 then y else y * 65536)
         ∃ u, AtUsher (listUsher ds) ⟨ds, pages.flatMap (·.2), sideRanges ds [] ++ pages.map (fun p => pageRange p.1 (blockOf p.2 * 16384)),
          [], .bound (leBytes 64 (listHeader w)) query (pages.map fun p => (p.1, blockOf p.2)) [] (memLocs q ds)⟩ q u))) := by
  refine ⟨by unfold CanUsher; decide +kernel, ?_⟩
  have h : boundB selector = true := by decide +kernel
  simp only [boundB, Bool.and_eq_true, decide_eq_true_eq, Bool.not_eq_true', beq_iff_eq, List.isEmpty_iff] at h
  obtain ⟨⟨⟨⟨⟨⟨⟨⟨⟨⟨⟨⟨h1, h2⟩, h3⟩, h4⟩, h5⟩, h6⟩, h7⟩, h8⟩, h9⟩, h10⟩, h11⟩, h12⟩, h13⟩ := h
  have hc : usherCopier false 0 selector = plain false := rfl
  have hr : selector.me.sreg 1 = 0x1000 := by decide
  obtain ⟨f1, f2, f3, f4, f5, f6, f7⟩ := selection_fields
  have l1 : ((plain false).load 0x1000 64 64).run (onward selector) = .ok (selected selector).1 := loaded_ok _ _ _ _ _ h1
  have l2 : ((plain false).load 0x60000 256 64).run (selected selector).1.2 = .ok (selected selector).2.1 := loaded_ok _ _ _ _ _ h3
  have l3 : ((plain false).load 0x50000 8 8).run (selected selector).2.1.2 = .ok (selected selector).2.2 := loaded_ok _ _ _ _ _ h4
  generalize hl : selected selector = l at *
  obtain ⟨⟨bs, q1⟩, ⟨qs, q2⟩, ⟨vs, q⟩⟩ := l
  simp only at h2 h5 h6 h7 h8 h9 h10 h11 h12 h13 l1 l2 l3
  have l4 : (boundPages (plain false) none [0x40000]).run q = .ok ([(0x40000, [⟨0x40000, page1 0x40000, 1⟩])], q) := by
    have := run_boundPage (c := plain false) (fmt := none) h6 (by simpa using h7) ⟨by decide, by decide +kernel⟩
      (fun _ => by rw [h9]; decide +kernel) (k := ⟨16, 0, 0, 1, openSummary, none⟩) h8 rfl
    simp only [boundPages, run_bind, this, run_pure]
  refine ⟨0x1000, bs, qs, vs, [(0x40000, [⟨0x40000, page1 0x40000, 1⟩])], [⟨0x300000, page1 0x300000, 80⟩], q1, q2, q,
    run_operand rfl _ _ _, l1, ?_⟩
  simp only [h2, f1, f2, f3, f4, f5, f6, f7, h5, hc]
  exact ⟨trivial, l2, l3, l4, ⟨h10, by simpa using h11, by decide⟩, fun p hp _ => by
    simp only [List.mem_singleton] at hp
    subst hp
    rw [h9]; decide +kernel, _, h13, by simp [usherLoad, h12], rfl⟩

/-- Two lists of one page each at 0x1000 and 0x2000, in a group of team16. -/
def lister (b d : Word) : State :=
  { sets 1 0x1000 (sets 2 b (sets 3 d group)) with
    teams := [{ team1 with len := 0x20000 }]
    mem := cells 0x1000 64 (2 ^ 32 + 2 ^ 16) ++ cells 0x1040 16 0x40000 ++ cells 0x2000 64 (2 ^ 32 + 2 ^ 16) }

/-- What KLIST checks, as it evaluates. -/
def listB (s : State) : Bool :=
  let a := loaded (plain false) (onward s) 0x1000 64 64
  let b := loaded (plain false) a.2 0x2000 64 64
  let q := b.2
  ((plain false).load 0x1000 64 64 |>.run (onward s)).isOk && ((plain false).load 0x2000 64 64 |>.run a.2).isOk &&
    decide (leNat a.1 = 2 ^ 32 + 2 ^ 16) && decide (leNat b.1 = 2 ^ 32 + 2 ^ 16) &&
    decide ((plain false).portions q 0x1000 80 Need.read = .ok [⟨0x1000, page1 0x1000, 80⟩]) &&
    decide ((plain false).portions q 0x2000 80 Need.read = .ok [⟨0x2000, page1 0x2000, 80⟩]) &&
    decide ((plain false).portions q 0x300000 80 Need.write = .ok [⟨0x300000, page1 0x300000, 80⟩]) &&
    !keyFault q (page1 0x1000) && !keyFault q (page1 0x2000) && !keyFault q (page1 0x300000) && q.ops.isEmpty && q.pkg == 0 &&
    canIssue q ⟨[⟨0x300000, page1 0x300000, 80⟩], [⟨0x1000, page1 0x1000, 80⟩, ⟨0x2000, page1 0x2000, 80⟩],
      sideRanges [⟨0x300000, page1 0x300000, 80⟩] [⟨0x1000, page1 0x1000, 80⟩] ++
      sideRanges [] [⟨0x2000, page1 0x2000, 80⟩], [], .off 0⟩

theorem witness_SelectionForms_list : CanUsher (lister 0x2000 0x300000) ∧
    (let s := lister 0x2000 0x300000
     let c := usherCopier false 0 s
     ∃ aa ba da ab bb as bs ds q1 q, (c.operand (s.me.sreg 1) 64).run (onward s) = .ok (aa, onward s) ∧
       (c.operand (s.me.sreg 2) 64).run (onward s) = .ok (ba, onward s) ∧
       (c.load aa 64 64).run (onward s) = .ok (ab, q1) ∧ (c.load ba 64 64).run q1 = .ok (bb, q) ∧
       (let ha := leNat ab
        let hb := leNat bb
        headBad ha = false ∧ headBad hb = false ∧ headMode ha = headMode hb ∧
        (headMode ha = 0 → bitsN ha 127 96 = bitsN hb 127 96) ∧
        (let n := 64 + 16 * headCap ha
         (c.operand (s.me.sreg 3) n).run q = .ok (da, q) ∧
         (c.operand (s.me.sreg 1) (64 + 16 * headHeld ha)).run q = .ok (aa, q) ∧
         (c.operand (s.me.sreg 2) (64 + 16 * headHeld hb)).run q = .ok (ba, q) ∧
         c.portions q aa (64 + 16 * headHeld ha) Need.read = .ok as ∧
         c.portions q ba (64 + 16 * headHeld hb) Need.read = .ok bs ∧ (∀ p ∈ as ++ bs, keyFault q p.t = false) ∧
         UsherDst c q da n 64 ds ∧ (∀ p ∈ ds, (poolOf p.t.pa).isMemory = true → packageOf p.t.pa = q.pkg.toNat) ∧
         (∀ p ∈ ds, ∀ y ∈ as ++ bs, meets p.t.pa p.n y.t.pa y.n = false) ∧
         ∃ u, AtUsher (listUsher ds) ⟨ds, as ++ bs, sideRanges ds as ++ sideRanges [] bs, [],
           .list (leBytes 64 ha) (leBytes 64 hb) (memLocs q as) (memLocs q bs) (memLocs q ds)⟩ q u))) := by
  refine ⟨by unfold CanUsher; decide +kernel, ?_⟩
  have h : listB (lister 0x2000 0x300000) = true := by decide +kernel
  simp only [listB, Bool.and_eq_true, decide_eq_true_eq, Bool.not_eq_true', List.isEmpty_iff, beq_iff_eq] at h
  obtain ⟨⟨⟨⟨⟨⟨⟨⟨⟨⟨⟨⟨h1, h2⟩, h3⟩, h4⟩, h5⟩, h6⟩, h7⟩, h8⟩, h9⟩, h10⟩, h11⟩, hp⟩, h12⟩ := h
  have hc : usherCopier false 0 (lister 0x2000 0x300000) = plain false := rfl
  have l1 := loaded_ok _ _ _ _ _ h1
  have l2 := loaded_ok _ _ _ _ _ h2
  generalize loaded (plain false) (onward (lister 0x2000 0x300000)) 0x1000 64 64 = a at *
  generalize loaded (plain false) a.2 0x2000 64 64 = b at *
  refine ⟨0x1000, 0x2000, 0x300000, a.1, b.1, [⟨0x1000, page1 0x1000, 80⟩], [⟨0x2000, page1 0x2000, 80⟩],
    [⟨0x300000, page1 0x300000, 80⟩], a.2, b.2, run_operand rfl _ _ _, run_operand rfl _ _ _, l1, l2, ?_⟩
  simp only [h3, h4, hc]
  refine ⟨by decide +kernel, by decide +kernel, trivial, fun _ => trivial, run_operand rfl _ _ _, run_operand rfl _ _ _,
    run_operand rfl _ _ _, h5, h6, ?_, ⟨h7, by simpa using h10, by decide⟩, fun p hq _ => by
      simp only [List.mem_singleton] at hq
      subst hq
      rw [hp]; decide +kernel,
    by decide +kernel, _, h12, by simp [usherLoad, h11], rfl⟩
  simpa using ⟨h8, h9⟩

/-- What KFETCH checks, as it evaluates: w in its register. -/
def fetchB (s : State) : Bool :=
  let a := loaded (plain false) (onward s) 0x1000 64 64
  let b := loaded (plain false) a.2 0x1040 16 16
  let q := b.2
  ((plain false).load 0x1000 64 64 |>.run (onward s)).isOk && ((plain false).load 0x1040 16 16 |>.run a.2).isOk &&
    decide (leNat a.1 = 2 ^ 32 + 2 ^ 16) && decide (leNat b.1 = 0x40000) &&
    decide ((readEntries 1 (b.1.map fun y => (y, false))).map (·.page) = [0x40000]) &&
    decide ((plain false).portions q 0x40000 16384 Need.read = .ok [⟨0x40000, page1 0x40000, 16384⟩]) &&
    !keyFault q (page1 0x40000) && decide (myTeam q = some { team1 with len := 0x20000 }) && q.ops.isEmpty &&
    canIssue q ⟨[], [⟨0x40000, page1 0x40000, 16384⟩], sideRanges [] [⟨0x40000, page1 0x40000, 16384⟩], [landRange { team1 with len := 0x20000 } 0 32768 true], .off 0⟩

theorem run_fetchPages (c : Copier) (q : State) (vals : Bool) (es : List ListEntry) (ps : List Portion)
    (he : es.map (·.page) = [0x40000]) (hp : c.portions q 0x40000 16384 Need.read = .ok ps) (hk : ∀ p ∈ ps, keyFault q p.t = false) :
    (fetchPages c vals 0 es).run q = .ok ([(0x40000, ps)], q) := by
  obtain ⟨e, rfl, hp0⟩ := List.map_eq_singleton_iff.mp he
  have he : e.page = 0x40000 := hp0
  have ha : (BitVec.ofNat 64 (0x40000 + if vals = true then 0 else 0) : Word) = 0x40000 := by cases vals <;> rfl
  have h0 : ((0x40000 : Word).toNat % 16384 == 0) = true := by decide
  simp only [fetchPages, run_bind, he, ha, h0, run_need_true, run_get, Laws.run_orTrap_ok hp, Laws.run_keyCause hk, run_pure]

/-- One page into the landing, as it stands and as fragments of a pair of pages. -/
theorem witness_KeyFetch : ∀ w ∈ [0x10000, 0x800010000], CanUsher (lister (BitVec.ofNat 64 w) 0) ∧ (lister (BitVec.ofNat 64 w) 0).me.isHost = false ∧
    (let s := lister (BitVec.ofNat 64 w) 0
     let c := usherCopier false 0 s
     let plain : Copier := { c with xb := none }
     let w := s.me.sreg 2
     let first := slice w 15 0
     let cnt := slice w 31 16
     slice w 63 37 = 0 ∧ slice w 33 32 < 2 ∧ cnt ≠ 0 ∧ cnt ≤ 256 ∧
     ∃ la ea hs es pages q1 q t o, (c.operand (s.me.sreg 1) 64).run (onward s) = .ok (la, onward s) ∧
       (c.load la 64 64).run (onward s) = .ok (hs, q1) ∧ headBad (leNat hs) = false ∧ first + cnt ≤ headHeld (leNat hs) ∧
       (c.operand (s.me.sreg 1 + BitVec.ofNat 64 (64 + 16 * first)) (16 * cnt)).run q1 = .ok (ea, q1) ∧
       (c.load ea (16 * cnt) 16).run q1 = .ok (es, q) ∧
       (let vals := w.getLsbD 32
        let e8 := w.getLsbD 36
        let frag := w.getLsbD 35
        (fetchPages plain vals (bitsN (leNat hs) 511 448) (readEntries cnt (es.map fun y => (y, false)))).run q = .ok (pages, q) ∧
        (let span := 16384 * (cnt + if frag && !e8 && !vals && cnt % 2 == 1 then 1 else 0)
         (s.me.sreg 3).toNat % 256 = 0 ∧
         (scratchSide (if w.getLsbD 34 then 2 else 1) (s.me.sreg 3) span).run q = .ok ((t, o), q) ∧
         (let p : Plan := ⟨[], pages.flatMap (·.2), pages.flatMap (fun y => sideRanges [] y.2), [landRange t o span true],
            .fetch e8 frag vals cnt (pages.flatMap fun y => memLocs q y.2) [] (.land t.uid o t.modes)⟩
          canIssue q p = true ∧ porterLoad q (pickPorter q) < 32)))) := by
  intro w hw
  have hB : ∀ w ∈ [0x10000, 0x800010000], fetchB (lister (BitVec.ofNat 64 w) 0) = true := by decide +kernel
  have h := hB w hw
  refine ⟨?_, ?_, ?_⟩
  · revert w; unfold CanUsher; decide +kernel
  · rfl
  have hs : (lister (BitVec.ofNat 64 w) 0).me.sreg 2 = BitVec.ofNat 64 w := rfl
  have f : slice (BitVec.ofNat 64 w) 63 37 = 0 ∧ slice (BitVec.ofNat 64 w) 33 32 < 2 ∧ slice (BitVec.ofNat 64 w) 15 0 = 0 ∧
      slice (BitVec.ofNat 64 w) 31 16 = 1 ∧ (BitVec.ofNat 64 w).getLsbD 34 = false := by revert w; decide +kernel
  simp only [fetchB, Bool.and_eq_true, decide_eq_true_eq, Bool.not_eq_true', List.isEmpty_iff] at h
  obtain ⟨⟨⟨⟨⟨⟨⟨⟨⟨h1, h2⟩, h3⟩, h4⟩, h5⟩, h6⟩, h7⟩, h8⟩, h9⟩, h10⟩ := h
  have l1 := loaded_ok _ _ _ _ _ h1
  have l2 := loaded_ok _ _ _ _ _ h2
  have hc : usherCopier false 0 (lister (BitVec.ofNat 64 w) 0) = plain false := rfl
  have hd : (lister (BitVec.ofNat 64 w) 0).me.sreg 3 = 0 := rfl
  have hr : (lister (BitVec.ofNat 64 w) 0).me.sreg 1 = 0x1000 := rfl
  generalize lister (BitVec.ofNat 64 w) 0 = s at *
  generalize loaded (plain false) (onward s) 0x1000 64 64 = a at *
  generalize loaded (plain false) a.2 0x1040 16 16 = b at *
  obtain ⟨f1, f2, f3, f4, f5⟩ := f
  simp only [hs, hc, hd, hr, f1, f2, f3, f4, f5]
  refine ⟨trivial, trivial, by decide, by decide, 0x1000, 0x1040, a.1, b.1, [(0x40000, [⟨0x40000, page1 0x40000, 16384⟩])], a.2, b.2,
    { team1 with len := 0x20000 }, 0, ?_, l1, ?_, ?_, ?_, l2, ?_, by decide, run_scratchSide_land h8 ?_, ?_, ?_⟩
  · exact run_operand (c := plain false) rfl _ _ _
  · rw [h3]; decide +kernel
  · rw [h3]; decide +kernel
  · exact run_operand (c := plain false) rfl _ _ _
  · rw [h3, show bitsN (2 ^ 32 + 2 ^ 16) 511 448 = 0 by decide +kernel]
    exact run_fetchPages _ _ _ _ _ h5 h6 (by simpa using h7)
  · split <;> decide
  · exact h10
  · simp [porterLoad, h9]

/-! ## Hypotheses met: the work of an usher -/

/-- An operation of usher 416 on block 16. -/
def usherOp (kind : EKind) : EngOp := ⟨9, .host 0, 0, 0, 0, 0, none, 416, 3, false, none, kind⟩

theorem witness_UsherWork : ∀ kind ∈ [EKind.build 16 1 0, .bound [] [] [(0x40000, 16)] [] [], .bound [] [] [(0x40000, 16)] [(0, 0)] [],
      .list [] [] [] [] []],
    let o := usherOp kind
    let s : State := { core with ops := [o] }
    s.ops.find? (fun x => x.no == 9) = some o ∧ o.kind = kind ∧ usherFirst s o = true ∧ placesReady s o [] = true ∧ gathering s 16 = false ∧ (s.outb.any fun b => b.ask == .op 9 && b.wr) = false ∧ sourcesReady s o [] = true := by
  decide +kernel

/-! ## Hypotheses met: matrix operations -/

/-- A team with every tile and 128 KiB of landing. -/
def team16 : Team := { team1 with len := 0x20000, tiles := 16 }

/-- Its group, with x in s1 and y in s2. -/
def tiles (x y : Word) : State := { sets 1 x (sets 2 y group) with teams := [team16] }

/-- An operation is queued: its tiles are the team's, at their versions or behind, none taken, and there is room. -/
def matrixB (q : State) (t : Team) (l : List Nat) (ver : Nat) : Bool :=
  l.all (fun k => decide (k < t.tiles) && decide (vget t.vers k ≤ ver)) && ver != 0xFFFF && !versionTaken q t l ver &&
    decide ((q.mops.filter fun m => m.core == t.core).length < 16)

/-- n operations in the queue of core 0, on tile 0 at version 0. -/
def queueOf (n : Nat) (s : State) : State :=
  { s with mops := List.replicate n ⟨0, 7, .group 0, .accz, 0, [0], 0, none, false, false, []⟩ }

/-- Tile 15 in a full queue, version 0 of tile 0 taken, and a version past. -/
theorem witness_MatrixForms_queue :
    let t : Team := { team16 with vers := vset team16.vers 15 3 }
    let q := queueOf 16 (onward (tiles 0 0))
    15 < t.tiles ∧ versionTaken q t [15] 3 = false ∧ vget t.vers 15 ≤ 3 ∧ 16 ≤ (q.mops.filter fun m => m.core == t.core).length ∧
      versionTaken q t [0] 0 = true ∧ 2 < vget t.vers 15 ∧ ((queueOf 15 q).mops.filter fun m => m.core == t.core).length < 16 := by
  decide +kernel

theorem witness_MatrixLead_basics :
    let s := tiles 0 0
    s.me.isHost = false ∧ s.me.tx.active = false ∧ myTeam s = some team16 ∧
      matrixB (onward s) team16 [15] 0 = true ∧ matrixB (onward s) team16 [0] 0xFFFE = true := by
  decide +kernel

/-- Tiles of 32-bit slots at the last place of the landing that holds one, and of 16-bit slots at its start. -/
theorem witness_MatrixLead_spans : ∀ p ∈ ([(0x10000, 0x0000020000000000, 0), (0, 0x0000010000000000, 1)] : List (Nat × Nat × Nat)),
    let s := tiles (BitVec.ofNat 64 p.1) (BitVec.ofNat 64 p.2.1)
    let v := s.me.sreg 2
    let pitch := slice v 47 32
    let z := BitVec.ofNat 4 p.2.2
    let o := (s.me.sreg 1).toNat
    slice v 63 48 = 0 ∧ slice v 31 16 = 0 ∧ pitch % 8 = 0 ∧ 128 * slotBytes z ≤ pitch ∧ o + tileSpan pitch z ≤ team16.len ∧
      o % 8 = 0 ∧ ∀ write, landHit (onward s) team16.uid o (tileSpan pitch z) write = false := by
  decide +kernel

/-- Every tile named by a mask; versions read, waited for and set. -/
theorem witness_MatrixLead_versions :
    let s := tiles 0xFFFF 0
    let m := s.me.sreg 1
    let l := (List.range 16).filter fun k => m.getLsbD k
    l ≠ [] ∧ slice m 63 32 = 0 ∧ matrixB (onward s) team16 l (slice m 31 16) = true ∧
      (15#4).toNat < team16.tiles ∧ slice m 63 16 = 0 ∧ vget team16.vers 15 < m.toNat ∧
      ((tiles 0 0).me.sreg 1).toNat ≤ vget team16.vers 15 ∧
      (onward s).mops.any (fun m => m.team == team16.uid && m.tiles.contains 15) = false ∧
      (queueOf 1 (onward s)).mops.any (fun m => m.team == team16.uid && m.tiles.contains 0) = true ∧
      slice ((tiles 0x10000 0).me.sreg 1) 63 16 ≠ 0 ∧ team1.tiles ≤ (15#4).toNat := by
  decide +kernel

/-- A stream to the ports, of 1024 elements of 64 bytes. -/
def portD : Vector Word 8 := #v[0, 0x1000, 1024, 0x40, 0, 0, 0, 0]

/-- Streams 5 and 6 at the ports of core 0, with n bytes each waiting there. -/
def ported (n : Nat) (x y : Word) : State :=
  { tiles x y with
    streams := [⟨0, 5, 3, .group 0, 1, 0, 0, false, portD, xb1, 1, some 1, none, true, false, false⟩, ⟨0, 6, 3, .group 0, 1, 0, 0, false, portD, xb1, 1, some 1, none, true, false, false⟩]
    subs := [⟨0, false, 0, 5, 64, 1, List.replicate n 0, 0⟩, ⟨0, true, 0, 6, 64, 1, List.replicate n 0, 0⟩] }

/-- An MLOOP of one step on the region of all 16 tiles, which takes all of stream 6, and one on binary64. -/
theorem witness_MatrixLead_loop : ∀ p ∈ ([0x10F000000, 0x100400000] : List Nat),
    let s := ported 0 0 (BitVec.ofNat 64 p)
    let q := onward s
    let w := s.me.sreg 1
    let v := s.me.sreg 2
    let kch := slice v 47 32
    let tile := slice v 31 28
    let nr := 1 + slice v 27 27
    let nc := 1 + slice v 26 24
    let f64 := v.getLsbD 22
    let l := (List.range (nr * nc)).map fun k => tile + 8 * (k / nc) + k % nc
    let sa := slabSize f64 (sideA w) (128 * nr) * kch
    let sb := slabSize f64 (sideB w) ((if f64 then 64 else 128) * nc) * kch
    slice v 21 0 = 0 ∧ kch ≠ 0 ∧ tile % 8 + nc ≤ 8 ∧ tile / 8 + nr ≤ 2 ∧ w = 0 ∧ formatBad w = false ∧
      (scaleCause q team16 (scaleSpans w (128 * nr) (128 * nc) (32 * kch))).isNone = true ∧
      (portGives q team16.core false sa && portGives q team16.core true sb) = true ∧
      (portGives (onward (tiles 0 0)) team16.core false sa && portGives (onward (tiles 0 0)) team16.core true sb) = false ∧
      (f64 = true → w = 0) ∧ matrixB q team16 l (slice v 63 48) = true := by
  decide +kernel

/-- A lane slot in that team, with 256 registers. -/
def tileLane (f : LaneF) : State := { lanes (fun l => { l with count := 256 }) (laneOf f) with teams := [team16] }

theorem witness_MatrixLanes_mma : ∀ ty ∈ [0, 0xD],
    let s := tileLane (slot (BitVec.ofNat 4 ty) 0 0 64 0 0)
    let c := laneIn mmaRule s
    let q := laneOn mmaRule s
    let f64 := c.f.ty == 0xD
    let w := if f64 then 0 else runMfb q
    let na := if f64 then 64 else rowSize (sideA w).fmt
    let nb := if f64 then 32 else rowSize (sideB w).fmt
    readyB mmaRule s = true ∧ q.grids.any (fun g => g.handle == q.me.grid && g.prot) = false ∧ c.m0 = q.me.l.live ∧
      myTeam q = some team16 ∧ f64 = (ty == 0xD) ∧ formatBad w = false ∧
      (scaleCause q team16 (scaleSpans w 128 128 32)).isNone = true ∧
      c.f.a.toNat + na ≤ q.me.l.count ∧ c.f.b.toNat + nb ≤ q.me.l.count ∧ q.me.l.count ≤ 256 ∧
      interlocked q [(c.f.a.toNat, na), (c.f.b.toNat, nb)] = false ∧ snapshotUse q team16.core + 128 * (na + nb) ≤ 49152 ∧ c.version ≠ 0xFFFF ∧
      49152 < snapshotUse { q with mops := [⟨0, 7, .group 0, .mma false 0 true 0 (List.replicate 49152 0) [], 1, [1], 0, none, false, false, []⟩] }
        team16.core + 128 * (na + nb) ∧
      matrixB q team16 [c.f.d.toNat] (c.version) = true := by
  decide +kernel

theorem witness_MatrixLanes_rows :
    (let s := tileLane (slot 0 8 15 0 0 0x0000007F)
     let c := laneIn (accRowRule true) s
     let q := laneOn (accRowRule true) s
     readyB (accRowRule true) s = true ∧ q.grids.any (fun g => g.handle == q.me.grid && g.prot) = false ∧
       myTeam q = some team16 ∧ matrixB q team16 [c.f.a.toNat] (c.version) = true) ∧
    (let s := tileLane (slot 0 15 8 0 0 0x0000007F)
     let c := laneIn (accRowRule false) s
     let q := laneOn (accRowRule false) s
     readyB (accRowRule false) s = true ∧ q.grids.any (fun g => g.handle == q.me.grid && g.prot) = false ∧
       myTeam q = some team16 ∧ matrixB q team16 [c.f.d.toNat] (c.version) = true) ∧
    let s : State := { tileLane (slot 0 0 0 64 0 0) with grids := [{ newGrid group 0 (recShape 0) (Tr.physical 0) [] with handle := 0x100, prot := true }] }
    readyB mmaRule s = true ∧ (laneOn mmaRule s).grids.any (fun g => g.handle == (laneOn mmaRule s).me.grid && g.prot) = true := by
  decide +kernel

/-- Stream 5 with one subscription of two; the stream's numbers of subscribers agree or are not yet set. -/
theorem witness_MatrixWork_subscribe : ∀ nsub ∈ [none, some 2],
    let x : Stream := ⟨0, 5, 3, .group 0, 1, 0, 0, false, portD, xb1, 0, nsub, none, false, false, false⟩
    let s : State := { tiles 0 0 with streams := [x], subs := [⟨1, false, 0, 5, 64, 0, [], 0⟩] }
    let mine := s.subs.filter fun b => b.gal == myGallery s && b.os == 5
    s.streams.find? (fun x => x.gal == myGallery s && x.os == 5) = some x ∧ streamToPorts x.desc = true ∧ x.squad = mySquad s ∧
      portSub s s.me.core true = none ∧ (∀ b ∈ mine, b.core ≠ s.me.core) ∧ (x.nsub = none ∨ x.nsub = some ((1#3).toNat + 1)) ∧
      mine.length < (1#3).toNat + 1 ∧ x.full = false ∧
      distributorNeed s (myGallery s) (s.subs ++ [⟨s.me.core, true, myGallery s, 5, 64, 0, [], 0⟩]) ≤ 262144 := by
  decide +kernel

/-- An operation on tiles 0 and 1. -/
def mop (kind : MKind) (running : Bool) (ver : Nat) : MOp := ⟨0, 7, .group 0, kind, 0, [0, 1], ver, none, running, false, []⟩

theorem witness_MatrixWork_operations :
    let s (m : MOp) : State := { tiles 0 0 with mops := [m] }
    (∀ m ∈ [mop .accz false 0, mop .accz false 1, mop .accz true 0], (coreOps (s m) 0)[0]? = some m) ∧
      mayStart (s (mop .accz false 0)) 0 0 (mop .accz false 0) = true ∧
      mayStart (s (mop .accz false 1)) 0 0 (mop .accz false 1) = false ∧ (mop .accz true 0).kind.finished = true ∧
      team? (s (mop .accz true 0)) 7 = some team16 ∧ team16.groups ≠ 0 ∧ (∀ x ∈ (s (mop .accz true 0)).teams, x.uid = 7 → x = team16) ∧
      [0, 1].Nodup ∧ (MKind.mma false 0 false 0 [] []).isCompute = true := by
  decide +kernel

theorem witness_MatrixWork_loop :
    let m := mop (.mloop false 0 true 0 1 1 1 0 [] []) true 0
    (∀ n ∈ [0, 8192], let s : State := { ported n 0 0 with mops := [m] }
      (coreOps s 0).findIdx? (fun m => m.running && m.kind.isLoop && !m.stopped s) = some 0 ∧ (coreOps s 0)[0]? = some m ∧
      ((takeBytes 0 false (m.kind.slab false) s).1.length = m.kind.slab false ↔ n = 8192) ∧
      ((takeBytes 0 true (m.kind.slab true) s).1.length = m.kind.slab true ↔ n = 8192)) := by
  decide +kernel

theorem witness_MatrixWork_distributor :
    let x : Stream := ⟨0, 5, 3, .group 0, 1, 0, 0, false, portD, xb1, 1, some 1, none, true, false, false⟩
    let s := ported 0 0 0
    s.streams.find? (fun x => x.gal == 0 && x.os == 5 && streamToPorts x.desc) = some x ∧ mayOffer s x = true ∧
      halted s x.part = false ∧ ((readElement s x x.next).toOption.bind (·.1)).isSome = true ∧
      (readElement { s with tlb := [] } { x with xb := { xb1 with rd := false } } x.next).isOk = false := by
  decide +kernel

/-! ## Hypotheses met: lane control -/

/-- The runner in focus in a handler, or not. -/
def trapped (b : Bool) (s : State) : State := me (fun r => { r with status := if b then r.status ||| 0x40 else r.status }) s

/-- A group with one run queued and none started. -/
def idle (live fault : Mask) (trap : Bool) : State :=
  trapped trap (lanes (fun l => { l with
    live := live
    faultmask := fault
    run := { LaneRuns.empty with runs := [⟨0, Vector.replicate 8 Xb.zero, 0⟩] } }) group)

theorem witness_RunsAndClauses_run : ∀ s ∈ [idle 0 1 false, idle 1 0 true, idle 5 0 false, idle 0 2 true],
    ∃ r, s.me.l.run.runs = r :: [] ∧ s.me.l.run.running = false ∧ s.me.l.run.frags = [] := by
  intro s hs
  simp only [List.mem_cons, List.not_mem_nil, or_false] at hs
  rcases hs with rfl | rfl | rfl | rfl <;> exact ⟨_, rfl, rfl, rfl⟩

theorem witness_RunsAndClauses_mask :
    (let m (s : State) : Mask := if s.me.inTrap then s.me.l.faultmask else s.me.l.live
     m (idle 0 1 false) = 0 ∧ m (idle 1 0 true) = 0 ∧ m (idle 5 0 false) ≠ 0 ∧ m (idle 0 2 true) ≠ 0) := by
  decide

/-- A group whose fragment may start the clause of header h; memory is zeros. -/
def starts (h : Header) : State :=
  { laneOf LaneF.zero with issue := { group.issue with next := 0, hdr := h } }

theorem witness_RunsAndClauses_clause :
    let x : Frag := ⟨3, 0, .runnable, 0, true, 0⟩
    (∀ h, (starts h).me.l.run.frags.find? (fun x => x.age == (starts h).issue.next.toNat) = some x) ∧
      headerBad ⟨0, 0, false, 0, false, 0⟩ = true ∧ headerBad ⟨1, 0, true, 12, false, 0⟩ = true ∧
      headerBad ⟨1, 0, true, 3, true, 3⟩ = true ∧ headerBad ⟨15, 0, true, 11, true, 3⟩ = false ∧
      clauseStop (starts ⟨15, 0, true, 11, true, 3⟩) x.pc (fetchClause x.pc 15 (starts ⟨15, 0, true, 11, true, 3⟩)).1 = none := by
  refine ⟨fun h => rfl, by decide, by decide, by decide, by decide, ?_⟩
  rw [← Option.isNone_iff_eq_none]
  decide +kernel

/-- Lanes 0 and 1 with m1 = 0 and m2 = 1. -/
def masks (f : LaneF) : State := lanes (fun l => { l with m := vset (vset l.m 1 0) 2 1 }) (laneOf f)

/-- BRL with no lane taken, with all and with one of two. -/
theorem witness_Divergence_branch : ∀ p ∈ ([(slot 0 0 1 0 0 5, 0, false), (slot 0 0 1 0 0 0x80000005, 3, false),
      (slot 0 0 2 0 0 5, 1, true)] : List (LaneF × Mask × Bool)),
    let rule (f : LaneF) : LRule :=
      { flowRule with m := true, acc := true, a := .other, x := 0x803F, i16 := 0xFFFF, also := maskField f.a }
    let s := masks p.1
    let c := laneIn rule s
    let q := laneOn rule s
    let m := if c.f.a = 0 then c.m0 else vget q.me.l.m c.f.a.toNat
    let taken := c.act &&& if c.f.imm.getLsbD 31 then ~~~m else m
    readyB rule s = true ∧ taken = p.2.1 ∧ (p.2.2 = true → taken ≠ 0 ∧ taken ≠ c.m0) ∧ (p.2.1 = 3 → taken = c.m0) ∧
      q.me.inTrap = false := by
  decide +kernel

/-- The target of a branch holds a clause header, or a slot that is none. -/
theorem witness_Divergence_target : ∀ header : Bool,
    let s : State := { masks (slot 0 0 2 0 0 5) with mem := if header then cells 60 12 0xF00200400000000000000000 else [] }
    readyB (fun f => { flowRule with m := true, acc := true, a := .other, x := 0x803F, i16 := 0xFFFF, also := maskField f.a }) s
      = true ∧ ((laneSlot 5).run s).toOption.map (fun p => bits p.1 92 4 == 15) = some header := by
  decide +kernel

/-- The same group with n entries on its split stack, the youngest expecting its lanes or not. -/
def stacked (n : Nat) (e : Mask) (f : LaneF) : State :=
  lanes (fun l => { l with run := { l.run with split := List.replicate n ⟨e, 0, 9, 0⟩ } }) (laneOf f)

theorem witness_Divergence_stack :
    let rule (_ : LaneF) : LRule := { flowRule with x := 0x3F, i16 := 0xFFFF }
    (∀ n ∈ [63, 64], readyB rule (stacked n 3 (slot 0 0 0 0 0 5)) = true ∧
      (laneOn rule (stacked n 3 (slot 0 0 0 0 0 5))).me.l.run.split.length = n) ∧
    ∀ n ∈ [7, 8], readyB rule (trapped true (stacked n 3 (slot 0 0 0 0 0 5))) = true ∧
      (laneOn rule (trapped true (stacked n 3 (slot 0 0 0 0 0 5)))).me.l.run.split.length = n := by
  decide +kernel

theorem witness_Divergence_join :
    let rule (_ : LaneF) : LRule := flowRule
    let e (s : State) : Option Split :=
      (laneOn rule s).me.l.run.split.reverse.find? fun e => (laneIn rule s).m0 &&& ~~~e.expect == 0
    readyB rule (stacked 1 3 LaneF.zero) = true ∧ e (stacked 1 3 LaneF.zero) = some ⟨3, 0, 9, 0⟩ ∧
      readyB rule (stacked 1 1 LaneF.zero) = true ∧ e (stacked 1 1 LaneF.zero) = none := by
  decide +kernel

theorem witness_Divergence_end :
    let rule (_ : LaneF) : LRule := flowRule
    let q := laneOn rule (laneOf LaneF.zero)
    readyB rule (laneOf LaneF.zero) = true ∧ q.me.l.run.frags.length = 1 ∧ q.me.l.run.split = [] ∧ lanesAside q = false ∧
      (laneOn rule (stacked 1 3 LaneF.zero)).me.l.run.split ≠ [] := by
  decide +kernel

/-- A group whose other fragment stands at a barrier. -/
def beside (st : FragSt) (f : LaneF) : State :=
  lanes (fun l => { l with run := { l.run with frags := l.run.frags ++ [⟨4, 0, st, 1, true, 0⟩] } }) (laneOf f)

/-- A fragment that arrives alone, beside one at the same barrier, and beside one at another. -/
theorem witness_Barriers : ∀ p ∈ ([
      (fun _ => { flowRule with x := 0xF000 }, slot 0 0 0 0 0 0x30000000, .teamBar 3 false, .squadBar 3, fun f => .teamBar (f.imm.toNat / 2 ^ 28) false,
        fun f => atTeamBar (f.imm.toNat / 2 ^ 28)),
      (fun _ => { flowRule with x := 0xF800 }, slot 0 0 0 0 0 0x30000000, .teamBar 3 true, .teamBar 2 true, fun f => .teamBar (f.imm.toNat / 2 ^ 28) true,
        fun f => atTeamBar (f.imm.toNat / 2 ^ 28)),
      (fun _ => { flowRule with x := 0xC000 }, slot 0 0 0 0 0 0xC0000000, .squadBar 3, .squadBar 2, fun f => .squadBar (f.imm.toNat / 2 ^ 30),
        fun f => atSquadBar (f.imm.toNat / 2 ^ 30))] :
      List ((LaneF → LRule) × LaneF × FragSt × FragSt × (LaneF → FragSt) × (LaneF → FragSt → Bool))),
    let others (s : State) : Bool :=
      (laneOn p.1 s).me.l.run.frags.any fun y => y.st != .runnable && !p.2.2.2.2.2 (laneIn p.1 s).f y.st
    let u (s : State) : State := onLane (fun l => { l with run := l.run.park (laneIn p.1 s).age (p.2.2.2.2.1 (laneIn p.1 s).f) })
      (goesOn (laneIn p.1 s) (laneIn p.1 s).after (laneOn p.1 s))
    (∀ s ∈ [laneOf p.2.1, beside p.2.2.1 p.2.1], readyB p.1 s = true ∧ (laneOn p.1 s).me.inTrap = false ∧ others s = false ∧
      (ckDue (u s) (u s).me.team && ckBusy (u s) (u s).me.team) = false) ∧
    readyB p.1 (beside p.2.2.2.1 p.2.1) = true ∧ others (beside p.2.2.2.1 p.2.1) = true := by
  decide +kernel

/-- Both lanes hold 1 in v8, or none; in a handler or not. -/
theorem witness_LaneAssert :
    let s (x : W32) (trap : Bool) : State :=
      trapped trap (lanes (fun l => { l with v := vset l.v 8 (Vector.replicate 32 x) }) (laneOf (slot 0 0 8 12 0 0)))
    let bad (s : State) : List Nat := (lanesOf (laneIn laneAssertRule s).act).filter fun k => (laneIn laneAssertRule s).a k == 0
    readyB laneAssertRule (s 1 false) = true ∧ bad (s 1 false) = [] ∧
      (∀ trap, readyB laneAssertRule (s 0 trap) = true ∧ (bad (s 0 trap)).head? = some 0 ∧
        (laneOn laneAssertRule (s 0 trap)).me.inTrap = trap) ∧
      assertWaits (laneOn laneAssertRule (s 0 false)) = false := by
  decide +kernel

theorem witness_FloatSpecials : 0 < 1 := by decide

/-! ## Hypotheses met: lane accesses -/

/-- A group with xb1 in its run, a shadow bank of 64 bytes and 4 KiB of atrium. -/
def reacher (f : LaneF) : State :=
  { laneHolder f .free with teams := [{ team1 with exch := 64 }], ctxs := [{ ctx1 with atrlim := 0x1000 }] }

/-- CanReleaseAt and CanScAt, as they evaluate. -/
def canReleaseB (scope order : Nat) (s : State) : Bool :=
  !hasRelease order || ((decide (scope < 5) || !dieLocked s s.me.id s.me.die) && ticketsReadable s fun e => e.who == s.me.id)

@[inherit_doc canReleaseB] def canScB (scope order : Nat) (s : State) : Bool :=
  order != 4 || ((decide (scope < 5) || !dieLocked s s.me.id s.me.die) && ticketsReadable s fun e => e.who == s.me.id && e.sc)

theorem canRelease_of {scope order : Nat} {s : State} (h : canReleaseB scope order s = true) : CanReleaseAt scope order s := by
  intro ho
  simp only [canReleaseB, ho, Bool.not_true, Bool.false_or, Bool.and_eq_true, Bool.or_eq_true, decide_eq_true_eq,
    Bool.not_eq_true'] at h
  exact ⟨fun h5 => h.1.resolve_left (by omega), h.2⟩

theorem canSc_of {scope order : Nat} {s : State} (h : canScB scope order s = true) : CanScAt scope order s := by
  intro ho
  simp only [canScB, ho, bne_self_eq_false, Bool.false_or, Bool.and_eq_true, Bool.or_eq_true, decide_eq_true_eq,
    Bool.not_eq_true'] at h
  exact ⟨fun h5 => h.1.resolve_left (by omega), h.2⟩

/-- A load in every lane, as it evaluates. -/
def loadB (sp : Space) (rule : LaneF → LRule) (s : State) : Bool :=
  let c := laneIn rule s
  let q := laneOn rule s
  let z := accessSize c.f.t c.f.quad
  let l := spotChecks c q sp z Need.read
  let q1 := scAt c.f.scope c.f.order q
  readyB rule s && (laneErrors l).isEmpty && !inAttempt c q && canScB c.f.scope c.f.order q &&
    ((eachLane (fun k p => laneRead (laneAgent q1 0) k z p) (laneOks l)).run q1).isOk

theorem load_of (sp : Space) (rule : LaneF → LRule) (s : State) (h : loadB sp rule s = true) :
    LaneReady rule s ∧
      (let c := laneIn rule s
       let q := laneOn rule s
       let z := accessSize c.f.t c.f.quad
       let l := spotChecks c q sp z Need.read
       laneErrors l = [] ∧ ∃ t, LoadsFrom c q z (laneOks l) t) := by
  simp only [loadB, Bool.and_eq_true, List.isEmpty_iff, Bool.not_eq_true'] at h
  obtain ⟨⟨⟨⟨h1, h2⟩, h3⟩, h4⟩, h5⟩ := h
  refine ⟨ready_of _ _ h1, h2, ?_⟩
  simp only [LoadsFrom, h3, Bool.false_eq_true, if_false, true_imp_iff]
  exact ⟨_, canSc_of h4, _, _, ok_get _ (([], []), s) h5, rfl⟩

/-- A store in every lane, as it evaluates. -/
def storeB (sp : Space) (rule : LaneF → LRule) (s : State) : Bool :=
  let c := laneIn rule s
  let q := laneOn rule s
  let z := accessSize c.f.t c.f.quad
  let l := spotChecks c q sp z Need.write
  let q1 := releasedAt c.f.scope c.f.order q
  let r := (eachLane (fun k p => laneWrite (laneAgent q1 (if sp == .mem then storeNo c c.f.scope q1 else 0)) k
    (laneData q1.me.l c.f.d.toNat k z) p) (laneOks l)).run q1
  let v := (if sp == .mem then storeIssued c c.f.scope else pure ()).run (r.toOption.getD (([], []), s)).2
  readyB rule s && (laneErrors l).isEmpty && !inAttempt c q && canReleaseB c.f.scope c.f.order q && r.isOk && v.isOk &&
    canScB c.f.scope c.f.order (v.toOption.getD ((), s)).2

theorem store_of (sp : Space) (rule : LaneF → LRule) (s : State) (h : storeB sp rule s = true) :
    LaneReady rule s ∧
      (let c := laneIn rule s
       let q := laneOn rule s
       let z := accessSize c.f.t c.f.quad
       let l := spotChecks c q sp z Need.write
       laneErrors l = [] ∧ ∃ t, StoresTo c q z (sp == .mem) (laneOks l) t) := by
  simp only [storeB, Bool.and_eq_true, List.isEmpty_iff, Bool.not_eq_true'] at h
  obtain ⟨⟨⟨⟨⟨⟨h1, h2⟩, h3⟩, h4⟩, h5⟩, h6⟩, h7⟩ := h
  refine ⟨ready_of _ _ h1, h2, ?_⟩
  simp only [StoresTo, h3, Bool.not_false, Bool.and_true, Bool.false_eq_true, if_false, true_imp_iff]
  exact ⟨_, canRelease_of h4, _, _, _, ok_get _ (([], []), s) h5, ok_get _ ((), s) h6, canSc_of h7, rfl⟩

/-- Every load and store at the first byte of its space, with a literal offset; the exchange region is the last 64 bytes. -/
def loadSlots : List (Space × (LaneF → LRule) × BitVec 32) :=
  [(.mem, memRule tyMem 3 7 7 loadOrders, 0x20000000), (.land, scratchRule tyMem 3 0 2 loadOrders, 0),
   (.mezz, scratchRule tyMem 3 0 3 loadOrders, 0), (.atrium, scratchRule tyMem 3 3 7 loadOrders, 0x60000000),
   (.locker, scratchRule tyMem 3 0 0 [0], 0)]

@[inherit_doc loadSlots] def storeSlots : List (Space × (LaneF → LRule) × BitVec 32) :=
  [(.mem, memRule tyMem 3 7 7 storeOrders, 0x20000000), (.land, scratchRule tyMem 3 0 2 storeOrders, 0),
   (.mezz, scratchRule tyMem 3 0 3 storeOrders, 0), (.exch, scratchRule tyB 2 0 0 [0], 0xFC0),
   (.atrium, scratchRule tyMem 3 3 7 storeOrders, 0x60000000), (.locker, scratchRule tyMem 3 0 0 [0], 0)]

/-- The accesses issue there; four bytes below, every lane has a cause. -/
theorem witness_LaneLoads : (∀ p ∈ loadSlots, loadB p.1 p.2.1 (reacher (slot 0 4 0 0 2 p.2.2)) = true) ∧
    ∀ p ∈ loadSlots, readyB p.2.1 (reacher (slot 0 4 0 0 2 (p.2.2 + 0xFFFC))) = true ∧
      laneErrors (spotChecks (laneIn p.2.1 (reacher (slot 0 4 0 0 2 (p.2.2 + 0xFFFC))))
        (laneOn p.2.1 (reacher (slot 0 4 0 0 2 (p.2.2 + 0xFFFC)))) p.1 4 Need.read) ≠ [] := by
  decide +kernel

/-- Stores, relaxed and with order sc at system scope; four bytes outside, every lane has a cause. -/
theorem witness_LaneStores : (∀ p ∈ storeSlots, storeB p.1 p.2.1 (reacher (slot 0 4 0 0 2 p.2.2)) = true) ∧
    storeB .mem (memRule tyMem 3 7 7 storeOrders) (reacher (slot 0 4 0 0 2 0x3E000000)) = true ∧
    ∀ p ∈ storeSlots, readyB p.2.1 (reacher (slot 0 4 0 0 2 (p.2.2 / 0x10000 * 0x10000 + 0xFFFC))) = true ∧
      laneErrors (spotChecks (laneIn p.2.1 (reacher (slot 0 4 0 0 2 (p.2.2 / 0x10000 * 0x10000 + 0xFFFC))))
        (laneOn p.2.1 (reacher (slot 0 4 0 0 2 (p.2.2 / 0x10000 * 0x10000 + 0xFFFC)))) p.1 4 Need.write) ≠ [] := by
  decide +kernel

theorem witness_LaneStores_landing : team1.land.wf = true ∧ team1.len < 65536 * (0 / 65536 + 1) ∧
    65536 * (65535 / 65536 + 1) ≤ { team1 with len := 65536 }.len := by decide

/-- An index tile of one entry with offset 0 at landing offset 0, as IDXLD writes it for base 0x1000 and width 4. -/
def tiled (f : LaneF) : State :=
  let s := reacher f
  { s with teams := [{ team1 with exch := 64, land := [(1, 0x10), (8, 1), (10, 2)] }] }

/-- What VGATH and VSCAT check, as it evaluates. -/
def gatherB (write : Bool) (rule : LaneF → LRule) (s : State) : Bool :=
  let c := laneIn rule s
  let q := laneOn rule s
  let tile := (readTile q (sextN 32 (c.b 0))).toOption.getD ⟨0, 0, 0, []⟩
  let l := (lanesOf c.act).map fun k => (k, tileSpot q c.f tile k (c.a k % 2 ^ 32) 4 (if write then Need.write else Need.read))
  let q1 := scAt c.f.scope c.f.order q
  let r := (eachLane (fun k p => laneRead (laneAgent q1 0) k 4 p) (laneOks l)).run q1
  let w := (eachLane (fun k p => laneWrite (laneAgent q (storeNo c c.f.scope q)) k (laneData q.me.l c.f.d.toNat k 4) p) (laneOks l)).run q
  let v := (storeIssued c c.f.scope).run (w.toOption.getD (([], []), s)).2
  readyB rule s && decide (lowestLane c.act = some 0) && (readTile q (sextN 32 (c.b 0))).isOk && (laneErrors l).isEmpty &&
    !inAttempt c q &&
    (if write then !hasRelease c.f.order && w.isOk && v.isOk && canScB c.f.scope c.f.order (v.toOption.getD ((), s)).2
      else canScB c.f.scope c.f.order q && r.isOk)

theorem gather_of (rule : LaneF → LRule) (s : State) (h : gatherB false rule s = true) :
    LaneReady rule s ∧ lowestLane (laneIn rule s).act = some 0 ∧
      ∃ tile, readTile (laneOn rule s) (sextN 32 ((laneIn rule s).b 0)) = .ok tile ∧
      (let c := laneIn rule s
       let q := laneOn rule s
       let l := (lanesOf c.act).map fun k => (k, tileSpot q c.f tile k (c.a k % 2 ^ 32) 4 Need.read)
       laneErrors l = [] ∧ ∃ t, LoadsFrom c q 4 (laneOks l) t) := by
  simp only [gatherB, Bool.false_eq_true, if_false, Bool.and_eq_true, decide_eq_true_eq, List.isEmpty_iff,
    Bool.not_eq_true'] at h
  obtain ⟨⟨⟨⟨⟨h1, h2⟩, h3⟩, h4⟩, ha⟩, hc, h5⟩ := h
  refine ⟨ready_of _ _ h1, h2, ?_⟩
  cases hr : readTile (laneOn rule s) (sextN 32 ((laneIn rule s).b 0)) with
  | error e => simp [hr, Except.isOk, Except.toBool] at h3
  | ok tile =>
    simp only [hr, Except.toOption, Option.getD_some] at h4 h5
    refine ⟨tile, rfl, h4, ?_⟩
    simp only [LoadsFrom, ha, Bool.false_eq_true, if_false, true_imp_iff]
    have h6 := ok_get _ (([], []), s) h5
    exact ⟨_, canSc_of hc, _, _, h6, rfl⟩

theorem scatter_of (rule : LaneF → LRule) (s : State) (h : gatherB true rule s = true) :
    LaneReady rule s ∧ lowestLane (laneIn rule s).act = some 0 ∧
      ∃ tile, readTile (laneOn rule s) (sextN 32 ((laneIn rule s).b 0)) = .ok tile ∧
      (let c := laneIn rule s
       let q := laneOn rule s
       let l := (lanesOf c.act).map fun k => (k, tileSpot q c.f tile k (c.a k % 2 ^ 32) 4 Need.write)
       laneErrors l = [] ∧ ∃ t, StoresTo c q 4 true (laneOks l) t) := by
  simp only [gatherB, if_true, Bool.and_eq_true, decide_eq_true_eq, List.isEmpty_iff, Bool.not_eq_true'] at h
  obtain ⟨⟨⟨⟨⟨h1, h2⟩, h3⟩, h4⟩, h5⟩, ⟨⟨h6, h7⟩, h8⟩, h9⟩ := h
  refine ⟨ready_of _ _ h1, h2, ?_⟩
  cases hr : readTile (laneOn rule s) (sextN 32 ((laneIn rule s).b 0)) with
  | error e => simp [hr, Except.isOk, Except.toBool] at h3
  | ok tile =>
    simp only [hr, Except.toOption, Option.getD_some] at h4 h7 h8 h9
    refine ⟨tile, rfl, h4, ?_⟩
    simp only [StoresTo, h5, releasedAt, CanReleaseAt, h6, Bool.not_false, Bool.and_true, Bool.false_eq_true, if_false, if_true,
      false_imp_iff, imp_self, true_and]
    have i7 := ok_get _ (([], []), s) h7
    have i8 := ok_get _ ((), s) h8
    exact ⟨_, _, _, _, i7, i8, fun _ => canSc_of h9, rfl⟩

theorem witness_tiles : gatherB false (tileRule [0, 1]) (tiled (slot 0 4 0 12 0 0x20000000)) = true ∧
    gatherB true (tileRule [0, 2]) (tiled (slot 0 4 0 12 0 0x20000000)) = true := by
  decide +kernel

/-- What a lane atomic checks, as it evaluates. -/
def atomicB (ok : Nat → Bool) (f : Nat → Nat → Nat → Nat → Nat) (s : State) : Bool :=
  let c := laneIn (atomicRule ok) s
  let q := laneOn (atomicRule ok) s
  let n := tyBits c.f.t
  let z := n / 8
  let sp := atomicSpace c.f
  let l := (lanesOf c.act).map fun k => (k, spotCheck q c.f sp k (c.f.offset (sextN 32 (c.a k))) z Need.both)
  let r := (eachLane (fun k p => laneAtomic (laneAgent q 0) k z
    (fun o => f n o (c.b k % 2 ^ n) (leNat (laneData q.me.l c.f.d.toNat k z)) % 2 ^ n) p) (laneOks l)).run
      (releasedAt c.f.scope c.f.order q)
  let u := r.toOption.getD (([], []), s)
  let t := loadedLanes c (u.1.1.map fun x => (x.1, leBytes z x.2)) (spent q.me.id true u.2)
  readyB (atomicRule ok) s && (laneErrors l).isEmpty && !inAttempt c q && canReleaseB c.f.scope c.f.order q && r.isOk &&
    canScB c.f.scope c.f.order (if sp == .mem || sp == .atrium then markDirty t else t)

theorem atomic_of (ok : Nat → Bool) (f : Nat → Nat → Nat → Nat → Nat) (s : State) (h : atomicB ok f s = true) :
    LaneReady (atomicRule ok) s ∧
      (let c := laneIn (atomicRule ok) s
       let q := laneOn (atomicRule ok) s
       let n := tyBits c.f.t
       let z := n / 8
       let sp := atomicSpace c.f
       let l := (lanesOf c.act).map fun k => (k, spotCheck q c.f sp k (c.f.offset (sextN 32 (c.a k))) z Need.both)
       laneErrors l = [] ∧ inAttempt c q = false ∧ CanReleaseAt c.f.scope c.f.order q ∧
       ∃ r u, (eachLane (fun k p => laneAtomic (laneAgent q 0) k z
           (fun o => f n o (c.b k % 2 ^ n) (leNat (laneData q.me.l c.f.d.toNat k z)) % 2 ^ n) p) (laneOks l)).run
             (releasedAt c.f.scope c.f.order q) = .ok (r, u) ∧
         let t := loadedLanes c (r.1.map fun x => (x.1, leBytes z x.2)) (spent q.me.id true u)
         CanScAt c.f.scope c.f.order (if sp == .mem || sp == .atrium then markDirty t else t)) := by
  simp only [atomicB, Bool.and_eq_true, List.isEmpty_iff, Bool.not_eq_true'] at h
  obtain ⟨⟨⟨⟨⟨h1, h2⟩, h3⟩, h4⟩, h5⟩, h6⟩ := h
  exact ⟨ready_of _ _ h1, h2, h3, canRelease_of h4, _, _, ok_get _ (([], []), s) h5, canSc_of h6⟩

/-- An atomic at the first byte of memory, the landing, the mezzanine and the atrium, and in memory with order sc. -/
theorem witness_LaneAtomics : ∀ p ∈ [((0 : Nat), (0x20000000 : Nat)), (1, 0), (2, 0), (3, 0x60000000), (0, 0x3E000000)],
    let f (ty : BitVec 4) : LaneF := slot ty 4 10 12 (BitVec.ofNat 8 p.1) (BitVec.ofNat 32 p.2)
    atomicB tyInt32 (fun _ o b _ => o + b) (reacher (f 4)) = true ∧
      atomicB tyUnsigned32 (fun _ o b _ => if o ≤ b then o else b) (reacher (f 8)) = true ∧
      atomicB tyB (fun _ o b c => if o = c then b else o) (reacher (f 0)) = true ∧
      atomicB (fun t => t == 0xC || t == 0xD) (fun n o b _ => atomicFadd n o b) (reacher (f 12)) = true := by
  decide +kernel

theorem witness_LaneAtomics_stop :
    let s := reacher (slot 4 4 10 12 1 0xFFFC)
    let c := laneIn (atomicRule tyInt32) s
    let q := laneOn (atomicRule tyInt32) s
    readyB (atomicRule tyInt32) s = true ∧ laneErrors ((lanesOf c.act).map fun k =>
      (k, spotCheck q c.f (atomicSpace c.f) k (c.f.offset (sextN 32 (c.a k))) 4 Need.both)) ≠ [] := by
  decide +kernel

theorem witness_LaneAtomics_fence :
    let rule (f : LaneF) : LRule :=
      { noType := true, d := .none, m := false, x := 0x1F80, tx := false, also := decide (1 ≤ f.order) && decide (f.order ≤ 4) }
    ∀ i ∈ [(0x00800000 : Nat), 0x1E000000], let s := laneOf (slot 0 0 0 0 0 (BitVec.ofNat 32 i))
      readyB rule s = true ∧ canReleaseB (laneIn rule s).f.scope (laneIn rule s).f.order (laneOn rule s) = true := by
  decide +kernel

/-! ## Hypotheses met: sparse forms -/

/-- Lanes 0 and 1 with a list of two in v8 (x, 3), one of two in v12 and the lengths in v16. -/
def lists (x : W32) (f : LaneF) : State :=
  lanes (fun l =>
    let v := vset (vset l.v 8 (vset (vset (vget l.v 8) 0 x) 1 3)) 12 (vset (vget l.v 12) 1 3)
    { l with v := vset v 16 (vset (vget l.v 16) 0 0x202) }) (laneOf f)

theorem witness_SparseForms_lists :
    let rule (f : LaneF) : LRule :=
      { type := f.t == 4 || f.t == 8, d := .pair, a := .one, b := .one, c := .one, x := 0xFC00, also := !f.qc }
    let a (s : State) : List Int := (readLists (laneIn rule s) 0).1
    let b (s : State) : List Int := (readLists (laneIn rule s) 0).2.1
    let dup (s : State) : Bool := bitsN (laneIn rule s).f.imm.toNat 26 26 == 1
    let strict (s : State) : Bool := bitsN (laneIn rule s).f.imm.toNat 27 27 == 1
    (∀ s ∈ [lists 2 (slot 4 4 8 12 16 0x18000000), lists 3 (slot 4 4 8 12 16 0xC000000), lists 5 (slot 8 4 8 12 16 0)],
      readyB rule s = true ∧ lowestLane (laneIn rule s).act = some 0 ∧
        (strict s = false ∨ (orderBreak (dup s) (a s) = none ∧ orderBreak (dup s) (b s) = none))) ∧
    ∀ s ∈ [lists 3 (slot 4 4 8 12 16 0x8000000), lists 5 (slot 4 4 8 12 16 0xC000000)],
      readyB rule s = true ∧ lowestLane (laneIn rule s).act = some 0 ∧ strict s = true ∧ orderBreak (dup s) (a s) = some 1 := by
  decide +kernel

theorem witness_SparseForms_idxld :
    let s (x : Nat) : State := lanes (fun l => { l with v := vset l.v 12 (Vector.replicate 32 (BitVec.ofNat 32 x)) }) (reacher (slot 6 0 10 12 16 0x20000000))
    let bad (s : State) : List (Nat × Nat × Word) :=
      let c := laneIn idxldRule s
      idxldCauses (laneOn idxldRule s) c (sextN 32 (c.b 0) + c.f.off) (c.c 0 % 2 ^ 32) (lanesOf c.act).length
    (∀ x ∈ [0, 1], readyB idxldRule (s x) = true ∧ lowestLane (laneIn idxldRule (s x)).act = some 0 ∧
      inAttempt (laneIn idxldRule (s x)) (laneOn idxldRule (s x)) = false ∧
      hasRelease (laneIn idxldRule (s x)).f.order = false) ∧ bad (s 0) = [] ∧ bad (s 1) ≠ [] := by
  decide +kernel

/-! ## Hypotheses met: launches -/

/-- A record of two teams of one group of 16 registers, entry 0x1000, completion word 0x4000. -/
def record (table : Nat) : Nat :=
  0x1000 + table * 2 ^ 128 + 0x4000 * 2 ^ 256 + 2 * 2 ^ 576 + 2 ^ 640 + 16 * 2 ^ 648 + 2 ^ 664

/-- A group with its address in s1; the table at 0x3100 has one bucket, which holds the shape 0. -/
def launcher (table : Nat) : State :=
  { sets 1 0x3000 group with
    mem := cells 0x3000 128 (record table) ++ cells 0x3100 64 (2 ^ 128) ++ cells 0x3140 64 (0x1000 + 2 * 2 ^ 224) }

/-- The grid of that record. -/
def grid1 : Grid := newGrid group (record 0) (recShape (record 0)) (page1 0x4000) []

/-- The state once the record has been read. -/
def recordRead (s : State) : State := readDone (page1 0x3000) 128 (releaseState 7 (onward s))

/-- The shape, and the state that has read it. -/
def shapeRead (s : State) (w : Nat) : Shape × State :=
  if recDispatch w = 0 then (recShape w, recordRead s)
  else ((readTable (BitVec.ofNat 64 (recDispatch w))).run (recordRead s)).toOption.getD (recShape w, s)

/-- What LAUNCH checks, as it evaluates. -/
def launchB (s : State) : Bool :=
  let q0 := releaseState 7 (onward s)
  let w := leNat (leBytes 128 (dieSees (page1 0x3000) 128 q0))
  let q := recordRead s
  let q1 := (shapeRead s w).2
  let t2 := page1 (recDone w)
  s.me.ctx != 0 && outboundIdle (onward s) && canReleaseB 7 2 (onward s) && !q0.me.tx.active &&
    decide (s.me.sreg 1 = 0x3000) && decide (q0.me.sreg 1 = s.me.sreg 1) &&
    ((decide (probe q0 q0.me (s.me.sreg 1) 128 Need.read = .ok (page1 0x3000)) &&
        !spanHit q0 q0.me (s.me.sreg 1) (page1 0x3000) 128 false && (s.me.sreg 1).toNat % 128 == 0) &&
      ((!Need.read.rd || !poisoned q0 (page1 0x3000).pa 128) && (poolOf (page1 0x3000).pa).isMemory &&
        !answeredOutside q0 (page1 0x3000).pa)) && markReady q0 q0.me (page1 0x3000) false &&
    issuerDepth q != 10 && !launchBad q w &&
    (recDispatch w == 0 || ((readTable (BitVec.ofNat 64 (recDispatch w))).run q).isOk) &&
    !shapeBad (recSquad w) (shapeRead s w).1 &&
    decide (probe q1 q1.me (BitVec.ofNat 64 (recDone w)) 8 Need.write = .ok t2) && !rangeHit q q.me.part t2.pa 8 true &&
    decide ((List.range 4).map (recPred w) = [0, 0, 0, 0]) && decide (recProducer w = 0) && ((clearDone t2).run q1).isOk

theorem run_named (s : State) (a : Word) (n : Need) (t : Tr) (h : probe s s.me a 8 n = .ok t) :
    (namedWord a n).run s = .ok (t, s) := by
  simp [namedWord, h]

theorem launch_of (s : State) (h : launchB s = true) :
    ∃ (t t2 : Tr) (w : Nat) (shape : Shape) (q1 : State),
      let q0 := releaseState 7 (onward s)
      let ra := s.me.sreg 1
      let q := readDone t 128 q0
      s.me.ctx ≠ 0 ∧ outboundIdle (onward s) = true ∧ CanReleaseAt 7 2 (onward s) ∧ q0.me.tx.active = false ∧
      q0.me.sreg 1 = ra ∧ ra.toNat % 128 = 0 ∧ LeadAccess q0 ra 128 Need.read t ∧ markReady q0 q0.me t false = true ∧
      w = leNat (leBytes 128 (dieSees t 128 q0)) ∧ issuerDepth q ≠ 10 ∧ launchBad q w = false ∧ (recDispatch w = 0 → shape = recShape w ∧ q1 = q) ∧
      (recDispatch w ≠ 0 → (readTable (BitVec.ofNat 64 (recDispatch w))).run q = .ok (shape, q1)) ∧
      shapeBad (recSquad w) shape = false ∧
      (namedWord (BitVec.ofNat 64 (recDone w)) Need.write).run q1 = .ok (t2, q1) ∧ rangeHit q q.me.part t2.pa 8 true = false ∧
      (predWords ((List.range 4).map (recPred w))).run q1 = .ok ([], q1) ∧
      (predWords [recProducer w]).run q1 = .ok ([], q1) ∧ ∃ u, (clearDone t2).run q1 = .ok ((), u) := by
  rw [launchB] at h
  simp only [Bool.and_eq_true, decide_eq_true_eq, bne_iff_ne, beq_iff_eq, Bool.not_eq_true', Bool.or_eq_true] at h
  obtain ⟨⟨⟨⟨⟨⟨⟨⟨⟨⟨⟨⟨⟨⟨⟨⟨h1, h2⟩, h3⟩, h4⟩, h5⟩, h6⟩, ⟨⟨⟨a1, a2⟩, a3⟩, ⟨a4, a5⟩, a6⟩⟩, hm⟩, h8⟩, h9⟩, h10⟩, h11⟩, h12⟩, h13⟩, h14⟩, h15⟩, h16⟩ := h
  refine ⟨page1 0x3000, page1 (recDone (leNat (leBytes 128 (dieSees (page1 0x3000) 128 (releaseState 7 (onward s)))))), _,
    (shapeRead s (leNat (leBytes 128 (dieSees (page1 0x3000) 128 (releaseState 7 (onward s)))))).1, 
    (shapeRead s (leNat (leBytes 128 (dieSees (page1 0x3000) 128 (releaseState 7 (onward s)))))).2, h1, h2, canRelease_of h3, h4, h6, a3,
    ⟨⟨a1, a2, a3⟩, fun hr => by simpa [hr] using a4, a5, a6⟩, hm, rfl, h8, h9, fun hd => by simp [shapeRead, hd, recordRead], fun hd => ?_, h11, run_named _ _ _ _ h12,
    h13, ?_, ?_, _, ok_get _ ((), s) h16⟩
  · have := h10.resolve_left hd
    simp only [shapeRead, hd, if_false]
    exact ok_get _ _ this
  · rw [h14]; simp [predWords]
  · rw [h15]; simp [predWords]

theorem witness_LaunchForms_launch : ∀ s ∈ [launcher 0, launcher 0x3100, { launcher 0 with grids := List.replicate 256 { grid1 with handle := 8 } }],
    launchB s = true := by
  decide +kernel

theorem witness_LaunchForms_queue :
    (∀ s ∈ [launcher 0, launcher 0x3100], queueLoad (recordRead s) (recordRead s).me.part (recQueue (record 0)) < 256) ∧
      256 ≤ queueLoad { launcher 0 with grids := List.replicate 256 { grid1 with handle := 8 } } 0 (recQueue (record 0)) := by
  decide +kernel

theorem witness_LaunchForms_wait : ∀ x ∈ [0, 0x80],
    let s : State := { sets 1 0x4000 group with mem := cells 0x4007 1 x }
    LeadAccess (onward s) (s.me.sreg 1) 8 Need.read (page1 0x4000) ∧ s.me.tx.active = false ∧
      markReady (onward s) (onward s).me (page1 0x4000) false = true ∧
      (BitVec.ofNat 64 (dieSees (page1 0x4000) 8 (onward s))).getLsbD 63 = (x == 0x80) := by
  intro x hx
  simp only [List.mem_cons, List.not_mem_nil, or_false] at hx
  rcases hx with rfl | rfl <;> exact ⟨access_at _ _ _ _ _ (by decide +kernel), by decide +kernel, by decide +kernel, by decide +kernel⟩

theorem witness_LaunchForms_grids :
    let s : State := { sets 1 0x4000 group with grids := [grid1] }
    let q := markDirty (releaseState 7 (onward s))
    namedGrid s (s.me.sreg 1) = some grid1 ∧ namedGrid group (group.me.sreg 1) = none ∧
      outboundIdle (onward s) = true ∧ canReleaseB 7 2 (onward s) = true ∧
      namedGrid q (q.me.sreg 1) = some grid1 ∧ namedGrid q (q.me.sreg 2) = none := by
  decide +kernel

theorem witness_LaunchForms_exit :
    let q := drainLanes (onward group)
    let left := countExit q.me.team (dropRunners (fun r => r.id == q.me.id) q)
    group.me.isHost = false ∧ waitOver true 0 (onward group) = true ∧ lanesIdle (onward group) = true ∧ (ckDue left q.me.team && ckBusy left q.me.team) = false := by
  decide +kernel

/-- Counts: equal, more with room, fewer; more without room on the core, which another team's group fills. -/
theorem witness_LaunchForms_registers :
    let s (n : Nat) : State := sets 1 (BitVec.ofNat 64 n) group
    let full (n : Nat) : State :=
      { s n with others := List.replicate 15 { group.me with team := 8, l := { group.me.l with count := 256 } } }
    (∀ n ∈ [16, 32, 48, 256], countOk ((s n).me.sreg 1).toNat = true) ∧ group.me.l.count = 32 ∧
      (∀ n ∈ [48, 256], teamBlocks (onward (s n)) + (blocksOf n - blocksOf 32) ≤ 256 ∧
        blocksHeld (onward (s n)) 0 + (blocksOf n - blocksOf 32) ≤ 256 ∧ growBehind (onward (s n)) (onward (s n)).me = false) ∧
      teamBlocks (onward (full 256)) + (blocksOf 256 - blocksOf 32) ≤ 256 ∧
      256 < blocksHeld (onward { full 256 with others := (full 256).others ++ [{ group.me with team := 8 }] }) 0
        + (blocksOf 256 - blocksOf 32) ∧
      waitOver true 0 (onward (s 16)) = true ∧ lanesIdle (onward (s 16)) = true := by
  decide +kernel

theorem witness_LaunchForms_ready :
    let g : Grid := { grid1 with ready := false, preds := [(0x5000, 0)] }
    let s : State := { sets 1 0x4000 group with grids := [g], mem := cells 0x5007 1 0x80 }
    s.grids.find? (fun x => x.handle == s.me.sreg 1 && !x.ready && x.stop.isNone) = some g ∧ halted s g.part = false ∧
      ∀ p ∈ g.preds, (predWord s (s.me.sreg 1) p).all (fun w => w.getLsbD 63 && !predFailed w) = true ∧
        (predWord s (s.me.sreg 1) p).isSome = true := by
  decide +kernel

/-! ## Hypotheses met: the scheduler -/

/-- A machine with one grid at the head of its queue: one that fits, and one of 32 groups of 256 registers. -/
def waiting (big : Bool) : State :=
  { core with
    ctxs := [ctx1]
    grids := [if big then { grid1 with groups := 32, regs := 256 } else grid1] }

/-- Partition 0 as reset leaves it. -/
def part0 : Part := (partAt core 0).getD ⟨0, [], 0, 0, 0, Vector.replicate 64 0, [], Vector.replicate 4 (0, 0), [], none, 0⟩

theorem witness_Scheduler_placement :
    partAt (waiting false) 0 = some part0 ∧ (nextPlacement (waiting false) part0).isSome = true ∧
      partAt (waiting true) 0 = some part0 ∧ (nextPlacement (waiting true) part0).isNone = true := by
  decide +kernel

theorem witness_Scheduler_reservation :
    let g : Grid := { grid1 with groups := 32, regs := 256 }
    let s (n : Nat) : State := { waiting true with clocks := ⟨Vector.replicate 6 n, 0, 0⟩ }
    headOf (s 65536) 0 0 = some g ∧ 65536 ≤ partClock (s 65536) 0 - g.unplacedSince ∧
      ctxHeld (s 65536) g.ctx = false ∧ hasRoom (s 65536) part0 g = false ∧ part0.reserve.contains (0, g.unplacedSince) = false ∧
      headOf (s 65535) 0 0 = some g ∧
      partClock (s 65535) 0 - g.unplacedSince < 65536 := by
  decide +kernel

/-- A producer that fits nowhere, and a resident squad of its consumer. -/
def produced : State :=
  { group with
    clocks := ⟨Vector.replicate 6 4096, 0, 0⟩
    grids := [{ grid1 with groups := 32, regs := 256 }, { grid1 with handle := 0x100, producer := 0x4000, nextSquad := 2 }]
    squads := [⟨3, 0x100, 1, 0, 0, 0, [7], false, 3⟩] }

theorem witness_Scheduler_producer :
    let g : Grid := { grid1 with groups := 32, regs := 256 }
    let s := produced
    let consumer (q : Squad) : Bool := q.part == 0 && (producersOf s q.grid).any fun x => x.handle == 0x4000
    s.grids.find? (fun x => x.handle == 0x4000 && x.ready && x.unplaced) = some g ∧ g.part = 0 ∧
      4096 ≤ partClock s 0 - g.unplacedSince ∧ (bestPlace s part0 (.next g)).isNone = true ∧
      s.squads.any (fun q => consumer q && q.leaving) = false ∧
      ((youngest (fun q => consumer q && squadWaits s q) s).or (youngest consumer s)).isSome = true := by
  decide +kernel

/-- A group that waits for 256 registers, on a core that another squad's groups fill or do not. -/
def grower (full : Bool) : State :=
  { group with
    me := { group.me with l := { group.me.l with grow := some (256, 0) } }
    clocks := ⟨Vector.replicate 6 4096, 0, 0⟩
    teams := [team1, { team1 with uid := 8, squad := 4 }]
    squads := [⟨4, 0x200, 1, 0, 0, 0, [8], false, 9⟩]
    others := if full then List.replicate 16 { group.me with team := 8, l := { group.me.l with count := 256 } } else [] }

theorem witness_Scheduler_registers :
    let mine := ((team? (grower true) 7).map (·.squad)).getD 0
    let other : Squad := ⟨4, 0x200, 1, 0, 0, 0, [8], false, 9⟩
    (∀ full, (firstGrow (grower full) 0).map (fun p => (p.1.id, p.2)) = some (.group 0, 256, 0) ∧
      growFits (grower full) 0 (grower full).me 256 = !full) ∧
      4096 ≤ coreClock (grower true) 0 - 0 ∧ coreClosed (grower true) 0 = false ∧
      youngest (fun q => q.uid != mine && (grower true).teams.any fun t => t.squad == q.uid && t.core == 0) (grower true) = some other := by
  decide +kernel

theorem witness_Scheduler_preemption : ∀ leaving : Bool,
    let q : Squad := ⟨3, 0x100, 1, 0, 0, 0, [7], leaving, 3⟩
    let s : State := { group with squads := [q] }
    s.squads.find? (fun q => q.uid == 3) = some q ∧ halted s q.part = false ∧ squadStill s q = leaving := by
  decide +kernel

theorem witness_Scheduler_completion :
    let g : Grid := { grid1 with nextSquad := 2, ended := 2 }
    let s : State := { group with grids := [g] }
    s.grids.find? (fun x => x.handle == 0x4000) = some g ∧ halted s g.part = false ∧ anyLocked s = false ∧
      lockedOut s none g.done.1 8 = false ∧ gridOver s g = true ∧ (poolOf g.done.1).isMemory = true := by
  decide +kernel

/-- A completion word in an outbound window. -/
theorem witness_Scheduler_outside :
    ∃ a, (poolOf a).isMemory = false ∧ answeredOutside core a = true := ⟨0x80000000000, by decide +kernel, by decide +kernel⟩

theorem witness_Scheduler_flags :
    let s : State := lanes (fun l => { l with outst := [⟨2, 5, false, false⟩] }) group
    storeArrived s (.group 0) 0 = some ⟨2, 5, false, false⟩ ∧ storeArrived s (.group 0) 1 = none := by
  decide +kernel

/-! ## Hypotheses met: traffic, upkeep, halts -/

/-- Two accepted writes of one die to one byte, a third elsewhere, a fourth not performed on its die. -/
def writing : State :=
  { core with pend := [⟨3, .host 0, false, 0, 0x1000, [1, 2], 0, false, 0, false, true⟩,
      ⟨3, .host 0, false, 0, 0x1001, [3], 0, false, 0, false, true⟩, ⟨3, .host 0, false, 0, 0x2000, [4], 0, false, 0, false, true⟩,
      ⟨3, .host 0, false, 0, 0x3000, [5], 0, false, 0, false, false⟩] }

theorem witness_TrafficSteps_arrival :
    let behind (k : Nat) (w : PWrite) : Bool :=
      (writing.pend.take k).any fun x => x.seen && x.die == w.die && x.leads writing w
    (writing.pend[0]?.map (behind 0)) = some false ∧ (writing.pend[1]?.map (behind 1)) = some true ∧
      (writing.pend[2]?.map (behind 2)) = some false ∧ (writing.pend.map (·.seen)) = [true, true, true, false] ∧ ∀ w ∈ writing.pend, lockedOut writing (some w.who) w.addr w.bytes.length = false := by
  decide +kernel

theorem witness_TrafficSteps_outside :
    let o (who : RunnerId) (ask : Asker) (pa : Nat) (wr : Bool) : Outbound := ⟨who, ask, 0, 0, pa, wr, [], none, false, 0, false, 0⟩
    let s (now : Nat) (o : Outbound) : State := { core with outb := [o], routing := [(1, [0])], clocks := { core.clocks with host := now } }
    (∀ who ∈ [RunnerId.host 0, portRunner 1], ∀ ask ∈ [Asker.instr false, .op 3, .grid 8], ∀ pa ∈ [2 ^ 48, 2 ^ 43], ∀ wr,
      let o := o who ask pa wr
      (s 0 o).outb.findIdx? (fun x => x.who == who && (x.wr || x.data.isNone) && x.reaches (s 0 o)) = some 0 ∧
      (s 0 o).outb[0]? = some o ∧ o.readBy who = (!wr && ask == .instr false) ∧ o.ofPort = (who == portRunner 1) ∧
      (poolOf o.pa).isMemory = (pa == 2 ^ 48) ∧ lockedOut (s 0 o) none o.pa o.bytes.length = false ∧
      clockOf (s (2 ^ 20 - 1) o) who < o.since + 2 ^ 20 ∧ o.since + 2 ^ 20 ≤ clockOf (s (2 ^ 20) o) who) ∧
      poolOf (2 ^ 48) ≠ .window ∧ core.me.id = .host 0 := by
  decide +kernel

/-- Port 0 is an endpoint; window 0 leads its first 64 KiB to 0x10000 under key slot 0. -/
def peered : State :=
  { core with
    endpoint := vset core.endpoint 0 true
    dev := { core.dev with
      wctl := vset core.dev.wctl 0 0x8000000000000001
      wbase := vset core.dev.wbase 0 0x10000
      portctl := vset core.dev.portctl 0 0x8000000000000000 } }

theorem witness_TrafficSteps_peer :
    (let w : Landed := ⟨0, 0, 0x10004, 0, [1, 2, 3, 4, 5]⟩
     ({ peered with landed := [w] } : State).landed.find? (fun w => w.port == 0) = some w ∧
       lockedOut { peered with landed := [w] } none w.pa 4 = false) ∧
    windowSlot peered 0 0 8 = some (0x10000, 0) ∧ (keyId peered 0).isSome = true ∧
    isEndpoint peered 0 = true ∧ windowPlace peered 0 0 8 = some (0x10000, 0) ∧ windowPlace peered 0 0xFFF8 8 = some (0x1FFF8, 0) ∧
      windowPlace peered 0 0xFFF9 8 = none ∧ lockedOut peered none 0x10000 8 = false ∧
      (vget peered.dev.portctl 0).getLsbD 63 = true ∧ keyId peered (slice (vget peered.dev.portctl 0) 47 40) = some 0 := by
  decide +kernel

theorem witness_MachineUpkeep :
    let i (act : Nat) : Injector := ⟨1, false, 0, act, 0, 0, false⟩
    (∀ act ∈ [0, 1, 2, 3], ({ core with injectors := [i act] } : State).injectors.find? (fun i => i.link == 1 && i.dir == false) = some (i act)) ∧
      (0 < 16 ∧ 15 < 16) ∧ (1 ≤ [0].length ∧ [0, 7].length ≤ 2 ∧ ∀ l ∈ [0, 7], l < 8) ∧ (3 < 4 ∧ 2047 < 2048) ∧
      (poolOf 0x1000).isMemory = true ∧ (∃ x ∈ [(32, false), (64, true)], x.1 / 32 = 1 ∧ x.2 = false) ∧
      (∀ x ∈ [(32, true), (64, false)], x.1 / 32 = 1 → x.2 = true) ∧ (12 < 13 ∧ 11 < 12 ∧ 5 < 6) ∧
      (vget (vset core.dev.hot 12 { vget core.dev.hot 12 with ctl := 0x8000000000000000 }) 12).ctl.getLsbD 63 = true ∧
      ({ core with stretched := [5] } : State).stretched.contains 5 = true ∧
      (2 ≤ (vget (missBeat 11 (missBeat 11 core)).refresh 11).missed ∧ (vget (missBeat 11 core).refresh 11).missed < 2 ∧
        (vget core.refresh 11).taken = false) := by
  decide +kernel

/-- Partition 0 halted at clock 0, with nothing acknowledged or all. -/
def halts (all : Bool) (now : Nat) : State :=
  { core with
    clocks := ⟨Vector.replicate 6 now, 0, 0⟩
    parts := mapIf (fun p => p.no == 0) (fun p => { p with
      halt := some ⟨0, 0xB3, 0, 0, 0, 0, 0, 0, 0, 0, false, if all then enginesOf p else [], [], false⟩ }) core.parts }

theorem witness_HaltsAndResets_halt : ∀ all : Bool, ∀ now ∈ [4095, 4096],
    ((halting (halts all now) 0).map fun p => ((enginesLeft p.1 p.2).isEmpty, p.2.since, (enginesLeft p.1 p.2).contains 0)) =
      some (all, 0, !all) := by
  decide +kernel

theorem witness_HaltsAndResets_resets :
    (core.parts.find? fun p => p.no == 5).isSome = true ∧
      (me (fun r => { r with stopped := true }) core).me.id = .host 0 ∧ (me (fun r => { r with stopped := true }) core).me.stopped = true := by
  decide +kernel

/-! ## Hypotheses met: fetch, codes and steps -/

theorem witness_UnusedWords :
    core.lane = false ∧ core.me.isHost = true ∧ (laneOf LaneF.zero).lane = true ∧ (laneOf LaneF.zero).me.isHost = false ∧
      (laneCtx (laneOf LaneF.zero)).m0 &&& ~~~(laneOf LaneF.zero).me.l.run.skip ≠ 0 := by
  decide

/-- A core at 0x2000, where one word stands and then the word of NOP with its entry mark. -/
def fetching (a : Nat) : State := { me (fun r => { r with pc := 0x2000 }) core with mem := cells 0x2000 4 a ++ [(0x2007, 0x20)] }

/-- ADDI s1, s0, −16 alone, and ADD.sat s2, s1, s1 of two words. -/
theorem witness_LeadFetch :
    (∃ d u, [(0x240103F0 : W32)].length ≤ 4096 ∧ ReadsWords [0x240103F0] 0x2000 (fetching 0x240103F0) u ∧
      decodeWords [] [0x240103F0] = some d ∧ d.words = 1 ∧ d.e = true) ∧
    (fetching 0).me.entry = false ∧ runCause (fetching 0).me (decodeRun [] 0x240103F0 0) = none ∧
    probe group group.me 0xFFFFFFFFFFFFFFFC 4 Need.code = .error 0x22 := by
  have h : (decodeWords [] [0x240103F0]) = some (decodeRun [] 0x240103F0 0) := rfl
  refine ⟨⟨_, _, by decide, ⟨Tr.physical 0x2000, ⟨?_, ?_, ?_, ?_⟩, ?_, rfl⟩, h, ?_, ?_⟩, ?_, ?_, ?_⟩ <;> decide +kernel

theorem witness_DecodeEncodeLead : ∀ e : Bool,
    ∀ i ∈ [Instr.nop, .addi true 1 0 (-32768), .beqLong 63 62 (-1), .csrrd 5 0x101, .kfetch 10 8 11 true 7],
      i.wellFormed = true ∧ (encodeLead e i).isSome = true := by
  decide +kernel

theorem witness_DecodeEncodeLane :
    (let f : LaneF := { slot 4 255 254 253 252 0xFFFFFFFF with m := 15, fl := 3, qa := true, rm := 7, nf := true }
     Instr.vadd ≠ .clause ∧ Instr.vadd.slotOk (slot 4 8 9 10 0 0) = true ∧
       (encodeLane (slot 4 8 9 10 0 0) Header.zero .vadd).isSome = true ∧ (encodeLane f Header.zero .vadd).isSome = true) ∧
      (encodeLane LaneF.zero ⟨15, 0xFFF, true, 11, true, 3⟩ .clause).isSome = true := by
  decide +kernel

/-- Each kind of prefix at the ends of its payload. -/
theorem witness_PrefixesModify : ∀ p ∈ ([(.fadd 0 1 2 3, 0, 4), (.add false 1 2 3, 1, 2), (.ld 3 1 2 0, 2, 0x3C)] : List (Instr × Nat × Nat)),
    let k := BitVec.ofNat 3 p.2.1
    let q := BitVec.ofNat 6 p.2.2
    p.1.wellFormed = true ∧ (encodeLead false p.1).isSome = true ∧ acceptsKind p.1 k.toNat = true ∧ (k = 0 → q.toNat ≤ 4) ∧
      (k = 1 → q = 1 ∨ q = 2) ∧ (k = 2 → orderOk p.1 (bits q 0 3) = true ∧ (bits q 0 3).toNat ≤ 4) := by
  decide +kernel

theorem witness_LeadSteps :
    let due : State := me (fun r => { r with status := r.status ||| 0x10, ints := [7] }) core
    let stopped : State := me (fun r => { r with stopped := true }) core
    let locks : State := me (fun r => { r with txretry := 0, tx := { r.tx with active := true } }) core
    interruptDue due = some 7 ∧ interruptDue stopped = none ∧ held false stopped = true ∧
      interruptDue locks = none ∧ held false locks = false ∧ locks.me.needsLock = true ∧
      interruptDue (fetching 0) = none ∧ held false (fetching 0) = false ∧ (fetching 0).me.needsLock = false ∧
      streamFault (fetching 0) = none ∧ (fetching 0).me.sup = true := by
  decide +kernel

/-- A cause that is not (1, 0): a reserved field. -/
theorem witness_LeadSteps_cause : ∃ w c k, runCause core.me (decodeRun [] w 0) = some (c, k) ∧ (c, k) ≠ (1, 0) :=
  ⟨0x18400001, 2, 0, by decide +kernel, by decide⟩

/-- Whether a clause would start, and whether its header was read. -/
def pickHas (s : State) : Option Bool := (pickClause s).map fun p => p.2.1.isOk

/-- The next slot of the clause is VADD; or no clause is in progress, with a fragment that may start one, with one
where no header stands, and with none. -/
theorem witness_LaneSteps :
    let w := (encodeLane (slot 4 8 9 10 0 0) Header.zero .vadd).getD 0
    let s : State := lanes (fun l => { l with run := { l.run with cur := some ⟨0, 0, 1, [w], 0, none, none, [], none⟩ } }) (laneOf LaneF.zero)
    let free (r : LaneRuns → LaneRuns) : State :=
      { lanes (fun l => { l with run := r { l.run with cur := none } }) (laneOf LaneF.zero) with
        mem := cells 0 12 0xF00200400000000000000000 }
    let lost : State := { free id with mem := [] }
    s.lane = true ∧ s.me.isHost = false ∧ held true s = false ∧ held true (me (fun r => { r with asserted := true }) (free id)) = true ∧
      s.me.l.run.cur.map (fun c => c.code.getD c.pos 0) = some w ∧ encodeLane (slot 4 8 9 10 0 0) Header.zero .vadd = some w ∧
      pickHas (free fun r => { r with runs := [], frags := [] }) = none ∧ pickHas (free id) = some true ∧
      pickHas lost = some false := by
  decide +kernel

theorem witness_Turns :
    let rest : List Turn := [.pass 1 1 1]
    let s : State := { State.reset with agenda := .run (.host 1) false :: rest }
    (focus (.host 1) { s with agenda := rest, lane := false }).isSome = true ∧
      (focus (.group 9) { s with agenda := rest, lane := false }).isNone = true ∧
      isEvent (.scrubVisit 0) = true ∧ isEvent .nop = false ∧ core.agenda = [] := by
  decide +kernel

/-- A stream behind a promoted group of its core, one whose attempt is due, and one with neither. -/
theorem witness_Turns_stage :
    let other : Runner := { group.me with id := .group 1, l := { group.me.l with promoted := (true, false), ready := (true, false) } }
    let late := me (fun r => { r with tx := { r.tx with ran := 65536 } }) (inTx group)
    behindOthers false { group with others := [other] } = true ∧ behindOthers false group = false ∧
      behindOthers false late = false ∧ validationDue late = some 32 ∧ validationDue group = none := by
  decide +kernel

theorem witness_WritesReadBack : core.mem.wf = true ∧ (poolOf 0x1000).isMemory = true ∧ tiler.mem.wf = true := by decide +kernel

/-- From the state after reset a NOP is executed, and both invariants hold there. -/
theorem witness_invariants : MemOk State.reset ∧ HardwiredOk State.reset ∧
    ∃ t, step { State.reset with agenda := [.evict 0] } = .next t := by
  refine ⟨rfl, fun r hr => ?_, _, rfl⟩
  have h : ((State.everyRunner State.reset).all fun r => vget r.s 0 == 0 && vget r.tx.snapS 0 == 0) = true := by decide +kernel
  have := List.all_eq_true.mp h r hr
  simpa [RunnerOk] using this

/-! ## Single steps, with the results that the spec's worked runs give -/

/-- The next state of one step at an instruction satisfies f. -/
def stepped (s : State) (nbits w : Nat) (f : State → Bool) : Bool :=
  match step (s.withFetchWord nbits w) with
  | .next t => f t
  | _ => false

/-- After the step, register d of the runner in focus holds x and the program counter has moved n bytes. -/
def leads (s : State) (nbits w n d : Nat) (x : Word) : Bool :=
  stepped s nbits w fun t => decide (vget t.me.s d = x) && decide (t.me.pc = s.me.pc + BitVec.ofNat 64 n)

/-- After the step, the lanes from 0 on of vector register d hold the values listed. -/
def lanesHold (s : State) (w d : Nat) (l : List W32) : Bool :=
  stepped s 96 w fun t => decide ((List.range l.length).map (vget (vget t.me.l.v d)) = l)

/-- spec/03, the worked run: ADDI, SHRI, ADD.sat, ADD.w and DIV. -/
theorem test_worked_integers : leads core 32 0x240103F0 4 1 0xFFFFFFFFFFFFFFF0 = true ∧
    leads (sets 1 0xFFFFFFFFFFFFFFF0 core) 32 0x05410401 4 1 0x7FFFFFFFFFFFFFF8 = true ∧
    leads (sets 1 0x7FFFFFFFFFFFFFF8 core) 64 0x02020410C4000001 8 2 0x7FFFFFFFFFFFFFFF = true ∧
    leads (sets 1 0x7FFFFFFFFFFFFFF8 core) 32 0x42030410 4 3 0xFFFFFFFFFFFFFFF0 = true ∧
    leads (sets 3 0xFFFFFFFFFFFFFFF0 core) 32 0x02040C05 4 4 0xFFFFFFFFFFFFFFFF = true := by
  decide +kernel

/-- spec/03, the worked run: FCVT, FDIV, and FCVT of 2.5 to nearest even and away from zero. -/
theorem test_worked_floats : leads (sets 6 5 core) 32 0x0D061B14 4 6 0x40A00000 = true ∧
    leads (sets 6 0x40A00000 (sets 7 0x40000000 core)) 32 0x0C481873 4 8 0x40200000 = true ∧
    leads (sets 8 0x40200000 core) 32 0x0D092130 4 9 2 = true ∧
    leads (sets 8 0x40200000 core) 64 0x0D0A2130C0000004 8 10 3 = true := by
  decide +kernel

/-- spec/03: RET goes to s63 where an entry word stands, and traps ENTRY_MARK where none does. -/
theorem test_worked_return :
    stepped { sets 63 0x2000 core with mem := [(0x2003, 0x20)] } 32 0x0880FC02 (fun t => t.me.pc == 0x2000 && t.me.cause == 0) = true ∧
      stepped (sets 63 0x2000 core) 32 0x0880FC02 (fun t => t.me.cause == 4 && t.me.faultaddr == 0x2000 && t.me.epc == 0) = true := by
  decide +kernel

/-- The core with 5 in s3, 9 in s4 and the dword x at 0x1000, which s8 names. -/
def swapper (x : Byte) : State := { sets 3 5 (sets 4 9 (sets 8 0x1000 core)) with mem := [(0x1000, x)] }

/-- spec/08, the example of acas.d.ar.pkg: the dword becomes 9 where it held 5; else it stays and s3 takes it. -/
theorem test_worked_acas :
    stepped (swapper 5) 64 0x1303204BC800002B (fun t => vget t.me.s 3 == 5 && homeByte t 0 0x1000 == 9) = true ∧
      stepped (swapper 6) 64 0x1303204BC800002B (fun t => vget t.me.s 3 == 6 && homeByte t 0 0x1000 == 6) = true := by
  decide +kernel

/-- A group whose register r holds the values listed in its lanes from 0 on. -/
def fills (r : Nat) (l : List W32) (s : State) : State :=
  lanes (fun x => { x with v := l.zipIdx.foldl (fun v p => vset v r (vset (vget v r) p.2 p.1)) x.v }) s

/-- spec/04, the worked clause: the tree sum of 1, 2^24, 1 and −2^24, and VADD.i8.sat of 80 and −100 with 100. -/
theorem test_worked_clause :
    lanesHold (lanes (fun l => { l with m := vset l.m 4 0xF }) (fills 8 [0x3F800000, 0x4B800000, 0x3F800000, 0xCB800000] group))
        0x202C14080000400000000000 20 [0x3F800000, 0x3F800000, 0x3F800000, 0x3F800000, 0] = true ∧
      lanesHold (fills 9 [0x50, 0xFFFFFF9C] group) 0x000215090000002200000064 21 [0x7F, 0, 0x64] = true ∧
      lanesHold (fills 9 [0x50] group) 0x000215090000002000000064 21 [0xFFFFFFB4] = true := by
  decide +kernel

/-- spec/02 and spec/04: the worked headers. -/
theorem test_worked_headers :
    (decodeLane 0xF00200400000000000000000).hdr = ⟨2, 4, false, 0, false, 0⟩ ∧
      (decodeLane 0xF003009A8000000000000000).hdr = ⟨3, 9, true, 5, false, 0⟩ := by
  decide +kernel

/-- Lists a and b of spec/13's example, with their lengths in v4. -/
def sorted : State := fills 2 [1, 4, 7, 9, 12] (fills 3 [4, 5, 9, 9, 13] (fills 4 [0x505] group))

/-- spec/13, the example of VISECT: plain and .dup. -/
theorem test_worked_visect :
    lanesHold sorted 0x802814020304000050000000 20 [1, 0x20003] = true ∧
      lanesHold sorted 0x802814020304000050000000 21 (List.replicate 32 0x80020304) = true ∧
      stepped sorted 96 0x802814020304000050000000 (fun t => vget t.me.l.m 5 == 3) = true ∧
      lanesHold sorted 0x802814020304000054000000 20 [1, 0x20003] = true ∧
      lanesHold sorted 0x802814020304000054000000 21 (List.replicate 32 0x20405) = true := by
  decide +kernel

/-- spec/13, the .strict form: SORT_ORDER with the index of b's violation. -/
theorem test_worked_visect_strict :
    stepped sorted 96 0x802814020304000058000000 (fun t => t.me.cause == 0x81 && t.me.faultaddr == 0x10003
      && vget (vget t.me.l.v 20) 0 == 0) = true := by
  decide +kernel

/-- spec/15, the example of a launch record's dword 10. -/
theorem test_record_fields :
    let w := 0x0000020002001001 * 2 ^ 640
    recGroups w = 1 ∧ recRegs w = 16 ∧ recSquad w = 2 ∧ recAcc w = 0 ∧ recQueue w = 2 := by
  decide +kernel

/-- A privileged instruction at user level traps PRIVILEGE, and a word of no instruction ILLEGAL_OPCODE. -/
theorem test_traps : stepped user 32 0x18400000 (fun t => t.me.cause == 5 && t.me.epc == 0) = true ∧
    stepped core 32 0x1FC00000 (fun t => t.me.cause == 1 && t.me.epc == 0) = true := by
  decide +kernel

/-- Four lanes with the keys of spec/13's example in v8 and its values in v12. -/
def keys4 (f : LaneF) : State :=
  lanes (fun l => { l with live := 15, run := { l.run with frags := [⟨15, 0, .runnable, 0, true, 0⟩] } })
    (fills 8 [5, 9, 5, 5] (fills 12 [0x4B800000, 0x40400000, 0x3F800000, 0x3F800000] (laneOf f)))

/-- spec/13, the example of VCOMB and VCONF. -/
theorem test_worked_conflicts :
    (match exec .vcomb (keys4 (slot 12 20 8 12 0 0)) with
      | .next t => decide ((List.range 4).map (vget (vget t.me.l.v 20)) = [0x4B800000, 0x40400000, 0, 0])
      | _ => false) = true ∧
    (match exec .vconf (keys4 (slot 0 20 8 0 0 0x40000000)) with
      | .next t => decide ((List.range 4).map (vget (vget t.me.l.v 20)) = [0, 0, 1, 5]) && vget t.me.l.m 4 == 3
      | _ => false) = true := by
  decide +kernel

end Sys2Proof.Tests
end

/-! # Memory and registers read back what is written (spec/00_scope.md R7, spec/18_outside.md R492) -/

namespace Sys2Proof.Machine
open Sys2Proof

/-! ## The byte list -/

/-- A byte below the start of a list in form reads 0. -/
theorem Mem.get_of_lt : ∀ (m : Mem) (lo a : Nat), Mem.wfFrom lo m = true → a < lo → m.get a = 0
  | [], _, _, _, _ => rfl
  | (k, c) :: m, lo, a, h, ha => by
    simp only [Mem.wfFrom, Bool.and_eq_true, decide_eq_true_eq] at h
    obtain ⟨⟨hk, -⟩, hm⟩ := h
    rw [Mem.get, if_neg (by omega)]
    exact Mem.get_of_lt m (k + 1) a hm (by omega)

/-- The cells of consecutive bytes give those bytes back, and what follows them elsewhere. -/
theorem Mem.get_cellsOf_append (m : Mem) (b : Nat) : ∀ (bs : List Byte) (a : Nat), Mem.wfFrom (a + bs.length) m = true →
    (cellsOf a bs ++ m).get b = if a ≤ b ∧ b < a + bs.length then bs.getD (b - a) 0 else m.get b
  | [], a, _ => by rw [if_neg (by simp)]; rfl
  | c :: bs, a, h => by
    have hl : a + (c :: bs).length = a + 1 + bs.length := by simp; omega
    rw [hl] at h ⊢
    have ih := Mem.get_cellsOf_append m b bs (a + 1) h
    have hcell : (cellsOf a (c :: bs) ++ m).get b = if a = b then c else (cellsOf (a + 1) bs ++ m).get b := by
      rw [cellsOf]
      split
      · rename_i hc
        split
        · rename_i hab
          rw [ih, if_neg (by omega), Mem.get_of_lt m _ b h (by omega), hc]
        · rfl
      · rfl
    rw [hcell, ih]
    by_cases hab : a = b
    · subst hab
      simp [show a < a + 1 + bs.length by omega]
    · by_cases hb : a + 1 ≤ b ∧ b < a + 1 + bs.length
      · obtain ⟨n, rfl⟩ : ∃ n, b = a + 1 + n := ⟨b - (a + 1), by omega⟩
        rw [if_neg hab, if_pos hb, if_pos (by omega), show a + 1 + n - a = n + 1 by omega,
          Nat.add_sub_cancel_left, List.getD_cons_succ]
      · rw [if_neg hab, if_neg hb, if_neg (by omega)]

/-- Past the cells left out, a list reads as before. -/
theorem Mem.get_dropWhile (n b : Nat) (h : n ≤ b) : ∀ m : Mem, Mem.get (m.dropWhile fun x => decide (x.1 < n)) b = m.get b
  | [] => rfl
  | (k, c) :: m => by
    by_cases hk : k < n
    · rw [List.dropWhile_cons_of_pos (by simpa using hk), Mem.get, if_neg (by omega)]
      exact Mem.get_dropWhile n b h m
    · rw [List.dropWhile_cons_of_neg (by simpa using hk)]

/-- Bytes written read back, and every other byte reads as before. -/
theorem Mem.get_write (a b : Nat) (bs : List Byte) : ∀ (lo : Nat) (m : Mem), Mem.wfFrom lo m = true →
    (Mem.write m a bs).get b = if a ≤ b ∧ b < a + bs.length then bs.getD (b - a) 0 else m.get b
  | _, [], _ => by simpa [Mem.write] using Mem.get_cellsOf_append [] b bs a rfl
  | lo, (k, c) :: m, h => by
    have hm := h
    simp only [Mem.wfFrom, Bool.and_eq_true, decide_eq_true_eq] at hm
    rw [Mem.write]
    split
    · rename_i hk
      rw [Mem.get, Mem.get, Mem.get_write a b bs (k + 1) m hm.2]
      by_cases hkb : k = b
      · rw [if_pos hkb, if_neg (by omega), if_pos hkb]
      · rw [if_neg hkb, if_neg hkb]
    · rename_i hk
      rw [Mem.get_cellsOf_append _ b bs a (wfFrom_dropWhile _ _ lo h)]
      split
      · rfl
      · rename_i hb
        by_cases hab : b < a
        · have hlow : Mem.wfFrom a ((k, c) :: m) = true := by
            simp only [Mem.wfFrom, Bool.and_eq_true, decide_eq_true_eq]
            exact ⟨⟨by omega, hm.1.2⟩, hm.2⟩
          rw [Mem.get_of_lt _ a b hlow hab,
            Mem.get_of_lt _ (a + bs.length) b (wfFrom_dropWhile _ _ lo h) (by omega)]
        · exact Mem.get_dropWhile _ b (by omega) _

/-- A byte read of a range is the byte there. -/
theorem Mem.read_getD (m : Mem) : ∀ (n a i : Nat), i < n → (m.read a n).getD i 0 = m.get (a + i)
  | n + 1, a, 0, _ => rfl
  | n + 1, a, i + 1, h => by
    rw [Mem.read, List.getD_cons_succ, Mem.read_getD m n (a + 1) i (by omega), Nat.add_right_comm, Nat.add_assoc]

/-- Two memories in form that agree at every address are one list: what an address reads fixes whether it is listed. -/
theorem Mem.ext_of_wfFrom : ∀ (m n : Mem) (lo lo' : Nat), Mem.wfFrom lo m = true → Mem.wfFrom lo' n = true →
    (∀ a, m.get a = n.get a) → m = n
  | [], [], _, _, _, _, _ => rfl
  | [], (k, c) :: n, _, _, _, hn, h => by
    simp only [Mem.wfFrom, Bool.and_eq_true, decide_eq_true_eq, bne_iff_ne] at hn
    exact absurd (h k) (by simpa [Mem.get] using Ne.symm hn.1.2)
  | (k, c) :: m, [], _, _, hm, _, h => by
    simp only [Mem.wfFrom, Bool.and_eq_true, decide_eq_true_eq, bne_iff_ne] at hm
    exact absurd (h k) (by simpa [Mem.get] using hm.1.2)
  | (k, c) :: m, (j, d) :: n, lo, lo', hm, hn, h => by
    simp only [Mem.wfFrom, Bool.and_eq_true, decide_eq_true_eq, bne_iff_ne] at hm hn
    obtain ⟨⟨-, hc⟩, hm⟩ := hm
    obtain ⟨⟨-, hd⟩, hn⟩ := hn
    have hkj : k = j := by
      rcases Nat.lt_trichotomy k j with hlt | heq | hgt
      · have hk := h k
        rw [Mem.get, if_pos rfl, Mem.get, if_neg (by omega), Mem.get_of_lt n _ k hn (by omega)] at hk
        exact absurd hk hc
      · exact heq
      · have hj := h j
        rw [Mem.get, if_neg (by omega), Mem.get_of_lt m _ j hm (by omega), Mem.get, if_pos rfl] at hj
        exact absurd hj.symm hd
    subst hkj
    have hcd : c = d := by simpa [Mem.get] using h k
    have htail : ∀ a, Mem.get m a = Mem.get n a := fun a => by
      by_cases ha : k = a
      · rw [Mem.get_of_lt m _ a hm (by omega), Mem.get_of_lt n _ a hn (by omega)]
      · simpa [Mem.get, ha] using h a
    rw [hcd, Mem.ext_of_wfFrom m n (k + 1) (k + 1) hm hn htail]

/-! ## Pools and lines -/

/-- A line lies in one pool: every boundary of the address space is a multiple of 256 (R480). -/
theorem poolOf_line (a : Nat) : poolOf (a / 256 * 256) = poolOf a := by
  unfold poolOf
  simp only [show (2 : Nat) ^ 52 ≤ a / 256 * 256 ↔ 2 ^ 52 ≤ a by omega]
  have hm : a / 256 * 256 % 2 ^ 48 = a % 2 ^ 48 / 256 * 256 := by omega
  have hlt (n : Nat) : a / 256 * 256 % 2 ^ 48 < n * 256 ↔ a % 2 ^ 48 < n * 256 := by omega
  have hle (n : Nat) : n * 256 ≤ a / 256 * 256 % 2 ^ 48 ↔ n * 256 ≤ a % 2 ^ 48 := by omega
  simp only [show 0xC0_0000_0000 = 0xC000_0000 * 256 from rfl, show 0x100_0000_0000 = 0x1_0000_0000 * 256 from rfl,
    show 0x200_0000_0000 = 0x2_0000_0000 * 256 from rfl, show 0x200_0C00_0000 = 0x2_000C_0000 * 256 from rfl,
    show 0x300_0000_0000 = 0x3_0000_0000 * 256 from rfl, show 0x400_0000_0000 = 0x4_0000_0000 * 256 from rfl,
    show 0x400_0001_0000 = 0x4_0000_0100 * 256 from rfl, show 0x800_0000_0000 = 0x8_0000_0000 * 256 from rfl,
    show 0x1000_0000_0000 = 0x10_0000_0000 * 256 from rfl, hlt, hle]

/-- A range meets the line of each of its bytes. -/
theorem mem_linesOf {a n b : Nat} (h : a ≤ b ∧ b < a + n) : b / 256 ∈ linesOf a n := by
  rw [linesOf, if_neg (by omega), List.mem_map]
  exact ⟨b / 256 - a / 256, List.mem_range.mpr (by omega), by omega⟩

/-- Bytes at the home, by position. -/
theorem homeRead_getD (s : State) (key : Nat) : ∀ (n a i : Nat), i < n →
    (homeRead s key a n).getD i 0 = homeByte s key (a + i)
  | n + 1, a, 0, _ => rfl
  | n + 1, a, i + 1, h => by
    rw [homeRead, List.getD_cons_succ, homeRead_getD s key n (a + 1) i (by omega), Nat.add_right_comm, Nat.add_assoc]

@[simp] theorem homeRead_length (s : State) (key : Nat) : ∀ n a, (homeRead s key a n).length = n
  | 0, _ => rfl
  | n + 1, a => by rw [homeRead, List.length_cons, homeRead_length s key n]

/-! ## Lines under keys (R492) -/

/-- A line that a reader under the key reads as it stands in memory: it is stored under that key, or not encrypted. -/
def Plain (s : State) (key line : Nat) : Prop := (tagOf s line).plainFor key = true ∨ (poolOf (line * 256)).encrypts = false

/-- A byte of a plain line is the byte in memory. -/
theorem homeByte_of_plain {s : State} {key b : Nat} (h : Plain s key (b / 256)) : homeByte s key b = s.mem.get b := by
  unfold Plain at h
  rw [poolOf_line] at h
  rw [homeByte, if_pos (by rcases h with h | h <;> simp [h])]

/-- What the home gives of a byte depends on its line's tag and its line's bytes alone. -/
theorem homeByte_congr {s t : State} {key b : Nat} (htag : tagOf t (b / 256) = tagOf s (b / 256))
    (hmem : ∀ c, c / 256 = b / 256 → t.mem.get c = s.mem.get c) : homeByte t key b = homeByte s key b := by
  have hread : ∀ n a, a / 256 = b / 256 → (n ≠ 0 → (a + n - 1) / 256 = b / 256) → t.mem.read a n = s.mem.read a n := by
    intro n
    induction n with
    | zero => exact fun _ _ _ => rfl
    | succ n ih =>
      intro a ha hn
      rw [Mem.read, Mem.read, hmem a ha]
      rcases Nat.eq_zero_or_pos n with rfl | hpos
      · rfl
      · rw [ih (a + 1) (by have := hn (by omega); omega) (fun _ => by have := hn (by omega); omega)]
  unfold homeByte
  rw [htag, hmem b rfl, hread 256 (b / 256 * 256) (by omega) (fun _ => by omega)]

/-- The tag of a line after another line is taken over. -/
theorem tagOf_rekeyLine_ne {s : State} {key line l : Nat} (h : l ≠ line) : tagOf (rekeyLine s key line) l = tagOf s l := by
  unfold rekeyLine
  split
  · rfl
  · have hnew : ((if key = 0 then [] else [⟨line, key, line⟩]) : List LineTag).find? (fun t => t.line == l) = none := by
      split <;> simp [Ne.symm h]
    have hkeep : (s.tags.filter fun t => t.line != line).find? (fun t => t.line == l) = s.tags.find? fun t => t.line == l := by
      rw [List.find?_filter]
      refine congrArg (fun p => List.find? p s.tags) (funext fun t => ?_)
      by_cases ht : t.line = l <;> simp [ht, h]
    simp only [tagOf, List.find?_append, hnew, hkeep, Option.none_or]

/-- A line taken over is plain for its new key. -/
theorem plain_rekeyLine_same (s : State) (key line : Nat) : Plain (rekeyLine s key line) key line := by
  unfold rekeyLine
  split
  · rename_i h
    simpa [Plain] using h
  · refine Or.inl ?_
    have hnone : (s.tags.filter fun t => t.line != line).find? (fun t => t.line == line) = none := by simp
    by_cases hk : key = 0
    · simp only [tagOf, hk, if_true, List.nil_append, hnone]
      rfl
    · simp [tagOf, hk, LineTag.plainFor]

/-- Another line taken over leaves a plain line plain. -/
theorem plain_rekeyLine {s : State} {key line l : Nat} (h : Plain s key l) : Plain (rekeyLine s key line) key l := by
  by_cases hl : l = line
  · exact hl ▸ plain_rekeyLine_same s key line
  · rwa [Plain, tagOf_rekeyLine_ne hl]

/-- A line taken over reads, under its new key, as that key read it before (R492). -/
theorem homeByte_rekeyLine {s : State} {key line : Nat} (hs : s.mem.wf = true) (b : Nat) :
    homeByte (rekeyLine s key line) key b = homeByte s key b := by
  by_cases hb : b / 256 = line
  · rw [homeByte_of_plain (hb ▸ plain_rekeyLine_same s key line)]
    unfold rekeyLine
    split
    · rename_i h
      exact (homeByte_of_plain (by simpa [Plain, hb] using h)).symm
    · rw [Mem.get_write _ _ _ 0 _ hs, homeRead_length, if_pos (by omega), homeRead_getD _ _ _ _ _ (by omega)]
      exact congrArg _ (by omega)
  · refine homeByte_congr (tagOf_rekeyLine_ne hb) fun c hc => ?_
    unfold rekeyLine
    split
    · rfl
    · rw [Mem.get_write _ _ _ 0 _ hs, homeRead_length, if_neg (by omega)]

/-- Lines taken over one after another: every one is plain for the key in the end, and the key reads what it read. -/
theorem rekeyLines_spec (key : Nat) : ∀ (ls : List Nat) (s : State), s.mem.wf = true →
    (∀ l, l ∈ ls ∨ Plain s key l → Plain (ls.foldl (fun s l => rekeyLine s key l) s) key l) ∧
    ∀ b, homeByte (ls.foldl (fun s l => rekeyLine s key l) s) key b = homeByte s key b
  | [], _, _ => ⟨fun _ h => h.resolve_left List.not_mem_nil, fun _ => rfl⟩
  | x :: ls, s, hs => by
    obtain ⟨hplain, hread⟩ := rekeyLines_spec key ls (rekeyLine s key x) (rekeyLine_wf s key x hs)
    refine ⟨fun l h => hplain l ?_, fun b => (hread b).trans (homeByte_rekeyLine hs b)⟩
    rcases h with h | h
    · rcases List.mem_cons.mp h with rfl | h
      · exact .inr (plain_rekeyLine_same s key l)
      · exact .inl h
    · exact .inr (plain_rekeyLine h)

/-- Bytes written into memory, where every line they meet is plain for the key. -/
theorem homeByte_of_write {t u : State} {key a : Nat} {bs : List Byte} (ht : t.mem.wf = true)
    (hplain : ∀ l ∈ linesOf a bs.length, Plain t key l) (htags : u.tags = t.tags) (hmem : u.mem = t.mem.write a bs)
    (b : Nat) : homeByte u key b = if a ≤ b ∧ b < a + bs.length then bs.getD (b - a) 0 else homeByte t key b := by
  have htag (l : Nat) : tagOf u l = tagOf t l := by rw [tagOf, htags, tagOf]
  have hget (c : Nat) := Mem.get_write a c bs 0 t.mem ht
  by_cases hl : b / 256 ∈ linesOf a bs.length
  · have hp := hplain _ hl
    rw [homeByte_of_plain hp, homeByte_of_plain (by rwa [Plain, htag]), hmem, hget]
  · rw [if_neg fun hb => hl (mem_linesOf hb)]
    refine homeByte_congr (htag _) fun c hc => ?_
    rw [hmem, hget, if_neg fun hb => hl (hc ▸ mem_linesOf hb)]

/-- A write at the home reads back under its key, and every other byte reads under that key as before. -/
theorem homeByte_homeWrite {s : State} {key a : Nat} {comp : Bool} {bs : List Byte} (hs : s.mem.wf = true)
    (ha : (poolOf a).isMemory = true) (b : Nat) : homeByte (homeWrite s key comp a bs) key b =
      if a ≤ b ∧ b < a + bs.length then bs.getD (b - a) 0 else homeByte s key b := by
  unfold homeWrite
  split
  · rename_i h
    have hbs : bs = [] := by simpa [ha] using h
    rw [hbs, if_neg (by simp)]
  · obtain ⟨hplain, hread⟩ := rekeyLines_spec key (linesOf a bs.length) s hs
    have hwf := rekeyLines_wf key (linesOf a bs.length) s hs
    rw [← hread b]
    generalize (linesOf a bs.length).foldl (fun s l => rekeyLine s key l) s = t at hplain hwf
    dsimp only
    refine homeByte_of_write hwf (fun l hl => hplain l (.inl hl)) ?_ ?_ b
    · rw [noteMeta]
    · rw [noteMeta]

/-! ## Lead registers -/

/-- A register file reads back what is written, and every other register as before. -/
theorem vget_vset {α : Type} {n : Nat} (v : Vector α (n + 1)) {i j : Nat} (hi : i < n + 1) (hj : j < n + 1) (x : α) :
    vget (vset v i x) j = if j = i then x else vget v j := by
  simp only [vget, vset, hi, hj, dif_pos, Vector.getElem_set, eq_comm]

/-- A lead register after a write to one: s0 discards what is written and reads 0 (R7). -/
theorem sreg_writes (s : State) (d a : Reg) (x : Word) :
    (writes d x s).me.sreg a = if a = 0 then 0 else if a = d then x else s.me.sreg a := by
  simp only [Runner.sreg, writes_me, sregSet]
  by_cases ha : a = 0
  · rw [if_pos ha, if_pos ha]
  · rw [if_neg ha, if_neg ha, if_neg ha]
    by_cases hd : d = 0
    · rw [if_pos hd, if_neg (hd ▸ ha)]
    · rw [if_neg hd, vget_vset _ d.isLt a.isLt]
      simp only [BitVec.toNat_inj]

end Sys2Proof.Machine

namespace Sys2Proof

open Sys2Proof.Machine

/-- Settles O58: a line taken over reads under its new key as before, and the write then acts on plain lines. -/
theorem writesReadBack : Obligations.WritesReadBack := by
  unfold Obligations.WritesReadBack
  refine ⟨fun s key a comp bs hs ha => ⟨homeWrite_wf s key comp a bs hs, homeByte_homeWrite hs ha⟩,
    fun m n hm hn h => Mem.ext_of_wfFrom m n 0 0 hm hn h, ?_⟩
  rintro s d a x _ rfl
  exact sreg_writes s d a x

end Sys2Proof

/-! # The hard-wired register (R7)

O60. A step keeps s0 at 0 in every runner because each function of the model that a step is made of does. The lemmas below
go through those functions in the order of the model's files, one for each, and a proof has the shape of the function that it
speaks of. Their names tell the kind of the function: `f_hardwired` for a change of the state, `f_runnerOk` for a change of a
runner, `f_keeps` for an operation, `f_steps` for a step. A function that leaves the runners alone needs `HardwiredOk.frame`,
one that writes a register `RunnerOk.setReg`; the snapshots of attempts are registers, too, and the runners of saved squads
and checkpoints come back by them. -/

namespace Sys2Proof

open Sys2Proof.Machine

-- The model's own tests above are slow to check, and lemmas elaborated ahead of them would each hold a thread.
set_option Elab.async false

/-! ## Register files -/

/-- A write to a register file leaves s0 (R7). -/
theorem vget_sregSet_zero (v : Vector Word 64) (d : Reg) (x : Word) : vget (sregSet v d x) 0 = vget v 0 := by
  unfold sregSet
  split
  · rfl
  · rename_i hd
    have hne : d.toNat ≠ 0 := fun h0 => hd (BitVec.eq_of_toNat_eq h0)
    simp [vget, vset, d.isLt, hne]

namespace RunnerOk

variable {q r : Runner}

/-- A runner with the registers and the snapshot of one whose s0 is 0. -/
theorem frame (h : RunnerOk r) (hs : q.s = r.s := by exact rfl) (ht : q.tx.snapS = r.tx.snapS := by exact rfl) :
    RunnerOk q := by
  unfold RunnerOk
  rwa [hs, ht]

/-- A runner that differs by a write to a register. -/
theorem setReg {d : Reg} {x : Word} (h : RunnerOk r) (hs : q.s = sregSet r.s d x := by exact rfl)
    (ht : q.tx.snapS = r.tx.snapS := by exact rfl) : RunnerOk q := by
  unfold RunnerOk
  rwa [hs, ht, vget_sregSet_zero]

/-- The clocks that an attempt has run are no register. The number stays a variable here, since the kernel would count
the numeral 65536 of the model down. -/
theorem withRan (h : RunnerOk r) (n : Nat) :
    RunnerOk { r with tx := { r.tx with ran := r.tx.ran - n } } := h.frame

theorem withLanes (h : RunnerOk r) (l : Lanes) : RunnerOk { r with l := l } := h.frame

theorem seated (h : RunnerOk r) (core slot : Nat) : RunnerOk { r with core := core, slot := slot } := h.frame

theorem ite {p : Prop} [Decidable p] (hq : RunnerOk q) (hr : RunnerOk r) : RunnerOk (if p then q else r) := by
  split <;> assumption

end RunnerOk

/-! ## States -/

/-- s0 is 0 in every runner of a list. -/
def AllOk (l : List Runner) : Prop := ∀ r ∈ l, RunnerOk r

namespace AllOk

variable {l l' : List Runner}

theorem nil : AllOk [] := fun _ h => absurd h List.not_mem_nil

theorem cons {r : Runner} (hr : RunnerOk r) (h : AllOk l) : AllOk (r :: l) := List.forall_mem_cons.mpr ⟨hr, h⟩

theorem map {f : Runner → Runner} (hf : ∀ r, RunnerOk r → RunnerOk (f r)) (h : AllOk l) : AllOk (l.map f) := by
  intro r hr
  obtain ⟨x, hx, rfl⟩ := List.mem_map.mp hr
  exact hf x (h x hx)

theorem mapIf {p : Runner → Bool} {f : Runner → Runner} (hf : ∀ r, RunnerOk r → RunnerOk (f r)) (h : AllOk l) :
    AllOk (Machine.mapIf p f l) :=
  h.map fun r hr => .ite (hf r hr) hr

theorem filter {p : Runner → Bool} (h : AllOk l) : AllOk (l.filter p) := fun r hr => h r (List.mem_of_mem_filter hr)

theorem append (h : AllOk l) (h' : AllOk l') : AllOk (l ++ l') := fun r hr => (List.mem_append.mp hr).elim (h r) (h' r)

theorem insertBy {k : Runner → Nat} {r : Runner} (hr : RunnerOk r) (h : AllOk l) : AllOk (Machine.insertBy k r l) := by
  induction l with
  | nil => exact .cons hr .nil
  | cons x l ih =>
    obtain ⟨hx, hl⟩ := List.forall_mem_cons.mp h
    unfold Machine.insertBy
    split
    · exact .cons hr h
    · exact .cons hx (ih hl)

theorem sortBy {k : Runner → Nat} (h : AllOk l) : AllOk (Machine.sortBy k l) := by
  induction l with
  | nil => exact .nil
  | cons x l ih =>
    obtain ⟨hx, hl⟩ := List.forall_mem_cons.mp h
    exact insertBy hx (ih hl)

theorem mapZipIdx {f : Runner × Nat → Runner} (hf : ∀ r n, RunnerOk r → RunnerOk (f (r, n))) (h : AllOk l) :
    AllOk (l.zipIdx.map f) := by
  intro r hr
  obtain ⟨p, hp, rfl⟩ := List.mem_map.mp hr
  exact hf p.1 p.2 (h p.1 (List.fst_mem_of_mem_zipIdx hp))

/-- Runners that are made from something else. -/
theorem ofMap {α : Type} {f : α → Runner} {m : List α} (hf : ∀ x, RunnerOk (f x)) : AllOk (m.map f) := by
  intro r hr
  obtain ⟨x, -, rfl⟩ := List.mem_map.mp hr
  exact hf x

theorem ofFlatMap {α : Type} {f : α → List Runner} {m : List α} (hf : ∀ x, AllOk (f x)) : AllOk (m.flatMap f) := by
  intro r hr
  obtain ⟨x, -, hx⟩ := List.mem_flatMap.mp hr
  exact hf x r hx

end AllOk

namespace HardwiredOk

variable {s t : State}

/-- The invariant by the places where runners stand. -/
theorem iff : HardwiredOk s ↔
    RunnerOk s.me ∧ AllOk s.others ∧ (∀ v ∈ s.saved, AllOk v.groups) ∧ ∀ c ∈ s.cksaves, AllOk c.groups := by
  unfold HardwiredOk State.everyRunner State.runners AllOk
  constructor
  · intro h
    simp only [List.mem_append, List.mem_cons, List.mem_flatMap] at h
    exact ⟨h _ (.inl (.inl (.inl rfl))), fun r hr => h r (.inl (.inl (.inr hr))),
      fun v hv r hr => h r (.inl (.inr ⟨v, hv, hr⟩)), fun c hc r hr => h r (.inr ⟨c, hc, hr⟩)⟩
  · rintro ⟨hme, ho, hv, hc⟩ r hr
    simp only [List.mem_append, List.mem_cons, List.mem_flatMap] at hr
    rcases hr with ((rfl | hr) | ⟨v, hv', hr⟩) | ⟨c, hc', hr⟩
    · exact hme
    · exact ho r hr
    · exact hv v hv' r hr
    · exact hc c hc' r hr

theorem me (h : HardwiredOk s) : RunnerOk s.me := (iff.mp h).1

theorem others (h : HardwiredOk s) : AllOk s.others := (iff.mp h).2.1

theorem saved (h : HardwiredOk s) : ∀ v ∈ s.saved, AllOk v.groups := (iff.mp h).2.2.1

theorem cksaves (h : HardwiredOk s) : ∀ c ∈ s.cksaves, AllOk c.groups := (iff.mp h).2.2.2

theorem runners (h : HardwiredOk s) : AllOk s.runners := by
  intro r hr
  rcases List.mem_cons.mp hr with rfl | hr
  · exact h.me
  · exact h.others r hr

/-- A state with the runners of one that keeps s0 at 0. -/
theorem frame (h : HardwiredOk s) (hm : t.me = s.me := by exact rfl) (ho : t.others = s.others := by exact rfl)
    (hv : t.saved = s.saved := by exact rfl) (hc : t.cksaves = s.cksaves := by exact rfl) : HardwiredOk t := by
  rw [iff, hm, ho, hv, hc]
  exact iff.mp h

/-- The same, the other state read off the equations. -/
theorem of (e : t.me = s.me ∧ t.others = s.others ∧ t.saved = s.saved ∧ t.cksaves = s.cksaves) (h : HardwiredOk s) :
    HardwiredOk t := h.frame e.1 e.2.1 e.2.2.1 e.2.2.2

theorem withParts (h : HardwiredOk s) (l : List Part) : HardwiredOk { s with parts := l } := h.frame

/-- The same with another runner in focus. -/
theorem withMe (h : HardwiredOk s) (hm : RunnerOk t.me) (ho : t.others = s.others := by exact rfl)
    (hv : t.saved = s.saved := by exact rfl) (hc : t.cksaves = s.cksaves := by exact rfl) : HardwiredOk t := by
  rw [iff, ho, hv, hc]
  exact ⟨hm, (iff.mp h).2⟩

/-- The same with another runner in focus that has the registers and the snapshot of the one before. -/
theorem frameMe (h : HardwiredOk s) (hr : t.me.s = s.me.s := by exact rfl)
    (hx : t.me.tx.snapS = s.me.tx.snapS := by exact rfl) (ho : t.others = s.others := by exact rfl)
    (hv : t.saved = s.saved := by exact rfl) (hc : t.cksaves = s.cksaves := by exact rfl) : HardwiredOk t :=
  h.withMe (h.me.frame hr hx) ho hv hc

/-- The same with other runners that run. -/
theorem withRunners (h : HardwiredOk s) (hm : RunnerOk t.me) (ho : AllOk t.others)
    (hv : t.saved = s.saved := by exact rfl) (hc : t.cksaves = s.cksaves := by exact rfl) : HardwiredOk t := by
  rw [iff, hv, hc]
  exact ⟨hm, ho, (iff.mp h).2.2⟩

/-- The same with no more saved squads and checkpoints. -/
theorem withSaves (h : HardwiredOk s) (hv : ∀ v ∈ t.saved, v ∈ s.saved) (hc : ∀ c ∈ t.cksaves, c ∈ s.cksaves)
    (hm : t.me = s.me := by exact rfl) (ho : t.others = s.others := by exact rfl) : HardwiredOk t := by
  rw [iff, hm, ho]
  exact ⟨h.me, h.others, fun v hv' => h.saved v (hv v hv'), fun c hc' => h.cksaves c (hc c hc')⟩

/-- The same with a saved squad more. -/
theorem withSaved {v : Saved} (h : HardwiredOk s) (hg : AllOk v.groups) (hv : t.saved = s.saved ++ [v] := by exact rfl)
    (hm : t.me = s.me := by exact rfl) (ho : t.others = s.others := by exact rfl)
    (hc : t.cksaves = s.cksaves := by exact rfl) : HardwiredOk t := by
  rw [iff, hm, ho, hv, hc]
  refine ⟨h.me, h.others, fun x hx => ?_, h.cksaves⟩
  rcases List.mem_append.mp hx with hx | hx
  · exact h.saved x hx
  · exact List.mem_singleton.mp hx ▸ hg

/-- The same with a checkpoint added and others given up. -/
theorem withCkSave {c : CkSave} {l : List CkSave} (h : HardwiredOk s) (hg : AllOk c.groups)
    (hl : ∀ k ∈ l, AllOk k.groups) (hc : t.cksaves = c :: l := by exact rfl)
    (hm : t.me = s.me := by exact rfl) (ho : t.others = s.others := by exact rfl)
    (hv : t.saved = s.saved := by exact rfl) : HardwiredOk t := by
  rw [iff, hm, ho, hv, hc]
  exact ⟨h.me, h.others, h.saved, List.forall_mem_cons.mpr ⟨hg, hl⟩⟩

theorem ite {p : Prop} [Decidable p] (hs : HardwiredOk s) (ht : HardwiredOk t) : HardwiredOk (if p then s else t) := by
  split <;> assumption

/-- Steps that keep the invariant keep it one after another. -/
theorem foldl {α : Type} {f : State → α → State} {l : List α} (hf : ∀ s x, HardwiredOk s → HardwiredOk (f s x))
    (h : HardwiredOk s) : HardwiredOk (l.foldl f s) := by
  induction l generalizing s with
  | nil => exact h
  | cons x l ih => exact ih (hf s x h)

/-- Steps that may fail, one after another. -/
theorem foldlBind {α : Type} {f : State → α → Option State} {l : List α}
    (hf : ∀ s x t, HardwiredOk s → f s x = some t → HardwiredOk t) (h : HardwiredOk s)
    (ht : l.foldl (fun o x => o.bind fun s => f s x) (some s) = some t) : HardwiredOk t := by
  induction l generalizing s with
  | nil => exact Option.some.inj ht ▸ h
  | cons x l ih =>
    rw [List.foldl_cons, Option.bind_some] at ht
    cases hx : f s x with
    | none =>
      have hn : ∀ l : List α, l.foldl (fun o x => o.bind fun s => f s x) none = none := by
        intro l
        induction l with
        | nil => rfl
        | cons x l ih => exact ih
      rw [hx, hn] at ht
      cases ht
    | some u => exact ih (hf s x u h hx) (hx ▸ ht)

end HardwiredOk

/-! ## Operations -/

/-- What an operation that stops leaves to be done keeps s0 at 0. -/
def StopOk : Stop → Prop
  | .park f => ∀ s, HardwiredOk s → HardwiredOk (f s)
  | _ => True

/-- From a state where s0 is 0 in every runner an operation answers such a state, with a value that `Q` holds of, or it
stops and keeps it so. -/
def KeepsTo {α : Type} (Q : α → Prop) (m : Op α) : Prop :=
  ∀ s, HardwiredOk s → match m.run s with
    | .ok (x, t) => HardwiredOk t ∧ Q x
    | .error e => StopOk e

/-- An operation keeps s0 at 0, whatever its value. -/
abbrev Keeps {α : Type} (m : Op α) : Prop := KeepsTo (fun _ => True) m

namespace KeepsTo

variable {α β : Type} {Q : α → Prop} {R : β → Prop}

theorem ok {m : Op α} {s t : State} {x : α} (hm : KeepsTo Q m) (h : HardwiredOk s) (hr : m.run s = .ok (x, t)) :
    HardwiredOk t ∧ Q x := by
  have := hm s h
  rwa [hr] at this

theorem error {m : Op α} {s : State} {e : Stop} (hm : KeepsTo Q m) (h : HardwiredOk s) (hr : m.run s = .error e) :
    StopOk e := by
  have := hm s h
  rwa [hr] at this

theorem pure {x : α} (hx : Q x := by trivial) : KeepsTo Q (Pure.pure x) := fun _ h => ⟨h, hx⟩

theorem bind {m : Op α} {f : α → Op β} (hm : KeepsTo Q m) (hf : ∀ x, Q x → KeepsTo R (f x)) :
    KeepsTo R (m >>= f) := by
  intro s h
  rw [run_bind]
  have hm := hm s h
  rcases hr : m.run s with e | ⟨x, t⟩
  · rwa [hr] at hm
  · rw [hr] at hm
    exact hf x hm.2 t hm.1

/-- What follows an operation whose value does not matter. -/
theorem next {m : Op α} {f : α → Op β} (hm : Keeps m) (hf : ∀ x, KeepsTo R (f x)) : KeepsTo R (m >>= f) :=
  hm.bind fun x _ => hf x

theorem get {f : State → Op β} (hf : ∀ s, HardwiredOk s → KeepsTo R (f s)) : KeepsTo R (MonadState.get >>= f) := by
  intro s h
  rw [run_bind]
  exact hf s h s h

theorem set {t : State} (h : HardwiredOk t) : Keeps (MonadStateOf.set t : Op PUnit) := fun _ _ => ⟨h, trivial⟩

theorem update {f : State → State} (hf : ∀ s, HardwiredOk s → HardwiredOk (f s)) : Keeps (modify f : Op PUnit) :=
  fun s h => ⟨hf s h, trivial⟩

theorem throw {e : Stop} (he : StopOk e := by trivial) : KeepsTo Q (MonadExcept.throw e : Op α) := fun _ _ => he

theorem throwBind {e : Stop} {f : α → Op β} (he : StopOk e := by trivial) :
    KeepsTo R ((MonadExcept.throw e : Op α) >>= f) := fun _ _ => he

/-- An operation whose stops become others that leave nothing to be done. -/
theorem changeStop {m n : Op α} (hm : KeepsTo Q m)
    (hn : ∀ s, n.run s = m.run s ∨ ∃ e, n.run s = .error e ∧ StopOk e) : KeepsTo Q n := by
  intro s h
  rcases hn s with hs | ⟨e, hs, he⟩
  · rw [hs]
    exact hm s h
  · rw [hs]
    exact he

theorem ite {p : Prop} [Decidable p] {m n : Op α} (hm : KeepsTo Q m) (hn : KeepsTo Q n) :
    KeepsTo Q (if p then m else n) := by
  split <;> assumption

end KeepsTo

/-- The answer of a step, where it is a next state, keeps s0 at 0. -/
def ResultOk (r : Result) : Prop := ∀ t, r = .next t → HardwiredOk t

namespace ResultOk

theorem next {t : State} (h : HardwiredOk t) : ResultOk (.next t) := fun _ ht => Host.Outcome.next.inj ht ▸ h

theorem fault {f : Fault} : ResultOk (.fault f) := fun _ ht => nomatch ht

theorem ite {p : Prop} [Decidable p] {r r' : Result} (hr : ResultOk r) (hr' : ResultOk r') :
    ResultOk (if p then r else r') := by
  split <;> assumption

end ResultOk

/-- A kind of step keeps s0 at 0. -/
def Steps (f : State → Result) : Prop := ∀ s, HardwiredOk s → ResultOk (f s)

end Sys2Proof

namespace Sys2Proof

open Sys2Proof.Machine

set_option Elab.async false

/-! ## Sys2Proof/Machine/State.lean -/

theorem zero_runnerOk {who : RunnerId} : RunnerOk (Runner.zero who) := ⟨rfl, rfl⟩

theorem hostReset_runnerOk : RunnerOk (Runner.hostReset n) := (zero_runnerOk (who := .host n)).frame

theorem reset_hardwired : HardwiredOk State.reset := by
  refine HardwiredOk.iff.mpr ⟨hostReset_runnerOk, fun r hr => ?_, nofun, nofun⟩
  obtain ⟨n, -, rfl⟩ := List.mem_map.mp hr
  exact hostReset_runnerOk

/-! ## Sys2Proof/Machine/Mem.lean -/

theorem rekeyLine_hardwired (h : HardwiredOk s) : HardwiredOk (rekeyLine s key line) := .ite h h.frame

theorem noteMeta_hardwired (h : HardwiredOk s) : HardwiredOk (noteMeta comp lines s) := h.frame

theorem homeWrite_hardwired (h : HardwiredOk s) : HardwiredOk (homeWrite s key comp a bs) :=
  .ite h (noteMeta_hardwired (.of ⟨rfl, rfl, rfl, rfl⟩ (.foldl (fun _ _ hs => rekeyLine_hardwired hs) h)))

theorem badAddr_hardwired (h : HardwiredOk s) : HardwiredOk (badAddr s) := h.frame

theorem countHot_hardwired (h : HardwiredOk s) : HardwiredOk (countHot s pa) := by
  unfold countHot
  split
  · exact h
  · exact .ite h.frame h

theorem countRange_hardwired (h : HardwiredOk s) : HardwiredOk (countRange s a n) :=
  .ite h (.foldl (fun _ _ hs => countHot_hardwired hs) h)

theorem abortFinal_runnerOk (hr : RunnerOk r) : RunnerOk (Runner.abortFinal code detail r) :=
  ⟨(vget_sregSet_zero _ _ _).trans hr.2, rfl⟩

theorem rollback_runnerOk (hr : RunnerOk r) : RunnerOk (Runner.rollback counted r) := ⟨hr.2, hr.2⟩

theorem conflict_runnerOk (hr : RunnerOk r) : RunnerOk (Runner.conflict r) :=
  .ite (abortFinal_runnerOk hr) (rollback_runnerOk hr)

theorem onRunner_hardwired (h : HardwiredOk s) (hf : ∀ r, RunnerOk r → RunnerOk (f r)) :
    HardwiredOk (State.onRunner s who f) :=
  h.withRunners (.ite (hf _ h.me) h.me) (.mapIf (fun _ hr => hf _ hr) h.others)

theorem conflictAt_hardwired (h : HardwiredOk s) : HardwiredOk (conflictAt s who) := by
  unfold conflictAt
  split
  · exact h
  · rename_i r hr
    have hr' : RunnerOk r.conflict := conflict_runnerOk (h.runners r (List.mem_of_find?_eq_some hr))
    exact .ite (onRunner_hardwired h fun _ _ => hr').frame h

theorem doom_runnerOk (hr : RunnerOk r) : RunnerOk (Runner.doom line r) := by
  unfold Runner.doom
  split
  · exact hr
  · exact hr.frame

theorem doomLine_hardwired (h : HardwiredOk s) : HardwiredOk (doomLine s line) :=
  h.withRunners (doom_runnerOk h.me) (.map (fun _ hr => doom_runnerOk hr) h.others)

theorem touch_hardwired (h : HardwiredOk s) : HardwiredOk (touch s by_ plain write a n) :=
  .ite (.foldl (fun _ _ hs => .ite (doomLine_hardwired (.foldl (fun _ _ hs1 => conflictAt_hardwired hs1) hs))
    (.foldl (fun _ _ hs1 => conflictAt_hardwired hs1) hs)) h) h

theorem physWrite_hardwired (h : HardwiredOk s) : HardwiredOk (physWrite a bs s) :=
  .ite (badAddr_hardwired h) (countRange_hardwired (touch_hardwired (homeWrite_hardwired h)))

theorem arrive_hardwired (h : HardwiredOk s) : HardwiredOk (arrive s w) :=
  countRange_hardwired (.ite (.foldl (fun _ _ hs => doomLine_hardwired hs) (homeWrite_hardwired h)) (touch_hardwired
    (homeWrite_hardwired h)))

theorem seeAll_hardwired (h : HardwiredOk s) : HardwiredOk (seeAll s p) :=
  .foldl (fun _ _ hs => touch_hardwired hs) h.frame

theorem arriveAll_hardwired (h : HardwiredOk s) : HardwiredOk (arriveAll s p) :=
  .foldl (fun _ _ hs => arrive_hardwired hs) ((seeAll_hardwired h).frame)

theorem drainDie_hardwired (h : HardwiredOk s) : HardwiredOk (drainDie s by_ die) := arriveAll_hardwired h

theorem drainSectors_hardwired (h : HardwiredOk s) : HardwiredOk (drainSectors s by_ die a n) := arriveAll_hardwired h

/-! ## Sys2Proof/Machine/Translate.lean -/

theorem walkReads_hardwired (h : HardwiredOk s) : HardwiredOk (walkReads s r va) := by
  unfold walkReads
  split
  · exact h
  · exact .ite h (.foldl (fun _ _ hs => .ite (badAddr_hardwired hs) (countRange_hardwired (touch_hardwired hs))) h)

theorem faultWalk_hardwired (h : HardwiredOk s) : HardwiredOk (faultWalk cause a r s) :=
  .ite (walkReads_hardwired h) h

theorem orLeaf_hardwired (h : HardwiredOk s) : HardwiredOk (orLeaf s r addr write) :=
  .ite (countRange_hardwired (drainSectors_hardwired h)) (touch_hardwired (homeWrite_hardwired (countRange_hardwired
    (drainSectors_hardwired h))))

theorem markAccess_hardwired (h : HardwiredOk s) : HardwiredOk (markAccess s r t write) :=
  .ite h (by
    split
    · exact h
    · exact .of ⟨rfl, rfl, rfl, rfl⟩ (.ite (walkReads_hardwired h) (orLeaf_hardwired (walkReads_hardwired h))))

theorem invalidate_hardwired (h : HardwiredOk s) : HardwiredOk (invalidate s p q) :=
  h.withRunners h.me.frame (.map (fun _ hr => hr.frame) h.others)

/-! ## Sys2Proof/Machine/Image.lean -/

theorem fromImage_runnerOk : RunnerOk (Runner.fromImage v locker low r) := by simp [RunnerOk, Runner.fromImage, vget]

theorem txRestart_runnerOk (hr : RunnerOk r) : RunnerOk (Runner.txRestart r) :=
  .ite (rollback_runnerOk (counted := false) hr).frame hr

theorem setAside_runnerOk (hr : RunnerOk r) : RunnerOk (Runner.setAside r) := .ite ⟨(txRestart_runnerOk hr).1, rfl⟩ hr

theorem takeBack_runnerOk (hr : RunnerOk r) : RunnerOk (Runner.takeBack r) := by
  unfold Runner.takeBack
  split
  · exact .ite hr ⟨hr.1, hr.1⟩
  · exact hr

theorem atRest_runnerOk (hr : RunnerOk r) : RunnerOk (Runner.atRest r) := (txRestart_runnerOk hr).frame

theorem ckGroup_runnerOk : RunnerOk (ckGroup s a t r) := fromImage_runnerOk

/-! ## Sys2Proof/Machine/End.lean -/

theorem notify_hardwired (h : HardwiredOk s) : HardwiredOk (notify n kind src s) :=
  onRunner_hardwired h (fun _ hr => hr.frame)

theorem settleClk_hardwired (h : HardwiredOk s) : HardwiredOk (settleClk s) := .ite h h.frame

theorem reclaimAll_hardwired (h : HardwiredOk s) : HardwiredOk (reclaimAll p s) :=
  settleClk_hardwired (h.withRunners (.ite h.me.frame h.me) (.map (fun _ hr => .ite hr.frame hr) h.others))

theorem reclaimCtx_hardwired (h : HardwiredOk s) : HardwiredOk (reclaimCtx n s) := reclaimAll_hardwired h

theorem dropReads_hardwired (h : HardwiredOk s) : HardwiredOk (dropReads who s) := .ite h h.frame

theorem dropRunners_hardwired (h : HardwiredOk s) : HardwiredOk (dropRunners p s) := by
  have ho : AllOk (s.others.filter fun r => !p r) := h.others.filter
  unfold dropRunners
  refine .ite ?_ (h.withRunners h.me ho)
  split
  · exact h.withRunners h.me.frame .nil
  · rename_i r rs heq
    obtain ⟨hr, hrs⟩ := List.forall_mem_cons.mp (heq ▸ ho)
    exact h.withRunners hr hrs

theorem sweepTeams_hardwired (h : HardwiredOk s) : HardwiredOk (sweepTeams s) :=
  h.withSaves (fun _ hv => hv) fun _ hc => List.mem_of_mem_filter hc

theorem countExit_hardwired (h : HardwiredOk s) : HardwiredOk (countExit team s) := sweepTeams_hardwired h.frame

theorem discardGrids_hardwired (h : HardwiredOk s) : HardwiredOk (discardGrids p stay s) := by
  unfold discardGrids
  refine dropRunners_hardwired (h.withSaves ?_ ?_ rfl rfl)
  · exact fun _ hv => List.mem_of_mem_filter hv
  · exact fun _ hc => List.mem_of_mem_filter hc

theorem endGrid_hardwired (hok : HardwiredOk s) : HardwiredOk (endGrid h status code s) := by
  unfold endGrid
  exact discardGrids_hardwired hok.frame

theorem finishEnds_hardwired (h : HardwiredOk s) : HardwiredOk (finishEnds s) :=
  .foldl (fun _ _ hs => .ite (notify_hardwired hs.frame) hs) h

theorem unbind_runnerOk (hr : RunnerOk r) : RunnerOk (Runner.unbind r) := (txRestart_runnerOk hr).frame

theorem endContext_hardwired (h : HardwiredOk s) : HardwiredOk (endContext n s) := by
  unfold endContext
  refine finishEnds_hardwired (HardwiredOk.frame (s := List.foldl _ _ _) ?_ rfl rfl rfl rfl)
  exact .foldl (fun _ _ hs => (onRunner_hardwired hs fun _ => unbind_runnerOk).frame)
    (reclaimCtx_hardwired (discardGrids_hardwired h))

theorem raiseHalt_hardwired (hok : HardwiredOk s) : HardwiredOk (raiseHalt part h s) := hok.frame

theorem rollbackTeam_hardwired (h : HardwiredOk s) : HardwiredOk (rollbackTeam c k s) := by
  have hsaved : AllOk (k.groups.map (ckGroup s c.valid k.team)) := by
    intro r hr
    obtain ⟨x, -, rfl⟩ := List.mem_map.mp hr
    exact ckGroup_runnerOk
  have hback : ∀ r, RunnerOk r →
      RunnerOk (match (k.groups.map (ckGroup s c.valid k.team)).find? fun g => g.id == r.id with
      | some g => { g with core := r.core, slot := r.slot }
      | none => r) := by
    intro r hr
    split
    · rename_i g hg
      exact (hsaved g (List.mem_of_find?_eq_some hg)).frame
    · exact hr
  have hs : HardwiredOk (s.runners.foldl (fun u r =>
      if r.team = (ckTeam s c.valid k.team).uid then { u with wicket := u.wicket.release r.id } else u) s) :=
    .foldl (fun _ _ hs => .ite hs.frame hs) h
  exact hs.withRunners (hback _ h.me) ((h.others.map hback).append hsaved.filter)

theorem focus_hardwired (h : HardwiredOk s) (hf : focus who s = some t) : HardwiredOk t := by
  unfold focus at hf
  split at hf
  · exact Option.some.inj hf ▸ h
  · obtain ⟨r, hr, rfl⟩ := Option.map_eq_some_iff.mp hf
    exact h.withRunners (h.others r (List.mem_of_find?_eq_some hr)) (h.others.mapIf fun _ _ => h.me)

theorem asRunner_hardwired (hf : ∀ s, HardwiredOk s → HardwiredOk (f s)) (h : HardwiredOk s) :
    HardwiredOk (asRunner who f s) := by
  unfold asRunner
  split
  · exact h
  · rename_i t ht
    have hft : HardwiredOk (f t) := hf t (focus_hardwired h ht)
    cases hb : focus s.me.id (f t) with
    | none => exact hft
    | some u => exact focus_hardwired hft hb

theorem haltGroup_hardwired (h : HardwiredOk s) : HardwiredOk (haltGroup cause addr lanes lpc s) :=
  h.frameMe

theorem settleRollback_hardwired (h : HardwiredOk s) : HardwiredOk (settleRollback uid s) := by
  unfold settleRollback
  split
  · split
    · exact h
    · split
      · exact h
      · exact .ite h (.ite (asRunner_hardwired (fun _ hs => haltGroup_hardwired hs) h.frame) (rollbackTeam_hardwired
            h))
  · exact h

theorem askRollback_hardwired (h : HardwiredOk s) : HardwiredOk (askRollback uid s) :=
  settleRollback_hardwired h.frameMe

theorem fatalGroup_hardwired (h : HardwiredOk s) : HardwiredOk (fatalGroup cause addr lanes lpc s) := by
  unfold fatalGroup
  dsimp only
  split
  · exact .ite (askRollback_hardwired h) (haltGroup_hardwired h)
  · exact haltGroup_hardwired h

/-! ## Sys2Proof/Machine/Ops.lean -/

theorem stopTrap_keeps {α : Type} {Q : α → Prop} : KeepsTo Q (stopTrap c a : Op α) := .throw

theorem need_keeps : Keeps (need c cause addr) := .ite .pure stopTrap_keeps

theorem readyIf_keeps : Keeps (readyIf c) := .ite .pure .throw

theorem hostTrap_runnerOk (hr : RunnerOk r) : RunnerOk (hostTrap cause addr epc r) := hr.frame

theorem hostInterrupt_runnerOk (hr : RunnerOk r) : RunnerOk (hostInterrupt w r) := (setAside_runnerOk hr).frame

theorem enter_runnerOk (hr : RunnerOk r) : RunnerOk (Runner.enter lane cause addr epc tvec vc frag lpc r) := hr.frame

theorem unhandled_hardwired (h : HardwiredOk s) : HardwiredOk (unhandled lane cause s) :=
  .ite (endGrid_hardwired (.ite h.frameMe h)) (endContext_hardwired h)

theorem undoClaim_hardwired (h : HardwiredOk s) : HardwiredOk (undoClaim s) := .ite h.frame h

theorem drainTrap_hardwired (h : HardwiredOk s) : HardwiredOk (drainTrap s) :=
  .ite h.frameMe ((arriveAll_hardwired h).frameMe)

theorem groupTrap_hardwired (h : HardwiredOk s) :
    HardwiredOk (groupTrap lane cause addr epc vc frag lpc s) := by
  have hu := undoClaim_hardwired h
  exact .ite (endContext_hardwired h) (.ite (fatalGroup_hardwired h) (.ite (unhandled_hardwired h) (drainTrap_hardwired
    (dropReads_hardwired (hu.withMe (enter_runnerOk (setAside_runnerOk hu.me)))))))

theorem hostReturn_runnerOk (hr : RunnerOk r) : RunnerOk (hostReturn r) := takeBack_runnerOk hr.frame

theorem groupReturn_runnerOk (hr : RunnerOk r) : RunnerOk (groupReturn r) := takeBack_runnerOk hr.frame

theorem takeTrap_hardwired (h : HardwiredOk s) : HardwiredOk (takeTrap cause addr epc s) :=
  .ite (dropReads_hardwired (h.withMe (hostTrap_runnerOk h.me))) (groupTrap_hardwired h)

theorem abortFinal_hardwired (h : HardwiredOk s) : HardwiredOk (abortFinal code detail s) :=
  h.withMe (abortFinal_runnerOk h.me)

theorem abortConflict_hardwired (h : HardwiredOk s) : HardwiredOk (abortConflict s) :=
  h.withMe (conflict_runnerOk h.me)

theorem leadTrap_hardwired (h : HardwiredOk s) : HardwiredOk (leadTrap cause addr epc s) := by
  have hw : HardwiredOk (faultWalk cause addr s.me s) := faultWalk_hardwired h
  unfold leadTrap
  dsimp only
  generalize faultWalk cause addr s.me s = u at hw ⊢
  refine .ite (takeTrap_hardwired hw) (.ite (abortConflict_hardwired hw) (.ite (takeTrap_hardwired
    (abortFinal_hardwired hw)) (HardwiredOk.frameMe (s := ite _ _ _) ?_ rfl rfl rfl rfl rfl)))
  exact .ite (abortFinal_hardwired hw) (abortFinal_hardwired hw)

theorem stopLead_hardwired (he : StopOk e) (h : HardwiredOk s) : HardwiredOk (stopLead e s) := by
  unfold stopLead
  split
  · exact leadTrap_hardwired h
  · exact leadTrap_hardwired h
  · exact leadTrap_hardwired h
  · exact leadTrap_hardwired h
  · exact h
  · exact he s h
  · exact abortFinal_hardwired h
  · exact abortConflict_hardwired h

theorem runLead_steps (hm : Keeps m) : Steps (runLead m) := by
  intro s h
  have hon : HardwiredOk { s with me := { s.me with pc := s.issue.next } } := h.frameMe
  unfold runLead
  split
  · rename_i hr
    exact .next (hm.ok hon hr).1
  · rename_i hr
    exact .next (stopLead_hardwired (hm.error hon hr) h)

theorem runEvent_steps (hm : Keeps m) : Steps (runEvent m) := by
  intro s h
  unfold runEvent
  split
  · rename_i hr
    exact .next (hm.ok h hr).1
  · rename_i f hr
    exact .next (hm.error h hr s h)
  · exact .next h

theorem getMe_keeps : KeepsTo RunnerOk getMe := fun _ h => ⟨h, h.me⟩

theorem onMe_keeps (hf : ∀ r, RunnerOk r → RunnerOk (f r)) : Keeps (onMe f) :=
  .update fun _ hs => hs.withMe (hf _ hs.me)

theorem reg_keeps : Keeps (reg a) := .get fun _ _ => .pure

theorem setReg_keeps : Keeps (setReg d x) := onMe_keeps (fun _ hr => hr.setReg)

theorem getXb_keeps : Keeps (getXb n) := .get fun _ _ => .pure

theorem needSup_keeps : Keeps needSup := .get fun _ _ => .get fun _ _ => need_keeps

theorem needGroup_keeps : Keeps needGroup := .get fun _ _ => .get fun _ _ => need_keeps

theorem notInTx_keeps : Keeps notInTx := .get fun _ _ => .ite .throw .pure

theorem needCtx_keeps : Keeps needCtx := .get fun _ _ => need_keeps

theorem needField_keeps : Keeps (needField c) := .get fun _ _ => need_keeps

theorem ordOf_keeps : Keeps ordOf :=
  .get fun _ _ => by
    split
    · exact .pure
    · exact .pure

theorem ordIn_keeps : Keeps (ordIn allowed) := .next ordOf_keeps fun _ => .next needField_keeps fun _ => .pure

theorem outAsk_hardwired (h : HardwiredOk s) : HardwiredOk (outAsk who ask grid pa n s) := h.frame

theorem outSpend_hardwired (h : HardwiredOk s) : HardwiredOk (outSpend who ask s) := .ite h h.frame

theorem outWrite_hardwired (h : HardwiredOk s) : HardwiredOk (outWrite who ask op grid pa key comp bs s) := h.frame

theorem performTickets_hardwired (h : HardwiredOk s) : HardwiredOk (performTickets p s) :=
  .foldl (fun _ _ hs => outSpend_hardwired (.ite (badAddr_hardwired (.foldl (fun _ _ hs1 => countRange_hardwired
    (touch_hardwired hs1)) hs)) (.foldl (fun _ _ hs1 => countRange_hardwired (touch_hardwired hs1)) hs))) h.frame

theorem performLine_hardwired (h : HardwiredOk s) : HardwiredOk (performLine id' k s) := by
  unfold performLine
  split
  · exact h
  · exact countRange_hardwired (touch_hardwired h.frame)

theorem releaseState_hardwired (h : HardwiredOk s) : HardwiredOk (releaseState scope s) :=
  .ite (drainDie_hardwired (performTickets_hardwired h)) (.ite (seeAll_hardwired (performTickets_hardwired h))
    (performTickets_hardwired h))

theorem releaseReady_keeps : Keeps (releaseReady scope order) :=
  .get fun _ _ => .next readyIf_keeps fun _ => readyIf_keeps

theorem before_keeps : Keeps (before scope order) :=
  .next releaseReady_keeps fun _ => .ite (.update fun _ hs => releaseState_hardwired hs) .pure

theorem scState_hardwired (h : HardwiredOk s) : HardwiredOk (scState scope s) :=
  .ite (arriveAll_hardwired (performTickets_hardwired h)) (.ite (seeAll_hardwired (performTickets_hardwired h))
    (performTickets_hardwired h))

theorem scDone_keeps : Keeps (scDone scope order) :=
  .ite (.get fun _ _ => .next readyIf_keeps fun _ => .next readyIf_keeps fun _ => .update fun _ hs1 =>
    scState_hardwired hs1) .pure

theorem markPageOf_keeps : Keeps (markPageOf r t write) :=
  .get fun _ _ => .next readyIf_keeps fun _ => .update fun _ hs1 => markAccess_hardwired hs1

theorem readOutside_keeps : Keeps (readOutside g ask pa n) :=
  .get fun _ _ => by
    split
    · exact .pure
    · exact .throw (fun _ hs1 => .ite (outAsk_hardwired hs1) hs1.frameMe)

theorem spendAnswers_keeps : Keeps (spendAnswers g) := .update fun _ hs => .ite hs ((outSpend_hardwired hs).frameMe)

theorem readAt_keeps : Keeps (readAt g t z) :=
  .get fun _ _ => .ite (.next readOutside_keeps fun _ => .next markPageOf_keeps fun _ => .pure)
    (.next readyIf_keeps fun _ => .next markPageOf_keeps fun _ => by
    split
    · exact .pure
    · exact .next (.update fun _ hs1 => badAddr_hardwired hs1) fun _ => .pure
    · exact .next (.update fun _ hs1 => countRange_hardwired (touch_hardwired hs1)) fun _ => .get fun _ _ => .pure)

theorem acceptBytes_hardwired (h : HardwiredOk s) : HardwiredOk (acceptBytes g pa slot comp bs s) :=
  .ite (outWrite_hardwired (performTickets_hardwired h)) (by
    split
    · exact .ite ((performTickets_hardwired h).frame) (performTickets_hardwired h)
    · exact badAddr_hardwired (performTickets_hardwired h)
    · exact .ite (arrive_hardwired (performTickets_hardwired h)) ((performTickets_hardwired h).frame))

theorem writeAt_keeps : Keeps (writeAt g t bs) :=
  .get fun _ _ => .next readyIf_keeps fun _ => .next markPageOf_keeps fun _ => .update fun _ hs1 =>
    acceptBytes_hardwired hs1

theorem atomicAt_keeps : Keeps (atomicAt g t z f) :=
  .get fun _ hs => .next readyIf_keeps fun _ => .ite (.next readAt_keeps fun _ => .pure) (.ite
    (.next readAt_keeps fun _ => .next writeAt_keeps fun _ => .pure) (.next readyIf_keeps fun _ => .next (.set
    (arrive_hardwired (drainSectors_hardwired (markAccess_hardwired (performTickets_hardwired hs))))) fun _ => .pure))

theorem txPlace_keeps : Keeps (txPlace a t) := .get fun _ _ => .next need_keeps fun _ => .ite .throw .pure

theorem txRead_keeps : Keeps (txRead a t z) :=
  .next txPlace_keeps fun _ => .get fun _ hs => .ite .throwBind (.next readyIf_keeps fun _ => .ite (.next
    (.update fun _ hs1 => markAccess_hardwired hs1) fun _ => .pure) (.ite .throwBind (.next readyIf_keeps fun _ =>
    .next (.set ((countRange_hardwired (touch_hardwired (drainSectors_hardwired (markAccess_hardwired hs)))).frameMe))
    fun _ => .pure)))

theorem txWrite_keeps : Keeps (txWrite a t bs) :=
  .next txPlace_keeps fun _ => .get fun _ hs => .ite .throwBind (.ite .throwBind (.next readyIf_keeps fun _ => .set
    ((markAccess_hardwired hs).frameMe)))

theorem leadRead_keeps : Keeps (leadRead a t z) :=
  .get fun _ _ => .ite (.next txRead_keeps fun _ => .pure) (.next readAt_keeps fun _ =>
    .next spendAnswers_keeps fun _ => .pure)

theorem leadWrite_keeps : Keeps (leadWrite a t bs) := .get fun _ _ => .ite txWrite_keeps writeAt_keeps

theorem leadAtomic_keeps : Keeps (leadAtomic a t z f) :=
  .get fun _ _ => .ite (.next txRead_keeps fun _ => .next txWrite_keeps fun _ => .pure)
    (.next atomicAt_keeps fun _ => .next spendAnswers_keeps fun _ => .pure)

theorem leadCheck_keeps : Keeps (leadCheck a z n) :=
  .get fun _ _ => by
    split
    · exact stopTrap_keeps
    · exact .next need_keeps fun _ => .next need_keeps fun _ => .next need_keeps fun _ => .next need_keeps fun _ =>
          .pure

/-! ## Sys2Proof/Machine/Landing.lean -/

theorem onTeam_hardwired (h : HardwiredOk s) : HardwiredOk (onTeam uid f s) := h.frame

theorem markDirty_hardwired (h : HardwiredOk s) : HardwiredOk (markDirty s) := .ite h (onTeam_hardwired h)

/-! ## Sys2Proof/Machine/LaneTx.lean -/

theorem laneLockDone_hardwired (h : HardwiredOk s) : HardwiredOk (laneLockDone s) := .ite h.frame h

theorem laneAborts_hardwired (h : HardwiredOk s) : HardwiredOk (laneAborts age finals conflicts s) :=
  .ite h (laneLockDone_hardwired h.frameMe)

theorem laneFaults_hardwired (h : HardwiredOk s) : HardwiredOk (laneFaults age cs s) := laneAborts_hardwired h.frameMe

/-! ## Sys2Proof/Machine/Operands.lean -/

theorem markStall_hardwired (h : HardwiredOk s) : HardwiredOk (markStall spans s) := by
  unfold markStall
  split
  · exact h
  · exact h.frameMe

theorem notPending_keeps : Keeps (notPending spans) :=
  .get fun _ _ => .ite (.throw (fun _ hs1 => markStall_hardwired hs1)) .pure

theorem popQueues_hardwired (h : HardwiredOk s) : HardwiredOk (popQueues c needs s) :=
  .foldl (fun _ _ hs => .ite hs (by
    dsimp only
    split
    · exact .ite hs.frameMe hs.frameMe
    · exact hs.frameMe)) h

theorem laneTrap_hardwired (h : HardwiredOk s) : HardwiredOk (laneTrap m0 slot cs s) := groupTrap_hardwired h

theorem trapAfter_hardwired (ht : ∀ s, HardwiredOk s → HardwiredOk (t s)) (h : HardwiredOk s) :
    HardwiredOk (trapAfter age cs t s) := .ite (ht _ (laneAborts_hardwired h)) (laneAborts_hardwired h)

theorem fragTrap_hardwired (h : HardwiredOk s) : HardwiredOk (fragTrap age m0 slot cause addr s) :=
  .ite (laneTrap_hardwired (faultWalk_hardwired h)) (.ite (trapAfter_hardwired (fun _ hs => laneTrap_hardwired hs)
    (faultWalk_hardwired h)) (laneFaults_hardwired (faultWalk_hardwired h)))

theorem lanesTrap_hardwired (h : HardwiredOk s) : HardwiredOk (lanesTrap age m0 slot cs s) :=
  .ite (.ite (laneFaults_hardwired (.foldl (fun _ _ hs => faultWalk_hardwired hs) h)) (trapAfter_hardwired
    (fun _ hs => laneTrap_hardwired hs) (.foldl (fun _ _ hs => faultWalk_hardwired hs) h))) (laneTrap_hardwired
    (.foldl (fun _ _ hs => faultWalk_hardwired hs) h))

theorem advance_hardwired (h : HardwiredOk s) : HardwiredOk (LaneCtx.advance c s) := h.frameMe

/-- A queue that cannot give its entries leaves nothing to be done. -/
theorem queuesReady_stopOk (he : queuesReady s c needs act = some e) : StopOk e := by
  obtain ⟨p, -, hp⟩ := List.exists_of_findSome?_eq_some he
  split at hp
  · cases hp
  · dsimp only at hp
    split at hp
    · cases hp; trivial
    · split at hp
      · cases hp
      · split at hp
        · split at hp <;> cases hp <;> trivial
        · cases hp; trivial

theorem stopLane_hardwired (he : StopOk e) (h : HardwiredOk s) : HardwiredOk (stopLane c needs e s) := by
  unfold stopLane
  split
  · exact fragTrap_hardwired h
  · exact lanesTrap_hardwired h
  · exact fragTrap_hardwired h
  · rename_i cs q
    cases q with
    | stay => exact lanesTrap_hardwired h
    | kept => exact lanesTrap_hardwired (.ite h ((popQueues_hardwired h).frameMe))
    | again => exact lanesTrap_hardwired (popQueues_hardwired h)
  · exact h
  · exact he s h
  · exact laneAborts_hardwired (advance_hardwired h)
  · exact h

theorem shadowTrap_hardwired (h : HardwiredOk s) : HardwiredOk (shadowTrap c s) := laneTrap_hardwired h.frame

theorem forbidden_hardwired (h : HardwiredOk s) : HardwiredOk (forbidden c s) := laneAborts_hardwired h

theorem runLane_steps (hm : ∀ c, Keeps (m c)) : Steps (runLane rule m) := by
  intro s h
  unfold runLane
  dsimp only
  refine .ite (.next (advance_hardwired h)) (.ite (.next (stopLane_hardwired trivial h)) (.ite (.next (.ite
    (advance_hardwired h) (stopLane_hardwired trivial h))) (.ite (.next (forbidden_hardwired h)) (.ite (.next (.ite
    (advance_hardwired h) (.ite (stopLane_hardwired trivial h) (laneTrap_hardwired h)))) (.ite
    (.next (shadowTrap_hardwired h)) (.ite (.next h) (.ite (.next (markStall_hardwired h)) ?_)))))))
  split
  · rename_i e he
    have hstop : StopOk e := queuesReady_stopOk he
    refine .next ?_
    split
    · exact .ite (advance_hardwired h) (stopLane_hardwired hstop h)
    · exact stopLane_hardwired hstop h
  · have hadv := fun c needs => advance_hardwired (c := c) (popQueues_hardwired (c := c.cl) (needs := needs) h)
    split
    · rename_i hr
      exact .next ((hm _).ok (hadv _ _) hr).1
    · rename_i hr
      exact .next (stopLane_hardwired ((hm _).error (hadv _ _) hr) h)

theorem onLanes_keeps : Keeps (onLanes f) := onMe_keeps (fun _ hr => hr.frame)

theorem writeD_keeps : Keeps (writeD c bits' g) := onLanes_keeps

theorem writeMask_keeps : Keeps (writeMask c k p) := onLanes_keeps

/-! ## Sys2Proof/Machine/Flags.lean -/

theorem flagDone_hardwired (h : HardwiredOk s) : HardwiredOk (State.flagDone s who k) :=
  onRunner_hardwired h (fun _ hr => hr.frame)

theorem flagStart_keeps : Keeps (flagStart c) := by
  unfold flagStart
  split
  · exact onLanes_keeps
  · exact .pure

theorem opIssued_keeps : Keeps (opIssued c home) := by
  unfold opIssued
  split
  · exact .next onLanes_keeps fun _ => .update fun _ hs => hs.frameMe
  · exact .pure

theorem storeIssued_keeps : Keeps (storeIssued c scope) := .ite opIssued_keeps .pure

theorem execFlagRelease_steps : Steps (execFlagRelease who k) := by
  intro _ h
  unfold execFlagRelease
  split
  · exact .next (onRunner_hardwired h (fun _ hr => hr.frame))
  · exact .next h

/-! ## Sys2Proof/Machine/Fetch.lean -/

theorem codeWord_keeps : Keeps (codeWord a) :=
  .get fun _ _ => by
    split
    · exact .throw
    · exact .ite .throw (.ite (.next readOutside_keeps fun _ => .pure) (.next markPageOf_keeps fun _ => .ite (.next
          (.update fun _ hs1 => badAddr_hardwired hs1) fun _ => .pure) (.next (.update fun _ hs1 =>
          countRange_hardwired (touch_hardwired hs1)) fun _ => .pure)))

theorem noteCode_hardwired (h : HardwiredOk s) : HardwiredOk (noteCode grid pa s) := h.frame

theorem cacheCode_hardwired (h : HardwiredOk s) : HardwiredOk (cacheCode who pa s) :=
  onRunner_hardwired h (fun _ hr => .ite hr hr.frame)

theorem dropCode_hardwired (h : HardwiredOk s) : HardwiredOk (dropCode who pa s) :=
  h.withRunners (.ite h.me.frame h.me) (.mapIf (fun _ hr => hr.frame) h.others)

theorem codeRun_keeps : Keeps (codeRun n a) := by
  induction n generalizing a with
  | zero => exact .pure
  | succ n ih =>
    exact .next codeWord_keeps fun _ => .ite (.next ih fun _ => .pure)
      (.ite (.next codeWord_keeps fun _ => .pure) .pure)

theorem spendCode_hardwired (h : HardwiredOk s) : HardwiredOk (spendCode a n s) := .ite h h.frame

theorem latch_hardwired (h : HardwiredOk s) : HardwiredOk (latch pc d s) := (spendCode_hardwired h).frameMe

theorem fetchLead_keeps : Keeps fetchLead :=
  .get fun _ _ => .next codeRun_keeps fun _ => .get fun _ _ => .ite .throwBind (.next (.update fun _ hs2 =>
    latch_hardwired hs2) fun _ => .pure)

theorem execLeadFetch_steps : Steps execLeadFetch := by
  intro s h
  unfold execLeadFetch
  split
  · rename_i hr
    exact .next (fetchLead_keeps.ok h hr).1
  · rename_i hr
    exact .next (stopLead_hardwired (fetchLead_keeps.error h hr) h)

theorem execUnusedOpcode_steps : Steps execUnusedOpcode :=
  fun _ h => .ite ((runLane_steps fun _ => .pure) _ h) (.next (leadTrap_hardwired h))

theorem codeSlot_keeps : Keeps (codeSlot a) :=
  .next codeWord_keeps fun _ => .next codeWord_keeps fun _ => .next codeWord_keeps fun _ => .pure

theorem laneSlot_keeps : Keeps (laneSlot slot) :=
  .get fun s h => .ite .throw (by
    split
    · rename_i hr
      exact .next (.set (codeSlot_keeps.ok h hr).1) fun _ => .pure
    · exact .throw
    · rename_i hr
      exact .throw (codeSlot_keeps.error h hr))

/-- The cause that a clause header raises leaves nothing to be done. -/
theorem laneHeader_keeps : KeepsTo (fun r => ∀ e, r = .error e → StopOk e) (laneHeader slot) :=
  .next laneSlot_keeps fun _ => .get fun _ _ => .ite (.pure fun | _, rfl => trivial)
    (.ite (.pure fun | _, rfl => trivial) (.ite (.pure fun | _, rfl => trivial) (.pure nofun)))

/-- What a clause start finds keeps s0 at 0, whether the clause starts or stops. -/
theorem pickClause_hardwired (h : HardwiredOk s) (hp : pickClause s = some (x, e, t)) :
    HardwiredOk t ∧ ∀ c, e = .error c → StopOk c := by
  obtain ⟨y, -, hy⟩ := List.exists_of_findSome?_eq_some hp
  split at hy
  · rename_i hr
    split at hy
    · obtain ⟨rfl, rfl, rfl⟩ := hy
      exact ⟨(laneHeader_keeps.ok h hr).1, nofun⟩
    · cases hy
  · rename_i hr
    obtain ⟨rfl, rfl, rfl⟩ := hy
    exact laneHeader_keeps.ok h hr
  · rename_i hr
    obtain ⟨rfl, rfl, rfl⟩ := hy
    exact ⟨h, fun | _, rfl => laneHeader_keeps.error h hr⟩

theorem latchClause_hardwired (hok : HardwiredOk s) : HardwiredOk (latchClause x h s) := hok.frame

theorem stopClause_hardwired (he : StopOk e) (h : HardwiredOk s) : HardwiredOk (stopClause x e s) := by
  unfold stopClause
  split
  · exact fragTrap_hardwired h
  · exact fragTrap_hardwired h
  · exact he s h
  · exact h

theorem fetchSlot_hardwired (h : HardwiredOk s) : HardwiredOk (fetchSlot c s).2 := h.frame

theorem raiseStreamFault_hardwired (h : HardwiredOk s) : HardwiredOk (raiseStreamFault os cause a s) := by
  have ht : HardwiredOk (leadTrap cause a s.me.pc
      { s with me := { s.me with l := { s.me.l with osfault := BitVec.ofNat 64 (os + 1) } } }) :=
    leadTrap_hardwired h.frameMe
  unfold raiseStreamFault
  exact .ite ht.frame ht

theorem awaitLock_hardwired (h : HardwiredOk s) : HardwiredOk (awaitLock s) := h.frameMe

theorem takeInterrupt_hardwired (h : HardwiredOk s) : HardwiredOk (takeInterrupt w s) :=
  (undoClaim_hardwired h).withMe (hostInterrupt_runnerOk ((undoClaim_hardwired h).me))

theorem expireLease_hardwired (h : HardwiredOk s) : HardwiredOk (expireLease e s) := by
  unfold expireLease
  split
  · exact h
  · exact settleClk_hardwired h.frame

theorem served_runnerOk (hr : RunnerOk r) : RunnerOk (Runner.served lane r) := .ite hr hr.frame

theorem runs_runnerOk (hr : RunnerOk r) : RunnerOk (Runner.runs core' r) := by
  have hw : RunnerOk (if r.isHost then r else { r with l := r.l.waits (core' (r.core / 64)) }) := .ite hr hr.frame
  unfold Runner.runs
  refine .ite hw (hw.frame rfl ?_)
  dsimp only
  generalize (if r.isHost then r else { r with l := r.l.waits (core' (r.core / 64)) }) = w
  split <;> rfl

theorem advanceClocks_hardwired (h : HardwiredOk s) : HardwiredOk (advanceClocks core' host fabric s) :=
  .foldl (fun _ _ hs => expireLease_hardwired hs) (h.withRunners (runs_runnerOk h.me) (.map (fun _ hr =>
    runs_runnerOk hr) h.others))

theorem passClocks_hardwired (h : HardwiredOk s) : HardwiredOk (passClocks core' host fabric s) :=
  advanceClocks_hardwired h

theorem passHall_hardwired (h : HardwiredOk s) : HardwiredOk (passHall hall core' ns s) :=
  .ite ((advanceClocks_hardwired h).frame) h

theorem evictTlb_hardwired (h : HardwiredOk s) : HardwiredOk (evictTlb k s) := h.frame

/-! ## Sys2Proof/Machine/Spans.lean -/

theorem readPieces_keeps : Keeps (readPieces g l) := by
  induction l with
  | nil => exact .pure
  | cons p l ih => exact .next readAt_keeps fun _ => .next ih fun _ => .pure

theorem allLanes_keeps : Keeps (allLanes q l) := .ite .pure .throw

/-! ## Sys2Proof/Machine/Tickets.lean -/

theorem putCloak_hardwired (h : HardwiredOk s) : HardwiredOk (putCloak e s) := h.frame

theorem newTicket_hardwired (h : HardwiredOk s) (hp : newTicket code size sc t s = some p) : HardwiredOk p.2 := by
  obtain ⟨old, -, rfl⟩ := Option.map_eq_some_iff.mp hp
  have hs : HardwiredOk { s with outb := s.outb.filter fun o => o.ask != .ticket old.id } := h.frame
  exact HardwiredOk.frame (s := ite _ _ _) (.ite (outAsk_hardwired hs) hs) rfl rfl rfl rfl

theorem spendCloak_hardwired (h : HardwiredOk s) : HardwiredOk (spendCloak e s) := settleClk_hardwired h.frame

theorem endRedeem_hardwired (h : HardwiredOk s) : HardwiredOk (endRedeem who sq' next s) :=
  onRunner_hardwired h fun r hr => by
    cases sq' with
    | none => exact hr.frame
    | some q => exact hr.setReg

theorem acceptWide_hardwired (h : HardwiredOk s) : HardwiredOk (acceptWide g pa key comp bs s) :=
  .ite (.foldl (fun _ _ hs => acceptBytes_hardwired hs) h) (acceptBytes_hardwired h)

theorem storePieces_hardwired (h : HardwiredOk s) : HardwiredOk (storePieces g l bs s) := by
  induction l generalizing bs s with
  | nil => exact h
  | cons p l ih => exact ih (acceptWide_hardwired h)

theorem deliverBytes_hardwired (h : HardwiredOk s) : HardwiredOk (deliverBytes who d bs s) := by
  unfold deliverBytes
  split
  · exact endRedeem_hardwired (onRunner_hardwired h (fun _ hr => hr.setReg))
  · exact endRedeem_hardwired (storePieces_hardwired h)
  · exact endRedeem_hardwired (onTeam_hardwired h)
  · exact onRunner_hardwired h (fun _ hr => hr.frame)
  · exact onTeam_hardwired h

theorem deliverNow_hardwired (h : HardwiredOk s) : HardwiredOk (deliverNow e d s) :=
  deliverBytes_hardwired (spendCloak_hardwired h)

theorem claimCloak_hardwired (h : HardwiredOk s) : HardwiredOk (claimCloak e d s) := putCloak_hardwired h

theorem redeemLead_keeps (hmark : ∀ s, HardwiredOk s → HardwiredOk (mark s)) : Keeps (redeemLead e t d mark) :=
  .get fun _ _ => .get fun _ _ => .next readyIf_keeps fun _ => .ite (.ite (.throw (fun _ hs2 => leadTrap_hardwired
    (spendCloak_hardwired (markDirty_hardwired hs2)))) (.update fun _ hs2 => deliverNow_hardwired
    (markDirty_hardwired (hmark _ hs2)))) (.throw (fun _ hs2 => (markDirty_hardwired (hmark _ hs2)).withMe
    hs2.me.frame))

theorem refuse_keeps : Keeps (refuse sq' code t) := by
  unfold refuse
  split
  · exact setReg_keeps
  · exact stopTrap_keeps

theorem withTicket_keeps (hk : ∀ x0 x1, Keeps (k x0 x1)) : Keeps (withTicket a sq' fits k) :=
  .next needCtx_keeps fun _ => .next notInTx_keeps fun _ => .next reg_keeps fun _ => .get fun _ _ => by
    split
    · exact refuse_keeps
    · exact hk _ _

theorem okStatus_keeps : Keeps (okStatus sq') := by
  unfold okStatus
  split
  · exact setReg_keeps
  · exact .pure

theorem tloadForm_steps : Steps (tloadForm d a x z code try_) :=
  runLead_steps (.next ordIn_keeps fun _ => .next needCtx_keeps fun _ => .next notInTx_keeps fun _ => .get fun _ _ =>
    .next getXb_keeps fun _ => .next reg_keeps fun _ => by
      dsimp only
      split
      · exact stopTrap_keeps
      · refine .next need_keeps fun _ => .next need_keeps fun _ => .next before_keeps fun _ => .get fun _ _ =>
          .next markPageOf_keeps fun _ => .get fun _ hs => ?_
        split
        · rename_i hp
          exact .next (.set (newTicket_hardwired hs hp)) fun _ => setReg_keeps
        · exact .ite setReg_keeps stopTrap_keeps)

theorem redeemForm_steps : Steps (redeemForm d a sq') :=
  runLead_steps (withTicket_keeps (fun _ _ => .get fun _ _ => redeemLead_keeps (fun _ hs1 => hs1)))

theorem redeemlMem_steps : Steps (redeemlMem d a x sq') :=
  runLead_steps (.next needCtx_keeps fun _ => .next notInTx_keeps fun _ => .get fun _ _ => .next reg_keeps fun _ =>
    .next reg_keeps fun _ => .next getXb_keeps fun _ => by
    dsimp only
    split
    · exact stopTrap_keeps
    · exact .next need_keeps fun _ => .next need_keeps fun _ => withTicket_keeps (fun _ _ =>
          .next readyIf_keeps fun _ => redeemLead_keeps (fun _ hs1 => .foldl (fun _ _ hs2 => markAccess_hardwired
          hs2) hs1)))

theorem redeemlLand_steps : Steps (redeemlLand d a sq') :=
  runLead_steps (.next needGroup_keeps fun _ => .next needCtx_keeps fun _ => .next notInTx_keeps fun _ =>
    .get fun _ _ => .next reg_keeps fun _ => by
    dsimp only
    split
    · exact .next reg_keeps fun _ => stopTrap_keeps
    · exact .next reg_keeps fun _ => by
          split
          · exact stopTrap_keeps
          · exact withTicket_keeps (fun _ _ => redeemLead_keeps (fun _ hs1 => hs1)))

theorem execRedeemlQ_steps : Steps (execRedeemlQ d a x l sq') := by
  unfold execRedeemlQ
  split
  · exact redeemlLand_steps
  · exact redeemlMem_steps

theorem dropForm_steps : Steps (dropForm a sq') :=
  runLead_steps (withTicket_keeps (fun _ _ => .next (.update fun _ hs => spendCloak_hardwired (markDirty_hardwired
    hs)) fun _ => okStatus_keeps))

theorem execTstat_steps : Steps (execTstat d a) :=
  runLead_steps (.next needCtx_keeps fun _ => .next reg_keeps fun _ => .get fun _ _ => setReg_keeps)

theorem leaseForm_steps : Steps (leaseForm d a b sq') :=
  runLead_steps (withTicket_keeps (fun _ _ => .next reg_keeps fun _ => .next (.update fun _ hs => putCloak_hardwired
    hs) fun _ => .get fun _ _ => .next setReg_keeps fun _ => okStatus_keeps))

theorem laneTickets_hardwired (h : HardwiredOk s) : HardwiredOk (laneTickets size sc l s).2 := by
  induction l generalizing s with
  | nil => exact h
  | cons p l ih =>
    unfold laneTickets
    split
    · rename_i hp
      exact ih (newTicket_hardwired (markAccess_hardwired h) hp)
    · exact ih h

theorem execTloadv_steps : Steps execTloadv :=
  runLane_steps fun _ => .get fun _ _ => .next allLanes_keeps fun _ => .next before_keeps fun _ => .get fun _ hq =>
    .next readyIf_keeps fun _ => .ite (.next (.set (laneTickets_hardwired hq)) fun _ => writeD_keeps) .throw

theorem deliverLanes_hardwired (h : HardwiredOk s) : HardwiredOk (deliverLanes dst cs s) :=
  .foldl (fun _ _ hs => .ite (.ite (spendCloak_hardwired hs) (deliverNow_hardwired hs)) (claimCloak_hardwired hs)) h

theorem redeemLanes_keeps : Keeps (redeemLanes c cs dst) :=
  .get fun _ _ => .ite (.next opIssued_keeps fun _ => .update fun _ hs1 => deliverLanes_hardwired (.ite hs1
    (markDirty_hardwired hs1))) (.throw (fun _ hs1 => laneTrap_hardwired (deliverLanes_hardwired
    (markDirty_hardwired hs1))))

theorem execLaneRedeem_steps : Steps execLaneRedeem :=
  runLane_steps fun _ => .get fun _ _ => .ite (.ite (.ite .throwBind (.next notPending_keeps fun _ =>
    redeemLanes_keeps)) redeemLanes_keeps) .throw

theorem execLaneRedeemL_steps : Steps execLaneRedeemL :=
  runLane_steps fun _ => .get fun _ _ => by
    split
    · exact .throw
    · exact .next allLanes_keeps fun _ => .ite (.ite (.next writeD_keeps fun _ => redeemLanes_keeps)
          redeemLanes_keeps) .throw

theorem arriveCloak_hardwired (h : HardwiredOk s) : HardwiredOk (arriveCloak e s) :=
  .ite (by
    split
    · exact putCloak_hardwired (performTickets_hardwired h)
    · exact performTickets_hardwired h
    · exact putCloak_hardwired h) h.frame

theorem execTicketDataArrival_steps : Steps (execTicketDataArrival e) :=
  runEvent_steps (.get fun _ _ => by
    split
    · exact .next readyIf_keeps fun _ => .update fun _ hs1 => arriveCloak_hardwired hs1
    · exact .throw)

theorem redeemFault_hardwired (h : HardwiredOk s) : HardwiredOk (redeemFault x who d s) := by
  unfold redeemFault
  dsimp only
  split
  · exact asRunner_hardwired (fun _ hs => laneTrap_hardwired hs) (spendCloak_hardwired h)
  · exact asRunner_hardwired (fun _ hs => laneTrap_hardwired hs) (spendCloak_hardwired h)
  · exact asRunner_hardwired (fun _ hs => leadTrap_hardwired hs.frameMe) (spendCloak_hardwired h)

theorem execRedemptionDelivery_steps : Steps (execRedemptionDelivery e) :=
  runEvent_steps (.next (.update fun _ hs => performTickets_hardwired hs) fun _ => .get fun _ _ => by
    split
    · exact .throw
    · split
      · exact .throw
      · exact .next readyIf_keeps fun _ => .next readyIf_keeps fun _ => .ite (.update fun _ hs1 =>
            redeemFault_hardwired hs1) (.update fun _ hs1 => deliverBytes_hardwired (spendCloak_hardwired hs1)))

theorem execLeaseExpiry_steps : Steps (execLeaseExpiry e) :=
  runEvent_steps (.get fun _ _ => .next readyIf_keeps fun _ => .update fun _ hs1 => expireLease_hardwired hs1)

theorem execCloakroomReconfigure_steps : Steps (execCloakroomReconfigure die slice_) :=
  runEvent_steps (.get fun _ _ => .next readyIf_keeps fun _ => .update fun _ hs1 => settleClk_hardwired hs1)

theorem setClk_hardwired (h : HardwiredOk s) : HardwiredOk (setClk die slice_ v s) :=
  .ite (settleClk_hardwired h.frame) h

theorem execClkcfgWrite_steps : Steps (execClkcfgWrite v) := fun _ h => .next (setClk_hardwired h)

/-! ## Sys2Proof/Machine/Tx.lean -/

theorem commitBytes_hardwired (h : HardwiredOk s) : HardwiredOk (commitBytes buf keys s) :=
  .foldl (fun _ _ hs => countRange_hardwired (homeWrite_hardwired (touch_hardwired (drainSectors_hardwired
    (performTickets_hardwired hs))))) h

theorem commitLead_hardwired (h : HardwiredOk s) : HardwiredOk (commitLead s) :=
  (markDirty_hardwired (commitBytes_hardwired h)).withMe (⟨((markDirty_hardwired (commitBytes_hardwired h)).me).1,
    rfl⟩)

theorem needLock_keeps : Keeps needLock :=
  .get fun _ _ => .ite (.update fun _ hs1 => hs1.frame) (.throw (fun _ hs1 => hs1.frame))

theorem execTxbeg_steps : Steps (execTxbeg d) :=
  runLead_steps (.get fun _ _ => .ite .throwBind (.get fun _ _ => .next readyIf_keeps fun _ =>
    .next before_keeps fun _ => .ite (.next needLock_keeps fun _ => .next setReg_keeps fun _ => onMe_keeps
    (fun _ hr2 => ⟨hr2.1, hr2.1⟩)) (.next setReg_keeps fun _ => onMe_keeps (fun _ hr2 => ⟨hr2.1, hr2.1⟩))))

theorem commitFails_hardwired (h : HardwiredOk s) : HardwiredOk (commitFails s) :=
  abortConflict_hardwired (.ite h h.frame)

theorem execTxend_steps : Steps execTxend :=
  runLead_steps (.get fun _ _ => .next need_keeps fun _ => .ite (.throwBind (fun _ hs1 => commitFails_hardwired hs1))
    (.next readyIf_keeps fun _ => .update fun _ hs1 => commitLead_hardwired hs1))

theorem execTxabt_steps : Steps (execTxabt a) :=
  runLead_steps (.get fun _ _ => .next need_keeps fun _ => .next reg_keeps fun _ => .throw)

theorem execTxstat_steps : Steps (execTxstat d sel) := runLead_steps (.bind getMe_keeps fun _ _ => setReg_keeps)

theorem onLaneTx_hardwired (h : HardwiredOk s) : HardwiredOk (onLaneTx k f s) := h.frameMe

theorem laneTxRead_hardwired (h : HardwiredOk s) (hp : laneTxRead k t z s = .ok p) : HardwiredOk p.2 := by
  unfold laneTxRead at hp
  dsimp only at hp
  split at hp
  · cases hp
  · split at hp
    · cases hp
      exact markAccess_hardwired h
    · split at hp
      · cases hp
      · cases hp
        exact onLaneTx_hardwired (countRange_hardwired (touch_hardwired (drainSectors_hardwired
          (markAccess_hardwired h))))

theorem laneTxWrite_hardwired (h : HardwiredOk s) (hp : laneTxWrite k t bs s = .ok u) : HardwiredOk u := by
  unfold laneTxWrite at hp
  split at hp
  · cases hp
  · split at hp
    · cases hp
    · cases hp
      exact onLaneTx_hardwired (markAccess_hardwired h)

theorem conflictLane_hardwired (h : HardwiredOk s) : HardwiredOk (conflictLane k s).1 := by
  unfold conflictLane
  split <;> exact h.frameMe

theorem endAttempt_hardwired (h : HardwiredOk s) : HardwiredOk (endAttempt k e s).1 := by
  unfold endAttempt
  split
  · exact conflictLane_hardwired h
  · exact h.frameMe
  · split
    · exact h.frameMe
    · exact conflictLane_hardwired h

theorem leaveLanes_hardwired (h : HardwiredOk s) : HardwiredOk (leaveLanes age ends' s) :=
  .ite h (laneLockDone_hardwired h.frameMe)

theorem execLaneTxbeg_steps : Steps execLaneTxbeg :=
  runLane_steps fun _ => .get fun _ _ => .ite .throwBind (.ite .throwBind (.next readyIf_keeps fun _ => .ite
    (.next before_keeps fun _ => .ite (.next needLock_keeps fun _ => .next (.update fun _ hs1 =>
    laneAborts_hardwired hs1) fun _ => onLanes_keeps) (.next (.update fun _ hs1 => laneAborts_hardwired hs1)
    fun _ => onLanes_keeps)) (.ite (.next needLock_keeps fun _ => .next (.update fun _ hs1 => laneAborts_hardwired
    hs1) fun _ => onLanes_keeps) (.next (.update fun _ hs1 => laneAborts_hardwired hs1) fun _ => onLanes_keeps))))

theorem lanesInTx_keeps : Keeps (lanesInTx c) := .get fun _ _ => .ite .pure .throw

theorem endMyClause_keeps : Keeps (endMyClause c) := onLanes_keeps

theorem commitLane_hardwired (h : HardwiredOk s) (hp : commitLane n k s = some t) : HardwiredOk t := by
  unfold commitLane at hp
  dsimp only at hp
  split at hp
  · cases hp
  · cases hp
    exact (commitBytes_hardwired h).frameMe

theorem commitLanes_hardwired (h : HardwiredOk s) : HardwiredOk (commitLanes n ks s).1 := by
  induction ks generalizing s with
  | nil => exact h
  | cons k ks ih =>
    unfold commitLanes
    split
    · rename_i hp
      exact ih (commitLane_hardwired h hp)
    · exact ih h

theorem commitStep_hardwired (h : HardwiredOk s) : HardwiredOk (commitStep age act s) := by
  have hs := commitLanes_hardwired (n := s.wicket.next) (ks := lanesOf act)
    (s := { s with wicket := { s.wicket with next := s.wicket.next + 1 } }) h.frame
  unfold commitStep
  dsimp only
  generalize commitLanes _ _ _ = r at hs ⊢
  have ht : ∀ l, HardwiredOk (laneLockDone { r.1 with me := { r.1.me with l := l } }) := fun _ =>
    laneLockDone_hardwired hs.frameMe
  split
  · exact ht _
  · exact markDirty_hardwired (ht _)

theorem execLaneTxend_steps : Steps execLaneTxend :=
  runLane_steps fun _ => .next lanesInTx_keeps fun _ => .get fun _ _ => .next readyIf_keeps fun _ =>
    .next endMyClause_keeps fun _ => .update fun _ hs1 => commitStep_hardwired hs1

theorem execLaneTxabt_steps : Steps execLaneTxabt :=
  runLane_steps fun _ => .next lanesInTx_keeps fun _ => .next endMyClause_keeps fun _ => .update fun _ hs =>
    laneAborts_hardwired hs

theorem execLaneTxstat_steps : Steps execLaneTxstat := runLane_steps fun _ => .get fun _ _ => writeD_keeps

theorem earlyValidate_hardwired (h : HardwiredOk s) : HardwiredOk (earlyValidate k s) :=
  .ite (.ite (abortConflict_hardwired h) h) (.ite (by
    split
    · exact laneAborts_hardwired h
    · exact h) h)

theorem restartRan_hardwired (h : HardwiredOk s) : HardwiredOk (restartRan k s) := by
  unfold restartRan
  split
  · exact h.withMe (h.me.withRan _)
  · exact h.frameMe

theorem validateNow_hardwired (h : HardwiredOk s) : HardwiredOk (validateNow k s) :=
  earlyValidate_hardwired (restartRan_hardwired h)

theorem execTxEarlyValidation_steps : Steps (execTxEarlyValidation who lane) :=
  fun _ h => .next (asRunner_hardwired (fun _ hs => .ite (validateNow_hardwired hs) hs) h)

theorem grantLock_hardwired (h : HardwiredOk s) : HardwiredOk (grantLock s) := by
  unfold grantLock
  split
  · exact onRunner_hardwired h.frame (fun _ hr => hr.frame)
  · exact h

theorem execFallbackLockGrant_steps : Steps execFallbackLockGrant := fun _ h => .next (grantLock_hardwired h)

theorem revokeAttempts_hardwired (h : HardwiredOk s) : HardwiredOk (revokeAttempts s) := by
  unfold revokeAttempts
  refine .ite (abortFinal_hardwired h) (HardwiredOk.frame (s := List.foldl _ _ _) (.foldl (fun s k hs => ?_) h)
    rfl rfl rfl rfl)
  split
  · exact laneAborts_hardwired hs
  · exact hs

theorem execFallbackLockRevoke_steps : Steps execFallbackLockRevoke :=
  runEvent_steps (.get fun _ _ => by
    split
    · exact .throw
    · exact .next readyIf_keeps fun _ => .update fun _ hs1 => asRunner_hardwired (fun _ hs2 =>
          revokeAttempts_hardwired hs2) hs1)

/-! ## Sys2Proof/Machine/Copies.lean -/

theorem operand_keeps : Keeps (Copier.operand c v n) := by
  unfold Copier.operand
  split
  · exact .pure
  · exact .next need_keeps fun _ => .pure

theorem orTrap_keeps : Keeps (orTrap a) := by
  unfold orTrap
  split
  · exact .pure
  · exact stopTrap_keeps

theorem orTrapAt_keeps : Keeps (orTrapAt a e) := by
  unfold orTrapAt
  split
  · exact .pure
  · exact stopTrap_keeps

theorem loadOne_keeps : Keeps (Copier.loadOne c a z) :=
  .get fun _ _ => .next orTrapAt_keeps fun _ => .next need_keeps fun _ => .next need_keeps fun _ =>
    .next need_keeps fun _ => .next need_keeps fun _ => .next need_keeps fun _ => readPieces_keeps

theorem loads_keeps : Keeps (Copier.loads c z n a) := by
  induction n generalizing a with
  | zero => exact .pure
  | succ n ih => exact .next loadOne_keeps fun _ => .next ih fun _ => .pure

theorem load_keeps : Keeps (Copier.load c a n z) := loads_keeps

theorem spend_keeps : Keeps (Copier.spend c) := .get fun _ _ => spendAnswers_keeps

theorem scratchSide_keeps : Keeps (scratchSide kind a n) :=
  .get fun _ _ => by
    dsimp only
    split
    · exact stopTrap_keeps
    · exact .next need_keeps fun _ => .pure

theorem markPlan_hardwired (h : HardwiredOk s) : HardwiredOk (markPlan p s) :=
  .foldl (fun _ _ hs => markAccess_hardwired hs) (.foldl (fun _ _ hs => markAccess_hardwired hs) h)

theorem registerPlan_hardwired (h : HardwiredOk s) : HardwiredOk (registerPlan p op s) := h.frame

theorem joinOpen_hardwired (h : HardwiredOk s) : HardwiredOk (joinOpen s) := (markDirty_hardwired h).frameMe

theorem queueOp_hardwired (h : HardwiredOk s) : HardwiredOk (queueOp porter usher p s) :=
  (markDirty_hardwired (registerPlan_hardwired (markPlan_hardwired h))).frameMe

theorem issuePlan_keeps : Keeps (issuePlan p clash) := by
  unfold issuePlan
  dsimp only
  split
  · exact .next stopTrap_keeps fun _ => .get fun _ _ => .next readyIf_keeps fun _ => .next readyIf_keeps fun _ =>
        .update fun _ hs1 => queueOp_hardwired hs1
  · exact .get fun _ _ => .next readyIf_keeps fun _ => .next readyIf_keeps fun _ => .update fun _ hs1 =>
        queueOp_hardwired hs1

theorem openCopy_keeps : Keeps (openCopy c) := .get fun _ _ => .next need_keeps fun _ => before_keeps

theorem findScratch_keeps : Keeps (findScratch kind a n) := .ite .pure (.next scratchSide_keeps fun _ => .pure)

theorem findMemory_keeps : Keeps (findMemory c kind a n nd f) :=
  .ite (.get fun _ _ => .next orTrap_keeps fun _ => .pure) .pure

theorem keyCause_keeps : Keeps (keyCause s ps) := by
  unfold keyCause
  split
  · exact stopTrap_keeps
  · exact .pure

theorem rawAligned_keeps : Keeps (rawAligned d a n) := .next need_keeps fun _ => .next need_keeps fun _ => need_keeps

theorem issueCpyl_keeps : Keeps (issueCpyl c d a n dk sk raw) := by
  unfold issueCpyl
  refine .get fun _ _ => .next need_keeps fun _ => .ite (.update fun _ hs => joinOpen_hardwired hs)
    (.next openCopy_keeps fun _ => ?_)
  extract_lets _ withDst
  have hdst : ∀ da, Keeps (withDst da) := by
    intro da
    unfold withDst
    extract_lets withSrc
    have hsrc : ∀ sa, Keeps (withSrc sa) := fun sa =>
      .next need_keeps fun _ => .next findScratch_keeps fun f => .next findScratch_keeps fun g => by
        extract_lets aligned
        have haligned : ∀ u, Keeps (aligned u) := fun _ =>
          .next findMemory_keeps fun _ => .next findMemory_keeps fun _ => .get fun _ _ => .next keyCause_keeps fun _ =>
            .next keyCause_keeps fun _ => by
              dsimp only
              split
              · exact .next stopTrap_keeps fun _ => issuePlan_keeps
              · exact issuePlan_keeps
        exact .ite (.next rawAligned_keeps haligned) (haligned ())
    exact .ite (.next operand_keeps hsrc) (.next .pure hsrc)
  exact .ite (.next operand_keeps hdst) (.next .pure hdst)

theorem issueCpyf_keeps : Keeps (issueCpyf c d pat n dk) :=
  .get fun _ _ => .next need_keeps fun _ => .ite (.update fun _ hs1 => joinOpen_hardwired hs1)
    (.next openCopy_keeps fun _ => .ite (.next operand_keeps fun _ => .next need_keeps fun _ =>
    .next findScratch_keeps fun _ => .next need_keeps fun _ => .next findMemory_keeps fun _ => .get fun _ _ =>
    .next keyCause_keeps fun _ => issuePlan_keeps) (.next .pure fun _ => .next need_keeps fun _ =>
    .next findScratch_keeps fun _ => .next need_keeps fun _ => .next findMemory_keeps fun _ => .get fun _ _ =>
    .next keyCause_keeps fun _ => issuePlan_keeps))

theorem issueTile_keeps : Keeps (issueTile d w rows mz st) :=
  .next scratchSide_keeps fun _ => .next need_keeps fun _ => .get fun _ _ => .next orTrap_keeps fun _ =>
    .next keyCause_keeps fun _ => issuePlan_keeps

theorem tileRecord_keeps : Keeps (tileRecord c a gather coords) :=
  .next operand_keeps fun _ => .next need_keeps fun _ => .next load_keeps fun _ => .next need_keeps fun _ => .pure

theorem tileSize_keeps : Keeps (tileSize d w) := need_keeps

theorem issueCpyt_keeps : Keeps (issueCpyt c d a coords mz st) :=
  .next openCopy_keeps fun _ => .next tileRecord_keeps fun _ => .next tileSize_keeps fun _ =>
    .next issueTile_keeps fun _ => spend_keeps

theorem issueCpyg_keeps : Keeps (issueCpyg c d a b mz st) :=
  .next openCopy_keeps fun _ => .next tileRecord_keeps fun _ => .next operand_keeps fun _ =>
    .next load_keeps fun _ => by
    dsimp only
    split
    · exact .next stopTrap_keeps fun _ => .next tileSize_keeps fun _ => .next issueTile_keeps fun _ => spend_keeps
    · exact .next tileSize_keeps fun _ => .next issueTile_keeps fun _ => spend_keeps

theorem leadCopier_keeps : Keeps (leadCopier o v x) := .next getXb_keeps fun _ => .pure

theorem leadCopy_steps (hm : ∀ x0 x1 x2 x3, Keeps (m x0 x1 x2 x3)) : Steps (leadCopy d a b v x scratch m) :=
  runLead_steps (.ite (.next needGroup_keeps fun _ => .next ordIn_keeps fun _ => .next needCtx_keeps fun _ =>
    .next notInTx_keeps fun _ => .next leadCopier_keeps fun _ => .next reg_keeps fun _ => .next reg_keeps fun _ =>
    .next reg_keeps fun _ => hm _ _ _ _) (.next ordIn_keeps fun _ => .next needCtx_keeps fun _ =>
    .next notInTx_keeps fun _ => .next leadCopier_keeps fun _ => .next reg_keeps fun _ => .next reg_keeps fun _ =>
    .next reg_keeps fun _ => hm _ _ _ _))

theorem execCpytExt_steps : Steps (execCpytExt d a b v x mz st) := leadCopy_steps (fun _ _ _ _ => issueCpyt_keeps)

theorem execCpyt_steps : Steps (execCpyt d a b) := leadCopy_steps (fun _ _ _ _ => issueCpyt_keeps)

theorem execCpylExt_steps : Steps (execCpylExt d a b v x dk sk) := leadCopy_steps (fun _ _ _ _ => issueCpyl_keeps)

theorem execCpyl_steps : Steps (execCpyl d a b) := leadCopy_steps (fun _ _ _ _ => issueCpyl_keeps)

theorem execCpylRaw_steps : Steps (execCpylRaw d a b v x) := leadCopy_steps (fun _ _ _ _ => issueCpyl_keeps)

theorem execCpyfExt_steps : Steps (execCpyfExt d a b v x dk) := leadCopy_steps (fun _ _ _ _ => issueCpyf_keeps)

theorem execCpyf_steps : Steps (execCpyf d a b) := leadCopy_steps (fun _ _ _ _ => issueCpyf_keeps)

theorem execCpygExt_steps : Steps (execCpygExt d a b v x mz st) := leadCopy_steps (fun _ _ _ _ => issueCpyg_keeps)

theorem execCpyg_steps : Steps (execCpyg d a b) := leadCopy_steps (fun _ _ _ _ => issueCpyg_keeps)

theorem asLeader_keeps (hm : Keeps m) : Keeps (asLeader k m) :=
  hm.changeStop fun s => by
    simp only [StateT.run, asLeader]
    split
    · exact .inr ⟨_, rfl, trivial⟩
    · exact .inl rfl

theorem laneCopy_steps (hm : ∀ x0 x1 x2 x3 x4, Keeps (m x0 x1 x2 x3 x4)) : Steps (laneCopy rule m) :=
  runLane_steps fun _ => by
    split
    · exact .pure
    · exact .get fun _ _ => asLeader_keeps (hm _ _ _ _ _)

theorem execLaneCpyt_steps : Steps execLaneCpyt := laneCopy_steps (fun _ _ _ _ _ => issueCpyt_keeps)

theorem execLaneCpyl_steps : Steps execLaneCpyl := laneCopy_steps (fun _ _ _ _ _ => issueCpyl_keeps)

theorem execLaneCpyf_steps : Steps execLaneCpyf := laneCopy_steps (fun _ _ _ _ _ => issueCpyf_keeps)

theorem execLaneCpyg_steps : Steps execLaneCpyg := laneCopy_steps (fun _ _ _ _ _ => issueCpyg_keeps)

theorem execBseal_steps : Steps (execBseal d) :=
  runLead_steps (.next notInTx_keeps fun _ => .get fun _ _ => .next need_keeps fun _ => .next readyIf_keeps fun _ =>
    .next (onMe_keeps (fun _ hr1 => hr1.frame)) fun _ => setReg_keeps)

theorem reportMarks_keeps : Keeps (reportMarks p) :=
  .get fun _ _ => by
    split
    · exact .pure
    · exact .throw (fun _ hs1 => leadTrap_hardwired hs1.frameMe)

theorem execBwait_steps : Steps (execBwait a) :=
  runLead_steps (.next notInTx_keeps fun _ => .get fun _ _ => .next reg_keeps fun _ => .next need_keeps fun _ =>
    .next readyIf_keeps fun _ => reportMarks_keeps)

theorem execBwaitn_steps : Steps (execBwaitn a) :=
  runLead_steps (.next notInTx_keeps fun _ => .get fun _ _ => .next reg_keeps fun _ => .next readyIf_keeps fun _ =>
    reportMarks_keeps)

theorem execBstat_steps : Steps (execBstat d) := runLead_steps (.get fun _ _ => setReg_keeps)

theorem execPorterOperationStart_steps : Steps (execPorterOperationStart porter) := by
  intro _ h
  unfold execPorterOperationStart
  split
  · exact .next h
  · exact .next h.frame

theorem srcTouch_hardwired (h : HardwiredOk s) : HardwiredOk (srcTouch n x s) := by
  unfold srcTouch
  split
  · exact .ite h (.ite (countRange_hardwired (touch_hardwired h)) (.ite (badAddr_hardwired h) h))
  · exact h

theorem engineWrite_hardwired (h : HardwiredOk s) : HardwiredOk (engineWrite o key pa comp bs s) :=
  .ite h (.ite (outWrite_hardwired h) (by
    split
    · exact .foldl (fun _ _ hs => hs.frame) h
    · exact h
    · exact badAddr_hardwired h
    · exact countRange_hardwired (touch_hardwired (homeWrite_hardwired (arriveAll_hardwired h)))))

theorem locWrite_hardwired (h : HardwiredOk s) : HardwiredOk (locWrite o bad l bs s) := by
  unfold locWrite
  split
  · exact engineWrite_hardwired h
  · exact onTeam_hardwired h

theorem poisonUnits_hardwired (h : HardwiredOk s) : HardwiredOk (poisonUnits bad s) := .ite h h.frame

theorem doMove_hardwired (h : HardwiredOk s) : HardwiredOk (doMove o bad m s) :=
  locWrite_hardwired (srcTouch_hardwired h)

theorem rawLine_hardwired (h : HardwiredOk s) : HardwiredOk (rawLine dst src s) := h.frame

theorem rawMove_hardwired (h : HardwiredOk s) : HardwiredOk (rawMove o m s) := by
  unfold rawMove
  split
  · exact .foldl (fun _ _ hs => rawLine_hardwired hs) (countRange_hardwired (touch_hardwired (countRange_hardwired
        (touch_hardwired (arriveAll_hardwired h)))))
  · exact h

theorem doMoves_hardwired (h : HardwiredOk s) : HardwiredOk (doMoves o raw ms s).1 := by
  unfold doMoves
  split
  · exact .foldl (fun _ _ hs => rawMove_hardwired hs) h
  · exact poisonUnits_hardwired (.foldl (fun _ _ hs => doMove_hardwired hs) h)

theorem askSources_hardwired (h : HardwiredOk s) : HardwiredOk (askSources o l s) :=
  .foldl (fun _ _ hs => outAsk_hardwired hs) h

theorem markBatch_hardwired (h : HardwiredOk s) : HardwiredOk (markBatch o first s) := by
  unfold markBatch
  split
  · exact h
  · exact onRunner_hardwired h (fun _ hr => hr.frame)

theorem endOp_hardwired (h : HardwiredOk s) : HardwiredOk (endOp n s) :=
  finishEnds_hardwired (sweepTeams_hardwired h.frame)

theorem closeOp_hardwired (h : HardwiredOk s) : HardwiredOk (closeOp o first s) :=
  .ite ((markBatch_hardwired h).frame) (endOp_hardwired (markBatch_hardwired h))

/-! ## Sys2Proof/Machine/Barrier.lean -/

theorem teamGroups_allOk (h : HardwiredOk s) : AllOk (teamGroups s uid) := h.runners.filter

theorem squadGroups_allOk (h : HardwiredOk s) : AllOk (squadGroups s uid) := h.runners.filter

theorem resumeGroups_hardwired (h : HardwiredOk s) : HardwiredOk (resumeGroups mine p s) :=
  h.withRunners (.ite h.me.frame h.me) (.map (fun _ hr => .ite hr.frame hr) h.others)

theorem checkpoint_hardwired (h : HardwiredOk s) : HardwiredOk (checkpoint uid s) := by
  unfold checkpoint
  split
  · exact h
  · split
    · exact h
    · have hg : AllOk ((sortBy (·.gno) (teamGroups s uid)).map Runner.atRest) :=
        (teamGroups_allOk h).sortBy.map fun _ hr => atRest_runnerOk hr
      refine HardwiredOk.withCkSave (s := arrive s _) (l := List.filter _ _) (arrive_hardwired h) hg ?_ rfl rfl rfl rfl
      exact fun c hc => (arrive_hardwired h).cksaves c (List.mem_of_mem_filter hc)

theorem fixScales_hardwired (h : HardwiredOk s) : HardwiredOk (fixScales mine s) := h.frame

theorem seeGroups_hardwired (h : HardwiredOk s) : HardwiredOk (seeGroups gs s) := seeAll_hardwired h

theorem settleTeam_hardwired (h : HardwiredOk s) : HardwiredOk (settleTeam uid s) := by
  unfold settleTeam
  split
  · exact h
  · exact .ite h (.ite (checkpoint_hardwired (resumeGroups_hardwired (fixScales_hardwired (seeGroups_hardwired h))))
        (resumeGroups_hardwired (fixScales_hardwired (seeGroups_hardwired h))))

theorem settleSquad_hardwired (h : HardwiredOk s) : HardwiredOk (settleSquad uid s) := by
  unfold settleSquad
  split
  · exact h
  · exact (seeGroups_hardwired h).withRunners (.ite (((seeGroups_hardwired h).me).frame) ((seeGroups_hardwired h).me))
        (.map (fun _ hr => .ite hr.frame hr) ((fixScales_hardwired (seeGroups_hardwired h)).others))

theorem settle_keeps (h : HardwiredOk s) : Keeps (settle team squad s) :=
  .next readyIf_keeps fun _ => .set (settleSquad_hardwired (settleTeam_hardwired h))

/-! ## Sys2Proof/Machine/LeadMem.lean -/

theorem leadAddr_keeps : Keeps (leadAddr z a off) := .next reg_keeps fun _ => .pure

theorem leadBefore_keeps : Keeps (leadBefore o) := .get fun _ _ => .ite .pure before_keeps

theorem leadSc_keeps : Keeps (leadSc o) := .get fun _ _ => .ite .pure scDone_keeps

theorem leadLoad_steps : Steps (leadLoad z signed d a off) :=
  runLead_steps (.next leadAddr_keeps fun _ => .next ordOf_keeps fun _ => .next leadCheck_keeps fun _ =>
    .next leadSc_keeps fun _ => .next leadRead_keeps fun _ => setReg_keeps)

theorem leadStore_steps : Steps (leadStore z d a off) :=
  runLead_steps (.next leadAddr_keeps fun _ => .next ordOf_keeps fun _ => .next reg_keeps fun _ =>
    .next leadCheck_keeps fun _ => .next leadBefore_keeps fun _ => .next leadWrite_keeps fun _ => leadSc_keeps)

theorem leadAtomicForm_steps : Steps (leadAtomicForm w4 d a b f ext) :=
  runLead_steps (.next reg_keeps fun _ => .next ordOf_keeps fun _ => .next reg_keeps fun _ =>
    .next reg_keeps fun _ => .next leadCheck_keeps fun _ => .next leadBefore_keeps fun _ =>
    .next leadAtomic_keeps fun _ => .get fun _ _ => .ite (.next (.update fun _ hs1 => markDirty_hardwired hs1)
    fun _ => setReg_keeps) setReg_keeps)

theorem fenceState_hardwired (h : HardwiredOk s) : HardwiredOk (fenceState scope order s) :=
  .ite (releaseState_hardwired h) h

theorem sysReady_keeps : Keeps (sysReady order) :=
  .get fun _ _ => .next readyIf_keeps fun _ => .next readyIf_keeps fun _ => releaseReady_keeps

theorem sysFence_hardwired (h : HardwiredOk s) : HardwiredOk (sysFence order s) :=
  arriveAll_hardwired (fenceState_hardwired h)

theorem execFence_steps : Steps (execFence sc o) :=
  runLead_steps (.next notInTx_keeps fun _ => .next releaseReady_keeps fun _ => .update fun _ hs =>
    fenceState_hardwired hs)

theorem execFenceSys_steps : Steps (execFenceSys o) :=
  runLead_steps (.next notInTx_keeps fun _ => .next sysReady_keeps fun _ => .update fun _ hs => sysFence_hardwired
    hs)

theorem execFenceSysWin_steps : Steps (execFenceSysWin n o) :=
  runLead_steps (.next notInTx_keeps fun _ => .get fun _ _ => .next readyIf_keeps fun _ =>
    .next sysReady_keeps fun _ => .update fun _ hs1 => sysFence_hardwired hs1)

theorem execWatch_steps : Steps (execWatch d a b) :=
  runLead_steps (.next notInTx_keeps fun _ => .next reg_keeps fun _ => .next ordOf_keeps fun _ =>
    .next leadCheck_keeps fun _ => .next scDone_keeps fun _ => .next leadRead_keeps fun _ =>
    .next reg_keeps fun _ => .ite (.throw (fun _ hs => outSpend_hardwired hs.frameMe)) setReg_keeps)

theorem execWatchWake_steps : Steps (execWatchWake who) :=
  fun _ h => .next (onRunner_hardwired h (fun _ hr => hr.frame))

/-! ## Sys2Proof/Machine/Keys.lean -/

theorem issueUsher_keeps : Keeps (issueUsher u p) :=
  .get fun _ _ => .next readyIf_keeps fun _ => .next readyIf_keeps fun _ => .update fun _ hs1 => queueOp_hardwired
    hs1

theorem usherBody_keeps (hm : ∀ x0, Keeps (m x0)) : Keeps (usherBody v x m) :=
  .next needCtx_keeps fun _ => .next notInTx_keeps fun _ => .get fun _ _ => .next need_keeps fun _ =>
    .next leadCopier_keeps fun _ => hm _

theorem usherForm_steps (hm : ∀ x0, Keeps (m x0)) : Steps (usherForm v x m) :=
  runLead_steps (usherBody_keeps (fun _ => hm _))

theorem ksummPage_keeps : Keeps (ksummPage c a) :=
  .next reg_keeps fun _ => .next operand_keeps fun _ => .get fun _ _ => .next orTrap_keeps fun _ =>
    .next keyCause_keeps fun _ => by
    split
    · exact stopTrap_keeps
    · exact .next need_keeps fun _ => .next need_keeps fun _ => .pure

theorem queueBuild_keeps : Keeps (queueBuild p fmt) := .get fun _ _ => issueUsher_keeps

theorem markPage_hardwired (h : HardwiredOk s) : HardwiredOk (markPage block op part fmt s) := by
  unfold markPage
  split
  · exact h.frame
  · exact .ite h h.frame

theorem ksummMark_steps : Steps (ksummMark fmt a v x) :=
  usherForm_steps (fun _ => .next ksummPage_keeps fun _ => .get fun _ _ => .next need_keeps fun _ => .next
    (.update fun _ hs1 => markPage_hardwired hs1) fun _ => queueBuild_keeps)

theorem markedPage_keeps : Keeps (markedPage p) :=
  .get fun _ _ => by
    split
    · exact .pure
    · exact stopTrap_keeps

theorem execKsummRebuild_steps : Steps (execKsummRebuild a v x) :=
  usherForm_steps (fun _ => .next ksummPage_keeps fun _ => .next markedPage_keeps fun _ => queueBuild_keeps)

theorem execKsummOff_steps : Steps (execKsummOff a v x) :=
  usherForm_steps (fun _ => .next ksummPage_keeps fun _ => issueUsher_keeps)

theorem usherDst_keeps : Keeps (usherDst c a n al) :=
  .get fun _ _ => .next orTrap_keeps fun _ => .next keyCause_keeps fun _ => .next need_keeps fun _ => .pure

theorem execKsummRead_steps : Steps (execKsummRead d a v x) :=
  usherForm_steps (fun _ => .next ksummPage_keeps fun _ => .next markedPage_keeps fun _ => .next reg_keeps fun _ =>
    .next operand_keeps fun _ => .next usherDst_keeps fun _ => .get fun _ _ => issueUsher_keeps)

theorem boundPage_keeps : Keeps (boundPage c fmt va) :=
  .next need_keeps fun _ => .get fun _ _ => .next orTrap_keeps fun _ => .next keyCause_keeps fun _ => by
    split
    · exact stopTrap_keeps
    · exact .next need_keeps fun _ => .next need_keeps fun _ => by
          split
          · exact stopTrap_keeps
          · exact .next need_keeps fun _ => .pure

theorem boundPages_keeps : Keeps (boundPages c fmt l) := by
  induction l generalizing fmt with
  | nil => exact .pure
  | cons va l ih => exact .next boundPage_keeps fun _ => .next ih fun _ => .pure

theorem listHome_keeps : Keeps (listHome a ps) := .get fun _ _ => need_keeps

theorem execKbound_steps : Steps (execKbound a v x) :=
  usherForm_steps (fun _ => .next reg_keeps fun _ => .next operand_keeps fun _ => .next load_keeps fun _ =>
    .next need_keeps fun _ => .next load_keeps fun _ => .next load_keeps fun _ => .next boundPages_keeps fun _ =>
    .next usherDst_keeps fun _ => .next listHome_keeps fun _ => .get fun _ _ => .next issueUsher_keeps fun _ =>
    spend_keeps)

theorem execUsherBound_steps : Steps (execUsherBound op k) := fun _ h => .next h.frame

theorem writeLocs_hardwired (h : HardwiredOk s) : HardwiredOk (writeLocs o dst bs s) :=
  poisonUnits_hardwired (.foldl (fun _ _ hs => locWrite_hardwired hs) h)

theorem touchLocs_hardwired (h : HardwiredOk s) : HardwiredOk (touchLocs l s) :=
  .foldl (fun _ _ hs => srcTouch_hardwired hs) h

theorem execKlist_steps : Steps (execKlist d a b v x) :=
  usherForm_steps (fun _ => .next reg_keeps fun _ => .next operand_keeps fun _ => .next reg_keeps fun _ =>
    .next operand_keeps fun _ => .next load_keeps fun _ => .next load_keeps fun _ => .next need_keeps fun _ =>
    .next need_keeps fun _ => .next reg_keeps fun _ => .next operand_keeps fun _ => .next reg_keeps fun _ =>
    .next operand_keeps fun _ => .next reg_keeps fun _ => .next operand_keeps fun _ => .get fun _ _ =>
    .next orTrap_keeps fun _ => .next orTrap_keeps fun _ => .next keyCause_keeps fun _ =>
    .next usherDst_keeps fun _ => .next listHome_keeps fun _ => .next need_keeps fun _ =>
    .next issueUsher_keeps fun _ => spend_keeps)

theorem fetchPages_keeps : Keeps (fetchPages c vals delta l) := by
  induction l with
  | nil => exact .pure
  | cons e l ih =>
    exact .next need_keeps fun _ => .get fun _ _ => .next orTrap_keeps fun _ => .next keyCause_keeps fun _ =>
      .next ih fun _ => .pure

theorem execKfetch_steps : Steps (execKfetch d a b v x) :=
  runLead_steps (.next needGroup_keeps fun _ => usherBody_keeps (fun _ => .next reg_keeps fun _ =>
    .next need_keeps fun _ => .next reg_keeps fun _ => .next operand_keeps fun _ => .next load_keeps fun _ =>
    .next need_keeps fun _ => .next reg_keeps fun _ => .next operand_keeps fun _ => .next load_keeps fun _ =>
    .next fetchPages_keeps fun _ => .next reg_keeps fun _ => .next need_keeps fun _ =>
    .next scratchSide_keeps fun _ => .get fun _ _ => .next readyIf_keeps fun _ => .next readyIf_keeps fun _ => .next
    (.update fun _ hs1 => queueOp_hardwired hs1) fun _ => spend_keeps))

theorem startBuild_hardwired (h : HardwiredOk s) : HardwiredOk (startBuild op block key s) :=
  .ite h (srcTouch_hardwired h.frame)

theorem endBuild_hardwired (h : HardwiredOk s) : HardwiredOk (endBuild op block key s) :=
  .ite h.frame (srcTouch_hardwired h.frame)

theorem unmark_hardwired (h : HardwiredOk s) : HardwiredOk (unmark op block s) := by
  unfold unmark
  dsimp only
  split
  · exact h.frame
  · exact h.frame

theorem execKsummBuildComplete_steps : Steps (execKsummBuildComplete op) := by
  intro _ h
  unfold execKsummBuildComplete
  split
  · exact .next h
  · split
    · exact .ite (.next (closeOp_hardwired (endBuild_hardwired h))) (.next h)
    · exact .next h

theorem execGatherListMerge_steps : Steps (execGatherListMerge op) := by
  intro _ h
  unfold execGatherListMerge
  split
  · exact .next h
  · split
    · exact .ite (.next (closeOp_hardwired (writeLocs_hardwired h))) (.next h)
    · exact .ite (.next h) (.ite (.next (askSources_hardwired h)) (.next (closeOp_hardwired (writeLocs_hardwired
          (touchLocs_hardwired h)))))
    · exact .next h

theorem execCopyComplete_steps : Steps (execCopyComplete op) := by
  intro _ h
  unfold execCopyComplete
  split
  · exact .next h
  · split
    · exact .ite (.next (closeOp_hardwired (doMoves_hardwired h))) (.next (askSources_hardwired h))
    · exact .ite (.next (closeOp_hardwired (writeLocs_hardwired (touchLocs_hardwired h)))) (.next
          (askSources_hardwired h))
    · exact .ite (.next (closeOp_hardwired (unmark_hardwired h))) (.next h)
    · exact .ite (.next (closeOp_hardwired (writeLocs_hardwired h))) (.next h)
    · exact .next h

theorem workSome_hardwired (h : HardwiredOk s) : HardwiredOk (workSome op skip n s) := by
  unfold workSome
  split
  · exact h
  · dsimp only
    split
    · exact .ite ((doMoves_hardwired h).frame) (askSources_hardwired h)
    · exact .ite ((touchLocs_hardwired h).frame) (askSources_hardwired h)
    · exact .ite (startBuild_hardwired h) h
    · exact h

/-! ## Sys2Proof/Machine/LeadCtl.lean -/

theorem execLrun_steps : Steps (execLrun t) :=
  runLead_steps (.next needGroup_keeps fun _ => .next notInTx_keeps fun _ => .bind getMe_keeps fun _ _ =>
    .next readyIf_keeps fun _ => onMe_keeps (fun _ hr1 => hr1.frame))

theorem drainLanes_hardwired (h : HardwiredOk s) : HardwiredOk (drainLanes s) := arriveAll_hardwired h

theorem waitDrained_keeps : Keeps waitDrained :=
  .get fun _ _ => .get fun _ _ => .next readyIf_keeps fun _ => .update fun _ hs2 => drainLanes_hardwired hs2

theorem execLwait_steps : Steps (execLwait g m) :=
  runLead_steps (.next needGroup_keeps fun _ => .next notInTx_keeps fun _ => .get fun _ _ => .get fun _ _ =>
    .next readyIf_keeps fun _ => .ite (.update fun _ hs2 => drainLanes_hardwired hs2) .pure)

theorem setXb_keeps : Keeps (setXb n x) := onMe_keeps (fun _ hr => hr.frame)

theorem execXbset_steps : Steps (execXbset n a b) :=
  runLead_steps (.next reg_keeps fun _ => .next reg_keeps fun _ => .next need_keeps fun _ => .ite (.get fun _ _ =>
    setXb_keeps) (.get fun _ _ => by
    split
    · exact stopTrap_keeps
    · exact .next need_keeps fun _ => .next (.update fun _ hs1 => .ite hs1 (walkReads_hardwired hs1)) fun _ =>
          setXb_keeps))

theorem execXbclr_steps : Steps (execXbclr n) := runLead_steps setXb_keeps

theorem execOsdef_steps : Steps (execOsdef n a) :=
  runLead_steps (.next needGroup_keeps fun _ => .next notInTx_keeps fun _ => .next reg_keeps fun _ => .next
    leadCheck_keeps fun _ => .next leadRead_keeps fun w => by
      dsimp only
      generalize leBytes 64 w = bytes -- else the elaborator computes the descriptor
      exact .get fun _ hs => .next need_keeps fun _ => .set hs.frame)

theorem endStream_hardwired (h : HardwiredOk s) : HardwiredOk (endStream gal os s) := by
  unfold endStream
  split
  · exact h
  · refine HardwiredOk.frame (s := outSpend _ _ (ite _ _ _)) (outSpend_hardwired ?_) rfl rfl rfl rfl
    exact .ite h (onRunner_hardwired h fun _ hr => hr.frame)

theorem execOsend_steps : Steps (execOsend n) :=
  runLead_steps (.next needGroup_keeps fun _ => .next notInTx_keeps fun _ => .get fun _ _ =>
    .next need_keeps fun _ => .next readyIf_keeps fun _ => .update fun _ hs1 => endStream_hardwired hs1)

theorem pieceRead_hardwired (h : HardwiredOk s) : HardwiredOk (pieceRead x t n s) :=
  .ite (markAccess_hardwired h) (.ite (badAddr_hardwired (markAccess_hardwired h)) (.ite (countRange_hardwired
    (touch_hardwired (markAccess_hardwired h))) (markAccess_hardwired h)))

theorem readElement_hardwired (h : HardwiredOk s) (hr : readElement s x i = .ok p) : HardwiredOk p.2 := by
  unfold readElement at hr
  dsimp only at hr
  split at hr
  · cases hr
  · split at hr
    · cases hr
    · split at hr
      · cases hr
      · split at hr
        · cases hr
          exact h
        · split at hr
          · cases hr
            exact outSpend_hardwired (.foldl (fun _ _ hs => pieceRead_hardwired hs) h)
          · cases hr
            exact .foldl (fun _ _ hs => outAsk_hardwired hs) h

theorem onStream_hardwired (h : HardwiredOk s) : HardwiredOk (onStream gal os f s) := h.frame

theorem elementEntry_hardwired (h : HardwiredOk s) : HardwiredOk (elementEntry s x i).2 := by
  unfold elementEntry
  split
  · rename_i hr
    exact readElement_hardwired h hr
  · exact h

theorem execStreamElementRead_steps : Steps (execStreamElementRead gal os) := by
  intro s h
  unfold execStreamElementRead
  split
  · exact .next h
  · rename_i x _
    have ht := elementEntry_hardwired (x := x) (i := x.next) h
    split
    · exact .next h
    · dsimp only
      refine .ite (.next h) ?_
      split
      · rename_i he
        rw [he] at ht
        exact .next (onStream_hardwired (onRunner_hardwired ht fun _ hr => hr.frame))
      · rename_i he
        rw [he] at ht
        exact .next ht

theorem rereadMarked_hardwired (h : HardwiredOk s) : HardwiredOk (rereadMarked a s) := by
  refine .foldl (fun s q hs => ?_) h
  dsimp only
  split
  · exact hs
  · split
    · rename_i x e _ _
      have ht := elementEntry_hardwired (x := x) (i := e.elem) hs
      split
      · rename_i he
        rw [he] at ht
        exact ht.frameMe
      · rename_i he
        rw [he] at ht
        exact onStream_hardwired ht.frameMe
    · exact hs

/-! ## Sys2Proof/Machine/Matrix.lean -/

theorem needTeam_keeps : Keeps needTeam :=
  .get fun _ _ => by
    split
    · exact .pure
    · exact stopTrap_keeps

theorem needFormat_keeps : Keeps (needFormat t w rows cols total) :=
  .next need_keeps fun _ => .get fun _ _ => by
    split
    · exact stopTrap_keeps
    · exact .pure

theorem needVersion_keeps : Keeps (needVersion t tiles ver) :=
  .next need_keeps fun _ => .next need_keeps fun _ => .get fun _ _ => need_keeps

theorem needTile_keeps : Keeps (needTile t k) := need_keeps

theorem queueMatrix_keeps : Keeps (queueMatrix t kind tiles ver flag) :=
  .get fun _ _ => .next readyIf_keeps fun _ => .update fun _ hs1 => hs1.frame

theorem wholeGroup_keeps {α : Type} {m : Op α} (hm : Keeps m) : Keeps (wholeGroup m) :=
  hm.changeStop fun s => by
    simp only [StateT.run, wholeGroup]
    split
    · exact .inr ⟨_, rfl, trivial⟩
    · exact .inl rfl

theorem needImages_keeps : Keeps (needImages s a na b nb) :=
  .next need_keeps fun _ => .next need_keeps fun _ => notPending_keeps

theorem needUnprotected_keeps : Keeps needUnprotected := .get fun _ _ => need_keeps

theorem execMma_steps : Steps execMma :=
  runLane_steps fun _ => wholeGroup_keeps (.next needUnprotected_keeps fun _ => .get fun _ _ =>
    .next need_keeps fun _ => .next needTeam_keeps fun _ => .next needTile_keeps fun _ => .ite
    (.next need_keeps fun _ => .next needImages_keeps fun _ => .ite (.next needFormat_keeps fun _ =>
    .next needVersion_keeps fun _ => .next readyIf_keeps fun _ => .next queueMatrix_keeps fun _ => flagStart_keeps)
    (.next needVersion_keeps fun _ => .next readyIf_keeps fun _ => .next queueMatrix_keeps fun _ => flagStart_keeps))
    (.next needImages_keeps fun _ => .ite (.next needFormat_keeps fun _ => .next needVersion_keeps fun _ =>
    .next readyIf_keeps fun _ => .next queueMatrix_keeps fun _ => flagStart_keeps) (.next needVersion_keeps fun _ =>
    .next readyIf_keeps fun _ => .next queueMatrix_keeps fun _ => flagStart_keeps)))

theorem execAccrd_steps : Steps execAccrd :=
  runLane_steps fun _ => wholeGroup_keeps (.next needUnprotected_keeps fun _ => .next needTeam_keeps fun _ =>
    .next needTile_keeps fun _ => .next needVersion_keeps fun _ => .next queueMatrix_keeps fun _ => flagStart_keeps)

theorem execAccwr_steps : Steps execAccwr :=
  runLane_steps fun _ => wholeGroup_keeps (.next needUnprotected_keeps fun _ => .get fun _ _ =>
    .next needTeam_keeps fun _ => .next needTile_keeps fun _ => .next needVersion_keeps fun _ =>
    .next queueMatrix_keeps fun _ => flagStart_keeps)

theorem onSub_hardwired (h : HardwiredOk s) : HardwiredOk (onSub core' port f s) := h.frame

theorem execMloop_steps : Steps (execMloop a b) :=
  runLead_steps (.next needGroup_keeps fun _ => .next notInTx_keeps fun _ => .next reg_keeps fun _ =>
    .next reg_keeps fun _ => .next needTeam_keeps fun _ => .next need_keeps fun _ => .next need_keeps fun _ => .ite
    (.next needFormat_keeps fun _ => .get fun _ _ => .next need_keeps fun _ => .next needVersion_keeps fun _ =>
    queueMatrix_keeps) (.get fun _ _ => .next need_keeps fun _ => .next needVersion_keeps fun _ => queueMatrix_keeps))

theorem execOsub_steps : Steps (execOsub n p k w) :=
  runLead_steps (.next needGroup_keeps fun _ => .next notInTx_keeps fun _ => .get fun _ _ => by
    dsimp only
    split
    · exact stopTrap_keeps
    · exact .next need_keeps fun _ => .update fun _ hs1 => onStream_hardwired hs1.frame)

theorem execAccz_steps : Steps (execAccz a) :=
  runLead_steps (.next needGroup_keeps fun _ => .next notInTx_keeps fun _ => .next reg_keeps fun _ =>
    .next needTeam_keeps fun _ => .next need_keeps fun _ => .next needVersion_keeps fun _ => queueMatrix_keeps)

theorem accMove_steps : Steps (accMove t a b y write kind) :=
  runLead_steps (.next needGroup_keeps fun _ => .next notInTx_keeps fun _ => .next reg_keeps fun _ =>
    .next reg_keeps fun _ => .next needTeam_keeps fun _ => .next needTile_keeps fun _ => .next need_keeps fun _ =>
    .next need_keeps fun _ => .next need_keeps fun _ => .get fun _ _ => .next need_keeps fun _ =>
    .next needVersion_keeps fun _ => queueMatrix_keeps)

theorem execAccver_steps : Steps (execAccver d t) :=
  runLead_steps (.next needGroup_keeps fun _ => .next notInTx_keeps fun _ => .next needTeam_keeps fun _ =>
    .next needTile_keeps fun _ => setReg_keeps)

theorem execAccverWait_steps : Steps (execAccverWait a t) :=
  runLead_steps (.next needGroup_keeps fun _ => .next notInTx_keeps fun _ => .next needTeam_keeps fun _ =>
    .next needTile_keeps fun _ => .next reg_keeps fun _ => .next need_keeps fun _ => readyIf_keeps)

theorem execAccverSet_steps : Steps (execAccverSet a t) :=
  runLead_steps (.next needGroup_keeps fun _ => .next notInTx_keeps fun _ => .next needTeam_keeps fun _ =>
    .next needTile_keeps fun _ => .next reg_keeps fun _ => .next need_keeps fun _ => .get fun _ _ =>
    .next readyIf_keeps fun _ => .update fun _ hs1 => onTeam_hardwired hs1)

theorem onCoreOp_hardwired (h : HardwiredOk s) : HardwiredOk (onCoreOp core' k f s) := h.frame

theorem dropCoreOp_hardwired (h : HardwiredOk s) : HardwiredOk (dropCoreOp core' k s) := h.frame

theorem execMatrixOperationStart_steps : Steps (execMatrixOperationStart core' k) := by
  intro _ h
  unfold execMatrixOperationStart
  split
  · exact .next h
  · exact .ite (.next (onCoreOp_hardwired h)) (.next h)

theorem takeBytes_hardwired (h : HardwiredOk s) : HardwiredOk (takeBytes core' port n s).2 := onSub_hardwired h

theorem endSubs_hardwired (h : HardwiredOk s) : HardwiredOk (endSubs core' s) := h.frame

theorem execMloopKStep_steps : Steps (execMloopKStep core') := by
  intro _ h
  unfold execMloopKStep
  split
  · exact .next h
  · split
    · exact .next h
    · split
      · exact .ite (.ite (.next (endSubs_hardwired (onCoreOp_hardwired (onTeam_hardwired (takeBytes_hardwired
            (takeBytes_hardwired h)))))) (.next (onCoreOp_hardwired (takeBytes_hardwired (takeBytes_hardwired h)))))
            (.next h)
      · exact .next h

theorem effect_hardwired (h : HardwiredOk s) : HardwiredOk (MOp.effect m s) := by
  unfold MOp.effect
  split
  · exact onTeam_hardwired h
  · exact h
  · exact onTeam_hardwired h
  · exact onTeam_hardwired h
  · exact onTeam_hardwired h
  · split
    · exact onRunner_hardwired h (fun _ hr => hr.frame)
    · exact h
  · exact onTeam_hardwired h

theorem finishMatrix_hardwired (h : HardwiredOk s) : HardwiredOk (finishMatrix core' k m s) := by
  unfold finishMatrix
  dsimp only
  refine sweepTeams_hardwired (dropCoreOp_hardwired ?_)
  split
  · exact flagDone_hardwired (onTeam_hardwired (effect_hardwired h))
  · exact onTeam_hardwired (effect_hardwired h)

theorem execMatrixOperationComplete_steps : Steps (execMatrixOperationComplete core' k) := by
  intro _ h
  unfold execMatrixOperationComplete
  split
  · exact .next h
  · exact .ite (.next (finishMatrix_hardwired h)) (.next h)

theorem distributorHalt_hardwired (h : HardwiredOk s) : HardwiredOk (distributorHalt x e s) :=
  .ite (raiseHalt_hardwired h) h

theorem execDistributorElementRead_steps : Steps (execDistributorElementRead gal os) := by
  intro s h
  unfold execDistributorElementRead
  split
  · exact .next h
  · refine .ite (.next h) (.ite (.next ?_) ?_)
    · rename_i x _
      cases x.fault with
      | none => exact h
      | some e => exact distributorHalt_hardwired h
    · split
      · exact .next (distributorHalt_hardwired (onStream_hardwired h))
      · rename_i hr
        exact .next (readElement_hardwired h hr)
      · rename_i hr
        exact .next (onStream_hardwired (readElement_hardwired h hr).frame)

/-! ## Sys2Proof/Machine/Launch.lean -/

theorem readTable_keeps : Keeps (readTable ta) :=
  .next load_keeps fun _ => .next need_keeps fun _ => .next load_keeps fun _ => .next need_keeps fun _ => by
    split
    · exact .pure
    · exact stopTrap_keeps

theorem faultingAt_keeps {α : Type} {m : Op α} (hm : Keeps m) : Keeps (faultingAt a m) :=
  hm.changeStop fun s => by
    simp only [StateT.run, faultingAt]
    split
    · exact .inr ⟨_, rfl, trivial⟩
    · exact .inl rfl

theorem namedWord_keeps : Keeps (namedWord a n) :=
  .get fun _ _ => by
    split
    · exact stopTrap_keeps
    · exact .pure

theorem predWords_keeps : Keeps (predWords l) := by
  induction l with
  | nil => exact .pure
  | cons p l ih =>
    exact .ite ih (.next namedWord_keeps fun _ => .get fun _ _ => .next ih fun _ => .pure)

theorem clearDone_keeps : Keeps (clearDone t) :=
  .get fun _ _ => .next readyIf_keeps fun _ => .next writeAt_keeps fun _ => .update fun _ hs1 =>
    drainSectors_hardwired hs1

theorem launchForm_steps : Steps (launchForm d a try_) :=
  runLead_steps (.next needCtx_keeps fun _ => .next notInTx_keeps fun _ => .get fun _ _ =>
    .next readyIf_keeps fun _ => .next before_keeps fun _ => .next reg_keeps fun _ => .next need_keeps fun _ =>
    .next leadCheck_keeps fun _ => .get fun _ _ => .next readAt_keeps fun _ => .get fun _ _ =>
    .next need_keeps fun _ => .next need_keeps fun _ => .ite (.next .pure fun _ => .next need_keeps fun _ => .next
    (faultingAt_keeps namedWord_keeps) fun _ => .next need_keeps fun _ => .next (faultingAt_keeps predWords_keeps)
    fun _ => .next (faultingAt_keeps predWords_keeps) fun _ => .ite (.ite (.next setReg_keeps fun _ =>
    .get fun _ _ => spendAnswers_keeps) .throwBind) (.next clearDone_keeps fun _ => .next (.update fun _ hs3 =>
    hs3.frame) fun _ => .next (.update fun _ hs3 => markDirty_hardwired hs3) fun _ => .next setReg_keeps fun _ =>
    .get fun _ _ => spendAnswers_keeps)) (.next (faultingAt_keeps readTable_keeps) fun _ =>
    .next need_keeps fun _ => .next (faultingAt_keeps namedWord_keeps) fun _ => .next need_keeps fun _ => .next
    (faultingAt_keeps predWords_keeps) fun _ => .next (faultingAt_keeps predWords_keeps) fun _ => .ite (.ite
    (.next setReg_keeps fun _ => .get fun _ _ => spendAnswers_keeps) .throwBind) (.next clearDone_keeps fun _ =>
    .next (.update fun _ hs3 => hs3.frame) fun _ => .next (.update fun _ hs3 => markDirty_hardwired hs3) fun _ =>
    .next setReg_keeps fun _ => .get fun _ _ => spendAnswers_keeps)))

theorem execLwaitg_steps : Steps (execLwaitg d a) :=
  runLead_steps (.next notInTx_keeps fun _ => .next reg_keeps fun _ => .next leadCheck_keeps fun _ =>
    .next leadRead_keeps fun _ => .ite setReg_keeps (.throw (fun _ hs => .ite hs (outSpend_hardwired hs.frameMe))))

theorem execGstat_steps : Steps (execGstat d a) :=
  runLead_steps (.next reg_keeps fun _ => .get fun _ _ => by
    split
    · exact setReg_keeps
    · exact setReg_keeps)

theorem execTexit_steps : Steps execTexit :=
  runLead_steps (.next needGroup_keeps fun _ => .next notInTx_keeps fun _ => .next waitDrained_keeps fun _ =>
    .get fun _ hs => settle_keeps (countExit_hardwired (dropRunners_hardwired hs)))

theorem execGexit_steps : Steps (execGexit a b) :=
  runLead_steps (.next notInTx_keeps fun _ => .get fun _ _ => .next readyIf_keeps fun _ =>
    .next before_keeps fun _ => .next reg_keeps fun _ => .next reg_keeps fun _ => .next (.update fun _ hs1 =>
    markDirty_hardwired hs1) fun _ => .get fun _ _ => by
    split
    · exact .update fun _ hs2 => endGrid_hardwired hs2
    · exact .pure)

theorem execVgrow_steps : Steps (execVgrow d a) :=
  runLead_steps (.next needGroup_keeps fun _ => .next notInTx_keeps fun _ => .next reg_keeps fun _ =>
    .next need_keeps fun _ => .get fun _ _ => .ite setReg_keeps (.next need_keeps fun _ => .ite
    (.next onLanes_keeps fun _ => setReg_keeps) (.throw (fun _ hs1 => hs1.frameMe))))

theorem execVshrink_steps : Steps (execVshrink d a) :=
  runLead_steps (.next needGroup_keeps fun _ => .next notInTx_keeps fun _ => .next reg_keeps fun _ =>
    .next need_keeps fun _ => .get fun _ _ => .ite setReg_keeps (.next waitDrained_keeps fun _ =>
    .next onLanes_keeps fun _ => setReg_keeps))

/-! ## Sys2Proof/Machine/System.lean -/

theorem tlbAll_hardwired (h : HardwiredOk s) : HardwiredOk (tlbAll s) := invalidate_hardwired h

theorem tlbCtx_hardwired (h : HardwiredOk s) : HardwiredOk (tlbCtx n s) := invalidate_hardwired h

theorem tlbPage_hardwired (h : HardwiredOk s) : HardwiredOk (tlbPage n va k s) := invalidate_hardwired h

theorem tlbWrite_hardwired (h : HardwiredOk s) : HardwiredOk (tlbWrite v s) :=
  .ite (tlbAll_hardwired h) (.ite (tlbCtx_hardwired h) (tlbPage_hardwired h))

theorem createCtx_hardwired (h : HardwiredOk s) : HardwiredOk (createCtx n s) := .ite h h.frame

theorem switchCtx_hardwired (h : HardwiredOk s) : HardwiredOk (switchCtx n s) :=
  (performTickets_hardwired (arriveAll_hardwired h)).withMe ((setAside_runnerOk ((performTickets_hardwired
    (arriveAll_hardwired h)).me)).frame)

theorem setLswz_hardwired (h : HardwiredOk s) : HardwiredOk (setLswz v s) := .ite h (onTeam_hardwired h)

theorem setCtxReg_hardwired (h : HardwiredOk s) : HardwiredOk (setCtxReg f s) := h.frame

theorem setPartReg_hardwired (h : HardwiredOk s) : HardwiredOk (setPartReg f s) := h.frame

theorem csrStore_hardwired (h : HardwiredOk s) : HardwiredOk (csrStore c v s) := by
  unfold csrStore
  dsimp only
  split
  · exact setLswz_hardwired h
  · exact .ite h h.frameMe
  · exact h.frameMe
  · exact setCtxReg_hardwired h
  · exact setCtxReg_hardwired h
  · exact h.frameMe
  · exact h.frameMe
  · exact h.frameMe
  · exact .ite h h.frameMe
  · exact h.frameMe
  · exact .ite h h.frameMe
  · exact .ite h.frameMe (setCtxReg_hardwired h)
  · exact setCtxReg_hardwired h
  · exact h.frameMe
  · exact h.frameMe
  · exact setCtxReg_hardwired h
  · exact setCtxReg_hardwired h
  · exact setCtxReg_hardwired h
  · exact setCtxReg_hardwired h
  · exact setCtxReg_hardwired h
  · exact setCtxReg_hardwired h
  · exact setCtxReg_hardwired h
  · exact setCtxReg_hardwired h
  · exact h.frameMe
  · exact setClk_hardwired h
  · exact setPartReg_hardwired h
  · exact .ite (setPartReg_hardwired h) h

theorem csrWrite_keeps : Keeps (csrWrite c v) := by
  unfold csrWrite
  split
  · exact .next needField_keeps fun _ => .update fun _ hs => tlbWrite_hardwired hs
  · exact .next needField_keeps fun _ => .update fun _ hs => createCtx_hardwired hs
  · exact .get fun _ _ => .next needField_keeps fun _ => .get fun _ _ => .next readyIf_keeps fun _ =>
        .next readyIf_keeps fun _ => .update fun _ hs2 => switchCtx_hardwired hs2
  · exact .update fun _ hs => csrStore_hardwired hs

theorem csrNamed_keeps : Keeps (csrNamed c) :=
  .get fun _ _ => by
    split
    · exact .get fun _ _ => stopTrap_keeps
    · exact .ite (.next needSup_keeps fun _ => .pure) .pure

theorem csrForm_steps : Steps (csrForm d a c f) :=
  runLead_steps (.next csrNamed_keeps fun _ => .next notInTx_keeps fun _ => .next reg_keeps fun _ =>
    .next csrWrite_keeps fun _ => setReg_keeps)

theorem execCsrrd_steps : Steps (execCsrrd d c) := runLead_steps (.next csrNamed_keeps fun _ => setReg_keeps)

theorem execVcsrrd_steps : Steps execVcsrrd := fun _ h => (runLane_steps fun _ => .get fun _ _ => writeD_keeps) _ h

theorem clearStreamFault_hardwired (h : HardwiredOk s) : HardwiredOk (clearStreamFault s) := h.frame

theorem rereadTrapped_hardwired (h : HardwiredOk s) : HardwiredOk (rereadTrapped s) := by
  unfold rereadTrapped
  split
  · exact .ite (rereadMarked_hardwired h) h
  · exact h

theorem beforeBack_keeps : Keeps beforeBack := .bind getMe_keeps fun _ _ => .ite before_keeps .pure

theorem execRfe_steps : Steps execRfe :=
  runLead_steps (.next needSup_keeps fun _ => .next notInTx_keeps fun _ => .get fun _ _ => .ite
    (.next need_keeps fun _ => .next beforeBack_keeps fun _ => onMe_keeps (fun _ hr1 => hostReturn_runnerOk hr1))
    (.next waitDrained_keeps fun _ => .next beforeBack_keeps fun _ => .next (.update fun _ hs1 =>
    clearStreamFault_hardwired (rereadTrapped_hardwired hs1)) fun _ => onMe_keeps (fun _ hr1 => groupReturn_runnerOk
    hr1)))

theorem execTrap_steps : Steps (execTrap i) := runLead_steps (.next notInTx_keeps fun _ => .get fun _ _ => .throw)

theorem suspendCtx_hardwired (h : HardwiredOk s) : HardwiredOk (suspendCtx n s) := h.frame

theorem assertFail_hardwired (h : HardwiredOk s) : HardwiredOk (assertFail msg pc slot fail lane s) := by
  unfold assertFail
  split
  · exact h
  · exact (physWrite_hardwired h).frameMe

theorem execAssert_steps : Steps (execAssert a b) :=
  runLead_steps (.next notInTx_keeps fun _ => .get fun _ _ => .next reg_keeps fun _ => .ite .pure (.ite
    (.next reg_keeps fun _ => stopTrap_keeps) (.ite (.throwBind (fun _ hs1 => hs1.frameMe)) (.next (onMe_keeps
    (fun _ hr1 => hr1.frame)) fun _ => .next reg_keeps fun _ => .update fun _ hs1 => assertFail_hardwired hs1))))

theorem stopLanes_hardwired (h : HardwiredOk s) : HardwiredOk (stopLanes s) := h.frameMe

theorem execLaneAssert_steps : Steps execLaneAssert :=
  runLane_steps fun _ => .get fun _ _ => by
    dsimp only
    split
    · exact .pure
    · exact .ite .throwBind (.ite (.throwBind (fun _ hs1 => stopLanes_hardwired hs1.frameMe)) (.next (onMe_keeps
          (fun _ hr1 => hr1.frame)) fun _ => .update fun _ hs1 => stopLanes_hardwired (assertFail_hardwired hs1)))

theorem execHaltpCtx_steps : Steps (execHaltpCtx a) :=
  runLead_steps (.next needSup_keeps fun _ => .next notInTx_keeps fun _ => .get fun _ _ => .next reg_keeps fun _ =>
    by
    dsimp only
    split
    · exact readyIf_keeps
    · exact .next readyIf_keeps fun _ => .ite (.update fun _ hs1 => endContext_hardwired hs1) (.throw (fun _ hs1 =>
          endContext_hardwired hs1)))

theorem execHaltpPart_steps : Steps (execHaltpPart a) :=
  runLead_steps (.next needSup_keeps fun _ => .next notInTx_keeps fun _ => .get fun _ _ => .next reg_keeps fun _ =>
    .update fun _ hs1 => hs1.frame)

theorem execPreemptSus_steps : Steps (execPreemptSus a) :=
  runLead_steps (.next needSup_keeps fun _ => .next notInTx_keeps fun _ => .get fun _ _ => .next reg_keeps fun _ =>
    .ite .pure (.ite (.update fun _ hs1 => suspendCtx_hardwired hs1) (.throw (fun _ hs1 => suspendCtx_hardwired hs1))))

theorem execPreemptRes_steps : Steps (execPreemptRes a) :=
  runLead_steps (.next needSup_keeps fun _ => .next notInTx_keeps fun _ => .next reg_keeps fun _ =>
    .update fun _ hs => hs.frame)

theorem armForm_steps : Steps (armForm a b rep) :=
  runLead_steps (.next needSup_keeps fun _ => .next notInTx_keeps fun _ => .next reg_keeps fun _ =>
    .next needField_keeps fun _ => .next reg_keeps fun _ => .update fun _ hs => hs.frame)

theorem execCkptPool_steps : Steps (execCkptPool a b) :=
  runLead_steps (.next needSup_keeps fun _ => .next notInTx_keeps fun _ => .next reg_keeps fun _ =>
    .next reg_keeps fun _ => .next need_keeps fun _ => .next need_keeps fun _ => .get fun _ _ =>
    .next readyIf_keeps fun _ => .update fun _ hs1 => setCtxReg_hardwired hs1)

theorem execCkptStat_steps : Steps (execCkptStat d) :=
  runLead_steps (.next needGroup_keeps fun _ => .next needSup_keeps fun _ => .next notInTx_keeps fun _ =>
    .get fun _ _ => setReg_keeps)

theorem execCkptRb_steps : Steps execCkptRb :=
  runLead_steps (.next needGroup_keeps fun _ => .next needSup_keeps fun _ => .next notInTx_keeps fun _ => .throw
    (fun _ hs => fatalGroup_hardwired hs))

theorem execTlbInvalidateAll_steps : Steps execTlbInvalidateAll := fun _ h => .next (tlbAll_hardwired h)

theorem execTlbInvalidateContext_steps : Steps execTlbInvalidateContext := fun _ h => .next (tlbCtx_hardwired h)

theorem execTlbInvalidatePage_steps : Steps (execTlbInvalidatePage va k) := fun _ h => .next (tlbPage_hardwired h)

theorem execCtxctlCreate_steps : Steps (execCtxctlCreate n) := fun _ h => .next (createCtx_hardwired h)

theorem execCurctxWrite_steps : Steps (execCurctxWrite n) :=
  runEvent_steps (.get fun _ _ => .next readyIf_keeps fun _ => csrWrite_keeps)

theorem execLswzWrite_steps : Steps (execLswzWrite v) := fun _ h => .next (setLswz_hardwired h)

theorem execRegisterWrite_steps : Steps (execRegisterWrite c v) :=
  runEvent_steps (.get fun _ _ => .next readyIf_keeps fun _ => csrWrite_keeps)

theorem onDev_hardwired (h : HardwiredOk s) : HardwiredOk (onDev f s) := h.frame

theorem execKeyInstall_steps : Steps (execKeyInstall n v) := fun _ h => .next (onDev_hardwired h)

theorem execWindowRegisterWrite_steps : Steps (execWindowRegisterWrite n ctl v) :=
  fun _ h => .next (onDev_hardwired h)

theorem execCounterClear_steps : Steps (execCounterClear off) := fun _ h => .next (onDev_hardwired h)

theorem execNoticeClear_steps : Steps (execNoticeClear v) := fun _ h => .next (onDev_hardwired h)

/-! ## Sys2Proof/Machine/Slots.lean -/

theorem writeImage_hardwired (h : HardwiredOk s) : HardwiredOk (writeImage a img s) := (physWrite_hardwired h).frame

theorem restoreGroup_runnerOk : RunnerOk (restoreGroup s base r) := fromImage_runnerOk.withLanes _

theorem storeSpill_hardwired (h : HardwiredOk s) : HardwiredOk (storeSpill a old new s) :=
  .ite h (physWrite_hardwired h)

theorem spillAll_hardwired (h : HardwiredOk s) : HardwiredOk (spillAll old s) :=
  .foldl (fun _ _ hs => storeSpill_hardwired (storeSpill_hardwired hs)) h

theorem saveTeam_hardwired (h : HardwiredOk s) : HardwiredOk (saveTeam base s t) :=
  .foldl (fun _ _ hs => writeImage_hardwired hs) (.foldl (fun _ _ hs => physWrite_hardwired hs) (.foldl
    (fun _ _ hs => physWrite_hardwired hs) (physWrite_hardwired h)))

theorem leave_runnerOk (hr : RunnerOk r) : RunnerOk (Runner.leave r) := (txRestart_runnerOk hr).frame

theorem saveGroup_hardwired (h : HardwiredOk s) : HardwiredOk (saveGroup base s r) := writeImage_hardwired h

theorem assertNotice_hardwired (h : HardwiredOk s) : HardwiredOk (assertNotice n s) := by
  unfold assertNotice
  split
  · exact .ite h (notify_hardwired h.frame)
  · exact h

theorem putBack_hardwired (h : HardwiredOk s) : HardwiredOk (putBack m s) := by
  unfold putBack
  split
  · exact onSub_hardwired (onSub_hardwired h)
  · exact h

theorem saveSquad_hardwired (h : HardwiredOk s) : HardwiredOk (saveSquad q s) := by
  unfold saveSquad
  dsimp only
  have hput := fun l => HardwiredOk.foldl (l := l) (fun _ m hs => putBack_hardwired (m := m) hs)
    (arriveAll_hardwired (p := fun w => (squadGroups s q.uid).any fun r => r.id == w.who) h)
  refine assertNotice_hardwired (dropRunners_hardwired
    (HardwiredOk.withSaved (s := List.foldl _ _ _) ?_ ?_ rfl rfl rfl rfl))
  · exact .foldl (fun _ _ hs => saveTeam_hardwired hs) (.foldl (fun _ _ hs => saveGroup_hardwired hs) (hput _).frame)
  · exact (squadGroups_allOk (hput _).frame).map fun _ hr => leave_runnerOk hr

theorem execPreemptionComplete_steps : Steps (execPreemptionComplete squad) := by
  intro _ h
  unfold execPreemptionComplete
  split
  · exact .ite (.next (saveSquad_hardwired h)) (.next h)
  · exact .next h

/-! ## Sys2Proof/Machine/Place.lean -/

theorem startRegs_zero : vget (startRegs g t gno) 0 = 0 := by simp [startRegs, vget]

theorem startGroup_runnerOk : RunnerOk (startGroup g t uid gno slot) := ⟨startRegs_zero, rfl⟩

theorem firstCheckpoint_hardwired (h : HardwiredOk s) (hg : AllOk gs) : HardwiredOk (firstCheckpoint t gs s) := by
  unfold firstCheckpoint
  split
  · exact h
  · exact HardwiredOk.withCkSave (s := writeImage _ _ s) (writeImage_hardwired h)
      (hg.map fun _ hr => atRest_runnerOk hr) h.cksaves rfl rfl rfl rfl

theorem placeTeam_hardwired (h : HardwiredOk s) (hp : placeTeam g squad i seat s = some t) : HardwiredOk t := by
  unfold placeTeam at hp
  dsimp only at hp
  split at hp
  · obtain ⟨a, -, rfl⟩ := Option.map_eq_some_iff.mp hp
    exact firstCheckpoint_hardwired (h.withRunners h.me (h.others.append (.ofMap fun _ => startGroup_runnerOk)))
      (.ofMap fun _ => startGroup_runnerOk)
  · cases hp
    exact firstCheckpoint_hardwired (h.withRunners h.me (h.others.append (.ofMap fun _ => startGroup_runnerOk)))
      (.ofMap fun _ => startGroup_runnerOk)

theorem placeSquad_hardwired (h : HardwiredOk s) (hp : placeSquad g gal seats s = some t) : HardwiredOk t := by
  unfold placeSquad at hp
  refine HardwiredOk.foldlBind (fun _ _ _ hs hx => placeTeam_hardwired hs hx) ?_ hp
  exact h.frame

theorem resumeSquad_hardwired (h : HardwiredOk s) : HardwiredOk (resumeSquad v gal seats s) := by
  unfold resumeSquad
  dsimp only
  have ht := fun n x => HardwiredOk.ite (p := slotPoisoned s (slotBase s v.squad.ctx) v.teams v.groups)
    (raiseHalt_hardwired (part := n) (h := x) h) h
  refine HardwiredOk.iff.mpr
    ⟨(ht _ _).me, h.others.append (.mapZipIdx (fun _ _ hr => hr.frame) ?_), ?_, (ht _ _).cksaves⟩
  · exact .ofFlatMap fun _ => .ofMap fun _ => restoreGroup_runnerOk.seated _ _
  · exact fun x hx => h.saved x (List.mem_of_mem_filter hx)

theorem placeOn_hardwired (h : HardwiredOk s) (hp : placeOn s c gal = some t) : HardwiredOk t := by
  unfold placeOn at hp
  split at hp
  · cases hp
  · split at hp
    · split at hp
      · cases hp
      · obtain ⟨seats, -, rfl⟩ := Option.map_eq_some_iff.mp hp
        exact resumeSquad_hardwired h
    · obtain ⟨seats, -, hp⟩ := Option.bind_eq_some_iff.mp hp
      exact placeSquad_hardwired h hp

theorem bestPlace_hardwired (h : HardwiredOk s) (hp : bestPlace s p c = some t) : HardwiredOk t := by
  obtain ⟨gal, -, hp⟩ := List.exists_of_findSome?_eq_some hp
  exact placeOn_hardwired h (Option.eq_some_of_filter_eq_some hp)

theorem markHeads_hardwired (h : HardwiredOk s) : HardwiredOk (markHeads old s) := h.frame

theorem placeByClass_hardwired (h : HardwiredOk s) (hp : placeByClass s p = some t) : HardwiredOk t := by
  obtain ⟨c, -, hp⟩ := List.exists_of_findSome?_eq_some hp
  obtain ⟨k, -, hp⟩ := List.exists_of_findSome?_eq_some hp
  split at hp
  · cases hp
  · obtain ⟨u, hu, rfl⟩ := Option.map_eq_some_iff.mp hp
    exact (bestPlace_hardwired h hu).frame

theorem nextPlacement_hardwired (h : HardwiredOk s) (hp : nextPlacement s p = some t) : HardwiredOk t := by
  unfold nextPlacement at hp
  split at hp
  · rename_i hv
    obtain ⟨v, -, hv⟩ := List.exists_of_findSome?_eq_some hv
    exact Option.some.inj hp ▸ bestPlace_hardwired h hv
  · split at hp
    · dsimp only at hp
      split at hp
      · rename_i hb
        cases hp
        exact (bestPlace_hardwired h hb).frame
      · split at hp
        · exact placeByClass_hardwired h hp
        · cases hp
    · exact placeByClass_hardwired h hp

theorem execSquadPlacement_steps : Steps (execSquadPlacement part) := by
  intro s h
  unfold execSquadPlacement
  split
  · rename_i hp
    obtain ⟨p, -, hp⟩ := Option.bind_eq_some_iff.mp hp
    exact .next (nextPlacement_hardwired h hp)
  · exact .next h

theorem execPlacementReservation_steps : Steps (execPlacementReservation part queue) := by
  intro _ h
  unfold execPlacementReservation
  split
  · exact .ite (.next h.frame) (.next h)
  · exact .next h

theorem writeDone_hardwired (h : HardwiredOk s) : HardwiredOk (writeDone g w s) :=
  .ite (.ite h (outWrite_hardwired h)) (.ite ((countRange_hardwired (touch_hardwired (homeWrite_hardwired h))).frame)
    (.of ⟨rfl, rfl, rfl, rfl⟩ (.ite h.frame (badAddr_hardwired h))))

theorem askPreds_hardwired (h : HardwiredOk s) : HardwiredOk (askPreds g s) :=
  .foldl (fun _ _ hs => .ite (outAsk_hardwired hs) hs) h

theorem cancelGrid_hardwired (h : HardwiredOk s) : HardwiredOk (cancelGrid g s) := (writeDone_hardwired h).frame

theorem execGridReady_steps : Steps (execGridReady h) := by
  intro _ h
  unfold execGridReady
  split
  · exact .next h
  · exact .ite (.next h) (.ite (.ite (.next h) (.next (cancelGrid_hardwired (outSpend_hardwired h)))) (.ite (.next
        (.of ⟨rfl, rfl, rfl, rfl⟩ (.ite (outSpend_hardwired h) (askPreds_hardwired h)))) (.next (.ite
        (outSpend_hardwired h) (askPreds_hardwired h)))))

theorem execGridComplete_steps : Steps (execGridComplete h) := by
  intro _ h
  unfold execGridComplete
  split
  · exact .next h
  · exact .ite (.next h) (.next (writeDone_hardwired (arriveAll_hardwired h)))

theorem execVgrowGrant_steps : Steps (execVgrowGrant core') := by
  intro _ h
  unfold execVgrowGrant
  split
  · exact .ite (.next (onRunner_hardwired h (fun _ hr => hr.frame))) (.next h)
  · exact .next h

theorem startLeaving_hardwired (h : HardwiredOk s) : HardwiredOk (startLeaving uid s) := h.frame

theorem execVgrowDeadlockBreak_steps : Steps (execVgrowDeadlockBreak core') := by
  intro _ h
  unfold execVgrowDeadlockBreak
  split
  · exact .ite (.next h) (by
        split
        · exact .next (startLeaving_hardwired h)
        · exact .next h)
  · exact .next h

theorem execProducerPreemption_steps : Steps (execProducerPreemption h) := by
  intro _ h
  unfold execProducerPreemption
  split
  · exact .next h
  · dsimp only
    split
    · exact .next h
    · exact .ite (.next h) (by
          split
          · exact .next (startLeaving_hardwired h)
          · exact .next h)

theorem execIssuePromotion_steps : Steps (execIssuePromotion who lane) :=
  fun _ h => .next (onRunner_hardwired h (fun _ hr => .ite hr (.ite (.ite hr.frame hr) (.ite hr.frame hr))))

theorem reapGrids_hardwired (h : HardwiredOk s) : HardwiredOk (reapGrids s) := .ite (discardGrids_hardwired h) h

theorem settleWaits_hardwired (h : HardwiredOk s) : HardwiredOk (settleWaits s) :=
  .foldl (fun _ _ hs => settleRollback_hardwired hs) (.foldl (fun _ _ hs => asRunner_hardwired (fun _ hs1 =>
    drainTrap_hardwired hs1) hs) h)

theorem settleStep_hardwired (h : HardwiredOk s) : HardwiredOk (settleStep old s) :=
  spillAll_hardwired (reapGrids_hardwired (settleWaits_hardwired (markHeads_hardwired h)))

/-! ## Sys2Proof/Machine/Events.lean -/

theorem execMemoryWriteArrival_steps : Steps (execMemoryWriteArrival k) := by
  intro _ h
  unfold execMemoryWriteArrival
  split
  · exact .next h
  · exact .ite (.next h) (.next (arrive_hardwired h.frame))

theorem doneGrids_hardwired (h : HardwiredOk s) : HardwiredOk (doneGrids gone s) := h.frame

theorem execOutboundWriteAccept_steps : Steps (execOutboundWriteAccept who answer) := by
  intro _ h
  unfold execOutboundWriteAccept
  split
  · exact .next h
  · split
    · exact .ite (.ite (.next h.frame) (.ite (.next h) (.next (countRange_hardwired (touch_hardwired
          (homeWrite_hardwired h.frame)))))) (.ite (.next (onRunner_hardwired h.frame (fun _ hr => .ite hr.frame hr)))
          (.ite (.next h.frame) (.next h.frame)))
    · exact .next h

theorem execRemoteAccessTimeout_steps : Steps (execRemoteAccessTimeout who) :=
  fun _ h => .next (.of ⟨rfl, rfl, rfl, rfl⟩ (.ite (onRunner_hardwired (doneGrids_hardwired h) (fun _ hr => hr.frame))
    (doneGrids_hardwired h)))

theorem performWrite_hardwired (h : HardwiredOk s) : HardwiredOk (performWrite k s) := by
  unfold performWrite
  split
  · exact h
  · exact seeAll_hardwired h

theorem peerDrop_hardwired (h : HardwiredOk s) : HardwiredOk (peerDrop s) := h.frame

theorem peerStore_hardwired (h : HardwiredOk s) : HardwiredOk (peerStore port key comp pa bs s) :=
  .ite (outWrite_hardwired h) (by
    split
    · exact badAddr_hardwired h
    · exact .ite h.frame h
    · exact countRange_hardwired (touch_hardwired (homeWrite_hardwired h)))

theorem peerLoad_hardwired (h : HardwiredOk s) : HardwiredOk (peerLoad port pa n s) :=
  .ite (outAsk_hardwired h) (.ite (badAddr_hardwired h) (.ite (countRange_hardwired (touch_hardwired h)) h))

theorem execPeerWrite_steps : Steps (execPeerWrite port off data) :=
  fun _ h => .ite (.next h) (by
    split
    · exact .next (peerDrop_hardwired h)
    · exact .next h.frame)

theorem landNext_hardwired (h : HardwiredOk s) : HardwiredOk (landNext port s) := by
  unfold landNext
  split
  · exact h
  · exact .ite h (peerStore_hardwired h.frame)

theorem execPeerRead_steps : Steps (execPeerRead port off len) :=
  fun _ h => .ite (.next h) (by
    split
    · exact .next (.ite (peerLoad_hardwired h) (peerDrop_hardwired h))
    · exact .next h)

theorem execBar4Access_steps : Steps (execBar4Access port pa wr data) :=
  fun _ h => .ite (.next h) (by
    split
    · exact .next (peerDrop_hardwired h)
    · exact .ite (.ite (.next h) (.next (peerStore_hardwired h))) (.next (peerLoad_hardwired h)))

theorem bar0Write_hardwired (h : HardwiredOk s) : HardwiredOk (bar0Write port off v s) := .ite (onDev_hardwired h) h

theorem remoteWrite_hardwired (h : HardwiredOk s) : HardwiredOk (remoteWrite slot pa comp bs s) := by
  unfold remoteWrite
  split
  · exact .ite h (peerStore_hardwired h)
  · exact h

theorem remoteRead_hardwired (h : HardwiredOk s) : HardwiredOk (remoteRead pa n s) := .ite (peerLoad_hardwired h) h

theorem setSilent_hardwired (h : HardwiredOk s) : HardwiredOk (setSilent pkg on s) := h.frame

theorem execMsixMessage_steps : Steps (execMsixMessage port vec) :=
  fun _ h => .ite (.next (notify_hardwired h)) (.next h)

theorem countLink_hardwired (h : HardwiredOk s) : HardwiredOk (countLink link corrected s) :=
  .ite (onDev_hardwired h) h

theorem execLinkFlitError_steps : Steps (execLinkFlitError link corrected) := fun _ h => .next (countLink_hardwired h)

theorem execInjectorAct_steps : Steps (execInjectorAct link dir) := by
  intro _ h
  unfold execInjectorAct
  split
  · exact .next h
  · exact .next (.ite (.ite (countLink_hardwired h) h) (.of ⟨rfl, rfl, rfl, rfl⟩ (.ite (countLink_hardwired h) h)))

theorem execEscapeRecovery_steps : Steps (execEscapeRecovery router) := fun _ h => .next (onDev_hardwired h.frame)

theorem execEscapeChannelEmpty_steps : Steps (execEscapeChannelEmpty router) := fun _ h => .next h.frame

theorem execRoutingTableWrite_steps : Steps (execRoutingTableWrite dest links) :=
  fun _ h => .ite (.next h.frame) (.next h)

theorem execMemoryError_steps : Steps (execMemoryError addr correctable) := fun _ h => .ite (.next h) (.next h.frame)

theorem execScrubVisit_steps : Steps (execScrubVisit line) :=
  fun _ h => .ite (.next (.of ⟨rfl, rfl, rfl, rfl⟩ (.ite h.frame h.frame))) (.next (.ite h.frame h.frame))

theorem execControllerBatchForm_steps : Steps (execControllerBatchForm _c) := fun _ h => .next h

theorem execHotnessIntervalEnd_steps : Steps (execHotnessIntervalEnd c) :=
  fun _ h => .ite (.next h) (.next (onDev_hardwired (physWrite_hardwired h)))

theorem onRefresh_hardwired (h : HardwiredOk s) : HardwiredOk (onRefresh stack f s) := .ite h.frame h

theorem execRefreshHeartbeat_steps : Steps (execRefreshHeartbeat stack) := fun _ h => .next (onRefresh_hardwired h)

theorem missBeat_hardwired (h : HardwiredOk s) : HardwiredOk (missBeat stack s) := onRefresh_hardwired h

theorem execRefreshTakeover_steps : Steps (execRefreshTakeover stack) :=
  fun _ h => .ite (.next (onDev_hardwired (onRefresh_hardwired h))) (.next h)

theorem execSupplySag_steps : Steps (execSupplySag hall) := fun _ h => .next (.ite h.frame h)

theorem execSupplyRecover_steps : Steps (execSupplyRecover hall ns) :=
  fun _ h => .next (.of ⟨rfl, rfl, rfl, rfl⟩ (.ite h (passHall_hardwired h)))

theorem writeSome_hardwired (h : HardwiredOk s) : HardwiredOk (writeSome o us s) :=
  .of ⟨rfl, rfl, rfl, rfl⟩ (.foldl (fun _ _ hs => writeLocs_hardwired hs) h)

theorem writeSomeList_hardwired (h : HardwiredOk s) : HardwiredOk (writeSomeList o dst bs s) :=
  .ite (writeSome_hardwired (writeSome_hardwired h)) (writeSome_hardwired h)

theorem haltWork_hardwired (h : HardwiredOk s) : HardwiredOk (haltWork o s) := by
  unfold haltWork
  split
  · exact .ite (.of ⟨rfl, rfl, rfl, rfl⟩ (.foldl (fun _ _ hs => .ite (doMoves_hardwired hs) hs) h)) h
  · exact h
  · exact .ite (endBuild_hardwired h.frame) h.frame
  · exact .ite (unmark_hardwired h.frame) h.frame
  · exact .ite h (writeSome_hardwired h)
  · exact .ite (writeSomeList_hardwired h) h
  · exact .ite (writeSomeList_hardwired h) h

theorem haltOp_hardwired (h : HardwiredOk s) : HardwiredOk (haltOp s o) := endOp_hardwired (haltWork_hardwired h)

theorem spoilSlots_hardwired (h : HardwiredOk s) : HardwiredOk (spoilSlots core' s) :=
  .foldl (fun _ _ hs => .foldl (fun _ _ hs1 => writeImage_hardwired hs1) (writeImage_hardwired (.foldl
    (fun _ _ hs1 => writeImage_hardwired hs1) hs))) (.foldl (fun _ _ hs => writeImage_hardwired hs) h)

theorem dropCore_hardwired (h : HardwiredOk s) : HardwiredOk (dropCore core' s) := by
  unfold dropCore
  refine dropRunners_hardwired (HardwiredOk.withSaves (s := spoilSlots _ _) (spoilSlots_hardwired h) ?_ ?_ rfl rfl)
  · exact fun _ hv => hv
  · exact fun _ hc => List.mem_of_mem_filter hc

theorem stopWork_hardwired (h : HardwiredOk s) : HardwiredOk (stopWork part n s).2 := by
  unfold stopWork
  dsimp only
  split
  · exact dropCore_hardwired h
  · exact h.frame
  · exact .foldl (fun _ _ hs => haltOp_hardwired hs) h

theorem stopEngine_hardwired (hok : HardwiredOk s) : HardwiredOk (stopEngine p h cause s n) :=
  physWrite_hardwired (stopWork_hardwired hok)

theorem onHalt_hardwired (h : HardwiredOk s) : HardwiredOk (onHalt part f s) := h.frame

theorem execEngineStop_steps : Steps (execEngineStop part engine) := by
  intro _ h
  unfold execEngineStop
  split
  · exact .ite (.next (onHalt_hardwired (stopEngine_hardwired h))) (.next h)
  · exact .next h

theorem execSkidOverrun_steps : Steps (execSkidOverrun part) := by
  intro _ h
  unfold execSkidOverrun
  split
  · exact .ite (.next h) (.next (onHalt_hardwired (.foldl (fun _ _ hs => stopEngine_hardwired hs) h)))
  · exact .next h

theorem endPartWork_hardwired (h : HardwiredOk s) : HardwiredOk (endPartWork part s) := by
  have hs : HardwiredOk { s with
      pend := s.pend.filter fun w => !(w.part == part && match w.who with | .group _ => true | .host _ => false)
      outb := s.outb.filter fun o => !(((match o.who with | .group _ => true | .host _ => false)
        && s.grids.any fun g => g.handle == o.grid && g.part == part)
        || match o.ask with | .grid h => s.grids.any fun g => g.handle == h && g.part == part | _ => false) } := h.frame
  have hc := HardwiredOk.foldl (f := fun s n => reclaimCtx n s) (l := partCtxs s part)
    (fun _ _ hs => reclaimCtx_hardwired hs) (discardGrids_hardwired
      (p := fun h => s.grids.any fun g => g.handle == h && g.part == part) (stay := fun _ => false) hs)
  exact hc.withRunners (.ite (txRestart_runnerOk hc.me) hc.me)
    (hc.others.map fun _ hr => .ite (txRestart_runnerOk hr) hr)

theorem collectHalt_hardwired (hok : HardwiredOk s) : HardwiredOk (collectHalt p h s) := by
  have hw : HardwiredOk (physWrite (p.stopbase.toNat + recordAt 0x4000)
      (stopRecord h 0x4000 (skidOf (endPartWork p.no s) p h 0x4000) 0xB3 ⟨none, 0, 0, 0⟩) (endPartWork p.no s)) :=
    physWrite_hardwired (endPartWork_hardwired hok)
  exact .foldl (fun _ _ hs => notify_hardwired hs) (hw.withParts _)

theorem execHaltCollected_steps : Steps (execHaltCollected part) := by
  intro _ h
  unfold execHaltCollected
  split
  · exact .ite (.next (collectHalt_hardwired h)) (.next h)
  · exact .next h

theorem haltNow_hardwired (h : HardwiredOk s) : HardwiredOk (haltNow part s) := by
  have hs : HardwiredOk (if halted s part then s
      else { raiseHalt part (resetHalt part s) s with free := s.free + 3 }) := by
    split
    · exact h
    · exact (raiseHalt_hardwired (part := part) (h := resetHalt part s) h).frame
  unfold haltNow
  dsimp only
  split
  · exact collectHalt_hardwired (.foldl (fun _ _ hs => stopEngine_hardwired hs) hs)
  · exact endPartWork_hardwired (.foldl (fun _ _ hs => haltOp_hardwired hs) hs)

theorem clearPart_hardwired (h : HardwiredOk s) : HardwiredOk (clearPart p s) := by
  unfold clearPart
  refine HardwiredOk.frame (s := reclaimAll _ _) ?_ rfl rfl rfl rfl
  exact reclaimAll_hardwired h.frame

theorem execPartitionReset_steps : Steps (execPartitionReset part) := by
  intro _ h
  unfold execPartitionReset
  split
  · exact .next (clearPart_hardwired (haltNow_hardwired h))
  · exact .next h

theorem execHostCoreRestart_steps : Steps (execHostCoreRestart n) :=
  fun _ h => .next (onRunner_hardwired h fun _ hr => .ite (hostReset_runnerOk (n := n)).frame hr)

theorem upsetGroup_hardwired (h : HardwiredOk s) : HardwiredOk (upsetGroup who s) :=
  onRunner_hardwired h (fun _ hr => .ite hr.frame hr)

theorem resetPackage_hardwired : HardwiredOk (resetPackage modes s) := reset_hardwired.frame

theorem execPackageReset_steps : Steps execPackageReset := fun _ _ => .next resetPackage_hardwired

/-! ## Sys2Proof/Machine/LaneArith.lean -/

theorem intForm_steps : Steps (intForm rule g) := runLane_steps fun _ => writeD_keeps

theorem numForm_steps : Steps (numForm rule g) := intForm_steps

theorem bitForm_steps : Steps (bitForm b g) := intForm_steps

theorem countForm_steps : Steps (countForm g) := runLane_steps fun _ => writeD_keeps

theorem execVbfx_steps : Steps execVbfx := runLane_steps fun _ => writeD_keeps

theorem execVsel_steps : Steps execVsel := runLane_steps fun _ => .get fun _ _ => writeD_keeps

theorem execVcmp_steps : Steps execVcmp := runLane_steps fun _ => writeMask_keeps

theorem execVmov_steps : Steps execVmov := runLane_steps fun _ => writeD_keeps

theorem execVmovi_steps : Steps execVmovi := runLane_steps fun _ => writeD_keeps

/-! ## Sys2Proof/Machine/LaneMem.lean -/

theorem teamStore_hardwired (h : HardwiredOk s) : HardwiredOk (teamStore uid shadow off bs s) := onTeam_hardwired h

theorem spotRead_keeps : Keeps (spotRead g lane z a) := by
  unfold spotRead
  split
  · exact readAt_keeps
  · exact .get fun _ _ => .pure
  · exact .get fun _ _ => .pure
  · exact .next (.update fun _ hs => touch_hardwired hs) fun _ => .get fun _ _ => .pure
  · exact .get fun _ _ => .pure

theorem spotWrite_keeps : Keeps (spotWrite g lane bs a) := by
  unfold spotWrite
  split
  · exact writeAt_keeps
  · exact .update fun _ hs => teamStore_hardwired hs
  · exact .update fun _ hs => teamStore_hardwired hs
  · exact .get fun _ _ => .next readyIf_keeps fun _ => .update fun _ hs1 => acceptBytes_hardwired hs1
  · exact onLanes_keeps

theorem laneTxStep_keeps {α : Type} {ready : State → Bool} {f : State → Except LaneEnd (α × State)}
    (hf : ∀ s p, HardwiredOk s → f s = .ok p → HardwiredOk p.2) : Keeps (laneTxStep ready f) :=
  .get fun _ h => by
    split
    · rename_i hp
      exact .get fun _ _ => .next readyIf_keeps fun _ => .next (.set (hf _ _ h hp)) fun _ => .pure
    · exact .pure

theorem laneRead_keeps : Keeps (laneRead g lane z p) :=
  .get fun _ _ => by
    split
    · exact laneTxStep_keeps fun _ _ hs hp => laneTxRead_hardwired hs hp
    · exact .next spotRead_keeps fun _ => .pure

/-- A transactional write with a value that goes with it. -/
theorem laneTxWrite_map_hardwired {α : Type} {x : α} {p : α × State} (h : HardwiredOk s)
    (hp : (laneTxWrite k t bs s).map (fun u => (x, u)) = .ok p) : HardwiredOk p.2 := by
  cases hw : laneTxWrite k t bs s with
  | error e =>
    rw [hw] at hp
    cases hp
  | ok u =>
    rw [hw] at hp
    cases hp
    exact laneTxWrite_hardwired h hw

theorem laneWrite_keeps : Keeps (laneWrite g lane bs p) :=
  .get fun _ _ => by
    split
    · exact laneTxStep_keeps fun _ _ hs hp => laneTxWrite_map_hardwired hs hp
    · exact .next spotWrite_keeps fun _ => .pure

theorem eachLane_keeps {α : Type} {f : Nat → Spot → Op (Except LaneEnd α)} (hf : ∀ k p, Keeps (f k p)) :
    Keeps (eachLane f l) := by
  induction l with
  | nil => exact .pure
  | cons p l ih =>
    refine .next (hf _ _) fun r => ?_
    split
    · exact .next ih fun _ => .pure
    · exact .get fun _ hs => .next (.set (endAttempt_hardwired hs)) fun _ => .next ih fun _ => .pure

theorem laneBefore_keeps : Keeps (laneBefore c) := .get fun _ _ => .ite .pure before_keeps

theorem laneSc_keeps : Keeps (laneSc c tx) := .ite .pure scDone_keeps

theorem lanePlaces_keeps : Keeps (lanePlaces c sp z n) := .get fun _ _ => allLanes_keeps

theorem loadPlaces_keeps : Keeps (loadPlaces c z ps) :=
  .get fun _ _ => .next laneSc_keeps fun _ => .get fun _ _ => .next (eachLane_keeps (fun _ _ => laneRead_keeps))
    fun _ => .next spendAnswers_keeps fun _ => .next onLanes_keeps fun _ => .update fun _ hs2 =>
    leaveLanes_hardwired hs2

theorem storePlaces_keeps : Keeps (storePlaces c z arrives ps) :=
  .get fun _ _ => .next laneBefore_keeps fun _ => .get fun _ _ => .next (eachLane_keeps (fun _ _ => laneWrite_keeps))
    fun _ => .ite (.next storeIssued_keeps fun _ => .next laneSc_keeps fun _ => .update fun _ hs2 =>
    leaveLanes_hardwired hs2) (.next laneSc_keeps fun _ => .update fun _ hs2 => leaveLanes_hardwired hs2)

theorem loadForm_steps : Steps (loadForm sp rule) :=
  runLane_steps fun _ => .next lanePlaces_keeps fun _ => loadPlaces_keeps

theorem storeForm_steps : Steps (storeForm sp rule) :=
  runLane_steps fun _ => .next lanePlaces_keeps fun _ => storePlaces_keeps

theorem execPrf_steps : Steps execPrf := runLane_steps fun _ => .pure

theorem tilePlaces_keeps : Keeps (tilePlaces c z n) := by
  unfold tilePlaces
  split
  · exact .pure
  · exact .get fun _ _ => by
        dsimp only
        split
        · exact .throw
        · exact allLanes_keeps

theorem execVgath_steps : Steps execVgath := runLane_steps fun _ => .next tilePlaces_keeps fun _ => loadPlaces_keeps

theorem execVscat_steps : Steps execVscat :=
  runLane_steps fun _ => .next tilePlaces_keeps fun _ => storePlaces_keeps

/-! ## Sys2Proof/Machine/LaneAtomic.lean -/

theorem atriumAtomic_keeps : Keeps (atriumAtomic g pa z f) :=
  .get fun _ hs => .next readyIf_keeps fun _ => .next (.set (arrive_hardwired (drainSectors_hardwired
    (performTickets_hardwired hs)))) fun _ => .pure

theorem spotAtomic_keeps : Keeps (spotAtomic g lane z f a) := by
  unfold spotAtomic
  split
  · exact atomicAt_keeps
  · exact atriumAtomic_keeps
  · exact .next spotRead_keeps fun _ => .next spotWrite_keeps fun _ => .pure

theorem laneAtomic_keeps : Keeps (laneAtomic g lane z f p) :=
  .get fun _ _ => by
    split
    · refine laneTxStep_keeps fun s p hs hp => ?_
      split at hp
      · cases hp
      · rename_i hr
        exact laneTxWrite_map_hardwired (laneTxRead_hardwired hs hr) hp
    · exact .next spotAtomic_keeps fun _ => .pure

theorem laneAtomicForm_steps : Steps (laneAtomicForm ok f) :=
  runLane_steps fun _ => .get fun _ _ => .next allLanes_keeps fun _ => .next laneBefore_keeps fun _ => .next
    (eachLane_keeps (fun _ _ => laneAtomic_keeps)) fun _ => .next spendAnswers_keeps fun _ =>
    .next onLanes_keeps fun _ => .ite (.next laneSc_keeps fun _ => .update fun _ hs1 => leaveLanes_hardwired hs1)
    (.next (.update fun _ hs1 => markDirty_hardwired hs1) fun _ => .next laneSc_keeps fun _ => .update fun _ hs1 =>
    leaveLanes_hardwired hs1)

theorem execLaneFence_steps : Steps execLaneFence :=
  runLane_steps fun _ => .next releaseReady_keeps fun _ => .update fun _ hs => fenceState_hardwired hs

/-! ## Sys2Proof/Machine/LaneControl.lean -/

theorem execRunStart_steps : Steps execRunStart := by
  intro _ h
  unfold execRunStart
  dsimp only
  split
  · exact .next h
  · exact .ite (.next h) (.ite (.next h.frameMe) (.next h.frameMe))

theorem fetchClause_hardwired (h : HardwiredOk s) : HardwiredOk (fetchClause hdr n s).2 := by
  induction n with
  | zero => exact h
  | succ n ih =>
    unfold fetchClause
    dsimp only
    split
    · rename_i hr
      exact (laneSlot_keeps.ok ih hr).1
    · exact ih

/-- A fetch of a clause that stopped leaves nothing to be done. -/
theorem fetchClause_stopOk (h : HardwiredOk s) (he : .error e ∈ (fetchClause hdr n s).1) : StopOk e := by
  induction n with
  | zero => exact absurd he List.not_mem_nil
  | succ n ih =>
    unfold fetchClause at he
    dsimp only at he
    split at he
    · rcases List.mem_append.mp he with he | he
      · exact ih he
      · cases List.mem_singleton.mp he
    · rename_i hr
      rcases List.mem_append.mp he with he | he
      · exact ih he
      · cases List.mem_singleton.mp he
        exact laneSlot_keeps.error (fetchClause_hardwired h) hr

theorem clauseStop_stopOk (hl : ∀ e, .error e ∈ l → StopOk e) (he : clauseStop s hdr l = some e) : StopOk e := by
  unfold clauseStop at he
  split at he
  · cases he
    trivial
  · obtain ⟨x, hx, hxe⟩ := List.exists_of_findSome?_eq_some he
    split at hxe
    · cases hxe
      exact hl e hx
    · cases hxe

theorem execClause_steps : Steps execClause := by
  intro s h
  unfold execClause
  dsimp only
  split
  · exact .next h
  · refine .ite (.next (stopClause_hardwired trivial h)) ?_
    split
    · rename_i he
      exact .next (stopClause_hardwired (clauseStop_stopOk (fun _ hm => fetchClause_stopOk h hm) he) h)
    · exact .next ((fetchClause_hardwired h).frameMe)

theorem maskForm_steps : Steps (maskForm b g) := runLane_steps fun _ => .get fun _ _ => writeMask_keeps

theorem execMset_steps : Steps execMset := runLane_steps fun _ => writeMask_keeps

theorem execMcnt_steps : Steps execMcnt := runLane_steps fun _ => .get fun _ _ => writeD_keeps

theorem slotTrap_keeps : Keeps (slotTrap c cause) := .get fun _ _ => .throw

theorem goOn_keeps : Keeps (goOn c slot) := onLanes_keeps

theorem execCend_steps : Steps execCend := runLane_steps fun _ => .get fun _ _ => .ite slotTrap_keeps onLanes_keeps

theorem needHeader_keeps : Keeps (needHeader c target) :=
  .get fun s h => by
    split
    · rename_i hr
      exact .ite (.set (laneSlot_keeps.ok h hr).1) slotTrap_keeps
    · rename_i hr
      exact .throw (laneSlot_keeps.error h hr)
    · exact .pure

theorem execBrl_steps : Steps execBrl :=
  runLane_steps fun _ => .get fun _ _ => .ite (.next needHeader_keeps fun _ => .ite goOn_keeps (.ite goOn_keeps
    (.ite .throw onLanes_keeps))) (.ite goOn_keeps (.ite goOn_keeps (.ite .throw onLanes_keeps)))

theorem execMark_steps : Steps execMark := runLane_steps fun _ => .get fun _ _ => .ite slotTrap_keeps onLanes_keeps

theorem execJoin_steps : Steps execJoin :=
  runLane_steps fun _ => .get fun _ _ => by
    split
    · exact slotTrap_keeps
    · exact onLanes_keeps

theorem execYield_steps : Steps execYield := runLane_steps fun _ => .next goOn_keeps fun _ => onLanes_keeps

theorem barForm_steps : Steps (barForm x st same) :=
  runLane_steps fun _ => .get fun _ _ => .ite .throwBind (.ite (.next slotTrap_keeps fun _ =>
    .next goOn_keeps fun _ => .next onLanes_keeps fun _ => .get fun _ hs1 => settle_keeps hs1)
    (.next goOn_keeps fun _ => .next onLanes_keeps fun _ => .get fun _ hs1 => settle_keeps hs1))

/-! ## Sys2Proof/Machine/LaneCross.lean -/

theorem execVshfl_steps : Steps execVshfl := runLane_steps fun _ => writeD_keeps

theorem execVbcast_steps : Steps execVbcast := runLane_steps fun _ => writeD_keeps

theorem execVred_steps : Steps execVred := runLane_steps fun _ => writeD_keeps

theorem execVscan_steps : Steps execVscan := runLane_steps fun _ => writeD_keeps

theorem execVballot_steps : Steps execVballot := runLane_steps fun _ => writeD_keeps

theorem execVpack_steps : Steps execVpack := runLane_steps fun _ => .get fun _ _ => writeD_keeps

theorem execVunpk_steps : Steps execVunpk := runLane_steps fun _ => writeD_keeps

/-! ## Sys2Proof/Machine/LeadFloat.lean -/

theorem rndMode_keeps : Keeps rndMode := .get fun _ _ => .pure

theorem fpSrc_keeps : Keeps (fpSrc f a) := .next reg_keeps fun _ => .pure

theorem fpBin_steps : Steps (fpBin t d a b g) :=
  runLead_steps (.next rndMode_keeps fun _ => .next fpSrc_keeps fun _ => .next fpSrc_keeps fun _ => setReg_keeps)

theorem fpCmp_steps : Steps (fpCmp t d a b p) :=
  runLead_steps (.next fpSrc_keeps fun _ => .next fpSrc_keeps fun _ => setReg_keeps)

theorem fpMinMax_steps : Steps (fpMinMax wantMax t d a b) :=
  runLead_steps (.next fpSrc_keeps fun _ => .next fpSrc_keeps fun _ => setReg_keeps)

theorem execFma_steps : Steps (execFma t d a b) :=
  runLead_steps (.next rndMode_keeps fun _ => .next fpSrc_keeps fun _ => .next fpSrc_keeps fun _ =>
    .next fpSrc_keeps fun _ => setReg_keeps)

theorem execFmov_steps : Steps (execFmov t d a) := runLead_steps (.next fpSrc_keeps fun _ => setReg_keeps)

theorem execFcvt_steps : Steps (execFcvt d a dt st) :=
  runLead_steps (.next rndMode_keeps fun _ => .get fun _ _ => .next reg_keeps fun _ => setReg_keeps)

/-! ## Sys2Proof/Machine/LaneFloat.lean -/

theorem fltForm_steps : Steps (fltForm rule g) := runLane_steps fun _ => writeD_keeps

theorem fltBin_steps : Steps (fltBin lit g) := fltForm_steps

theorem fltUn_steps : Steps (fltUn ok g) := fltForm_steps

theorem execVfcmp_steps : Steps execVfcmp := runLane_steps fun _ => writeMask_keeps

theorem execVfscale_steps : Steps execVfscale := runLane_steps fun _ => writeD_keeps

theorem execVfcma_steps : Steps execVfcma := runLane_steps fun _ => writeD_keeps

theorem execVfcvt_steps : Steps execVfcvt := runLane_steps fun _ => writeD_keeps

/-! ## Sys2Proof/Machine/LeadBranch.lean -/

theorem branchTo_keeps : Keeps (branchTo target link) :=
  .next need_keeps fun _ => .get fun s h => by
    split
    · exact stopTrap_keeps
    · rename_i hr
      exact .throw (codeWord_keeps.error h hr)
    · rename_i hr
      refine .next (.set (codeWord_keeps.ok h hr).1) fun _ => .next need_keeps fun _ => ?_
      cases link with
      | none => exact onMe_keeps fun _ hr => hr.frame
      | some d => exact .next setReg_keeps fun _ => onMe_keeps fun _ hr => hr.frame

theorem offsetTarget_keeps : Keeps (offsetTarget o) := .get fun _ _ => .pure

theorem condBranch_steps : Steps (condBranch a b o p) :=
  runLead_steps (.next reg_keeps fun _ => .next reg_keeps fun _ => .ite (.next offsetTarget_keeps fun _ =>
    branchTo_keeps) .pure)

theorem execB_steps : Steps (execB o) := runLead_steps (.next offsetTarget_keeps fun _ => branchTo_keeps)

theorem execBLong_steps : Steps (execBLong o) := runLead_steps (.next offsetTarget_keeps fun _ => branchTo_keeps)

theorem execBl_steps : Steps (execBl o) := runLead_steps (.next offsetTarget_keeps fun _ => branchTo_keeps)

theorem execBlLong_steps : Steps (execBlLong o) := runLead_steps (.next offsetTarget_keeps fun _ => branchTo_keeps)

theorem execBr_steps : Steps (execBr a) := runLead_steps (.next reg_keeps fun _ => branchTo_keeps)

theorem execBlr_steps : Steps (execBlr d a) := runLead_steps (.next reg_keeps fun _ => branchTo_keeps)

theorem execRet_steps : Steps (execRet a) := runLead_steps (.next reg_keeps fun _ => branchTo_keeps)

/-! ## Sys2Proof/Machine/LeadInt.lean -/

theorem regBits_keeps : Keeps (regBits w a) := .next reg_keeps fun _ => .pure

theorem binForm_steps : Steps (binForm w d a b f) :=
  runLead_steps (.next regBits_keeps fun _ => .next regBits_keeps fun _ => setReg_keeps)

theorem unForm_steps : Steps (unForm w d a f) := runLead_steps (.next regBits_keeps fun _ => setReg_keeps)

theorem satForm_steps : Steps (satForm w d a b f) :=
  runLead_steps (.get fun _ _ => .next regBits_keeps fun _ => .next regBits_keeps fun _ => setReg_keeps)

theorem immForm_steps : Steps (immForm w d a f) := unForm_steps

theorem satImmForm_steps : Steps (satImmForm w d a f) :=
  runLead_steps (.get fun _ _ => .next regBits_keeps fun _ => setReg_keeps)

theorem execShl_steps : Steps (execShl w d a b) :=
  runLead_steps (.get fun _ _ => .next regBits_keeps fun _ => .next regBits_keeps fun _ => setReg_keeps)

theorem execSel_steps : Steps (execSel w d a b) :=
  runLead_steps (.next regBits_keeps fun _ => .next regBits_keeps fun _ => .next regBits_keeps fun _ => setReg_keeps)

theorem execCmp_steps : Steps (execCmp c w d a b) :=
  runLead_steps (.next regBits_keeps fun _ => .next regBits_keeps fun _ => setReg_keeps)

theorem execBfx_steps : Steps (execBfx d a u q) := runLead_steps (.next reg_keeps fun _ => setReg_keeps)

theorem execBfi_steps : Steps (execBfi d a u q) :=
  runLead_steps (.next reg_keeps fun _ => .next reg_keeps fun _ => setReg_keeps)

theorem execSethi_steps : Steps (execSethi d i) := runLead_steps (.next reg_keeps fun _ => setReg_keeps)

theorem execLi_steps : Steps (execLi d i) := runLead_steps setReg_keeps

theorem execAddpc_steps : Steps (execAddpc d i) := runLead_steps (.get fun _ _ => setReg_keeps)

theorem execAddpcLong_steps : Steps (execAddpcLong d i) := runLead_steps (.get fun _ _ => setReg_keeps)

theorem execNop_steps : Steps execNop := runLead_steps .pure

theorem execHint_steps : Steps (execHint _code _arg) := runLead_steps .pure

theorem execHintFetchLead_steps : Steps (execHintFetchLead _arg) := runLead_steps .pure

theorem execHintSpin_steps : Steps (execHintSpin _arg) := runLead_steps .pure

theorem execHintFetchLane_steps : Steps (execHintFetchLane _arg) := runLead_steps .pure

/-! ## Sys2Proof/Machine/Sparse.lean -/

theorem writeK_keeps : Keeps (writeK c p) := .ite .pure writeMask_keeps

theorem unlessEmpty_keeps (hm : ∀ x0, Keeps (m x0)) : Keeps (unlessEmpty c m) := by
  unfold unlessEmpty
  split
  · exact .pure
  · exact hm _

theorem execVconf_steps : Steps execVconf :=
  runLane_steps fun _ => unlessEmpty_keeps (fun _ => .next writeD_keeps fun _ => writeK_keeps)

theorem execVcomb_steps : Steps execVcomb := runLane_steps fun _ => onLanes_keeps

theorem listForm_steps : Steps (listForm walk') :=
  runLane_steps fun _ => unlessEmpty_keeps (fun _ => by
    dsimp only
    split
    · exact .throw
    · exact .throw
    · exact .next onLanes_keeps fun _ => .next onLanes_keeps fun _ => writeK_keeps)

theorem moveLanes_keeps : Keeps (moveLanes c src dst) := onLanes_keeps

theorem execVcompr_steps : Steps execVcompr := runLane_steps fun _ => moveLanes_keeps

theorem execVexpd_steps : Steps execVexpd := runLane_steps fun _ => moveLanes_keeps

theorem execIdxld_steps : Steps execIdxld :=
  runLane_steps fun _ => unlessEmpty_keeps (fun _ => .get fun _ _ => .ite (.next laneBefore_keeps fun _ => .next
    (.update fun _ hs1 => teamStore_hardwired hs1) fun _ => .update fun _ hs1 => teamStore_hardwired hs1) .throw)

/-! ## Sys2Proof/Machine/Dispatch.lean -/

/-- Every instruction keeps s0 at 0. Instructions of one form share the lemma about the form. -/
theorem exec_steps : Steps (exec i) := by
  intro _ h
  unfold exec
  cases i with
  | hint => exact execHint_steps _ h
  | hintFetchLead => exact execHintFetchLead_steps _ h
  | hintSpin => exact execHintSpin_steps _ h
  | hintFetchLane => exact execHintFetchLane_steps _ h
  | add | sub | mul | addx => exact satForm_steps _ h
  | mulh | mulhn | div | divn | rem | remn | and | or | xor | andn | min | max | minn | maxn | shr | sar | rot
    => exact binForm_steps _ h
  | shl => exact execShl_steps _ h
  | clz | ctz | popc | sext | zext => exact unForm_steps _ h
  | sel => exact execSel_steps _ h
  | cmp => exact execCmp_steps _ h
  | bfx => exact execBfx_steps _ h
  | bfi => exact execBfi_steps _ h
  | addi | addiLong | shli => exact satImmForm_steps _ h
  | andi | andiLong | ori | oriLong | xori | xoriLong | shri | sari => exact immForm_steps _ h
  | sethi => exact execSethi_steps _ h
  | li => exact execLi_steps _ h
  | addpc => exact execAddpc_steps _ h
  | addpcLong => exact execAddpcLong_steps _ h
  | b => exact execB_steps _ h
  | bLong => exact execBLong_steps _ h
  | bl => exact execBl_steps _ h
  | blLong => exact execBlLong_steps _ h
  | br => exact execBr_steps _ h
  | blr => exact execBlr_steps _ h
  | ret => exact execRet_steps _ h
  | beq | beqLong | bne | bneLong | blt | bltLong | bge | bgeLong | bltn | bltnLong | bgen | bgenLong | bz | bzLong
  | bnz | bnzLong => exact condBranch_steps _ h
  | fadd | fsub | fmul | fdiv | fsqrt => exact fpBin_steps _ h
  | fma => exact execFma_steps _ h
  | fmin | fmax => exact fpMinMax_steps _ h
  | fmov => exact execFmov_steps _ h
  | fcmpEq | fcmpLt | fcmpLe | fcmpUn => exact fpCmp_steps _ h
  | fcvt => exact execFcvt_steps _ h
  | ld | ldLong | ldN | ldNLong => exact leadLoad_steps _ h
  | st | stLong => exact leadStore_steps _ h
  | aadd | asub | amin | amax | aminn | amaxn | aand | aor | axor | axchg | afadd | acas
    => exact leadAtomicForm_steps _ h
  | fence => exact execFence_steps _ h
  | fenceSys => exact execFenceSys_steps _ h
  | fenceSysWin => exact execFenceSysWin_steps _ h
  | watch => exact execWatch_steps _ h
  | watchWake => exact execWatchWake_steps _ h
  | lrun => exact execLrun_steps _ h
  | lwait => exact execLwait_steps _ h
  | xbset => exact execXbset_steps _ h
  | xbclr => exact execXbclr_steps _ h
  | osdef => exact execOsdef_steps _ h
  | osend => exact execOsend_steps _ h
  | trap => exact execTrap_steps _ h
  | csrrd => exact execCsrrd_steps _ h
  | csrwr | csrset | csrclr => exact csrForm_steps _ h
  | haltpCtx => exact execHaltpCtx_steps _ h
  | haltpPart => exact execHaltpPart_steps _ h
  | preemptSus => exact execPreemptSus_steps _ h
  | preemptRes => exact execPreemptRes_steps _ h
  | injarm | injarmRep => exact armForm_steps _ h
  | ckptPool => exact execCkptPool_steps _ h
  | ckptStat => exact execCkptStat_steps _ h
  | assert => exact execAssert_steps _ h
  | tload | tloadLease | tloadTry => exact tloadForm_steps _ h
  | redeem | redeemQ => exact redeemForm_steps _ h
  | redeeml => exact redeemlMem_steps _ h
  | redeemlLanding => exact redeemlLand_steps _ h
  | redeemlQ => exact execRedeemlQ_steps _ h
  | tdrop | tdropQ => exact dropForm_steps _ h
  | tstat => exact execTstat_steps _ h
  | tlease | tleaseQ => exact leaseForm_steps _ h
  | txbeg => exact execTxbeg_steps _ h
  | txabt => exact execTxabt_steps _ h
  | txstat => exact execTxstat_steps _ h
  | cpyt => exact execCpyt_steps _ h
  | cpytExt => exact execCpytExt_steps _ h
  | cpyl => exact execCpyl_steps _ h
  | cpylExt => exact execCpylExt_steps _ h
  | cpylRaw => exact execCpylRaw_steps _ h
  | cpyf => exact execCpyf_steps _ h
  | cpyfExt => exact execCpyfExt_steps _ h
  | cpyg => exact execCpyg_steps _ h
  | cpygExt => exact execCpygExt_steps _ h
  | bseal => exact execBseal_steps _ h
  | bwait => exact execBwait_steps _ h
  | bwaitn => exact execBwaitn_steps _ h
  | bstat => exact execBstat_steps _ h
  | ksummOff => exact execKsummOff_steps _ h
  | ksummBf16 | ksummE4m3 | ksummE5m2 => exact ksummMark_steps _ h
  | ksummRebuild => exact execKsummRebuild_steps _ h
  | ksummRead => exact execKsummRead_steps _ h
  | kbound => exact execKbound_steps _ h
  | kfetch => exact execKfetch_steps _ h
  | klist => exact execKlist_steps _ h
  | mloop => exact execMloop_steps _ h
  | osub => exact execOsub_steps _ h
  | accz => exact execAccz_steps _ h
  | accld | accldTyped | accst | accstTyped => exact accMove_steps _ h
  | accver => exact execAccver_steps _ h
  | accverWait => exact execAccverWait_steps _ h
  | accverSet => exact execAccverSet_steps _ h
  | launch | launchTry => exact launchForm_steps _ h
  | lwaitg => exact execLwaitg_steps _ h
  | gstat => exact execGstat_steps _ h
  | vgrow => exact execVgrow_steps _ h
  | vshrink => exact execVshrink_steps _ h
  | gexit => exact execGexit_steps _ h
  | flagRelease => exact execFlagRelease_steps _ h
  | issuePromotion => exact execIssuePromotion_steps _ h
  | streamElementRead => exact execStreamElementRead_steps _ h
  | distributorElementRead => exact execDistributorElementRead_steps _ h
  | ticketDataArrival => exact execTicketDataArrival_steps _ h
  | redemptionDelivery => exact execRedemptionDelivery_steps _ h
  | leaseExpiry => exact execLeaseExpiry_steps _ h
  | cloakroomReconfigure => exact execCloakroomReconfigure_steps _ h
  | porterOperationStart => exact execPorterOperationStart_steps _ h
  | copyComplete => exact execCopyComplete_steps _ h
  | usherBound => exact execUsherBound_steps _ h
  | gatherListMerge => exact execGatherListMerge_steps _ h
  | ksummBuildComplete => exact execKsummBuildComplete_steps _ h
  | memoryWriteArrival => exact execMemoryWriteArrival_steps _ h
  | matrixOperationStart => exact execMatrixOperationStart_steps _ h
  | mloopKStep => exact execMloopKStep_steps _ h
  | matrixOperationComplete => exact execMatrixOperationComplete_steps _ h
  | gridReady => exact execGridReady_steps _ h
  | squadPlacement => exact execSquadPlacement_steps _ h
  | placementReservation => exact execPlacementReservation_steps _ h
  | producerPreemption => exact execProducerPreemption_steps _ h
  | vgrowGrant => exact execVgrowGrant_steps _ h
  | vgrowDeadlockBreak => exact execVgrowDeadlockBreak_steps _ h
  | gridComplete => exact execGridComplete_steps _ h
  | engineStop => exact execEngineStop_steps _ h
  | skidOverrun => exact execSkidOverrun_steps _ h
  | haltCollected => exact execHaltCollected_steps _ h
  | preemptionComplete => exact execPreemptionComplete_steps _ h
  | txEarlyValidation => exact execTxEarlyValidation_steps _ h
  | msixMessage => exact execMsixMessage_steps _ h
  | peerWrite => exact execPeerWrite_steps _ h
  | peerRead => exact execPeerRead_steps _ h
  | bar4Access => exact execBar4Access_steps _ h
  | remoteAccessTimeout => exact execRemoteAccessTimeout_steps _ h
  | controllerBatchForm => exact execControllerBatchForm_steps _ h
  | scrubVisit => exact execScrubVisit_steps _ h
  | hotnessIntervalEnd => exact execHotnessIntervalEnd_steps _ h
  | refreshHeartbeat => exact execRefreshHeartbeat_steps _ h
  | refreshTakeover => exact execRefreshTakeover_steps _ h
  | escapeRecovery => exact execEscapeRecovery_steps _ h
  | injectorAct => exact execInjectorAct_steps _ h
  | supplySag => exact execSupplySag_steps _ h
  | supplyRecover => exact execSupplyRecover_steps _ h
  | partitionReset => exact execPartitionReset_steps _ h
  | hostCoreRestart => exact execHostCoreRestart_steps _ h
  | routingTableWrite => exact execRoutingTableWrite_steps _ h
  | tlbInvalidatePage => exact execTlbInvalidatePage_steps _ h
  | ctxctlCreate => exact execCtxctlCreate_steps _ h
  | curctxWrite => exact execCurctxWrite_steps _ h
  | clkcfgWrite => exact execClkcfgWrite_steps _ h
  | lswzWrite => exact execLswzWrite_steps _ h
  | keyInstall => exact execKeyInstall_steps _ h
  | windowRegisterWrite => exact execWindowRegisterWrite_steps _ h
  | counterClear => exact execCounterClear_steps _ h
  | noticeClear => exact execNoticeClear_steps _ h
  | registerWrite => exact execRegisterWrite_steps _ h
  | linkFlitError => exact execLinkFlitError_steps _ h
  | memoryError => exact execMemoryError_steps _ h
  | escapeChannelEmpty => exact execEscapeChannelEmpty_steps _ h
  | outboundWriteAccept => exact execOutboundWriteAccept_steps _ h
  | nop => exact execNop_steps _ h
  | rfe => exact execRfe_steps _ h
  | ckptRb => exact execCkptRb_steps _ h
  | txend => exact execTxend_steps _ h
  | texit => exact execTexit_steps _ h
  | clause => exact execClause_steps _ h
  | runStart => exact execRunStart_steps _ h
  | vadd | vsub | vmul | vmulh | vmad | vmin | vmax | vabs => exact numForm_steps _ h
  | vand | vor | vxor | vnot => exact bitForm_steps _ h
  | vshl | vshr | vsar => exact intForm_steps _ h
  | vclz | vpopc => exact countForm_steps _ h
  | vbfx => exact execVbfx_steps _ h
  | vsel => exact execVsel_steps _ h
  | vcmp => exact execVcmp_steps _ h
  | vmov => exact execVmov_steps _ h
  | vmovi => exact execVmovi_steps _ h
  | vfadd | vfsub | vfmul | vfdiv => exact fltBin_steps _ h
  | vffma | vfmin | vfmax => exact fltForm_steps _ h
  | vfcmp => exact execVfcmp_steps _ h
  | vfrcp | vfrsq | vfsqrt | vfexp2 | vflog2 | vfsin | vfcos | vfrnd => exact fltUn_steps _ h
  | vfcvt => exact execVfcvt_steps _ h
  | vfscale => exact execVfscale_steps _ h
  | vfcma => exact execVfcma_steps _ h
  | vshfl => exact execVshfl_steps _ h
  | vbcast => exact execVbcast_steps _ h
  | vred => exact execVred_steps _ h
  | vscan => exact execVscan_steps _ h
  | vballot => exact execVballot_steps _ h
  | vpack => exact execVpack_steps _ h
  | vunpk => exact execVunpk_steps _ h
  | cend => exact execCend_steps _ h
  | brl => exact execBrl_steps _ h
  | mark => exact execMark_steps _ h
  | join => exact execJoin_steps _ h
  | mset => exact execMset_steps _ h
  | mand | mor | mnot => exact maskForm_steps _ h
  | mcnt => exact execMcnt_steps _ h
  | tbar | tbarCk | sbar => exact barForm_steps _ h
  | yield => exact execYield_steps _ h
  | vld | vldl | vldm | vlda | lkld => exact loadForm_steps _ h
  | vst | vstl | vstm | xst | vsta | lkst => exact storeForm_steps _ h
  | vgath => exact execVgath_steps _ h
  | vscat => exact execVscat_steps _ h
  | prf => exact execPrf_steps _ h
  | vaadd | vasub | vamin | vamax | vaminn | vamaxn | vaand | vaor | vaxor | vaxchg | vacas | vafadd
    => exact laneAtomicForm_steps _ h
  | laneFence => exact execLaneFence_steps _ h
  | tloadv => exact execTloadv_steps _ h
  | laneRedeem => exact execLaneRedeem_steps _ h
  | laneRedeemL => exact execLaneRedeemL_steps _ h
  | laneTxbeg => exact execLaneTxbeg_steps _ h
  | laneTxend => exact execLaneTxend_steps _ h
  | laneTxabt => exact execLaneTxabt_steps _ h
  | laneTxstat => exact execLaneTxstat_steps _ h
  | laneCpyt => exact execLaneCpyt_steps _ h
  | laneCpyl => exact execLaneCpyl_steps _ h
  | laneCpyf => exact execLaneCpyf_steps _ h
  | laneCpyg => exact execLaneCpyg_steps _ h
  | mma => exact execMma_steps _ h
  | accrd => exact execAccrd_steps _ h
  | accwr => exact execAccwr_steps _ h
  | vconf => exact execVconf_steps _ h
  | vcomb => exact execVcomb_steps _ h
  | visect | vmerge => exact listForm_steps _ h
  | vcompr => exact execVcompr_steps _ h
  | vexpd => exact execVexpd_steps _ h
  | idxld => exact execIdxld_steps _ h
  | laneAssert => exact execLaneAssert_steps _ h
  | vcsrrd => exact execVcsrrd_steps _ h
  | fallbackLockGrant => exact execFallbackLockGrant_steps _ h
  | fallbackLockRevoke => exact execFallbackLockRevoke_steps _ h
  | packageReset => exact execPackageReset_steps _ h
  | tlbInvalidateAll => exact execTlbInvalidateAll_steps _ h
  | tlbInvalidateContext => exact execTlbInvalidateContext_steps _ h
  | unusedOpcode => exact execUnusedOpcode_steps _ h
  | leadFetch => exact execLeadFetch_steps _ h

/-! ## Sys2Proof/Machine/Step.lean -/

theorem stepLead_steps : Steps stepLead := by
  intro s h
  unfold stepLead
  split
  · exact .next (raiseStreamFault_hardwired h)
  · refine .ite (.next (leadTrap_hardwired h)) ?_
    split
    · exact exec_steps _ h
    · rename_i hr
      have ht := (fetchLead_keeps.ok h hr).1
      split
      · exact exec_steps _ ht
      · exact exec_steps _ ht
      · exact .next (leadTrap_hardwired ht)

theorem stepLane_steps : Steps stepLane := by
  intro s h
  unfold stepLane
  split
  · exact exec_steps _ (fetchSlot_hardwired h)
  · split
    · rename_i hp
      exact exec_steps _ (latchClause_hardwired (pickClause_hardwired h hp).1)
    · rename_i hp
      obtain ⟨ht, he⟩ := pickClause_hardwired h hp
      exact .next (stopClause_hardwired (he _ rfl) ht)
    · exact exec_steps _ h

theorem stepFocus_steps : Steps stepFocus := by
  intro _ h
  unfold stepFocus
  split
  · exact .next (takeInterrupt_hardwired h)
  · exact .ite (.next h) (.ite (.next (awaitLock_hardwired h)) (.ite (stepLane_steps _ h) (stepLead_steps _ h)))

theorem findReady_hardwired (h : HardwiredOk s) : HardwiredOk (findReady s) :=
  .ite h (h.withRunners (.ite h.me h.me.frame) (.map (fun _ hr => .ite hr hr.frame) h.others))

theorem streamTurn_steps : Steps streamTurn :=
  fun _ h => .ite (.next h) (by
    split
    · exact .next (validateNow_hardwired h)
    · exact stepFocus_steps _ (h.withMe (served_runnerOk h.me)))

theorem turn_steps : Steps turn := by
  intro s h
  have hr : ∀ rest, HardwiredOk { s with agenda := rest } := fun _ => h.frame
  unfold turn
  split
  · exact streamTurn_steps _ h
  · split
    · rename_i hf
      exact streamTurn_steps _ (focus_hardwired h.frame hf)
    · exact .next (hr _)
  · exact .ite (exec_steps _ (.ite (findReady_hardwired (hr _)) (hr _))) .fault
  · exact .next (passClocks_hardwired (findReady_hardwired (hr _)))
  · exact .next (passHall_hardwired (findReady_hardwired (hr _)))
  · exact .next (evictTlb_hardwired (hr _))
  · exact .next (performWrite_hardwired (hr _))
  · exact .next (cacheCode_hardwired (hr _))
  · exact .next (dropCode_hardwired (hr _))
  · exact .next (performLine_hardwired (hr _))
  · exact .next (workSome_hardwired (hr _))
  · exact .next (upsetGroup_hardwired (hr _))
  · exact .next (bar0Write_hardwired (hr _))
  · exact .next (remoteWrite_hardwired (hr _))
  · exact .next (remoteRead_hardwired (hr _))
  · exact .next (noteCode_hardwired (hr _))
  · exact .next (landNext_hardwired (hr _))
  · exact .next (missBeat_hardwired (hr _))
  · exact .next (setSilent_hardwired (hr _))
  · exact .next resetPackage_hardwired

theorem step_steps : Steps step := by
  intro s h
  unfold step
  split
  · rename_i ht
    exact .next (settleStep_hardwired (turn_steps s h _ ht))
  · rename_i hne
    exact fun t ht => absurd ht (hne t)

/-- Settles O60: a turn keeps s0 at 0 in every runner, and so does what follows every turn. -/
theorem hardwiredRegisterIsKept : Obligations.HardwiredRegisterIsKept := by
  unfold Obligations.HardwiredRegisterIsKept
  exact fun s t h hst => step_steps s h t hst

end Sys2Proof

/-! # Causes that the first checks of a form raise (R25, R62, R64)

O16. A privileged form checks its level before anything else, and a register form its number before its level; CKPT.stat and
CKPT.rb ask first whether they run on a group. What a check that passes or stops does to the form is said once. -/

namespace Sys2Proof.Machine

section
variable {α : Type} {s : State} {m : Op α} {k : α → Op Unit} {f : Unit → Op Unit}

/-- A check that passes leaves the rest of the form. -/
theorem runLead_bind_ok {x : α} (h : m.run (onward s) = .ok (x, onward s)) : runLead (m >>= k) s = runLead (k x) s := by
  unfold onward at h
  simp only [runLead, run_bind, h]

/-- A check that stops ends the form. -/
theorem runLead_bind_error {e : Stop} (h : m.run (onward s) = .error e) : runLead (m >>= k) s = .next (stopLead e s) :=
  runLead_error (by rw [run_bind, h])

/-- A privileged form at user level (R25). -/
theorem runLead_needSup_user (h : s.me.sup = false) :
    runLead (needSup >>= f) s = .next (leadTrap 0x05 s.issue.pc s.issue.pc s) :=
  runLead_bind_error (e := .trap 0x05 s.issue.pc) (by rw [run_needSup, Laws.onward_sup, h]; rfl)

/-- A form of groups on a host core (R62). -/
theorem runLead_needGroup_host (h : s.me.isHost = true) :
    runLead (needGroup >>= f) s = .next (leadTrap 0x01 s.issue.pc s.issue.pc s) :=
  runLead_bind_error (e := .trap 0x01 s.issue.pc) (by rw [run_needGroup, Laws.onward_isHost, h]; rfl)

/-- A form of groups on a group. -/
theorem runLead_needGroup_group (h : s.me.isHost = false) : runLead (needGroup >>= f) s = runLead (f ()) s :=
  runLead_bind_ok (by rw [run_needGroup, Laws.onward_isHost, h]; rfl)

/-- A privileged form of groups at user level of a group. -/
theorem runLead_needGroup_needSup_user (hg : s.me.isHost = false) (h : s.me.sup = false) :
    runLead (needGroup >>= fun _ => needSup >>= f) s = .next (leadTrap 0x05 s.issue.pc s.issue.pc s) :=
  (runLead_needGroup_group hg).trans (runLead_needSup_user h)

end

/-! ## Register numbers (R64) -/

/-- A number that names no register for the runner. -/
theorem run_csrNamed_unnamed {s : State} {c : BitVec 10} (h : csrNames s.me c.toNat = false) :
    (csrNamed c).run s = .error (.trap 0x01 s.issue.pc) := by
  simp [csrNamed, csrRead, h]

/-- A supervisor register at user level. -/
theorem run_csrNamed_user {s : State} {c : BitVec 10} (h : csrNames s.me c.toNat = true) (hc : 0x100 ≤ c.toNat)
    (hs : s.me.sup = false) : (csrNamed c).run s = .error (.trap 0x05 s.issue.pc) := by
  simp [csrNamed, csrRead, h, hc, hs]

/-- The four register forms stop as the check of their register does. -/
theorem csrForms_of_csrNamed_error {s : State} {c : BitVec 10} {n : Nat} {w : Word}
    (h : (csrNamed c).run (onward s) = .error (.trap n w)) (d a : Reg) :
    let stops : Result := .next (leadTrap n w s.issue.pc s)
    exec (.csrrd d c) s = stops ∧ exec (.csrwr d a c) s = stops ∧ exec (.csrset d a c) s = stops ∧
      exec (.csrclr d a c) s = stops :=
  ⟨(Exec.csrrd s).trans (runLead_bind_error h), (Exec.csrwr s).trans (runLead_bind_error h),
    (Exec.csrset s).trans (runLead_bind_error h), (Exec.csrclr s).trans (runLead_bind_error h)⟩

end Sys2Proof.Machine

namespace Sys2Proof

open Sys2Proof.Machine

/-- Settles O16: each form's first check is the one that the statement names, and it stops the form with its cause. -/
theorem privilegeTraps : Obligations.PrivilegeTraps := by
  unfold Obligations.PrivilegeTraps
  intro s d a b c stops
  refine ⟨fun hc => csrForms_of_csrNamed_error (run_csrNamed_unnamed hc) d a, fun hs => ⟨fun hc hn =>
    csrForms_of_csrNamed_error (run_csrNamed_user hc hn hs) d a, ?_⟩, fun hh => ⟨?_, ?_⟩⟩
  · exact ⟨(Exec.rfe s).trans (runLead_needSup_user hs), (Exec.haltpCtx s).trans (runLead_needSup_user hs),
      (Exec.haltpPart s).trans (runLead_needSup_user hs), (Exec.preemptSus s).trans (runLead_needSup_user hs),
      (Exec.preemptRes s).trans (runLead_needSup_user hs), (Exec.injarm s).trans (runLead_needSup_user hs),
      (Exec.injarmRep s).trans (runLead_needSup_user hs), (Exec.ckptPool s).trans (runLead_needSup_user hs),
      fun hg => ⟨(Exec.ckptStat s).trans (runLead_needGroup_needSup_user hg hs),
        (Exec.ckptRb s).trans (runLead_needGroup_needSup_user hg hs)⟩⟩
  · exact (Exec.ckptStat s).trans (runLead_needGroup_host hh)
  · exact (Exec.ckptRb s).trans (runLead_needGroup_host hh)

end Sys2Proof

/-! # Links, memory and supply (R35, R472 to R477, R479, R483, R488, R490, R493, R494)

O40. First what a bit, a field and a saturating sum read after they are written, then what clocks that pass leave alone, then
one lemma for each step of the machine. -/

namespace Sys2Proof.Machine

/-! ## Bits, fields and sums -/

/-- A bit that is set reads back, and every other bit as before. -/
theorem getLsbD_setBit {n : Nat} (w : BitVec n) (b : Bool) {i j : Nat} (hj : j < n) :
    (setBit w i b).getLsbD j = if j = i then b else w.getLsbD j := by
  unfold setBit
  cases b with
  | true =>
    rw [if_pos rfl, BitVec.getLsbD_or, BitVec.getLsbD_ofNat, Nat.testBit_two_pow, decide_eq_true hj, Bool.true_and]
    by_cases h : i = j <;> simp [h, eq_comm (a := j)]
  | false =>
    rw [if_neg Bool.false_ne_true, BitVec.getLsbD_and, BitVec.getLsbD_not, BitVec.getLsbD_ofNat, Nat.testBit_two_pow,
      decide_eq_true hj, Bool.true_and, Bool.true_and]
    by_cases h : i = j <;> simp [h, eq_comm (a := j)]

/-- A field that is written reads the low bits of what was written. -/
theorem slice_setField (w : Word) (hi lo v : Nat) (hl : lo ≤ hi) (hh : hi < 64) :
    slice (setField w hi lo v) hi lo = v % 2 ^ (hi + 1 - lo) := by
  obtain ⟨k, hk⟩ : ∃ k, hi + 1 = lo + k := ⟨hi + 1 - lo, by omega⟩
  have hk' : hi + 1 - lo = k := by omega
  obtain ⟨r, hr⟩ : ∃ r, 2 ^ 64 = 2 ^ lo * (2 ^ k * 2 ^ r) := ⟨64 - (lo + k), by rw [← pow_add, ← pow_add]; congr 1; omega⟩
  unfold slice setField bitsN
  rw [hk', BitVec.toNat_ofNat, hr, Nat.mod_mul_right_div_self, Nat.mod_mul_right_mod]
  generalize w.toNat = x
  have hx := Nat.div_add_mod x (2 ^ lo)
  have hd := Nat.div_add_mod (x / 2 ^ lo) (2 ^ k)
  have hy : x - x / 2 ^ lo % 2 ^ k * 2 ^ lo + v % 2 ^ k * 2 ^ lo =
      x % 2 ^ lo + 2 ^ lo * (v % 2 ^ k + 2 ^ k * (x / 2 ^ lo / 2 ^ k)) := by
    rw [Nat.mul_add, Nat.mul_comm (v % 2 ^ k)]
    have hxd : 2 ^ lo * (x / 2 ^ lo) =
        2 ^ lo * (2 ^ k * (x / 2 ^ lo / 2 ^ k)) + x / 2 ^ lo % 2 ^ k * 2 ^ lo := by
      rw [Nat.mul_comm _ (2 ^ lo), ← Nat.mul_add, hd]
    omega
  rw [hy, Nat.add_mul_div_left _ _ (Nat.two_pow_pos lo), Nat.div_eq_of_lt (Nat.mod_lt _ (Nat.two_pow_pos lo)),
    Nat.zero_add, Nat.add_mul_mod_self_left, Nat.mod_mod]

/-- A saturating sum is the sum or the greatest dword. -/
theorem toNat_satAdd (w : Word) (n : Nat) : (satAdd w n).toNat = min (2 ^ 64 - 1) (w.toNat + n) := by
  unfold satAdd
  rw [BitVec.toNat_ofNat, Nat.mod_eq_of_lt (by omega)]

/-! ## Clocks that pass -/

theorem settleClk_mem (s : State) : (settleClk s).mem = s.mem := by
  unfold settleClk
  split <;> rfl

theorem settleClk_dev (s : State) : (settleClk s).dev = s.dev := by
  unfold settleClk
  split <;> rfl

theorem expireLease_mem (e : EntryId) (s : State) : (expireLease e s).mem = s.mem := by
  unfold expireLease
  split
  · rfl
  · exact settleClk_mem _

theorem expireLease_dev (e : EntryId) (s : State) : (expireLease e s).dev = s.dev := by
  unfold expireLease
  split
  · rfl
  · exact settleClk_dev _

/-- Clocks that pass write no memory. -/
theorem advanceClocks_mem (core : Nat → Nat) (host fabric : Nat) (s : State) :
    (advanceClocks core host fabric s).mem = s.mem :=
  List.foldlRecOn (motive := fun t : State => t.mem = s.mem) _ _ rfl fun t ht e _ => (expireLease_mem e.id t).trans ht

/-- Clocks that pass write no device register. -/
theorem advanceClocks_dev (core : Nat → Nat) (host fabric : Nat) (s : State) :
    (advanceClocks core host fabric s).dev = s.dev :=
  List.foldlRecOn (motive := fun t : State => t.dev = s.dev) _ _ rfl fun t ht e _ => (expireLease_dev e.id t).trans ht

/-- Stretched clocks write no memory. -/
theorem passHall_mem (hall core ns : Nat) (s : State) : (passHall hall core ns s).mem = s.mem := by
  unfold passHall
  split
  · exact advanceClocks_mem _ _ _ s
  · rfl

/-- Stretched clocks add up in the hall's STRETCH, each by a nanosecond at least (R494, log entry 119). -/
theorem passHall_stretch {hall : Nat} (core ns : Nat) {s : State} (hh : hall < 6) (h : s.stretched.contains hall = true) :
    (vget (passHall hall core ns s).dev.stretch hall).toNat =
      min (2 ^ 64 - 1) ((vget s.dev.stretch hall).toNat + core * max 1 ns) := by
  unfold passHall
  simp only [if_pos h, vget_vset _ hh hh, if_true, toNat_satAdd, advanceClocks_dev]

/-! ## Links (R473, R477, R488) -/

section
variable (s : State)

/-- INJECTOR_ACT: a flit corrupted or dropped is counted, and the injector is spent unless it repeats (R473). -/
theorem exec_injectorAct {link : Nat} {dir : Bool} {i : Injector}
    (h : s.injectors.find? (fun i => i.link == link && i.dir == dir) = some i) :
    let t := if (i.act = 1 ∧ i.arg ≠ 0) ∨ i.act = 2 then countLink link false s else s
    exec (.injectorAct link dir) s = .next
      (if i.rep then t else { t with injectors := t.injectors.filter fun j => !(j.link == link && j.dir == dir) }) := by
  rw [Exec.injectorAct, execInjectorAct, h]

/-- ESCAPE_RECOVERY: the router's flits go by the escape channel, and RECOVER counts (R477). -/
theorem exec_escapeRecovery (router : Nat) : ∃ t, exec (.escapeRecovery router) s = .next t ∧ router ∈ t.escapes ∧
    t.dev.recover = satInc s.dev.recover ∧ t.mem = s.mem ∧ t.me = s.me := by
  refine ⟨_, Exec.escapeRecovery s, ?_, rfl, rfl, rfl⟩
  unfold onDev
  dsimp only
  split
  · rename_i h
    simpa using h
  · exact List.mem_cons_self

/-- ROUTING_TABLE_WRITE: one or two links for a destination (R488). -/
theorem exec_routingTableWrite {dest : Nat} {links : List Nat} (hd : dest < 16) (h1 : 1 ≤ links.length)
    (h2 : links.length ≤ 2) (hl : ∀ l ∈ links, l < 8) : exec (.routingTableWrite dest links) s =
      .next { s with routing := (dest, links) :: s.routing.filter fun r => r.1 != dest } := by
  rw [Exec.routingTableWrite, execRoutingTableWrite, if_pos ⟨hd, h1, h2, by simpa using hl⟩]

/-- MSIX_MESSAGE: the host core of the vector's entry has a notice of kind 0 (R479). -/
theorem exec_msixMessage {port vec : Nat} (hp : port < 4) (hv : vec < 2048) : exec (.msixMessage port vec) s =
    .next (notify (((s.msix.find? fun e => e.1 == port * 2048 + vec).map (·.2)).getD (Config.msixRoute port vec).toNat)
      0 vec s) := by
  rw [Exec.msixMessage, execMsixMessage, if_pos ⟨hp, hv⟩]

/-! ## Errors of memory (R474) -/

/-- MEMORY_ERROR, correctable: it stands in its unit and poisons nothing. -/
theorem exec_memoryError_correctable {addr : Nat} (h : (poolOf addr).isMemory = true) :
    ∃ t, exec (.memoryError addr true) s = .next t ∧ t.poison = s.poison ∧ (addr / 8, true) ∈ t.latent ∧ t.mem = s.mem := by
  rw [Exec.memoryError, execMemoryError, h]
  exact ⟨_, rfl, rfl, List.mem_cons_self, rfl⟩

/-- MEMORY_ERROR, uncorrectable: its unit is poisoned at once (log entry 52). -/
theorem exec_memoryError_uncorrectable {addr : Nat} (h : (poolOf addr).isMemory = true) :
    ∃ t, exec (.memoryError addr false) s = .next t ∧ addr / 8 ∈ t.poison ∧ (addr / 8, false) ∈ t.latent ∧ t.mem = s.mem := by
  rw [Exec.memoryError, execMemoryError, h]
  refine ⟨_, rfl, ?_, List.mem_cons_self, rfl⟩
  by_cases hu : addr / 8 ∈ s.poison <;> simp [hu]

/-- SCRUB_VISIT leaves the errors of other lines, notes a row at most, and poisons the line where an error is
uncorrectable. -/
theorem exec_scrubVisit_eq (line : Nat) : ∃ rows, exec (.scrubVisit line) s = .next { s with
    latent := s.latent.filter fun x => x.1 / 32 != line
    history := rows
    poison := if (s.latent.filter fun x => x.1 / 32 == line).any fun x => !x.2 then
      (List.range 32).map (fun k => line * 32 + k) ++ s.poison.filter fun u => u / 32 != line else s.poison } := by
  refine ⟨if (s.latent.filter fun x => x.1 / 32 == line).any (·.2) then noteRow line s.history else s.history, ?_⟩
  rw [Exec.scrubVisit, execScrubVisit]
  dsimp only
  split <;> split <;> rfl

/-- SCRUB_VISIT: no error stays in the line, and an uncorrectable one poisons all of it (log entry 52). -/
theorem exec_scrubVisit (line : Nat) :
    ∃ t, exec (.scrubVisit line) s = .next t ∧ (∀ x ∈ t.latent, x.1 / 32 ≠ line) ∧ t.mem = s.mem ∧ t.me = s.me ∧
      ((∃ x ∈ s.latent, x.1 / 32 = line ∧ x.2 = false) → ∀ k, k < 32 → line * 32 + k ∈ t.poison) ∧
      ((∀ x ∈ s.latent, x.1 / 32 = line → x.2 = true) → t.poison = s.poison) := by
  obtain ⟨rows, h⟩ := exec_scrubVisit_eq s line
  refine ⟨_, h, fun x hx => by simpa using (List.mem_filter.mp hx).2, rfl, rfl, ?_, ?_⟩
  · rintro ⟨x, hx, hl, hu⟩ k hk
    have hany : ((s.latent.filter fun x => x.1 / 32 == line).any fun x => !x.2) = true :=
      List.any_eq_true.mpr ⟨x, List.mem_filter.mpr ⟨hx, by simpa using hl⟩, by rw [hu]; rfl⟩
    rw [if_pos hany]
    exact List.mem_append_left _ (List.mem_map.mpr ⟨k, List.mem_range.mpr hk, rfl⟩)
  · intro hall
    refine if_neg fun hany => ?_
    obtain ⟨x, hx, hu⟩ := List.any_eq_true.mp hany
    obtain ⟨hx, hl⟩ := List.mem_filter.mp hx
    rw [hall x hx (by simpa using hl)] at hu
    cases hu

/-! ## Hotness (R493) -/

/-- HOTNESS_INTERVAL_END: sketch and list are cleared, NOTICE[16] is set and SEQ counts. -/
theorem exec_hotnessIntervalEnd {c : Nat} (hc : c < 13) (hen : (vget s.dev.hot c).ctl.getLsbD 63 = true) :
    ∃ t, exec (.hotnessIntervalEnd c) s = .next t ∧
      (vget t.dev.hot c).list = [] ∧ (vget t.dev.hot c).sketch = [] ∧ t.dev.notice.getLsbD 16 = true ∧
      slice (vget t.dev.hot c).ctl 31 0 = (slice (vget s.dev.hot c).ctl 31 0 + 1) % 2 ^ 32 := by
  rw [Exec.hotnessIntervalEnd, execHotnessIntervalEnd, if_neg (by simp [hen]; omega)]
  refine ⟨_, rfl, ?_⟩
  unfold onDev
  simp only [vget_vset _ hc hc, if_true, getLsbD_setBit _ _ (show 16 < 64 by omega), true_and]
  rw [slice_setField _ _ _ _ (by omega) (by omega), Nat.mod_mod]

/-! ## Refresh (R476) -/

/-- A sequencer that changes reads as it was changed. -/
theorem onRefresh_refresh {stack : Nat} (f : Refresh → Refresh) (h : stack < 12) :
    vget (onRefresh stack f s).refresh stack = f (vget s.refresh stack) := by
  unfold onRefresh
  rw [if_pos h]
  exact (vget_vset _ h h _).trans (if_pos rfl)

theorem onRefresh_mem (stack : Nat) (f : Refresh → Refresh) : (onRefresh stack f s).mem = s.mem := by
  unfold onRefresh
  split <;> rfl

theorem onRefresh_dev (stack : Nat) (f : Refresh → Refresh) : (onRefresh stack f s).dev = s.dev := by
  unfold onRefresh
  split <;> rfl

/-- REFRESH_TAKEOVER after two missed heartbeats: the sequencer refreshes, and NOTICE says so. -/
theorem exec_refreshTakeover {stack : Nat} (h : stack < 12) (hm : 2 ≤ (vget s.refresh stack).missed)
    (ht : (vget s.refresh stack).taken = false) :
    ∃ t, exec (.refreshTakeover stack) s = .next t ∧ (vget t.refresh stack).taken = true ∧
      t.dev.notice.getLsbD stack = true ∧ t.mem = s.mem := by
  rw [Exec.refreshTakeover, execRefreshTakeover, if_pos ⟨h, hm, by rw [ht]; rfl⟩]
  refine ⟨_, rfl, ?_, ?_, onRefresh_mem s stack _⟩
  · exact congrArg Refresh.taken (onRefresh_refresh s _ h)
  · exact (getLsbD_setBit _ _ (by omega)).trans (if_pos rfl)

/-- REFRESH_TAKEOVER where too few heartbeats are missed or the sequencer refreshes already. -/
theorem exec_refreshTakeover_idle {stack : Nat}
    (h : (vget s.refresh stack).missed < 2 ∨ (vget s.refresh stack).taken = true) :
    exec (.refreshTakeover stack) s = .next s := by
  rw [Exec.refreshTakeover, execRefreshTakeover, if_neg]
  rintro ⟨-, hm, ht⟩
  rcases h with h | h
  · omega
  · simp [h] at ht

/-- REFRESH_HEARTBEAT: the fourth in a row gives refresh back. -/
theorem exec_refreshHeartbeat {stack : Nat} (h : stack < 12) :
    ∃ t, exec (.refreshHeartbeat stack) s = .next t ∧ t.mem = s.mem ∧ t.dev = s.dev ∧
      (vget t.refresh stack).taken = ((vget s.refresh stack).taken && decide ((vget s.refresh stack).good < 3)) := by
  refine ⟨_, Exec.refreshHeartbeat s, onRefresh_mem s stack _, onRefresh_dev s stack _, ?_⟩
  rw [onRefresh_refresh s _ h]
  cases (vget s.refresh stack).taken with
  | false => rfl
  | true =>
    by_cases hg : 3 ≤ (vget s.refresh stack).good
    · simp [hg]
    · simp [hg]; omega

/-! ## Supply (R35, R494) -/

/-- SUPPLY_SAG: the hall's clock is stretched. -/
theorem exec_supplySag {hall : Nat} (h : hall < 6) :
    ∃ t, exec (.supplySag hall) s = .next t ∧ hall ∈ t.stretched ∧ t.mem = s.mem ∧ t.dev = s.dev := by
  refine ⟨_, Exec.supplySag s, ?_⟩
  by_cases hm : hall ∈ s.stretched
  · rw [if_neg (by simp [hm])]
    exact ⟨hm, rfl, rfl⟩
  · rw [if_pos ⟨h, by simpa using hm⟩]
    exact ⟨List.mem_cons_self, rfl, rfl⟩

/-- SUPPLY_RECOVER with a clock under way: it ends first, stretched, and writes no memory. -/
theorem exec_supplyRecover {hall ns : Nat} (h : ns ≠ 0) :
    ∃ t, exec (.supplyRecover hall ns) s = .next t ∧
      t.stretched = ((passHall hall 1 ns s).stretched.filter fun h => h != hall) ∧
      t.dev = (passHall hall 1 ns s).dev ∧ t.mem = s.mem := by
  rw [Exec.supplyRecover, execSupplyRecover, if_neg h]
  exact ⟨_, rfl, rfl, rfl, passHall_mem hall 1 ns s⟩

end

end Sys2Proof.Machine

namespace Sys2Proof

open Sys2Proof.Machine

/-- Settles O40, step by step: each clause is the lemma above about its step, or the step's definition. -/
theorem machineUpkeep : Obligations.MachineUpkeep := by
  unfold Obligations.MachineUpkeep
  intro s link router dest c stack hall ns line addr port vec core dir corrected links
  refine ⟨Exec.linkFlitError s, fun i hi => exec_injectorAct s hi, exec_escapeRecovery s router, Exec.escapeChannelEmpty s,
    exec_routingTableWrite s, exec_msixMessage s,
    fun h => ⟨exec_memoryError_correctable s h, exec_memoryError_uncorrectable s h⟩, exec_scrubVisit s line,
    Exec.controllerBatchForm s, exec_hotnessIntervalEnd s, fun h => ?_, fun h => ?_⟩
  · exact ⟨exec_refreshTakeover s h, exec_refreshTakeover_idle s, onRefresh_refresh s _ h, exec_refreshHeartbeat s h⟩
  · exact ⟨exec_supplySag s h, Exec.supplyRecover s, exec_supplyRecover s,
      fun hc => ⟨passHall_mem hall core ns s, passHall_stretch core ns h hc⟩⟩

end Sys2Proof

/-! # Integer forms of the lead stream (R88 to R90, R94)

O1 to O3. A form is settled in two parts: what a shared form writes at either width follows from one equation over bit vectors
of every width n, and the equations themselves are shown operation by operation. -/

namespace Sys2Proof.Machine

open Sys2Proof Sys2Proof.Claims

/-! ## From an equation at every width to the forms -/

section
variable {i : Bool → Reg → Reg → Reg → Instr} {j : Bool → Reg → Reg → Instr}

/-- A binary form whose exact result has the low bits of f. -/
theorem regForm_of_binForm {g : Nat → Nat → Nat → Int} {f : ∀ n, BitVec n → BitVec n → BitVec n}
    (hi : ∀ s w d a b, exec (i w d a b) s = binForm w d a b g s)
    (hf : ∀ n, 32 ≤ n → ∀ x y : BitVec n, BitVec.ofInt n (g n x.toNat y.toNat) = f n x y) : RegForm i f := by
  intro s d a b
  rw [hi, hi, binForm_next, binForm_next, resultBits_false, resultBits_true]
  simp only [lowOf_false, lowOf_true, opBits, Bool.false_eq_true, if_false, if_true]
  rw [hf 64 (by omega), hf 32 (by omega)]
  exact ⟨rfl, rfl⟩

/-- A unary form whose exact result has the low bits of f. -/
theorem unaryForm_of_unForm {g : Nat → Nat → Int} {f : ∀ n, BitVec n → BitVec n}
    (hj : ∀ s w d a, exec (j w d a) s = unForm w d a g s)
    (hf : ∀ n, 32 ≤ n → ∀ x : BitVec n, BitVec.ofInt n (g n x.toNat) = f n x) : UnaryForm j f := by
  intro s d a
  rw [hj, hj, unForm_next, unForm_next, resultBits_false, resultBits_true]
  simp only [lowOf_false, lowOf_true, opBits, Bool.false_eq_true, if_false, if_true]
  rw [hf 64 (by omega), hf 32 (by omega)]
  exact ⟨rfl, rfl⟩

/-- A form that accepts SAT writes its exact result clamped as the payload says: g of the operands as the payload has them
read, and of the pattern of B (R88). -/
def Clamps (i : Bool → Reg → Reg → Reg → Instr) (g : Nat → Int → Int → Nat → Int) : Prop :=
  ∀ (s : State) (w : Bool) (d a b : Reg), exec (i w d a b) s = .next (writes d (resultBits w
    (clampBy s.issue.sat (opBits w) (g (opBits w) (readBy s.issue.sat (opBits w) (lowOf w (s.me.sreg a)))
      (readBy s.issue.sat (opBits w) (lowOf w (s.me.sreg b))) (lowOf w (s.me.sreg b))))) s)

/-- The shared form clamps its exact result. -/
theorem clamps_of_satForm {g : Nat → Int → Int → Int}
    (hi : ∀ s w d a b, exec (i w d a b) s = satForm w d a b g s) : Clamps i fun n x y _ => g n x y :=
  fun s w d a b => (hi s w d a b).trans (satForm_next w d a b g s)

/-- SHL clamps the shifted operand; its count is the pattern of B (R88). -/
theorem clamps_shl : Clamps .shl fun n x _ c => x * (2 ^ (c % n) : Nat) :=
  fun s _ _ _ _ => (Exec.shl s).trans (runLead_ok (u := ()) (by simp; rfl))

/-- Without a payload the operands are read signed and nothing is clamped. -/
theorem Clamps.satFreeForm {g : Nat → Int → Int → Nat → Int} {f : ∀ n, BitVec n → BitVec n → BitVec n}
    (hi : Clamps i g) (hf : ∀ n, 32 ≤ n → ∀ x y : BitVec n, BitVec.ofInt n (g n x.toInt y.toInt y.toNat) = f n x y) :
    SatFreeForm i f := by
  intro s d a b hs
  rw [hi, hi, hs, resultBits_false, resultBits_true]
  simp only [clampBy, readBy, reduceCtorEq, if_false, lowOf_false, lowOf_true, opBits, Bool.false_eq_true, if_true,
    sextN_toNat (show 0 < 64 by omega), sextN_toNat (show 0 < 32 by omega)]
  rw [hf 64 (by omega), hf 32 (by omega)]
  exact ⟨rfl, rfl⟩

/-- The exact result of operands read and clamped as a payload says. -/
theorem ofInt_clampBy {n : Nat} (hn : 0 < n) (g : Int → Int → Nat → Int) (u : Bool) (x y : BitVec n) :
    BitVec.ofInt n (clampBy (some (if u then 2 else 1)) n (g (readBy (some (if u then 2 else 1)) n x.toNat)
      (readBy (some (if u then 2 else 1)) n y.toNat) y.toNat)) = satResult g u n x y := by
  cases u
  · simp [clampBy, readBy, satResult, clampSigned, clampI, rangeOf, sextN_toNat hn]
  · simp [clampBy, readBy, satResult, clampUnsigned, clampI, rangeOf]

/-- Under a payload the exact result is clamped to the payload's range. -/
theorem Clamps.satForm {g : Nat → Int → Int → Nat → Int} (hi : Clamps i g) : SatForm i g := by
  intro s d a b u hs
  rw [hi, hi, hs, resultBits_false, resultBits_true]
  simp only [lowOf_false, lowOf_true, opBits, Bool.false_eq_true, if_false, if_true]
  rw [ofInt_clampBy (by omega), ofInt_clampBy (by omega)]
  exact ⟨rfl, rfl⟩

end

section
variable {j : Bool → Reg → Reg → Instr} {s : State} {g : Int → Int} {d a : Reg} {u : Bool}

/-- The shared form with an immediate at 64 bits under a payload. -/
theorem satImmForm_false_sat (hs : s.issue.sat = some (if u then 2 else 1)) :
    satImmForm false d a g s = .next (writes d (satResult (fun x _ _ => g x) u 64 (s.me.sreg a) 0) s) := by
  rw [satImmForm_next, hs, resultBits_false, lowOf_false]
  exact congrArg (fun x => Host.Outcome.next (writes d x s)) (ofInt_clampBy (by omega) (fun x _ _ => g x) u _ 0)

/-- At 32 bits under a payload. -/
theorem satImmForm_true_sat (hs : s.issue.sat = some (if u then 2 else 1)) : satImmForm true d a g s =
    .next (writes d ((satResult (fun x _ _ => g x) u 32 ((s.me.sreg a).setWidth 32) 0).signExtend 64) s) := by
  rw [satImmForm_next, hs, resultBits_true, lowOf_true]
  exact congrArg (fun x => Host.Outcome.next (writes d (BitVec.signExtend 64 x) s))
    (ofInt_clampBy (by omega) (fun x _ _ => g x) u _ 0)

/-- At 64 bits without one. -/
theorem satImmForm_false_free (hs : s.issue.sat = none) :
    satImmForm false d a g s = .next (writes d (BitVec.ofInt 64 (g (s.me.sreg a).toInt)) s) := by
  rw [satImmForm_next, hs, resultBits_false, lowOf_false]
  simp only [clampBy, readBy, reduceCtorEq, if_false, opBits, Bool.false_eq_true, sextN_toNat (show 0 < 64 by omega)]

/-- At 32 bits without one. -/
theorem satImmForm_true_free (hs : s.issue.sat = none) : satImmForm true d a g s =
    .next (writes d ((BitVec.ofInt 32 (g ((s.me.sreg a).setWidth 32).toInt)).signExtend 64) s) := by
  rw [satImmForm_next, hs, resultBits_true, lowOf_true]
  simp only [clampBy, readBy, reduceCtorEq, if_false, opBits, if_true, sextN_toNat (show 0 < 32 by omega)]

/-- A form with an immediate under a payload, at both widths. -/
theorem satImmForm_of_satImmForm (hj : ∀ s w d a, exec (j w d a) s = satImmForm w d a g s) : SatImmForm j g := by
  intro s d a u hs
  rw [hj, hj]
  exact ⟨satImmForm_false_sat hs, satImmForm_true_sat hs⟩

/-- A form with an immediate without one, at both widths. -/
theorem satFreeImmForm_of_satImmForm {f : ∀ n, BitVec n → BitVec n}
    (hj : ∀ s w d a, exec (j w d a) s = satImmForm w d a g s)
    (hf : ∀ n, 32 ≤ n → ∀ x : BitVec n, BitVec.ofInt n (g x.toInt) = f n x) : SatFreeImmForm j f := by
  intro s d a hs
  rw [hj, hj, satImmForm_false_free hs, satImmForm_true_free hs, hf 64 (by omega), hf 32 (by omega)]
  exact ⟨rfl, rfl⟩

end

/-! ## Exact results as bit vectors -/

section
variable {n : Nat}

/-- The low bits of an exact difference. -/
theorem ofInt_sub (x y : Int) : BitVec.ofInt n (x - y) = BitVec.ofInt n x - BitVec.ofInt n y := by
  rw [Int.sub_eq_add_neg, BitVec.ofInt_add, BitVec.ofInt_neg, BitVec.sub_eq_add_neg]

/-- The signed reading of the low bits of a number. -/
theorem ofInt_sextN (h : 0 < n) (x : Nat) : BitVec.ofInt 64 (sextN n x) = (BitVec.ofNat n x).signExtend 64 := by
  rw [← ofInt_toInt, ← sextN_toNat h, BitVec.toNat_ofNat, sextN, sextN, Nat.mod_mod]

/-- The low bits of an exact left shift. -/
theorem ofInt_mul_two_pow (x : BitVec n) (c : Nat) : BitVec.ofInt n (x.toInt * (2 ^ c : Nat)) = x <<< c := by
  rw [BitVec.ofInt_mul, BitVec.ofInt_toInt, BitVec.ofInt_natCast, BitVec.shiftLeft_eq_mul_twoPow]
  exact congrArg _ (BitVec.eq_of_toNat_eq (by rw [BitVec.toNat_ofNat, BitVec.toNat_twoPow]))

/-- A logical right shift is a division. -/
theorem ofInt_div_two_pow (x : BitVec n) (c : Nat) : BitVec.ofInt n ((x.toNat / 2 ^ c : Nat) : Int) = x >>> c := by
  rw [BitVec.ofInt_natCast, ← Nat.shiftRight_eq_div_pow, ← BitVec.toNat_ushiftRight, BitVec.ofNat_toNat, BitVec.setWidth_eq]

/-- An arithmetic right shift is a division toward −∞. -/
theorem ofInt_toInt_div_two_pow (x : BitVec n) (c : Nat) :
    BitVec.ofInt n (x.toInt / (2 ^ c : Nat)) = x.sshiftRight c := by
  rw [BitVec.sshiftRight_eq, Int.shiftRight_eq_div_pow]

/-- A rotation within the width is the rotation by the count modulo the width. -/
theorem ofInt_rotr (x : BitVec n) {c : Nat} (hc : c < n) :
    BitVec.ofInt n ((rotr n x.toNat c : Nat) : Int) = x.rotateRight c := by
  rw [BitVec.ofInt_natCast]
  refine BitVec.eq_of_toNat_eq ?_
  have hx : x.toNat / 2 ^ c < 2 ^ (n - c) := by
    rw [Nat.div_lt_iff_lt_mul (Nat.two_pow_pos c), ← Nat.pow_add, Nat.sub_add_cancel (by omega)]
    exact x.isLt
  have hsum : x.toNat / 2 ^ c + x.toNat * 2 ^ (n - c) = x.toNat >>> c ||| x.toNat <<< (n - c) := by
    rw [Nat.shiftRight_eq_div_pow, Nat.shiftLeft_eq, Nat.or_comm, Nat.mul_comm, Nat.add_comm,
      Nat.two_pow_add_eq_or_of_lt hx]
  rw [BitVec.toNat_ofNat, rotr, Nat.mod_mod, BitVec.toNat_rotateRight, Nat.mod_eq_of_lt hc, hsum, Nat.or_mod_two_pow]
  refine congrArg (· ||| _) (Nat.mod_eq_of_lt ?_)
  exact Nat.lt_of_le_of_lt (Nat.shiftRight_le _ _) x.isLt

/-- A bitwise operation on patterns is that on their numbers. -/
theorem ofInt_and (x y : BitVec n) : BitVec.ofInt n ((x.toNat &&& y.toNat : Nat) : Int) = x &&& y := by
  rw [BitVec.ofInt_natCast, ← BitVec.toNat_and, BitVec.ofNat_toNat, BitVec.setWidth_eq]

theorem ofInt_or (x y : BitVec n) : BitVec.ofInt n ((x.toNat ||| y.toNat : Nat) : Int) = x ||| y := by
  rw [BitVec.ofInt_natCast, ← BitVec.toNat_or, BitVec.ofNat_toNat, BitVec.setWidth_eq]

theorem ofInt_xor (x y : BitVec n) : BitVec.ofInt n ((x.toNat ^^^ y.toNat : Nat) : Int) = x ^^^ y := by
  rw [BitVec.ofInt_natCast, ← BitVec.toNat_xor, BitVec.ofNat_toNat, BitVec.setWidth_eq]

/-- Signed division rounded toward zero, with its corners (R90). -/
theorem ofInt_divSigned (x y : BitVec n) :
    BitVec.ofInt n (divSigned x.toInt y.toInt) = if y = 0 then BitVec.allOnes n else x.sdiv y := by
  unfold divSigned
  by_cases hy : y = 0
  · rw [if_pos hy, if_pos (by simp [hy])]
    rw [BitVec.ofInt_neg]
    exact BitVec.neg_one_eq_allOnes
  · rw [if_neg hy, if_neg (fun h => hy (BitVec.eq_of_toInt_eq (by simpa using h)))]
    exact BitVec.eq_of_toInt_eq (by rw [BitVec.toInt_sdiv, BitVec.toInt_ofInt, quotZ])

/-- Its remainder. -/
theorem ofInt_remSigned (x y : BitVec n) :
    BitVec.ofInt n (remSigned x.toInt y.toInt) = if y = 0 then x else x.srem y := by
  unfold remSigned
  by_cases hy : y = 0
  · rw [if_pos hy, if_pos (by simp [hy]), BitVec.ofInt_toInt]
  · have hrem : x.toInt - y.toInt * quotZ x.toInt y.toInt = (x.srem y).toInt := by
      rw [BitVec.toInt_srem, quotZ, Int.tmod_def]
    rw [if_neg hy, if_neg (fun h => hy (BitVec.eq_of_toInt_eq (by simpa using h))), hrem, BitVec.ofInt_toInt]

/-- Unsigned division, with a divisor of 0 (R90). -/
theorem ofInt_div (x y : BitVec n) :
    BitVec.ofInt n (if y.toNat = 0 then ((2 ^ n - 1 : Nat) : Int) else (x.toNat / y.toNat : Nat)) =
    if y = 0 then BitVec.allOnes n else x / y := by
  have hy : y.toNat = 0 ↔ y = 0 := by rw [← BitVec.toNat_inj]; rfl
  simp only [hy]
  split
  · rw [BitVec.ofInt_natCast]
    exact BitVec.eq_of_toNat_eq (by simp)
  · rw [BitVec.ofInt_natCast, ← BitVec.toNat_udiv, BitVec.ofNat_toNat, BitVec.setWidth_eq]

/-- Its remainder. -/
theorem ofInt_mod (x y : BitVec n) : BitVec.ofInt n (if y.toNat = 0 then (x.toNat : Int) else (x.toNat % y.toNat : Nat)) =
    if y = 0 then x else x % y := by
  have hy : y.toNat = 0 ↔ y = 0 := by rw [← BitVec.toNat_inj]; rfl
  simp only [hy]
  split
  · rw [BitVec.ofInt_natCast, BitVec.ofNat_toNat, BitVec.setWidth_eq]
  · rw [BitVec.ofInt_natCast, ← BitVec.toNat_umod, BitVec.ofNat_toNat, BitVec.setWidth_eq]

end

end Sys2Proof.Machine

namespace Sys2Proof

open Sys2Proof.Machine Sys2Proof.Claims

/-- Settles O1: each form is a shared form whose exact result has the low bits that the bit-vector operation has. -/
theorem leadArithmetic : Obligations.LeadArithmetic := by
  unfold Obligations.LeadArithmetic
  have hmod {n : Nat} (h : 32 ≤ n) (c : Nat) : c % n < n := Nat.mod_lt c (by omega)
  refine ⟨?add, ?sub, ?mul, fun f => ?addx, ?shl, ?shr, ?sar, ?rot, ?and, ?or, ?xor, ?andn⟩
  case add =>
    refine (clamps_of_satForm fun s _ _ _ _ => Exec.add s).satFreeForm fun n _ x y => ?_
    rw [BitVec.ofInt_add, BitVec.ofInt_toInt, BitVec.ofInt_toInt]
  case sub =>
    refine (clamps_of_satForm fun s _ _ _ _ => Exec.sub s).satFreeForm fun n _ x y => ?_
    rw [ofInt_sub, BitVec.ofInt_toInt, BitVec.ofInt_toInt]
  case mul =>
    refine (clamps_of_satForm fun s _ _ _ _ => Exec.mul s).satFreeForm fun n _ x y => ?_
    rw [BitVec.ofInt_mul, BitVec.ofInt_toInt, BitVec.ofInt_toInt]
  case addx =>
    refine (clamps_of_satForm fun s _ _ _ _ => Exec.addx s).satFreeForm fun n _ x y => ?_
    rw [BitVec.ofInt_add, BitVec.ofInt_mul, BitVec.ofInt_toInt, BitVec.ofInt_toInt, BitVec.ofInt_natCast]
  case shl => exact clamps_shl.satFreeForm fun n _ x y => ofInt_mul_two_pow x _
  case shr => exact regForm_of_binForm (fun s _ _ _ _ => Exec.shr s) fun n _ x y => ofInt_div_two_pow x _
  case sar =>
    refine regForm_of_binForm (fun s _ _ _ _ => Exec.sar s) fun n hn x y => ?_
    rw [sextN_toNat (by omega), ofInt_toInt_div_two_pow]
  case rot => exact regForm_of_binForm (fun s _ _ _ _ => Exec.rot s) fun n hn x y => ofInt_rotr x (hmod hn _)
  case and => exact regForm_of_binForm (fun s _ _ _ _ => Exec.and s) fun n _ x y => ofInt_and x y
  case or => exact regForm_of_binForm (fun s _ _ _ _ => Exec.or s) fun n _ x y => ofInt_or x y
  case xor => exact regForm_of_binForm (fun s _ _ _ _ => Exec.xor s) fun n _ x y => ofInt_xor x y
  case andn =>
    refine regForm_of_binForm (fun s _ _ _ _ => Exec.andn s) fun n _ x y => ?_
    rw [← BitVec.toNat_not, ofInt_and]

/-- Settles O2: each form clamps its exact result as the payload says, whatever the operation. -/
theorem leadSaturation : Obligations.LeadSaturation := by
  unfold Obligations.LeadSaturation
  have hpow (k : Nat) : ((2 ^ k : Nat) : Int) = 2 ^ k := by push_cast; rfl
  refine ⟨?add, ?sub, ?mul, fun f => ?addx, ?shl, fun i => ?addi, fun c => ?shli, fun i s d a u hs => ?addiLong⟩
  case add => exact (clamps_of_satForm fun s _ _ _ _ => Exec.add s).satForm
  case sub => exact (clamps_of_satForm fun s _ _ _ _ => Exec.sub s).satForm
  case mul => exact (clamps_of_satForm fun s _ _ _ _ => Exec.mul s).satForm
  case addx =>
    have h := (clamps_of_satForm fun s _ _ _ _ => Exec.addx s (f := f)).satForm
    simpa only [hpow] using h
  case shl => simpa only [hpow] using clamps_shl.satForm
  case addi => exact satImmForm_of_satImmForm fun s _ _ _ => Exec.addi s
  case shli => simpa only [hpow] using satImmForm_of_satImmForm fun s _ _ _ => Exec.shli s (c := c)
  case addiLong => exact (Exec.addiLong s).trans (satImmForm_false_sat (g := fun x => x + i.toInt) hs)

/-- Settles O3: the exact products and quotients of R89 and R90 have the low bits of the bit-vector operations, corners
included. -/
theorem leadProductsAndQuotients : Obligations.LeadProductsAndQuotients := by
  unfold Obligations.LeadProductsAndQuotients
  refine ⟨?mulh, ?mulhn, ?div, ?divn, ?rem, ?remn, by decide, by decide, by decide, by decide⟩
  case mulh =>
    refine regForm_of_binForm (fun s _ _ _ _ => Exec.mulh s) fun n hn x y => ?_
    rw [sextN_toNat (by omega), sextN_toNat (by omega)]
    push_cast
    rfl
  case mulhn => exact regForm_of_binForm (fun s _ _ _ _ => Exec.mulhn s) fun n _ x y => BitVec.ofInt_natCast n _
  case div =>
    refine regForm_of_binForm (fun s _ _ _ _ => Exec.div s) fun n hn x y => ?_
    rw [sextN_toNat (by omega), sextN_toNat (by omega), ofInt_divSigned]
  case divn => exact regForm_of_binForm (fun s _ _ _ _ => Exec.divn s) fun n _ x y => ofInt_div x y
  case rem =>
    refine regForm_of_binForm (fun s _ _ _ _ => Exec.rem s) fun n hn x y => ?_
    rw [sextN_toNat (by omega), sextN_toNat (by omega), ofInt_remSigned]
  case remn => exact regForm_of_binForm (fun s _ _ _ _ => Exec.remn s) fun n _ x y => ofInt_mod x y

end Sys2Proof

/-! # Selections, counts, comparisons, fields and immediates (R89, R91 to R93, R95)

O4. The counts and conditions that the model computes on numbers are those of bit vectors, and a field replaced is read bit by
bit. The forms then follow as those of O1 do. -/

namespace Sys2Proof.Machine

open Sys2Proof Sys2Proof.Claims

/-! ## Selections -/

section
variable {n : Nat} (x y : BitVec n)

theorem ofInt_min : BitVec.ofInt n (min x.toInt y.toInt) = if x.toInt ≤ y.toInt then x else y := by
  rw [min_def, apply_ite (BitVec.ofInt n), BitVec.ofInt_toInt, BitVec.ofInt_toInt]

theorem ofInt_max : BitVec.ofInt n (max x.toInt y.toInt) = if x.toInt ≤ y.toInt then y else x := by
  rw [max_def, apply_ite (BitVec.ofInt n), BitVec.ofInt_toInt, BitVec.ofInt_toInt]

theorem ofInt_minn : BitVec.ofInt n ((min x.toNat y.toNat : Nat) : Int) = if x.toNat ≤ y.toNat then x else y := by
  rw [BitVec.ofInt_natCast, min_def, apply_ite (BitVec.ofNat n), BitVec.ofNat_toNat, BitVec.ofNat_toNat, BitVec.setWidth_eq,
    BitVec.setWidth_eq]

theorem ofInt_maxn : BitVec.ofInt n ((max x.toNat y.toNat : Nat) : Int) = if x.toNat ≤ y.toNat then y else x := by
  rw [BitVec.ofInt_natCast, max_def, apply_ite (BitVec.ofNat n), BitVec.ofNat_toNat, BitVec.ofNat_toNat, BitVec.setWidth_eq,
    BitVec.setWidth_eq]

end

/-- SEL writes one of its operands by the old value of d. -/
theorem execSel_next (w : Bool) (d a b : Reg) (s : State) : execSel w d a b s = .next (writes d (resultBits w
    ((if lowOf w (s.me.sreg d) ≠ 0 then lowOf w (s.me.sreg a) else lowOf w (s.me.sreg b) : Nat) : Int)) s) :=
  runLead_ok (u := ()) (by simp only [run_bind, run_regBits, run_setReg]; rfl)

/-! ## Counts -/

/-- A bit of a number. -/
theorem bitN_eq_testBit (x i : Nat) : bitN x i = x.testBit i := by
  rw [bitN, Nat.testBit_eq_decide_div_mod_eq, beq_eq_decide]

section
variable {n : Nat} (x : BitVec n)

theorem toNat_clz_le : x.clz.toNat ≤ n := by
  have h := BitVec.le_def.mp (BitVec.clz_le (x := x))
  rwa [BitVec.natCast_eq_ofNat, BitVec.toNat_ofNat, Nat.mod_eq_of_lt Nat.lt_two_pow_self] at h

theorem toNat_clz_zero : (0#n).clz.toNat = n := by
  rw [BitVec.clz_eq_iff_eq_zero.mpr rfl, BitVec.natCast_eq_ofNat, BitVec.toNat_ofNat, Nat.mod_eq_of_lt Nat.lt_two_pow_self]

/-- Leading zero bits (R89). -/
theorem clzN_eq (hn : 0 < n) : clzN n x.toNat = x.clz.toNat := by
  rw [clzN, Nat.mod_eq_of_lt x.isLt, bitLen]
  by_cases hx : x = 0#n
  · rw [hx, toNat_clz_zero]
    rfl
  · have hx0 : x.toNat ≠ 0 := fun h => hx (BitVec.eq_of_toNat_eq h)
    have hlow : 2 ^ (n - x.clz.toNat - 1) ≤ x.toNat := by
      rw [Nat.sub_right_comm]
      exact BitVec.two_pow_sub_clz_le_toNat_of_ne_zero hn hx
    have hhigh := BitVec.toNat_lt_two_pow_sub_clz (x := x)
    have hlt : x.clz.toNat < n := by
      refine Nat.lt_of_le_of_ne (toNat_clz_le x) fun h => hx0 ?_
      rw [h, Nat.sub_self] at hhigh
      omega
    have hlog : Nat.log2 x.toNat = n - x.clz.toNat - 1 := by
      rw [Nat.log2_eq_iff hx0, show n - x.clz.toNat - 1 + 1 = n - x.clz.toNat by omega]
      exact ⟨hlow, hhigh⟩
    rw [if_neg hx0, hlog]
    omega

/-- Trailing zero bits (R89). -/
theorem ctzN_eq : ctzN n x.toNat = x.ctz.toNat := by
  rw [ctzN, funext (bitN_eq_testBit x.toNat)]
  by_cases hx : x = 0#n
  · have hrev : x.reverse = 0#n := BitVec.reverse_eq_zero_iff.mpr hx
    have hnone : (List.range n).find? (fun i => x.toNat.testBit i) = none :=
      List.find?_eq_none.mpr fun i _ => by simp [hx]
    rw [hnone, BitVec.ctz, hrev, toNat_clz_zero]
    rfl
  · have hlt : x.ctz.toNat < n := by
      have h := BitVec.lt_def.mp (BitVec.ctz_lt_iff_ne_zero.mpr hx)
      rwa [BitVec.natCast_eq_ofNat, BitVec.toNat_ofNat, Nat.mod_eq_of_lt Nat.lt_two_pow_self] at h
    have hfind : (List.range n).find? (fun i => x.toNat.testBit i) = some x.ctz.toNat :=
      List.find?_range_eq_some.mpr ⟨BitVec.getLsbD_true_ctz_of_ne_zero hx, List.mem_range.mpr hlt, fun j hj => by
        rw [Bool.not_eq_true']
        exact BitVec.getLsbD_false_of_lt_ctz hj⟩
    rw [hfind]
    rfl

/-- Set bits below a position. -/
theorem popcount_eq_cpopNatRec (k : Nat) : popcount k x.toNat = x.cpopNatRec k 0 := by
  induction k with
  | zero => rfl
  | succ k ih =>
    have hbit : bitN x.toNat k = x.getLsbD k := bitN_eq_testBit _ _
    have hstep : popcount (k + 1) x.toNat = popcount k x.toNat + (x.getLsbD k).toNat := by
      rw [popcount, List.range_succ, List.filter_append, List.length_append, popcount]
      cases h : x.getLsbD k <;> simp [hbit, h]
    rw [hstep, ih, BitVec.cpopNatRec_succ, BitVec.cpopNatRec_eq (0 + _), Nat.zero_add]

/-- Set bits (R89). -/
theorem ofNat_popcount : BitVec.ofNat n (popcount n x.toNat) = x.cpop := by
  rw [popcount_eq_cpopNatRec]
  rfl

end

/-! ## Comparisons (R91) -/

/-- CMP writes 1 or 0. -/
theorem execCmp_next (c : BitVec 4) (w : Bool) (d a b : Reg) (s : State) : execCmp c w d a b s =
    .next (writes d (boolWord (condHolds c.toNat (opBits w) (lowOf w (s.me.sreg a)) (lowOf w (s.me.sreg b)))) s) :=
  runLead_ok (u := ()) (by simp only [run_bind, run_regBits, run_setReg]; rfl)

/-- The ten conditions on dwords. -/
theorem condHolds_dword (x y : Word) {c : Nat} (hc : c < 10) : condHolds c 64 x.toNat y.toNat =
    [x == y, x != y, x.slt y, !x.slt y, x.sle y, !x.sle y, x.ult y, !x.ult y, x.ule y, !x.ule y].getD c false := by
  unfold condHolds
  rw [sextN_toNat (by omega), sextN_toNat (by omega)]
  interval_cases c <;> rw [Bool.eq_iff_iff] <;>
    simp [BitVec.slt_eq_decide, BitVec.sle_eq_decide, BitVec.ult, BitVec.ule, ← BitVec.toNat_inj]

/-- A low word sign-extended: a negative one moves to the upper end of the dwords. -/
theorem toNat_signExtend_word (x : W32) :
    (x.signExtend 64).toNat = if 2 ^ 31 ≤ x.toNat then x.toNat + (2 ^ 64 - 2 ^ 32) else x.toNat := by
  have hx : (x.setWidth 64).toNat = x.toNat := BitVec.toNat_setWidth_of_le (by omega)
  rw [BitVec.toNat_signExtend, BitVec.msb_eq_decide, hx]
  simp only [decide_eq_true_eq]
  split <;> rfl

/-- Sign extension keeps every condition of the low words. -/
theorem condHolds_word (x y : W32) (c : Nat) :
    condHolds c 32 x.toNat y.toNat = condHolds c 64 (x.signExtend 64).toNat (y.signExtend 64).toNat := by
  have hx : (x.signExtend 64).toInt = x.toInt := BitVec.toInt_signExtend_of_le (by omega)
  have hy : (y.signExtend 64).toInt = y.toInt := BitVec.toInt_signExtend_of_le (by omega)
  have hlt (a b : W32) : (a.signExtend 64).toNat < (b.signExtend 64).toNat ↔ a.toNat < b.toNat := by
    rw [toNat_signExtend_word, toNat_signExtend_word]
    split <;> split <;> omega
  have heq : (x.signExtend 64).toNat = (y.signExtend 64).toNat ↔ x.toNat = y.toNat := by
    have h1 := hlt x y
    have h2 := hlt y x
    omega
  unfold condHolds
  rw [sextN_toNat (by omega), sextN_toNat (by omega), sextN_toNat (by omega), sextN_toNat (by omega), hx, hy]
  simp only [bne, beq_eq_decide, heq, hlt, ← Nat.not_lt]

/-! ## Bit fields (R92) -/

/-- A field replaced, as the parts above, in and below it. -/
theorem setField_eq {n : Nat} (w : BitVec n) {hi lo : Nat} (v : Nat) : setField w hi lo v =
    BitVec.ofNat n (2 ^ lo * (2 ^ (hi + 1 - lo) * (w.toNat / 2 ^ lo / 2 ^ (hi + 1 - lo)) + v % 2 ^ (hi + 1 - lo)) +
      w.toNat % 2 ^ lo) := by
  unfold setField bitsN
  generalize hi + 1 - lo = k
  have hx := Nat.div_add_mod w.toNat (2 ^ lo)
  have hd := Nat.div_add_mod (w.toNat / 2 ^ lo) (2 ^ k)
  have hsplit : 2 ^ lo * (w.toNat / 2 ^ lo) =
      2 ^ lo * (2 ^ k * (w.toNat / 2 ^ lo / 2 ^ k)) + w.toNat / 2 ^ lo % 2 ^ k * 2 ^ lo := by
    rw [Nat.mul_comm (_ % _), ← Nat.mul_add, hd]
  rw [Nat.mul_add, Nat.mul_comm (2 ^ lo) (v % 2 ^ k)]
  congr 1
  omega

/-- The bits of a word with a field replaced. -/
theorem getLsbD_setField {n : Nat} (w : BitVec n) {hi lo k : Nat} (v : Nat) (h : lo ≤ hi) (hk : k < n) :
    (setField w hi lo v).getLsbD k = if lo ≤ k ∧ k ≤ hi then v.testBit (k - lo) else w.getLsbD k := by
  rw [setField_eq w v, BitVec.getLsbD_ofNat, decide_eq_true hk, Bool.true_and,
    Nat.testBit_two_pow_mul_add _ (Nat.mod_lt _ (Nat.two_pow_pos lo)),
    Nat.testBit_two_pow_mul_add _ (Nat.mod_lt _ (Nat.two_pow_pos _)), Nat.testBit_mod_two_pow, Nat.testBit_mod_two_pow,
    Nat.testBit_div_two_pow, Nat.testBit_div_two_pow]
  by_cases hlo : k < lo
  · rw [if_pos hlo, if_neg (by omega), decide_eq_true hlo, Bool.true_and]
    rfl
  · rw [if_neg hlo]
    by_cases hhi : k ≤ hi
    · rw [if_pos (by omega), if_pos (by omega), decide_eq_true (by omega), Bool.true_and]
    · rw [if_neg (by omega), if_neg (by omega), show k - lo - (hi + 1 - lo) + (hi + 1 - lo) + lo = k by omega]
      rfl

/-! ## Immediates (R93, R95) -/

/-- A form with an immediate whose exact result has the low bits of f. -/
theorem unaryForm_of_immForm {j : Bool → Reg → Reg → Instr} {g : Nat → Nat → Int} {f : ∀ n, BitVec n → BitVec n}
    (hj : ∀ s w d a, exec (j w d a) s = immForm w d a g s)
    (hf : ∀ n, 32 ≤ n → ∀ x : BitVec n, BitVec.ofInt n (g n x.toNat) = f n x) : UnaryForm j f :=
  unaryForm_of_unForm hj hf

/-- The same at 64 bits alone. -/
theorem immForm_false {d a : Reg} {s : State} {g : Nat → Nat → Int} {y : Word}
    (h : BitVec.ofInt 64 (g 64 (s.me.sreg a).toNat) = y) :
    immForm false d a g s = .next (writes d y s) := by
  rw [← h, immForm, unForm_next, resultBits_false, lowOf_false]
  rfl

/-- A sum with a signed immediate. -/
theorem ofInt_add_imm {m n : Nat} (x : BitVec n) (i : BitVec m) : BitVec.ofInt n (x.toInt + i.toInt) = x + i.signExtend n := by
  rw [BitVec.ofInt_add, BitVec.ofInt_toInt, ofInt_toInt]

/-- SETHI's halves. -/
theorem ofNat_halves (i : W32) (x : Word) : BitVec.ofNat 64 (i.toNat * 2 ^ 32 + x.toNat % 2 ^ 32) = i ++ x.setWidth 32 := by
  have hx : (x.setWidth 32).toNat < 2 ^ 32 := (x.setWidth 32).isLt
  refine BitVec.eq_of_toNat_eq ?_
  rw [mod_eq_setWidth, BitVec.toNat_append, BitVec.toNat_ofNat, Nat.shiftLeft_eq, Nat.mul_comm,
    Nat.two_pow_add_eq_or_of_lt hx, Nat.mod_eq_of_lt]
  have hi := i.isLt
  rw [← Nat.two_pow_add_eq_or_of_lt hx]
  omega

end Sys2Proof.Machine

namespace Sys2Proof

open Sys2Proof.Machine Sys2Proof.Claims

/-- R89, R91, R92: each form is a shared form, or writes what the lemma above about it says. -/
theorem leadSelection : LeadSelection := by
  refine ⟨?min, ?max, ?minn, ?maxn, ?clz, ?ctz, ?popc, fun s d a p => ?ext, fun s d a b => ?sel, ?cmp,
    fun s d a u q h => ?field⟩
  case min =>
    refine regForm_of_binForm (fun s _ _ _ _ => Exec.min s) fun n hn x y => ?_
    rw [sextN_toNat (by omega), sextN_toNat (by omega), ofInt_min]
  case max =>
    refine regForm_of_binForm (fun s _ _ _ _ => Exec.max s) fun n hn x y => ?_
    rw [sextN_toNat (by omega), sextN_toNat (by omega), ofInt_max]
  case minn => exact regForm_of_binForm (fun s _ _ _ _ => Exec.minn s) fun n _ x y => ofInt_minn x y
  case maxn => exact regForm_of_binForm (fun s _ _ _ _ => Exec.maxn s) fun n _ x y => ofInt_maxn x y
  case clz =>
    refine unaryForm_of_unForm (fun s _ _ _ => Exec.clz s) fun n hn x => ?_
    rw [clzN_eq x (by omega), BitVec.ofInt_natCast, BitVec.ofNat_toNat, BitVec.setWidth_eq]
  case ctz =>
    refine unaryForm_of_unForm (fun s _ _ _ => Exec.ctz s) fun n _ x => ?_
    rw [ctzN_eq, BitVec.ofInt_natCast, BitVec.ofNat_toNat, BitVec.setWidth_eq]
  case popc =>
    refine unaryForm_of_unForm (fun s _ _ _ => Exec.popc s) fun n _ x => ?_
    rw [BitVec.ofInt_natCast, ofNat_popcount]
  case ext =>
    rw [Exec.sext, Exec.zext]
    refine ⟨immForm_false ?_, immForm_false ?_⟩
    · rw [ofInt_sextN (by omega), BitVec.ofNat_toNat]
    · rw [BitVec.ofInt_natCast, mod_eq_setWidth, BitVec.ofNat_toNat]
  case sel =>
    rw [Exec.sel, Exec.sel, execSel_next, execSel_next, resultBits_false, resultBits_true]
    have hz {n : Nat} (x : BitVec n) : x.toNat ≠ 0 ↔ x ≠ 0#n := not_congr (BitVec.toNat_inj (y := 0#n))
    simp only [lowOf_false, lowOf_true, BitVec.ofInt_natCast, apply_ite (BitVec.ofNat _), apply_ite (BitVec.setWidth 32),
      BitVec.ofNat_toNat, BitVec.setWidth_eq, hz]
    exact ⟨rfl, trivial⟩
  case cmp =>
    intro s c w d a b hc x y
    have hxy : condHolds c.toNat (opBits w) (lowOf w (s.me.sreg a)) (lowOf w (s.me.sreg b)) =
        condHolds c.toNat 64 x.toNat y.toNat := by
      cases w
      · rw [lowOf_false, lowOf_false]
        rfl
      · rw [lowOf_true, lowOf_true]
        exact condHolds_word _ _ _
    rw [Exec.cmp, execCmp_next, hxy, condHolds_dword x y hc]
    rfl
  case field =>
    rw [Exec.bfx, Exec.bfi]
    refine ⟨?_, setField (s.me.sreg d) (q.toNat + u.toNat) q.toNat (s.me.sreg a).toNat, runLead_ok (u := ()) rfl, fun k hk =>
      getLsbD_setField _ _ (by omega) hk⟩
    have hbits : BitVec.ofNat 64 (bitsN (s.me.sreg a).toNat (q.toNat + u.toNat) q.toNat) =
        ((s.me.sreg a).extractLsb' q.toNat (u.toNat + 1)).setWidth 64 := by
      rw [bitsN, ← Nat.shiftRight_eq_div_pow, show q.toNat + u.toNat + 1 - q.toNat = u.toNat + 1 by omega,
        ← BitVec.extractLsb'_toNat, BitVec.ofNat_toNat]
    rw [← hbits]
    exact runLead_ok (u := ()) rfl

/-- R93, R95: each form is a shared form whose immediate is extended as its operation says. -/
theorem leadImmediates : LeadImmediates := by
  refine ⟨fun i => ?addi, fun c => ?shli, fun i => ?andi, fun i => ?ori, fun i => ?xori, fun c => ?shri, fun c => ?sari,
    fun s d a => ⟨fun i => ⟨fun hs => ?addiLong, ?andiLong, ?oriLong, ?xoriLong⟩, fun i => ?sethi,
      fun i => ⟨?li, ?addpcLong⟩, fun i => ?addpc⟩⟩
  case addi => exact satFreeImmForm_of_satImmForm (fun s _ _ _ => Exec.addi s) fun n _ x => ofInt_add_imm x i
  case shli => exact satFreeImmForm_of_satImmForm (fun s _ _ _ => Exec.shli s) fun n _ x => ofInt_mul_two_pow x _
  case andi =>
    refine unaryForm_of_immForm (fun s _ _ _ => Exec.andi s) fun n hn x => ?_
    rw [← BitVec.toNat_setWidth_of_le (b := i) (show 10 ≤ n by omega), ofInt_and]
  case ori =>
    refine unaryForm_of_immForm (fun s _ _ _ => Exec.ori s) fun n hn x => ?_
    rw [← BitVec.toNat_setWidth_of_le (b := i) (show 10 ≤ n by omega), ofInt_or]
  case xori =>
    refine unaryForm_of_immForm (fun s _ _ _ => Exec.xori s) fun n hn x => ?_
    rw [← BitVec.toNat_setWidth_of_le (b := i) (show 10 ≤ n by omega), ofInt_xor]
  case shri => exact unaryForm_of_immForm (fun s _ _ _ => Exec.shri s) fun n _ x => ofInt_div_two_pow x _
  case sari =>
    refine unaryForm_of_immForm (fun s _ _ _ => Exec.sari s) fun n hn x => ?_
    rw [sextN_toNat (by omega), ofInt_toInt_div_two_pow]
  case addiLong =>
    rw [Exec.addiLong, ← ofInt_add_imm]
    exact satImmForm_false_free (g := fun x => x + i.toInt) hs
  case andiLong =>
    refine (Exec.andiLong s).trans (immForm_false ?_)
    rw [← BitVec.toNat_setWidth_of_le (b := i) (show 39 ≤ 64 by omega), ofInt_and]
  case oriLong =>
    refine (Exec.oriLong s).trans (immForm_false ?_)
    rw [← BitVec.toNat_setWidth_of_le (b := i) (show 39 ≤ 64 by omega), ofInt_or]
  case xoriLong =>
    refine (Exec.xoriLong s).trans (immForm_false ?_)
    rw [← BitVec.toNat_setWidth_of_le (b := i) (show 39 ≤ 64 by omega), ofInt_xor]
  case sethi =>
    rw [Exec.sethi, ← ofNat_halves]
    exact runLead_ok (u := ()) rfl
  case li => exact (Exec.li s).trans (runLead_ok (u := ()) rfl)
  case addpcLong => exact (Exec.addpcLong s).trans (runLead_ok (u := ()) rfl)
  case addpc => exact (Exec.addpc s).trans (runLead_ok (u := ()) rfl)

/-- Settles O4: the register forms and the immediate forms. -/
theorem leadSelectionAndImmediates : Obligations.LeadSelectionAndImmediates := ⟨leadSelection, leadImmediates⟩

end Sys2Proof

/-! # The runner in focus

What accesses leave of the runner in focus: a conflict rolls a runner back or dooms it, but which runner is in focus and what
it issues stay the same. O5 and O8 use it. -/

namespace Sys2Proof.Machine

open Sys2Proof Sys2Proof.Claims

/-- The same runner in focus, with the same issue. -/
structure SameFocus (s t : State) : Prop where
  issue : t.issue = s.issue
  id : t.me.id = s.me.id

section
variable {s t u : State}

theorem SameFocus.rfl : SameFocus s s := ⟨Eq.refl _, Eq.refl _⟩

theorem SameFocus.trans (h : SameFocus s t) (k : SameFocus t u) : SameFocus s u :=
  ⟨k.issue.trans h.issue, k.id.trans h.id⟩

/-- A step that changes neither. -/
theorem SameFocus.frame (hi : t.issue = s.issue := by rfl) (hid : t.me.id = s.me.id := by rfl) : SameFocus s t := ⟨hi, hid⟩

/-- Either of two steps. -/
theorem SameFocus.ite {c : Prop} [Decidable c] (ht : SameFocus s t) (hu : SameFocus s u) :
    SameFocus s (if c then t else u) := by
  split
  · exact ht
  · exact hu

/-- Steps one after another. -/
theorem SameFocus.foldl {α : Type} {f : State → α → State} (hf : ∀ s x, SameFocus s (f s x)) :
    ∀ (l : List α) (s : State), SameFocus s (l.foldl f s)
  | [], _ => .rfl
  | x :: l, s => (hf s x).trans (SameFocus.foldl hf l (f s x))

end

variable (s : State)

theorem countHot_sameFocus (pa : Nat) : SameFocus s (countHot s pa) := by
  unfold countHot
  split
  · exact .rfl
  · exact .ite .frame .rfl

theorem countRange_sameFocus (a n : Nat) : SameFocus s (countRange s a n) :=
  .ite .rfl (.foldl (fun s _ => countHot_sameFocus s _) _ s)

/-- A conflict keeps a runner's name. -/
theorem Runner.conflict_id (r : Runner) : r.conflict.id = r.id := by
  unfold Runner.conflict
  split <;> rfl

theorem conflictAt_sameFocus (who : RunnerId) : SameFocus s (conflictAt s who) := by
  unfold conflictAt
  split
  · exact .rfl
  · rename_i r hr
    have hwho : r.id = who := by simpa using List.find?_some hr
    refine .ite (.frame (Eq.refl _) ?_) .rfl
    show (if s.me.id = who then r.conflict else s.me).id = s.me.id
    split
    · rename_i hme
      rw [Runner.conflict_id, hwho, hme]
    · rfl

theorem doomLine_sameFocus (line : Nat) : SameFocus s (doomLine s line) := by
  refine .frame (Eq.refl _) ?_
  show (s.me.doom line).id = s.me.id
  unfold Runner.doom
  split <;> rfl

theorem touch_sameFocus (who : Option RunnerId) (plain write : Bool) (a n : Nat) :
    SameFocus s (touch s who plain write a n) := by
  refine .ite (.foldl (fun s line => ?_) _ s) .rfl
  have hhit := SameFocus.foldl (fun s (r : Runner) => conflictAt_sameFocus s r.id)
    (s.runners.filter fun r => some r.id != who && r.hostConflict line write) s
  exact .ite (hhit.trans (doomLine_sameFocus _ line)) hhit

theorem rekeyLine_sameFocus (key line : Nat) : SameFocus s (rekeyLine s key line) := .ite .rfl .frame

theorem homeWrite_sameFocus (key : Nat) (comp : Bool) (a : Nat) (bs : List Byte) :
    SameFocus s (homeWrite s key comp a bs) :=
  .ite .rfl ((SameFocus.foldl (fun s l => rekeyLine_sameFocus s key l) _ s).trans .frame)

theorem arrive_sameFocus (w : PWrite) : SameFocus s (arrive s w) :=
  (homeWrite_sameFocus s _ _ _ _).trans
    (.trans (.ite (.foldl doomLine_sameFocus _ _) (touch_sameFocus _ _ _ _ _ _)) (countRange_sameFocus _ _ _))

theorem seeAll_sameFocus (p : PWrite → Bool) : SameFocus s (seeAll s p) :=
  .trans .frame (.foldl (fun s _ => touch_sameFocus s _ _ _ _ _) _ _)

theorem arriveAll_sameFocus (p : PWrite → Bool) : SameFocus s (arriveAll s p) :=
  (seeAll_sameFocus s p).trans (.trans .frame (.foldl arrive_sameFocus _ _))

theorem orLeaf_sameFocus (r : Runner) (addr : Nat) (write : Bool) : SameFocus s (orLeaf s r addr write) :=
  .trans ((arriveAll_sameFocus s _).trans (countRange_sameFocus _ _ _))
    (.ite .rfl ((homeWrite_sameFocus _ _ _ _ _).trans (touch_sameFocus _ _ _ _ _ _)))

theorem walkReads_sameFocus (r : Runner) (va : Nat) : SameFocus s (walkReads s r va) := by
  unfold walkReads
  split
  · exact .rfl
  · exact .ite .rfl (.foldl (fun s _ => .ite .frame ((touch_sameFocus s _ _ _ _ _).trans (countRange_sameFocus _ _ _))) _ s)

theorem markAccess_sameFocus (r : Runner) (t : Tr) (write : Bool) : SameFocus s (markAccess s r t write) := by
  unfold markAccess
  refine .ite .rfl ?_
  split
  · exact .rfl
  · exact (walkReads_sameFocus s r _).trans (.trans (.ite .rfl (orLeaf_sameFocus _ _ _ _)) .frame)

/-- The fetch of a word keeps the runner in focus and its issue. -/
theorem fetched_sameFocus (t : Tr) : SameFocus s (fetched t s) :=
  (markAccess_sameFocus s s.me t false).trans
    (.ite .frame ((touch_sameFocus _ _ _ _ _ _).trans (countRange_sameFocus _ _ _)))

theorem outSpend_sameFocus (who : RunnerId) (ask : Asker) : SameFocus s (outSpend who ask s) := .ite .rfl .frame

theorem performTickets_sameFocus (p : Cloak → Bool) : SameFocus s (performTickets p s) := by
  refine .trans .frame (.foldl (fun s e => ?_) _ _)
  refine .trans (.foldl (fun s x => ?_) e.unread s) (.trans (.ite .frame .rfl) (outSpend_sameFocus _ _ _))
  exact (touch_sameFocus s _ _ _ _ _).trans (countRange_sameFocus _ _ _)

/-- What order sc asks of earlier accesses keeps the runner in focus and its issue (R241). -/
theorem scAt_sameFocus (scope order : Nat) : SameFocus s (scAt scope order s) :=
  .ite ((performTickets_sameFocus s _).trans
    (.ite (arriveAll_sameFocus _ _) (.ite (seeAll_sameFocus _ _) .rfl))) .rfl

end Sys2Proof.Machine

/-! # Branches (R96, R97)

O5. Every branch runs one shared operation where its condition holds, so each clause is shown once for all of them. -/

namespace Sys2Proof.Machine

open Sys2Proof Sys2Proof.Claims

/-! ## The shared operation of a taken branch -/

/-- A target that is no multiple of 4. -/
theorem run_branchTo_misaligned {s : State} {a : Word} {link : Option Reg} (ha : a.toNat % 4 ≠ 0) :
    (branchTo a link).run s = .error (.trap 0x24 a) := by
  have h : (a.toNat % 4 == 0) = false := by simpa using ha
  rw [branchTo, h, run_bind, run_need_false]

/-- A target whose translation has a cause. -/
theorem run_branchTo_probe {s : State} {a : Word} {link : Option Reg} {c : Nat} (ha : a.toNat % 4 = 0)
    (hp : probe s s.me a 4 Need.code = .error c) : (branchTo a link).run s = .error (.trap c a) := by
  have hw : (codeWord a).run s = .error (.trapAt c a a) := by
    rw [codeWord, run_bind, run_get]
    dsimp only
    rw [hp]
    rfl
  simp only [branchTo, run_bind, ha, beq_self_eq_true, run_need_true, run_get, hw, run_stopTrap]

/-- A target whose word has no entry mark. -/
theorem run_branchTo_unmarked {s : State} {t : Tr} {a : Word} {link : Option Reg} (ha : a.toNat % 4 = 0) (h : CodeAt s a t)
    (he : (codeWordAt t s).getLsbD 29 = false) : (branchTo a link).run s = .error (.trap 0x04 a) := by
  simp only [branchTo, run_bind, ha, beq_self_eq_true, run_need_true, run_get, Laws.run_codeWord h, run_set, he,
    run_need_false]

/-! ## One form for every branch -/

/-- A branch runs the shared operation with its target and link where its condition holds, and nothing else. -/
def Branching (i : Instr) (link : Option Reg) (target : State → Word) (taken : State → Bool) : Prop :=
  ∀ s : State, exec i s = runLead (if taken s then branchTo (target s) link else pure ()) s

/-- What follows from a property of a branch that all have, all have. -/
theorem everyBranch_mono {P Q : Instr → Option Reg → (State → Word) → (State → Bool) → Prop}
    (h : ∀ i link target taken, P i link target taken → Q i link target taken) (hP : EveryBranch P) : EveryBranch Q := by
  obtain ⟨b, bLong, bl, blLong, br, ret, blr, beq, bne, blt, bge, bltn, bgen, beqL, bneL, bltL, bgeL, bltnL, bgenL, bz, bnz,
    bzL, bnzL⟩ := hP
  exact ⟨fun o => h _ _ _ _ (b o), fun o => h _ _ _ _ (bLong o), fun o => h _ _ _ _ (bl o), fun o => h _ _ _ _ (blLong o),
    fun a => h _ _ _ _ (br a), fun a => h _ _ _ _ (ret a), fun d a => h _ _ _ _ (blr d a),
    fun a c o => h _ _ _ _ (beq a c o), fun a c o => h _ _ _ _ (bne a c o), fun a c o => h _ _ _ _ (blt a c o),
    fun a c o => h _ _ _ _ (bge a c o), fun a c o => h _ _ _ _ (bltn a c o), fun a c o => h _ _ _ _ (bgen a c o),
    fun a c o => h _ _ _ _ (beqL a c o), fun a c o => h _ _ _ _ (bneL a c o), fun a c o => h _ _ _ _ (bltL a c o),
    fun a c o => h _ _ _ _ (bgeL a c o), fun a c o => h _ _ _ _ (bltnL a c o), fun a c o => h _ _ _ _ (bgenL a c o),
    fun a o => h _ _ _ _ (bz a o), fun a o => h _ _ _ _ (bnz a o), fun a o => h _ _ _ _ (bzL a o),
    fun a o => h _ _ _ _ (bnzL a o)⟩

/-- A conditional branch. -/
theorem branching_cond {i : Instr} {a b : Reg} {o : Word} {p q : Word → Word → Bool}
    (hi : ∀ s, exec i s = condBranch a b o p s) (hpq : ∀ x y, p x y = q x y) :
    Branching i none (fun s => s.issue.pc + 4 * o) (fun s => q (s.me.sreg a) (s.me.sreg b)) := by
  intro s
  obtain rfl : p = q := funext fun x => funext (hpq x)
  rw [hi]
  unfold condBranch runLead
  simp only [run_bind, run_reg, run_ite]
  rfl

/-- Every branch is such a form. -/
theorem everyBranch_branching : EveryBranch Branching :=
  ⟨fun _ s => Exec.b s, fun _ s => Exec.bLong s, fun _ s => Exec.bl s, fun _ s => Exec.blLong s, fun _ s => Exec.br s,
    fun _ s => Exec.ret s, fun _ _ s => Exec.blr s,
    fun _ _ _ => branching_cond (fun s => Exec.beq s) fun _ _ => rfl,
    fun _ _ _ => branching_cond (fun s => Exec.bne s) fun _ _ => rfl,
    fun _ _ _ => branching_cond (fun s => Exec.blt s) fun _ _ => rfl,
    fun _ _ _ => branching_cond (q := fun x y => y.sle x) (fun s => Exec.bge s)
      fun _ _ => BitVec.sle_eq_not_slt.symm,
    fun _ _ _ => branching_cond (fun s => Exec.bltn s) fun _ _ => rfl,
    fun _ _ _ => branching_cond (q := fun x y => y.ule x) (fun s => Exec.bgen s)
      fun x y => (BitVec.ule_eq_not_ult y x).symm,
    fun _ _ _ => branching_cond (fun s => Exec.beqLong s) fun _ _ => rfl,
    fun _ _ _ => branching_cond (fun s => Exec.bneLong s) fun _ _ => rfl,
    fun _ _ _ => branching_cond (fun s => Exec.bltLong s) fun _ _ => rfl,
    fun _ _ _ => branching_cond (q := fun x y => y.sle x) (fun s => Exec.bgeLong s)
      fun _ _ => BitVec.sle_eq_not_slt.symm,
    fun _ _ _ => branching_cond (fun s => Exec.bltnLong s) fun _ _ => rfl,
    fun _ _ _ => branching_cond (q := fun x y => y.ule x) (fun s => Exec.bgenLong s)
      fun x y => (BitVec.ule_eq_not_ult y x).symm,
    fun _ _ => branching_cond (q := fun x _ => x == 0) (fun s => Exec.bz s) fun _ _ => rfl,
    fun _ _ => branching_cond (q := fun x _ => x != 0) (fun s => Exec.bnz s) fun _ _ => rfl,
    fun _ _ => branching_cond (q := fun x _ => x == 0) (fun s => Exec.bzLong s) fun _ _ => rfl,
    fun _ _ => branching_cond (q := fun x _ => x != 0) (fun s => Exec.bnzLong s) fun _ _ => rfl⟩

section
variable {i : Instr} {link : Option Reg} {target : State → Word} {taken : State → Bool} {s : State}

/-- A taken branch to a word with its entry mark. -/
theorem Branching.goes {t : Tr} (hi : Branching i link target taken) (hk : taken s = true) (ha : (target s).toNat % 4 = 0)
    (hc : CodeAt (onward s) (target s) t) (he : (codeWordAt t (onward s)).getLsbD 29 = true) :
    exec i s = .next (branched link (target s) t s) := by
  rw [hi s, if_pos hk, runLead_ok (Laws.run_branchTo hc ha he), (fetched_sameFocus (onward s) t).issue]
  rfl

/-- A branch that is not taken. -/
theorem Branching.notTaken (hi : Branching i link target taken) (hk : taken s = false) : exec i s = .next (onward s) := by
  rw [hi s, hk]
  rfl

/-- A taken branch that stops. -/
theorem Branching.traps {c : Nat} (hi : Branching i link target taken) (hk : taken s = true)
    (hr : (branchTo (target s) link).run (onward s) = .error (.trap c (target s))) :
    exec i s = .next (leadTrap c (target s) s.issue.pc s) := by
  rw [hi s, if_pos hk, runLead_error hr]
  rfl

end

end Sys2Proof.Machine

namespace Sys2Proof

open Sys2Proof.Machine Sys2Proof.Claims

/-- Settles O5: every branch runs the shared operation where its condition holds, which goes to the target or stops. -/
theorem branches : Obligations.Branches := by
  unfold Obligations.Branches
  refine ⟨?taken, ?notTaken, ?traps⟩
  case taken =>
    exact everyBranch_mono (fun _ _ _ _ hi _ _ hk ha hc he => hi.goes hk ha hc he) everyBranch_branching
  case notTaken => exact everyBranch_mono (fun _ _ _ _ hi _ hk => hi.notTaken hk) everyBranch_branching
  case traps =>
    refine everyBranch_mono (fun _ _ _ _ hi s hk => ⟨fun ha => ?_, fun ha => ⟨fun c hp => ?_, fun t hc he => ?_⟩⟩)
      everyBranch_branching
    · exact hi.traps hk (run_branchTo_misaligned ha)
    · exact hi.traps hk (run_branchTo_probe ha hp)
    · exact hi.traps hk (run_branchTo_unmarked ha hc he)

end Sys2Proof

/-! # Scalar floating point and FCVT (R99 to R103)

O7. A shared form is one equation on the values of its sources; FCVT is one on the pattern that its table gives. -/

namespace Sys2Proof.Machine

open Sys2Proof Sys2Proof.Claims

/-! ## Scalar forms -/

/-- The layouts by TYPE code (R101). -/
theorem fpFmt_eq (t : BitVec 2) : fpFmt t = [Fmt.f64, Fmt.f32, Fmt.f16, Fmt.bf16].getD t.toNat Fmt.f64 := by
  revert t
  decide

/-- The rounding mode in force: that of RND, rne without one (R59). -/
def rndOf (s : State) : Nat := (s.issue.rnd.map BitVec.toNat).getD 0

/-- The pattern that a form reads of a source in its format (R99). -/
def fpBits (s : State) (t : BitVec 2) (a : Reg) : Nat := (s.me.sreg a).toNat % 2 ^ (fpFmt t).width

@[simp] theorem run_rndMode (s : State) : rndMode.run (onward s) = .ok (rndOf s, onward s) := rfl

@[simp] theorem run_fpSrc (s : State) (t : BitVec 2) (a : Reg) :
    (fpSrc (fpFmt t) a).run (onward s) = .ok (fpBits s t a, onward s) := rfl

section
variable (s : State) (t : BitVec 2) (d a b : Reg)

/-- A form that rounds writes its pattern. -/
theorem fpBin_next (g : Fmt → Nat → FVal → FVal → Nat) : fpBin t d a b g s = .next (writes d (BitVec.ofNat 64
    (g (fpFmt t) (rndOf s) ((fpFmt t).decode (fpBits s t a)) ((fpFmt t).decode (fpBits s t b)))) s) :=
  runLead_ok (u := ()) (by simp only [run_bind, run_rndMode, run_fpSrc, run_setReg]; rfl)

/-- A comparison writes 1 or 0. -/
theorem fpCmp_next (p : FVal → FVal → Bool) : fpCmp t d a b p s = .next (writes d (BitVec.ofNat 64
    (if p ((fpFmt t).decode (fpBits s t a)) ((fpFmt t).decode (fpBits s t b)) then 1 else 0)) s) := by
  have h (c : Bool) : (if c then 1 else 0 : Word) = BitVec.ofNat 64 (if c then 1 else 0) := by cases c <;> rfl
  refine runLead_ok (u := ()) ?_
  simp only [run_bind, run_fpSrc, run_setReg, h]
  rfl

/-- FMIN and FMAX write one of the patterns. -/
theorem fpMinMax_next (m : Bool) : fpMinMax m t d a b s =
    .next (writes d (BitVec.ofNat 64 ((fpFmt t).minmax m (fpBits s t a) (fpBits s t b))) s) :=
  runLead_ok (u := ()) (by simp only [run_bind, run_fpSrc, run_setReg]; rfl)

/-- FMA rounds once. -/
theorem execFma_next : execFma t d a b s = .next (writes d (BitVec.ofNat 64 ((fpFmt t).fma (rndOf s)
    ((fpFmt t).decode (fpBits s t a)) ((fpFmt t).decode (fpBits s t b)) ((fpFmt t).decode (fpBits s t d)))) s) :=
  runLead_ok (u := ()) (by simp only [run_bind, run_rndMode, run_fpSrc, run_setReg]; rfl)

/-- FMOV writes the pattern. -/
theorem execFmov_next : execFmov t d a s = .next (writes d (BitVec.ofNat 64 (fpBits s t a)) s) :=
  runLead_ok (u := ()) (by simp only [run_bind, run_fpSrc, run_setReg]; rfl)

/-- FCVT writes the pattern of its destination type, an integer one extended to the register. -/
theorem execFcvt_next (dt st : BitVec 4) : execFcvt d a dt st s =
    let p := cvtBits (rndOf s) s.issue.sat.isSome dt.toNat st.toNat (s.me.sreg a).toNat
    .next (writes d (if tyFloat dt.toNat then BitVec.ofNat 64 p else BitVec.ofInt 64 (intRead dt.toNat p)) s) :=
  runLead_ok (u := ()) (by simp only [run_bind, run_rndMode, run_get, run_reg, run_setReg]; rfl)

end

/-! ## Conversions -/

/-- Every type of R103 has at most 64 bits, and some. -/
theorem tyBits_bounds (t : Nat) : 0 < tyBits t ∧ tyBits t ≤ 64 := by
  unfold tyBits
  split <;> omega

/-- A pattern of an integer type, extended to the register by the type's sign. -/
theorem ofInt_intRead (t p : Nat) : BitVec.ofInt 64 (intRead t p) =
    if tySigned t then (BitVec.ofNat (tyBits t) p).signExtend 64 else (BitVec.ofNat (tyBits t) p).setWidth 64 := by
  unfold intRead
  split
  · exact ofInt_sextN (tyBits_bounds t).1 p
  · rw [BitVec.ofInt_natCast, ← BitVec.toNat_ofNat, BitVec.ofNat_toNat]

section
variable {mode dt st raw : Nat} {sat : Bool}

/-- To a floating-point type: one rounding of the value, of a floating-point or an integer source (R103). -/
theorem cvtBits_float (h : tyFloat dt = true) : cvtBits mode sat dt st raw = (tyFmt dt).encode mode
    (if tyFloat st then (tyFmt st).decode (raw % 2 ^ tyBits st) else FVal.ofInt (intRead st raw) 0 false) := by
  unfold cvtBits
  rw [h]
  cases tyFloat st <;> rfl

/-- To an integer type: a floating-point source rounded to an integer, an integer one clamped where SAT stands (R103). -/
theorem cvtBits_int (h : tyFloat dt = false) : cvtBits mode sat dt st raw =
    if tyFloat st then toIntType mode sat (tySigned dt) (tyBits dt) ((tyFmt st).decode (raw % 2 ^ tyBits st))
    else (BitVec.ofInt (tyBits dt) (if sat then clampI (rangeOf (tySigned dt) (tyBits dt)).1
      (rangeOf (tySigned dt) (tyBits dt)).2 (intRead st raw) else intRead st raw)).toNat := by
  unfold cvtBits
  rw [h, ← wrapN_eq]
  rfl

end

end Sys2Proof.Machine

namespace Sys2Proof

open Sys2Proof.Machine Sys2Proof.Claims

/-- R99 to R102, form by form: each is its shared form. -/
theorem leadFloat : LeadFloat := by
  intro s t d a b
  rw [← fpFmt_eq t]
  exact ⟨(Exec.fadd s).trans (fpBin_next s t d a b _), (Exec.fsub s).trans (fpBin_next s t d a b _),
    (Exec.fmul s).trans (fpBin_next s t d a b _), (Exec.fdiv s).trans (fpBin_next s t d a b _),
    (Exec.fsqrt s).trans (fpBin_next s t d a a _), (Exec.fma s).trans (execFma_next s t d a b),
    (Exec.fmin s).trans (fpMinMax_next s t d a b false), (Exec.fmax s).trans (fpMinMax_next s t d a b true),
    (Exec.fmov s).trans (execFmov_next s t d a), (Exec.fcmpEq s).trans (fpCmp_next s t d a b _),
    (Exec.fcmpLt s).trans (fpCmp_next s t d a b _), (Exec.fcmpLe s).trans (fpCmp_next s t d a b _),
    (Exec.fcmpUn s).trans (fpCmp_next s t d a b _)⟩

/-- R103: the four cases of the table are those of the pattern that FCVT computes. -/
theorem leadConversion : LeadConversion := by
  intro s d a dt st _ _ m sat n signed raw val int
  rw [Exec.fcvt, execFcvt_next]
  refine congrArg (fun x => Host.Outcome.next (writes d x s)) ?_
  cases hd : tyFloat dt.toNat
  · rw [if_neg Bool.false_ne_true, if_neg Bool.false_ne_true, ofInt_intRead, cvtBits_int hd]
    rfl
  · rw [if_pos rfl, if_pos rfl, cvtBits_float hd]
    rfl

/-- Settles O7: the scalar forms and the conversion, each from its shared form. -/
theorem leadFloatForms : Obligations.LeadFloatForms := ⟨leadFloat, leadConversion⟩

end Sys2Proof

/-! # Loads and stores of the lead stream (R104, R107, R241, R248, R482)

O8, O9, O11. What a load or a store answers follows from its access alone, whether memory or a device register is behind it;
the accesses are those of the shared laws. -/

namespace Sys2Proof.Machine

open Sys2Proof Sys2Proof.Claims

/-! ## Numbers in bytes (R3) -/

/-- The low bytes of a number, read back. -/
theorem leNat_leBytes : ∀ n v : Nat, leNat (leBytes n v) = v % 2 ^ (8 * n)
  | 0, v => by rw [leBytes, leNat, Nat.mul_zero, Nat.pow_zero, Nat.mod_one]
  | n + 1, v => by
    rw [leBytes, leNat, leNat_leBytes n (v / 256), BitVec.toNat_ofNat, show 8 * (n + 1) = 8 + 8 * n by omega, Nat.pow_add,
      Nat.mod_mul]

/-- Bytes of 0 read 0. -/
theorem leNat_replicate_zero : ∀ n : Nat, leNat (List.replicate n 0) = 0
  | 0 => rfl
  | n + 1 => by
    rw [List.replicate_succ, leNat, leNat_replicate_zero n]
    rfl

/-- What a load writes of the number in n bits that it read (R104). -/
def extendTo64 (signed : Bool) (n x : Nat) : Word := if signed then (BitVec.ofNat n x).signExtend 64 else BitVec.ofNat 64 x

/-! ## The forms in terms of their accesses -/

section
variable {s : State} {z : BitVec 2} {d a : Reg} {off : Word}

/-- The effective address of a lead access (R104). -/
def leadEa (s : State) (z : BitVec 2) (a : Reg) (off : Word) : Word := s.me.sreg a + BitVec.ofNat 64 (2 ^ z.toNat) * off

/-- It is what the form computes. -/
theorem run_leadAddr : (leadAddr z a off).run (onward s) = .ok (leadEa s z a off, onward s) := rfl

/-- A load whose check and read succeed writes what it read, extended as its form says. -/
theorem leadLoad_next {t : Tr} {signed : Bool} {x : Nat} {r : State}
    (hcheck : (leadCheck (leadEa s z a off) (2 ^ z.toNat) Need.read).run (onward s) = .ok (t, onward s))
    (htx : s.me.tx.active = false) (hsc : CanSc (onward s))
    (hread : (leadRead (leadEa s z a off) t (2 ^ z.toNat)).run (scNow (onward s)) = .ok (x, r)) :
    leadLoad z signed d a off s = .next { r with me := { r.me with
      s := sregSet r.me.s d (extendTo64 signed (8 * 2 ^ z.toNat) x) } } := by
  have hpos : 0 < 8 * 2 ^ z.toNat := Nat.mul_pos (by omega) (Nat.two_pow_pos _)
  have hsc' : (leadSc (orderOf (onward s))).run (onward s) = .ok ((), scNow (onward s)) := Laws.run_leadSc htx hsc
  unfold leadLoad
  refine runLead_ok (u := ()) ?_
  simp only [run_bind, run_leadAddr, Laws.run_orderOf, hcheck, hsc', hread, run_setReg, ofInt_sextN hpos, extendTo64]

/-- A load whose check stops. -/
theorem leadLoad_stops {signed : Bool} {c : Nat}
    (hcheck : (leadCheck (leadEa s z a off) (2 ^ z.toNat) Need.read).run (onward s) = .error (.trap c (leadEa s z a off))) :
    leadLoad z signed d a off s = .next (leadTrap c (leadEa s z a off) s.issue.pc s) := by
  unfold leadLoad
  refine runLead_error (e := .trap c (leadEa s z a off)) ?_
  simp only [run_bind, run_leadAddr, Laws.run_orderOf, hcheck]

/-- A store whose check and write succeed, its release part before and what order sc asks after. -/
theorem leadStore_next {t : Tr} {u : State}
    (hcheck : (leadCheck (leadEa s z a off) (2 ^ z.toNat) Need.write).run (onward s) = .ok (t, onward s))
    (htx : s.me.tx.active = false) (hrel : CanRelease (onward s))
    (hwrite : (leadWrite (leadEa s z a off) t (leBytes (2 ^ z.toNat) (s.me.sreg d).toNat)).run (released (onward s)) =
      .ok ((), u)) (hutx : u.me.tx.active = false) (hsc : CanScAt (orderOf s).1 (orderOf s).2 u) :
    leadStore z d a off s = .next (scAt (orderOf s).1 (orderOf s).2 u) := by
  have hbefore : (leadBefore (orderOf (onward s))).run (onward s) = .ok ((), released (onward s)) :=
    Laws.run_leadBefore htx hrel
  have hsc' : (leadSc (orderOf (onward s))).run u = .ok ((), scAt (orderOf s).1 (orderOf s).2 u) := Laws.run_leadSc hutx hsc
  unfold leadStore
  refine runLead_ok (u := ()) ?_
  simp only [run_bind, run_leadAddr, Laws.run_orderOf, run_reg, onward_sreg, hcheck, hbefore, hwrite, hsc']

/-- A store whose check stops. -/
theorem leadStore_stops {c : Nat}
    (hcheck : (leadCheck (leadEa s z a off) (2 ^ z.toNat) Need.write).run (onward s) = .error (.trap c (leadEa s z a off))) :
    leadStore z d a off s = .next (leadTrap c (leadEa s z a off) s.issue.pc s) := by
  unfold leadStore
  refine runLead_error (e := .trap c (leadEa s z a off)) ?_
  simp only [run_bind, run_leadAddr, Laws.run_orderOf, run_reg, hcheck]

end

/-- An atomic whose check stops. -/
theorem leadAtomicForm_stops {s : State} {w4 : Bool} {d a b : Reg} {f : Nat → Nat → Nat → Nat → Nat} {ext : Nat → Int}
    {c : Nat} (hcheck : (leadCheck (s.me.sreg a) (if w4 then 4 else 8) Need.both).run (onward s) =
      .error (.trap c (s.me.sreg a))) :
    leadAtomicForm w4 d a b f ext s = .next (leadTrap c (s.me.sreg a) s.issue.pc s) := by
  unfold leadAtomicForm
  refine runLead_error (e := .trap c (s.me.sreg a)) ?_
  simp only [run_bind, run_reg, onward_sreg, Laws.run_orderOf, hcheck]

/-! ## Checks (R107) -/

section
variable {s : State} {a : Word} {n : Nat} {need : Need} {t : Tr}

/-- An access of memory reaches memory. -/
theorem leadAccess_isMemory (h : LeadAccess s a n need t) : (poolOf t.pa).isMemory = true := by
  obtain ⟨-, -, hmem, -⟩ := h
  exact hmem

/-- It is answered in the package. -/
theorem leadAccess_answered (h : LeadAccess s a n need t) : answeredOutside s t.pa = false := by
  obtain ⟨-, -, -, ho⟩ := h
  exact ho

/-- An access of a device register reaches one. -/
theorem deviceAccess_device (h : DeviceAccess s a n need t) : poolOf t.pa = .device := by
  obtain ⟨-, -, hd, -⟩ := h
  exact hd

/-- An access of memory passes its check. -/
theorem run_leadCheck_memory (h : LeadAccess s a n need t) (htx : s.me.tx.active = false) :
    (leadCheck a n need).run s = .ok (t, s) := by
  obtain ⟨hreach, hp, -, ho⟩ := h
  exact Laws.run_leadCheck hreach hp ho htx

/-- A register block of the package is not answered from outside. -/
theorem answeredOutside_own_device {pa : Nat} (hd : poolOf pa = .device) (hp : packageOf pa = s.pkg.toNat) :
    answeredOutside s pa = false := by
  simp [answeredOutside, hd, hp]

/-- An access of a device register passes its check. -/
theorem run_leadCheck_device (h : DeviceAccess s a n need t) (htx : s.me.tx.active = false) :
    (leadCheck a n need).run s = .ok (t, s) := by
  obtain ⟨hreach, hp, hd, hpkg⟩ := h
  exact Laws.run_leadCheck hreach hp (answeredOutside_own_device hd hpkg) htx

/-- A misaligned access stops, its page mapped and permitted and no registered range in the way (R107, R188). -/
theorem run_leadCheck_misaligned (hprobe : probe s s.me a n need = .ok t) (hspan : spanHit s s.me a t n need.wr = false)
    (ha : a.toNat % n ≠ 0) : (leadCheck a n need).run s = .error (.trap 0x24 a) := by
  have h : (a.toNat % n == 0) = false := by simpa using ha
  simp only [leadCheck, run_bind, run_get, hprobe, hspan, Bool.not_false, run_need_true, h, run_need_false]

end

/-! ## Device registers (R482) -/

section
variable {s : State} {a : Word} {t : Tr}

/-- A lead read of a device register of the package. -/
theorem run_leadRead_device {n : Nat} (hd : poolOf t.pa = .device) (hpkg : packageOf t.pa = s.pkg.toNat)
    (hready : deviceReady s s.me.id t.pa = true) (hmark : markReady s s.me t false = true) (htx : s.me.tx.active = false) :
    (leadRead a t n).run s = .ok (leNat (devBytes s t.pa n), spent s.me.id false (markAccess s s.me t false)) := by
  have hrunner : (leadAgent s).runner s = s.me := by simp [leadAgent, Agent.runner]
  have hready' : deviceReady s (leadAgent s).who t.pa = true := hready
  have hread : (readAt (leadAgent s) t n).run s = .ok (devBytes s t.pa n, markAccess s s.me t false) := by
    simp only [readAt, run_bind, run_get, answeredOutside_own_device hd hpkg, Bool.false_eq_true, if_false, hready',
      run_readyIf_true, hrunner, Laws.run_markPageOf hmark, hd, run_pure]
  simp only [leadRead, run_bind, run_get, htx, Bool.false_eq_true, if_false, hread, Laws.run_spendAnswers, run_pure]
  rfl

/-- The bytes of a device register: the register whole as one aligned access of 8 bytes, 0 as any other. -/
theorem leNat_devBytes (s : State) (pa n : Nat) :
    leNat (devBytes s pa n) = if n = 8 ∧ pa % 8 = 0 then (devRead s (pa % 65536)).toNat else 0 := by
  unfold devBytes
  split
  · rw [leNat_leBytes, Nat.mod_eq_of_lt (devRead s (pa % 65536)).isLt]
  · exact leNat_replicate_zero n

/-- Extended to a register, either way. -/
theorem extendTo64_devBytes (s : State) (pa n : Nat) (signed : Bool) : extendTo64 signed (8 * n) (leNat (devBytes s pa n)) =
    if n = 8 ∧ pa % 8 = 0 then devRead s (pa % 65536) else 0 := by
  rw [leNat_devBytes, extendTo64]
  by_cases h : n = 8 ∧ pa % 8 = 0
  · obtain ⟨rfl, hpa⟩ := h
    simp [hpa]
  · have hzero : (0#(8 * n)).signExtend 64 = 0 := by
      rw [BitVec.signExtend, BitVec.toInt_zero]
      rfl
    rw [if_neg h, if_neg h, hzero]
    exact ite_self _

/-- A store accepted by a device register of the package writes it as one aligned access of 8 bytes. -/
theorem storeDone_device {bs : List Byte} (hd : poolOf t.pa = .device) :
    let m := performTickets (fun e => e.who == s.me.id && meets e.src e.len t.pa bs.length)
      (markAccess s ((leadAgent s).runner s) t true)
    packageOf t.pa = m.pkg.toNat → storeDone t bs s =
      if bs.length = 8 ∧ t.pa % 8 = 0 then { m with dev := devWrite (t.pa % 65536) (BitVec.ofNat 64 (leNat bs)) m.dev }
      else m := by
  intro m hpkg
  have ho : answeredOutside m t.pa = false := answeredOutside_own_device hd hpkg
  unfold storeDone acceptBytes
  dsimp only
  rw [if_neg (by exact fun h => Bool.false_ne_true (ho.symm.trans h)), hd]
  rfl

end

end Sys2Proof.Machine

namespace Sys2Proof

open Sys2Proof.Machine Sys2Proof.Claims

/-- Settles O8: the check passes, what order sc asks happens, and the read is that of memory or of the register. -/
theorem leadLoads : Obligations.LeadLoads := by
  unfold Obligations.LeadLoads
  constructor
  · intro s z d a t htx hsc n ea q r loads signed zero hqtx ho hmark
    have hload (sg : Bool) (off : Word) (h : LeadAccess (onward s) (leadEa s z a off) n Need.read t) :
        leadLoad z sg d a off s = loads (if sg then signed else zero) :=
      leadLoad_next (run_leadCheck_memory h htx) htx hsc (Laws.run_leadRead (leadAccess_isMemory h) ho hmark hqtx)
    exact ⟨fun o h => ⟨(Exec.ld s).trans (hload true _ h), (Exec.ldN s).trans (hload false _ h)⟩,
      fun o h => ⟨(Exec.ldLong s).trans (hload true _ h), (Exec.ldNLong s).trans (hload false _ h)⟩⟩
  · intro s z d a t htx hsc n ea q r v done hqtx hpkg hready hmark
    have hload (sg : Bool) (off : Word) (h : DeviceAccess (onward s) (leadEa s z a off) n Need.read t) :
        leadLoad z sg d a off s = done := by
      have hid : q.me.id = s.me.id := (scAt_sameFocus (onward s) _ _).id
      have hread := run_leadRead_device (a := leadEa s z a off) (n := n) (deviceAccess_device h) hpkg
        (hid ▸ hready) hmark hqtx
      rw [leadLoad_next (run_leadCheck_device h htx) htx hsc hread, extendTo64_devBytes]
    exact ⟨fun o h => ⟨(Exec.ld s).trans (hload true _ h), (Exec.ldN s).trans (hload false _ h)⟩,
      fun o h => ⟨(Exec.ldLong s).trans (hload true _ h), (Exec.ldNLong s).trans (hload false _ h)⟩⟩

/-- Settles O9: the check passes, the release part happens, the bytes are accepted, then what order sc asks happens. -/
theorem leadStores : Obligations.LeadStores := by
  unfold Obligations.LeadStores
  constructor
  · intro s z d a t htx hrel n ea q u hqtx hutx hready hmark hsc done
    have hstore (off : Word) (h : LeadAccess (onward s) (leadEa s z a off) n Need.write t) :
        leadStore z d a off s = .next done :=
      leadStore_next (run_leadCheck_memory h htx) htx hrel
        (Laws.run_leadWrite hqtx (by rwa [leBytes_length]) hmark) hutx hsc
    exact ⟨fun o h => (Exec.st s).trans (hstore _ h), fun o h => (Exec.stLong s).trans (hstore _ h)⟩
  · intro s z d a t htx hrel n ea q m u hqtx hutx _ hpkg hready hmark hsc done
    have hstore (off : Word) (h : DeviceAccess (onward s) (leadEa s z a off) n Need.write t) :
        leadStore z d a off s = .next done := by
      have hlen : (leBytes n (s.me.sreg d).toNat).length = n := leBytes_length n _
      have hu : storeDone t (leBytes n (s.me.sreg d).toNat) q = u := by
        rw [storeDone_device (deviceAccess_device h) (by rwa [hlen]), hlen]
        by_cases h8 : n = 8 ∧ t.pa % 8 = 0
        · have hv : BitVec.ofNat 64 (leNat (leBytes n (s.me.sreg d).toNat)) = s.me.sreg d := by
            rw [leNat_leBytes, h8.1, Nat.mod_eq_of_lt (s.me.sreg d).isLt, BitVec.ofNat_toNat, BitVec.setWidth_eq]
          rw [if_pos h8, hv]
          exact (if_pos h8).symm
        · rw [if_neg h8]
          exact (if_neg h8).symm
      have hwrite := Laws.run_leadWrite (a := leadEa s z a off) (bs := leBytes n (s.me.sreg d).toNat) hqtx
        (by rwa [hlen]) hmark
      exact leadStore_next (run_leadCheck_device h htx) htx hrel (hu ▸ hwrite) hutx hsc
    exact ⟨fun o h => (Exec.st s).trans (hstore _ h), fun o h => (Exec.stLong s).trans (hstore _ h)⟩

/-- Settles O11: every form's check stops with MISALIGNED before anything else of it happens. -/
theorem misalignedTraps : Obligations.MisalignedTraps := by
  unfold Obligations.MisalignedTraps
  intro s z d a b t traps misses n ea
  dsimp only
  have hcheck {e : Word} {k : Nat} {need : Need} (h : misses e k need) :
      (leadCheck e k need).run (onward s) = .error (.trap 0x24 e) := by
    obtain ⟨hprobe, hspan, ha⟩ := h
    exact run_leadCheck_misaligned hprobe hspan ha
  refine ⟨fun o => ⟨fun h => ⟨?_, ?_⟩, fun h => ?_⟩, fun o => ⟨fun h => ⟨?_, ?_⟩, fun h => ?_⟩, ?_⟩
  · exact (Exec.ld s).trans (leadLoad_stops (hcheck h))
  · exact (Exec.ldN s).trans (leadLoad_stops (hcheck h))
  · exact (Exec.st s).trans (leadStore_stops (hcheck h))
  · exact (Exec.ldLong s).trans (leadLoad_stops (hcheck h))
  · exact (Exec.ldNLong s).trans (leadLoad_stops (hcheck h))
  · exact (Exec.stLong s).trans (leadStore_stops (hcheck h))
  · exact ⟨fun _ h => (Exec.aadd s).trans (leadAtomicForm_stops (hcheck h)),
      fun _ h => (Exec.asub s).trans (leadAtomicForm_stops (hcheck h)),
      fun _ h => (Exec.amin s).trans (leadAtomicForm_stops (hcheck h)),
      fun _ h => (Exec.amax s).trans (leadAtomicForm_stops (hcheck h)),
      fun _ h => (Exec.aminn s).trans (leadAtomicForm_stops (hcheck h)),
      fun _ h => (Exec.amaxn s).trans (leadAtomicForm_stops (hcheck h)),
      fun _ h => (Exec.aand s).trans (leadAtomicForm_stops (hcheck h)),
      fun _ h => (Exec.aor s).trans (leadAtomicForm_stops (hcheck h)),
      fun _ h => (Exec.axor s).trans (leadAtomicForm_stops (hcheck h)),
      fun _ h => (Exec.axchg s).trans (leadAtomicForm_stops (hcheck h)),
      fun _ h => (Exec.acas s).trans (leadAtomicForm_stops (hcheck h)),
      fun _ h => (Exec.afadd s).trans (leadAtomicForm_stops (hcheck h))⟩

end Sys2Proof

/-! # Runs, translation registers and operand streams (R108 to R119)

O14, O15. Each form of these is a chain of checks and an effect: what a check that passes or fails does to the rest is said
once, and each form is brought to what its checks leave. -/

namespace Sys2Proof.Machine

open Sys2Proof Sys2Proof.Claims

/-! ## Forms of groups that stand outside transactions -/

section
variable {s : State} {f : Unit → Op Unit}

/-- What is left of such a form once its checks have passed. -/
theorem runLead_groupForm (hg : s.me.isHost = false) (htx : s.me.tx.active = false) :
    runLead (needGroup >>= fun _ => notInTx >>= f) s = runLead (f ()) s :=
  (runLead_needGroup_group hg).trans (runLead_bind_ok (by rw [run_notInTx, Laws.onward_tx, htx]; rfl))

/-- A form that is ready goes on. -/
theorem runLead_readyIf_true {c : Bool} (h : c = true) : runLead (readyIf c >>= f) s = runLead (f ()) s :=
  runLead_bind_ok (by rw [h, run_readyIf_true])

/-- A form that is not ready leaves the state as it was. -/
theorem runLead_readyIf_false {c : Bool} (h : c = false) : runLead (readyIf c >>= f) s = .next s :=
  runLead_bind_error (e := .wait) (by rw [h, run_readyIf_false])

/-- A condition that holds lets a form go on. -/
theorem runLead_need_true {c : Bool} {cause : Nat} {a : Word} (h : c = true) :
    runLead (need c cause a >>= f) s = runLead (f ()) s :=
  runLead_bind_ok (by rw [h, run_need_true])

/-- A condition that fails traps. -/
theorem runLead_need_false {c : Bool} {cause : Nat} {a : Word} (h : c = false) :
    runLead (need c cause a >>= f) s = .next (leadTrap cause a s.issue.pc s) :=
  runLead_bind_error (e := .trap cause a) (by rw [h, run_need_false])

/-- A form that reads the state first. -/
theorem runLead_get {k : State → Op Unit} : runLead (get >>= k) s = runLead (k (onward s)) s :=
  runLead_bind_ok rfl

/-- A form that reads a register first. -/
theorem runLead_reg {a : Reg} {k : Word → Op Unit} : runLead (reg a >>= k) s = runLead (k (s.me.sreg a)) s :=
  runLead_bind_ok rfl

end

/-! ## LRUN and LWAIT (R108 to R111) -/

section
variable {s : State}

/-- LRUN on a group, outside a transaction, is ready while its queue has room (R108, R434). -/
theorem execLrun_group (hg : s.me.isHost = false) (htx : s.me.tx.active = false) (t : BitVec 22) : execLrun t s =
    runLead (readyIf (decide (s.me.l.run.runs.length < if s.me.inTrap then 4 else 16)) >>= fun _ => onMe fun r =>
      { r with l := { r.l with run := { r.l.run with runs := r.l.run.runs ++ [⟨t.toNat, r.xb, r.l.mfb⟩] } } }) s :=
  (runLead_groupForm hg htx).trans (runLead_bind_ok (x := (onward s).me) rfl)

/-- LWAIT on a group, outside a transaction, is ready once its runs, its flags and, with D = 1, the lanes' operations and
stores are done (R111). -/
theorem execLwait_group (hg : s.me.isHost = false) (htx : s.me.tx.active = false) (g : Bool) (m : BitVec 12) : execLwait g m s =
    runLead (readyIf (waitOver g m (onward s) && (!g || lanesIdle (onward s))) >>= fun _ =>
      if g then modify drainLanes else pure ()) s :=
  (runLead_groupForm hg htx).trans (runLead_get.trans runLead_get)

end

/-! ## XBSET (R112) -/

section
variable {s : State} {n : BitVec 3} {a b : Reg}

/-- A range that ends beyond the address space. -/
theorem execXbset_beyond (h : 2 ^ 64 < (s.me.sreg a).toNat + (s.me.sreg b).toNat) :
    execXbset n a b s = .next (leadTrap 0x26 (s.me.sreg a) s.issue.pc s) :=
  runLead_reg.trans (runLead_reg.trans (runLead_need_false (decide_eq_false (by omega))))

/-- A limit of 0 walks nothing (log entry 94). -/
theorem execXbset_zero (h : s.me.sreg b = 0) : execXbset n a b s = .next (ends
    (fun r => { r with xb := vset r.xb n.toNat { Xb.zero with base := s.me.sreg a, v := true, ctx := s.me.ctx } }) s) := by
  have hfits : (s.me.sreg a).toNat + (s.me.sreg b).toNat ≤ 2 ^ 64 := by
    rw [h]
    exact Nat.le_of_lt (s.me.sreg a).isLt
  refine runLead_reg.trans (runLead_reg.trans ((runLead_need_true (decide_eq_true hfits)).trans ?_))
  rw [if_pos h]
  exact runLead_ok (u := ()) rfl

/-- A base that translates. -/
theorem execXbset_walked {t : Tr} (h0 : s.me.sreg b ≠ 0) (hfits : (s.me.sreg a).toNat + (s.me.sreg b).toNat ≤ 2 ^ 64)
    (ht : translate (onward s) (onward s).me (s.me.sreg a) = .ok t) (hk : keyFault (onward s) t = false) :
    let w := if s.me.ctx = 0 then onward s else walkReads (onward s) (onward s).me t.va
    execXbset n a b s = .next { w with me := { w.me with
      xb := vset w.me.xb n.toNat (Xb.ofTr s.me.ctx (s.me.sreg a) (s.me.sreg b) t) } } := by
  refine runLead_reg.trans (runLead_reg.trans ((runLead_need_true (decide_eq_true hfits)).trans ?_))
  rw [if_neg h0]
  refine runLead_get.trans ?_
  rw [ht]
  exact (runLead_need_true (by rw [hk]; rfl)).trans (runLead_ok (u := ()) rfl)

/-- A base whose translation has a cause. -/
theorem execXbset_cause {c : Nat} (h0 : s.me.sreg b ≠ 0) (hfits : (s.me.sreg a).toNat + (s.me.sreg b).toNat ≤ 2 ^ 64)
    (ht : translate (onward s) (onward s).me (s.me.sreg a) = .error c) :
    execXbset n a b s = .next (leadTrap c (s.me.sreg a) s.issue.pc s) := by
  refine runLead_reg.trans (runLead_reg.trans ((runLead_need_true (decide_eq_true hfits)).trans ?_))
  rw [if_neg h0]
  refine runLead_get.trans ?_
  rw [ht]
  exact runLead_error (run_stopTrap c _ _)

end

/-! ## Descriptors (R117) -/

/-- The first bytes of a number. -/
theorem take_leBytes : ∀ k n v : Nat, k ≤ n → (leBytes n v).take k = leBytes k v
  | 0, _, _, _ => rfl
  | k + 1, n + 1, v, h => by rw [leBytes, List.take_succ_cons, take_leBytes k n _ (by omega), leBytes]

/-- The bytes past the first. -/
theorem drop_leBytes : ∀ k n v : Nat, (leBytes (k + n) v).drop k = leBytes n (v / 2 ^ (8 * k))
  | 0, n, v => by rw [Nat.zero_add, List.drop_zero, Nat.mul_zero, Nat.pow_zero, Nat.div_one]
  | k + 1, n, v => by
    rw [show k + 1 + n = (k + n) + 1 by omega, leBytes, List.drop_succ_cons, drop_leBytes k n, Nat.div_div_eq_div_mul,
      show 8 * (k + 1) = 8 + 8 * k by omega, Nat.pow_add]

/-- The dword k of a number's 64 bytes. -/
theorem dword_leBytes (v : Nat) {k : Nat} (hk : k < 8) :
    BitVec.ofNat 64 (leNat (((leBytes 64 v).drop (8 * k)).take 8)) = BitVec.ofNat 64 (v / 2 ^ (64 * k)) := by
  have hdrop : (leBytes 64 v).drop (8 * k) = leBytes (64 - 8 * k) (v / 2 ^ (64 * k)) := by
    have h := drop_leBytes (8 * k) (64 - 8 * k) v
    rwa [show 8 * k + (64 - 8 * k) = 64 by omega, show 8 * (8 * k) = 64 * k by omega] at h
  rw [hdrop, take_leBytes 8 _ _ (by omega), leNat_leBytes]
  exact BitVec.eq_of_toNat_eq (by rw [BitVec.toNat_ofNat, BitVec.toNat_ofNat, Nat.mod_mod])

/-! ## OSDEF and OSEND (R116 to R118) -/

/-- The descriptor that 64 bytes hold, read as one number. -/
def descOf (v : Nat) : Vector Word 8 := Vector.ofFn fun k : Fin 8 => BitVec.ofNat 64 (v / 2 ^ (64 * k.val))

/-- The stream that a descriptor defines for the group in focus (R116). -/
def definedStream (s : State) (n : Nat) (d : Vector Word 8) : Stream :=
  ⟨myGallery s, n, mySquad s, s.me.id, s.me.ctx, s.me.part, s.me.core, s.me.sup, d,
    vget s.me.xb (slice (vget d 1) 2 0), 0, none, none, false, false, false⟩

section
variable {s : State} {n : BitVec 5} {a : Reg} {t : Tr}

/-- OSDEF after its descriptor has been read: the stream is refused or added. -/
theorem run_osdef (hg : s.me.isHost = false) (htx : s.me.tx.active = false)
    (h : LeadAccess (onward s) (s.me.sreg a) 64 Need.read t) (hmark : markReady (onward s) (onward s).me t false = true) :
    let q := spent s.me.id false (readDone t 64 (onward s))
    let d := descOf (dieSees t 64 (onward s))
    (streamRefused q n.toNat d = false →
      execOsdef n a s = .next { q with streams := q.streams ++ [definedStream q n.toNat d] }) ∧
    (streamRefused q n.toNat d = true → execOsdef n a s = .next (leadTrap 0x63 (s.me.sreg a) s.issue.pc s)) := by
  intro q d
  have hread : (leadRead (s.me.sreg a) t 64).run (onward s) = .ok (dieSees t 64 (onward s), q) :=
    Laws.run_leadRead (leadAccess_isMemory h) (leadAccess_answered h) hmark htx
  have hd : (Vector.ofFn fun k : Fin 8 => BitVec.ofNat 64
      (leNat (((leBytes 64 (dieSees t 64 (onward s))).drop (8 * k.val)).take 8))) = d :=
    congrArg Vector.ofFn (funext fun k => dword_leBytes _ k.isLt)
  have hform : execOsdef n a s = runLead (leadCheck (s.me.sreg a) 64 Need.read >>= _) s :=
    (runLead_groupForm hg htx).trans runLead_reg
  constructor
  · intro hr
    refine hform.trans (runLead_ok (u := ()) ?_)
    simp only [run_bind, run_leadCheck_memory h htx, hread, hd, run_get, hr, Bool.not_false, run_need_true, run_set]
    rfl
  · intro hr
    refine hform.trans (runLead_error (e := .trap 0x63 (s.me.sreg a)) ?_)
    simp only [run_bind, run_leadCheck_memory h htx, hread, hd, run_get, hr, Bool.not_true, run_need_false]

/-- OSEND on a group, outside a transaction: a stream of its squad whose claimed bytes have been consumed. -/
theorem execOsend_group (hg : s.me.isHost = false) (htx : s.me.tx.active = false) : execOsend n s =
    runLead (need (s.streams.any fun x => x.gal == myGallery s && x.os == n.toNat && x.squad == mySquad s) 0x63 0 >>= fun _ =>
      readyIf (!s.subs.any fun b => b.gal == myGallery s && b.os == n.toNat && portClaims s.mops b != 0) >>= fun _ =>
        modify (endStream (myGallery s) n.toNat)) s :=
  (runLead_groupForm hg htx).trans runLead_get

end

/-! ## STREAM_ELEMENT_READ (R119 to R121) -/

section
variable {s : State} {gal os : Nat} {x : Stream} {r : Runner}

/-- A queue that may take the next element, with what the read of it gives. -/
theorem execStreamElementRead_reads
    (hx : (s.streams.find? fun x => x.gal == gal && x.os == os && !streamToPorts x.desc) = some x)
    (hr : s.runner? x.owner = some r) (h1 : x.next < streamTotal x.desc)
    (h2 : (vget r.l.q (streamQueue x.desc)).length < streamAhead x.desc) (h3 : halted s r.part = false) :
    (∀ e t, elementEntry s x x.next = (some e, t) →
      execStreamElementRead gal os s = .next (onStream gal os (fun y => { y with next := y.next + 1 })
        (t.onRunner x.owner fun r => { r with l := { r.l with
          q := vset r.l.q (streamQueue x.desc) (vget r.l.q (streamQueue x.desc) ++ [e]) } }))) ∧
    ∀ t, elementEntry s x x.next = (none, t) → execStreamElementRead gal os s = .next t := by
  have hroom : ¬(streamTotal x.desc ≤ x.next ∨ streamAhead x.desc ≤ (vget r.l.q (streamQueue x.desc)).length ∨
      halted s r.part = true) := by
    rw [h3]
    simp
    omega
  unfold execStreamElementRead
  rw [hx]
  dsimp only
  rw [hr]
  dsimp only
  rw [if_neg hroom]
  exact ⟨fun e t he => by rw [he], fun t he => by rw [he]⟩

/-- A stream at its end, or a queue that is full. -/
theorem execStreamElementRead_full
    (hx : (s.streams.find? fun x => x.gal == gal && x.os == os && !streamToPorts x.desc) = some x)
    (hr : s.runner? x.owner = some r)
    (h : streamTotal x.desc ≤ x.next ∨ streamAhead x.desc ≤ (vget r.l.q (streamQueue x.desc)).length) :
    execStreamElementRead gal os s = .next s := by
  unfold execStreamElementRead
  rw [hx]
  dsimp only
  rw [hr]
  dsimp only
  rw [if_pos (h.imp_right .inl)]

end

end Sys2Proof.Machine

namespace Sys2Proof

open Sys2Proof.Machine Sys2Proof.Claims

/-- Settles O14: each form's checks pass or stop it, and its effect is the one lemma above gives. -/
theorem runsAndTranslationRegisters : Obligations.RunsAndTranslationRegisters := by
  unfold Obligations.RunsAndTranslationRegisters
  intro s
  refine ⟨fun hh t g m => ?host, fun hg htx => ⟨fun t => ?lrun, ?lwait⟩, ?xb⟩
  case host => exact ⟨(Exec.lrun s).trans (runLead_needGroup_host hh), (Exec.lwait s).trans (runLead_needGroup_host hh)⟩
  case lrun =>
    rw [Exec.lrun, execLrun_group hg htx]
    exact ⟨fun h => (runLead_readyIf_true (decide_eq_true h)).trans (runLead_ok (u := ()) rfl),
      fun h => runLead_readyIf_false (decide_eq_false (by omega))⟩
  case lwait =>
    intro g m ended
    have hended : (waitOver g m (onward s) && (!g || lanesIdle (onward s))) = ended := by
      cases g
      · simp [ended, waitOver]
      · simp [ended, waitOver, Bool.and_assoc]
    rw [Exec.lwait, execLwait_group hg htx, hended]
    refine ⟨fun h => (runLead_readyIf_true h).trans ?_, runLead_readyIf_false⟩
    cases g <;> exact runLead_ok (u := ()) rfl
  case xb =>
    intro n a b base lim sets
    rw [Exec.xbclr, Exec.xbset]
    exact ⟨runLead_ok (u := ()) rfl, execXbset_beyond, execXbset_zero,
      fun h0 hfits t ht hk _ => execXbset_walked h0 hfits ht hk, fun h0 hfits c ht => execXbset_cause h0 hfits ht⟩

/-- Settles O15: OSDEF and OSEND after their checks, and the step that reads an element. -/
theorem operandStreams : Obligations.OperandStreams := by
  unfold Obligations.OperandStreams
  intro s
  refine ⟨fun hg htx => ⟨fun n a t h hmark => ?osdef, ?osend⟩, ?element⟩
  case osdef =>
    rw [Exec.osdef]
    exact run_osdef hg htx h hmark
  case osend =>
    intro n mine idle
    rw [Exec.osend, execOsend_group hg htx]
    refine ⟨runLead_need_false, fun h hi => ?_, fun h hi => ?_⟩
    · exact (runLead_need_true h).trans ((runLead_readyIf_true hi).trans (runLead_ok (u := ()) rfl))
    · exact (runLead_need_true h).trans (runLead_readyIf_false hi)
  case element =>
    intro gal os x r hx hr q
    rw [Exec.streamElementRead]
    exact ⟨execStreamElementRead_reads hx hr, execStreamElementRead_full hx hr⟩

end Sys2Proof

/-! # Integer, bit and move forms of the lanes (R127 to R135)

O44. A lane form is settled in two parts: what its operation writes when it runs, and, lane by lane, that the pattern so
written is the one that the statement names. -/

namespace Sys2Proof.Machine

open Sys2Proof Sys2Proof.Claims

/-! ## From an operation to its form -/

/-- The context of an instruction holds its slot. -/
theorem laneIn_f (rule : LaneF → LRule) (s : State) : (laneIn rule s).f = s.issue.slot := by
  show (laneCtx s).f = _
  unfold laneCtx
  split <;> rfl

/-- An instruction that issues obeys its entry's further field rules (R77). -/
theorem also_of_laneReady {rule : LaneF → LRule} {s : State} (h : LaneReady rule s) :
    (rule (laneIn rule s).f).also = true := by
  rw [laneIn_f]
  have hfields : (rule s.issue.slot).fieldsOk s.issue.slot = true := by
    by_contra hbad
    have hcause := h.fields
    unfold LRule.cause at hcause
    rw [Bool.eq_false_of_not_eq_true hbad] at hcause
    cases htype : (rule s.issue.slot).type <;> simp [htype] at hcause
  exact Bool.and_elim_right hfields

/-- Only the 32 lanes count in what a register is written with. -/
theorem writeRes_congr {bits d : Nat} {act : Mask} {g g' : Nat → Nat} (l : Lanes) (h : ∀ k < 32, g k = g' k) :
    l.writeRes bits d act g = l.writeRes bits d act g' := by
  have hcol {v v' : Nat → Nat} (hv : ∀ k < 32, v k = v' k) (l : Lanes) (d : Nat) :
      l.writeCol d act v = l.writeCol d act v' := by
    unfold Lanes.writeCol
    simp only [fun k : Fin 32 => hv k k.isLt]
  unfold Lanes.writeRes
  rw [hcol h l d, hcol (fun k hk => congrArg (· / 2 ^ 32) (h k hk))]

section
variable {i : Instr} {rule : LaneF → LRule} {m : LaneCtx → Op Unit}

/-- An instruction whose operation has the effect named. -/
theorem laneForm_of_run {eff : LaneCtx → State → State} (hi : ∀ s, exec i s = runLane rule m s)
    (hm : ∀ c s, (rule c.f).also = true → (m c).run s = .ok ((), eff c s)) : LaneForm i rule eff :=
  fun s h => (hi s).trans (runLane_ok h (hm _ _ (also_of_laneReady h)))

/-- An instruction that writes a register, its patterns given lane by lane. -/
theorem laneForm_of_lanes {bits : LaneCtx → Nat} {g g' : LaneCtx → State → Nat → Nat}
    (hi : ∀ s, exec i s = runLane rule m s) (hm : ∀ c s, (m c).run s = .ok ((), writesLanes bits g c s))
    (hg : ∀ c s k, (rule c.f).also = true → k < 32 → g c s k = g' c s k) : LaneForm i rule (writesLanes bits g') := by
  refine laneForm_of_run hi fun c s h => (hm c s).trans ?_
  unfold writesLanes onLane
  rw [writeRes_congr s.me.l fun k hk => hg c s k h hk]

/-- An instruction that writes a mask register, its test given lane by lane. -/
theorem laneForm_of_mask {d : LaneCtx → Nat} {p p' : LaneCtx → State → Nat → Bool}
    (hi : ∀ s, exec i s = runLane rule m s) (hm : ∀ c s, (m c).run s = .ok ((), writesMask d p c s))
    (hp : ∀ c s k, (rule c.f).also = true → p c s k = p' c s k) : LaneForm i rule (writesMask d p') := by
  refine laneForm_of_run hi fun c s h => (hm c s).trans ?_
  unfold writesMask
  rw [funext fun k => hp c s k h]

end

/-! ## Patterns of a type (R131) -/

/-- Two's complement reading of the low bits of a number. -/
theorem sextN_eq {n : Nat} (h : 0 < n) (x : Nat) : sextN n x = (BitVec.ofNat n x).toInt := by
  rw [← sextN_toNat h, BitVec.toNat_ofNat, sextN, sextN, Nat.mod_mod]

/-- The low bits of an integer clamped to the range of a type. -/
theorem ofInt_clampI (signed : Bool) (n : Nat) (x : Int) :
    BitVec.ofInt n (clampI (rangeOf signed n).1 (rangeOf signed n).2 x) =
      if signed then clampSigned n x else clampUnsigned n x := by
  cases signed <;> simp [clampI, rangeOf, clampSigned, clampUnsigned]

/-- A source as its type reads it. -/
theorem intRead_eq (t x : Nat) : intRead t x = laneVal t x := by
  unfold intRead laneVal
  rw [sextN_eq (tyBits_bounds t).1, BitVec.toNat_ofNat]

/-- A result as its type writes it. -/
theorem intWrite_eq (t : Nat) (sat : Bool) (x : Int) : intWrite t sat x = laneRes t sat x := by
  unfold intWrite laneRes
  simp only [wrapN_eq, apply_ite (BitVec.ofInt (tyBits t)), ofInt_clampI, sextN_toNat (tyBits_bounds t).1, ofInt_toInt]

/-- Bit i of a slot's low word, read as a field of one bit. -/
theorem low_beq_one (f : LaneF) (i : Nat) : (f.low i i == 1) = f.imm.getLsbD i := by
  rw [LaneF.low, bitsN, Nat.add_sub_cancel_left, pow_one]
  exact bitN_eq_testBit f.imm.toNat i

/-- The count of a shift is that of a 32-bit source, modulo the width (R132). -/
theorem shiftBy_eq (t b : Nat) : shiftBy t b = (BitVec.ofNat 32 b).toNat % tyBits t := by
  rw [shiftBy, BitVec.toNat_ofNat]

/-! ## Shared forms -/

section
variable {i : Instr} {rule : LaneF → LRule}

/-- A form that writes an exact result of its sources' patterns. -/
theorem laneForm_of_intForm {g : Nat → Nat → Nat → Nat → Int} {x : LaneCtx → Nat → Int}
    (hi : ∀ s, exec i s = intForm rule g s) (hx : ∀ c k, g c.f.t (c.a k) (c.b k) (c.c k) = x c k) :
    LaneForm i rule (writesLanes (fun c => tyBits c.f.t) fun c _ k => laneRes c.f.t c.f.sat (x c k)) :=
  laneForm_of_lanes hi (fun _ _ => rfl) fun c _ k _ _ => by rw [intWrite_eq, hx]

/-- A form on the integers that its type reads. -/
theorem laneInt_of_numForm {g g' : Nat → Int → Int → Int → Int} (hi : ∀ s, exec i s = numForm rule g s)
    (hg : ∀ t a b c, g t a b c = g' (tyBits t) a b c) : LaneInt i rule g' :=
  laneForm_of_intForm hi fun c k => by rw [intRead_eq, intRead_eq, intRead_eq, hg]

/-- A bitwise form, from the operation on the numbers of its sources. -/
theorem laneBits_of_bitForm {b : Bool} {g : Nat → Nat → Nat → Nat} {f : ∀ n, BitVec n → BitVec n → BitVec n}
    (hi : ∀ s, exec i s = bitForm b g s) (hf : ∀ n (x y : BitVec n), g n x.toNat y.toNat = (f n x y).toNat) :
    LaneBits i (intRule tyBitsOk b false b false) f :=
  laneForm_of_intForm hi fun c k => by rw [← hf, BitVec.toNat_ofNat, BitVec.toNat_ofNat]

/-- A form that counts bits of the pattern of its type. -/
theorem laneForm_of_countForm {g : Nat → Nat → Nat} {f : ∀ n, BitVec n → Nat} (hi : ∀ s, exec i s = countForm g s)
    (hf : ∀ n x, 0 < n → g n x = f n (BitVec.ofNat n x)) :
    LaneForm i (fun f => { type := tyB f.t, a := useOf (tyBits f.t) })
      (writesLanes (fun _ => 32) fun c _ k => f (tyBits c.f.t) (BitVec.ofNat (tyBits c.f.t) (c.a k))) :=
  laneForm_of_lanes hi (fun _ _ => rfl) fun c _ _ _ _ => hf _ _ (tyBits_bounds c.f.t).1

end

/-! ## Counts, fields and comparisons -/

/-- Leading zero bits of the low bits of a number. -/
theorem clzN_ofNat {n : Nat} (h : 0 < n) (x : Nat) : clzN n x = (BitVec.ofNat n x).clz.toNat := by
  rw [← clzN_eq _ h, BitVec.toNat_ofNat, clzN, clzN, Nat.mod_mod]

/-- Set bits are counted in the low bits alone. -/
theorem popcount_mod (n x : Nat) : popcount n (x % 2 ^ n) = popcount n x := by
  unfold popcount
  refine congrArg List.length (List.filter_congr fun i hi => ?_)
  rw [bitN_eq_testBit, bitN_eq_testBit, Nat.testBit_mod_two_pow, decide_eq_true (List.mem_range.mp hi), Bool.true_and]

/-- Set bits of the low bits of a number. -/
theorem popcount_ofNat (n x : Nat) : popcount n x = (BitVec.ofNat n x).cpop.toNat := by
  have hle : popcount n x ≤ n := (List.length_filter_le _ _).trans_eq List.length_range
  rw [← ofNat_popcount, BitVec.toNat_ofNat, BitVec.toNat_ofNat, popcount_mod,
    Nat.mod_eq_of_lt (hle.trans_lt Nat.lt_two_pow_self)]

/-- A field that lies within n bits. -/
theorem field_eq_extractLsb' {n pos width : Nat} (h : pos + width ≤ n) (x : Nat) :
    x / 2 ^ pos % 2 ^ width = ((BitVec.ofNat n x).extractLsb' pos width).toNat := by
  refine Nat.eq_of_testBit_eq fun j => ?_
  rw [BitVec.extractLsb'_toNat, BitVec.toNat_ofNat, Nat.testBit_mod_two_pow, Nat.testBit_mod_two_pow,
    Nat.testBit_div_two_pow, Nat.testBit_shiftRight, Nat.testBit_mod_two_pow, Nat.add_comm pos j]
  by_cases hj : j < width
  · rw [decide_eq_true (show j + pos < n by omega), Bool.true_and]
  · rw [decide_eq_false hj, Bool.false_and, Bool.false_and]

/-- The six conditions of VCMP (R135). -/
theorem intCond_eq {op : Nat} (h : op < 6) (a b : Int) : intCond op a b =
    [decide (a = b), decide (a ≠ b), decide (a < b), decide (b ≤ a), decide (a ≤ b), decide (b < a)].getD op false := by
  interval_cases op <;> rfl

end Sys2Proof.Machine

namespace Sys2Proof

open Sys2Proof.Machine Sys2Proof.Claims

/-- R127 to R132: each form is a shared form whose result on integers, or on patterns, is the statement's. -/
theorem laneIntegers : LaneIntegers := by
  refine ⟨?add, ?sub, ?mul, ?mulh, ?mad, ?min, ?max, ?abs, ?and, ?or, ?xor, ?not⟩
  case add => exact laneInt_of_numForm Exec.vadd fun _ _ _ _ => rfl
  case sub => exact laneInt_of_numForm Exec.vsub fun _ _ _ _ => rfl
  case mul => exact laneInt_of_numForm Exec.vmul fun _ _ _ _ => rfl
  case mulh => exact laneInt_of_numForm Exec.vmulh fun t a b _ => by rw [Nat.cast_pow, Nat.cast_ofNat]
  case mad => exact laneInt_of_numForm Exec.vmad fun _ _ _ _ => rfl
  case min => exact laneInt_of_numForm Exec.vmin fun _ a b _ => min_def a b
  case max => exact laneInt_of_numForm Exec.vmax fun _ a b _ => max_def a b
  case abs => exact laneInt_of_numForm Exec.vabs fun _ a _ _ => by split <;> omega
  case and => exact laneBits_of_bitForm Exec.vand fun _ x y => (BitVec.toNat_and x y).symm
  case or => exact laneBits_of_bitForm Exec.vor fun _ x y => (BitVec.toNat_or x y).symm
  case xor => exact laneBits_of_bitForm Exec.vxor fun _ x y => (BitVec.toNat_xor x y).symm
  case not => exact laneBits_of_bitForm Exec.vnot fun _ _ _ => BitVec.toNat_not.symm

/-- R130, R132 to R135: shifts, counts, fields, selections, comparisons and moves, each by the lemma about its operation. -/
theorem laneBitForms : LaneBitForms := by
  refine ⟨⟨?shl, ?shr, ?sar⟩, ⟨?clz, ?popc⟩, ?bfx, ?sel, ?cmp, ?mov, ?movi⟩
  case shl =>
    refine laneForm_of_intForm Exec.vshl fun c k => ?_
    rw [intRead_eq, shiftBy_eq, Nat.cast_pow, Nat.cast_ofNat]
  case shr =>
    refine laneForm_of_intForm Exec.vshr fun c k => ?_
    rw [shiftBy_eq, BitVec.toNat_ushiftRight, Nat.shiftRight_eq_div_pow, ← BitVec.toNat_ofNat (c.a k)]
  case sar =>
    refine laneForm_of_intForm Exec.vsar fun c k => ?_
    rw [shiftBy_eq, sextN_eq (tyBits_bounds _).1, BitVec.toInt_sshiftRight, Int.shiftRight_eq_div_pow]
  case clz => exact laneForm_of_countForm (f := fun _ x => x.clz.toNat) Exec.vclz fun _ x h => clzN_ofNat h x
  case popc => exact laneForm_of_countForm (f := fun _ x => x.cpop.toNat) Exec.vpopc fun n x _ => popcount_ofNat n x
  case bfx =>
    refine laneForm_of_lanes Exec.vbfx (fun _ _ => rfl) fun c _ k hok _ => ?_
    have hwidth : 0 < bfxWidth c.f := Nat.succ_pos _
    have htype : c.f.t = 4 ↔ c.f.ty = 4 := BitVec.toNat_inj (y := 4#4)
    simp only [field_eq_extractLsb' (of_decide_eq_true hok), htype, sextN_toNat hwidth, wrapN_eq, ofInt_toInt]
    rfl
  case sel => exact laneForm_of_run Exec.vsel fun _ _ _ => rfl
  case cmp =>
    refine laneForm_of_mask Exec.vcmp (fun _ _ => rfl) fun c _ k hok => ?_
    rw [intRead_eq, intRead_eq]
    exact intCond_eq (of_decide_eq_true (Bool.and_elim_right hok)) _ _
  case mov => exact laneForm_of_run Exec.vmov fun _ _ _ => rfl
  case movi =>
    refine laneForm_of_lanes Exec.vmovi (fun _ _ => rfl) fun c _ k _ _ => ?_
    rw [intWrite_eq, intRead_eq]

/-- Settles O44: the forms on integers and patterns, and the others. -/
theorem laneIntegerForms : Obligations.LaneIntegerForms := ⟨laneIntegers, laneBitForms⟩

end Sys2Proof

/-! # Shuffles, broadcasts, reductions, scans, ballots and packing (R145 to R148)

O46. Each form writes a register; lane by lane, the lane read, the value combined or the element packed is the one that the
statement names. -/

namespace Sys2Proof.Machine

open Sys2Proof Sys2Proof.Claims

/-! ## Lanes read from another lane (R145) -/

/-- The four ways in which VSHFL names a lane. -/
theorem shflLane_eq (f : LaneF) (b k : Nat) : shflLane f b k =
    [((b % 32 : Nat) : Int), (k : Int) - (f.low 4 0 : Nat), (k : Int) + (f.low 4 0 : Nat),
      ((k ^^^ f.low 4 0 : Nat) : Int)].getD (f.low 31 30) 0 := by
  have hmode : f.low 31 30 < 4 := Nat.mod_lt _ (by decide)
  unfold shflLane
  generalize f.low 31 30 = mode at hmode
  interval_cases mode <;> rfl

/-- A lane named by a number lies in the fragment, or the lane reads its own value. -/
theorem inFragment_natCast (m0 : Mask) (j own : Nat) :
    inFragment m0 (j : Int) own = if j ≤ 31 ∧ m0.getLsbD j = true then j else own := by
  have h31 : ((j : Int) ≤ 31) ↔ j ≤ 31 := by omega
  unfold inFragment
  simp only [Int.natCast_nonneg, true_and, h31, Int.toNat_natCast]

/-! ## Scans (R148) -/

/-- A running combination holds, for each lane, the values before it combined from the start, and its own with them. -/
theorem scanFrom_getElem? (g : Nat → Nat → Nat) (l : List (Option Nat)) :
    ∀ (acc : Option Nat) {k : Nat}, k < l.length → (scanFrom g acc l)[k]? =
      some ((l.take k).foldl (redNode g) acc, redNode g ((l.take k).foldl (redNode g) acc) (l.getD k none)) := by
  induction l with
  | nil => exact fun _ _ hk => absurd hk (Nat.not_lt_zero _)
  | cons v l ih =>
    intro acc k hk
    cases k with
    | zero => rfl
    | succ k => exact ih (redNode g acc v) (Nat.lt_of_succ_lt_succ hk)

/-- Each of the 32 lanes has a leaf. -/
theorem redLeaves_length (c : LaneCtx) : (redLeaves c).length = 32 := by
  rw [redLeaves, List.length_map, List.length_range]

/-! ## Ballots and packing (R145) -/

/-- The number of a mask of lanes, bit by bit. -/
theorem toNat_maskOf {ls : List Nat} (h : ∀ j ∈ ls, j < 32) :
    (maskOf ls).toNat = ls.foldl (fun m j => m ||| 2 ^ j) 0 := by
  suffices hfold : ∀ m : Mask, (ls.foldl (fun m l => m ||| BitVec.ofNat 32 (2 ^ l)) m).toNat =
      ls.foldl (fun m j => m ||| 2 ^ j) m.toNat from hfold 0
  induction ls with
  | nil => exact fun _ => rfl
  | cons j ls ih =>
    intro m
    have hj : 2 ^ j < 2 ^ 32 := Nat.pow_lt_pow_right (by decide) (h j List.mem_cons_self)
    rw [List.foldl_cons, List.foldl_cons, ih fun i hi => h i (List.mem_cons_of_mem j hi), BitVec.toNat_or,
      BitVec.toNat_ofNat, Nat.mod_eq_of_lt hj]

/-- The set lanes of a mask are below 32. -/
theorem lt_of_mem_lanesOf {m : Mask} {k : Nat} (h : k ∈ lanesOf m) : k < 32 := List.mem_range.mp (List.mem_filter.mp h).1

/-- An element to pack: the low bits of its source, or with SAT the source clamped to the type. -/
theorem packElem_eq (f : LaneF) (x : Nat) : packElem f x =
    if f.sat then (if tySigned f.t then clampSigned (tyBits f.t) (BitVec.ofNat 32 x).toInt
      else clampUnsigned (tyBits f.t) (BitVec.ofNat 32 x).toInt).toNat
    else x % 2 ^ tyBits f.t := by
  unfold packElem
  simp only [wrapN_eq, ofInt_clampI, sextN_eq (show 0 < 32 by decide)]

end Sys2Proof.Machine

namespace Sys2Proof

open Sys2Proof.Machine Sys2Proof.Claims

/-- Settles O46, form by form. -/
theorem laneCrossForms : Obligations.LaneCrossForms := by
  unfold Obligations.LaneCrossForms
  refine ⟨?shfl, ?bcast, ?red, ?scan, ?ballot, ?pack, ?unpk⟩
  case shfl =>
    refine laneForm_of_lanes Exec.vshfl (fun _ _ => rfl) fun c _ k _ _ => ?_
    rw [shflLane_eq]
    rfl
  case bcast =>
    refine laneForm_of_lanes Exec.vbcast (fun _ _ => rfl) fun c _ k _ _ => ?_
    rw [inFragment_natCast]
    rfl
  case red => exact laneForm_of_run Exec.vred fun _ _ _ => rfl
  case scan =>
    refine laneForm_of_lanes Exec.vscan (fun _ _ => rfl) fun c _ k _ hk => ?_
    rw [scanFrom_getElem? _ _ none (hk.trans_eq (redLeaves_length c).symm)]
    simp only [low_beq_one]
  case ballot =>
    refine laneForm_of_lanes Exec.vballot (fun _ _ => rfl) fun c _ _ _ _ => ?_
    exact toNat_maskOf fun j hj => lt_of_mem_lanesOf (List.mem_filter.mp hj).1
  case pack =>
    refine laneForm_of_lanes Exec.vpack (fun _ _ => rfl) fun c s k _ _ => ?_
    simp only [packElem_eq]
    rfl
  case unpk =>
    refine laneForm_of_lanes Exec.vunpk (fun _ _ => rfl) fun c _ k _ _ => ?_
    rw [intWrite_eq, intRead_eq]
    rfl

end Sys2Proof

/-! # Floating-point forms of the lanes, special operands, ends of conversions (R102, R103, R138 to R144)

O45. The forms write what the operations of a format give, lane by lane. Of these operations the special operands come first:
an exact zero rounds to a zero, and the functions of R140 meet their exact cases. -/

namespace Sys2Proof.Machine

open Sys2Proof Sys2Proof.Claims

/-! ## Forms (R140 to R143) -/

/-- A form on the patterns of its type is its shared form. -/
theorem laneFlt_of_fltForm {i : Instr} {rule : LaneF → LRule} {g : Fmt → Nat → Nat → Nat → Nat → Nat}
    (hi : ∀ s, exec i s = fltForm rule g s) : LaneFlt i rule g :=
  laneForm_of_run hi fun _ _ _ => rfl

/-- The six conditions of VFCMP (R141). -/
theorem fltCond_eq {op : Nat} (h : op < 6) (a b : FVal) : fltCond op a b =
    [a.eq b, a.lt b, a.le b, a.isNan || b.isNan, b.lt a, b.le a].getD op false := by
  interval_cases op <;> rfl

/-- The pattern that an integer result writes, read again in its type and written without SAT, stays as it is. -/
theorem laneRes_laneVal (t : Nat) (sat : Bool) (y : Int) : laneRes t false (laneVal t (BitVec.toNat (w := tyBits t)
    (if sat then (if tySigned t then clampSigned (tyBits t) y else clampUnsigned (tyBits t) y)
      else BitVec.ofInt (tyBits t) y))) = laneRes t sat y := by
  have hread (r : BitVec (tyBits t)) : BitVec.ofInt (tyBits t) (laneVal t r.toNat) = r := by
    unfold laneVal
    rw [BitVec.ofNat_toNat, BitVec.setWidth_eq]
    split
    · exact BitVec.ofInt_toInt
    · rw [BitVec.ofInt_natCast, BitVec.ofNat_toNat, BitVec.setWidth_eq]
  simp only [laneRes, hread, Bool.false_eq_true, if_false]

/-- The pattern that VFCVT writes: to an 8-bit float by the table of R143; else one rounding of the source's value, the value
rounded to an integer, or an integer source clamped where SAT stands (R103). -/
theorem cvtResult_eq (f : LaneF) (raw : Nat) : cvtResult f raw =
    let m := f.rm.toNat
    let v := cvtVal (cvtSrc f) (cvtSrcNf f) raw
    if f.t = 0xE then (if f.nf then toE5m2 else toE4m3) m f.sat v
    else if cvtSrc f = 0xE then (tyFmt f.t).encode m v
    else if tyFloat f.t then
      (tyFmt f.t).encode m (if tyFloat (cvtSrc f) then v else FVal.ofInt (laneVal (cvtSrc f) raw) 0 false)
    else if tyFloat (cvtSrc f) then
      laneRes f.t false (laneVal f.t (toIntType m f.sat (tySigned f.t) (tyBits f.t) v))
    else laneRes f.t f.sat (laneVal (cvtSrc f) raw) := by
  unfold cvtResult
  dsimp only
  refine if_congr Iff.rfl rfl ?_
  by_cases hs : cvtSrc f = 0xE
  · rw [if_pos hs, if_pos hs, hs]
  · have hval : cvtVal (cvtSrc f) (cvtSrcNf f) raw = (tyFmt (cvtSrc f)).decode (raw % 2 ^ tyBits (cvtSrc f)) := if_neg hs
    rw [if_neg hs, if_neg hs, intWrite_eq, intRead_eq, hval]
    cases hfloat : tyFloat f.t
    · rw [cvtBits_int hfloat, if_neg Bool.false_ne_true, if_neg Bool.false_ne_true]
      cases tyFloat (cvtSrc f)
      · simp only [Bool.false_eq_true, if_false, apply_ite (BitVec.ofInt (tyBits f.t)), ofInt_clampI, laneRes_laneVal,
          intRead_eq]
      · simp only [if_true]
    · rw [cvtBits_float hfloat, if_pos rfl, if_pos rfl, intRead_eq]

/-! ## Exact zeros (R13, R144) -/

section
variable (f : Fmt) (mode : Nat) (neg : Bool) (e : Int)

/-- A magnitude with nothing below its last place stays as it is in every mode. -/
theorem roundUp_exact (M shift : Nat) : roundUp mode neg M 0 shift false = false := by
  have hhalf : 0 < if shift = 0 then 1 else 2 ^ (shift - 1) := by
    split
    · exact Nat.one_pos
    · exact Nat.two_pow_pos _
  unfold roundUp
  generalize (if shift = 0 then 1 else 2 ^ (shift - 1)) = half at hhalf
  dsimp only
  split <;> simp <;> omega

/-- Zero rounds to zero. -/
theorem roundMag_zero (p : Nat) (qmin : Int) : (roundMag p qmin mode neg 0 e false).1 = 0 := by
  unfold roundMag
  simp only [Nat.zero_mul, Nat.zero_div, Nat.zero_mod, roundUp_exact, Bool.false_eq_true, if_false]
  split <;> rfl

/-- A zero keeps its sign. -/
theorem encode_zero : f.encode mode (.fin neg 0 e) = f.signBit neg := by
  rw [Fmt.encode, Fmt.roundFin, roundMag_zero, if_pos rfl]

/-- Zero is the integer 0. -/
theorem roundInt_zero : roundInt mode neg 0 e = 0 := by
  simp [roundInt, roundUp_exact]

variable {mode neg e}

/-- A value that rounds to the integer 0 becomes a zero of its sign. -/
theorem encode_roundToInt_zero {k : Nat} (h : roundInt mode neg k e = 0) :
    f.encode mode ((FVal.fin neg k e).roundToInt mode) = f.signBit neg := by
  rw [FVal.roundToInt, h, FVal.ofInt, if_pos rfl, encode_zero]

end

/-! ## Exact cases of the functions (R140, R144) -/

/-- The logarithm of 1, however it is scaled. -/
theorem log2_one (f : Fmt) (mode i : Nat) : f.log2 mode (.fin false (2 ^ i) (-(i : Int))) = 0 := by
  have hlen : bitLen (2 ^ i) - 1 = i := by rw [bitLen, if_neg (Nat.two_pow_pos i).ne', Nat.log2_two_pow, Nat.add_sub_cancel]
  unfold Fmt.log2
  dsimp only
  rw [hlen, if_neg (Nat.two_pow_pos i).ne', if_neg Bool.false_ne_true, if_pos rfl, Int.add_left_neg, Fmt.ofInt, FVal.ofInt,
    if_pos rfl, encode_zero]
  rfl

/-- One in fixed point is two halves. -/
theorem fxOne_halves : fxOne = 2 * (fxOne / 2) := by
  rw [fxOne]
  exact (Nat.mul_div_cancel' (dvd_pow_self 2 (show fxBits ≠ 0 by decide))).symm

/-- The magnitude that sin π and cos π reduce to two turns, where the argument is a number of halves. -/
theorem halves_mod_turns {a m : Nat} {e : Int} (he : e ≤ 0) (hm : m * 2 = a * 2 ^ (-e).toNat) :
    (if 1 ≤ e then 0 else if 0 ≤ e then m * fxOne % (2 * fxOne) else m * fxOne / 2 ^ (-e).toNat % (2 * fxOne)) =
      a % 4 * (fxOne / 2) := by
  have hquot : m * fxOne / 2 ^ (-e).toNat % (2 * fxOne) = a % 4 * (fxOne / 2) := by
    have hone := fxOne_halves
    generalize fxOne / 2 = h at hone
    rw [hone, ← Nat.mul_assoc, hm, Nat.mul_right_comm, Nat.mul_div_cancel _ (Nat.two_pow_pos _), ← Nat.mul_assoc,
      Nat.mul_mod_mul_right]
  rw [if_neg (by omega), hquot]
  split
  · rw [← hquot, show (-e).toNat = 0 by omega, Nat.pow_zero, Nat.div_one]
  · rfl

/-- At a number of halves where the function vanishes: sin π of an integer is a zero of the argument's sign, and cos π of an
odd number of halves is +0. -/
theorem sinPi_vanishes (f : Fmt) (mode : Nat) (neg : Bool) {cos : Bool} {a m : Nat} {e : Int} (h0 : m ≠ 0) (he : e ≤ 0)
    (hm : m * 2 = a * 2 ^ (-e).toNat) (hcos : cos = decide (a % 2 = 1)) :
    f.sinPi mode cos (.fin neg m e) = if cos then 0 else f.signBit neg := by
  have hquarter : a % 4 % 2 = a % 2 := Nat.mod_mod_of_dvd a (by decide)
  have hpos : 0 < fxOne / 2 := by
    have hone := fxOne_halves
    have : 0 < fxOne := Nat.two_pow_pos fxBits
    omega
  unfold Fmt.sinPi
  dsimp only
  rw [if_neg h0, halves_mod_turns he hm, Nat.mul_mod_left, if_pos rfl, Nat.mul_div_cancel _ hpos, hquarter, hcos]
  rcases Nat.mod_two_eq_zero_or_one a with h | h <;> simp [h]

/-- sin π of an integer. -/
theorem sinPi_integer (f : Fmt) (mode : Nat) (neg : Bool) (j i : Nat) :
    f.sinPi mode false (.fin neg (j * 2 ^ i) (-(i : Int))) = f.signBit neg := by
  rcases Nat.eq_zero_or_pos j with rfl | hj
  · rw [Nat.zero_mul]
    rfl
  · refine sinPi_vanishes f mode neg (a := 2 * j) (Nat.mul_pos hj (Nat.two_pow_pos i)).ne' (by omega) ?_ (by simp)
    rw [neg_neg, Int.toNat_natCast]
    ring

/-- cos π of an odd number of halves. -/
theorem cosPi_half (f : Fmt) (mode : Nat) (neg : Bool) (j i : Nat) :
    f.sinPi mode true (.fin neg ((2 * j + 1) * 2 ^ i) (-(i + 1 : Int))) = 0 := by
  refine sinPi_vanishes f mode neg (a := 2 * j + 1) (Nat.mul_pos (Nat.succ_pos _) (Nat.two_pow_pos i)).ne' (by omega) ?_
    (by simp)
  rw [neg_neg, show ((i : Int) + 1).toNat = i + 1 by omega]
  ring

/-! ## NaN operands (R138, R139) -/

section
variable (f : Fmt) (mode : Nat) (x : FVal)

/-- A quotient by a NaN. -/
theorem Fmt.div_nan : f.div mode x .nan = f.nanBits := by cases x <;> rfl

/-- A sum with a NaN. -/
theorem FVal.add_nan : x.add mode .nan = .nan := by cases x <;> rfl

/-- A product with a NaN. -/
theorem FVal.mul_nan : x.mul .nan = .nan := by cases x <;> rfl

end

/-! ## Zeros, infinities and negative operands (R144) -/

section
variable (f : Fmt) (mode : Nat) (n1 n2 : Bool) (i : Nat) {k : Nat} (hk : 0 < k) (e e2 : Int)

/-- The reciprocal of a zero or an infinity. -/
theorem rcp_special : f.div mode (.fin false 1 0) (.fin n1 0 e2) = f.signBit n1 + f.infBits ∧
    f.div mode (.fin false 1 0) (.inf n1) = f.signBit n1 := by
  cases n1 <;> exact ⟨rfl, rfl⟩

include hk

/-- VFRSQ of a zero, an infinity or a negative value. -/
theorem rsqrt_special : f.rsqrt mode (.fin n1 0 e2) = f.signBit n1 + f.infBits ∧ f.rsqrt mode (.inf false) = 0 ∧
    f.rsqrt mode (.fin true k e) = f.nanBits ∧ f.rsqrt mode (.inf true) = f.nanBits :=
  ⟨rfl, rfl, (if_neg hk.ne').trans (if_pos rfl), rfl⟩

/-- VFSQRT of −0 or a negative value. -/
theorem sqrt_special : f.sqrt mode (.fin true 0 e2) = f.signBit true ∧ f.sqrt mode (.fin true k e) = f.nanBits ∧
    f.sqrt mode (.inf true) = f.nanBits :=
  ⟨rfl, (if_neg hk.ne').trans (if_pos rfl), rfl⟩

/-- VFDIV by a zero, and of two infinities. -/
theorem div_special : f.div mode (.fin n1 k e) (.fin n2 0 e2) = f.signBit (n1 != n2) + f.infBits ∧
    f.div mode (.fin n1 0 e2) (.fin n2 0 e2) = f.nanBits ∧ f.div mode (.inf n1) (.inf n2) = f.nanBits :=
  ⟨if_neg hk.ne', rfl, rfl⟩

/-- VFLOG2 of a zero, of 1, of an infinity or a negative value. -/
theorem log2_special : f.log2 mode (.fin n1 0 e2) = f.signBit true + f.infBits ∧
    f.log2 mode (.fin false (2 ^ i) (-(i : Int))) = 0 ∧ f.log2 mode (.inf false) = f.infBits ∧
    f.log2 mode (.fin true k e) = f.nanBits ∧ f.log2 mode (.inf true) = f.nanBits :=
  ⟨rfl, log2_one f mode i, rfl, (if_neg hk.ne').trans (if_pos rfl), rfl⟩

end

/-! ## Overflow, minima and maxima (R102, R138) -/

/-- The mode and sign that keep an overflow at the largest finite value. -/
abbrev StaysFinite (mode : Nat) (neg : Bool) : Prop := mode = 1 ∨ (mode = 2 ∧ neg = true) ∨ (mode = 3 ∧ neg = false)

/-- What overflow gives. -/
theorem overflow_eq (f : Fmt) (mode : Nat) (neg : Bool) :
    f.overflow mode neg = f.signBit neg + if StaysFinite mode neg then f.infBits - 1 else f.infBits := by
  unfold Fmt.overflow StaysFinite
  congr 1
  split <;> simp_all

/-- A minimum or maximum beside a NaN. -/
theorem minmax_nan (f : Fmt) (most : Bool) (x y : Nat) :
    ((f.decode x).isNan = true → (f.decode y).isNan = true → f.minmax most x y = f.nanBits) ∧
    ((f.decode x).isNan = true → (f.decode y).isNan = false → f.minmax most x y = y) ∧
    ((f.decode x).isNan = false → (f.decode y).isNan = true → f.minmax most x y = x) := by
  unfold Fmt.minmax
  refine ⟨fun hx hy => ?_, fun hx hy => ?_, fun hx hy => ?_⟩ <;> simp [hx, hy]

/-! ## Conversions to 8-bit floats (R143) -/

/-- The sign bit of an 8-bit code. -/
def sign8 (neg : Bool) : Nat := if neg then 128 else 0

/-- A code's sign and magnitude. -/
theorem sign8_add {c : Nat} (neg : Bool) (h : c < 128) :
    (sign8 neg + c) % 128 = c ∧ (sign8 neg + c) / 128 * 128 = sign8 neg := by
  cases neg
  · have hsign : sign8 false = 0 := rfl
    omega
  · have hsign : sign8 true = 128 := rfl
    omega

/-- Overflow of .f32 without its sign is no infinity just where it stays finite. -/
theorem overflow_f32_ne_inf (mode : Nat) (neg : Bool) :
    Fmt.f32.overflow mode neg % 2 ^ 31 ≠ Fmt.f32.infBits ↔ StaysFinite mode neg := by
  have hsign : Fmt.f32.signBit neg % 2 ^ 31 = 0 := by cases neg <;> rfl
  have hinf : Fmt.f32.infBits = 0x7F800000 := rfl
  rw [overflow_eq, hinf]
  split
  case isTrue h => exact iff_of_true (by omega) h
  case isFalse h => exact iff_of_false (by omega) h

section
variable {mode k : Nat} {sat neg : Bool} {e : Int}

/-- A finite value to .e4m3. -/
theorem toE4m3_fin : toE4m3 mode sat (.fin neg k e) =
    let r := roundMag 4 (-9) mode neg k e false
    let code := (r.2 + 9).toNat * 8 + r.1
    if r.1 = 0 then sign8 neg else if code ≤ 0x7E then sign8 neg + code
    else sign8 neg + if sat = true ∨ StaysFinite mode neg then 0x7E else 0x7F := by
  unfold toE4m3
  simp only [overflow_f32_ne_inf, apply_ite (sign8 neg + ·)]
  rfl

/-- SAT brings a code above the largest finite .e5m2 code down to it. -/
theorem toE5m2_of_encode {v : FVal} {c : Nat} (hv : v.isNan = false) (hc : c < 128)
    (h : (Fmt.mk 5 2).encode mode v = sign8 neg + c) :
    toE5m2 mode sat v = sign8 neg + if sat = true ∧ 0x7B < c then 0x7B else c := by
  obtain ⟨hmod, hdiv⟩ := sign8_add neg hc
  unfold toE5m2
  dsimp only
  rw [h, hv, hmod, hdiv, apply_ite (sign8 neg + ·)]
  simp

/-- An infinity to .e5m2. -/
theorem toE5m2_inf : toE5m2 mode sat (.inf neg) = sign8 neg + if sat then 0x7B else 0x7C := by
  rw [toE5m2_of_encode (c := 0x7C) rfl (by decide) rfl]
  simp

/-- A finite value rounded to .e5m2 by itself: beyond its largest finite code it overflows. -/
theorem encode_e5m2 : (Fmt.mk 5 2).encode mode (.fin neg k e) =
    let r := roundMag 3 (-16) mode neg k e false
    let code := (r.2 + 16).toNat * 4 + r.1
    sign8 neg + if r.1 = 0 then 0 else if code ≤ 0x7B then code else if StaysFinite mode neg then 0x7B else 0x7C := by
  have hround : (Fmt.mk 5 2).encode mode (.fin neg k e) =
      let r := roundMag 3 (-16) mode neg k e false
      let code := (r.2 + 16).toNat * 4 + r.1
      if r.1 = 0 then sign8 neg else if 0x7C ≤ code then (Fmt.mk 5 2).overflow mode neg else sign8 neg + code := rfl
  have hoverflow : (Fmt.mk 5 2).overflow mode neg = sign8 neg + if StaysFinite mode neg then 0x7B else 0x7C :=
    overflow_eq _ mode neg
  rw [hround, hoverflow]
  dsimp only
  generalize (roundMag 3 (-16) mode neg k e false).1 = M
  generalize (roundMag 3 (-16) mode neg k e false).2 = q
  have hover : 0x7C ≤ (q + 16).toNat * 4 + M ↔ ¬(q + 16).toNat * 4 + M ≤ 0x7B := by omega
  simp only [hover, ite_not, apply_ite (sign8 neg + ·), Nat.add_zero]

/-- A finite value to .e5m2. -/
theorem toE5m2_fin : toE5m2 mode sat (.fin neg k e) =
    let r := roundMag 3 (-16) mode neg k e false
    let code := (r.2 + 16).toNat * 4 + r.1
    if r.1 = 0 then sign8 neg else if code ≤ 0x7B then sign8 neg + code
    else sign8 neg + if sat = true ∨ StaysFinite mode neg then 0x7B else 0x7C := by
  have hcode := encode_e5m2 (mode := mode) (k := k) (neg := neg) (e := e)
  dsimp only at hcode ⊢
  rw [toE5m2_of_encode rfl ?lt hcode]
  case lt => split <;> [omega; split <;> [omega; split <;> omega]]
  split
  · simp
  split
  · rw [if_neg (by omega)]
  · by_cases hfin : StaysFinite mode neg <;> simp [hfin]

end

/-! ## Conversions to integers (R103) -/

/-- The ends of an integer type's range. -/
theorem rangeOf_eq (signed : Bool) (n : Nat) : rangeOf signed n =
    (if signed then -(2 : Int) ^ (n - 1) else 0, if signed then (2 : Int) ^ (n - 1) - 1 else (2 : Int) ^ n - 1) := by
  cases signed <;> simp [rangeOf]

end Sys2Proof.Machine

namespace Sys2Proof

open Sys2Proof.Machine Sys2Proof.Claims

/-- R138 to R143: each form is its shared form, or writes what the lemma about its operation says. -/
theorem laneFloats : LaneFloats := by
  refine ⟨?add, ?sub, ?mul, ?div, ?fma, ?min, ?max, ?rcp, ?rsq, ?sqrt, ?exp2, ?log2, ?sin, ?cos, ?rnd, ?scale, ?cmp, ?cma,
    ?cvt⟩
  case add => exact laneFlt_of_fltForm Exec.vfadd
  case sub => exact laneFlt_of_fltForm Exec.vfsub
  case mul => exact laneFlt_of_fltForm Exec.vfmul
  case div => exact laneFlt_of_fltForm Exec.vfdiv
  case fma => exact laneFlt_of_fltForm Exec.vffma
  case min => exact laneFlt_of_fltForm Exec.vfmin
  case max => exact laneFlt_of_fltForm Exec.vfmax
  case rcp => exact laneFlt_of_fltForm Exec.vfrcp
  case rsq => exact laneFlt_of_fltForm Exec.vfrsq
  case sqrt => exact laneFlt_of_fltForm Exec.vfsqrt
  case exp2 => exact laneFlt_of_fltForm Exec.vfexp2
  case log2 => exact laneFlt_of_fltForm Exec.vflog2
  case sin => exact laneFlt_of_fltForm Exec.vfsin
  case cos => exact laneFlt_of_fltForm Exec.vfcos
  case rnd => exact laneFlt_of_fltForm Exec.vfrnd
  case scale =>
    refine laneForm_of_lanes Exec.vfscale (fun _ _ => rfl) fun c _ k _ _ => ?_
    rw [sextN_eq (show 0 < 32 by decide)]
  case cmp =>
    refine laneForm_of_mask Exec.vfcmp (fun _ _ => rfl) fun c _ k hok => ?_
    exact fltCond_eq (of_decide_eq_true (Bool.and_elim_right hok)) _ _
  case cma =>
    refine laneForm_of_lanes Exec.vfcma (fun _ _ => rfl) fun c _ k _ _ => ?_
    rw [low_beq_one]
    rfl
  case cvt =>
    refine laneForm_of_lanes Exec.vfcvt (fun _ _ => rfl) fun c _ k _ _ => ?_
    rw [← low_beq_one]
    exact cvtResult_eq c.f (c.a k)

/-- R102, R138, R139, R144: each row is the special case of its operation, zeros by the lemmas on exact zeros and the
functions by those on their exact cases. -/
theorem floatSpecials : FloatSpecials := by
  refine ⟨fun f m n1 n2 k j i e e2 x hk => ?rows, fun f m x y => ?nans, overflow_eq, minmax_nan⟩
  case rows =>
    intro zero one
    exact ⟨rcp_special f m n1 e2, rsqrt_special f m n1 hk e e2, sqrt_special f m hk e e2, div_special f m n1 n2 hk e e2,
      ⟨rfl, rfl, rfl⟩, log2_special f m n1 i hk e e2, ⟨rfl, sinPi_integer f m n1 j i⟩,
      ⟨rfl, cosPi_half f m n1 j i, rfl⟩,
      ⟨rfl, encode_roundToInt_zero f (roundInt_zero m n1 e2), encode_roundToInt_zero f⟩, ⟨rfl, encode_zero f m n1 _⟩,
      ⟨rfl, rfl⟩⟩
  case nans =>
    have hround (z : FVal) (h : z = .nan) : f.encode m z = f.nanBits := h ▸ rfl
    exact ⟨rfl, Fmt.div_nan f m x, rfl, rfl, rfl, rfl, rfl, rfl, rfl, hround _ (FVal.add_nan m x), rfl, hround _ (FVal.mul_nan x), rfl,
      hround _ ((FVal.mul_nan x).symm ▸ rfl), rfl, rfl⟩

/-- R103, R143: codes of 8-bit floats by the lemmas above, integers by the ends of their range. -/
theorem conversionEnds : ConversionEnds := by
  intro m n k neg sat signed e sign toMax
  refine ⟨?nan, ⟨rfl, toE5m2_inf⟩, ?e4m3, ?e5m2, ?int⟩
  case nan => exact ⟨rfl, by cases sat <;> rfl⟩
  case e4m3 =>
    intro r code
    rw [toE4m3_fin]
    exact ⟨fun h => if_pos h, fun h hc => (if_neg h).trans (if_pos hc), fun h hc => (if_neg h).trans (if_neg (Nat.not_le_of_lt hc))⟩
  case e5m2 =>
    intro r code
    rw [toE5m2_fin]
    exact ⟨fun h => if_pos h, fun h hc => (if_neg h).trans (if_pos hc), fun h hc => (if_neg h).trans (if_neg (Nat.not_le_of_lt hc))⟩
  case int =>
    intro lo hi y
    have hrange : rangeOf signed n = (lo, hi) := rangeOf_eq signed n
    refine ⟨rfl, ?_, ?_⟩
    · rw [toIntType, hrange, wrapN_eq]
    · rw [toIntType, hrange, wrapN_eq]
      rfl

/-- Settles O45: the forms, the special operands and the ends of conversions. -/
theorem laneFloatForms : Obligations.LaneFloatForms := ⟨laneFloats, floatSpecials, conversionEnds⟩

end Sys2Proof

/-! # Loads and stores of the lanes (R174 to R177, R181 to R183, R190, R191, R193 to R197, R241)

O47, and the forms of O49. A form is its check of every lane, which names the lanes with a cause or gives their places, and
the accesses to those places; each part answers once for all spaces. -/

namespace Sys2Proof.Machine

open Sys2Proof Sys2Proof.Claims

/-! ## Checks (R191) -/

section
variable {α : Type} {l : List (Nat × Except (Nat × Word) α)} {pop : QPop} {s : State}

/-- Where no lane has a cause, the lanes' results go on. -/
theorem run_allLanes_ok (h : laneErrors l = []) : (allLanes pop l).run s = .ok (laneOks l, s) := by
  simp [allLanes, h]

/-- Where some lane has one, the lanes that have one stop the instruction. -/
theorem run_allLanes_error (h : laneErrors l ≠ []) : (allLanes pop l).run s = .error (.lanes (laneErrors l) pop) := by
  simp only [allLanes, List.isEmpty_eq_false_iff.mpr h, Bool.false_eq_true, if_false, run_throw]

end

/-- The places of VGATH and VSCAT are those that the tile gives the lanes, where it is one and no lane has a cause (R197). -/
theorem run_tilePlaces {c : LaneCtx} {q : State} {z j : Nat} {n : Need} {tile : Tile} (hj : lowestLane c.act = some j)
    (htile : readTile q (sextN 32 (c.b j)) = .ok tile) :
    let l := (lanesOf c.act).map fun k => (k, tileSpot q c.f tile k (c.a k % 2 ^ 32) z n)
    laneErrors l = [] → (tilePlaces c z n).run q = .ok (laneOks l, q) := by
  intro l hl
  simp only [tilePlaces, hj, run_bind, run_get, htile]
  exact run_allLanes_ok hl

/-! ## Orders outside attempts (R241, R275) -/

/-- What order sc asks, which inside an attempt is nothing. -/
theorem run_laneSc {c : LaneCtx} {tx : Bool} {s : State} (h : tx = false → CanScAt c.f.scope c.f.order s) :
    (laneSc c tx).run s = .ok ((), if tx then s else scAt c.f.scope c.f.order s) := by
  cases tx with
  | true => rfl
  | false => exact Laws.run_scDone (h rfl)

/-- The release part, which inside an attempt does nothing. -/
theorem run_laneBefore {c : LaneCtx} {s : State} (h : inAttempt c s = false → CanReleaseAt c.f.scope c.f.order s) :
    (laneBefore c).run s = .ok ((), if inAttempt c s then s else releasedAt c.f.scope c.f.order s) := by
  cases htx : inAttempt c s with
  | true => simp [laneBefore, htx]
  | false => simp [laneBefore, htx, Laws.run_before (h htx)]

/-! ## Accesses to checked places (R191, R193) -/

section
variable {c : LaneCtx} {q t : State} {z : Nat} {ps : List (Nat × Spot)}

/-- Loads from checked places. -/
theorem run_loadPlaces (h : LoadsFrom c q z ps t) : (loadPlaces c z ps).run q = .ok ((), t) := by
  obtain ⟨hsc, r, u, hread, rfl⟩ := h
  simp only [loadPlaces, run_bind, run_get, run_laneSc hsc, hread, Laws.run_spendAnswers, run_onLanes, run_modify]
  rfl

/-- A step that may be left out, and what follows it in both cases. -/
theorem run_optional {p : Prop} [Decidable p] {m k : Op Unit} {s t : State}
    (h : (if p then m else pure ()).run s = .ok ((), t)) : (if p then m >>= fun _ => k else k).run s = k.run t := by
  by_cases hp : p
  · rw [if_pos hp] at h
    rw [if_pos hp, run_bind, h]
  · rw [if_neg hp] at h
    cases h
    rw [if_neg hp]

/-- Stores to checked places. -/
theorem run_storePlaces {arrives : Bool} (h : StoresTo c q z arrives ps t) :
    (storePlaces c z arrives ps).run q = .ok ((), t) := by
  obtain ⟨hrel, r, u, v, hwrite, hissued, hsc, rfl⟩ := h
  simp only [storePlaces, run_bind, run_get, run_laneBefore hrel, hwrite]
  rw [run_optional hissued]
  simp only [run_bind, run_laneSc hsc, run_modify]

end

/-! ## Forms (R190, R191) -/

section
variable {α : Type} {rule : LaneF → LRule} {s : State} {places : LaneCtx → Op α} {access : LaneCtx → α → Op Unit}

/-- A form whose places are found accesses them. -/
theorem runLane_access {x : α} {t : State} (h : LaneReady rule s)
    (hplaces : (places (laneIn rule s)).run (laneOn rule s) = .ok (x, laneOn rule s))
    (haccess : (access (laneIn rule s) x).run (laneOn rule s) = .ok ((), t)) :
    runLane rule (fun c => do access c (← places c)) s = .next t := by
  refine runLane_ok (u := ()) h ?_
  rw [run_bind, hplaces]
  exact haccess

/-- A form whose places are not found stops there. -/
theorem runLane_noPlace {e : Stop} (h : LaneReady rule s)
    (hplaces : (places (laneIn rule s)).run (laneOn rule s) = .error e) :
    runLane rule (fun c => do access c (← places c)) s = .next (stopLane (laneCtx s) (laneNeeds rule s) e s) := by
  rw [runLane_ready h, run_bind, hplaces]

end

section
variable {i : Instr} {sp : Space} {rule : LaneF → LRule}

/-- A load of a space. -/
theorem laneLoad_of_loadForm (hi : ∀ s, exec i s = loadForm sp rule s) : LaneLoad i sp rule := fun s h =>
  ⟨fun hl => (hi s).trans (runLane_noPlace h (run_allLanes_error hl)),
    fun _ hl ht => (hi s).trans (runLane_access h (run_allLanes_ok hl) (run_loadPlaces ht))⟩

/-- A store to a space. -/
theorem laneStore_of_storeForm (hi : ∀ s, exec i s = storeForm sp rule s) : LaneStore i sp rule := fun s h =>
  ⟨fun hl => (hi s).trans (runLane_noPlace h (run_allLanes_error hl)),
    fun _ hl ht => (hi s).trans (runLane_access h (run_allLanes_ok hl) (run_storePlaces ht))⟩

end

/-! ## Reads that change nothing (R175, R177) -/

/-- Accesses that all succeed and change nothing give each lane its value. -/
theorem run_eachLane_map {α : Type} {f : Nat → Spot → Op (Except LaneEnd α)} {spot : Nat → Spot} {g : Nat × Nat → α}
    {q : State} : ∀ {l : List (Nat × Nat)}, (∀ p ∈ l, (f p.1 (spot p.2)).run q = .ok (.ok (g p), q)) →
      (eachLane f (l.map fun p => (p.1, spot p.2))).run q = .ok ((l.map fun p => (p.1, g p), []), q)
  | [], _ => rfl
  | p :: l, h => by
    have hhead := h p List.mem_cons_self
    have htail := run_eachLane_map fun p hp => h p (List.mem_cons_of_mem _ hp)
    simp only [List.map_cons, eachLane, run_bind, hhead, htail, run_pure]

/-- A lane reads the bytes of a landing, in an attempt or not. -/
theorem run_laneRead_land (g : Agent) (k z uid o : Nat) (q : State) :
    (laneRead g k z (.land uid o)).run q = .ok (.ok (teamBytes q uid false o z), q) := by
  simp [laneRead, spotRead]

/-- A lane reads the bytes of its locker, in an attempt or not. -/
theorem run_laneRead_locker (g : Agent) (k z o : Nat) (q : State) :
    (laneRead g k z (.locker o)).run q = .ok (.ok (lockRead q.me.l.locker k o z), q) := by
  simp [laneRead, spotRead]

end Sys2Proof.Machine

namespace Sys2Proof

open Sys2Proof.Machine Sys2Proof.Claims

/-- Settles O47: each space's load is one form, VGATH loads from its tile's places, PRF does nothing, and reads of landings
and lockers change nothing. -/
theorem laneLoads : Obligations.LaneLoads := by
  refine ⟨laneLoad_of_loadForm Exec.vld, laneLoad_of_loadForm Exec.vldl, laneLoad_of_loadForm Exec.vldm,
    laneLoad_of_loadForm Exec.vlda, laneLoad_of_loadForm Exec.lkld, ?gather, ?prefetch, ?reads⟩
  case gather =>
    intro s h c q z j tile t hj htile l hl ht
    exact (Exec.vgath s).trans (runLane_access h (run_tilePlaces hj htile hl) (run_loadPlaces ht))
  case prefetch => exact laneForm_of_run Exec.prf fun _ _ _ => rfl
  case reads =>
    intro q g z uid l
    exact ⟨run_eachLane_map fun p _ => run_laneRead_land g p.1 z uid p.2 q,
      run_eachLane_map fun p _ => run_laneRead_locker g p.1 z p.2 q⟩

end Sys2Proof

/-! # Landings: bytes read back, swizzles (R177, R178, R180)

O49. A swizzle permutes the 64 banks of each row of a region, so that each byte of a landing has a place of its own; what is
stored at a place is read back there and nowhere else. -/

namespace Sys2Proof.Machine

open Sys2Proof

/-! ## Banks (R178)

In a case split on the mode, cases h_1 to h_8 are modes 0 to 7. -/

/-- A bank is one of 64. -/
theorem bankOf_lt (mode w : Nat) : bankOf mode w < 64 := by
  have hxor {a b : Nat} (ha : a < 64) (hb : b < 64) : a ^^^ b < 64 := Nat.xor_lt_two_pow (n := 6) ha hb
  have hlo : w % 64 < 64 := by omega
  unfold bankOf
  simp only [bitsN]
  split
  case h_1 => exact hlo
  case h_2 => exact hxor hlo (by omega)
  case h_3 => exact hxor hlo (by omega)
  case h_4 => exact hxor hlo (by omega)
  case h_5 => omega
  case h_6 => exact hxor (hxor hlo (by omega)) (by omega)
  case h_7 => omega
  case h_8 => exact hxor hlo (by omega)

/-- Bits of a word's number above the low six are those of its row. -/
theorem bitsN_of_row {w v hi lo : Nat} (hlo : 6 ≤ lo) (hrow : w / 64 = v / 64) : bitsN w hi lo = bitsN v hi lo := by
  have hdiv (x : Nat) : x / 2 ^ lo = x / 64 / 2 ^ (lo - 6) := by
    rw [Nat.div_div_eq_div_mul, show 64 = 2 ^ 6 from rfl, ← Nat.pow_add, Nat.add_sub_cancel' hlo]
  rw [bitsN, bitsN, hdiv w, hdiv v, hrow]

/-- In each mode the words of one row lie in distinct banks. -/
theorem bankOf_injective {mode w v : Nat} (hrow : w / 64 = v / 64) (h : bankOf mode w = bankOf mode v) : w = v := by
  suffices hlo : w % 64 = v % 64 by omega
  unfold bankOf at h
  simp only [hrow, bitsN_of_row (le_refl 6) hrow, bitsN_of_row (show 6 ≤ 12 by omega) hrow] at h
  split at h
  case h_1 => exact h
  case h_2 => exact Nat.xor_left_inj.mp h
  case h_3 => exact Nat.xor_left_inj.mp h
  case h_4 => exact Nat.xor_left_inj.mp h
  case h_5 => omega
  case h_6 => exact Nat.xor_left_inj.mp (Nat.xor_left_inj.mp h)
  case h_7 =>
    simp only [bitsN] at h
    omega
  case h_8 =>
    -- The top bit of a bank gives bit 5 of the word's number, and so all that mode 7 combines the low bits with.
    have htop : bitsN w 10 5 / 2 ^ 5 = bitsN v 10 5 / 2 ^ 5 := by
      simp only [bitsN]
      omega
    have hdiv := congrArg (· / 2 ^ 5) h
    simp only [Nat.xor_div_two_pow, htop] at hdiv
    have hbit : w % 64 / 2 ^ 5 = v % 64 / 2 ^ 5 := Nat.xor_left_inj.mp hdiv
    have hmid : bitsN w 10 5 = bitsN v 10 5 := by
      simp only [bitsN]
      omega
    rw [hmid] at h
    exact Nat.xor_left_inj.mp h

/-! ## Places (R178, R180) -/

/-- A place is that of the region, of the word's row in it, of its bank in that, and of the byte in the bank. -/
theorem landPos_eq (modes : BitVec 24) (o : Nat) : landPos modes o =
    o / 65536 * 65536 + o % 65536 / 8 / 64 * 512 + bankOf (modes.toNat / 8 ^ (o / 65536) % 8) (o % 65536 / 8) * 8 + o % 8 := rfl

/-- A place lies in its region, in the row of its word. -/
theorem landPos_region (modes : BitVec 24) (o : Nat) : landPos modes o / 65536 = o / 65536 := by
  have hbank := bankOf_lt (modes.toNat / 8 ^ (o / 65536) % 8) (o % 65536 / 8)
  rw [landPos_eq]
  omega

/-- No two bytes of a landing lie at one place. -/
theorem landPos_injective (modes : BitVec 24) : Function.Injective (landPos modes) := by
  intro o p h
  have hregion : o / 65536 = p / 65536 := by rw [← landPos_region modes o, h, landPos_region]
  have ho := bankOf_lt (modes.toNat / 8 ^ (o / 65536) % 8) (o % 65536 / 8)
  have hp := bankOf_lt (modes.toNat / 8 ^ (p / 65536) % 8) (p % 65536 / 8)
  rw [landPos_eq, landPos_eq, hregion] at h
  rw [hregion] at ho
  have hrow : o % 65536 / 8 / 64 = p % 65536 / 8 / 64 := by omega
  have hbank : bankOf (modes.toNat / 8 ^ (p / 65536) % 8) (o % 65536 / 8) =
      bankOf (modes.toNat / 8 ^ (p / 65536) % 8) (p % 65536 / 8) := by omega
  have hword : o % 65536 / 8 = p % 65536 / 8 := bankOf_injective hrow hbank
  omega

/-- Under mode 0 a byte lies where its offset says. -/
theorem landPos_of_mode_zero {modes : BitVec 24} {o : Nat} (h : modes.toNat / 8 ^ (o / 65536) % 8 = 0) :
    landPos modes o = o := by
  rw [landPos_eq, h, show bankOf 0 (o % 65536 / 8) = o % 65536 / 8 % 64 from rfl]
  omega

/-- A place depends on the mode of its region alone. -/
theorem landPos_congr {modes modes' : BitVec 24} {o : Nat}
    (h : modes.toNat / 8 ^ (o / 65536) % 8 = modes'.toNat / 8 ^ (o / 65536) % 8) : landPos modes o = landPos modes' o := by
  rw [landPos_eq, landPos_eq, h]

/-- The modes of a team's landing are those of the regions that it holds in full, 0 elsewhere. -/
theorem Team.modes_toNat (t : Team) : t.modes.toNat = t.lswz.toNat % 8 ^ (t.len / 65536) := by
  rw [Team.modes, BitVec.toNat_ofNat, Nat.mod_eq_of_lt ((Nat.mod_le _ _).trans_lt t.lswz.isLt)]

/-- The mode of a region that the landing does not hold in full has no effect (R180). -/
theorem landPos_modes_of_len_lt {t : Team} {o : Nat} (h : t.len < 65536 * (o / 65536 + 1)) : landPos t.modes o = o := by
  have hle : t.len / 65536 ≤ o / 65536 := by omega
  have hlt : t.modes.toNat < 8 ^ (o / 65536) := by
    rw [Team.modes_toNat]
    exact (Nat.mod_lt _ (Nat.pow_pos (by omega))).trans_le (Nat.pow_le_pow_right (by omega) hle)
  exact landPos_of_mode_zero (by rw [Nat.div_eq_of_lt hlt])

/-- The mode of a region that it holds in full is the one that was set (R180). -/
theorem landPos_modes_of_le_len {t : Team} {o : Nat} (h : 65536 * (o / 65536 + 1) ≤ t.len) :
    landPos t.modes o = landPos t.lswz o := by
  obtain ⟨k, hk⟩ : ∃ k, t.len / 65536 = o / 65536 + 1 + k := ⟨t.len / 65536 - (o / 65536 + 1), by omega⟩
  refine landPos_congr ?_
  rw [Team.modes_toNat, hk, Nat.pow_add, Nat.pow_succ, Nat.mul_assoc, Nat.mod_mul_right_div_self,
    Nat.mod_mod_of_dvd _ (Nat.dvd_mul_right 8 _)]

/-! ## Bytes stored and read (R177) -/

/-- A byte that is set reads back, and every other byte reads as before. -/
theorem Mem.get_set (a b : Nat) (x : Byte) : ∀ (lo : Nat) (m : Mem), Mem.wfFrom lo m = true →
    (m.set a x).get b = if a = b then x else m.get b
  | _, [], _ => by
    rw [Mem.set]
    split
    · rename_i hx
      rw [hx, Mem.get, ite_self]
    · rfl
  | _, (k, c) :: m, h => by
    simp only [Mem.wfFrom, Bool.and_eq_true] at h
    obtain ⟨-, hm⟩ := h
    have hlow (hb : b < k + 1) : Mem.get m b = 0 := Mem.get_of_lt m (k + 1) b hm hb
    have ih := Mem.get_set a b x (k + 1) m hm
    rw [Mem.set]
    split
    · split
      · rw [Mem.get]
        by_cases hab : a = b
        · rw [if_neg (by omega), if_pos hab, hlow (by omega), ‹x = 0›]
        · rw [if_neg hab]
      · rfl
    · split
      · rename_i hak
        subst hak
        split
        · rw [Mem.get]
          by_cases hab : a = b
          · rw [if_pos hab, hlow (by omega), ‹x = 0›]
          · rw [if_neg hab, if_neg hab]
        · rw [Mem.get, Mem.get]
          by_cases hab : a = b
          · rw [if_pos hab, if_pos hab]
          · rw [if_neg hab, if_neg hab, if_neg hab]
      · rw [Mem.get, Mem.get, ih]
        by_cases hkb : k = b
        · rw [if_pos hkb, if_neg (by omega), if_pos hkb]
        · rw [if_neg hkb, if_neg hkb]

/-- A byte that is set at its place reads back, and a landing's other bytes read as before. -/
theorem get_set_landPos {m : Mem} (modes : BitVec 24) (o p : Nat) (x : Byte) (h : m.wf = true) :
    (m.set (landPos modes o) x).get (landPos modes p) = if o = p then x else m.get (landPos modes p) := by
  simp only [Mem.get_set _ _ x 0 m h, (landPos_injective modes).eq_iff]

/-- Bytes outside those stored read as before. -/
theorem get_landWrite_of_outside (modes : BitVec 24) {p : Nat} : ∀ (bs : List Byte) {m : Mem} {o : Nat}, m.wf = true →
    p < o ∨ o + bs.length ≤ p → (landWrite m modes o bs).get (landPos modes p) = m.get (landPos modes p)
  | [], _, _, _, _ => rfl
  | b :: bs, m, o, h, hp => by
    rw [List.length_cons] at hp
    rw [landWrite, get_landWrite_of_outside modes bs (Mem.wf_set m _ b h) (by omega), get_set_landPos modes o p b h,
      if_neg (by omega)]

/-- Bytes stored read back. -/
theorem landRead_landWrite (modes : BitVec 24) : ∀ (bs : List Byte) {m : Mem} {o : Nat}, m.wf = true →
    landRead (landWrite m modes o bs) modes o bs.length = bs
  | [], _, _, _ => rfl
  | b :: bs, m, o, h => by
    have hset : (m.set (landPos modes o) b).wf = true := Mem.wf_set m _ b h
    have hhead : (landWrite (m.set (landPos modes o) b) modes (o + 1) bs).get (landPos modes o) = b := by
      rw [get_landWrite_of_outside modes bs hset (by omega), get_set_landPos modes o o b h, if_pos rfl]
    rw [List.length_cons, landRead, landWrite, hhead, landRead_landWrite modes bs hset]

end Sys2Proof.Machine

namespace Sys2Proof

open Sys2Proof.Machine Sys2Proof.Claims

/-- R178, R180: places are injective and stay in their region, and a mode counts where its region is held in full. -/
theorem swizzleIsInjective : SwizzleIsInjective :=
  ⟨fun modes o _ => ⟨fun h => landPos_injective modes h, landPos_region modes o⟩,
    fun _ _ => ⟨landPos_modes_of_len_lt, landPos_modes_of_le_len⟩⟩

/-- R174 to R177, R181 to R183, R190, R191, R193, R197, R241: each space's store is one form, VSCAT stores at its tile's
places, and a landing gives back what is stored there. -/
theorem laneStores : LaneStores := by
  refine ⟨laneStore_of_storeForm Exec.vst, laneStore_of_storeForm Exec.vstl, laneStore_of_storeForm Exec.vstm,
    laneStore_of_storeForm Exec.xst, laneStore_of_storeForm Exec.vsta, laneStore_of_storeForm Exec.lkst, ?scatter, ?landing⟩
  case scatter =>
    intro s h c q z j tile t hj htile l hl ht
    exact (Exec.vscat s).trans (runLane_access h (run_tilePlaces hj htile hl) (run_storePlaces ht))
  case landing =>
    intro t o bs h m
    refine ⟨landRead_landWrite t.modes bs h, fun x hx => ?_⟩
    rw [landRead, landRead, get_landWrite_of_outside t.modes bs h hx]
    rfl

/-- Settles O49: the forms of the stores with what a landing reads back, and the places of a landing's bytes. -/
theorem laneStoresAndScratch : Obligations.LaneStoresAndScratch := ⟨laneStores, swizzleIsInjective⟩

end Sys2Proof

/-! # Claim tickets (R203 to R226)

O23 to O27. First what an entry reads after it is put or spent, and what the tests of a ticket say of the entry that it names;
then the forms in terms of these. -/

namespace Sys2Proof.Machine

open Sys2Proof Sys2Proof.Claims

/-! ## Entries (R206, R207) -/

@[simp] theorem settleClk_cloaks (s : State) : (settleClk s).cloaks = s.cloaks := by
  unfold settleClk
  split <;> rfl

@[simp] theorem settleClk_me (s : State) : (settleClk s).me = s.me := by
  unfold settleClk
  split <;> rfl

@[simp] theorem settleClk_ctxs (s : State) : (settleClk s).ctxs = s.ctxs := by
  unfold settleClk
  split <;> rfl

/-- An entry that the cloakrooms hold. -/
theorem cloakAt_of_find? {s : State} {id : EntryId} {e : Cloak} (h : s.cloaks.find? (fun x => x.id == id) = some e) :
    cloakAt s id = e := by
  rw [cloakAt, h, Option.getD_some]

/-- An entry is found under its own name. -/
theorem cloakAt_id (s : State) (id : EntryId) : (cloakAt s id).id = id := by
  unfold cloakAt
  cases h : s.cloaks.find? (fun x => x.id == id) with
  | none => rfl
  | some e => simpa using List.find?_some h

/-- An entry that is put reads as put. -/
theorem find?_putCloak (e : Cloak) (s : State) : (putCloak e s).cloaks.find? (fun x => x.id == e.id) = some e :=
  List.find?_cons_of_pos (by simp)

/-- A spent entry reads SPENT, with its name, generation, size and context (R207). -/
theorem cloakAt_spendCloak (e : Cloak) (s : State) :
    cloakAt (spendCloak e s) e.id = { e.forsake with spentAt := s.nextOp } := by
  refine cloakAt_of_find? ?_
  rw [spendCloak, settleClk_cloaks]
  exact find?_putCloak { e.forsake with spentAt := s.nextOp } s

@[simp] theorem spendCloak_me (e : Cloak) (s : State) : (spendCloak e s).me = s.me := settleClk_me _

@[simp] theorem spendCloak_ctxs (e : Cloak) (s : State) : (spendCloak e s).ctxs = s.ctxs := settleClk_ctxs _

/-! ## What a ticket holds (R203, R204) -/

/-- The number of a ticket without its check value (R203). -/
def ticketNumber (e : EntryId) (gen : BitVec 16) (size : Nat) : Nat :=
  2 ^ 63 + e.die * 2 ^ 61 + e.slice * 2 ^ 55 + e.entry * 2 ^ 43 + gen.toNat * 2 ^ 27 + size * 2 ^ 23

/-- A check value has 16 bits. -/
theorem ticketCheck_lt (t key : Word) : ticketCheck t key < 2 ^ 16 := by
  have hslice (w : Word) (k : Nat) : slice w (k + 15) k < 2 ^ 16 := by
    rw [slice, bitsN, show k + 15 + 1 - k = 16 by omega]
    exact Nat.mod_lt _ (by decide)
  exact Nat.xor_lt_two_pow (Nat.xor_lt_two_pow (Nat.xor_lt_two_pow (hslice _ 48) (hslice _ 32)) (hslice _ 16)) (hslice _ 0)

/-- A check value depends on the upper 44 bits alone. -/
theorem ticketCheck_congr {t u : Word} (key : Word) (h : t.toNat / 2 ^ 20 = u.toNat / 2 ^ 20) :
    ticketCheck t key = ticketCheck u key := by
  have hshift : t >>> 20 = u >>> 20 := by
    apply BitVec.eq_of_toNat_eq
    simpa only [BitVec.toNat_ushiftRight, Nat.shiftRight_eq_div_pow] using h
  rw [ticketCheck, ticketCheck, hshift]

section
variable {e : EntryId} {gen : BitVec 16} {size : Nat} (key : Word)
variable (hdie : e.die < 4) (hslice : e.slice < 64) (hentry : e.entry < 4096) (hsize : size < 16)
include hdie hslice hentry hsize

/-- The check value stands below the other fields. -/
theorem toNat_ticketWord : (ticketWord e gen size key).toNat =
    ticketNumber e gen size + ticketCheck (ticketWord e gen size key) key * 16 := by
  have hgen := gen.isLt
  have hlt : ticketNumber e gen size < 2 ^ 64 := by
    unfold ticketNumber
    omega
  obtain ⟨k, hk⟩ : ∃ k, ticketNumber e gen size = 2 ^ 20 * k := ⟨ticketNumber e gen size / 2 ^ 20, by
    unfold ticketNumber
    omega⟩
  have hword (c : Nat) (hc : c < 2 ^ 16) : (BitVec.ofNat 64 (ticketNumber e gen size) ||| BitVec.ofNat 64 (c * 16)).toNat =
      ticketNumber e gen size + c * 16 := by
    rw [BitVec.toNat_or, BitVec.toNat_ofNat, BitVec.toNat_ofNat, Nat.mod_eq_of_lt hlt, Nat.mod_eq_of_lt (by omega), hk,
      Nat.two_pow_add_eq_or_of_lt (by omega)]
  have hc := ticketCheck_lt (BitVec.ofNat 64 (ticketNumber e gen size)) key
  have h := hword _ hc
  have hsame : ticketCheck (ticketWord e gen size key) key = ticketCheck (BitVec.ofNat 64 (ticketNumber e gen size)) key := by
    refine ticketCheck_congr key ?_
    rw [show (ticketWord e gen size key).toNat = _ from h, BitVec.toNat_ofNat, Nat.mod_eq_of_lt hlt]
    omega
  rw [hsame]
  exact h

/-- R203, R204: the fields of a ticket. -/
theorem ticketWord_fields : let t := ticketWord e gen size key
    t.getLsbD 63 = true ∧ ticketEntry t = e ∧ ticketGen t = gen.toNat ∧ ticketSize t = size ∧
      slice t 22 20 = 0 ∧ slice t 3 0 = 0 ∧ slice t 19 4 = ticketCheck t key := by
  intro t
  have hgen := gen.isLt
  have hc := ticketCheck_lt t key
  have ht : t.toNat = ticketNumber e gen size + ticketCheck t key * 16 := toNat_ticketWord key hdie hslice hentry hsize
  unfold ticketNumber at ht
  refine ⟨?_, ?_, ?_, ?_, ?_, ?_, ?_⟩
  · rw [BitVec.getLsbD, Nat.testBit_eq_decide_div_mod_eq, decide_eq_true_eq]
    omega
  · obtain ⟨die, sl, entry⟩ := e
    simp only [ticketEntry, slice, bitsN, EntryId.mk.injEq]
    dsimp only at *
    refine ⟨?_, ?_, ?_⟩ <;> omega
  all_goals
    simp only [ticketGen, ticketSize, slice, bitsN]
    omega

end

end Sys2Proof.Machine

namespace Sys2Proof.Machine

open Sys2Proof Sys2Proof.Claims

/-! ## The tests of a ticket (R219) -/

/-- A ticket names an entry in use of the runner in focus: it passes every test of R219 but that of a spent entry. -/
structure NamesEntry (s : State) (t : Word) (e : Cloak) : Prop where
  valid : t.getLsbD 63 = true
  reserved : slice t 22 20 = 0 ∧ slice t 3 0 = 0
  slices : (ticketEntry t).die = 3 → (ticketEntry t).slice ≤ 15
  check : slice t 19 4 = ticketCheck t (tkeyOf s s.me.ctx)
  entry : cloakAt s (ticketEntry t) = e
  gen : e.gen.toNat = ticketGen t
  used : e.st ≠ .free
  ctx : e.ctx = s.me.ctx
  size : e.size = ticketSize t

section
variable {s : State} {t : Word} {e : Cloak}

/-- Such a ticket is refused where its entry is claimed or spent, and else gives the entry. -/
theorem checkTicket_of_namesEntry (h : NamesEntry s t e) :
    checkTicket s t = if e.st = .claimed ∨ e.st = .spent then .error 0x41 else .ok e := by
  have hid : e.id = ticketEntry t := h.entry ▸ cloakAt_id s _
  have hslice : (e.id.die == 3 && decide (15 < e.id.slice)) = false := by
    have := h.slices
    rw [hid]
    simp
    omega
  simp only [checkTicket, h.entry, h.valid, h.reserved, h.check, hslice, h.gen, h.used, h.ctx, h.size]
  simp

/-- A ticket that passes every test names its entry, which is neither claimed nor spent. -/
theorem namesEntry_of_checkTicket (h : checkTicket s t = .ok e) : NamesEntry s t e ∧ (e.st = .pending ∨ e.st = .ready) := by
  unfold checkTicket at h
  dsimp only at h
  split at h
  · cases h
  rename_i hword
  split at h
  · cases h
  rename_i hgen
  split at h
  · cases h
  rename_i hnamed
  split at h
  · cases h
  rename_i hst
  cases h
  have hid : (cloakAt s (ticketEntry t)).id = ticketEntry t := cloakAt_id s _
  simp only [hid, Bool.or_eq_true, not_or, Bool.not_eq_true, Bool.not_eq_false', bne_eq_false_iff_eq, Bool.and_eq_false_iff,
    beq_eq_false_iff_ne, decide_eq_false_iff_not, Nat.not_lt] at hword
  obtain ⟨⟨⟨⟨hvalid, hhigh⟩, hlow⟩, hslice⟩, hcheck⟩ := hword
  simp only [not_or, ne_eq, not_not] at hgen hnamed hst
  obtain ⟨hused, hctx, hsize⟩ := hnamed
  have hslices : (ticketEntry t).die = 3 → (ticketEntry t).slice ≤ 15 := fun h3 => hslice.resolve_left fun h => h h3
  refine ⟨⟨hvalid, ⟨hhigh, hlow⟩, hslices, hcheck, rfl, hgen, hused, hctx, hsize⟩, ?_⟩
  cases hc : (cloakAt s (ticketEntry t)).st <;> simp_all

/-- It still names its entry once that is spent. -/
theorem NamesEntry.spend (h : NamesEntry s t e) : NamesEntry (spendCloak e s) t { e.forsake with spentAt := s.nextOp } where
  valid := h.valid
  reserved := h.reserved
  slices := h.slices
  check := by
    rw [tkeyOf, ctx?, spendCloak_me, spendCloak_ctxs]
    exact h.check
  entry := by
    have hid : e.id = ticketEntry t := h.entry ▸ cloakAt_id s _
    rw [← hid, cloakAt_spendCloak]
  gen := h.gen
  used := nofun
  ctx := h.ctx.trans (congrArg Runner.ctx (spendCloak_me e s)).symm
  size := h.size

/-- A ticket whose entry is spent is refused (R219). -/
theorem checkTicket_spendCloak (h : checkTicket s t = .ok e) : checkTicket (spendCloak e s) t = .error 0x41 := by
  obtain ⟨hnames, -⟩ := namesEntry_of_checkTicket h
  rw [checkTicket_of_namesEntry hnames.spend]
  exact if_pos (.inr rfl)

/-- A redemption is refused with what its ticket is refused with. -/
theorem checkRedeem_of_checkTicket_error {c : Nat} (fits : Nat → Bool) (h : checkTicket s t = .error c) :
    checkRedeem s t fits = .error c := by
  rw [checkRedeem, h]

end

/-! ## A new ticket (R206, R210, R216) -/

/-- The generation of an entry that is allocated anew: the next one where it was spent. -/
def nextGen (old : Cloak) : BitVec 16 := if old.st = .spent then old.gen + 1 else old.gen

/-- A ticketed load that finds an entry takes it: PENDING, of its issuer, with the lease of its code. The rest of the state
keeps the runner and the contexts. -/
theorem newTicket_some {code size : Nat} {sc : Bool} {tr : Tr} {s u : State} {w : Word}
    (h : newTicket code size sc tr s = some (w, u)) : ∃ e : Cloak,
      u.cloaks.find? (fun x => x.id == e.id) = some e ∧ u.me = s.me ∧ u.ctxs = s.ctxs ∧
      w = ticketWord e.id e.gen size (tkeyOf s s.me.ctx) ∧ e.st = .pending ∧ e.size = size ∧ e.ctx = s.me.ctx ∧
      e.part = s.me.part ∧ e.src = tr.pa ∧ e.lease = leaseOf code (tldefOf s s.me.ctx) := by
  obtain ⟨old, -, heq⟩ := Option.map_eq_some_iff.mp h
  cases heq
  refine ⟨⟨old.id, .pending, nextGen old, s.me.ctx, s.me.part, size, leaseOf code (tldefOf s s.me.ctx), false, tr.pa,
    (keyId s tr.key).getD 0, s.me.die, s.me.id, false, sc, [], [], none, 0, none⟩,
    ?_, ?_, ?_, rfl, rfl, rfl, rfl, rfl, rfl, rfl⟩
  · exact List.find?_cons_of_pos (by simp)
  · dsimp only [putCloak]
    split <;> rfl
  · dsimp only [putCloak]
    split <;> rfl

end Sys2Proof.Machine

namespace Sys2Proof

open Sys2Proof.Machine Sys2Proof.Claims

/-- R203, R204: the fields of a ticket are those that it was made of. -/
theorem ticketFields : TicketFields := fun _ _ _ key hdie hslice hentry hsize =>
  ticketWord_fields key hdie hslice hentry hsize

/-- R206, R210, R216, R219: the ticket of a load names the PENDING entry that the load allocates. -/
theorem ticketIsValid : TicketIsValid := by
  intro s u code size sc tr w hsize h
  obtain ⟨e, hfind, hme, hctxs, hw, hst, hesize, hctx, hpart, hsrc, hlease⟩ := newTicket_some h
  refine ⟨e, hfind, hst, hesize, hctx, hpart, hsrc, hlease, hw, fun hdie hslice hentry => ?_⟩
  have hslice64 : e.id.slice < 64 := by
    split at hslice <;> omega
  obtain ⟨hvalid, hid, hgen, hsz, hhigh, hlow, hcheck⟩ :=
    ticketWord_fields (gen := e.gen) (tkeyOf s s.me.ctx) hdie hslice64 hentry (show size < 16 by omega)
  rw [← hw] at hvalid hid hgen hsz hhigh hlow hcheck
  have hnames : NamesEntry u w e :=
    { valid := hvalid
      reserved := ⟨hhigh, hlow⟩
      slices := fun h3 => by
        rw [hid] at h3 ⊢
        rw [if_pos h3] at hslice
        omega
      check := by
        rw [tkeyOf, ctx?, hme, hctxs]
        exact hcheck
      entry := hid ▸ cloakAt_of_find? hfind
      gen := hgen.symm
      used := by rw [hst]; nofun
      ctx := hme ▸ hctx
      size := hesize.trans hsz.symm }
  rw [checkTicket_of_namesEntry hnames, hst]
  rfl

/-- Settles O26: a ticket reads back what it was made of, so a new one names its entry, and it still does once that is
spent. -/
theorem ticketLife : Obligations.TicketLife :=
  ⟨ticketFields, ticketIsValid, fun _ _ _ fits h =>
    ⟨checkTicket_spendCloak h, checkRedeem_of_checkTicket_error fits (checkTicket_spendCloak h)⟩⟩

end Sys2Proof

/-! # The lead forms of tickets (R215, R216, R219 to R221, R223, R225, R226)

O23, O27. Every form on a ticket asks the same checks first, so what a refused ticket and a valid one leave of a form is said
once; a redemption then differs from another in its destination alone. -/

namespace Sys2Proof.Machine

open Sys2Proof Sys2Proof.Claims

/-! ## Forms on a ticket (R214, R219) -/

/-- What a form does whose ticket is refused with a code (R214, R224). -/
def refusedForm (sq : Option Reg) (code : Nat) (t : Word) (s : State) : State :=
  match sq with
  | some r => writes r (BitVec.ofNat 64 code) s
  | none => leadTrap code t s.issue.pc s

section
variable {s : State} {f : Unit → Op Unit}

/-- What is left of a form of a context, outside a transaction, once these checks have passed. -/
theorem runLead_ctxForm (hctx : s.me.ctx ≠ 0) (htx : s.me.tx.active = false) :
    runLead (needCtx >>= fun _ => notInTx >>= f) s = runLead (f ()) s := by
  refine (runLead_bind_ok (x := ()) ?_).trans (runLead_bind_ok (x := ()) ?_)
  · rw [run_needCtx, Laws.onward_ctx, if_neg hctx]
  · rw [run_notInTx, Laws.onward_tx, htx]
    rfl

end

section
variable {s : State} {a : Reg} {sq : Option Reg} {fits : Nat → Bool} {k : Word → Cloak → Op Unit}

/-- A form whose ticket passes goes on with its entry. -/
theorem runLead_withTicket_ok {e : Cloak} (hctx : s.me.ctx ≠ 0) (htx : s.me.tx.active = false)
    (h : checkRedeem (onward s) (s.me.sreg a) fits = .ok e) :
    runLead (withTicket a sq fits k) s = runLead (k (s.me.sreg a) e) s := by
  have hrun : (withTicket a sq fits k).run (onward s) = (k (s.me.sreg a) e).run (onward s) :=
    Laws.run_withTicket_ok hctx htx h
  unfold onward at hrun
  simp only [runLead, hrun]

/-- A form whose ticket is refused. -/
theorem runLead_withTicket_error {c : Nat} (hctx : s.me.ctx ≠ 0) (htx : s.me.tx.active = false)
    (h : checkRedeem (onward s) (s.me.sreg a) fits = .error c) :
    runLead (withTicket a sq fits k) s = .next (refusedForm sq c (s.me.sreg a) s) := by
  have hrun : (withTicket a sq fits k).run (onward s) = (refuse sq c (s.me.sreg a)).run (onward s) :=
    Laws.run_withTicket_error hctx htx h
  cases sq with
  | some r => exact runLead_ok (u := ()) hrun
  | none => exact runLead_error (e := .trap c (s.me.sreg a)) hrun

end

/-! ## Redemptions (R220, R221) -/

section
variable {s : State} {e : Cloak} {t : Word} {d : Deliver} {mark : State → State}

/-- Poisoned data are a fatal cause (R220). -/
theorem run_redeemLead_poisoned (hb : deliveryBlocked s s.me.id d = false) (hst : e.st = .ready) (hp : e.poison = true) :
    (redeemLead e t d mark).run s = .error (.park fun s => leadTrap 0xA1 t s.issue.pc (spendCloak e (markDirty s))) := by
  simp only [redeemLead, run_bind, run_get, hb, hst, hp, Bool.not_false, run_readyIf_true, if_true, run_throw]

/-- An entry that waits for its data is claimed, and the stream waits (R220). -/
theorem run_redeemLead_pending (hb : deliveryBlocked s s.me.id d = false) (hst : e.st = .pending) :
    (redeemLead e t d mark).run s = .error (.park fun s =>
      { claimCloak e d (markDirty (mark s)) with me := { s.me with wait := .redeem } }) := by
  simp only [redeemLead, run_bind, run_get, hb, hst, Bool.not_false, run_readyIf_true, reduceCtorEq, if_false, run_throw]

end

section
variable {a d : Reg} {sq : Option Reg}

/-- A form that, once its destination has been checked, redeems the entry of its ticket there. -/
theorem redeems_of_withTicket {i : Instr} {fits : Nat → Bool} {prep : State → State} {marks : State → Bool}
    {dest : State → Deliver} {ready : State → Prop}
    (h : ∀ s : State, s.me.ctx ≠ 0 → s.me.tx.active = false → ready (onward s) → ∃ k : Word → Cloak → Op Unit,
      exec i s = runLead (withTicket a sq fits k) s ∧ ∀ t e, marks (onward s) = true →
        (k t e).run (onward s) = (redeemLead e t (dest (onward s)) prep).run (onward s)) :
    Redeems i a sq fits prep marks dest ready := by
  intro s hctx htx hready q t
  obtain ⟨k, hi, hk⟩ := h s hctx htx hready
  refine ⟨fun c hc => ?_, fun e he hm hb => ?_⟩
  · rw [hi, runLead_withTicket_error hctx htx hc]
    cases sq <;> rfl
  · rw [hi, runLead_withTicket_ok hctx htx he]
    refine ⟨fun hst hp => ?_, fun hst hp => ?_, fun hst => ?_⟩
    · exact runLead_ok ((hk t e hm).trans (Laws.run_redeemLead_ready hb hst hp))
    · exact runLead_error ((hk t e hm).trans (run_redeemLead_poisoned hb hst hp))
    · exact runLead_error ((hk t e hm).trans (run_redeemLead_pending hb hst))

/-- A redemption to a register (R221). -/
theorem redeems_of_redeemForm {i : Instr} (hi : ∀ s, exec i s = redeemForm d a sq s) :
    Redeems i a sq (· == 0) id (fun _ => true) (fun s => .reg d sq s.issue.next) fun _ => True :=
  redeems_of_withTicket fun s _ _ _ => ⟨_, hi s, fun _ _ _ => rfl⟩

/-- REDEEML to memory that passes its checks goes on to its ticket. -/
theorem redeemlMem_storesAt {s : State} {x : BitVec 3} {l : List (Tr × Nat)} (hctx : s.me.ctx ≠ 0)
    (htx : s.me.tx.active = false) (h : StoresAt a d x (onward s) l) :
    redeemlMem d a x sq s = runLead (withTicket a sq (fun _ => true) fun t e => do
      readyIf (piecesReady l (onward s))
      redeemLead e t (memDest l sq (onward s)) (markPieces l)) s := by
  obtain ⟨hpieces, hlocked, halign⟩ := h
  refine (runLead_ctxForm hctx htx).trans (runLead_get.trans (runLead_reg.trans (runLead_reg.trans
    ((runLead_bind_ok (run_getXb x _)).trans ?_))))
  dsimp only
  rw [onward_sreg, onward_sreg] at hpieces
  rw [hpieces]
  refine (runLead_need_true ?_).trans ((runLead_need_true ?_).trans rfl)
  · rw [hlocked]
    rfl
  · exact beq_iff_eq.mpr halign

/-- A redemption to memory (R221). -/
theorem redeems_of_redeemlMem {i : Instr} {x : BitVec 3} (l : List (Tr × Nat)) (hi : ∀ s, exec i s = redeemlMem d a x sq s) :
    Redeems i a sq (fun _ => true) (markPieces l) (piecesReady l) (memDest l sq) fun s => StoresAt a d x s l :=
  redeems_of_withTicket fun s hctx htx h => ⟨_, (hi s).trans (redeemlMem_storesAt hctx htx h), fun t e hm => by
    rw [run_bind, hm, run_readyIf_true]⟩

/-- REDEEML to a landing that passes its checks goes on to its ticket. -/
theorem redeemlLand_landsAt {s : State} {t : Team} {off : Nat} (hctx : s.me.ctx ≠ 0) (htx : s.me.tx.active = false)
    (h : LandsAt a d (onward s) t off) : redeemlLand d a sq s = runLead (withTicket a sq (fun _ => true) fun w e =>
      redeemLead e w (.land t.uid off t.modes sq s.issue.next) id) s := by
  obtain ⟨hg, hteam, hland⟩ := h
  refine (runLead_needGroup_group (s := s) hg).trans ((runLead_ctxForm hctx htx).trans (runLead_get.trans
    (runLead_reg.trans ?_)))
  dsimp only
  rw [hteam]
  refine runLead_reg.trans ?_
  rw [onward_sreg, onward_sreg] at hland
  rw [hland]
  rfl

/-- A redemption to the landing (R221). -/
theorem redeems_of_redeemlLand {i : Instr} (t : Team) (off : Nat) (hi : ∀ s, exec i s = redeemlLand d a sq s) :
    Redeems i a sq (fun _ => true) id (fun _ => true) (fun s => .land t.uid off t.modes sq s.issue.next)
      fun s => LandsAt a d s t off :=
  redeems_of_withTicket fun s hctx htx h => ⟨_, (hi s).trans (redeemlLand_landsAt hctx htx h), fun _ _ _ => rfl⟩

end

/-! ## TDROP, TSTAT and TLEASE (R223, R225, R226) -/

section
variable {s : State} {d a b : Reg} {sq : Option Reg}

/-- What a quiet form that succeeds leaves: 0 in its status register (R214). -/
def succeeded (sq : Option Reg) (s : State) : State :=
  match sq with
  | some r => { s with me := { s.me with s := sregSet s.me.s r 0 } }
  | none => s

theorem run_okStatus (sq : Option Reg) (s : State) : (okStatus sq).run s = .ok ((), succeeded sq s) := by
  cases sq <;> rfl

/-- An entry with the lease that a code gives it in the context in focus (R210, R226). -/
def leasedAs (code : Nat) (e : Cloak) (s : State) : State :=
  putCloak { e with lease := leaseOf (min code 0xFFFF) (tldefOf s s.me.ctx) } s

/-- TSTAT writes the state of the entry, whatever the ticket (R225). -/
theorem execTstat_next (hctx : s.me.ctx ≠ 0) : execTstat d a s = .next (writes d (tstatWord (onward s) (s.me.sreg a)) s) := by
  refine (runLead_bind_ok (x := ()) ?_).trans (runLead_reg.trans (runLead_get.trans (runLead_ok (run_setReg _ _ _))))
  rw [run_needCtx, Laws.onward_ctx, if_neg hctx]

/-- TDROP spends the entry (R223). -/
theorem dropForm_next {e : Cloak} (hctx : s.me.ctx ≠ 0) (htx : s.me.tx.active = false)
    (h : checkRedeem (onward s) (s.me.sreg a) (fun _ => true) = .ok e) :
    dropForm a sq s = .next (succeeded sq (spendCloak e (markDirty (onward s)))) := by
  refine (runLead_withTicket_ok hctx htx h).trans (runLead_ok (u := ()) ?_)
  rw [run_bind, run_modify]
  exact run_okStatus sq _

/-- TLEASE sets the lease and reads the entry back (R226). -/
theorem leaseForm_next {e : Cloak} (hctx : s.me.ctx ≠ 0) (htx : s.me.tx.active = false)
    (h : checkRedeem (onward s) (s.me.sreg a) (fun _ => true) = .ok e) :
    let u := leasedAs (s.me.sreg b).toNat e (onward s)
    leaseForm d a b sq s = .next (succeeded sq
      { u with me := { u.me with s := sregSet u.me.s d (tstatWord u (s.me.sreg a)) } }) := by
  refine (runLead_withTicket_ok hctx htx h).trans (runLead_reg.trans (runLead_ok (u := ()) ?_))
  simp only [run_bind, run_modify, run_get, run_setReg, run_okStatus]
  rfl

end

end Sys2Proof.Machine

namespace Sys2Proof

open Sys2Proof.Machine Sys2Proof.Claims

/-- R219 to R221: each redemption is a form on a ticket, once its destination has been checked. -/
theorem ticketRedemption : TicketRedemption :=
  ⟨fun _ _ => redeems_of_redeemForm fun s => Exec.redeem s, fun _ _ _ => redeems_of_redeemForm fun s => Exec.redeemQ s,
    fun _ _ _ l => redeems_of_redeemlMem l fun s => Exec.redeeml s,
    fun _ _ _ _ l => redeems_of_redeemlMem l fun s => Exec.redeemlQ s,
    fun _ _ t off => redeems_of_redeemlLand t off fun s => Exec.redeemlLanding s,
    fun _ _ _ _ t off => redeems_of_redeemlLand t off fun s => Exec.redeemlQ s⟩

/-- R223, R225, R226: the upkeep forms, plain and quiet. -/
theorem ticketUpkeep : TicketUpkeep := by
  intro s d a b sq hctx q t
  refine ⟨(Exec.tstat s).trans (execTstat_next hctx), fun htx e he => ?ok, fun htx c hc => ?refused⟩
  case ok =>
    exact ⟨(Exec.tdrop s).trans (dropForm_next hctx htx he), (Exec.tdropQ s).trans (dropForm_next hctx htx he),
      (Exec.tlease s).trans (leaseForm_next hctx htx he), (Exec.tleaseQ s).trans (leaseForm_next hctx htx he)⟩
  case refused =>
    exact ⟨(Exec.tdrop s).trans (runLead_withTicket_error hctx htx hc),
      (Exec.tdropQ s).trans (runLead_withTicket_error hctx htx hc),
      (Exec.tlease s).trans (runLead_withTicket_error hctx htx hc),
      (Exec.tleaseQ s).trans (runLead_withTicket_error hctx htx hc)⟩

/-- Settles O27: the redemptions, and the forms that drop an entry, read it or lease it anew. -/
theorem ticketUse : Obligations.TicketUse := ⟨ticketRedemption, ticketUpkeep⟩

end Sys2Proof

namespace Sys2Proof.Machine

open Sys2Proof Sys2Proof.Claims

/-! ## Ticketed loads (R215, R216) -/

/-- What a lead instruction answers. -/
theorem runLead_eq (m : Op Unit) (s : State) : runLead m s = match m.run (onward s) with
    | .ok p => .next p.2
    | .error e => .next (stopLead e s) := by
  cases h : m.run (onward s) with
  | ok p => exact runLead_ok h
  | error e => exact runLead_error h

/-- An order that the instruction takes. -/
theorem run_ordIn {allowed : List Nat} {s : State} (h : allowed.contains (orderOf s).2 = true) :
    (ordIn allowed).run s = .ok (orderOf s, s) := by
  rw [ordIn, run_bind, Laws.run_orderOf]
  simp only [run_bind, run_needField, h, if_true, run_pure]

section
variable {s : State} {d a : Reg} {x : BitVec 3} {z : BitVec 4} {code : Nat} {try_ : Bool} {va : Word} {tr : Tr}

/-- The order in force does not depend on the program counter. -/
theorem orderOf_onward (s : State) : orderOf (onward s) = orderOf s := rfl

/-- The state in which a ticketed load allocates its entry: its release part has taken effect, its page is marked. -/
def loadMarked (s : State) (tr : Tr) : State := markAccess (released (onward s)) (released (onward s)).me tr false

/-- What a ticketed load that passes its checks delivers: its ticket, or where the cloakroom is full 0 in the try form and a
trap in the others (R216). -/
theorem tloadForm_next (hctx : s.me.ctx ≠ 0) (htx : s.me.tx.active = false)
    (hord : [0, 2, 4].contains (orderOf s).2 = true) (hrel : CanRelease (onward s))
    (hvia : viaXb (onward s) (onward s).me (vget s.me.xb x.toNat) (s.me.sreg a).toInt (2 ^ (z.toNat + 3)) Need.read =
      (va, .ok tr))
    (halign : va.toNat % 2 ^ (z.toNat + 3) = 0) (hrange : rangeHit (onward s) s.me.part tr.pa (2 ^ (z.toNat + 3)) false = false)
    (hmark : markReady (released (onward s)) (released (onward s)).me tr false = true) :
    tloadForm d a x z code try_ s =
      .next (match newTicket code z.toNat ((orderOf s).2 == 4) tr (loadMarked s tr) with
        | some p => { p.2 with me := { p.2.me with s := sregSet p.2.me.s d p.1 } }
        | none =>
          if try_ then { loadMarked s tr with me := { (loadMarked s tr).me with s := sregSet (loadMarked s tr).me.s d 0 } }
          else leadTrap 0x44 va s.issue.pc s) := by
  have hbefore : (before (orderOf s).1 (orderOf s).2).run (onward s) = .ok ((), released (onward s)) := Laws.run_before hrel
  have hmarked : (markPageOf (released (onward s)).me tr false).run (released (onward s)) = .ok ((), loadMarked s tr) :=
    Laws.run_markPageOf hmark
  refine (runLead_bind_ok (run_ordIn hord)).trans ((runLead_ctxForm hctx htx).trans (runLead_get.trans
    ((runLead_bind_ok (run_getXb x _)).trans (runLead_reg.trans ?_))))
  dsimp only
  rw [show viaXb (onward s) (onward s).me (vget (onward s).me.xb x.toNat) _ _ _ = _ from hvia]
  refine (runLead_need_true (beq_iff_eq.mpr halign)).trans ((runLead_need_true ?_).trans ?_)
  · rw [show rangeHit (onward s) (onward s).me.part tr.pa _ false = false from hrange]
    rfl
  rw [runLead_eq]
  simp only [run_bind, orderOf_onward, hbefore, run_get, hmarked]
  cases newTicket code z.toNat ((orderOf s).2 == 4) tr (loadMarked s tr) with
  | some p => rfl
  | none => cases try_ <;> rfl

end

end Sys2Proof.Machine

namespace Sys2Proof

open Sys2Proof.Machine Sys2Proof.Claims

/-- Settles O23: the three forms are one, with their lease code and whether they try. -/
theorem ticketIssue : Obligations.TicketIssue := by
  unfold Obligations.TicketIssue
  intro s d a x z c va tr hctx htx hord hrel n hvia halign hrange q hmark gives
  have hgives (code : Nat) (try_ : Bool) (i : Instr) (hi : exec i s = tloadForm d a x z code try_ s) :
      gives code i (.next (if try_ then { q with me := { q.me with s := sregSet q.me.s d 0 } }
        else leadTrap 0x44 va s.issue.pc s)) := by
    have hform := hi.trans (tloadForm_next hctx htx hord hrel hvia halign hrange hmark)
    refine ⟨fun w u h => ?_, fun h => ?_⟩
    · rw [hform, show newTicket code z.toNat _ tr (loadMarked s tr) = some (w, u) from h]
    · rw [hform, show newTicket code z.toNat _ tr (loadMarked s tr) = none from h]
      rfl
  exact ⟨hgives 0 false _ (Exec.tload s), hgives c.toNat false _ (Exec.tloadLease s), hgives c.toNat true _ (Exec.tloadTry s)⟩

end Sys2Proof

/-! # Cloakrooms on their own (R205, R207, R211, R220)

O25. Reading memory for a ticket leaves the cloakrooms alone, so the entry whose data have arrived is the one that was named,
with its bytes. -/

namespace Sys2Proof.Machine

open Sys2Proof Sys2Proof.Claims

/-! ## Reads leave the cloakrooms alone -/

section
variable (s : State)

/-- A fold of steps that leave the cloakrooms alone leaves them alone. -/
theorem foldl_cloaks {α : Type} {f : State → α → State} (hf : ∀ s x, (f s x).cloaks = s.cloaks) (l : List α) :
    (l.foldl f s).cloaks = s.cloaks :=
  List.foldlRecOn (motive := fun t : State => t.cloaks = s.cloaks) l f rfl fun t ht x _ => (hf t x).trans ht

theorem countRange_cloaks (a n : Nat) : (countRange s a n).cloaks = s.cloaks := by
  have hhot (s : State) (pa : Nat) : (countHot s pa).cloaks = s.cloaks := by
    unfold countHot
    split
    · rfl
    · dsimp only
      split <;> rfl
  unfold countRange
  split
  · rfl
  · exact foldl_cloaks s (fun s _ => hhot s _) _

theorem touch_cloaks (who : Option RunnerId) (plain write : Bool) (a n : Nat) :
    (touch s who plain write a n).cloaks = s.cloaks := by
  have hconflict (s : State) (who : RunnerId) : (conflictAt s who).cloaks = s.cloaks := by
    unfold conflictAt
    split
    · rfl
    · dsimp only
      split <;> rfl
  unfold touch
  split
  · refine foldl_cloaks s (fun s line => ?_) _
    have hhit := foldl_cloaks s (fun s (r : Runner) => hconflict s r.id)
      (s.runners.filter fun r => some r.id != who && r.hostConflict line write)
    dsimp only
    split <;> exact hhit
  · rfl

theorem outSpend_cloaks (who : RunnerId) (ask : Asker) : (outSpend who ask s).cloaks = s.cloaks := by
  unfold outSpend
  split <;> rfl

/-- Ticketed loads that perform change their own entries alone. -/
theorem performTickets_cloaks (p : Cloak → Bool) : (performTickets p s).cloaks =
    mapIf (fun e => !e.performed && p e && e.readable s) (performTicket s) s.cloaks := by
  refine foldl_cloaks _ (fun s e => ?_) _
  have hread := foldl_cloaks s (fun s (x : Nat × Nat) =>
    (countRange_cloaks _ x.1 x.2).trans (touch_cloaks s (some e.who) true false x.1 x.2)) e.unread
  refine (outSpend_cloaks _ _ _).trans ?_
  split <;> exact hread

end

/-! ## Entries that change in place -/

/-- What is found by name among entries some of which have changed in place. -/
theorem find?_mapIf_id {p : Cloak → Bool} {f : Cloak → Cloak} (hf : ∀ e, (f e).id = e.id) (id : EntryId) (l : List Cloak) :
    (mapIf p f l).find? (fun x => x.id == id) = (l.find? fun x => x.id == id).map fun e => if p e then f e else e := by
  have hid : ((fun x : Cloak => x.id == id) ∘ fun e => if p e = true then f e else e) = fun x => x.id == id := by
    funext e
    dsimp only [Function.comp]
    split
    · rw [hf]
    · rfl
  rw [mapIf, List.find?_map, hid]

/-- A ticketed load that performs fills its entry's data and leaves its name, generation and size. -/
theorem performTicket_fields (s : State) (e : Cloak) :
    (performTicket s e).id = e.id ∧ (performTicket s e).gen = e.gen ∧ (performTicket s e).size = e.size := by
  unfold performTicket
  split <;> exact ⟨rfl, rfl, rfl⟩

/-- An entry keeps its generation and size when ticketed loads perform. -/
theorem cloakAt_performTickets {s : State} {id : EntryId} {e : Cloak} (p : Cloak → Bool)
    (h : s.cloaks.find? (fun x => x.id == id) = some e) :
    (cloakAt (performTickets p s) id).gen = e.gen ∧ (cloakAt (performTickets p s) id).size = e.size := by
  obtain ⟨-, hgen, hsize⟩ := performTicket_fields s e
  have hfind := find?_mapIf_id (p := fun e => !e.performed && p e && e.readable s) (fun e => (performTicket_fields s e).1) id
    s.cloaks
  rw [← performTickets_cloaks, h] at hfind
  rw [cloakAt_of_find? hfind]
  dsimp only
  split <;> simp only [hgen, hsize, and_self]

/-! ## The steps -/

section
variable {s : State} {id : EntryId} {e : Cloak}

/-- TICKET_DATA_ARRIVAL: the data of an entry arrive once they can be read (R207). -/
theorem exec_ticketDataArrival (h : s.cloaks.find? (fun x => x.id == id) = some e) (hr : e.readable s = true) :
    exec (.ticketDataArrival id) s = .next (arriveCloak e s) := by
  refine (Exec.ticketDataArrival s).trans (runEvent_ok (u := ()) ?_)
  simp only [run_bind, run_get, h, hr, run_readyIf_true, run_modify]

/-- A PENDING entry whose data arrive is READY, under its generation and size (R207). -/
theorem cloakAt_arriveCloak_pending (h : s.cloaks.find? (fun x => x.id == id) = some e) (hst : e.st = .pending)
    (hentry : id.entry < 4096) : (cloakAt (arriveCloak e s) id).st = .ready ∧ (cloakAt (arriveCloak e s) id).gen = e.gen ∧
      (cloakAt (arriveCloak e s) id).size = e.size := by
  have hid : e.id = id := by simpa using List.find?_some h
  subst hid
  let t := performTickets (fun x => x.id == e.id) s
  have hput : arriveCloak e s = putCloak { cloakAt t e.id with st := .ready } t := by
    rw [arriveCloak, if_pos hentry, hst]
  have hfind := find?_putCloak { cloakAt t e.id with st := .ready } t
  rw [show ({ cloakAt t e.id with st := .ready } : Cloak).id = e.id from cloakAt_id t e.id] at hfind
  rw [hput, cloakAt_of_find? hfind]
  exact ⟨rfl, cloakAt_performTickets _ h⟩

/-- REDEMPTION_DELIVERY: the bytes go where the redemption takes them, and the entry is spent (R220). -/
theorem exec_redemptionDelivery {who : RunnerId} {d : Deliver} :
    let p := performTickets (fun x => x.id == id && x.st == .claimed) s
    p.cloaks.find? (fun x => x.id == id && x.st == .claimed) = some e → e.take = some (who, d) →
      e.performed = true → e.poison = false → deliveryBlocked p who d = false →
      exec (.redemptionDelivery id) s = .next (deliverBytes who d e.data (spendCloak e p)) := by
  dsimp only
  intro h htake hperf hpoison hb
  refine (Exec.redemptionDelivery s).trans (runEvent_ok (u := ()) ?_)
  simp only [run_bind, run_get, run_modify, h, htake, hperf, hpoison, hb, Bool.not_false, run_readyIf_true,
    Bool.false_eq_true, if_false]

/-- LEASE_EXPIRY: the entry is FREE, and its context's TRECL counts it (R211). -/
theorem exec_leaseExpiry (h : s.cloaks.find? (fun x => x.id == id && (x.st == .pending || x.st == .ready)) = some e)
    (hlease : e.lease = some 0) (hfrozen : leaseFrozen s e.ctx = false) :
    ∃ t, exec (.leaseExpiry id) s = .next t ∧ (∀ x ∈ t.cloaks, x.id = id → x.st = .free) ∧ t.mem = s.mem ∧ t.me = s.me ∧
      ∀ c ∈ s.ctxs, c.id = e.ctx → { c with trecl := c.trecl + 1 } ∈ t.ctxs := by
  have hid : e.id = id := by
    have hfound := List.find?_some h
    obtain ⟨hid, -⟩ := Bool.and_eq_true_iff.mp hfound
    exact beq_iff_eq.mp hid
  have hdue : (s.cloaks.any fun x => x.id == id && x.lease == some 0 && !leaseFrozen s x.ctx) = true :=
    List.any_eq_true.mpr ⟨e, List.mem_of_find?_eq_some h, by simp [hid, hlease, hfrozen]⟩
  have hexp : exec (.leaseExpiry id) s = .next (expireLease id s) := by
    refine (Exec.leaseExpiry s).trans (runEvent_ok (u := ()) ?_)
    simp only [run_bind, run_get, hdue, run_readyIf_true, run_modify]
  refine ⟨_, hexp, ?_, expireLease_mem id s, ?_, ?_⟩ <;>
    simp only [expireLease, h, settleClk_cloaks, settleClk_me, settleClk_ctxs]
  · intro x hx hxid
    obtain ⟨y, -, rfl⟩ := List.mem_map.mp hx
    by_cases hy : (y.id == id) = true
    · rw [if_pos hy]
      rfl
    · rw [if_neg hy] at hxid
      exact absurd (beq_iff_eq.mpr hxid) hy
  · intro c hc hcid
    exact List.mem_map.mpr ⟨c, hc, if_pos (beq_iff_eq.mpr hcid)⟩

/-- CLOAKROOM_RECONFIGURE: a buffer setting takes effect where no entry is live (R205). -/
theorem exec_cloakroomReconfigure_idle {die sl : Nat} (h : cloakIdle s die sl = true) :
    exec (.cloakroomReconfigure die sl) s = .next (settleClk s) := by
  refine (Exec.cloakroomReconfigure s).trans (runEvent_ok (u := ()) ?_)
  simp only [run_bind, run_get, h, run_readyIf_true, run_modify]

/-- Where one is, the setting waits. -/
theorem exec_cloakroomReconfigure_live {die sl : Nat} (h : cloakIdle s die sl = false) :
    exec (.cloakroomReconfigure die sl) s = .next s := by
  rw [Exec.cloakroomReconfigure, execCloakroomReconfigure, runEvent]
  simp only [run_bind, run_get, h, run_readyIf_false]

end

end Sys2Proof.Machine

namespace Sys2Proof

open Sys2Proof.Machine Sys2Proof.Claims

/-- Settles O25, step by step. -/
theorem cloakroomEvents : Obligations.CloakroomEvents := by
  unfold Obligations.CloakroomEvents
  intro s id
  refine ⟨fun e h hr => exec_ticketDataArrival h hr, fun e h hr hst hentry => ?ready,
    fun e who d => exec_redemptionDelivery, fun e h hlease hfrozen => exec_leaseExpiry h hlease hfrozen,
    fun die sl => ⟨exec_cloakroomReconfigure_idle, exec_cloakroomReconfigure_live⟩, fun v => Exec.clkcfgWrite s⟩
  case ready => exact ⟨_, exec_ticketDataArrival h hr, cloakAt_arriveCloak_pending h hst hentry⟩

end Sys2Proof

/-! # The state that reset leaves (R205, R206, R268, R287, R289, R409, R429)

O57. A runner at reset is a host core right after its reset, a partition one of the six, and nothing is live. -/

namespace Sys2Proof.Machine

open Sys2Proof

/-- Every runner at reset is a host core right after reset. -/
theorem reset_runners {r : Runner} (h : r ∈ State.reset.runners) : ∃ n, r = Runner.hostReset n := by
  rcases List.mem_cons.mp h with rfl | h
  · exact ⟨0, rfl⟩
  · obtain ⟨n, -, rfl⟩ := List.mem_map.mp h
    exact ⟨n + 1, rfl⟩

/-- A vector of equal elements reads that element everywhere. -/
theorem vget_replicate {α : Type} (n i : Nat) (x : α) : vget (Vector.replicate (n + 1) x) i = x := by
  unfold vget
  split <;> exact Vector.getElem_replicate _

end Sys2Proof.Machine

namespace Sys2Proof

open Sys2Proof.Machine

/-- Settles O57: the runners and the partitions are those of the reset, and every list of what is live is empty. -/
theorem resetState : Obligations.ResetState := by
  unfold Obligations.ResetState
  refine ⟨⟨reset_mem_wf, reset_hardwired⟩, ?count, ?runners, ?parts, ?clkcfg, ?live⟩
  case count => rfl
  case runners =>
    intro r hr
    obtain ⟨n, rfl⟩ := reset_runners hr
    have hsup : (1 : Word).getLsbD 0 = true := by decide
    exact ⟨rfl, rfl, hsup, rfl, rfl, rfl, rfl, rfl⟩
  case parts =>
    intro p hp
    obtain ⟨n, -, rfl⟩ := List.mem_map.mp hp
    exact ⟨fun k _ => vget_replicate 63 k 1, rfl, rfl, rfl⟩
  case clkcfg => rfl
  case live => exact ⟨rfl, rfl, rfl, rfl, rfl, rfl, rfl, rfl, rfl, rfl, rfl, rfl⟩

end Sys2Proof

/-! # The lane forms of tickets (R217, R218, R222)

O24. Both forms check every lane first; with no cause among the lanes the rest of a form runs on what the checks gave. -/

namespace Sys2Proof.Machine

open Sys2Proof Sys2Proof.Claims

/-! ## Checks of every lane -/

/-- Lanes that all pass their checks have no cause, and give what the checks found. -/
theorem run_allLanes_map {ι α : Type} {pop : QPop} {lane : ι → Nat} {check : ι → Except (Nat × Word) α} {g : ι → α}
    {s : State} {l : List ι} (h : ∀ i ∈ l, check i = .ok (g i)) :
    (allLanes pop (l.map fun i => (lane i, check i))).run s = .ok (l.map fun i => (lane i, g i), s) := by
  have hmap : (l.map fun i => (lane i, check i)) = l.map fun i => (lane i, .ok (g i)) :=
    List.map_congr_left fun i hi => by rw [h i hi]
  have herr : laneErrors (l.map fun i => (lane i, (.ok (g i) : Except (Nat × Word) α))) = [] := by
    simp [laneErrors, List.filterMap_map]
  have hoks : laneOks (l.map fun i => (lane i, (.ok (g i) : Except (Nat × Word) α))) = l.map fun i => (lane i, g i) := by
    simp [laneOks, List.filterMap_map]
  rw [hmap, run_allLanes_ok herr, hoks]

/-- Registers that wait for no result. -/
theorem run_notPending {spans : List (Nat × Nat)} {s : State} (h : interlocked s spans = false) :
    (notPending spans).run s = .ok ((), s) := by
  simp only [notPending, run_bind, run_get, h, Bool.false_eq_true, if_false, run_pure]

/-! ## TLOADV (R217, R218) -/

/-- Where the form tries, or every lane has its ticket, no lane stops it. -/
theorem noLaneFull {tries : Bool} {ts : List (Nat × Option Word)} (h : tries = true ∨ ∀ p ∈ ts, p.2.isSome = true) :
    (if tries then [] else ts.filter fun p => p.2.isNone) = [] := by
  rcases h with h | h
  · exact if_pos h
  · rw [List.filter_eq_nil_iff.mpr fun p hp => by simpa [Option.isSome_iff_ne_none] using h p hp]
    exact ite_self _

/-- TLOADV where every lane passes its checks: its tickets are written, or, where some lane finds the cloakroom full, 0 if
it tries. -/
theorem exec_tloadv {s : State} {tr : Nat → Tr} (hready : LaneReady tloadvRule s) :
    let c := laneIn tloadvRule s
    let q := laneOn tloadvRule s
    let size := c.f.c.toNat % 16
    let q1 := releasedAt c.f.scope c.f.order q
    CanReleaseAt c.f.scope c.f.order q →
    (∀ k ∈ lanesOf c.act, laneProbe q (runXb q c.f.xbn) (c.f.offset (sextN 32 (c.a k))) (2 ^ (size + 3)) Need.read
      = .ok (tr k)) → (∀ k ∈ lanesOf c.act, markReady q1 q1.me (tr k) false = true) →
    let r := laneTickets size (c.f.order == 4) ((lanesOf c.act).map fun k => (k, tr k)) q1
    (c.f.c.getLsbD 4 = true ∨ ∀ p ∈ r.1, p.2.isSome = true) →
      exec .tloadv s = .next (onLane (Lanes.writeRes 64 c.f.d.toNat c.act fun k =>
        ((((r.1.find? fun p => p.1 == k).bind (·.2)).getD 0 : Word)).toNat) r.2) := by
  rw [Exec.tloadv, execTloadv, runLane_ready hready]
  generalize laneIn tloadvRule s = c
  generalize laneOn tloadvRule s = q
  dsimp only
  intro hrel hprobe hmark hfull
  have hmarks : (((lanesOf c.act).map fun k => (k, tr k)).all fun p =>
      markReady (releasedAt c.f.scope c.f.order q) (releasedAt c.f.scope c.f.order q).me p.2 false) = true := by
    simpa using hmark
  simp only [run_bind, run_get, run_allLanes_map (lane := fun k => k) hprobe, Laws.run_before hrel, hmarks, run_readyIf_true,
    noLaneFull hfull, List.isEmpty_nil, if_true, run_set]
  rfl

/-! ## The lane REDEEM (R220, R222) -/

/-- The number by which a flag waits for the deliveries of a lane REDEEM: none where it names no flag. -/
def redeemOp (c : LaneCtx) (q : State) : Nat := if c.flag.isSome then q.nextOp + 1 else 0

/-- Claims of lanes of which none has poisoned data: the flag counts them, and what is READY is delivered. -/
theorem run_redeemLanes {c : LaneCtx} {cs : List (Nat × Word × Cloak)} {dst : Nat → Nat → Deliver} {q u : State}
    (hgood : ∀ p ∈ cs, ¬(p.2.2.st = .ready ∧ p.2.2.poison = true)) (hu : (opIssued c false).run q = .ok ((), u)) :
    (redeemLanes c cs dst).run q =
      .ok ((), deliverLanes (dst (redeemOp c q)) cs (if cs.isEmpty then u else markDirty u)) := by
  have hbad : (cs.filter fun p => p.2.2.st == .ready && p.2.2.poison) = [] :=
    List.filter_eq_nil_iff.mpr fun p hp => by simpa using hgood p hp
  simp only [redeemLanes, hbad, List.isEmpty_nil, if_true, run_bind, run_get, hu, run_modify]
  rfl

/-- The lane REDEEM to registers, no ticket refused: one register or an aligned four of them in each lane (R222). -/
theorem exec_laneRedeem {s : State} (hready : LaneReady laneRedeemRule s) :
    let c := laneIn laneRedeemRule s
    let q := laneOn laneRedeemRule s
    let cs := laneClaims (fun z => z == 0 || (z == 1 && c.f.d.toNat % 4 == 0)) (laneTicketsOf c) q
    ∀ u, (opIssued c false).run q = .ok ((), u) → refusedOf cs = [] →
    (∀ p ∈ claimedOf cs, ¬(p.2.2.st = .ready ∧ p.2.2.poison = true)) →
    (((claimedOf cs).any fun p => p.2.2.size == 1) = true →
      c.f.d.toNat + 4 ≤ q.me.l.count ∧ interlocked q [(c.f.d.toNat, 4)] = false) →
    exec .laneRedeem s = .next (deliverLanes (fun k => .laneReg q.me.inTrap (redeemOp c q) k c.f.d.toNat) (claimedOf cs)
      (if (claimedOf cs).isEmpty then u else markDirty u)) := by
  rw [Exec.laneRedeem, execLaneRedeem, runLane_ready hready]
  generalize laneIn laneRedeemRule s = c
  generalize laneOn laneRedeemRule s = q
  dsimp only
  intro u hu hnone hgood hfour
  simp only [run_bind, run_get, hnone, List.isEmpty_nil, if_true]
  by_cases hany : ((claimedOf (laneClaims (fun z => z == 0 || (z == 1 && c.f.d.toNat % 4 == 0)) (laneTicketsOf c) q)).any
      fun p => p.2.2.size == 1) = true
  · obtain ⟨hroom, hregs⟩ := hfour hany
    simp only [hany, if_true, if_neg (Nat.not_lt.mpr hroom), run_bind, run_notPending hregs, run_redeemLanes hgood hu]
  · simp only [if_neg hany, run_redeemLanes hgood hu]

/-- The lane REDEEM to the landing, every place checked: a refused lane is left out where the form delivers codes (R222). -/
theorem exec_laneRedeemL {s : State} {t : Team} {off : Nat → Nat} (hready : LaneReady laneRedeemRule s) :
    let c := laneIn laneRedeemRule s
    let q := laneOn laneRedeemRule s
    let lanes := lanesOf c.act
    myTeam q = some t →
    (∀ k ∈ lanes, let n := 2 ^ (ticketSize (BitVec.ofNat 64 (c.a k)) + 3)
      landCheck q t (sextN 32 (c.b k) + c.f.off) n (min n 16) true = .ok (off k)) →
    let cs := laneClaims (fun _ => true) (laneTicketsOf c) q
    let codes (k : Nat) : Nat := (((refusedOf cs).find? fun p => p.1 == k).map (·.2.1)).getD 0
    let q1 := if c.f.c.getLsbD 1 then onLane (Lanes.writeRes 32 c.f.d.toNat c.act codes) q else q
    let dest (k : Nat) : Nat := (((lanes.map fun j => (j, off j)).find? fun p => p.1 == k).map (·.2)).getD 0
    (refusedOf cs = [] ∨ c.f.c.getLsbD 1 = true) →
    (∀ p ∈ claimedOf cs, ¬(p.2.2.st = .ready ∧ p.2.2.poison = true)) → ∀ u, (opIssued c false).run q1 = .ok ((), u) →
    exec .laneRedeemL s = .next (deliverLanes (fun k => .laneLand q.me.inTrap (redeemOp c q1) k t.uid (dest k) t.modes)
      (claimedOf cs) (if (claimedOf cs).isEmpty then u else markDirty u)) := by
  rw [Exec.laneRedeemL, execLaneRedeemL, runLane_ready hready]
  generalize laneIn laneRedeemRule s = c
  generalize laneOn laneRedeemRule s = q
  dsimp only
  intro hteam hland hcodes hgood u hu
  have hgo : ((refusedOf (laneClaims (fun _ => true) (laneTicketsOf c) q)).isEmpty || c.f.c.getLsbD 1) = true := by
    rcases hcodes with h | h <;> simp [h]
  have hoffs : (allLanes .kept ((laneTicketsOf c).map fun p => (p.1, landCheck q t (sextN 32 (c.b p.1) + c.f.off)
      (2 ^ (ticketSize p.2 + 3)) (min (2 ^ (ticketSize p.2 + 3)) 16) true))).run q =
      .ok ((lanesOf c.act).map fun k => (k, off k), q) := by
    rw [laneTicketsOf, List.map_map]
    exact run_allLanes_map (lane := fun k => k) hland
  simp only [run_bind, run_get, hteam, hoffs, hgo, if_true]
  by_cases hquiet : c.f.c.getLsbD 1 = true
  · simp only [hquiet, if_true] at hu ⊢
    simp only [run_bind, writeD, run_onLanes, run_redeemLanes hgood hu]
  · simp only [if_neg hquiet] at hu ⊢
    simp only [run_redeemLanes hgood hu]

end Sys2Proof.Machine

namespace Sys2Proof

open Sys2Proof.Machine Sys2Proof.Claims

/-- Settles O24: TLOADV, and the lane REDEEM to registers and to the landing. -/
theorem laneTickets : Obligations.LaneTickets := by
  unfold Obligations.LaneTickets
  intro s
  exact ⟨fun h hrel tr => exec_tloadv h hrel, fun h => ⟨exec_laneRedeem h, fun t off => exec_laneRedeemL h⟩⟩

end Sys2Proof

/-! # Lead atomics (R247 to R249)

O10. An atomic that passes its check and need not wait reads its old value at the home and stores the new one there; the
operations of the forms, given on numbers, are those of the statement on bit vectors. -/

namespace Sys2Proof.Machine

open Sys2Proof Sys2Proof.Claims

/-! ## Numbers in bytes (R3) -/

/-- Only the low bits of a number stand in its bytes. -/
theorem leBytes_mod : ∀ n v : Nat, leBytes n (v % 2 ^ (8 * n)) = leBytes n v
  | 0, _ => rfl
  | n + 1, v => by
    have hpow : 2 ^ (8 * (n + 1)) = 256 * 2 ^ (8 * n) := by rw [show 8 * (n + 1) = 8 + 8 * n by omega, Nat.pow_add]
    have hhead : BitVec.ofNat 8 (v % 2 ^ (8 * (n + 1))) = BitVec.ofNat 8 v :=
      BitVec.eq_of_toNat_eq (by rw [BitVec.toNat_ofNat, BitVec.toNat_ofNat, hpow, Nat.mod_mul_right_mod])
    rw [leBytes, leBytes, hhead, hpow, Nat.mod_mul_right_div_self, leBytes_mod n (v / 256)]

/-- A number in n bytes takes 8 n bits. -/
theorem leNat_lt : ∀ bs : List Byte, leNat bs < 2 ^ (8 * bs.length)
  | [] => Nat.one_pos
  | b :: bs => by
    have hb : b.toNat < 256 := b.isLt
    have hbs := leNat_lt bs
    rw [leNat, List.length_cons, show 8 * (bs.length + 1) = 8 + 8 * bs.length by omega, Nat.pow_add]
    omega

/-! ## The access at the home (R249) -/

section
variable {s : State} {t : Tr} {n : Nat} {f : Nat → Nat}

/-- The old value of an atomic fits its bytes. -/
theorem atomicOld_lt : atomicOld t n s < 2 ^ (8 * n) := by
  have h := leNat_lt (homeRead (atomicReady t n s) ((keyId s t.key).getD 0) t.pa n)
  rwa [homeRead_length] at h

/-- An atomic on memory of the package that need not wait reads the home and stores there. -/
theorem run_atomicAt (hmem : (poolOf t.pa).isMemory = true) (ho : answeredOutside s t.pa = false) (h : CanAtomic t n s) :
    (atomicAt (leadAgent s) t n f).run s = .ok (atomicOld t n s, arrive (atomicReady t n s)
      ((leadAgent s).write t.pa (leBytes n (f (atomicOld t n s))) ((keyId s t.key).getD 0) t.comp)) := by
  have hmapped : poolOf t.pa ≠ .unmapped := fun hp => by simp [hp, Pool.isMemory] at hmem
  simp only [CanAtomic, ownLoadsDone, leadAgent] at h
  obtain ⟨hstore, hmark, hlocked⟩ := h
  simp only [atomicAt, leadAgent, run_bind, run_get, hstore, hmark, hlocked, run_readyIf_true, if_neg hmapped, hmem, ho,
    Bool.not_true, Bool.not_false, Bool.or_self, Bool.and_self, Bool.false_eq_true, if_false]
  rfl

/-- So does a lead atomic outside a transaction. -/
theorem run_leadAtomic {a : Word} (hmem : (poolOf t.pa).isMemory = true) (ho : answeredOutside s t.pa = false)
    (htx : s.me.tx.active = false) (h : CanAtomic t n s) :
    (leadAtomic a t n f).run s = .ok (atomicOld t n s, atomicStored t n (f (atomicOld t n s)) s) := by
  simp only [leadAtomic, run_bind, run_get, htx, Bool.false_eq_true, if_false, run_atomicAt hmem ho h, Laws.run_spendAnswers,
    run_pure]
  rfl

end

/-! ## The forms (R247, R248) -/

/-- A form whose check passes, and whose release part and access need not wait, stores its new value and delivers the old
one. -/
theorem leadAtomicForm_next {s : State} {w4 : Bool} {d a b : Reg} {t : Tr} {f : Nat → Nat → Nat → Nat → Nat}
    {ext : Nat → Int} {n : Nat} (hn : (if w4 then 4 else 8) = n) :
    let q := released (onward s)
    let old := atomicOld t n q
    let u := atomicStored t n
      (f (8 * n) old ((s.me.sreg b).toNat % 2 ^ (8 * n)) ((s.me.sreg d).toNat % 2 ^ (8 * n))) q
    LeadAccess (onward s) (s.me.sreg a) n Need.both t → s.me.tx.active = false → CanRelease (onward s) →
    answeredOutside q t.pa = false → CanAtomic t n q → q.me.tx.active = false → u.me.tx.active = false →
    leadAtomicForm w4 d a b f ext s =
      .next (atomicDone d (if w4 then BitVec.ofInt 64 (ext old) else BitVec.ofNat 64 old) u) := by
  intro q old u h htx hrel ho hcan hqtx hutx
  have hcheck := run_leadCheck_memory h htx
  have hbefore : (leadBefore (orderOf (onward s))).run (onward s) = .ok ((), q) := Laws.run_leadBefore htx hrel
  have hatomic := run_leadAtomic (a := s.me.sreg a)
    (f := fun x => f (8 * n) x ((s.me.sreg b).toNat % 2 ^ (8 * n)) ((s.me.sreg d).toNat % 2 ^ (8 * n)))
    (leadAccess_isMemory h) ho hqtx hcan
  unfold leadAtomicForm
  refine runLead_ok (u := ()) ?_
  simp only [hn, run_bind, run_reg, onward_sreg, Laws.run_orderOf, hcheck, hbefore, hatomic, run_get]
  rw [show (atomicStored t n _ q).me.tx.active = false from hutx]
  rfl

/-- A form is settled by its extension of a 4-byte old value and by its operation at every width. -/
theorem atomicForm_of_leadAtomicForm {i : Bool → Reg → Reg → Reg → Instr} {signed : Bool}
    {g : ∀ n, BitVec n → BitVec n → BitVec n → BitVec n} {f : Nat → Nat → Nat → Nat → Nat} {ext : Nat → Int}
    (hi : ∀ w4 d a b s, exec (i w4 d a b) s = leadAtomicForm w4 d a b f ext s)
    (hext : ∀ x : BitVec 32, BitVec.ofInt 64 (ext x.toNat) = if signed then x.signExtend 64 else x.setWidth 64)
    (hf : ∀ n, 0 < n → ∀ x y c : BitVec n, BitVec.ofNat n (f n x.toNat y.toNat c.toNat) = g n x y c) :
    AtomicForm i signed g := by
  intro s w4 d a b t n w q h htx hrel ho hcan old u hqtx hutx
  have hw : 0 < w := by cases w4 <;> decide
  have hold : old.toNat = atomicOld t n q := by rw [BitVec.toNat_ofNat, Nat.mod_eq_of_lt atomicOld_lt]
  have hu : atomicStored t n
      (f w (atomicOld t n q) ((s.me.sreg b).toNat % 2 ^ w) ((s.me.sreg d).toNat % 2 ^ w)) q = u := by
    have hnew := congrArg BitVec.toNat (hf w hw old ((s.me.sreg b).setWidth w) ((s.me.sreg d).setWidth w))
    rw [BitVec.toNat_ofNat, ← mod_eq_setWidth, ← mod_eq_setWidth, hold] at hnew
    show atomicStored t n _ q = atomicStored t n _ q
    rw [← hnew, atomicStored, atomicStored, leBytes_mod]
  have hval : (if w4 then BitVec.ofInt 64 (ext (atomicOld t n q)) else BitVec.ofNat 64 (atomicOld t n q)) =
      if signed then old.signExtend 64 else old.setWidth 64 := by
    rw [← hold]
    cases w4 with
    | true => exact hext old
    | false =>
      have hwide : old.signExtend 64 = BitVec.ofNat 64 old.toNat ∧ old.setWidth 64 = BitVec.ofNat 64 old.toNat := by
        constructor
        · exact (BitVec.signExtend_eq (x := (old : BitVec 64))).trans (BitVec.ofNat_toNat 64 old).symm
        · exact (BitVec.ofNat_toNat 64 old).symm
      rw [hwide.1, hwide.2]
      exact (ite_self _).symm
  rw [hi, leadAtomicForm_next rfl h htx hrel ho hcan hqtx (hu ▸ hutx), hval, hu]

/-! ## Operations on numbers and on bit vectors -/

/-- A 4-byte old value sign-extended. -/
theorem ofInt_extSigned (x : BitVec 32) : BitVec.ofInt 64 (extSigned x.toNat) = x.signExtend 64 := by
  rw [extSigned, sextN_toNat (by decide), ofInt_toInt]

/-- A 4-byte old value zero-extended. -/
theorem ofInt_extZero (x : BitVec 32) : BitVec.ofInt 64 (extZero x.toNat) = x.setWidth 64 := by
  rw [extZero, ofInt_natCast, BitVec.ofNat_toNat]

section
variable {n : Nat} (x y : BitVec n)

/-- The number of a bit vector, as a bit vector. -/
theorem ofNat_toNat_self : BitVec.ofNat n x.toNat = x := by rw [BitVec.ofNat_toNat, BitVec.setWidth_eq]

/-- The sum mod 2^n. -/
theorem ofNat_add_mod : BitVec.ofNat n ((x.toNat + y.toNat) % 2 ^ n) = x + y :=
  BitVec.eq_of_toNat_eq (by rw [BitVec.toNat_ofNat, Nat.mod_mod, BitVec.toNat_add])

/-- The difference mod 2^n. -/
theorem ofNat_sub_mod : BitVec.ofNat n ((x.toNat + 2 ^ n - y.toNat) % 2 ^ n) = x - y := by
  have hy := y.isLt
  refine BitVec.eq_of_toNat_eq ?_
  rw [BitVec.toNat_ofNat, Nat.mod_mod, BitVec.toNat_sub]
  exact congrArg (· % 2 ^ n) (by omega)

/-- One of two, chosen by a test of their numbers. -/
theorem ofNat_ite {p : Prop} [Decidable p] {c : Bool} (h : p ↔ c = true) :
    BitVec.ofNat n (if p then x.toNat else y.toNat) = if c then x else y := by
  rw [apply_ite (BitVec.ofNat n), ofNat_toNat_self, ofNat_toNat_self]
  exact if_congr h rfl rfl

/-- The signed comparison of two patterns. -/
theorem sextN_le_iff (hn : 0 < n) : sextN n x.toNat ≤ sextN n y.toNat ↔ x.sle y = true := by
  rw [sextN_toNat hn, sextN_toNat hn, BitVec.sle_iff_toInt_le]

end

end Sys2Proof.Machine

namespace Sys2Proof

open Sys2Proof.Machine Sys2Proof.Claims

/-- Settles O10: every form is the shared one, and its operation on numbers is that of the statement. -/
theorem leadAtomics : Obligations.LeadAtomics := by
  refine ⟨?aadd, ?asub, ?amin, ?amax, ?aminn, ?amaxn, ?aand, ?aor, ?axor, ?axchg, ?acas, ?afadd⟩
  case aadd =>
    exact atomicForm_of_leadAtomicForm (fun _ _ _ _ s => Exec.aadd s) ofInt_extSigned fun _ _ x y _ => ofNat_add_mod x y
  case asub =>
    exact atomicForm_of_leadAtomicForm (fun _ _ _ _ s => Exec.asub s) ofInt_extSigned fun _ _ x y _ => ofNat_sub_mod x y
  case amin =>
    exact atomicForm_of_leadAtomicForm (fun _ _ _ _ s => Exec.amin s) ofInt_extSigned fun _ h x y _ =>
      ofNat_ite x y (sextN_le_iff x y h)
  case amax =>
    exact atomicForm_of_leadAtomicForm (fun _ _ _ _ s => Exec.amax s) ofInt_extSigned fun _ h x y _ =>
      ofNat_ite x y (sextN_le_iff y x h)
  case aminn =>
    exact atomicForm_of_leadAtomicForm (fun _ _ _ _ s => Exec.aminn s) ofInt_extZero fun _ _ x y _ =>
      (congrArg _ Nat.min_def).trans (ofNat_ite x y BitVec.ule_iff_toNat_le.symm)
  case amaxn =>
    exact atomicForm_of_leadAtomicForm (fun _ _ _ _ s => Exec.amaxn s) ofInt_extZero fun _ _ x y _ =>
      (congrArg _ ((Nat.max_comm _ _).trans Nat.max_def)).trans (ofNat_ite x y BitVec.ule_iff_toNat_le.symm)
  case aand =>
    exact atomicForm_of_leadAtomicForm (fun _ _ _ _ s => Exec.aand s) ofInt_extSigned fun _ _ x y _ => by
      rw [← BitVec.toNat_and, ofNat_toNat_self]
  case aor =>
    exact atomicForm_of_leadAtomicForm (fun _ _ _ _ s => Exec.aor s) ofInt_extSigned fun _ _ x y _ => by
      rw [← BitVec.toNat_or, ofNat_toNat_self]
  case axor =>
    exact atomicForm_of_leadAtomicForm (fun _ _ _ _ s => Exec.axor s) ofInt_extSigned fun _ _ x y _ => by
      rw [← BitVec.toNat_xor, ofNat_toNat_self]
  case axchg =>
    exact atomicForm_of_leadAtomicForm (fun _ _ _ _ s => Exec.axchg s) ofInt_extSigned fun _ _ _ y _ => ofNat_toNat_self y
  case acas =>
    exact atomicForm_of_leadAtomicForm (fun _ _ _ _ s => Exec.acas s) ofInt_extSigned fun _ _ x y c => by
      rw [apply_ite (BitVec.ofNat _), ofNat_toNat_self, ofNat_toNat_self]
      exact if_congr BitVec.toNat_inj rfl rfl
  case afadd => exact atomicForm_of_leadAtomicForm (fun _ _ _ _ s => Exec.afadd s) ofInt_extZero fun _ _ _ _ _ => rfl

end Sys2Proof

/-! # Fences and WATCH (R253, R254, R256, R487)

O12. A fence waits for what its order and target ask, then performs; WATCH reads its word and either delivers it or waits. -/

namespace Sys2Proof.Machine

open Sys2Proof Sys2Proof.Claims

/-! ## FENCE and FENCE.sys (R253, R254, R487) -/

section
variable {s : State} {f : Unit → Op Unit}

/-- A form outside a transaction goes on where it may not stand in one. -/
theorem runLead_notInTx (htx : s.me.tx.active = false) : runLead (notInTx >>= f) s = runLead (f ()) s :=
  runLead_bind_ok (by rw [run_notInTx, Laws.onward_tx, htx]; rfl)

/-- FENCE, its release part ready. -/
theorem execFence_next {sc o : BitVec 3} (htx : s.me.tx.active = false) (h : CanReleaseAt sc.toNat o.toNat (onward s)) :
    execFence sc o s = .next (releasedAt sc.toNat o.toNat (onward s)) :=
  (runLead_notInTx htx).trans ((runLead_bind_ok (Laws.run_releaseReady h)).trans (runLead_ok (u := ()) rfl))

/-- What FENCE.sys does once nothing that it waits for is left: its release part, then its writes beyond the package home
arrive (R254). -/
theorem runLead_sysFence {o : Nat} (hidle : outboundIdle (onward s) = true)
    (hlocked : arriveLocked (onward s) (goesOut (onward s)) = false) (h : CanReleaseAt 7 o (onward s)) :
    runLead (sysReady o >>= fun _ => modify (sysFence o)) s =
      .next (arriveAll (releasedAt 7 o (onward s)) (goesOut (onward s))) := by
  refine runLead_ok (u := ()) ?_
  simp only [sysReady, run_bind, run_get, hidle, hlocked, Bool.not_false, run_readyIf_true, Laws.run_releaseReady h, run_modify]
  rfl

/-- It waits while a write of its issuer beyond the package is not accepted. -/
theorem runLead_sysFence_waits {o : Nat} (hidle : outboundIdle (onward s) = false) :
    runLead (sysReady o >>= fun _ => modify (sysFence o)) s = .next s := by
  refine runLead_bind_error (e := .wait) ?_
  simp only [sysReady, run_bind, run_get, hidle, run_readyIf_false]

/-- With a window it goes on once nothing that has reached its port through the window is left to perform (R487). -/
theorem execFenceSysWin_idle {w : BitVec 6} {o : BitVec 3} (htx : s.me.tx.active = false)
    (hw : windowBusy (onward s) w.toNat = false) :
    execFenceSysWin w o s = runLead (sysReady o.toNat >>= fun _ => modify (sysFence o.toNat)) s :=
  (runLead_notInTx htx).trans (runLead_get.trans (runLead_readyIf_true (by rw [hw]; rfl)))

/-- Till then it waits. -/
theorem execFenceSysWin_busy {w : BitVec 6} {o : BitVec 3} (htx : s.me.tx.active = false)
    (hw : windowBusy (onward s) w.toNat = true) : execFenceSysWin w o s = .next s :=
  (runLead_notInTx htx).trans (runLead_get.trans (runLead_readyIf_false (by rw [hw]; rfl)))

end

/-! ## WATCH (R256) -/

/-- The state in which WATCH waits: an answer of a target outside is spent. -/
def watchWaits (s : State) : State := outSpend s.me.id (.instr false) { s with me := { s.me with wait := .watch } }

/-- WATCH whose access passes its check and need not wait compares the word that it reads with s[b]. -/
theorem execWatch_read {s : State} {d a b : Reg} {t : Tr} (htx : s.me.tx.active = false)
    (h : LeadAccess (onward s) (s.me.sreg a) 8 Need.read t) (hsc : CanSc (onward s)) :
    let q := scNow (onward s)
    let r := spent q.me.id false (readDone t 8 q)
    let v : Word := BitVec.ofNat 64 (dieSees t 8 q)
    q.me.tx.active = false → answeredOutside q t.pa = false → markReady q q.me t false = true →
    execWatch d a b s = .next (if v = r.me.sreg b
      then watchWaits s
      else { r with me := { r.me with s := sregSet r.me.s d v } }) := by
  intro q r v hqtx ho hmark
  have hscDone : (scDone (orderOf (onward s)).1 (orderOf (onward s)).2).run (onward s) = .ok ((), q) := Laws.run_scDone hsc
  have hread := Laws.run_leadRead (a := s.me.sreg a) (n := 8) (leadAccess_isMemory h) ho hmark hqtx
  unfold execWatch
  rw [runLead_notInTx htx]
  by_cases hv : v = r.me.sreg b
  · rw [if_pos hv]
    refine runLead_error (e := .park watchWaits) ?_
    simp only [run_bind, run_reg, onward_sreg, Laws.run_orderOf, run_leadCheck_memory h htx, hscDone, hread]
    rw [if_pos hv]
    rfl
  · rw [if_neg hv]
    refine runLead_ok (u := ()) ?_
    simp only [run_bind, run_reg, onward_sreg, Laws.run_orderOf, run_leadCheck_memory h htx, hscDone, hread]
    rw [if_neg hv, run_setReg]

end Sys2Proof.Machine

namespace Sys2Proof

open Sys2Proof.Machine Sys2Proof.Claims

/-- Settles O12: each fence waits for what is left of what it orders, and WATCH for a value that differs from s[b]. -/
theorem fencesAndWatch : Obligations.FencesAndWatch := by
  unfold Obligations.FencesAndWatch
  intro s htx
  refine ⟨fun sc o _ hrel => (Exec.fence s).trans (execFence_next htx hrel), fun o w _ => ?sys, fun d a b t h hsc => ?watch,
    fun who => Exec.watchWake s⟩
  case sys =>
    intro landedFirst
    have hsys : exec (.fenceSys o) s = runLead (sysReady o.toNat >>= fun _ => modify (sysFence o.toNat)) s :=
      (Exec.fenceSys s).trans (runLead_notInTx htx)
    have hwin (hw : landedFirst) := (Exec.fenceSysWin s).trans (execFenceSysWin_idle (o := o) htx hw)
    have hbusy (hw : ¬landedFirst) : exec (.fenceSysWin w o) s = .next s :=
      (Exec.fenceSysWin s).trans (execFenceSysWin_busy htx (Bool.eq_true_of_not_eq_false hw))
    refine ⟨?_, fun hidle => ?_, hbusy⟩
    · intro hidle hlocked hrel q
      have hq := runLead_sysFence hidle hlocked hrel
      exact ⟨hsys.trans hq, fun hw => (hwin hw).trans hq⟩
    · have hwait := runLead_sysFence_waits (o := o.toNat) hidle
      refine ⟨hsys.trans hwait, ?_⟩
      by_cases hw : landedFirst
      · exact (hwin hw).trans hwait
      · exact hbusy hw
  case watch =>
    intro q r v hqtx ho hmark
    have hwatch := (Exec.watch s).trans (execWatch_read (d := d) (b := b) htx h hsc hqtx ho hmark)
    exact ⟨fun hv => hwatch.trans (congrArg Host.Outcome.next (if_neg hv)),
      fun hv => hwatch.trans (congrArg Host.Outcome.next (if_pos hv))⟩

end Sys2Proof

/-! # Accepted writes (R237, R238)

O13. A reading of the state that sees none of the fields that accesses change is the same after every access: this is said
once, for all such readings. So a store to memory adds its write to the accepted ones and does nothing else to memory; what
agents then read is the latest write that they see. -/

namespace Sys2Proof.Machine

open Sys2Proof Sys2Proof.Claims

/-! ## What accesses leave alone -/

/-- A reading of the state that sees neither the runners with the fallback lock, nor the device registers, the cloakrooms or
the requests beyond the package: nothing that a read changes (R280, R480, R493). -/
structure BlindToReads {α : Type} (g : State → α) : Prop where
  runners (s : State) me others wicket : g { s with me := me, others := others, wicket := wicket } = g s
  dev (s : State) dev : g { s with dev := dev } = g s
  cloaks (s : State) cloaks : g { s with cloaks := cloaks } = g s
  outb (s : State) outb : g { s with outb := outb } = g s

/-- A reading that sees nothing of memory either: no field that a write or the marking of a page changes. -/
structure BlindToWrites {α : Type} (g : State → α) : Prop extends BlindToReads g where
  pend (s : State) pend : g { s with pend := pend } = g s
  lines (s : State) mem tags lineMeta : g { s with mem := mem, tags := tags, lineMeta := lineMeta } = g s
  home (s : State) mem poison latent pages lineMeta :
    g { s with mem := mem, poison := poison, latent := latent, pages := pages, lineMeta := lineMeta } = g s
  tlb (s : State) tlb : g { s with tlb := tlb } = g s

section
variable {α β : Type} {g : State → α} {s : State}

/-- Steps that a reading does not see, one after another. -/
theorem foldl_unseen {f : State → β → State} (hf : ∀ s x, g (f s x) = g s) (l : List β) (s : State) :
    g (l.foldl f s) = g s :=
  List.foldlRecOn (motive := fun t => g t = g s) l f rfl fun t ht x _ => (hf t x).trans ht

/-- One of two steps that a reading does not see. -/
theorem ite_unseen {p : Prop} [Decidable p] {t u : State} (ht : g t = g s) (hu : g u = g s) : g (if p then t else u) = g s := by
  split
  · exact ht
  · exact hu

theorem BlindToReads.badAddr (h : BlindToReads g) (s : State) : g (badAddr s) = g s := h.dev s _

theorem BlindToReads.outSpend (h : BlindToReads g) (who : RunnerId) (ask : Asker) (s : State) :
    g (outSpend who ask s) = g s := ite_unseen rfl (h.outb s _)

theorem BlindToReads.doomLine (h : BlindToReads g) (s : State) (line : Nat) : g (doomLine s line) = g s :=
  h.runners s _ _ s.wicket

theorem BlindToReads.countRange (h : BlindToReads g) (s : State) (a n : Nat) : g (countRange s a n) = g s := by
  refine ite_unseen rfl (foldl_unseen (fun s k => ?_) _ s)
  unfold countHot
  split
  · rfl
  · exact ite_unseen (h.dev s _) rfl

theorem BlindToReads.conflictAt (h : BlindToReads g) (s : State) (who : RunnerId) : g (conflictAt s who) = g s := by
  unfold Machine.conflictAt
  split
  · rfl
  · exact ite_unseen (h.runners s _ _ _) rfl

theorem BlindToReads.touch (h : BlindToReads g) (s : State) (who : Option RunnerId) (plain write : Bool) (a n : Nat) :
    g (touch s who plain write a n) = g s := by
  refine ite_unseen (foldl_unseen (fun s line => ?_) _ s) rfl
  have hhit := foldl_unseen (g := g) (fun s (r : Runner) => h.conflictAt s r.id)
    (s.runners.filter fun r => some r.id != who && r.hostConflict line write) s
  exact ite_unseen ((h.doomLine _ line).trans hhit) hhit

/-- Ticketed loads that perform. -/
theorem BlindToReads.performTickets (h : BlindToReads g) (p : Cloak → Bool) (s : State) : g (performTickets p s) = g s := by
  refine (foldl_unseen (fun s e => ?_) _ _).trans (h.cloaks s _)
  have hread := foldl_unseen (g := g) (fun s (x : Nat × Nat) =>
    (h.countRange _ x.1 x.2).trans (h.touch s (some e.who) true false x.1 x.2)) e.unread s
  exact (h.outSpend _ _ _).trans (ite_unseen ((h.badAddr _).trans hread) hread)

theorem BlindToReads.walkReads (h : BlindToReads g) (s : State) (r : Runner) (va : Nat) : g (walkReads s r va) = g s := by
  unfold Machine.walkReads
  split
  · rfl
  · exact ite_unseen rfl (foldl_unseen (fun s _ => ite_unseen (h.badAddr s)
      ((h.countRange _ _ _).trans (h.touch s _ _ _ _ _))) _ s)

theorem BlindToWrites.homeWrite (h : BlindToWrites g) (s : State) (key : Nat) (comp : Bool) (a : Nat) (bs : List Byte) :
    g (homeWrite s key comp a bs) = g s := by
  have hrekey (s : State) (line : Nat) : g (rekeyLine s key line) = g s := ite_unseen rfl (h.lines s _ _ s.lineMeta)
  let q := (linesOf a bs.length).foldl (fun s l => rekeyLine s key l) s
  exact ite_unseen rfl ((h.home q _ _ _ _ _).trans (foldl_unseen hrekey _ s))

theorem BlindToWrites.arrive (h : BlindToWrites g) (s : State) (w : PWrite) : g (arrive s w) = g s := by
  have hwrite := h.homeWrite s w.key w.comp w.addr w.bytes
  refine (h.toBlindToReads.countRange _ _ _).trans (ite_unseen ?_ ((h.toBlindToReads.touch _ _ _ _ _ _).trans hwrite))
  exact (foldl_unseen h.toBlindToReads.doomLine _ _).trans hwrite

/-- Accepted writes that perform on their die and arrive. -/
theorem BlindToWrites.arriveAll (h : BlindToWrites g) (s : State) (p : PWrite → Bool) : g (arriveAll s p) = g s := by
  have hsee : g (seeAll s p) = g s :=
    (foldl_unseen (fun s _ => h.toBlindToReads.touch s _ _ _ _ _) _ _).trans (h.pend s _)
  exact (foldl_unseen h.arrive _ _).trans ((h.pend (seeAll s p) _).trans hsee)

theorem BlindToWrites.orLeaf (h : BlindToWrites g) (s : State) (r : Runner) (addr : Nat) (write : Bool) :
    g (orLeaf s r addr write) = g s := by
  have hdrain := (h.toBlindToReads.countRange (drainSectors s none r.die addr 8) addr 8).trans (h.arriveAll s _)
  exact ite_unseen hdrain ((h.toBlindToReads.touch _ _ _ _ _ _).trans ((h.homeWrite _ _ _ _ _).trans hdrain))

/-- The marking of a page. -/
theorem BlindToWrites.markAccess (h : BlindToWrites g) (s : State) (r : Runner) (t : Tr) (write : Bool) :
    g (markAccess s r t write) = g s := by
  unfold Machine.markAccess
  refine ite_unseen rfl ?_
  split
  · rfl
  · rename_i e addr _
    let q := if leafMarked e write then walkReads s r t.va else Machine.orLeaf (walkReads s r t.va) r addr write
    have hwalk := h.toBlindToReads.walkReads s r t.va
    exact (h.tlb q _).trans (ite_unseen hwalk ((h.orLeaf _ _ _ _).trans hwalk))

end

/-- Memory is no concern of a read. -/
theorem blindToReads_mem : BlindToReads State.mem := ⟨fun _ _ _ _ => rfl, fun _ _ => rfl, fun _ _ => rfl, fun _ _ => rfl⟩

/-- Nor are the accepted writes. -/
theorem blindToReads_pend : BlindToReads State.pend := ⟨fun _ _ _ _ => rfl, fun _ _ => rfl, fun _ _ => rfl, fun _ _ => rfl⟩

/-- Who answers an access is no concern of an access (R482, R488). -/
theorem blindToWrites_answeredOutside (pa : Nat) : BlindToWrites fun s => answeredOutside s pa where
  runners _ _ _ _ := rfl
  dev _ _ := rfl
  cloaks _ _ := rfl
  outb _ _ := rfl
  pend _ _ := rfl
  lines _ _ _ _ := rfl
  home _ _ _ _ _ _ := rfl
  tlb _ _ := rfl

/-! ## Stores (R237) -/

/-- A store to memory outside the atrium adds its write to the accepted ones. -/
theorem storeDone_memory {s : State} {t : Tr} {bs : List Byte}
    (hpool : poolOf t.pa = .hbm ∨ poolOf t.pa = .lpddr ∨ poolOf t.pa = .cxl) (ho : answeredOutside s t.pa = false) :
    let m := performTickets (fun e => e.who == s.me.id && meets e.src e.len t.pa bs.length)
      (markAccess s ((leadAgent s).runner s) t true)
    storeDone t bs s =
      { m with pend := m.pend ++ [(leadAgent s).write t.pa bs ((keyId m t.key).getD 0) t.comp] } := by
  intro m
  have hom : answeredOutside m t.pa = false :=
    ((blindToWrites_answeredOutside t.pa).performTickets _ _).trans
      (((blindToWrites_answeredOutside t.pa).markAccess s _ t true).trans ho)
  unfold storeDone acceptBytes
  dsimp only
  rw [if_neg (by exact fun h => Bool.false_ne_true (hom.symm.trans h))]
  rcases hpool with hp | hp | hp <;> rw [hp] <;> rfl

/-! ## What agents read (R238) -/

/-- The last element of a list is the first that a search from its end meets. -/
theorem find?_reverse_concat {α : Type} (p : α → Bool) (l : List α) (x : α) :
    (l ++ [x]).reverse.find? p = if p x then some x else l.reverse.find? p := by
  rw [List.reverse_append, List.reverse_singleton, List.singleton_append, List.find?_cons]
  cases p x <;> rfl

/-- The addresses that a write covers. -/
theorem covers_iff {w : PWrite} {a : Nat} : w.covers a = true ↔ w.addr ≤ a ∧ a < w.addr + w.bytes.length :=
  decide_eq_true_iff

section
variable {s : State} {w : PWrite} {who : Option RunnerId} {die key a : Nat}

/-- A write performed on no die is its issuer's latest, and nobody else sees it. -/
theorem viewWrite_append_unseen (h : w.seen = false) : viewWrite { s with pend := s.pend ++ [w] } who die a =
    if some w.who = who ∧ w.addr ≤ a ∧ a < w.addr + w.bytes.length then some w else viewWrite s who die a := by
  have htest : (!w.seen && some w.who == who && w.covers a) = true ↔
      some w.who = who ∧ w.addr ≤ a ∧ a < w.addr + w.bytes.length := by
    rw [← covers_iff, h]
    simp
  have hdie : ¬(w.seen && w.die == die && w.covers a) = true := by simp [h]
  rw [viewWrite, find?_reverse_concat, find?_reverse_concat, if_neg hdie, if_congr htest rfl rfl]
  split <;> rfl

/-- A write performed last on its die is the latest that its agents see where none has a write of its own. -/
theorem viewWrite_append_seen (h : w.seen = true)
    (hown : ∀ x ∈ s.pend, x.seen = false → some x.who = who → x.covers a = false) :
    viewWrite { s with pend := s.pend ++ [w] } who die a =
      if w.die = die ∧ w.addr ≤ a ∧ a < w.addr + w.bytes.length then some w else viewWrite s who die a := by
  have hnone : s.pend.reverse.find? (fun x => !x.seen && some x.who == who && x.covers a) = none := by
    refine List.find?_eq_none.mpr fun x hx htest => ?_
    simp only [Bool.and_eq_true, Bool.not_eq_true', beq_iff_eq] at htest
    obtain ⟨⟨hseen, hwho⟩, hcovers⟩ := htest
    rw [hown x (List.mem_reverse.mp hx) hseen hwho] at hcovers
    exact Bool.false_ne_true hcovers
  have hissuer : ¬(!w.seen && some w.who == who && w.covers a) = true := by simp [h]
  have htest : (w.seen && w.die == die && w.covers a) = true ↔
      w.die = die ∧ w.addr ≤ a ∧ a < w.addr + w.bytes.length := by
    rw [← covers_iff, h]
    simp
  rw [viewWrite, viewWrite, find?_reverse_concat, find?_reverse_concat, if_neg hissuer, hnone, if_congr htest rfl rfl]
  rfl

/-- What is read where the latest write is known: its byte, or the byte read before. -/
theorem viewByte_of_viewWrite {p : Prop} [Decidable p]
    (h : viewWrite { s with pend := s.pend ++ [w] } who die a = if p then some w else viewWrite s who die a) :
    viewByte { s with pend := s.pend ++ [w] } who die key a =
      if p then w.bytes.getD (a - w.addr) 0 else viewByte s who die key a := by
  by_cases hp : p
  · rw [if_pos hp] at h ⊢
    rw [viewByte, h]
  · rw [if_neg hp] at h ⊢
    rw [viewByte, h]
    rfl

end

end Sys2Proof.Machine

namespace Sys2Proof

open Sys2Proof.Machine Sys2Proof.Claims

/-- Settles O13: a store adds one write, and what is read where a write was added last follows from who sees it. -/
theorem acceptedWrites : Obligations.AcceptedWrites := by
  refine ⟨fun s t bs hpool ho => ?store, fun s w who die key a => ?view⟩
  case store =>
    intro m
    rw [storeDone_memory hpool ho]
    exact ⟨blindToReads_mem.performTickets _ m, _, congrArg (· ++ [_]) (blindToReads_pend.performTickets _ m),
      rfl, rfl, rfl, rfl, rfl⟩
  case view =>
    exact ⟨fun h => viewByte_of_viewWrite (viewWrite_append_unseen h),
      fun h hown => viewByte_of_viewWrite (viewWrite_append_seen h hown)⟩

end Sys2Proof

/-! # Batches and porters (R245, R246, R292, R309 to R312)

O32. A batch form is its checks and an effect; an operation that has done its work leaves with its ranges. -/

namespace Sys2Proof.Machine

open Sys2Proof Sys2Proof.Claims

/-! ## Sealing and telling (R309, R311) -/

section
variable {s : State} {d a : Reg}

/-- The runner whose open set BSEAL has closed: a batch under the next number; the finished batches that nothing marks are
accounted for. -/
def sealOpen (s : State) (r : Runner) : Runner :=
  { r with
    sealed := r.sealed + 1
    openOps := []
    openMark := none
    batches := (r.batches.filter fun b => !batchDone s b || b.mark.isSome) ++ [⟨r.sealed + 1, r.openOps, r.openMark⟩] }

/-- The batch that BSEAL closes is one of the runner's. -/
theorem sealed_mem_sealOpen (r : Runner) : ⟨r.sealed + 1, r.openOps, r.openMark⟩ ∈ (sealOpen s r).batches :=
  List.mem_append_right _ (List.mem_singleton_self _)

/-- Batches that are not finished stay. -/
theorem unfinished_mem_sealOpen {r : Runner} {b : Batch} (hb : b ∈ r.batches) (hdone : batchDone s b = false) :
    b ∈ (sealOpen s r).batches :=
  List.mem_append_left _ (List.mem_filter.mpr ⟨hb, by rw [hdone]; rfl⟩)

/-- BSEAL with a number and a place left (R309). -/
theorem execBseal_next (htx : s.me.tx.active = false) (hnum : s.me.sealed < 2 ^ 32 - 1) (hroom : unfinished s < 16) :
    execBseal d s = .next (writes d (BitVec.ofNat 64 (s.me.sealed + 1)) { s with me := sealOpen s s.me }) :=
  (runLead_notInTx htx).trans (runLead_get.trans ((runLead_need_true (decide_eq_true hnum)).trans
    ((runLead_readyIf_true (decide_eq_true hroom)).trans (runLead_ok (u := ()) rfl))))

/-- BSEAL with no number left (R309). -/
theorem execBseal_last (htx : s.me.tx.active = false) (hnum : s.me.sealed = 2 ^ 32 - 1) :
    execBseal d s = .next (leadTrap 0x72 0 s.issue.pc s) :=
  (runLead_notInTx htx).trans (runLead_get.trans (runLead_need_false (decide_eq_false fun h => by
    have hlt : s.me.sealed < 2 ^ 32 - 1 := h
    omega)))

end

/-! ## Waiting (R310, R312) -/

/-- The mark that a wait for the batches of a test reports: that of the first one marked. -/
def firstMark (p : Batch → Bool) (s : State) : Option Word :=
  (s.me.batches.find? fun b => p b && b.mark.isSome).bind (·.mark)

/-- The trap that reports it; the marks of these batches are cleared. -/
def trapsOnMark (p : Batch → Bool) (pa : Word) (s : State) : State :=
  leadTrap 0xA1 pa s.issue.pc
    { s with me := { s.me with batches := mapIf p (fun b => { b with mark := none }) s.me.batches } }

section
variable {s : State} {p : Batch → Bool} {a : Reg}

/-- A wait that is over ends, or traps where one of its batches is marked. -/
theorem runLead_reportMarks : (firstMark p s = none → runLead (reportMarks p) s = .next (onward s)) ∧
    ∀ pa, firstMark p s = some pa → runLead (reportMarks p) s = .next (trapsOnMark p pa s) := by
  have hrun : (reportMarks p).run (onward s) = match firstMark p s with
      | none => .ok ((), onward s)
      | some pa => .error (.park fun s => leadTrap 0xA1 pa s.issue.pc
          { s with me := { s.me with batches := mapIf p (fun b => { b with mark := none }) s.me.batches } }) := by
    simp only [reportMarks, run_bind, run_get]
    show StateT.run (match firstMark p s with | none => _ | some pa => _) (onward s) = _
    cases firstMark p s <;> rfl
  constructor
  · intro h
    rw [h] at hrun
    exact runLead_ok hrun
  · intro pa h
    rw [h] at hrun
    exact runLead_error hrun

/-- BWAIT for a number that no batch has yet (R310). -/
theorem execBwait_unsealed (htx : s.me.tx.active = false) (h : s.me.sealed < (s.me.sreg a).toNat) :
    execBwait a s = .next (leadTrap 0x72 0 s.issue.pc s) :=
  (runLead_notInTx htx).trans (runLead_get.trans (runLead_reg.trans
    (runLead_need_false (decide_eq_false (Nat.not_le.mpr h)))))

/-- BWAIT with the batches up to its number complete (R310). -/
theorem execBwait_done (htx : s.me.tx.active = false) (h : (s.me.sreg a).toNat ≤ s.me.sealed)
    (hdone : ∀ b ∈ s.me.batches, (s.me.sreg a).toNat < b.no ∨ batchDone s b = true) :
    execBwait a s = runLead (reportMarks fun b => decide (b.no ≤ (s.me.sreg a).toNat)) s := by
  have hall : (s.me.batches.all fun b => decide ((s.me.sreg a).toNat < b.no) || batchDone s b) = true :=
    List.all_eq_true.mpr fun b hb => by simpa using hdone b hb
  exact (runLead_notInTx htx).trans (runLead_get.trans (runLead_reg.trans ((runLead_need_true (decide_eq_true h)).trans
    (runLead_readyIf_true hall))))

/-- BWAITN with no more than its number of batches unfinished (R310). -/
theorem execBwaitn_done (htx : s.me.tx.active = false) (h : unfinished s ≤ (s.me.sreg a).toNat) :
    execBwaitn a s = runLead (reportMarks (batchDone s)) s :=
  (runLead_notInTx htx).trans (runLead_get.trans (runLead_reg.trans (runLead_readyIf_true (decide_eq_true h))))

end

/-! ## Porters (R246, R292, R312) -/

section
variable {s : State} {o : EngOp}

/-- A porter starts its next operation (R292). -/
theorem execPorterOperationStart_some {p : Nat} (h : nextStart s p = some o) : execPorterOperationStart p s =
    .next { s with ops := mapIf (fun x => x.no == o.no) (fun x => { x with started := true }) s.ops } := by
  rw [execPorterOperationStart, h]

/-- It starts none while four run, or none is left. -/
theorem execPorterOperationStart_none {p : Nat} (h : nextStart s p = none) : execPorterOperationStart p s = .next s := by
  rw [execPorterOperationStart, h]

/-- COPY_COMPLETE of a copy whose moves can be made now. -/
theorem execCopyComplete_copy {n : Nat} {ms : List Move} {raw : Bool}
    (ho : s.ops.find? (fun x => x.no == n && x.started) = some o) (hk : o.kind = .copy ms raw)
    (hready : movesReady s o raw ms = true) :
    execCopyComplete n s = .next (closeOp o (doMoves o raw ms s).2 (doMoves o raw ms s).1) := by
  simp only [execCopyComplete, ho, hk, hready, if_true]

/-- Marking a batch changes no request beyond the package. -/
theorem markBatch_outb (first : Option Word) : (markBatch o first s).outb = s.outb := by
  unfold markBatch
  split <;> rfl

/-- An operation that no target outside has still to accept a write of leaves at once. -/
theorem closeOp_accepted {first : Option Word} (h : (s.outb.any fun b => b.ask == .op o.no && b.wr) = false) :
    closeOp o first s = endOp o.no (markBatch o first s) := by
  rw [← markBatch_outb (o := o) first] at h
  simp only [closeOp, h, Bool.false_eq_true, if_false]

/-- The end of contexts changes neither operations nor ranges. -/
theorem finishEnds_keeps {α : Type} {g : State → α}
    (hg : ∀ (s : State) me others ctxs, g { s with me := me, others := others, ctxs := ctxs } = g s) (s : State) :
    g (finishEnds s) = g s := by
  refine List.foldlRecOn (motive := fun t => g t = g s) _ _ rfl fun t ht c _ => ?_
  split
  · exact (hg t _ _ _).trans ht
  · exact ht

/-- An operation that leaves is an operation of the package no more. -/
theorem endOp_ops (n : Nat) (s : State) : (endOp n s).ops = s.ops.filter fun o => o.no != n :=
  finishEnds_keeps (g := State.ops) (fun _ _ _ _ => rfl) _

/-- Its ranges leave the range-lock tables of every partition. -/
theorem endOp_parts (n : Nat) (s : State) :
    (endOp n s).parts = s.parts.map fun p => { p with ranges := p.ranges.filter fun g => g.op != n } :=
  finishEnds_keeps (g := State.parts) (fun _ _ _ _ => rfl) _

/-- Its ranges of landings leave. -/
theorem op_ne_of_mem_endOp_lranges {n : Nat} {g : LRange} (h : g ∈ (endOp n s).lranges) : g.op ≠ n := by
  rw [endOp, finishEnds_keeps (g := State.lranges) fun _ _ _ _ => rfl] at h
  have hrest : g ∈ s.lranges.filter fun g => g.op != n := List.mem_of_mem_filter h
  simpa using (List.mem_filter.mp hrest).2

end

end Sys2Proof.Machine

namespace Sys2Proof

open Sys2Proof.Machine Sys2Proof.Claims

/-- The batch forms of O32 (R309 to R312). -/
theorem batches : Batches := by
  intro s d a htx n marked trapped
  refine ⟨fun hnum hroom => ?bseal, fun hnum => (Exec.bseal s).trans (execBseal_last htx hnum),
    (Exec.bstat s).trans (runLead_ok (u := ()) rfl), fun h => (Exec.bwait s).trans (execBwait_unsealed htx h),
    fun h hdone => ?bwait, fun h => ?bwaitn⟩
  case bseal =>
    exact ⟨_, (Exec.bseal s).trans (execBseal_next htx hnum hroom), rfl, rfl, rfl, sealed_mem_sealOpen s.me,
      fun b hb hdone => unfinished_mem_sealOpen hb hdone, rfl, rfl, rfl, rfl⟩
  case bwait =>
    rw [(Exec.bwait s).trans (execBwait_done htx h hdone)]
    exact runLead_reportMarks
  case bwaitn =>
    rw [(Exec.bwaitn s).trans (execBwaitn_done htx h)]
    exact runLead_reportMarks

/-- The steps of porters of O32 (R245, R246, R292, R312). -/
theorem porterWork : PorterWork := by
  refine ⟨fun s p => ⟨fun o ho => ⟨_, execPorterOperationStart_some ho, rfl, rfl, rfl⟩, execPorterOperationStart_none⟩,
    fun s n o ho ms raw hk hready => (Exec.copyComplete s).trans (execCopyComplete_copy ho hk hready),
    fun s o first h => closeOp_accepted h, fun s n => ⟨fun g hg => op_ne_of_mem_endOp_lranges hg, ?parts, ?ops⟩⟩
  case parts =>
    intro p hp g hg
    rw [endOp_parts] at hp
    obtain ⟨p, -, rfl⟩ := List.mem_map.mp hp
    simpa using (List.mem_filter.mp hg).2
  case ops =>
    intro o ho
    rw [endOp_ops] at ho
    simpa using (List.mem_filter.mp ho).2

/-- Settles O32: the batch forms, and the steps of a porter. -/
theorem batchesAndPorters : Obligations.BatchesAndPorters := ⟨batches, porterWork⟩

end Sys2Proof

/-! # What reaches the package and its targets outside (R237, R478, R482, R485, R486, R488, R492)

O39. Each step is a list of guards before one change; of a timeout, what becomes of an access follows from whether it is late
and whether anybody is left to consume its answer. -/

namespace Sys2Proof.Machine

open Sys2Proof Sys2Proof.Claims

/-! ## Arrival (R237, R239) -/

section
variable {s : State} {k : Nat} {w : PWrite}

/-- An earlier write of the die that leads the k-th one is still on its way. -/
def behindEarlier (s : State) (k : Nat) (w : PWrite) : Bool :=
  (s.pend.take k).any fun x => x.seen && x.die == w.die && x.leads s w

/-- A write that nothing keeps waiting reaches its home. -/
theorem execMemoryWriteArrival_arrives (h : s.pend[k]? = some w) (hseen : w.seen = true) (hfirst : behindEarlier s k w = false)
    (hlock : lockedOut s (some w.who) w.addr w.bytes.length = false) :
    execMemoryWriteArrival k s = .next (arrive { s with pend := s.pend.eraseIdx k } w) := by
  unfold behindEarlier at hfirst
  simp only [execMemoryWriteArrival, h, hseen, hfirst, hlock, Bool.not_true, Bool.or_self, Bool.false_eq_true, if_false]

/-- One that is not performed on its die, or stands behind an earlier one, stays. -/
theorem execMemoryWriteArrival_waits (h : s.pend[k]? = some w) (hw : w.seen = false ∨ behindEarlier s k w = true) :
    execMemoryWriteArrival k s = .next s := by
  have hguard : (!w.seen || behindEarlier s k w || lockedOut s (some w.who) w.addr w.bytes.length) = true := by
    rcases hw with hw | hw <;> simp [hw]
  unfold behindEarlier at hguard
  simp only [execMemoryWriteArrival, h, hguard, if_true]

end

/-! ## Accesses beyond the package (R399, R482, R488) -/

section
variable {s : State} {who : RunnerId} {v : Word} {k : Nat} {o : Outbound}

/-- The grid whose completion word an access carries is live no more once the access is gone. -/
theorem ask_ne_grid_of_mem_doneGrids {gone : Outbound → Bool} {g : Grid} (hg : g ∈ (doneGrids gone s).grids)
    (ho : o ∈ s.outb) (hgone : gone o = true) (hwr : o.wr = true) : o.ask ≠ .grid g.handle := by
  intro hask
  have hkept := (List.mem_filter.mp hg).2
  rw [List.any_eq_true.mpr ⟨o, ho, by simp [hgone, hwr, hask]⟩] at hkept
  exact Bool.false_ne_true hkept

/-- The state without the k-th access, which was taken. -/
def accessTaken (s : State) (k : Nat) (o : Outbound) : State :=
  { doneGrids (· == o) s with outb := s.outb.eraseIdx k }

/-- What becomes of the first access of a runner that its target can take or answer. -/
theorem execOutboundWriteAccept_first
    (hk : s.outb.findIdx? (fun o => o.who == who && (o.wr || o.data.isNone) && o.reaches s) = some k)
    (ho : s.outb[k]? = some o) : execOutboundWriteAccept who v s =
      if o.wr then
        if !(poolOf o.pa).isMemory then .next (accessTaken s k o)
        else if lockedOut s none o.pa o.bytes.length then .next s
        else .next (countRange (touch (homeWrite (accessTaken s k o) o.key o.comp o.pa o.bytes) none true true o.pa
          o.bytes.length) o.pa o.bytes.length)
      else if (poolOf o.pa).isMemory then
        .next ((accessTaken s k o).onRunner who fun r => if r.wait = .answer then { r with wait := .none } else r)
      else if o.ofPort then .next (accessTaken s k o)
      else .next { s with outb := s.outb.set k { o with data := some v } } := by
  simp only [execOutboundWriteAccept, hk, ho]
  rfl

end

/-! ## Timeouts (R488) -/

/-- An access whose home package has not answered within 2^20 clocks of its issuer's core. -/
def isLate (s : State) (who : RunnerId) (o : Outbound) : Bool :=
  o.who == who && (o.wr || o.data.isNone) && poolOf o.pa != .window && decide (o.since + 2 ^ 20 ≤ clockOf s who)

/-- A late access that leaves: only an engine's read stays, to be found lost. -/
def lateLeaves (s : State) (who : RunnerId) (o : Outbound) : Bool := isLate s who o && (o.wr || o.ofPort || o.readBy who)

/-- What a timeout makes of an access that stays. -/
def timedOut (s : State) (who : RunnerId) (o : Outbound) : Outbound :=
  if isLate s who o then { o with data := some 0, lost := true } else o

/-- The state in which the runner, if one of its instructions reads a late answer, consumes it; grids whose completion words
are late are live no more. -/
def lateConsumed (s : State) (who : RunnerId) : State :=
  if s.outb.any fun o => isLate s who o && o.readBy who
  then (doneGrids (isLate s who) s).onRunner who fun r => { r with wait := .timedOut }
  else doneGrids (isLate s who) s

section
variable {s : State} {who : RunnerId} {o : Outbound}

/-- A timeout consumes what is read and settles the other late accesses. -/
theorem exec_remoteAccessTimeout (s : State) (who : RunnerId) : exec (.remoteAccessTimeout who) s =
    .next { lateConsumed s who with outb := (s.outb.filter fun o => !lateLeaves s who o).map (timedOut s who) } := rfl

theorem lateConsumed_mem : (lateConsumed s who).mem = s.mem := by
  unfold lateConsumed
  split <;> rfl

theorem lateConsumed_grids : (lateConsumed s who).grids = (doneGrids (isLate s who) s).grids := by
  unfold lateConsumed
  split <;> rfl

/-- The runner in focus reads a late answer. -/
theorem lateConsumed_me (ho : o ∈ s.outb) (hlate : isLate s who o = true) (hread : o.readBy who = true)
    (hme : s.me.id = who) : (lateConsumed s who).me = { s.me with wait := .timedOut } := by
  rw [lateConsumed, if_pos (List.any_eq_true.mpr ⟨o, ho, by rw [hlate, hread]; rfl⟩)]
  exact if_pos hme

/-- An access that has waited long enough is late. -/
theorem isLate_of (hsince : o.since + 2 ^ 20 ≤ clockOf s who) (hwho : o.who = who) (hpool : poolOf o.pa ≠ .window)
    (hopen : o.wr = true ∨ o.data = none) : isLate s who o = true := by
  have hopen' : (o.wr || o.data.isNone) = true := by rcases hopen with h | h <;> simp [h]
  simp only [isLate, hwho, beq_self_eq_true, hopen', bne_iff_ne.mpr hpool, hsince, decide_true, Bool.and_self]

/-- Before that it is not. -/
theorem isLate_eq_false (hsince : clockOf s who < o.since + 2 ^ 20) : isLate s who o = false := by
  simp only [isLate, Nat.not_le.mpr hsince, decide_false, Bool.and_false]

/-- An access that does not leave stays, with what the timeout makes of it. -/
theorem timedOut_mem (ho : o ∈ s.outb) (hstays : lateLeaves s who o = false) :
    timedOut s who o ∈ (s.outb.filter fun o => !lateLeaves s who o).map (timedOut s who) :=
  List.mem_map_of_mem (List.mem_filter.mpr ⟨ho, by rw [hstays]; rfl⟩)

/-- One that leaves is there no more: what a late access becomes is an answered read, which it was not. -/
theorem not_mem_timedOut (hleaves : lateLeaves s who o = true) (hopen : o.wr = true ∨ o.data = none) :
    o ∉ (s.outb.filter fun o => !lateLeaves s who o).map (timedOut s who) := by
  intro h
  obtain ⟨x, hx, hxo⟩ := List.mem_map.mp h
  have hstays : lateLeaves s who x = false := by simpa using (List.mem_filter.mp hx).2
  cases hlate : isLate s who x with
  | false =>
    have hsame : x = o := by simpa [timedOut, hlate] using hxo
    rw [hsame, hleaves] at hstays
    exact absurd hstays (by decide)
  | true =>
    have hread : x.wr = false := by
      cases hwr : x.wr with
      | false => rfl
      | true => simp [lateLeaves, hlate, hwr] at hstays
    rw [timedOut, if_pos hlate] at hxo
    subst hxo
    rcases hopen with hwr | hdata
    · exact absurd (hread.symm.trans hwr) (by decide)
    · cases hdata

end

/-! ## Peers (R478, R479, R484 to R486, R492) -/

section
variable {s : State} {port off n pa : Nat} {bs : List Byte}

/-- A peer's write through a window reaches its port; one that hits none is dropped. -/
theorem execPeerWrite_endpoint (hport : isEndpoint s port = true) (hbs : bs ≠ []) (hlen : bs.length ≤ 4096) :
    execPeerWrite port off bs s = match windowPlace s port off bs.length with
      | none => .next (peerDrop s)
      | some (pa, k) => .next { s with landed := s.landed ++ [⟨port, off / 2 ^ 30, pa, k, bs⟩] } := by
  have hguard : (!isEndpoint s port || bs.isEmpty || decide (4096 < bs.length)) = false := by
    simp [hport, hbs, hlen]
  rw [execPeerWrite, hguard]
  rfl

/-- A peer's read through a window is served where the key slot of the window holds a key, and dropped where it is empty. -/
theorem execPeerRead_window {slot : Nat} (hport : isEndpoint s port = true)
    (hslot : windowSlot s port off n = some (pa, slot)) : execPeerRead port off n s =
      .next (if (keyId s slot).isSome then peerLoad port pa n s else peerDrop s) := by
  simp only [execPeerRead, hport, hslot, Bool.not_true, Bool.false_eq_true, if_false]

/-- The next unit of the oldest write that a port holds is performed, unless the holder of the fallback lock is in the way. -/
theorem landNext_first {w : Landed} (h : s.landed.find? (fun w => w.port == port) = some w) :
    let k := min w.bytes.length (8 - w.pa % 8)
    landNext port s = if lockedOut s none w.pa k then s else
      peerStore port w.key false w.pa (w.bytes.take k)
        { s with landed := if (w.past k).bytes.isEmpty then s.landed.erase w else w.past k :: s.landed.erase w } := by
  rw [landNext, h]

/-- An access through BAR4 of an open port under an installed key. -/
theorem execBar4Access_open {k : Nat} {wr : Bool} (hport : isEndpoint s port = true)
    (hopen : (vget s.dev.portctl port).getLsbD 63 = true) (hkey : keyId s (slice (vget s.dev.portctl port) 47 40) = some k) :
    let a := s.pkg.toNat * 2 ^ 48 + pa % 2 ^ 48
    execBar4Access port pa wr bs s =
      if wr then (if lockedOut s none a bs.length then .next s else .next (peerStore port k false a bs s))
      else .next (peerLoad port a bs.length s) := by
  intro a
  simp only [execBar4Access, hport, hopen, hkey, Bool.not_true, Bool.or_self, Bool.false_eq_true, if_false]
  rfl

end

end Sys2Proof.Machine

namespace Sys2Proof

open Sys2Proof.Machine Sys2Proof.Claims

/-- Settles O39, step by step. -/
theorem trafficSteps : Obligations.TrafficSteps := by
  refine ⟨fun s k w h => ⟨?arrives, fun hw => (Exec.memoryWriteArrival s).trans (execMemoryWriteArrival_waits h hw)⟩,
    fun s who v k o hk ho => ?outside, fun s who => ?timeout,
    fun s port off bs hport hbs hlen => ?peerWrite, fun s port w h => ?landing,
    fun s port off n pa slot hport hslot => ?peerRead, fun s port pa bs k hport => ?bar4⟩
  case arrives =>
    intro hseen hfirst hlock
    exact (Exec.memoryWriteArrival s).trans (execMemoryWriteArrival_arrives h hseen hfirst hlock)
  case outside =>
    intro mem t
    rw [(Exec.outboundWriteAccept s).trans (execOutboundWriteAccept_first hk ho)]
    refine ⟨fun g hg hwr => ask_ne_grid_of_mem_doneGrids hg (List.mem_of_getElem? ho) (beq_self_eq_true o) hwr,
      fun hwr hmem => ?_, fun hwr hmem hlock => ?_, fun hwr hmem hport => ?_, fun hwr hmem hport => ?_,
      fun hwr hmem => ?_⟩ <;>
      rw [show mem = (poolOf o.pa).isMemory from rfl] at hmem
    · rw [hwr, hmem]; rfl
    · rw [hwr, hmem, hlock]; rfl
    · rw [hwr, hmem, hport]; rfl
    · rw [hwr, hmem, hport]; rfl
    · rw [hwr, hmem]; rfl
  case timeout =>
    refine ⟨_, exec_remoteAccessTimeout s who, lateConsumed_mem, fun o ho => ⟨fun hearly => ?early, fun hsince hwho hpool =>
      ⟨fun hwr => ?write, fun hwr hdata hread hme => ?read, fun hwr hdata hread hport => ?engine⟩⟩⟩
    case early =>
      have hlate := isLate_eq_false hearly
      have hmem := timedOut_mem ho (show lateLeaves s who o = false by rw [lateLeaves, hlate]; rfl)
      rwa [timedOut, hlate] at hmem
    case write =>
      have hlate := isLate_of hsince hwho hpool (.inl hwr)
      refine ⟨not_mem_timedOut (by rw [lateLeaves, hlate, hwr]; rfl) (.inl hwr), fun g hg => ?_⟩
      exact ask_ne_grid_of_mem_doneGrids (lateConsumed_grids ▸ hg) ho hlate hwr
    case read =>
      have hlate := isLate_of hsince hwho hpool (.inr hdata)
      exact ⟨lateConsumed_me ho hlate hread hme,
        not_mem_timedOut (by rw [lateLeaves, hlate, hread, Bool.or_true]; rfl) (.inr hdata)⟩
    case engine =>
      have hlate := isLate_of hsince hwho hpool (.inr hdata)
      have hmem := timedOut_mem ho (show lateLeaves s who o = false by rw [lateLeaves, hlate, hwr, hread, hport]; rfl)
      rwa [timedOut, if_pos hlate] at hmem
  case peerWrite =>
    rw [(Exec.peerWrite s).trans (execPeerWrite_endpoint hport hbs hlen)]
    exact ⟨fun pa k hplace => by rw [hplace], fun hplace => by rw [hplace]; rfl⟩
  case landing =>
    intro k left
    rw [landNext_first h]
    exact ⟨fun hlock => if_pos hlock, fun hlock => if_neg (Bool.eq_false_iff.mp hlock)⟩
  case peerRead =>
    rw [(Exec.peerRead s).trans (execPeerRead_window hport hslot)]
    exact ⟨fun hkey => congrArg Host.Outcome.next (if_pos hkey),
      fun hkey => congrArg Host.Outcome.next (if_neg (Bool.eq_false_iff.mp hkey))⟩
  case bar4 =>
    intro ctl a hopen hkey hlock
    refine ⟨(Exec.bar4Access s).trans ((execBar4Access_open hport hopen hkey).trans ?_),
      (Exec.bar4Access s).trans (execBar4Access_open hport hopen hkey)⟩
    exact (if_pos rfl).trans (if_neg (Bool.eq_false_iff.mp hlock))

end Sys2Proof

/-! # Lane atomics and the lane FENCE (R248 to R252, R255)

O48. A lane atomic checks every lane, then updates lane after lane between its release part and what order sc asks; the
operations of the forms are those of the statement at every width. -/

namespace Sys2Proof.Machine

open Sys2Proof Sys2Proof.Claims

/-- The places of the lanes of an atomic, or their causes (R251). -/
def atomicSpots (c : LaneCtx) (q : State) : List (Nat × Except (Nat × Word) Spot) :=
  (lanesOf c.act).map fun k =>
    (k, spotCheck q c.f (atomicSpace c.f) k (c.f.offset (sextN 32 (c.a k))) (tyBits c.f.t / 8) Need.both)

section
variable {ok : Nat → Bool} {f : Nat → Nat → Nat → Nat → Nat} {s : State}

/-- A lane atomic of which some lane has a cause stops with the lanes' causes (R191, R252). -/
theorem laneAtomicForm_stops (h : LaneReady (atomicRule ok) s)
    (hl : laneErrors (atomicSpots (laneIn (atomicRule ok) s) (laneOn (atomicRule ok) s)) ≠ []) :
    laneAtomicForm ok f s = .next (stopLane (laneCtx s) (laneNeeds (atomicRule ok) s)
      (.lanes (laneErrors (atomicSpots (laneIn (atomicRule ok) s) (laneOn (atomicRule ok) s))) .kept) s) := by
  unfold atomicSpots at hl ⊢
  rw [laneAtomicForm, runLane_ready h]
  simp only [run_bind, run_get, run_allLanes_error hl]

/-- The old values of an atomic are loaded. -/
theorem run_loadedLanes (c : LaneCtx) (z : Nat) (vs : List (Nat × Nat)) (s : State) :
    (onLanes fun l => vs.foldl (fun l x => l.putLoad c.f.t c.f.d.toNat x.1 (leBytes z x.2)) l).run s =
      .ok ((), loadedLanes c (vs.map fun x => (x.1, leBytes z x.2)) s) := by
  rw [run_onLanes, loadedLanes]
  simp only [List.foldl_map]

/-- A change that is left out where a test holds, and what follows it in both cases. -/
theorem run_unless {p : Prop} [Decidable p] {g : State → State} {k : Op Unit} :
    (if p then k else modify g >>= fun _ => k).run s = k.run (if p then s else g s) := by
  split <;> rfl

/-- A lane atomic whose lanes all pass updates them in order, loads the old values, and does what its order asks. -/
theorem laneAtomicForm_next {c : LaneCtx} {q : State} (h : LaneReady (atomicRule ok) s)
    (hc : laneIn (atomicRule ok) s = c) (hq : laneOn (atomicRule ok) s = q) {r : List (Nat × Nat) × List (Nat × Bool)}
    {u : State} (hl : laneErrors (atomicSpots c q) = [])
    (hrel : inAttempt c q = false → CanReleaseAt c.f.scope c.f.order q)
    (heach : (eachLane (fun k p => laneAtomic (laneAgent q 0) k (tyBits c.f.t / 8) (fun o => f (tyBits c.f.t) o
        (c.b k % 2 ^ tyBits c.f.t) (leNat (laneData q.me.l c.f.d.toNat k (tyBits c.f.t / 8))) % 2 ^ tyBits c.f.t) p)
      (laneOks (atomicSpots c q))).run (if inAttempt c q then q else releasedAt c.f.scope c.f.order q) = .ok (r, u)) :
    let t := loadedLanes c (r.1.map fun x => (x.1, leBytes (tyBits c.f.t / 8) x.2)) (spent q.me.id true u)
    let v := if inAttempt c q || !(atomicSpace c.f == .mem || atomicSpace c.f == .atrium) then t else markDirty t
    (inAttempt c q = false → CanScAt c.f.scope c.f.order v) →
    laneAtomicForm ok f s =
      .next (leaveLanes c.age r.2 (if inAttempt c q then v else scAt c.f.scope c.f.order v)) := by
  dsimp only
  intro hsc
  have hspend : (spendAnswers (laneAgent q 0)).run u = .ok ((), spent q.me.id true u) := Laws.run_spendAnswers _ u
  unfold atomicSpots at hl heach
  refine runLane_ok (u := ()) h ?_
  rw [hc, hq]
  simp only [run_bind, run_get, run_allLanes_ok hl, run_laneBefore hrel, heach, hspend, run_loadedLanes]
  rw [run_unless]
  simp only [run_bind, run_laneSc hsc, run_modify]

/-- A lane atomic is settled by its operation at every width. -/
theorem laneAtomic_of_laneAtomicForm {i : Instr} {g : Nat → Nat → Nat → Nat → Nat}
    (hi : ∀ s, exec i s = laneAtomicForm ok f s) (hfg : ∀ n, 0 < n → f n = g n) : LaneAtomic i ok g := by
  intro s h c q n z sp tx l q1
  have hfn : f n = g n := hfg n (tyBits_bounds c.f.t).1
  refine ⟨fun hl => (hi s).trans (laneAtomicForm_stops h hl), ?_⟩
  intro r u hl hrel heach t v hsc
  exact (hi s).trans (laneAtomicForm_next h rfl rfl hl hrel (by rw [← heach, ← hfn]; rfl) hsc)

end

/-- The smaller or larger of two patterns read as signed (R247). -/
theorem signedPick_eq {n : Nat} (hn : 0 < n) (wantMax : Bool) (o b : Nat) : signedPick wantMax n o b =
    if (BitVec.ofNat n o).sle (BitVec.ofNat n b) then (if wantMax then b else o) else (if wantMax then o else b) := by
  unfold signedPick
  rw [sextN_eq hn, sextN_eq hn, BitVec.sle]
  cases wantMax <;> cases decide ((BitVec.ofNat n o).toInt ≤ (BitVec.ofNat n b).toInt) <;> rfl

end Sys2Proof.Machine

namespace Sys2Proof

open Sys2Proof.Machine Sys2Proof.Claims

/-- Settles O48: every atomic is the shared form with its operation, and the lane FENCE its release part. -/
theorem laneAtomics : Obligations.LaneAtomics := by
  refine ⟨laneAtomic_of_laneAtomicForm Exec.vaadd fun _ _ => rfl, laneAtomic_of_laneAtomicForm Exec.vasub fun _ _ => rfl,
    laneAtomic_of_laneAtomicForm Exec.vamin ?smaller, laneAtomic_of_laneAtomicForm Exec.vamax ?larger,
    laneAtomic_of_laneAtomicForm Exec.vaminn ?minn, laneAtomic_of_laneAtomicForm Exec.vamaxn ?maxn,
    laneAtomic_of_laneAtomicForm Exec.vaand fun _ _ => rfl, laneAtomic_of_laneAtomicForm Exec.vaor fun _ _ => rfl,
    laneAtomic_of_laneAtomicForm Exec.vaxor fun _ _ => rfl, laneAtomic_of_laneAtomicForm Exec.vaxchg fun _ _ => rfl,
    laneAtomic_of_laneAtomicForm Exec.vacas fun _ _ => rfl, laneAtomic_of_laneAtomicForm Exec.vafadd fun _ _ => rfl, ?fence⟩
  case smaller => exact fun n hn => funext₃ fun o b _ => signedPick_eq hn false o b
  case larger => exact fun n hn => funext₃ fun o b _ => signedPick_eq hn true o b
  case minn => exact fun n _ => funext₃ fun o b _ => Nat.min_def
  case maxn => exact fun n _ => funext₃ fun o b _ => max_def o b
  case fence =>
    intro rule s h c q hrel
    refine (Exec.laneFence s).trans (runLane_ok (u := ()) h ?_)
    rw [run_bind, show (releaseReady _ _).run _ = _ from Laws.run_releaseReady hrel]
    rfl

end Sys2Proof

/-! # Copies (R292, R294 to R299, R302 to R305, R308)

O31. An operation of a copy issues as its claim says from any state; the lead forms and the lane forms are that operation behind
their own checks. -/

namespace Sys2Proof.Machine

open Sys2Proof Sys2Proof.Claims

/-! ## Steps in order -/

/-- A step that goes on, and what follows it. -/
theorem run_bind_ok {α β : Type} {m : Op α} {f : α → Op β} {x : α} {s t : State} (h : m.run s = .ok (x, t)) :
    (m >>= f).run s = (f x).run t := by
  rw [run_bind, h]

/-- Steps that go on to the end have each gone on. -/
theorem exists_of_run_bind {α β : Type} {m : Op α} {f : α → Op β} {s : State} {r : β × State}
    (h : (m >>= f).run s = .ok r) : ∃ x t, m.run s = .ok (x, t) ∧ (f x).run t = .ok r := by
  rw [run_bind] at h
  cases hm : m.run s with
  | error e => rw [hm] at h; cases h
  | ok p => rw [hm] at h; exact ⟨p.1, p.2, rfl, h⟩

/-- A check that goes on holds. -/
theorem of_run_need {c : Bool} {cause : Nat} {a : Word} {s : State} {r : Unit × State}
    (h : (need c cause a).run s = .ok r) : c = true := by
  cases c with
  | true => rfl
  | false => rw [run_need_false] at h; cases h

/-- A condition that holds passes. -/
theorem run_need_of {c : Bool} {cause : Nat} {a : Word} {s : State} (h : c = true) :
    (need c cause a).run s = .ok ((), s) := by
  rw [h, run_need_true]

/-! ## Sides of a copy (R298) -/

section
variable {c : Copier} {q : State} {k kind : Nat} {v ad : Word} {nd : Need} {f : Found}

/-- The address of a side that passes its checks is that of a memory operand, or the scratch place itself. -/
theorem run_sideAddress {α : Type} {next : Word → Op α} (h : Claims.Side c q k kind v nd ad f) :
    (if kind = 0 then c.operand v k >>= next else next v).run q = (next ad).run q := by
  rcases h with ⟨hkind, hoperand, -⟩ | ⟨hkind, rfl, -⟩
  · rw [if_pos hkind, run_bind_ok hoperand]
  · rw [if_neg hkind]

/-- The two searches for such a side give what was found: the first a scratch place, the second memory. -/
theorem run_findSide (h : Claims.Side c q k kind v nd ad f) : ∃ f0, (findScratch kind ad k).run q = .ok (f0, q) ∧
    (findMemory c kind ad k nd f0).run q = .ok (f, q) := by
  rcases h with ⟨hkind, -, ps, hps, -, rfl⟩ | ⟨hkind, rfl, t, o, hplace, rfl⟩
  · refine ⟨⟨[], [], none⟩, by rw [findScratch, if_pos hkind, run_pure], ?_⟩
    rw [findMemory, if_pos hkind]
    simp only [run_bind, run_get, Laws.run_orTrap_ok hps, run_pure]
  · refine ⟨⟨[], [(.land t.uid o t.modes, k)], some (t, o)⟩, ?_, by rw [findMemory, if_neg hkind, run_pure]⟩
    rw [findScratch, if_neg hkind, run_bind_ok hplace, run_pure]

/-- The keys of its pages serve. -/
theorem keyFault_side (h : Claims.Side c q k kind v nd ad f) : ∀ p ∈ f.mem, keyFault q p.t = false := by
  rcases h with ⟨-, -, ps, -, hkeys, rfl⟩ | ⟨-, -, t, o, -, rfl⟩
  · exact hkeys
  · exact fun p hp => nomatch hp

end

/-- A raw copy of whole lines passes its test of addresses and length (R308). -/
theorem run_rawAligned {d a : Word} {n : Nat} {q : State} (hd : d.toNat % 256 = 0) (ha : a.toNat % 256 = 0)
    (hn : n % 256 = 0) : (rawAligned d a n).run q = .ok ((), q) := by
  rw [rawAligned, run_bind_ok (run_need_of (beq_iff_eq.mpr hd)), run_bind_ok (run_need_of (beq_iff_eq.mpr ha)),
    run_need_of (beq_iff_eq.mpr hn)]

/-! ## What issues as a claim says -/

/-- The operation `m` of a copier on three operands does what the claim `f` says, from any state of which it speaks. -/
def DoesIssue (m : Copier → Word → Word → Word → Op Unit) (f : Copier → State → Word → Word → Word → State → Prop) : Prop :=
  ∀ c s x y z u, f c s x y z u → (m c x y z).run s = .ok ((), u)

/-- CPYL, whose two sides are found before either is checked for keys (R298, R304, R308). -/
theorem doesIssue_cpyl (dk sk : Nat) (raw : Bool) : DoesIssue (fun c d a n => issueCpyl c d a n dk sk raw)
    (fun c s d a n u => IssuesCpyl c s d a n dk sk raw u) := by
  intro c s d a n u ⟨hopen, h⟩
  refine (run_bind_ok (run_get s)).trans ((run_bind_ok (run_need_of (decide_eq_true hopen))).trans ?_)
  rcases h with ⟨rfl, rfl⟩ | ⟨hn, hsize, hrel, da, sa, f, g, hf, hg, hraw, hclash, hqueue⟩
  · rw [if_pos rfl, run_modify]
  obtain ⟨f0, hf0, hf1⟩ := run_findSide hf
  obtain ⟨g0, hg0, hg1⟩ := run_findSide hg
  have haligned : (if raw then rawAligned da sa n.toNat else pure ()).run (releasedAt c.scope c.order s) =
      .ok ((), releasedAt c.scope c.order s) := by
    cases raw with
    | false => rfl
    | true => obtain ⟨hd, ha, hk, -⟩ := hraw rfl; exact run_rawAligned hd ha hk
  have hcause : (if raw then rawCause (releasedAt c.scope c.order s) f.mem g.mem else none) = none := by
    cases raw with
    | false => rfl
    | true => obtain ⟨-, -, -, hcause⟩ := hraw rfl; exact hcause
  rw [if_neg hn]
  refine (run_bind_ok (Laws.run_openCopy hopen hrel)).trans ((run_sideAddress hf).trans ((run_sideAddress hg).trans
    ((run_bind_ok (run_need_of (decide_eq_true hsize))).trans ((run_bind_ok hf0).trans ((run_bind_ok hg0).trans
    ((run_optional haligned).trans ((run_bind_ok hf1).trans ((run_bind_ok hg1).trans ((run_bind_ok (run_get _)).trans
    ((run_bind_ok (Laws.run_keyCause (keyFault_side hf))).trans
    ((run_bind_ok (Laws.run_keyCause (keyFault_side hg))).trans ?_)))))))))))
  rw [hcause, hclash]
  exact Laws.run_issuePlan hqueue

/-- CPYF, which has a destination only (R298, R305). -/
theorem doesIssue_cpyf (dk : Nat) : DoesIssue (fun c d pat n => issueCpyf c d pat n dk)
    (fun c s d pat n u => IssuesCpyf c s d pat n dk u) := by
  intro c s d pat n u ⟨hopen, h⟩
  refine (run_bind_ok (run_get s)).trans ((run_bind_ok (run_need_of (decide_eq_true hopen))).trans ?_)
  rcases h with ⟨rfl, rfl⟩ | ⟨hn, hsize, hrel, da, f, hf, hd, hk, hqueue⟩
  · rw [if_pos rfl, run_modify]
  obtain ⟨f0, hf0, hf1⟩ := run_findSide hf
  rw [if_neg hn]
  exact (run_bind_ok (Laws.run_openCopy hopen hrel)).trans ((run_sideAddress hf).trans
    ((run_bind_ok (run_need_of (decide_eq_true hsize))).trans ((run_bind_ok hf0).trans
    ((run_bind_ok (run_need_of (by rw [hd, hk]; rfl))).trans ((run_bind_ok hf1).trans ((run_bind_ok (run_get _)).trans
    ((run_bind_ok (Laws.run_keyCause (keyFault_side hf))).trans (Laws.run_issuePlan hqueue))))))))

/-! ## Tiles (R298 to R303) -/

section
variable {c : Copier} {q t : State} {a va : Word} {bs : List Byte}

/-- A load that goes on was aligned to its bytes (R298). -/
theorem loadOne_aligned {z : Nat} (h : (c.loadOne a z).run q = .ok (bs, t)) : a.toNat % z = 0 := by
  obtain ⟨s, s0, -, h⟩ := exists_of_run_bind h
  obtain ⟨ps, s1, -, h⟩ := exists_of_run_bind h
  obtain ⟨_, s2, -, h⟩ := exists_of_run_bind h
  obtain ⟨_, s3, -, h⟩ := exists_of_run_bind h
  obtain ⟨_, s4, -, h⟩ := exists_of_run_bind h
  obtain ⟨_, s5, halign, -⟩ := exists_of_run_bind h
  exact beq_iff_eq.mp (of_run_need halign)

/-- The record of a tile copy, read and found to obey R301. -/
theorem run_tileRecord {gather : Bool} {coords : Word} (ha : (c.operand a 64).run q = .ok (va, q))
    (hload : (c.load va 64 64).run q = .ok (bs, t)) (hbad : layoutBad gather coords (leNat bs) = false) :
    (tileRecord c a gather coords).run q = .ok (leNat bs, t) := by
  obtain ⟨xs, s1, hone, -⟩ := exists_of_run_bind (m := c.loadOne va 64) hload
  refine (run_bind_ok ha).trans ((run_bind_ok (run_need_of (beq_iff_eq.mpr (loadOne_aligned hone)))).trans
    ((run_bind_ok hload).trans ((run_bind_ok (run_need_of ?_)).trans (run_pure _ _))))
  rw [hbad]
  rfl

end

section
variable {q u : State} {d : Word} {w : Nat} {rows : List TileRow} {mz st : Bool}

/-- A tile that issues is not too large (R299). -/
theorem run_tileSize (h : IssuesTile q d w rows mz st u) : (tileSize d w).run q = .ok ((), q) :=
  run_need_of (decide_eq_true h.1)

/-- A tile that issues stands queued at a porter (R298, R302). -/
theorem run_issueTile (h : IssuesTile q d w rows mz st u) : (issueTile d w rows mz st).run q = .ok ((), u) := by
  obtain ⟨-, hd, t, o, rs, hplace, hrows, hkeys, hqueue⟩ := h
  exact (run_bind_ok hplace).trans ((run_bind_ok (run_need_of (beq_iff_eq.mpr hd))).trans ((run_bind_ok (run_get q)).trans
    ((run_bind_ok (Laws.run_orTrap_ok hrows)).trans ((run_bind_ok (Laws.run_keyCause hkeys)).trans
    (Laws.run_issuePlan hqueue)))))

/-- The answers that the reads of an issue took are spent. -/
theorem run_spend (c : Copier) (s : State) : c.spend.run s = .ok ((), spent s.me.id c.lane s) := by
  obtain ⟨lane, xb, scope, order⟩ := c
  cases lane <;> exact (run_bind_ok (run_get s)).trans (Laws.run_spendAnswers _ s)

/-- The steps of a tile copy after its record and list. -/
theorem run_tileSteps (c : Copier) (h : IssuesTile q d w rows mz st u) :
    (tileSize d w >>= fun _ => issueTile d w rows mz st >>= fun _ => c.spend).run q =
      .ok ((), spent u.me.id c.lane u) :=
  (run_bind_ok (run_tileSize h)).trans ((run_bind_ok (run_issueTile h)).trans (run_spend c u))

end

/-- CPYT: its record, then its tile (R302). -/
theorem doesIssue_cpyt (mz st : Bool) : DoesIssue (fun c d a coords => issueCpyt c d a coords mz st)
    (fun c s d a coords u => IssuesCpyt c s d a coords mz st u) := by
  intro c s d a coords u ⟨hopen, hrel, va, bs, q1, ha, hload, hbad, v, htile, hu⟩
  rw [hu]
  exact (run_bind_ok (Laws.run_openCopy hopen hrel)).trans ((run_bind_ok (run_tileRecord ha hload hbad)).trans
    (run_tileSteps c htile))

/-- CPYG: its record, the list that the record gives the length of, then its tile (R303). -/
theorem doesIssue_cpyg (mz st : Bool) : DoesIssue (fun c d a b => issueCpyg c d a b mz st)
    (fun c s d a b u => IssuesCpyg c s d a b mz st u) := by
  intro c s d a b u ⟨hopen, hrel, va, la, bs, ls, q1, q2, ha, hload, hbad, hlist, hlistLoad, hrows, v, htile, hu⟩
  have hin : ((wordsOf 4 (layBox (leNat bs) 1) ls).findIdx? fun t => decide (layDim (leNat bs) 1 ≤ t)) = none :=
    List.findIdx?_eq_none_iff.mpr fun t ht => decide_eq_false (Nat.not_le.mpr (hrows t ht))
  rw [hu]
  refine (run_bind_ok (Laws.run_openCopy hopen hrel)).trans ((run_bind_ok (run_tileRecord ha hload hbad)).trans
    ((run_bind_ok hlist).trans ((run_bind_ok hlistLoad).trans ?_)))
  dsimp only
  rw [hin]
  exact run_tileSteps c htile

/-! ## The forms (R294 to R297) -/

section
variable {m : Copier → Word → Word → Word → Op Unit} {f : Copier → State → Word → Word → Word → State → Prop}

/-- A lead copy form whose operation issues as a claim says (R294, R295). -/
theorem leadCopy_of_doesIssue {i : Instr} {d a b : Reg} {v scratch : Bool} {x : BitVec 3}
    (hi : ∀ s, exec i s = leadCopy d a b v x scratch m s) (hm : DoesIssue m f) :
    LeadCopy i scratch v x fun c s u => f c s (s.me.sreg d) (s.me.sreg a) (s.me.sreg b) u := by
  intro s u hgroup hctx htx hord h
  have hplain : leadCopy d a b v x false m s = .next u :=
    (runLead_bind_ok (run_ordIn hord)).trans ((runLead_ctxForm hctx htx).trans ((runLead_bind_ok rfl).trans
      (runLead_reg.trans (runLead_reg.trans (runLead_reg.trans (runLead_ok (hm _ _ _ _ _ _ h)))))))
  refine (hi s).trans ?_
  cases scratch with
  | false => exact hplain
  | true => exact (runLead_needGroup_group (hgroup rfl)).trans hplain

end

/-- What an operation answers that goes on, the leader answers. -/
theorem run_asLeader {k : Nat} {m : Op Unit} {s : State} {r : Unit × State} (h : m.run s = .ok r) :
    (asLeader k m).run s = .ok r := by
  have hm : m s = .ok r := h
  show asLeader k m s = .ok r
  rw [asLeader, hm]

/-- A lane copy form whose operation issues as a claim says acts in its leader, and without one only pops its queues and moves
on (R296, R297). -/
theorem laneCopy_of_doesIssue {i : Instr} {rule : LaneF → LRule} {m : LaneF → Copier → Word → Word → Word → Op Unit}
    {f : LaneF → Copier → State → Word → Word → Word → State → Prop} (hi : ∀ s, exec i s = laneCopy rule m s)
    (hm : ∀ g, DoesIssue (m g) (f g)) : LaneCopy i rule f := by
  intro s hready c q
  constructor
  · intro hnone
    refine (hi s).trans (runLane_ok (u := ()) hready ?_)
    rw [show lowestLane (laneIn rule s).act = none from hnone]
    rfl
  · intro k u hk h
    refine (hi s).trans (runLane_ok (u := ()) hready ?_)
    rw [show lowestLane (laneIn rule s).act = some k from hk]
    exact (run_bind_ok (run_get q)).trans (run_asLeader (hm c.f _ _ _ _ _ _ h))

end Sys2Proof.Machine

namespace Sys2Proof

open Sys2Proof.Machine Sys2Proof.Claims

/-- Settles O31: each form is one of four operations behind the checks of the lead stream or of the lanes. -/
theorem copyForms : Obligations.CopyForms := by
  refine ⟨fun d a b v x dk sk mz st => ?lead, laneCopy_of_doesIssue Exec.laneCpyt fun _ => doesIssue_cpyt _ _,
    laneCopy_of_doesIssue Exec.laneCpyl fun _ => doesIssue_cpyl _ _ _,
    laneCopy_of_doesIssue Exec.laneCpyf fun _ => doesIssue_cpyf _,
    laneCopy_of_doesIssue Exec.laneCpyg fun _ => doesIssue_cpyg _ _⟩
  case lead =>
    exact ⟨leadCopy_of_doesIssue (fun s => Exec.cpyl s) (doesIssue_cpyl _ _ _),
      leadCopy_of_doesIssue (fun s => Exec.cpylExt s) (doesIssue_cpyl _ _ _),
      leadCopy_of_doesIssue (fun s => Exec.cpylRaw s) (doesIssue_cpyl _ _ _),
      leadCopy_of_doesIssue (fun s => Exec.cpyf s) (doesIssue_cpyf _),
      leadCopy_of_doesIssue (fun s => Exec.cpyfExt s) (doesIssue_cpyf _),
      leadCopy_of_doesIssue (fun s => Exec.cpyt s) (doesIssue_cpyt _ _),
      leadCopy_of_doesIssue (fun s => Exec.cpytExt s) (doesIssue_cpyt _ _),
      leadCopy_of_doesIssue (fun s => Exec.cpyg s) (doesIssue_cpyg _ _),
      leadCopy_of_doesIssue (fun s => Exec.cpygExt s) (doesIssue_cpyg _ _)⟩

end Sys2Proof

/-! # The matrix forms of both streams (R335 to R337, R339 to R341, R348, R349, R352 to R354, R356, R357)

O36. Behind its own checks each form asks for its version and joins its core's queue, and these two answer alike in both streams:
`issuesMatrix_of_answer` says once how, and a form is shown to reach them in the state that it began with. -/

namespace Sys2Proof.Machine

open Sys2Proof Sys2Proof.Claims

/-! ## What a form answers for its run -/

/-- The answer for a run: the state that it leaves, or what `stop` makes of its stop. -/
def answer (stop : Stop → State) : Except Stop (Unit × State) → Result
  | .ok (_, t) => .next t
  | .error e => .next (stop e)

/-- A lead form answers for its run. -/
theorem runLead_answer (m : Op Unit) (s : State) : runLead m s = answer (fun e => stopLead e s) (m.run (onward s)) := by
  cases hm : m.run (onward s) with
  | ok r => exact runLead_ok (u := r.1) hm
  | error e => exact runLead_error hm

/-- A lead form answers as another that runs alike. -/
theorem runLead_congr {m n : Op Unit} {s : State} (h : m.run (onward s) = n.run (onward s)) : runLead m s = runLead n s := by
  rw [runLead_answer, runLead_answer, h]

/-- A cause that the whole group takes (R341). -/
def groupCause : Stop → Stop
  | .trap c a => .frag c a
  | e => e

/-- What a lane form does with a stop whose cause is the whole group's. -/
def stopGroup (rule : LaneF → LRule) (s : State) (e : Stop) : State :=
  stopLane (laneCtx s) (laneNeeds rule s) (groupCause e) s

/-- A lane form whose causes are the whole group's answers for its run. -/
theorem runLane_wholeGroup {rule : LaneF → LRule} {s : State} (h : LaneReady rule s) (m : LaneCtx → Op Unit) :
    runLane rule (fun c => wholeGroup (m c)) s = answer (stopGroup rule s) ((m (laneIn rule s)).run (laneOn rule s)) := by
  rw [runLane_ready h]
  show (match wholeGroup (m (laneIn rule s)) (laneOn rule s) with | .ok (_, t) => _ | .error e => _) =
    answer _ (m (laneIn rule s) (laneOn rule s))
  rw [wholeGroup]
  cases m (laneIn rule s) (laneOn rule s) with
  | ok r => rfl
  | error e => cases e <;> rfl

/-! ## Version and queue (R336, R337) -/

section
variable {t : Team} {tiles : List Nat} {ver : Nat} {q : State}

/-- Version 0xFFFF is none to expect (R336). -/
theorem run_needVersion_none (hv : ver = 0xFFFF) : (needVersion t tiles ver).run q = .error (.trap 0x61 0) := by
  simp [needVersion, hv]

/-- A version that a counter has passed, or that another operation expects (R336). -/
theorem run_needVersion_past (hv : ver ≠ 0xFFFF)
    (h : (∃ k ∈ tiles, ver < vget t.vers k) ∨ versionTaken q t tiles ver = true) :
    (needVersion t tiles ver).run q = .error (.trap 0x64 0) := by
  have hnone : (ver != 0xFFFF) = true := bne_iff_ne.mpr hv
  by_cases hpast : (tiles.all fun k => decide (vget t.vers k ≤ ver)) = true
  · have htaken : versionTaken q t tiles ver = true :=
      h.resolve_left fun ⟨k, hk, hlt⟩ => absurd (of_decide_eq_true (List.all_eq_true.mp hpast k hk)) (by omega)
    rw [versionTaken] at htaken
    simp only [needVersion, hnone, hpast, htaken, run_bind, run_get, run_need_true, Bool.not_true, run_need_false]
  · simp only [needVersion, hnone, Bool.eq_false_iff.mpr hpast, run_bind, run_need_true, run_need_false]

/-- Any other version passes (R336). -/
theorem run_needVersion (hv : ver ≠ 0xFFFF) (hle : ∀ k ∈ tiles, vget t.vers k ≤ ver) (hfree : versionTaken q t tiles ver = false) :
    (needVersion t tiles ver).run q = .ok ((), q) := by
  have hpast : (tiles.all fun k => decide (vget t.vers k ≤ ver)) = true :=
    List.all_eq_true.mpr fun k hk => decide_eq_true (hle k hk)
  rw [versionTaken] at hfree
  simp only [needVersion, bne_iff_ne.mpr hv, hpast, hfree, run_bind, run_get, run_need_true, Bool.not_false]

variable {kind : MKind} {flag : Option Nat}

/-- A queue with room takes the operation (R337). -/
theorem run_queueMatrix (h : (q.mops.filter fun m => m.core == t.core).length < 16) :
    (queueMatrix t kind tiles ver flag).run q = .ok ((), queuedMatrix t kind tiles ver flag q) := by
  simp only [queueMatrix, run_bind, run_get, decide_eq_true h, run_readyIf_true]
  rfl

/-- A full one makes the issuer wait (R337). -/
theorem run_queueMatrix_full (h : 16 ≤ (q.mops.filter fun m => m.core == t.core).length) :
    (queueMatrix t kind tiles ver flag).run q = .error .wait := by
  simp only [queueMatrix, run_bind, run_get, decide_eq_false (Nat.not_lt.mpr h), run_readyIf_false]

/-- A form that, its tiles allotted, comes to ask for its version and then to queue its operation. -/
theorem issuesMatrix_of_answer {i : Instr} {s : State} {stop : Stop → State} {trap : Nat → State} {after : State → State}
    {rest : Op Unit}
    (hi : (∀ k ∈ tiles, k < t.tiles) → exec i s = answer stop ((needVersion t tiles ver >>= fun _ => rest).run q))
    (hroom : (q.mops.filter fun m => m.core == t.core).length < 16 →
      rest.run q = .ok ((), after (queuedMatrix t kind tiles ver flag q)))
    (hfull : 16 ≤ (q.mops.filter fun m => m.core == t.core).length → rest.run q = .error .wait)
    (htrap : ∀ c, stop (.trap c 0) = trap c) (hwait : stop .wait = s) :
    IssuesMatrix i s q t kind tiles ver flag trap after := by
  intro hin
  rw [hi hin, run_bind]
  refine ⟨fun hv => ?none, fun hv h => ?past, fun hv hle hfree => ?_⟩
  case none => rw [run_needVersion_none hv, ← htrap]; rfl
  case past => rw [run_needVersion_past hv h, ← htrap]; rfl
  rw [run_needVersion hv hle hfree]
  refine ⟨fun h => ?room, fun h => ?full⟩
  case room => dsimp only; rw [hroom h]; rfl
  case full => dsimp only; rw [hfull h, answer, hwait]

end

/-! ## The issuer's team, and checks that some formats skip -/

/-- The team of an issuer that has one. -/
theorem run_needTeam {t : Team} {s : State} (h : myTeam s = some t) : needTeam.run s = .ok (t, s) := by
  simp only [needTeam, run_bind, run_get, h, run_pure]

/-- A step that passes wherever it is done may be left out. -/
theorem run_skip {c : Bool} {m : Op Unit} {k : Unit → Op Unit} {s : State} (h : c = true → m.run s = .ok ((), s)) :
    (if c = true then m >>= k else k ()).run s = (k ()).run s := by
  split
  · next hc => exact run_bind_ok (h hc)
  · rfl

/-- A format block and scale bytes without fault (R324, R326). -/
theorem run_needFormat {t : Team} {w : Word} {rows cols total : Nat} {q : State} (hw : formatBad w = false)
    (hs : scaleCause q t (scaleSpans w rows cols total) = none) : (needFormat t w rows cols total).run q = .ok ((), q) := by
  simp only [needFormat, hw, Bool.not_false, run_bind, run_need_true, run_get, hs, run_pure]

/-! ## The lead forms -/

section
variable {s : State} {team : Team}

/-- A lead form that needs its issuer's team. -/
theorem runLead_needTeam (h : myTeam s = some team) (f : Team → Op Unit) : runLead (needTeam >>= f) s = runLead (f team) s :=
  runLead_bind_ok (run_needTeam (s := onward s) h)

/-- A lead form that comes to its version and its queue issues there. -/
theorem issuesMatrix_of_runLead {i : Instr} {kind : MKind} {tiles : List Nat} {ver : Nat} {flag : Option Nat}
    (hi : (∀ k ∈ tiles, k < team.tiles) →
      exec i s = runLead (needVersion team tiles ver >>= fun _ => queueMatrix team kind tiles ver flag) s) :
    IssuesMatrix i s (onward s) team kind tiles ver flag (fun c => leadTrap c 0 s.issue.pc s) id :=
  issuesMatrix_of_answer (fun hin => (hi hin).trans (runLead_answer _ s)) run_queueMatrix run_queueMatrix_full
    (fun _ => rfl) rfl

variable (hg : s.me.isHost = false) (htx : s.me.tx.active = false) (hteam : myTeam s = some team)
include hg htx hteam

/-- ACCLD and ACCST up to the check of their tile (R354). -/
theorem accMove_beyond {t : BitVec 4} {a b : Reg} {y : BitVec 4} {write : Bool} {kind : Nat → Nat → BitVec 24 → MKind}
    (h : team.tiles ≤ t.toNat) : accMove t a b y write kind s = .next (leadTrap 0x65 0 s.issue.pc s) :=
  (runLead_groupForm hg htx).trans (runLead_reg.trans (runLead_reg.trans ((runLead_needTeam hteam _).trans
    (runLead_need_false (decide_eq_false (Nat.not_lt.mpr h))))))

/-- ACCLD and ACCST of a span that fits the landing and that no copy holds (R353, R354). -/
theorem issuesMatrix_accMove {i : Instr} {t : BitVec 4} {a b : Reg} {y : BitVec 4} {write : Bool}
    {kind : Nat → Nat → BitVec 24 → MKind} (hi : exec i s = accMove t a b y write kind s) :
    let v := s.me.sreg b
    let pitch := slice v 47 32
    let o := (s.me.sreg a).toNat
    slice v 63 48 = 0 ∧ slice v 31 16 = 0 ∧ pitch % 8 = 0 ∧ 128 * slotBytes y ≤ pitch ∧ o + tileSpan pitch y ≤ team.len ∧
      o % 8 = 0 ∧ landHit (onward s) team.uid o (tileSpan pitch y) write = false →
    IssuesMatrix i s (onward s) team (kind o pitch team.modes) [t.toNat] (slice v 15 0) none
      (fun c => leadTrap c 0 s.issue.pc s) id := by
  intro v pitch o ⟨htop, hmid, hpitch, hrow, hlen, halign, hfree⟩
  refine issuesMatrix_of_runLead fun hin => hi.trans ?_
  refine (runLead_groupForm hg htx).trans (runLead_reg.trans (runLead_reg.trans ((runLead_needTeam hteam _).trans ?_)))
  refine (runLead_need_true (decide_eq_true (hin _ (List.mem_singleton_self _)))).trans ?_
  refine (runLead_need_true (by simp [htop, hmid, hpitch, hrow, v, pitch])).trans ?_
  refine (runLead_need_true (decide_eq_true hlen)).trans ((runLead_need_true (beq_iff_eq.mpr halign)).trans ?_)
  exact runLead_get.trans (runLead_need_true (by rw [hfree]; rfl))

/-- ACCZ of a mask of tiles (R352). -/
theorem issuesMatrix_accz {a : Reg} :
    let m := s.me.sreg a
    let tiles := (List.range 16).filter fun k => m.getLsbD k
    tiles ≠ [] → slice m 63 32 = 0 →
    IssuesMatrix (.accz a) s (onward s) team .accz tiles (slice m 31 16) none (fun c => leadTrap c 0 s.issue.pc s) id := by
  intro m tiles hne htop
  refine issuesMatrix_of_runLead fun hin => (Exec.accz s).trans ((runLead_groupForm hg htx).trans (runLead_reg.trans
    ((runLead_needTeam hteam _).trans (runLead_need_true ?_))))
  have hall : (tiles.all fun k => decide (k < team.tiles)) = true :=
    List.all_eq_true.mpr fun k hk => decide_eq_true (hin k hk)
  have hmask : tiles.isEmpty = false := Bool.eq_false_iff.mpr (mt List.isEmpty_iff.mp hne)
  show (!tiles.isEmpty && slice m 63 32 == 0 && tiles.all fun k => decide (k < team.tiles)) = true
  rw [hall, hmask, htop]
  rfl

/-- MLOOP of a region of the team's tiles, its operand without fault, comes to ask whether its ports can give its bytes
(R349). -/
theorem exec_mloop {a b : Reg} :
    let w := s.me.sreg a
    let v := s.me.sreg b
    let kch := slice v 47 32
    let tile := slice v 31 28
    let nr := 1 + slice v 27 27
    let nc := 1 + slice v 26 24
    let f64 := v.getLsbD 22
    let tiles := (List.range (nr * nc)).map fun k => tile + 8 * (k / nc) + k % nc
    let sa := slabSize f64 (sideA w) (128 * nr) * kch
    let sb := slabSize f64 (sideB w) ((if f64 then 64 else 128) * nc) * kch
    slice v 21 0 = 0 → kch ≠ 0 → tile % 8 + nc ≤ 8 → tile / 8 + nr ≤ 2 → (∀ k ∈ tiles, k < team.tiles) → (f64 = true → w = 0) →
    (f64 = false → formatBad w = false ∧
      scaleCause (onward s) team (scaleSpans w (128 * nr) (128 * nc) (32 * kch)) = none) →
    exec (.mloop a b) s = runLead (need (portGives (onward s) team.core false sa && portGives (onward s) team.core true sb) 0x63 0
      >>= fun _ => needVersion team tiles (slice v 63 48) >>= fun _ => queueMatrix team
        (.mloop f64 w (v.getLsbD 23) team.modes nr nc kch 0 [] []) tiles (slice v 63 48) none) s := by
  intro w v kch tile nr nc f64 tiles sa sb hlow hkch hcols hrows hin hwide hnarrow
  have hfields : (slice v 21 0 == 0 && kch != 0 && decide (tile % 8 + nc ≤ 8)) = true := by simp [hlow, hkch, hcols]
  have hall : (tiles.all fun k => decide (k < team.tiles)) = true :=
    List.all_eq_true.mpr fun k hk => decide_eq_true (hin k hk)
  have hw : (!f64 || w == 0) = true := by
    cases hf : f64 with
    | true => exact beq_iff_eq.mpr (hwide hf)
    | false => rfl
  have hregion : ((decide (tile / 8 + nr ≤ 2) && tiles.all fun k => decide (k < team.tiles)) && (!f64 || w == 0)) = true := by
    rw [hall, hw, decide_eq_true hrows]
    rfl
  refine (Exec.mloop s).trans ((runLead_groupForm hg htx).trans (runLead_reg.trans (runLead_reg.trans
    ((runLead_needTeam hteam _).trans ((runLead_need_true hfields).trans ((runLead_need_true hregion).trans ?_))))))
  refine (runLead_congr (run_skip fun hf => ?_)).trans runLead_get
  obtain ⟨hformat, hscale⟩ := hnarrow ((Bool.not_eq_true' _).mp hf)
  exact run_needFormat hformat hscale

/-- ACCVER of a tile of the team. -/
theorem runLead_tileForm {k : Nat} (h : k < team.tiles) (f : Team → Op Unit) :
    runLead (needGroup >>= fun _ => notInTx >>= fun _ => needTeam >>= fun t => needTile t k >>= fun _ => f t) s =
      runLead (f team) s :=
  (runLead_groupForm hg htx).trans ((runLead_needTeam hteam _).trans (runLead_need_true (decide_eq_true h)))

/-- ACCVER of a tile beyond the team's. -/
theorem runLead_tileForm_beyond {k : Nat} (h : team.tiles ≤ k) (f : Team → Op Unit) :
    runLead (needGroup >>= fun _ => notInTx >>= fun _ => needTeam >>= fun t => needTile t k >>= fun _ => f t) s =
      .next (leadTrap 0x65 0 s.issue.pc s) :=
  (runLead_groupForm hg htx).trans ((runLead_needTeam hteam _).trans
    (runLead_need_false (decide_eq_false (Nat.not_lt.mpr h))))

variable {a : Reg} {t : BitVec 4} (ht : t.toNat < team.tiles)
include ht

/-- ACCVER, selectors 1 and 2, with a version that is too wide (R357). -/
theorem accver_wide (h : slice (s.me.sreg a) 63 16 ≠ 0) : execAccverWait a t s = .next (leadTrap 0x65 0 s.issue.pc s) ∧
    execAccverSet a t s = .next (leadTrap 0x65 0 s.issue.pc s) :=
  have hwide : (slice (s.me.sreg a) 63 16 == 0) = false := beq_eq_false_iff_ne.mpr h
  ⟨(runLead_tileForm hg htx hteam ht _).trans (runLead_reg.trans (runLead_need_false hwide)),
    (runLead_tileForm hg htx hteam ht _).trans (runLead_reg.trans (runLead_need_false hwide))⟩

variable (h : slice (s.me.sreg a) 63 16 = 0)
include h

/-- ACCVER, selector 1: it goes on once the counter stands at the version or past it. -/
theorem execAccverWait_eq : execAccverWait a t s =
    runLead (readyIf (decide ((s.me.sreg a).toNat ≤ vget team.vers t.toNat))) s :=
  (runLead_tileForm hg htx hteam ht _).trans (runLead_reg.trans (runLead_need_true (beq_iff_eq.mpr h)))

/-- ACCVER, selector 2: it goes on once no operation names the tile. -/
theorem execAccverSet_eq : execAccverSet a t s =
    runLead (readyIf (!(onward s).mops.any fun m => m.team == team.uid && m.tiles.contains t.toNat) >>= fun _ =>
      modify (onTeam team.uid fun u => { u with vers := vset u.vers t.toNat (s.me.sreg a).toNat })) s :=
  (runLead_tileForm hg htx hteam ht _).trans (runLead_reg.trans ((runLead_need_true (beq_iff_eq.mpr h)).trans runLead_get))

end

/-! ## The lane forms -/

/-- No protected grid in the way (R465). -/
theorem run_needUnprotected {s : State} (h : (s.grids.any fun g => g.handle == s.me.grid && g.prot) = false) :
    needUnprotected.run s = .ok ((), s) := by
  simp only [needUnprotected, run_bind, run_get, h, Bool.not_false, run_need_true]

/-- A protected grid has none of the three forms (R465). -/
theorem run_needUnprotected_closed {s : State} (h : ¬ (s.grids.any fun g => g.handle == s.me.grid && g.prot) = false) :
    needUnprotected.run s = .error (.trap 0x65 0) := by
  simp only [needUnprotected, run_bind, run_get, Bool.not_eq_false _ ▸ h, Bool.not_true, run_need_false]

/-- The flag of the slot counts the operation (R154). -/
theorem run_flagStart (c : LaneCtx) (q : State) : (flagStart c).run q = .ok ((), flagged c q) := by
  unfold flagStart flagged
  cases c.flag <;> rfl

/-- Two fragments within the registers of the group, none of them waiting (R340). -/
theorem run_needImages {q : State} {a na b nb : Nat} (ha : a + na ≤ q.me.l.count) (hb : b + nb ≤ q.me.l.count)
    (hcount : q.me.l.count ≤ 256) (hregs : interlocked q [(a, na), (b, nb)] = false) :
    (needImages q a na b nb).run q = .ok ((), q) := by
  have hfile : decide (a + na ≤ 256 ∧ b + nb ≤ 256) = true := decide_eq_true ⟨by omega, by omega⟩
  simp only [needImages, hfile, decide_eq_true (And.intro ha hb), run_bind, run_need_true, run_notPending hregs]

section
variable {i : Instr} {rule : LaneF → LRule} {s : State}

/-- A form of a protected grid stops at once. -/
theorem closed_of_needUnprotected {f : LaneCtx → Unit → Op Unit}
    (hi : exec i s = runLane rule (fun c => wholeGroup (needUnprotected >>= f c)) s) (h : LaneReady rule s)
    (hclosed : ¬ ((laneOn rule s).grids.any fun g => g.handle == (laneOn rule s).me.grid && g.prot) = false) :
    exec i s = .next (stopLane (laneCtx s) [] (.frag 0x65 0) s) := by
  rw [hi, runLane_wholeGroup h, run_bind, run_needUnprotected_closed hclosed]
  rfl

/-- A form of any other grid goes on behind that check. -/
theorem exec_of_needUnprotected {f : LaneCtx → Unit → Op Unit} {r : Except Stop (Unit × State)}
    (hi : exec i s = runLane rule (fun c => wholeGroup (needUnprotected >>= f c)) s) (h : LaneReady rule s)
    (hopen : ((laneOn rule s).grids.any fun g => g.handle == (laneOn rule s).me.grid && g.prot) = false)
    (hr : (f (laneIn rule s) ()).run (laneOn rule s) = r) : exec i s = answer (stopGroup rule s) r := by
  rw [hi, runLane_wholeGroup h, run_bind_ok (run_needUnprotected hopen), hr]

/-- A lane form that comes to its version, and then to its queue and its flag, issues there. -/
theorem issuesMatrix_of_stopGroup {c : LaneCtx} {q : State} {t : Team} {kind : MKind} {tile : Nat} {rest : Op Unit}
    (hi : tile < t.tiles → exec i s = answer (stopGroup rule s) ((needVersion t [tile] c.version >>= fun _ => rest).run q))
    (hrest : rest.run q = (queueMatrix t kind [tile] c.version c.flag >>= fun _ => flagStart c).run q) :
    IssuesMatrix i s q t kind [tile] c.version c.flag (fun x => stopLane (laneCtx s) [] (.frag x 0) s) (flagged c) := by
  refine issuesMatrix_of_answer (rest := rest) (fun hin => hi (hin tile (List.mem_singleton_self tile))) (fun hroom => ?_)
    (fun hfull => ?_) (fun _ => rfl) rfl
  · rw [hrest, run_bind_ok (run_queueMatrix hroom), run_flagStart]
  · rw [hrest, run_bind, run_queueMatrix_full hfull]

end

end Sys2Proof.Machine

namespace Sys2Proof

open Sys2Proof.Machine Sys2Proof.Claims

/-- The lead forms of O36: each passes its checks and issues, or stops at the check that fails. -/
theorem matrixLead : MatrixLead := by
  intro s team a b d t y rm sat hg htx hteam q v ver pitch o trap queues span
  have hmove : ∀ {i : Instr} {z : BitVec 4} {write : Bool} {kind : Nat → Nat → BitVec 24 → MKind},
      exec i s = accMove t a b z write kind s → span z write → queues i (kind o pitch team.modes) [t.toNat] ver :=
    fun hi h => issuesMatrix_accMove hg htx hteam hi h
  refine ⟨hmove (Exec.accld s), hmove (Exec.accldTyped s), hmove (Exec.accst s), hmove (Exec.accstTyped s),
    issuesMatrix_accz hg htx hteam, fun ht => ?versions, fun ht => ?beyond, ?loop⟩
  case versions =>
    intro named
    refine ⟨(Exec.accver s).trans ((runLead_tileForm hg htx hteam ht _).trans (runLead_ok (u := ()) rfl)),
      fun h => ?narrow, fun h => (accver_wide hg htx hteam ht h).imp (Exec.accverWait s).trans (Exec.accverSet s).trans⟩
    rw [Exec.accverWait, execAccverWait_eq hg htx hteam ht h, Exec.accverSet, execAccverSet_eq hg htx hteam ht h]
    refine ⟨fun hle => ?passed, fun hlt => ?waits, fun hfree => ?free,
      fun hnamed => runLead_readyIf_false (show (!named) = false by rw [hnamed]; rfl)⟩
    case passed =>
      rw [decide_eq_true hle]
      exact runLead_ok (u := ()) rfl
    case waits =>
      rw [decide_eq_false (Nat.not_le.mpr hlt)]
      exact runLead_error (e := .wait) rfl
    case free => exact (runLead_readyIf_true (show (!named) = true by rw [hfree]; rfl)).trans (runLead_ok (u := ()) rfl)
  case beyond =>
    have hmoves := fun z write kind => accMove_beyond hg htx hteam (a := a) (b := b) (y := z) (write := write)
      (kind := kind) ht
    simp only [List.forall_mem_cons, List.not_mem_nil, false_imp_iff, implies_true, and_true]
    exact ⟨(Exec.accld s).trans (hmoves ..), (Exec.accldTyped s).trans (hmoves ..), (Exec.accst s).trans (hmoves ..),
      (Exec.accstTyped s).trans (hmoves ..), (Exec.accver s).trans (runLead_tileForm_beyond hg htx hteam ht _),
      (Exec.accverWait s).trans (runLead_tileForm_beyond hg htx hteam ht _),
      (Exec.accverSet s).trans (runLead_tileForm_beyond hg htx hteam ht _)⟩
  case loop =>
    intro w kch tile nr nc f64 tiles sa sb hlow hkch hcols hrows hin hwide hnarrow
    have hports := exec_mloop hg htx hteam hlow hkch hcols hrows hin hwide hnarrow
    exact ⟨fun h => issuesMatrix_of_runLead fun _ => hports.trans (runLead_need_true h),
      fun h => hports.trans (runLead_need_false h)⟩

/-- The lane forms of O36: outside a protected grid each passes its checks and issues. -/
theorem matrixLanes : MatrixLanes := by
  unfold MatrixLanes
  intro open_ queues
  refine ⟨fun s t h => ?mma, fun s t h => ?accrd, fun s t h => ?accwr,
    fun s h => closed_of_needUnprotected (Exec.mma s) h, fun s h => closed_of_needUnprotected (Exec.accrd s) h,
    fun s h => closed_of_needUnprotected (Exec.accwr s) h⟩
  case mma =>
    intro c q hopen hlive hteam htile f64 w na nb hformat ha hb hcount hregs
    have hblock (hf : (!f64) = true) := hformat ((Bool.not_eq_true' _).mp hf)
    have hchecks : exec .mma s = answer (stopGroup mmaRule s) ((needVersion t [c.f.d.toNat] c.version >>= fun _ =>
        readyIf (decide (snapshotUse q t.core + 128 * (na + nb) ≤ 49152)) >>= fun _ =>
          queueMatrix t (.mma f64 w (c.f.imm.getLsbD 0) t.modes (imageBytes q.me.l c.f.a.toNat na)
            (imageBytes q.me.l c.f.b.toNat nb)) [c.f.d.toNat] c.version c.flag >>= fun _ => flagStart c).run q) := by
      refine exec_of_needUnprotected (Exec.mma s) h hopen ((run_bind_ok (run_get q)).trans ?_)
      refine (run_bind_ok (run_need_of (beq_iff_eq.mpr hlive))).trans ((run_bind_ok (run_needTeam hteam)).trans
        ((run_bind_ok (run_need_of (decide_eq_true htile))).trans ?_))
      refine (run_skip fun hf => run_need_of (by rw [(hblock hf).1]; rfl)).trans
        ((run_bind_ok (run_needImages ha hb hcount hregs)).trans ?_)
      exact run_skip fun hf => run_needFormat (hblock hf).1 (hblock hf).2
    refine ⟨fun hroom => issuesMatrix_of_stopGroup (fun _ => hchecks) (run_bind_ok (by rw [decide_eq_true hroom]; rfl)),
      fun hfull hv hle hfree => ?_⟩
    rw [hchecks, run_bind_ok (run_needVersion hv (by simpa using hle) hfree), run_bind,
      decide_eq_false (Nat.not_le.mpr hfull), run_readyIf_false]
    rfl
  case accrd =>
    intro c q hopen hteam
    exact issuesMatrix_of_stopGroup (fun htile => exec_of_needUnprotected (Exec.accrd s) h hopen
      ((run_bind_ok (run_needTeam hteam)).trans (run_bind_ok (run_need_of (decide_eq_true htile))))) rfl
  case accwr =>
    intro c q hopen hteam
    exact issuesMatrix_of_stopGroup (fun htile => exec_of_needUnprotected (Exec.accwr s) h hopen
      ((run_bind_ok (run_get q)).trans ((run_bind_ok (run_needTeam hteam)).trans
        (run_bind_ok (run_need_of (decide_eq_true htile)))))) rfl

/-- Settles O36: every form comes, behind checks of its own, to the version and the queue that all of them share. -/
theorem matrixForms : Obligations.MatrixForms := ⟨matrixLead, matrixLanes⟩

end Sys2Proof

/-! # The matrix engine of a core (R337, R338, R343 to R347, R350)

O35. The sequencer and the distributor are steps that one condition each decides. What a completion does to the team of its
operation is followed through its parts by `OnlyTeam`: the one team of that number in the package. -/

namespace Sys2Proof.Machine

open Sys2Proof Sys2Proof.Claims

/-! ## OSUB (R343, R344) -/

/-- OSUB of a stream to the ports that has room for the subscriber and its window. -/
theorem exec_osub {s : State} {n : BitVec 5} {p : Bool} {k : BitVec 3} {w : BitVec 6} {x : Stream}
    (hg : s.me.isHost = false) (htx : s.me.tx.active = false)
    (hx : s.streams.find? (fun x => x.gal == myGallery s && x.os == n.toNat) = some x) :
    let gal := myGallery s
    let mine := s.subs.filter fun b => b.gal == gal && b.os == n.toNat
    let sub : Sub := ⟨s.me.core, p, gal, n.toNat, w.toNat + 1, 0, [], 0⟩
    streamToPorts x.desc = true → x.squad = mySquad s → portSub s s.me.core p = none → (∀ b ∈ mine, b.core ≠ s.me.core) →
    x.nsub = none ∨ x.nsub = some (k.toNat + 1) → mine.length < k.toNat + 1 → x.full = false →
    distributorNeed s gal (s.subs ++ [sub]) ≤ 262144 →
    exec (.osub n p k w) s = .next (onStream gal n.toNat
      (fun x => { x with nsub := some (k.toNat + 1), full := mine.length + 1 == k.toNat + 1 })
      { onward s with subs := s.subs ++ [sub] }) := by
  intro gal mine sub hports hsquad hport hcore hnsub hroom hfull hneed
  have hothers : (mine.any fun b => b.core == s.me.core) = false :=
    List.any_eq_false.mpr fun b hb => by simpa using hcore b hb
  have hcount : x.nsub.all (· == k.toNat + 1) = true := by rcases hnsub with h | h <;> simp [h]
  have hfits : (streamToPorts x.desc && x.squad == mySquad s && (portSub s s.me.core p).isNone
      && !mine.any (fun b => b.core == s.me.core) && x.nsub.all (· == k.toNat + 1) && decide (mine.length < k.toNat + 1)
      && !x.full && decide (distributorNeed s gal (s.subs ++ [sub]) ≤ 262144)) = true := by
    simp [hports, hsquad, hport, hothers, hcount, hroom, hfull, hneed]
  refine (Exec.osub s).trans ((runLead_groupForm hg htx).trans (runLead_get.trans ?_))
  dsimp only
  rw [show (onward s).streams.find? (fun x => x.gal == myGallery (onward s) && x.os == n.toNat) = some x from hx]
  exact (runLead_need_true hfits).trans (runLead_ok (u := ()) rfl)

/-! ## The sequencer (R337, R350) -/

section
variable {s : State} {core k : Nat} {m : MOp}

/-- An operation starts where it may. -/
theorem exec_matrixOperationStart (hm : (coreOps s core)[k]? = some m) : exec (.matrixOperationStart core k) s =
    .next (if mayStart s core k m then onCoreOp core k (fun m => { m with running := true }) s else s) := by
  rw [Exec.matrixOperationStart, execMatrixOperationStart, hm]
  dsimp only
  split <;> rfl

/-- A running operation completes once its steps are done. -/
theorem exec_matrixOperationComplete (hm : (coreOps s core)[k]? = some m) : exec (.matrixOperationComplete core k) s =
    .next (if m.running && m.kind.finished then finishMatrix core k m s else s) := by
  rw [Exec.matrixOperationComplete, execMatrixOperationComplete, hm]
  dsimp only
  split <;> rfl

end

/-! ## What a completion does to its team (R335, R338) -/

/-- `t` is the one team of its number. -/
structure OnlyTeam (t : Team) (s : State) : Prop where
  mem : t ∈ s.teams
  only : ∀ x ∈ s.teams, x.uid = t.uid → x = t

section
variable {t : Team} {s : State}

/-- A change of it that keeps its number leaves it the one team of that number. -/
theorem OnlyTeam.onTeam {f : Team → Team} {v : Team} (h : OnlyTeam t s) (hf : f t = v) (hv : v.uid = t.uid) :
    OnlyTeam v (onTeam t.uid f s) := by
  constructor
  case mem => exact List.mem_map.mpr ⟨t, h.mem, (if_pos (beq_self_eq_true _)).trans hf⟩
  case only =>
    intro x hx hu
    obtain ⟨y, hy, rfl⟩ := List.mem_map.mp hx
    by_cases hyt : (y.uid == t.uid) = true
    · rw [if_pos hyt, h.only y hy (beq_iff_eq.mp hyt), hf]
    · rw [if_neg hyt, hv] at hu
      exact absurd (beq_iff_eq.mpr hu) hyt

/-- A team with a group left stays when teams are swept. -/
theorem OnlyTeam.mem_sweepTeams (h : OnlyTeam t s) (hgroups : t.groups ≠ 0) : t ∈ (sweepTeams s).teams := by
  have hzero : (t.groups == 0) = false := beq_eq_false_iff_ne.mpr hgroups
  refine List.mem_map.mpr ⟨t, List.mem_filter.mpr ⟨h.mem, ?_⟩, ?_⟩
  · refine Bool.not_eq_true' _ |>.mpr (List.any_eq_false.mpr fun x hx hu => ?_)
    obtain ⟨hx, hdead⟩ := List.mem_filter.mp hx
    rw [h.only x hx (beq_iff_eq.mp hu), hzero] at hdead
    exact absurd hdead (by simp)
  · exact if_neg (by simp [hzero])

end

/-- Putting tiles changes no field but the tiles' bytes. -/
theorem exists_acc_foldl_putTile {α : Type} (f : Team → α → Nat) (ws : Team → α → List Nat) (l : List α) (t : Team) :
    ∃ acc, l.foldl (fun u x => u.putTile (f u x) (ws u x)) t = { t with acc := acc } :=
  List.foldlRecOn (motive := fun u : Team => ∃ acc, u = { t with acc := acc }) l _ ⟨t.acc, rfl⟩
    fun u ⟨_, hu⟩ x _ => by rw [hu]; exact ⟨_, rfl⟩

/-- A step of a region changes no field but the tiles' bytes. -/
theorem exists_acc_regionStep (f64 : Bool) (w : Word) (init : Bool) (modes : BitVec 24) (fixed : List (Nat × Byte))
    (total k0 tile nr nc : Nat) (a b : List Byte) (t : Team) :
    ∃ acc, regionStep f64 w init modes fixed total k0 tile nr nc a b t = { t with acc := acc } :=
  exists_acc_foldl_putTile _ _ _ _

section
variable {t : Team} {s : State} {m : MOp}

/-- An operation's effect leaves its team alone but for tiles and landing, and a product leaves the landing too. -/
theorem effect_team (h : OnlyTeam t s) (hm : m.team = t.uid) : ∃ acc land,
    OnlyTeam { t with acc := acc, land := land } (m.effect s) ∧ (m.kind.isCompute = true → land = t.land) := by
  obtain ⟨core, team, who, kind, tile, tiles, ver, flag, running, handler, fixed⟩ := m
  cases hm
  cases kind with
  | mma f64 w init modes a b =>
    obtain ⟨acc, hacc⟩ := exists_acc_regionStep f64 w init modes fixed (if f64 then 8 else 32) 0 tile 1 1 a b t
    exact ⟨acc, t.land, h.onTeam hacc rfl, fun _ => rfl⟩
  | mloop => exact ⟨t.acc, t.land, h, fun _ => rfl⟩
  | accz =>
    obtain ⟨acc, hacc⟩ := exists_acc_foldl_putTile (fun _ k => k) (fun _ _ => []) tiles t
    exact ⟨acc, t.land, h.onTeam hacc rfl, fun _ => rfl⟩
  | accld | accwr => exact ⟨_, t.land, h.onTeam rfl rfl, fun _ => rfl⟩
  | accst => exact ⟨t.acc, _, h.onTeam rfl rfl, nofun⟩
  | accrd =>
    refine ⟨t.acc, t.land, ?_, nofun⟩
    unfold MOp.effect
    dsimp only
    split <;> exact ⟨h.mem, h.only⟩

end

/-- The counters once each of a list of tiles has its own one higher (R335). -/
def countUp (tiles : List Nat) (v : Vector Nat 16) : Vector Nat 16 := tiles.foldl (fun v j => vset v j (vget v j + 1)) v

/-- Tiles that are named once each go up by one. -/
theorem vget_countUp : ∀ {tiles : List Nat}, tiles.Nodup → ∀ (v : Vector Nat 16) {j : Nat}, j < 16 →
    vget (countUp tiles v) j = vget v j + if tiles.contains j then 1 else 0
  | [], _, v, j, _ => rfl
  | i :: is, h, v, j, hj => by
    obtain ⟨hi, his⟩ := List.nodup_cons.mp h
    rw [show countUp (i :: is) v = countUp is (vset v i (vget v i + 1)) from rfl, vget_countUp his _ hj]
    by_cases hij : j = i
    · subst hij
      have hnot : is.contains j = false := by simpa using hi
      rw [vget_vset _ hj hj, if_pos rfl, hnot]
      simp
    · have hkeep : vget (vset v i (vget v i + 1)) j = vget v j := by
        by_cases hlt : i < 16
        · rw [vget_vset _ hlt hj, if_neg hij]
        · rw [vset, dif_neg hlt]
      rw [hkeep, List.contains_cons, beq_eq_false_iff_ne.mpr hij, Bool.false_or]

/-- An operation's effect is on tiles, landing and registers. -/
theorem effect_mem (m : MOp) (s : State) : (m.effect s).mem = s.mem := by
  unfold MOp.effect
  cases m.kind with
  | accrd =>
    dsimp only
    split <;> rfl
  | _ => rfl

section
variable {t : Team} {s : State} {m : MOp} {core k : Nat}

/-- A completion changes no memory (R338). -/
theorem finishMatrix_mem : (finishMatrix core k m s).mem = s.mem := by
  rw [← effect_mem m s]
  unfold finishMatrix
  cases m.flag <;> rfl

/-- A completion raises the counters of its tiles, and changes nothing else of its team but tiles and landing (R335, R338). -/
theorem mem_finishMatrix_teams (h : OnlyTeam t s) (hm : m.team = t.uid) (hgroups : t.groups ≠ 0) : ∃ acc land,
    { t with acc := acc, land := land, vers := countUp m.tiles t.vers } ∈
      (finishMatrix core k m s).teams ∧ (m.kind.isCompute = true → land = t.land) := by
  obtain ⟨acc, land, heffect, hland⟩ := effect_team h hm
  refine ⟨acc, land, ?_, hland⟩
  have hcounted := heffect.onTeam (f := fun t => { t with vers := countUp m.tiles t.vers }) rfl rfl
  unfold finishMatrix
  rw [hm]
  cases m.flag <;> exact OnlyTeam.mem_sweepTeams ⟨hcounted.mem, hcounted.only⟩ hgroups

end

/-! ## MLOOP_K_STEP (R350) -/

/-- With no MLOOP to go on with, nothing happens. -/
theorem exec_mloopKStep_idle {s : State} {core : Nat}
    (h : ((coreOps s core).any fun m => m.running && m.kind.isLoop && !m.stopped s) = false) :
    exec (.mloopKStep core) s = .next s := by
  have hnone : (coreOps s core).findIdx? (fun m => m.running && m.kind.isLoop && !m.stopped s) = none :=
    List.findIdx?_eq_none_iff.mpr fun m hm => Bool.eq_false_iff.mpr (List.any_eq_false.mp h m hm)
  rw [Exec.mloopKStep, execMloopKStep, hnone]

/-! ## The distributor (R345, R346) -/

/-- An error that the owner takes, or one that is no uncorrectable one, raises no halt line. -/
theorem distributorHalt_none {s : State} {x : Stream} {e : Nat × Word}
    (h : e.1 ≠ 0xA1 ∨ (s.runners.any fun r => r.id == x.owner) = true) :
    distributorHalt x e s = s :=
  if_neg fun ⟨he, hr⟩ => h.elim (absurd he) fun ho => by simp [ho] at hr

end Sys2Proof.Machine

namespace Sys2Proof

open Sys2Proof.Machine Sys2Proof.Claims

/-- Settles O35: each step is decided by the condition that its equation names, and a completion's team is the one that its
counters and its effect leave. -/
theorem matrixWork : Obligations.MatrixWork := by
  unfold Obligations.MatrixWork
  refine ⟨fun s n p k w x hg htx hx => exec_osub hg htx hx, fun s core k m hm => ?sequencer,
    fun s core k m f64 w init modes nr nc kch step pa pb hk hm hkind hstep => ?loop, fun s core => exec_mloopKStep_idle,
    fun s gal os x hx => ?distributor, fun s core k m t hm hrun hfin hteam hgroups honly => ?completion⟩
  case sequencer =>
    rw [exec_matrixOperationStart hm, exec_matrixOperationComplete hm]
    exact ⟨fun h => by rw [if_pos h], fun h => by rw [h]; rfl, fun hrun hfin => by rw [hrun, hfin]; rfl,
      fun hrun => by rw [hrun]; rfl⟩
  case loop =>
    obtain ⟨_, _, _, kind, _, _, _, _, _, _, _⟩ := m
    cases hkind
    intro ra rb a b became
    rw [Exec.mloopKStep, execMloopKStep, hk]
    dsimp only
    rw [hm]
    dsimp only
    rw [if_pos hstep]
    exact ⟨fun ha hb => if_pos ⟨ha, hb⟩, fun h => if_neg h⟩
  case distributor =>
    rw [Exec.distributorElementRead, execDistributorElementRead, hx]
    dsimp only
    refine ⟨fun h => if_pos h, fun hno hgo => ?_, fun e => distributorHalt_none, fun hyes hgo => ?_⟩
    · rw [if_neg (Bool.eq_false_iff.mp hgo), if_pos (by rw [hno]; rfl)]
    · rw [if_neg (Bool.eq_false_iff.mp hgo), if_neg (by rw [hyes]; decide)]
      exact ⟨fun e h => by rw [h], fun u h => by rw [h], fun bs u h => by rw [h]⟩
  case completion =>
    have huid : t.uid = m.team := beq_iff_eq.mp (List.find?_some (p := fun u : Team => u.uid == m.team) hteam)
    have honlyTeam : OnlyTeam t s := ⟨List.mem_of_find?_eq_some hteam, honly⟩
    obtain ⟨acc, land, hv, hland⟩ := mem_finishMatrix_teams (core := core) (k := k) honlyTeam huid.symm hgroups
    refine ⟨_, _, ?_, hv, rfl, fun hnodup j hj => vget_countUp hnodup t.vers hj, hland, finishMatrix_mem⟩
    rw [exec_matrixOperationComplete hm, hrun, hfin]
    rfl

end Sys2Proof

/-! # The canonical form of memory (R237, R480)

O59. A step keeps memory in its form because every write to it goes through `Mem.write`, which keeps the form, and every
function of the model that a step is made of writes only so. The lemmas below go through those functions in the order of
the model's files. A function that sets other fields of the state alone needs no lemma, since `MemOk.frame` sees through it.
Names tell the kind of the function, as for O60: `f_memOk` for a change of the state, `f_keeps` for an operation, `f_steps`
for a step. -/

namespace Sys2Proof

open Sys2Proof.Machine

-- The model's own tests above are slow to check, and lemmas elaborated ahead of them would each hold a thread.
set_option Elab.async false

/-! ## States -/

namespace MemOk

variable {s t : State}

/-- A state with the memory of one that is in form. -/
theorem frame (h : MemOk s) (e : t.mem = s.mem := by exact rfl) : MemOk t := by
  unfold MemOk
  rwa [e]

theorem withParts (h : MemOk s) (l : List Part) : MemOk { s with parts := l } := h

/-- The same, the other state read off the equation. -/
theorem of (e : t.mem = s.mem) (h : MemOk s) : MemOk t := h.frame e

theorem ite {p : Prop} [Decidable p] (hs : MemOk s) (ht : MemOk t) : MemOk (if p then s else t) := by
  split <;> assumption

/-- Steps that keep the form keep it one after another. -/
theorem foldl {α : Type} {f : State → α → State} {l : List α} (hf : ∀ s x, MemOk s → MemOk (f s x)) (h : MemOk s) :
    MemOk (l.foldl f s) := by
  induction l generalizing s with
  | nil => exact h
  | cons x l ih => exact ih (hf s x h)

/-- Steps that may fail, one after another. -/
theorem foldlBind {α : Type} {f : State → α → Option State} {l : List α}
    (hf : ∀ s x t, MemOk s → f s x = some t → MemOk t) (h : MemOk s)
    (ht : l.foldl (fun o x => o.bind fun s => f s x) (some s) = some t) : MemOk t := by
  induction l generalizing s with
  | nil => exact Option.some.inj ht ▸ h
  | cons x l ih =>
    rw [List.foldl_cons, Option.bind_some] at ht
    cases hx : f s x with
    | none =>
      have hn : ∀ l : List α, l.foldl (fun o x => o.bind fun s => f s x) none = none := by
        intro l
        induction l with
        | nil => rfl
        | cons x l ih => exact ih
      rw [hx, hn] at ht
      cases ht
    | some u => exact ih (hf s x u h hx) (hx ▸ ht)

end MemOk

namespace MemForm

/-! ## Operations -/

/-- What an operation that stops leaves to be done keeps the form. -/
def StopOk : Stop → Prop
  | .park f => ∀ s, MemOk s → MemOk (f s)
  | _ => True

/-- From a state whose memory is in form an operation answers such a state, with a value that `Q` holds of, or it stops
and keeps it so. -/
def KeepsTo {α : Type} (Q : α → Prop) (m : Op α) : Prop :=
  ∀ s, MemOk s → match m.run s with
    | .ok (x, t) => MemOk t ∧ Q x
    | .error e => StopOk e

/-- An operation keeps the form, whatever its value. -/
abbrev Keeps {α : Type} (m : Op α) : Prop := KeepsTo (fun _ => True) m

namespace KeepsTo

variable {α β : Type} {Q : α → Prop} {R : β → Prop}

theorem ok {m : Op α} {s t : State} {x : α} (hm : KeepsTo Q m) (h : MemOk s) (hr : m.run s = .ok (x, t)) :
    MemOk t ∧ Q x := by
  have := hm s h
  rwa [hr] at this

theorem error {m : Op α} {s : State} {e : Stop} (hm : KeepsTo Q m) (h : MemOk s) (hr : m.run s = .error e) :
    StopOk e := by
  have := hm s h
  rwa [hr] at this

theorem pure {x : α} (hx : Q x := by trivial) : KeepsTo Q (Pure.pure x) := fun _ h => ⟨h, hx⟩

theorem bind {m : Op α} {f : α → Op β} (hm : KeepsTo Q m) (hf : ∀ x, Q x → KeepsTo R (f x)) :
    KeepsTo R (m >>= f) := by
  intro s h
  rw [run_bind]
  have hm := hm s h
  rcases hr : m.run s with e | ⟨x, t⟩
  · rwa [hr] at hm
  · rw [hr] at hm
    exact hf x hm.2 t hm.1

/-- What follows an operation whose value does not matter. -/
theorem next {m : Op α} {f : α → Op β} (hm : Keeps m) (hf : ∀ x, KeepsTo R (f x)) : KeepsTo R (m >>= f) :=
  hm.bind fun x _ => hf x

theorem get {f : State → Op β} (hf : ∀ s, MemOk s → KeepsTo R (f s)) : KeepsTo R (MonadState.get >>= f) := by
  intro s h
  rw [run_bind]
  exact hf s h s h

theorem set {t : State} (h : MemOk t) : Keeps (MonadStateOf.set t : Op PUnit) := fun _ _ => ⟨h, trivial⟩

theorem update {f : State → State} (hf : ∀ s, MemOk s → MemOk (f s)) : Keeps (modify f : Op PUnit) :=
  fun s h => ⟨hf s h, trivial⟩

theorem throw {e : Stop} (he : StopOk e := by trivial) : KeepsTo Q (MonadExcept.throw e : Op α) := fun _ _ => he

theorem throwBind {e : Stop} {f : α → Op β} (he : StopOk e := by trivial) :
    KeepsTo R ((MonadExcept.throw e : Op α) >>= f) := fun _ _ => he

/-- An operation whose stops become others that leave nothing to be done. -/
theorem changeStop {m n : Op α} (hm : KeepsTo Q m)
    (hn : ∀ s, n.run s = m.run s ∨ ∃ e, n.run s = .error e ∧ StopOk e) : KeepsTo Q n := by
  intro s h
  rcases hn s with hs | ⟨e, hs, he⟩
  · rw [hs]
    exact hm s h
  · rw [hs]
    exact he

theorem ite {p : Prop} [Decidable p] {m n : Op α} (hm : KeepsTo Q m) (hn : KeepsTo Q n) :
    KeepsTo Q (if p then m else n) := by
  split <;> assumption

end KeepsTo

/-- The answer of a step, where it is a next state, keeps the form. -/
def ResultOk (r : Result) : Prop := ∀ t, r = .next t → MemOk t

namespace ResultOk

theorem next {t : State} (h : MemOk t) : ResultOk (.next t) := fun _ ht => Host.Outcome.next.inj ht ▸ h

theorem fault {f : Fault} : ResultOk (.fault f) := fun _ ht => nomatch ht

theorem ite {p : Prop} [Decidable p] {r r' : Result} (hr : ResultOk r) (hr' : ResultOk r') :
    ResultOk (if p then r else r') := by
  split <;> assumption

end ResultOk

/-- A kind of step keeps the form. -/
def Steps (f : State → Result) : Prop := ∀ s, MemOk s → ResultOk (f s)

/-! ## Sys2Proof/Machine/Mem.lean -/

theorem homeWrite_memOk (h : MemOk s) : MemOk (homeWrite s key comp a bs) := homeWrite_wf s key comp a bs h

theorem countRange_memOk (h : MemOk s) : MemOk (countRange s a n) := h.frame (countRange_mem s a n)

theorem touch_memOk (h : MemOk s) : MemOk (touch s by_ plain write a n) := h.frame (touch_mem s by_ plain write a n)

theorem physWrite_memOk (h : MemOk s) : MemOk (physWrite a bs s) :=
  .ite h.frame (countRange_memOk (touch_memOk (homeWrite_memOk h)))

theorem arrive_memOk (h : MemOk s) : MemOk (arrive s w) := arrive_wf s w h

theorem seeAll_memOk (h : MemOk s) : MemOk (seeAll s p) := h.frame (seeAll_mem s p)

theorem arriveAll_memOk (h : MemOk s) : MemOk (arriveAll s p) := arriveAll_wf s p h

theorem drainDie_memOk (h : MemOk s) : MemOk (drainDie s by_ die) := drainDie_wf s by_ die h

theorem drainSectors_memOk (h : MemOk s) : MemOk (drainSectors s by_ die a n) :=
  drainSectors_wf s by_ die a n h

/-! ## Sys2Proof/Machine/Translate.lean -/

theorem walkReads_memOk (h : MemOk s) : MemOk (walkReads s r va) := by
  unfold walkReads
  split
  · exact h
  · exact .ite h (.foldl (fun _ _ hs => .ite hs.frame (countRange_memOk (touch_memOk hs))) h)

theorem faultWalk_memOk (h : MemOk s) : MemOk (faultWalk cause a r s) :=
  .ite (walkReads_memOk h) h

theorem orLeaf_memOk (h : MemOk s) : MemOk (orLeaf s r addr write) :=
  .ite (countRange_memOk (drainSectors_memOk h)) (touch_memOk (homeWrite_memOk (countRange_memOk
    (drainSectors_memOk h))))

theorem markAccess_memOk (h : MemOk s) : MemOk (markAccess s r t write) :=
  .ite h (by
    split
    · exact h
    · exact .of rfl (.ite (walkReads_memOk h) (orLeaf_memOk (walkReads_memOk h))))

/-! ## Sys2Proof/Machine/End.lean -/

theorem settleClk_memOk (h : MemOk s) : MemOk (settleClk s) := .ite h h.frame

theorem reclaimAll_memOk (h : MemOk s) : MemOk (reclaimAll p s) :=
  settleClk_memOk h.frame

theorem reclaimCtx_memOk (h : MemOk s) : MemOk (reclaimCtx n s) := reclaimAll_memOk h

theorem dropReads_memOk (h : MemOk s) : MemOk (dropReads who s) := .ite h h.frame

theorem dropRunners_memOk (h : MemOk s) : MemOk (dropRunners p s) := by
  unfold dropRunners
  refine .ite ?_ h.frame
  split
  · exact h.frame
  · exact h.frame

theorem sweepTeams_memOk (h : MemOk s) : MemOk (sweepTeams s) := h.frame

theorem countExit_memOk (h : MemOk s) : MemOk (countExit team s) := sweepTeams_memOk h.frame

theorem discardGrids_memOk (h : MemOk s) : MemOk (discardGrids p stay s) := dropRunners_memOk h.frame

theorem endGrid_memOk (hok : MemOk s) : MemOk (endGrid h status code s) := by
  unfold endGrid
  exact discardGrids_memOk hok.frame

theorem finishEnds_memOk (h : MemOk s) : MemOk (finishEnds s) :=
  .foldl (fun _ _ hs => .ite hs.frame hs) h

theorem endContext_memOk (h : MemOk s) : MemOk (endContext n s) := by
  unfold endContext
  refine finishEnds_memOk (MemOk.frame (s := List.foldl _ _ _) ?_)
  exact .foldl (fun _ _ hs => hs.frame) (reclaimCtx_memOk (discardGrids_memOk h))

theorem raiseHalt_memOk (hok : MemOk s) : MemOk (raiseHalt part h s) := hok.frame

theorem rollbackTeam_memOk (h : MemOk s) : MemOk (rollbackTeam c k s) := by
  have hs : MemOk (s.runners.foldl (fun u r =>
      if r.team = (ckTeam s c.valid k.team).uid then { u with wicket := u.wicket.release r.id } else u) s) :=
    .foldl (fun _ _ hs => .ite hs.frame hs) h
  exact hs.frame

theorem focus_memOk (h : MemOk s) (hf : focus who s = some t) : MemOk t := by
  unfold focus at hf
  split at hf
  · exact Option.some.inj hf ▸ h
  · obtain ⟨r, hr, rfl⟩ := Option.map_eq_some_iff.mp hf
    exact h.frame

theorem asRunner_memOk (hf : ∀ s, MemOk s → MemOk (f s)) (h : MemOk s) :
    MemOk (asRunner who f s) := by
  unfold asRunner
  split
  · exact h
  · rename_i t ht
    have hft : MemOk (f t) := hf t (focus_memOk h ht)
    cases hb : focus s.me.id (f t) with
    | none => exact hft
    | some u => exact focus_memOk hft hb

theorem settleRollback_memOk (h : MemOk s) : MemOk (settleRollback uid s) := by
  unfold settleRollback
  split
  · split
    · exact h
    · split
      · exact h
      · exact .ite h (.ite (asRunner_memOk (fun _ hs => hs.frame) h.frame) (rollbackTeam_memOk
            h))
  · exact h

theorem askRollback_memOk (h : MemOk s) : MemOk (askRollback uid s) :=
  settleRollback_memOk h.frame

theorem fatalGroup_memOk (h : MemOk s) : MemOk (fatalGroup cause addr lanes lpc s) := by
  unfold fatalGroup
  dsimp only
  split
  · exact .ite (askRollback_memOk h) h.frame
  · exact h.frame

/-! ## Sys2Proof/Machine/Ops.lean -/

theorem stopTrap_keeps {α : Type} {Q : α → Prop} : KeepsTo Q (stopTrap c a : Op α) := .throw

theorem need_keeps : Keeps (need c cause addr) := .ite .pure stopTrap_keeps

theorem readyIf_keeps : Keeps (readyIf c) := .ite .pure .throw

theorem unhandled_memOk (h : MemOk s) : MemOk (unhandled lane cause s) :=
  .ite (endGrid_memOk (.ite h.frame h)) (endContext_memOk h)

theorem undoClaim_memOk (h : MemOk s) : MemOk (undoClaim s) := .ite h.frame h

theorem drainTrap_memOk (h : MemOk s) : MemOk (drainTrap s) :=
  .ite h.frame (arriveAll_memOk h).frame

theorem groupTrap_memOk (h : MemOk s) :
    MemOk (groupTrap lane cause addr epc vc frag lpc s) := by
  have hu := undoClaim_memOk h
  exact .ite (endContext_memOk h) (.ite (fatalGroup_memOk h) (.ite (unhandled_memOk h) (drainTrap_memOk
    (dropReads_memOk hu.frame))))

theorem takeTrap_memOk (h : MemOk s) : MemOk (takeTrap cause addr epc s) :=
  .ite (dropReads_memOk h.frame) (groupTrap_memOk h)

theorem leadTrap_memOk (h : MemOk s) : MemOk (leadTrap cause addr epc s) := by
  have hw : MemOk (faultWalk cause addr s.me s) := faultWalk_memOk h
  unfold leadTrap
  dsimp only
  generalize faultWalk cause addr s.me s = u at hw ⊢
  refine .ite (takeTrap_memOk hw) (.ite hw.frame (.ite (takeTrap_memOk
    hw.frame) (MemOk.frame (s := ite _ _ _) ?_ rfl)))
  exact .ite hw.frame hw.frame

theorem stopLead_memOk (he : StopOk e) (h : MemOk s) : MemOk (stopLead e s) := by
  unfold stopLead
  split
  · exact leadTrap_memOk h
  · exact leadTrap_memOk h
  · exact leadTrap_memOk h
  · exact leadTrap_memOk h
  · exact h
  · exact he s h
  · exact h.frame
  · exact h.frame

theorem runLead_steps (hm : Keeps m) : Steps (runLead m) := by
  intro s h
  have hon : MemOk { s with me := { s.me with pc := s.issue.next } } := h.frame
  unfold runLead
  split
  · rename_i hr
    exact .next (hm.ok hon hr).1
  · rename_i hr
    exact .next (stopLead_memOk (hm.error hon hr) h)

theorem runEvent_steps (hm : Keeps m) : Steps (runEvent m) := by
  intro s h
  unfold runEvent
  split
  · rename_i hr
    exact .next (hm.ok h hr).1
  · rename_i f hr
    exact .next (hm.error h hr s h)
  · exact .next h

theorem getMe_keeps : Keeps getMe := .get fun _ _ => .pure

theorem onMe_keeps : Keeps (onMe f) :=
  .update fun _ hs => hs.frame

theorem reg_keeps : Keeps (reg a) := .get fun _ _ => .pure

theorem setReg_keeps : Keeps (setReg d x) := onMe_keeps

theorem getXb_keeps : Keeps (getXb n) := .get fun _ _ => .pure

theorem needSup_keeps : Keeps needSup := .get fun _ _ => .get fun _ _ => need_keeps

theorem needGroup_keeps : Keeps needGroup := .get fun _ _ => .get fun _ _ => need_keeps

theorem notInTx_keeps : Keeps notInTx := .get fun _ _ => .ite .throw .pure

theorem needCtx_keeps : Keeps needCtx := .get fun _ _ => need_keeps

theorem needField_keeps : Keeps (needField c) := .get fun _ _ => need_keeps

theorem ordOf_keeps : Keeps ordOf :=
  .get fun _ _ => by
    split
    · exact .pure
    · exact .pure

theorem ordIn_keeps : Keeps (ordIn allowed) := .next ordOf_keeps fun _ => .next needField_keeps fun _ => .pure

theorem outSpend_memOk (h : MemOk s) : MemOk (outSpend who ask s) := .ite h h.frame

theorem performTickets_memOk (h : MemOk s) : MemOk (performTickets p s) :=
  .foldl (fun _ _ hs => outSpend_memOk (have hr := .foldl (fun _ _ hs1 => countRange_memOk (touch_memOk hs1)) hs
    .ite hr.frame hr)) h.frame

theorem performLine_memOk (h : MemOk s) : MemOk (performLine id' k s) := by
  unfold performLine
  split
  · exact h
  · exact countRange_memOk (touch_memOk h.frame)

theorem releaseState_memOk (h : MemOk s) : MemOk (releaseState scope s) :=
  .ite (drainDie_memOk (performTickets_memOk h)) (.ite (seeAll_memOk (performTickets_memOk h))
    (performTickets_memOk h))

theorem releaseReady_keeps : Keeps (releaseReady scope order) :=
  .get fun _ _ => .next readyIf_keeps fun _ => readyIf_keeps

theorem before_keeps : Keeps (before scope order) :=
  .next releaseReady_keeps fun _ => .ite (.update fun _ hs => releaseState_memOk hs) .pure

theorem scState_memOk (h : MemOk s) : MemOk (scState scope s) :=
  .ite (arriveAll_memOk (performTickets_memOk h)) (.ite (seeAll_memOk (performTickets_memOk h))
    (performTickets_memOk h))

theorem scDone_keeps : Keeps (scDone scope order) :=
  .ite (.get fun _ _ => .next readyIf_keeps fun _ => .next readyIf_keeps fun _ => .update fun _ hs1 =>
    scState_memOk hs1) .pure

theorem markPageOf_keeps : Keeps (markPageOf r t write) :=
  .get fun _ _ => .next readyIf_keeps fun _ => .update fun _ hs1 => markAccess_memOk hs1

theorem readOutside_keeps : Keeps (readOutside g ask pa n) :=
  .get fun _ _ => by
    split
    · exact .pure
    · exact .throw (fun _ hs1 => .ite hs1.frame hs1.frame)

theorem spendAnswers_keeps : Keeps (spendAnswers g) := .update fun _ hs => .ite hs (outSpend_memOk hs).frame

theorem readAt_keeps : Keeps (readAt g t z) :=
  .get fun _ _ => .ite (.next readOutside_keeps fun _ => .next markPageOf_keeps fun _ => .pure)
    (.next readyIf_keeps fun _ => .next markPageOf_keeps fun _ => by
    split
    · exact .pure
    · exact .next (.update fun _ hs1 => hs1.frame) fun _ => .pure
    · exact .next (.update fun _ hs1 => countRange_memOk (touch_memOk hs1)) fun _ => .get fun _ _ => .pure)

theorem acceptBytes_memOk (h : MemOk s) : MemOk (acceptBytes g pa slot comp bs s) :=
  .ite (performTickets_memOk h).frame (by
    split
    · exact .ite (performTickets_memOk h).frame (performTickets_memOk h)
    · exact (performTickets_memOk h).frame
    · exact .ite (arrive_memOk (performTickets_memOk h)) (performTickets_memOk h).frame)

theorem writeAt_keeps : Keeps (writeAt g t bs) :=
  .get fun _ _ => .next readyIf_keeps fun _ => .next markPageOf_keeps fun _ => .update fun _ hs1 =>
    acceptBytes_memOk hs1

theorem atomicAt_keeps : Keeps (atomicAt g t z f) :=
  .get fun _ hs => .next readyIf_keeps fun _ => .ite (.next readAt_keeps fun _ => .pure) (.ite
    (.next readAt_keeps fun _ => .next writeAt_keeps fun _ => .pure) (.next readyIf_keeps fun _ => .next (.set
    (arrive_memOk (drainSectors_memOk (markAccess_memOk (performTickets_memOk hs))))) fun _ => .pure))

theorem txPlace_keeps : Keeps (txPlace a t) := .get fun _ _ => .next need_keeps fun _ => .ite .throw .pure

theorem txRead_keeps : Keeps (txRead a t z) :=
  .next txPlace_keeps fun _ => .get fun _ hs => .ite .throwBind (.next readyIf_keeps fun _ => .ite (.next
    (.update fun _ hs1 => markAccess_memOk hs1) fun _ => .pure) (.ite .throwBind (.next readyIf_keeps fun _ =>
    .next (.set (countRange_memOk (touch_memOk (drainSectors_memOk (markAccess_memOk hs)))).frame)
    fun _ => .pure)))

theorem txWrite_keeps : Keeps (txWrite a t bs) :=
  .next txPlace_keeps fun _ => .get fun _ hs => .ite .throwBind (.ite .throwBind (.next readyIf_keeps fun _ => .set
    (markAccess_memOk hs).frame))

theorem leadRead_keeps : Keeps (leadRead a t z) :=
  .get fun _ _ => .ite (.next txRead_keeps fun _ => .pure) (.next readAt_keeps fun _ =>
    .next spendAnswers_keeps fun _ => .pure)

theorem leadWrite_keeps : Keeps (leadWrite a t bs) := .get fun _ _ => .ite txWrite_keeps writeAt_keeps

theorem leadAtomic_keeps : Keeps (leadAtomic a t z f) :=
  .get fun _ _ => .ite (.next txRead_keeps fun _ => .next txWrite_keeps fun _ => .pure)
    (.next atomicAt_keeps fun _ => .next spendAnswers_keeps fun _ => .pure)

theorem leadCheck_keeps : Keeps (leadCheck a z n) :=
  .get fun _ _ => by
    split
    · exact stopTrap_keeps
    · exact .next need_keeps fun _ => .next need_keeps fun _ => .next need_keeps fun _ => .next need_keeps fun _ =>
          .pure

/-! ## Sys2Proof/Machine/Landing.lean -/

theorem onTeam_memOk (h : MemOk s) : MemOk (onTeam uid f s) := h.frame

theorem markDirty_memOk (h : MemOk s) : MemOk (markDirty s) := .ite h (onTeam_memOk h)

/-! ## Sys2Proof/Machine/LaneTx.lean -/

theorem laneLockDone_memOk (h : MemOk s) : MemOk (laneLockDone s) := .ite h.frame h

theorem laneAborts_memOk (h : MemOk s) : MemOk (laneAborts age finals conflicts s) :=
  .ite h (laneLockDone_memOk h.frame)

theorem laneFaults_memOk (h : MemOk s) : MemOk (laneFaults age cs s) := laneAborts_memOk h.frame

/-! ## Sys2Proof/Machine/Operands.lean -/

theorem markStall_memOk (h : MemOk s) : MemOk (markStall spans s) := by
  unfold markStall
  split
  · exact h
  · exact h.frame

theorem notPending_keeps : Keeps (notPending spans) :=
  .get fun _ _ => .ite (.throw (fun _ hs1 => markStall_memOk hs1)) .pure

theorem popQueues_memOk (h : MemOk s) : MemOk (popQueues c needs s) :=
  .foldl (fun _ _ hs => .ite hs (by
    dsimp only
    split
    · exact .ite hs.frame hs.frame
    · exact hs.frame)) h

theorem laneTrap_memOk (h : MemOk s) : MemOk (laneTrap m0 slot cs s) := groupTrap_memOk h

theorem trapAfter_memOk (ht : ∀ s, MemOk s → MemOk (t s)) (h : MemOk s) :
    MemOk (trapAfter age cs t s) := .ite (ht _ (laneAborts_memOk h)) (laneAborts_memOk h)

theorem fragTrap_memOk (h : MemOk s) : MemOk (fragTrap age m0 slot cause addr s) :=
  .ite (laneTrap_memOk (faultWalk_memOk h)) (.ite (trapAfter_memOk (fun _ hs => laneTrap_memOk hs)
    (faultWalk_memOk h)) (laneFaults_memOk (faultWalk_memOk h)))

theorem lanesTrap_memOk (h : MemOk s) : MemOk (lanesTrap age m0 slot cs s) :=
  .ite (.ite (laneFaults_memOk (.foldl (fun _ _ hs => faultWalk_memOk hs) h)) (trapAfter_memOk
    (fun _ hs => laneTrap_memOk hs) (.foldl (fun _ _ hs => faultWalk_memOk hs) h))) (laneTrap_memOk
    (.foldl (fun _ _ hs => faultWalk_memOk hs) h))

/-- A queue that cannot give its entries leaves nothing to be done. -/
theorem queuesReady_stopOk (he : queuesReady s c needs act = some e) : StopOk e := by
  obtain ⟨p, -, hp⟩ := List.exists_of_findSome?_eq_some he
  split at hp
  · cases hp
  · dsimp only at hp
    split at hp
    · cases hp; trivial
    · split at hp
      · cases hp
      · split at hp
        · split at hp <;> cases hp <;> trivial
        · cases hp; trivial

theorem stopLane_memOk (he : StopOk e) (h : MemOk s) : MemOk (stopLane c needs e s) := by
  unfold stopLane
  split
  · exact fragTrap_memOk h
  · exact lanesTrap_memOk h
  · exact fragTrap_memOk h
  · rename_i cs q
    cases q with
    | stay => exact lanesTrap_memOk h
    | kept => exact lanesTrap_memOk (.ite h (popQueues_memOk h).frame)
    | again => exact lanesTrap_memOk (popQueues_memOk h)
  · exact h
  · exact he s h
  · exact laneAborts_memOk h.frame
  · exact h

theorem shadowTrap_memOk (h : MemOk s) : MemOk (shadowTrap c s) := laneTrap_memOk h.frame

theorem forbidden_memOk (h : MemOk s) : MemOk (forbidden c s) := laneAborts_memOk h

theorem runLane_steps (hm : ∀ c, Keeps (m c)) : Steps (runLane rule m) := by
  intro s h
  unfold runLane
  dsimp only
  refine .ite (.next h.frame) (.ite (.next (stopLane_memOk trivial h)) (.ite (.next (.ite
    h.frame (stopLane_memOk trivial h))) (.ite (.next (forbidden_memOk h)) (.ite (.next (.ite
    h.frame (.ite (stopLane_memOk trivial h) (laneTrap_memOk h)))) (.ite
    (.next (shadowTrap_memOk h)) (.ite (.next h) (.ite (.next (markStall_memOk h)) ?_)))))))
  split
  · rename_i e he
    have hstop : StopOk e := queuesReady_stopOk he
    refine .next ?_
    split
    · exact .ite h.frame (stopLane_memOk hstop h)
    · exact stopLane_memOk hstop h
  · have hpop := fun (c : LaneCtx) needs => popQueues_memOk (c := c.cl) (needs := needs) h
    split
    · rename_i hr
      exact .next ((hm _).ok (hpop _ _).frame hr).1
    · rename_i hr
      exact .next (stopLane_memOk ((hm _).error (hpop _ _).frame hr) h)

theorem onLanes_keeps : Keeps (onLanes f) := onMe_keeps

theorem writeD_keeps : Keeps (writeD c bits' g) := onLanes_keeps

theorem writeMask_keeps : Keeps (writeMask c k p) := onLanes_keeps

/-! ## Sys2Proof/Machine/Flags.lean -/

theorem flagStart_keeps : Keeps (flagStart c) := by
  unfold flagStart
  split
  · exact onLanes_keeps
  · exact .pure

theorem opIssued_keeps : Keeps (opIssued c home) := by
  unfold opIssued
  split
  · exact .next onLanes_keeps fun _ => .update fun _ hs => hs.frame
  · exact .pure

theorem storeIssued_keeps : Keeps (storeIssued c scope) := .ite opIssued_keeps .pure

theorem execFlagRelease_steps : Steps (execFlagRelease who k) := by
  intro _ h
  unfold execFlagRelease
  split
  · exact .next h.frame
  · exact .next h

/-! ## Sys2Proof/Machine/Fetch.lean -/

theorem codeWord_keeps : Keeps (codeWord a) :=
  .get fun _ _ => by
    split
    · exact .throw
    · exact .ite .throw (.ite (.next readOutside_keeps fun _ => .pure) (.next markPageOf_keeps fun _ => .ite (.next
          (.update fun _ hs1 => hs1.frame) fun _ => .pure) (.next (.update fun _ hs1 =>
          countRange_memOk (touch_memOk hs1)) fun _ => .pure)))

theorem codeRun_keeps : Keeps (codeRun n a) := by
  induction n generalizing a with
  | zero => exact .pure
  | succ n ih =>
    exact .next codeWord_keeps fun _ => .ite (.next ih fun _ => .pure)
      (.ite (.next codeWord_keeps fun _ => .pure) .pure)

theorem spendCode_memOk (h : MemOk s) : MemOk (spendCode a n s) := .ite h h.frame

theorem latch_memOk (h : MemOk s) : MemOk (latch pc d s) := (spendCode_memOk h).frame

theorem fetchLead_keeps : Keeps fetchLead :=
  .get fun _ _ => .next codeRun_keeps fun _ => .get fun _ _ => .ite .throwBind (.next (.update fun _ hs2 =>
    latch_memOk hs2) fun _ => .pure)

theorem execLeadFetch_steps : Steps execLeadFetch := by
  intro s h
  unfold execLeadFetch
  split
  · rename_i hr
    exact .next (fetchLead_keeps.ok h hr).1
  · rename_i hr
    exact .next (stopLead_memOk (fetchLead_keeps.error h hr) h)

theorem execUnusedOpcode_steps : Steps execUnusedOpcode :=
  fun _ h => .ite ((runLane_steps fun _ => .pure) _ h) (.next (leadTrap_memOk h))

theorem codeSlot_keeps : Keeps (codeSlot a) :=
  .next codeWord_keeps fun _ => .next codeWord_keeps fun _ => .next codeWord_keeps fun _ => .pure

theorem laneSlot_keeps : Keeps (laneSlot slot) :=
  .get fun s h => .ite .throw (by
    split
    · rename_i hr
      exact .next (.set (codeSlot_keeps.ok h hr).1) fun _ => .pure
    · exact .throw
    · rename_i hr
      exact .throw (codeSlot_keeps.error h hr))

/-- The cause that a clause header raises leaves nothing to be done. -/
theorem laneHeader_keeps : KeepsTo (fun r => ∀ e, r = .error e → StopOk e) (laneHeader slot) :=
  .next laneSlot_keeps fun _ => .get fun _ _ => .ite (.pure fun | _, rfl => trivial)
    (.ite (.pure fun | _, rfl => trivial) (.ite (.pure fun | _, rfl => trivial) (.pure nofun)))

/-- What a clause start finds keeps the form, whether the clause starts or stops. -/
theorem pickClause_memOk (h : MemOk s) (hp : pickClause s = some (x, e, t)) :
    MemOk t ∧ ∀ c, e = .error c → StopOk c := by
  obtain ⟨y, -, hy⟩ := List.exists_of_findSome?_eq_some hp
  split at hy
  · rename_i hr
    split at hy
    · obtain ⟨rfl, rfl, rfl⟩ := hy
      exact ⟨(laneHeader_keeps.ok h hr).1, nofun⟩
    · cases hy
  · rename_i hr
    obtain ⟨rfl, rfl, rfl⟩ := hy
    exact laneHeader_keeps.ok h hr
  · rename_i hr
    obtain ⟨rfl, rfl, rfl⟩ := hy
    exact ⟨h, fun | _, rfl => laneHeader_keeps.error h hr⟩

theorem latchClause_memOk (hok : MemOk s) : MemOk (latchClause x h s) := hok.frame

theorem stopClause_memOk (he : StopOk e) (h : MemOk s) : MemOk (stopClause x e s) := by
  unfold stopClause
  split
  · exact fragTrap_memOk h
  · exact fragTrap_memOk h
  · exact he s h
  · exact h

theorem raiseStreamFault_memOk (h : MemOk s) : MemOk (raiseStreamFault os cause a s) := by
  have ht : MemOk (leadTrap cause a s.me.pc
      { s with me := { s.me with l := { s.me.l with osfault := BitVec.ofNat 64 (os + 1) } } }) :=
    leadTrap_memOk h.frame
  unfold raiseStreamFault
  exact .ite ht.frame ht

theorem takeInterrupt_memOk (h : MemOk s) : MemOk (takeInterrupt w s) :=
  (undoClaim_memOk h).frame

theorem expireLease_memOk (h : MemOk s) : MemOk (expireLease e s) := by
  unfold expireLease
  split
  · exact h
  · exact settleClk_memOk h.frame

theorem advanceClocks_memOk (h : MemOk s) : MemOk (advanceClocks core' host fabric s) :=
  .foldl (fun _ _ hs => expireLease_memOk hs) h.frame

theorem passClocks_memOk (h : MemOk s) : MemOk (passClocks core' host fabric s) :=
  advanceClocks_memOk h

theorem passHall_memOk (h : MemOk s) : MemOk (passHall hall core' ns s) :=
  .ite (advanceClocks_memOk h).frame h

/-! ## Sys2Proof/Machine/Spans.lean -/

theorem readPieces_keeps : Keeps (readPieces g l) := by
  induction l with
  | nil => exact .pure
  | cons p l ih => exact .next readAt_keeps fun _ => .next ih fun _ => .pure

theorem allLanes_keeps : Keeps (allLanes q l) := .ite .pure .throw

/-! ## Sys2Proof/Machine/Tickets.lean -/

theorem newTicket_memOk (h : MemOk s) (hp : newTicket code size sc t s = some p) : MemOk p.2 := by
  obtain ⟨old, -, rfl⟩ := Option.map_eq_some_iff.mp hp
  dsimp only [putCloak]
  split
  · exact h.frame
  · exact h.frame

theorem spendCloak_memOk (h : MemOk s) : MemOk (spendCloak e s) := settleClk_memOk h.frame

theorem acceptWide_memOk (h : MemOk s) : MemOk (acceptWide g pa key comp bs s) :=
  .ite (.foldl (fun _ _ hs => acceptBytes_memOk hs) h) (acceptBytes_memOk h)

theorem storePieces_memOk (h : MemOk s) : MemOk (storePieces g l bs s) := by
  induction l generalizing bs s with
  | nil => exact h
  | cons p l ih => exact ih (acceptWide_memOk h)

theorem deliverBytes_memOk (h : MemOk s) : MemOk (deliverBytes who d bs s) := by
  unfold deliverBytes
  split
  · exact h.frame
  · exact (storePieces_memOk h).frame
  · exact h.frame
  · exact h.frame
  · exact h.frame

theorem deliverNow_memOk (h : MemOk s) : MemOk (deliverNow e d s) :=
  deliverBytes_memOk (spendCloak_memOk h)

theorem redeemLead_keeps (hmark : ∀ s, MemOk s → MemOk (mark s)) : Keeps (redeemLead e t d mark) :=
  .get fun _ _ => .get fun _ _ => .next readyIf_keeps fun _ => .ite (.ite (.throw (fun _ hs2 => leadTrap_memOk
    (spendCloak_memOk (markDirty_memOk hs2)))) (.update fun _ hs2 => deliverNow_memOk
    (markDirty_memOk (hmark _ hs2)))) (.throw (fun _ hs2 => (markDirty_memOk (hmark _ hs2)).frame))

theorem refuse_keeps : Keeps (refuse sq' code t) := by
  unfold refuse
  split
  · exact setReg_keeps
  · exact stopTrap_keeps

theorem withTicket_keeps (hk : ∀ x0 x1, Keeps (k x0 x1)) : Keeps (withTicket a sq' fits k) :=
  .next needCtx_keeps fun _ => .next notInTx_keeps fun _ => .next reg_keeps fun _ => .get fun _ _ => by
    split
    · exact refuse_keeps
    · exact hk _ _

theorem okStatus_keeps : Keeps (okStatus sq') := by
  unfold okStatus
  split
  · exact setReg_keeps
  · exact .pure

theorem tloadForm_steps : Steps (tloadForm d a x z code try_) :=
  runLead_steps (.next ordIn_keeps fun _ => .next needCtx_keeps fun _ => .next notInTx_keeps fun _ => .get fun _ _ =>
    .next getXb_keeps fun _ => .next reg_keeps fun _ => by
      dsimp only
      split
      · exact stopTrap_keeps
      · refine .next need_keeps fun _ => .next need_keeps fun _ => .next before_keeps fun _ => .get fun _ _ =>
          .next markPageOf_keeps fun _ => .get fun _ hs => ?_
        split
        · rename_i hp
          exact .next (.set (newTicket_memOk hs hp)) fun _ => setReg_keeps
        · exact .ite setReg_keeps stopTrap_keeps)

theorem redeemForm_steps : Steps (redeemForm d a sq') :=
  runLead_steps (withTicket_keeps (fun _ _ => .get fun _ _ => redeemLead_keeps (fun _ hs1 => hs1)))

theorem redeemlMem_steps : Steps (redeemlMem d a x sq') :=
  runLead_steps (.next needCtx_keeps fun _ => .next notInTx_keeps fun _ => .get fun _ _ => .next reg_keeps fun _ =>
    .next reg_keeps fun _ => .next getXb_keeps fun _ => by
    dsimp only
    split
    · exact stopTrap_keeps
    · exact .next need_keeps fun _ => .next need_keeps fun _ => withTicket_keeps (fun _ _ =>
          .next readyIf_keeps fun _ => redeemLead_keeps (fun _ hs1 => .foldl (fun _ _ hs2 => markAccess_memOk
          hs2) hs1)))

theorem redeemlLand_steps : Steps (redeemlLand d a sq') :=
  runLead_steps (.next needGroup_keeps fun _ => .next needCtx_keeps fun _ => .next notInTx_keeps fun _ =>
    .get fun _ _ => .next reg_keeps fun _ => by
    dsimp only
    split
    · exact .next reg_keeps fun _ => stopTrap_keeps
    · exact .next reg_keeps fun _ => by
          split
          · exact stopTrap_keeps
          · exact withTicket_keeps (fun _ _ => redeemLead_keeps (fun _ hs1 => hs1)))

theorem execRedeemlQ_steps : Steps (execRedeemlQ d a x l sq') := by
  unfold execRedeemlQ
  split
  · exact redeemlLand_steps
  · exact redeemlMem_steps

theorem dropForm_steps : Steps (dropForm a sq') :=
  runLead_steps (withTicket_keeps (fun _ _ => .next (.update fun _ hs => spendCloak_memOk (markDirty_memOk
    hs)) fun _ => okStatus_keeps))

theorem execTstat_steps : Steps (execTstat d a) :=
  runLead_steps (.next needCtx_keeps fun _ => .next reg_keeps fun _ => .get fun _ _ => setReg_keeps)

theorem leaseForm_steps : Steps (leaseForm d a b sq') :=
  runLead_steps (withTicket_keeps (fun _ _ => .next reg_keeps fun _ => .next (.update fun _ hs => hs.frame) fun _ =>
    .get fun _ _ => .next setReg_keeps fun _ => okStatus_keeps))

theorem laneTickets_memOk (h : MemOk s) : MemOk (Machine.laneTickets size sc l s).2 := by
  induction l generalizing s with
  | nil => exact h
  | cons p l ih =>
    unfold Machine.laneTickets
    split
    · rename_i hp
      exact ih (newTicket_memOk (markAccess_memOk h) hp)
    · exact ih h

theorem execTloadv_steps : Steps execTloadv :=
  runLane_steps fun _ => .get fun _ _ => .next allLanes_keeps fun _ => .next before_keeps fun _ => .get fun _ hq =>
    .next readyIf_keeps fun _ => .ite (.next (.set (laneTickets_memOk hq)) fun _ => writeD_keeps) .throw

theorem deliverLanes_memOk (h : MemOk s) : MemOk (deliverLanes dst cs s) :=
  .foldl (fun _ _ hs => .ite (.ite (spendCloak_memOk hs) (deliverNow_memOk hs)) hs.frame) h

theorem redeemLanes_keeps : Keeps (redeemLanes c cs dst) :=
  .get fun _ _ => .ite (.next opIssued_keeps fun _ => .update fun _ hs1 => deliverLanes_memOk (.ite hs1
    (markDirty_memOk hs1))) (.throw (fun _ hs1 => laneTrap_memOk (deliverLanes_memOk (markDirty_memOk hs1))))

theorem execLaneRedeem_steps : Steps execLaneRedeem :=
  runLane_steps fun _ => .get fun _ _ => .ite (.ite (.ite .throwBind (.next notPending_keeps fun _ =>
    redeemLanes_keeps)) redeemLanes_keeps) .throw

theorem execLaneRedeemL_steps : Steps execLaneRedeemL :=
  runLane_steps fun _ => .get fun _ _ => by
    split
    · exact .throw
    · exact .next allLanes_keeps fun _ => .ite (.ite (.next writeD_keeps fun _ => redeemLanes_keeps)
          redeemLanes_keeps) .throw

theorem arriveCloak_memOk (h : MemOk s) : MemOk (arriveCloak e s) :=
  .ite (by
    split
    · exact (performTickets_memOk h).frame
    · exact performTickets_memOk h
    · exact h.frame) h.frame

theorem execTicketDataArrival_steps : Steps (execTicketDataArrival e) :=
  runEvent_steps (.get fun _ _ => by
    split
    · exact .next readyIf_keeps fun _ => .update fun _ hs1 => arriveCloak_memOk hs1
    · exact .throw)

theorem redeemFault_memOk (h : MemOk s) : MemOk (redeemFault x who d s) := by
  unfold redeemFault
  dsimp only
  split
  · exact asRunner_memOk (fun _ hs => laneTrap_memOk hs) (spendCloak_memOk h)
  · exact asRunner_memOk (fun _ hs => laneTrap_memOk hs) (spendCloak_memOk h)
  · exact asRunner_memOk (fun _ hs => leadTrap_memOk hs.frame) (spendCloak_memOk h)

theorem execRedemptionDelivery_steps : Steps (execRedemptionDelivery e) :=
  runEvent_steps (.next (.update fun _ hs => performTickets_memOk hs) fun _ => .get fun _ _ => by
    split
    · exact .throw
    · split
      · exact .throw
      · exact .next readyIf_keeps fun _ => .next readyIf_keeps fun _ => .ite (.update fun _ hs1 =>
            redeemFault_memOk hs1) (.update fun _ hs1 => deliverBytes_memOk (spendCloak_memOk hs1)))

theorem execLeaseExpiry_steps : Steps (execLeaseExpiry e) :=
  runEvent_steps (.get fun _ _ => .next readyIf_keeps fun _ => .update fun _ hs1 => expireLease_memOk hs1)

theorem execCloakroomReconfigure_steps : Steps (execCloakroomReconfigure die slice_) :=
  runEvent_steps (.get fun _ _ => .next readyIf_keeps fun _ => .update fun _ hs1 => settleClk_memOk hs1)

theorem setClk_memOk (h : MemOk s) : MemOk (setClk die slice_ v s) :=
  .ite (settleClk_memOk h.frame) h

theorem execClkcfgWrite_steps : Steps (execClkcfgWrite v) := fun _ h => .next (setClk_memOk h)

/-! ## Sys2Proof/Machine/Tx.lean -/

theorem commitBytes_memOk (h : MemOk s) : MemOk (commitBytes buf keys s) :=
  .foldl (fun _ _ hs => countRange_memOk (homeWrite_memOk (touch_memOk (drainSectors_memOk
    (performTickets_memOk hs))))) h

theorem commitLead_memOk (h : MemOk s) : MemOk (commitLead s) :=
  (markDirty_memOk (commitBytes_memOk h)).frame

theorem needLock_keeps : Keeps needLock :=
  .get fun _ _ => .ite (.update fun _ hs1 => hs1.frame) (.throw (fun _ hs1 => hs1.frame))

theorem execTxbeg_steps : Steps (execTxbeg d) :=
  runLead_steps (.get fun _ _ => .ite .throwBind (.get fun _ _ => .next readyIf_keeps fun _ =>
    .next before_keeps fun _ => .ite (.next needLock_keeps fun _ => .next setReg_keeps fun _ => onMe_keeps)
    (.next setReg_keeps fun _ => onMe_keeps)))

theorem commitFails_memOk (h : MemOk s) : MemOk (commitFails s) := by
  unfold commitFails
  split
  · exact h.frame
  · exact h.frame

theorem execTxend_steps : Steps execTxend :=
  runLead_steps (.get fun _ _ => .next need_keeps fun _ => .ite (.throwBind (fun _ hs1 => commitFails_memOk hs1))
    (.next readyIf_keeps fun _ => .update fun _ hs1 => commitLead_memOk hs1))

theorem execTxabt_steps : Steps (execTxabt a) :=
  runLead_steps (.get fun _ _ => .next need_keeps fun _ => .next reg_keeps fun _ => .throw)

theorem execTxstat_steps : Steps (execTxstat d sel) := runLead_steps (.next getMe_keeps fun _ => setReg_keeps)

theorem laneTxRead_memOk (h : MemOk s) (hp : laneTxRead k t z s = .ok p) : MemOk p.2 := by
  unfold laneTxRead at hp
  dsimp only at hp
  split at hp
  · cases hp
  · split at hp
    · cases hp
      exact markAccess_memOk h
    · split at hp
      · cases hp
      · cases hp
        exact (countRange_memOk (touch_memOk (drainSectors_memOk (markAccess_memOk h)))).frame

theorem laneTxWrite_memOk (h : MemOk s) (hp : laneTxWrite k t bs s = .ok u) : MemOk u := by
  unfold laneTxWrite at hp
  split at hp
  · cases hp
  · split at hp
    · cases hp
    · cases hp
      exact (markAccess_memOk h).frame

theorem conflictLane_memOk (h : MemOk s) : MemOk (conflictLane k s).1 := by
  unfold conflictLane
  split <;> exact h.frame

theorem endAttempt_memOk (h : MemOk s) : MemOk (endAttempt k e s).1 := by
  unfold endAttempt
  split
  · exact conflictLane_memOk h
  · exact h.frame
  · split
    · exact h.frame
    · exact conflictLane_memOk h

theorem leaveLanes_memOk (h : MemOk s) : MemOk (leaveLanes age ends' s) :=
  .ite h (laneLockDone_memOk h.frame)

theorem execLaneTxbeg_steps : Steps execLaneTxbeg :=
  runLane_steps fun _ => .get fun _ _ => .ite .throwBind (.ite .throwBind (.next readyIf_keeps fun _ => .ite
    (.next before_keeps fun _ => .ite (.next needLock_keeps fun _ => .next (.update fun _ hs1 =>
    laneAborts_memOk hs1) fun _ => onLanes_keeps) (.next (.update fun _ hs1 => laneAborts_memOk hs1)
    fun _ => onLanes_keeps)) (.ite (.next needLock_keeps fun _ => .next (.update fun _ hs1 => laneAborts_memOk
    hs1) fun _ => onLanes_keeps) (.next (.update fun _ hs1 => laneAborts_memOk hs1) fun _ => onLanes_keeps))))

theorem lanesInTx_keeps : Keeps (lanesInTx c) := .get fun _ _ => .ite .pure .throw

theorem endMyClause_keeps : Keeps (endMyClause c) := onLanes_keeps

theorem commitLane_memOk (h : MemOk s) (hp : commitLane n k s = some t) : MemOk t := by
  unfold commitLane at hp
  dsimp only at hp
  split at hp
  · cases hp
  · cases hp
    exact (commitBytes_memOk h).frame

theorem commitLanes_memOk (h : MemOk s) : MemOk (commitLanes n ks s).1 := by
  induction ks generalizing s with
  | nil => exact h
  | cons k ks ih =>
    unfold commitLanes
    split
    · rename_i hp
      exact ih (commitLane_memOk h hp)
    · exact ih h

theorem commitStep_memOk (h : MemOk s) : MemOk (commitStep age act s) := by
  have hs := commitLanes_memOk (n := s.wicket.next) (ks := lanesOf act)
    (s := { s with wicket := { s.wicket with next := s.wicket.next + 1 } }) h.frame
  unfold commitStep
  dsimp only
  generalize commitLanes _ _ _ = r at hs ⊢
  have ht : ∀ l, MemOk (laneLockDone { r.1 with me := { r.1.me with l := l } }) := fun _ =>
    laneLockDone_memOk hs.frame
  split
  · exact ht _
  · exact markDirty_memOk (ht _)

theorem execLaneTxend_steps : Steps execLaneTxend :=
  runLane_steps fun _ => .next lanesInTx_keeps fun _ => .get fun _ _ => .next readyIf_keeps fun _ =>
    .next endMyClause_keeps fun _ => .update fun _ hs1 => commitStep_memOk hs1

theorem execLaneTxabt_steps : Steps execLaneTxabt :=
  runLane_steps fun _ => .next lanesInTx_keeps fun _ => .next endMyClause_keeps fun _ => .update fun _ hs =>
    laneAborts_memOk hs

theorem execLaneTxstat_steps : Steps execLaneTxstat := runLane_steps fun _ => .get fun _ _ => writeD_keeps

theorem earlyValidate_memOk (h : MemOk s) : MemOk (earlyValidate k s) :=
  .ite (.ite h.frame h) (.ite (by
    split
    · exact laneAborts_memOk h
    · exact h) h)

theorem restartRan_memOk (h : MemOk s) : MemOk (restartRan k s) := by
  unfold restartRan
  split
  · exact h.frame
  · exact h.frame

theorem validateNow_memOk (h : MemOk s) : MemOk (validateNow k s) :=
  earlyValidate_memOk (restartRan_memOk h)

theorem execTxEarlyValidation_steps : Steps (execTxEarlyValidation who lane) :=
  fun _ h => .next (asRunner_memOk (fun _ hs => .ite (validateNow_memOk hs) hs) h)

theorem grantLock_memOk (h : MemOk s) : MemOk (grantLock s) := by
  unfold grantLock
  split
  · exact h.frame
  · exact h

theorem execFallbackLockGrant_steps : Steps execFallbackLockGrant := fun _ h => .next (grantLock_memOk h)

theorem revokeAttempts_memOk (h : MemOk s) : MemOk (revokeAttempts s) := by
  unfold revokeAttempts
  refine .ite h.frame (MemOk.frame (s := List.foldl _ _ _) (.foldl (fun s k hs => ?_) h)
   )
  split
  · exact laneAborts_memOk hs
  · exact hs

theorem execFallbackLockRevoke_steps : Steps execFallbackLockRevoke :=
  runEvent_steps (.get fun _ _ => by
    split
    · exact .throw
    · exact .next readyIf_keeps fun _ => .update fun _ hs1 => asRunner_memOk (fun _ hs2 =>
          revokeAttempts_memOk hs2) hs1)

/-! ## Sys2Proof/Machine/Copies.lean -/

theorem operand_keeps : Keeps (Copier.operand c v n) := by
  unfold Copier.operand
  split
  · exact .pure
  · exact .next need_keeps fun _ => .pure

theorem orTrap_keeps : Keeps (orTrap a) := by
  unfold orTrap
  split
  · exact .pure
  · exact stopTrap_keeps

theorem orTrapAt_keeps : Keeps (orTrapAt a e) := by
  unfold orTrapAt
  split
  · exact .pure
  · exact stopTrap_keeps

theorem loadOne_keeps : Keeps (Copier.loadOne c a z) :=
  .get fun _ _ => .next orTrapAt_keeps fun _ => .next need_keeps fun _ => .next need_keeps fun _ =>
    .next need_keeps fun _ => .next need_keeps fun _ => .next need_keeps fun _ => readPieces_keeps

theorem loads_keeps : Keeps (Copier.loads c z n a) := by
  induction n generalizing a with
  | zero => exact .pure
  | succ n ih => exact .next loadOne_keeps fun _ => .next ih fun _ => .pure

theorem load_keeps : Keeps (Copier.load c a n z) := loads_keeps

theorem spend_keeps : Keeps (Copier.spend c) := .get fun _ _ => spendAnswers_keeps

theorem scratchSide_keeps : Keeps (scratchSide kind a n) :=
  .get fun _ _ => by
    dsimp only
    split
    · exact stopTrap_keeps
    · exact .next need_keeps fun _ => .pure

theorem markPlan_memOk (h : MemOk s) : MemOk (markPlan p s) :=
  .foldl (fun _ _ hs => markAccess_memOk hs) (.foldl (fun _ _ hs => markAccess_memOk hs) h)

theorem joinOpen_memOk (h : MemOk s) : MemOk (joinOpen s) := (markDirty_memOk h).frame

theorem registerPlan_memOk (h : MemOk s) : MemOk (registerPlan p op s) := h.frame

theorem queueOp_memOk (h : MemOk s) : MemOk (queueOp porter usher p s) :=
  (markDirty_memOk (registerPlan_memOk (markPlan_memOk h))).frame

theorem issuePlan_keeps : Keeps (issuePlan p clash) := by
  unfold issuePlan
  dsimp only
  split
  · exact .next stopTrap_keeps fun _ => .get fun _ _ => .next readyIf_keeps fun _ => .next readyIf_keeps fun _ =>
        .update fun _ hs1 => queueOp_memOk hs1
  · exact .get fun _ _ => .next readyIf_keeps fun _ => .next readyIf_keeps fun _ => .update fun _ hs1 =>
        queueOp_memOk hs1

theorem openCopy_keeps : Keeps (openCopy c) := .get fun _ _ => .next need_keeps fun _ => before_keeps

theorem findScratch_keeps : Keeps (findScratch kind a n) := .ite .pure (.next scratchSide_keeps fun _ => .pure)

theorem findMemory_keeps : Keeps (findMemory c kind a n nd f) :=
  .ite (.get fun _ _ => .next orTrap_keeps fun _ => .pure) .pure

theorem keyCause_keeps : Keeps (keyCause s ps) := by
  unfold keyCause
  split
  · exact stopTrap_keeps
  · exact .pure

theorem rawAligned_keeps : Keeps (rawAligned d a n) := .next need_keeps fun _ => .next need_keeps fun _ => need_keeps

theorem issueCpyl_keeps : Keeps (issueCpyl c d a n dk sk raw) := by
  unfold issueCpyl
  refine .get fun _ _ => .next need_keeps fun _ => .ite (.update fun _ hs => joinOpen_memOk hs)
    (.next openCopy_keeps fun _ => ?_)
  extract_lets _ withDst
  have hdst : ∀ da, Keeps (withDst da) := by
    intro da
    unfold withDst
    extract_lets withSrc
    have hsrc : ∀ sa, Keeps (withSrc sa) := fun sa =>
      .next need_keeps fun _ => .next findScratch_keeps fun f => .next findScratch_keeps fun g => by
        extract_lets aligned
        have haligned : ∀ u, Keeps (aligned u) := fun _ =>
          .next findMemory_keeps fun _ => .next findMemory_keeps fun _ => .get fun _ _ => .next keyCause_keeps fun _ =>
            .next keyCause_keeps fun _ => by
              dsimp only
              split
              · exact .next stopTrap_keeps fun _ => issuePlan_keeps
              · exact issuePlan_keeps
        exact .ite (.next rawAligned_keeps haligned) (haligned ())
    exact .ite (.next operand_keeps hsrc) (.next .pure hsrc)
  exact .ite (.next operand_keeps hdst) (.next .pure hdst)

theorem issueCpyf_keeps : Keeps (issueCpyf c d pat n dk) :=
  .get fun _ _ => .next need_keeps fun _ => .ite (.update fun _ hs1 => joinOpen_memOk hs1)
    (.next openCopy_keeps fun _ => .ite (.next operand_keeps fun _ => .next need_keeps fun _ =>
    .next findScratch_keeps fun _ => .next need_keeps fun _ => .next findMemory_keeps fun _ => .get fun _ _ =>
    .next keyCause_keeps fun _ => issuePlan_keeps) (.next .pure fun _ => .next need_keeps fun _ =>
    .next findScratch_keeps fun _ => .next need_keeps fun _ => .next findMemory_keeps fun _ => .get fun _ _ =>
    .next keyCause_keeps fun _ => issuePlan_keeps))

theorem issueTile_keeps : Keeps (issueTile d w rows mz st) :=
  .next scratchSide_keeps fun _ => .next need_keeps fun _ => .get fun _ _ => .next orTrap_keeps fun _ =>
    .next keyCause_keeps fun _ => issuePlan_keeps

theorem tileRecord_keeps : Keeps (tileRecord c a gather coords) :=
  .next operand_keeps fun _ => .next need_keeps fun _ => .next load_keeps fun _ => .next need_keeps fun _ => .pure

theorem tileSize_keeps : Keeps (tileSize d w) := need_keeps

theorem issueCpyt_keeps : Keeps (issueCpyt c d a coords mz st) :=
  .next openCopy_keeps fun _ => .next tileRecord_keeps fun _ => .next tileSize_keeps fun _ =>
    .next issueTile_keeps fun _ => spend_keeps

theorem issueCpyg_keeps : Keeps (issueCpyg c d a b mz st) :=
  .next openCopy_keeps fun _ => .next tileRecord_keeps fun _ => .next operand_keeps fun _ =>
    .next load_keeps fun _ => by
    dsimp only
    split
    · exact .next stopTrap_keeps fun _ => .next tileSize_keeps fun _ => .next issueTile_keeps fun _ => spend_keeps
    · exact .next tileSize_keeps fun _ => .next issueTile_keeps fun _ => spend_keeps

theorem leadCopier_keeps : Keeps (leadCopier o v x) := .next getXb_keeps fun _ => .pure

theorem leadCopy_steps (hm : ∀ x0 x1 x2 x3, Keeps (m x0 x1 x2 x3)) : Steps (leadCopy d a b v x scratch m) :=
  runLead_steps (.ite (.next needGroup_keeps fun _ => .next ordIn_keeps fun _ => .next needCtx_keeps fun _ =>
    .next notInTx_keeps fun _ => .next leadCopier_keeps fun _ => .next reg_keeps fun _ => .next reg_keeps fun _ =>
    .next reg_keeps fun _ => hm _ _ _ _) (.next ordIn_keeps fun _ => .next needCtx_keeps fun _ =>
    .next notInTx_keeps fun _ => .next leadCopier_keeps fun _ => .next reg_keeps fun _ => .next reg_keeps fun _ =>
    .next reg_keeps fun _ => hm _ _ _ _))

theorem execCpytExt_steps : Steps (execCpytExt d a b v x mz st) := leadCopy_steps (fun _ _ _ _ => issueCpyt_keeps)

theorem execCpyt_steps : Steps (execCpyt d a b) := leadCopy_steps (fun _ _ _ _ => issueCpyt_keeps)

theorem execCpylExt_steps : Steps (execCpylExt d a b v x dk sk) := leadCopy_steps (fun _ _ _ _ => issueCpyl_keeps)

theorem execCpyl_steps : Steps (execCpyl d a b) := leadCopy_steps (fun _ _ _ _ => issueCpyl_keeps)

theorem execCpylRaw_steps : Steps (execCpylRaw d a b v x) := leadCopy_steps (fun _ _ _ _ => issueCpyl_keeps)

theorem execCpyfExt_steps : Steps (execCpyfExt d a b v x dk) := leadCopy_steps (fun _ _ _ _ => issueCpyf_keeps)

theorem execCpyf_steps : Steps (execCpyf d a b) := leadCopy_steps (fun _ _ _ _ => issueCpyf_keeps)

theorem execCpygExt_steps : Steps (execCpygExt d a b v x mz st) := leadCopy_steps (fun _ _ _ _ => issueCpyg_keeps)

theorem execCpyg_steps : Steps (execCpyg d a b) := leadCopy_steps (fun _ _ _ _ => issueCpyg_keeps)

theorem asLeader_keeps (hm : Keeps m) : Keeps (asLeader k m) :=
  hm.changeStop fun s => by
    simp only [StateT.run, asLeader]
    split
    · exact .inr ⟨_, rfl, trivial⟩
    · exact .inl rfl

theorem laneCopy_steps (hm : ∀ x0 x1 x2 x3 x4, Keeps (m x0 x1 x2 x3 x4)) : Steps (laneCopy rule m) :=
  runLane_steps fun _ => by
    split
    · exact .pure
    · exact .get fun _ _ => asLeader_keeps (hm _ _ _ _ _)

theorem execLaneCpyt_steps : Steps execLaneCpyt := laneCopy_steps (fun _ _ _ _ _ => issueCpyt_keeps)

theorem execLaneCpyl_steps : Steps execLaneCpyl := laneCopy_steps (fun _ _ _ _ _ => issueCpyl_keeps)

theorem execLaneCpyf_steps : Steps execLaneCpyf := laneCopy_steps (fun _ _ _ _ _ => issueCpyf_keeps)

theorem execLaneCpyg_steps : Steps execLaneCpyg := laneCopy_steps (fun _ _ _ _ _ => issueCpyg_keeps)

theorem execBseal_steps : Steps (execBseal d) :=
  runLead_steps (.next notInTx_keeps fun _ => .get fun _ _ => .next need_keeps fun _ => .next readyIf_keeps fun _ =>
    .next onMe_keeps fun _ => setReg_keeps)

theorem reportMarks_keeps : Keeps (reportMarks p) :=
  .get fun _ _ => by
    split
    · exact .pure
    · exact .throw (fun _ hs1 => leadTrap_memOk hs1.frame)

theorem execBwait_steps : Steps (execBwait a) :=
  runLead_steps (.next notInTx_keeps fun _ => .get fun _ _ => .next reg_keeps fun _ => .next need_keeps fun _ =>
    .next readyIf_keeps fun _ => reportMarks_keeps)

theorem execBwaitn_steps : Steps (execBwaitn a) :=
  runLead_steps (.next notInTx_keeps fun _ => .get fun _ _ => .next reg_keeps fun _ => .next readyIf_keeps fun _ =>
    reportMarks_keeps)

theorem execBstat_steps : Steps (execBstat d) := runLead_steps (.get fun _ _ => setReg_keeps)

theorem execPorterOperationStart_steps : Steps (execPorterOperationStart porter) := by
  intro _ h
  unfold execPorterOperationStart
  split
  · exact .next h
  · exact .next h.frame

theorem srcTouch_memOk (h : MemOk s) : MemOk (srcTouch n x s) := by
  unfold srcTouch
  split
  · exact .ite h (.ite (countRange_memOk (touch_memOk h)) (.ite h.frame h))
  · exact h

theorem engineWrite_memOk (h : MemOk s) : MemOk (engineWrite o key pa comp bs s) :=
  .ite h (.ite h.frame (by
    split
    · exact .foldl (fun _ _ hs => hs.frame) h
    · exact h
    · exact h.frame
    · exact countRange_memOk (touch_memOk (homeWrite_memOk (arriveAll_memOk h)))))

theorem locWrite_memOk (h : MemOk s) : MemOk (locWrite o bad l bs s) := by
  unfold locWrite
  split
  · exact engineWrite_memOk h
  · exact h.frame

theorem poisonUnits_memOk (h : MemOk s) : MemOk (poisonUnits bad s) := .ite h h.frame

theorem doMove_memOk (h : MemOk s) : MemOk (doMove o bad m s) :=
  locWrite_memOk (srcTouch_memOk h)

theorem rawLine_memOk (h : MemOk s) : MemOk (rawLine dst src s) := Mem.wf_write _ _ _ h

theorem rawMove_memOk (h : MemOk s) : MemOk (rawMove o m s) := by
  unfold rawMove
  split
  · exact .foldl (fun _ _ hs => rawLine_memOk hs) (countRange_memOk (touch_memOk (countRange_memOk
        (touch_memOk (arriveAll_memOk h)))))
  · exact h

theorem doMoves_memOk (h : MemOk s) : MemOk (doMoves o raw ms s).1 := by
  unfold doMoves
  split
  · exact .foldl (fun _ _ hs => rawMove_memOk hs) h
  · exact poisonUnits_memOk (.foldl (fun _ _ hs => doMove_memOk hs) h)

theorem askSources_memOk (h : MemOk s) : MemOk (askSources o l s) :=
  .foldl (fun _ _ hs => hs.frame) h

theorem markBatch_memOk (h : MemOk s) : MemOk (markBatch o first s) := by
  unfold markBatch
  split
  · exact h
  · exact h.frame

theorem endOp_memOk (h : MemOk s) : MemOk (endOp n s) :=
  finishEnds_memOk (sweepTeams_memOk h.frame)

theorem closeOp_memOk (h : MemOk s) : MemOk (closeOp o first s) :=
  .ite (markBatch_memOk h).frame (endOp_memOk (markBatch_memOk h))

/-! ## Sys2Proof/Machine/Barrier.lean -/

theorem checkpoint_memOk (h : MemOk s) : MemOk (checkpoint uid s) := by
  unfold checkpoint
  split
  · exact h
  · split
    · exact h
    · exact MemOk.frame (s := arrive s _) (arrive_memOk h)

theorem seeGroups_memOk (h : MemOk s) : MemOk (seeGroups gs s) := seeAll_memOk h

theorem settleTeam_memOk (h : MemOk s) : MemOk (settleTeam uid s) := by
  unfold settleTeam
  split
  · exact h
  · exact .ite h (.ite (checkpoint_memOk (seeGroups_memOk h).frame) (seeGroups_memOk h).frame)

theorem settleSquad_memOk (h : MemOk s) : MemOk (settleSquad uid s) := by
  unfold settleSquad
  split
  · exact h
  · exact (seeGroups_memOk h).frame

theorem settle_keeps (h : MemOk s) : Keeps (settle team squad s) :=
  .next readyIf_keeps fun _ => .set (settleSquad_memOk (settleTeam_memOk h))

/-! ## Sys2Proof/Machine/LeadMem.lean -/

theorem leadAddr_keeps : Keeps (leadAddr z a off) := .next reg_keeps fun _ => .pure

theorem leadBefore_keeps : Keeps (leadBefore o) := .get fun _ _ => .ite .pure before_keeps

theorem leadSc_keeps : Keeps (leadSc o) := .get fun _ _ => .ite .pure scDone_keeps

theorem leadLoad_steps : Steps (leadLoad z signed d a off) :=
  runLead_steps (.next leadAddr_keeps fun _ => .next ordOf_keeps fun _ => .next leadCheck_keeps fun _ =>
    .next leadSc_keeps fun _ => .next leadRead_keeps fun _ => setReg_keeps)

theorem leadStore_steps : Steps (leadStore z d a off) :=
  runLead_steps (.next leadAddr_keeps fun _ => .next ordOf_keeps fun _ => .next reg_keeps fun _ =>
    .next leadCheck_keeps fun _ => .next leadBefore_keeps fun _ => .next leadWrite_keeps fun _ => leadSc_keeps)

theorem leadAtomicForm_steps : Steps (leadAtomicForm w4 d a b f ext) :=
  runLead_steps (.next reg_keeps fun _ => .next ordOf_keeps fun _ => .next reg_keeps fun _ =>
    .next reg_keeps fun _ => .next leadCheck_keeps fun _ => .next leadBefore_keeps fun _ =>
    .next leadAtomic_keeps fun _ => .get fun _ _ => .ite (.next (.update fun _ hs1 => markDirty_memOk hs1)
    fun _ => setReg_keeps) setReg_keeps)

theorem fenceState_memOk (h : MemOk s) : MemOk (fenceState scope order s) :=
  .ite (releaseState_memOk h) h

theorem sysReady_keeps : Keeps (sysReady order) :=
  .get fun _ _ => .next readyIf_keeps fun _ => .next readyIf_keeps fun _ => releaseReady_keeps

theorem sysFence_memOk (h : MemOk s) : MemOk (sysFence order s) :=
  arriveAll_memOk (fenceState_memOk h)

theorem execFence_steps : Steps (execFence sc o) :=
  runLead_steps (.next notInTx_keeps fun _ => .next releaseReady_keeps fun _ => .update fun _ hs =>
    fenceState_memOk hs)

theorem execFenceSys_steps : Steps (execFenceSys o) :=
  runLead_steps (.next notInTx_keeps fun _ => .next sysReady_keeps fun _ => .update fun _ hs => sysFence_memOk
    hs)

theorem execFenceSysWin_steps : Steps (execFenceSysWin n o) :=
  runLead_steps (.next notInTx_keeps fun _ => .get fun _ _ => .next readyIf_keeps fun _ =>
    .next sysReady_keeps fun _ => .update fun _ hs1 => sysFence_memOk hs1)

theorem execWatch_steps : Steps (execWatch d a b) :=
  runLead_steps (.next notInTx_keeps fun _ => .next reg_keeps fun _ => .next ordOf_keeps fun _ =>
    .next leadCheck_keeps fun _ => .next scDone_keeps fun _ => .next leadRead_keeps fun _ =>
    .next reg_keeps fun _ => .ite (.throw (fun _ hs => outSpend_memOk hs.frame)) setReg_keeps)

theorem execWatchWake_steps : Steps (execWatchWake who) :=
  fun _ h => .next h.frame

/-! ## Sys2Proof/Machine/Keys.lean -/

theorem issueUsher_keeps : Keeps (issueUsher u p) :=
  .get fun _ _ => .next readyIf_keeps fun _ => .next readyIf_keeps fun _ => .update fun _ hs1 => queueOp_memOk
    hs1

theorem usherBody_keeps (hm : ∀ x0, Keeps (m x0)) : Keeps (usherBody v x m) :=
  .next needCtx_keeps fun _ => .next notInTx_keeps fun _ => .get fun _ _ => .next need_keeps fun _ =>
    .next leadCopier_keeps fun _ => hm _

theorem usherForm_steps (hm : ∀ x0, Keeps (m x0)) : Steps (usherForm v x m) :=
  runLead_steps (usherBody_keeps (fun _ => hm _))

theorem ksummPage_keeps : Keeps (ksummPage c a) :=
  .next reg_keeps fun _ => .next operand_keeps fun _ => .get fun _ _ => .next orTrap_keeps fun _ =>
    .next keyCause_keeps fun _ => by
    split
    · exact stopTrap_keeps
    · exact .next need_keeps fun _ => .next need_keeps fun _ => .pure

theorem queueBuild_keeps : Keeps (queueBuild p fmt) := .get fun _ _ => issueUsher_keeps

theorem markPage_memOk (h : MemOk s) : MemOk (markPage block op part fmt s) := by
  unfold markPage
  split
  · exact h.frame
  · exact .ite h h.frame

theorem ksummMark_steps : Steps (ksummMark fmt a v x) :=
  usherForm_steps (fun _ => .next ksummPage_keeps fun _ => .get fun _ _ => .next need_keeps fun _ => .next
    (.update fun _ hs1 => markPage_memOk hs1) fun _ => queueBuild_keeps)

theorem markedPage_keeps : Keeps (markedPage p) :=
  .get fun _ _ => by
    split
    · exact .pure
    · exact stopTrap_keeps

theorem execKsummRebuild_steps : Steps (execKsummRebuild a v x) :=
  usherForm_steps (fun _ => .next ksummPage_keeps fun _ => .next markedPage_keeps fun _ => queueBuild_keeps)

theorem execKsummOff_steps : Steps (execKsummOff a v x) :=
  usherForm_steps (fun _ => .next ksummPage_keeps fun _ => issueUsher_keeps)

theorem usherDst_keeps : Keeps (usherDst c a n al) :=
  .get fun _ _ => .next orTrap_keeps fun _ => .next keyCause_keeps fun _ => .next need_keeps fun _ => .pure

theorem execKsummRead_steps : Steps (execKsummRead d a v x) :=
  usherForm_steps (fun _ => .next ksummPage_keeps fun _ => .next markedPage_keeps fun _ => .next reg_keeps fun _ =>
    .next operand_keeps fun _ => .next usherDst_keeps fun _ => .get fun _ _ => issueUsher_keeps)

theorem boundPage_keeps : Keeps (boundPage c fmt va) :=
  .next need_keeps fun _ => .get fun _ _ => .next orTrap_keeps fun _ => .next keyCause_keeps fun _ => by
    split
    · exact stopTrap_keeps
    · exact .next need_keeps fun _ => .next need_keeps fun _ => by
          split
          · exact stopTrap_keeps
          · exact .next need_keeps fun _ => .pure

theorem boundPages_keeps : Keeps (boundPages c fmt l) := by
  induction l generalizing fmt with
  | nil => exact .pure
  | cons va l ih => exact .next boundPage_keeps fun _ => .next ih fun _ => .pure

theorem listHome_keeps : Keeps (listHome a ps) := .get fun _ _ => need_keeps

theorem execKbound_steps : Steps (execKbound a v x) :=
  usherForm_steps (fun _ => .next reg_keeps fun _ => .next operand_keeps fun _ => .next load_keeps fun _ =>
    .next need_keeps fun _ => .next load_keeps fun _ => .next load_keeps fun _ => .next boundPages_keeps fun _ =>
    .next usherDst_keeps fun _ => .next listHome_keeps fun _ => .get fun _ _ => .next issueUsher_keeps fun _ =>
    spend_keeps)

theorem execUsherBound_steps : Steps (execUsherBound op k) := fun _ h => .next h.frame

theorem writeLocs_memOk (h : MemOk s) : MemOk (writeLocs o dst bs s) :=
  poisonUnits_memOk (.foldl (fun _ _ hs => locWrite_memOk hs) h)

theorem touchLocs_memOk (h : MemOk s) : MemOk (touchLocs l s) :=
  .foldl (fun _ _ hs => srcTouch_memOk hs) h

theorem execKlist_steps : Steps (execKlist d a b v x) :=
  usherForm_steps (fun _ => .next reg_keeps fun _ => .next operand_keeps fun _ => .next reg_keeps fun _ =>
    .next operand_keeps fun _ => .next load_keeps fun _ => .next load_keeps fun _ => .next need_keeps fun _ =>
    .next need_keeps fun _ => .next reg_keeps fun _ => .next operand_keeps fun _ => .next reg_keeps fun _ =>
    .next operand_keeps fun _ => .next reg_keeps fun _ => .next operand_keeps fun _ => .get fun _ _ =>
    .next orTrap_keeps fun _ => .next orTrap_keeps fun _ => .next keyCause_keeps fun _ =>
    .next usherDst_keeps fun _ => .next listHome_keeps fun _ => .next need_keeps fun _ =>
    .next issueUsher_keeps fun _ => spend_keeps)

theorem fetchPages_keeps : Keeps (fetchPages c vals delta l) := by
  induction l with
  | nil => exact .pure
  | cons e l ih =>
    exact .next need_keeps fun _ => .get fun _ _ => .next orTrap_keeps fun _ => .next keyCause_keeps fun _ =>
      .next ih fun _ => .pure

theorem execKfetch_steps : Steps (execKfetch d a b v x) :=
  runLead_steps (.next needGroup_keeps fun _ => usherBody_keeps (fun _ => .next reg_keeps fun _ =>
    .next need_keeps fun _ => .next reg_keeps fun _ => .next operand_keeps fun _ => .next load_keeps fun _ =>
    .next need_keeps fun _ => .next reg_keeps fun _ => .next operand_keeps fun _ => .next load_keeps fun _ =>
    .next fetchPages_keeps fun _ => .next reg_keeps fun _ => .next need_keeps fun _ =>
    .next scratchSide_keeps fun _ => .get fun _ _ => .next readyIf_keeps fun _ => .next readyIf_keeps fun _ => .next
    (.update fun _ hs1 => queueOp_memOk hs1) fun _ => spend_keeps))

theorem startBuild_memOk (h : MemOk s) : MemOk (startBuild op block key s) :=
  .ite h (srcTouch_memOk h.frame)

theorem endBuild_memOk (h : MemOk s) : MemOk (endBuild op block key s) :=
  .ite h.frame (srcTouch_memOk h.frame)

theorem unmark_memOk (h : MemOk s) : MemOk (unmark op block s) := by
  unfold unmark
  dsimp only
  split
  · exact h.frame
  · exact h.frame

theorem execKsummBuildComplete_steps : Steps (execKsummBuildComplete op) := by
  intro _ h
  unfold execKsummBuildComplete
  split
  · exact .next h
  · split
    · exact .ite (.next (closeOp_memOk (endBuild_memOk h))) (.next h)
    · exact .next h

theorem execGatherListMerge_steps : Steps (execGatherListMerge op) := by
  intro _ h
  unfold execGatherListMerge
  split
  · exact .next h
  · split
    · exact .ite (.next (closeOp_memOk (writeLocs_memOk h))) (.next h)
    · exact .ite (.next h) (.ite (.next (askSources_memOk h)) (.next (closeOp_memOk (writeLocs_memOk
          (touchLocs_memOk h)))))
    · exact .next h

theorem execCopyComplete_steps : Steps (execCopyComplete op) := by
  intro _ h
  unfold execCopyComplete
  split
  · exact .next h
  · split
    · exact .ite (.next (closeOp_memOk (doMoves_memOk h))) (.next (askSources_memOk h))
    · exact .ite (.next (closeOp_memOk (writeLocs_memOk (touchLocs_memOk h)))) (.next (askSources_memOk h))
    · exact .ite (.next (closeOp_memOk (unmark_memOk h))) (.next h)
    · exact .ite (.next (closeOp_memOk (writeLocs_memOk h))) (.next h)
    · exact .next h

theorem workSome_memOk (h : MemOk s) : MemOk (workSome op skip n s) := by
  unfold workSome
  split
  · exact h
  · dsimp only
    split
    · exact .ite (doMoves_memOk h).frame (askSources_memOk h)
    · exact .ite (touchLocs_memOk h).frame (askSources_memOk h)
    · exact .ite (startBuild_memOk h) h
    · exact h

/-! ## Sys2Proof/Machine/LeadCtl.lean -/

theorem execLrun_steps : Steps (execLrun t) :=
  runLead_steps (.next needGroup_keeps fun _ => .next notInTx_keeps fun _ => .next getMe_keeps fun _ =>
    .next readyIf_keeps fun _ => onMe_keeps)

theorem drainLanes_memOk (h : MemOk s) : MemOk (drainLanes s) := arriveAll_memOk h

theorem waitDrained_keeps : Keeps waitDrained :=
  .get fun _ _ => .get fun _ _ => .next readyIf_keeps fun _ => .update fun _ hs2 => drainLanes_memOk hs2

theorem execLwait_steps : Steps (execLwait g m) :=
  runLead_steps (.next needGroup_keeps fun _ => .next notInTx_keeps fun _ => .get fun _ _ => .get fun _ _ =>
    .next readyIf_keeps fun _ => .ite (.update fun _ hs2 => drainLanes_memOk hs2) .pure)

theorem setXb_keeps : Keeps (setXb n x) := onMe_keeps

theorem execXbset_steps : Steps (execXbset n a b) :=
  runLead_steps (.next reg_keeps fun _ => .next reg_keeps fun _ => .next need_keeps fun _ => .ite (.get fun _ _ =>
    setXb_keeps) (.get fun _ _ => by
    split
    · exact stopTrap_keeps
    · exact .next need_keeps fun _ => .next (.update fun _ hs1 => .ite hs1 (walkReads_memOk hs1)) fun _ =>
          setXb_keeps))

theorem execXbclr_steps : Steps (execXbclr n) := runLead_steps setXb_keeps

theorem execOsdef_steps : Steps (execOsdef n a) :=
  runLead_steps (.next needGroup_keeps fun _ => .next notInTx_keeps fun _ => .next reg_keeps fun _ => .next
    leadCheck_keeps fun _ => .next leadRead_keeps fun w => by
      dsimp only
      generalize leBytes 64 w = bytes -- else the elaborator computes the descriptor
      exact .get fun _ hs => .next need_keeps fun _ => .set hs.frame)

theorem endStream_memOk (h : MemOk s) : MemOk (endStream gal os s) := by
  unfold endStream
  split
  · exact h
  · refine MemOk.frame (s := outSpend _ _ (ite _ _ _)) (outSpend_memOk ?_)
    exact .ite h h.frame

theorem execOsend_steps : Steps (execOsend n) :=
  runLead_steps (.next needGroup_keeps fun _ => .next notInTx_keeps fun _ => .get fun _ _ =>
    .next need_keeps fun _ => .next readyIf_keeps fun _ => .update fun _ hs1 => endStream_memOk hs1)

theorem pieceRead_memOk (h : MemOk s) : MemOk (pieceRead x t n s) :=
  .ite (markAccess_memOk h) (.ite (markAccess_memOk h).frame (.ite (countRange_memOk
    (touch_memOk (markAccess_memOk h))) (markAccess_memOk h)))

theorem readElement_memOk (h : MemOk s) (hr : readElement s x i = .ok p) : MemOk p.2 := by
  unfold readElement at hr
  dsimp only at hr
  split at hr
  · cases hr
  · split at hr
    · cases hr
    · split at hr
      · cases hr
      · split at hr
        · cases hr
          exact h
        · split at hr
          · cases hr
            exact outSpend_memOk (.foldl (fun _ _ hs => pieceRead_memOk hs) h)
          · cases hr
            exact .foldl (fun _ _ hs => hs.frame) h

theorem elementEntry_memOk (h : MemOk s) : MemOk (elementEntry s x i).2 := by
  unfold elementEntry
  split
  · rename_i hr
    exact readElement_memOk h hr
  · exact h

theorem execStreamElementRead_steps : Steps (execStreamElementRead gal os) := by
  intro s h
  unfold execStreamElementRead
  split
  · exact .next h
  · rename_i x _
    have ht := elementEntry_memOk (x := x) (i := x.next) h
    split
    · exact .next h
    · dsimp only
      refine .ite (.next h) ?_
      split
      · rename_i he
        rw [he] at ht
        exact .next ht.frame
      · rename_i he
        rw [he] at ht
        exact .next ht

theorem rereadMarked_memOk (h : MemOk s) : MemOk (rereadMarked a s) := by
  refine .foldl (fun s q hs => ?_) h
  dsimp only
  split
  · exact hs
  · split
    · rename_i x e _ _
      have ht := elementEntry_memOk (x := x) (i := e.elem) hs
      split
      · rename_i he
        rw [he] at ht
        exact ht.frame
      · rename_i he
        rw [he] at ht
        exact ht.frame
    · exact hs

/-! ## Sys2Proof/Machine/Matrix.lean -/

theorem needTeam_keeps : Keeps needTeam :=
  .get fun _ _ => by
    split
    · exact .pure
    · exact stopTrap_keeps

theorem needFormat_keeps : Keeps (needFormat t w rows cols total) :=
  .next need_keeps fun _ => .get fun _ _ => by
    split
    · exact stopTrap_keeps
    · exact .pure

theorem needVersion_keeps : Keeps (needVersion t tiles ver) :=
  .next need_keeps fun _ => .next need_keeps fun _ => .get fun _ _ => need_keeps

theorem needTile_keeps : Keeps (needTile t k) := need_keeps

theorem queueMatrix_keeps : Keeps (queueMatrix t kind tiles ver flag) :=
  .get fun _ _ => .next readyIf_keeps fun _ => .update fun _ hs1 => hs1.frame

theorem wholeGroup_keeps {α : Type} {m : Op α} (hm : Keeps m) : Keeps (wholeGroup m) :=
  hm.changeStop fun s => by
    simp only [StateT.run, wholeGroup]
    split
    · exact .inr ⟨_, rfl, trivial⟩
    · exact .inl rfl

theorem needImages_keeps : Keeps (needImages s a na b nb) :=
  .next need_keeps fun _ => .next need_keeps fun _ => notPending_keeps

theorem needUnprotected_keeps : Keeps needUnprotected := .get fun _ _ => need_keeps

theorem execMma_steps : Steps execMma :=
  runLane_steps fun _ => wholeGroup_keeps (.next needUnprotected_keeps fun _ => .get fun _ _ =>
    .next need_keeps fun _ => .next needTeam_keeps fun _ => .next needTile_keeps fun _ => .ite
    (.next need_keeps fun _ => .next needImages_keeps fun _ => .ite (.next needFormat_keeps fun _ =>
    .next needVersion_keeps fun _ => .next readyIf_keeps fun _ => .next queueMatrix_keeps fun _ => flagStart_keeps)
    (.next needVersion_keeps fun _ => .next readyIf_keeps fun _ => .next queueMatrix_keeps fun _ => flagStart_keeps))
    (.next needImages_keeps fun _ => .ite (.next needFormat_keeps fun _ => .next needVersion_keeps fun _ =>
    .next readyIf_keeps fun _ => .next queueMatrix_keeps fun _ => flagStart_keeps) (.next needVersion_keeps fun _ =>
    .next readyIf_keeps fun _ => .next queueMatrix_keeps fun _ => flagStart_keeps)))

theorem execAccrd_steps : Steps execAccrd :=
  runLane_steps fun _ => wholeGroup_keeps (.next needUnprotected_keeps fun _ => .next needTeam_keeps fun _ =>
    .next needTile_keeps fun _ => .next needVersion_keeps fun _ => .next queueMatrix_keeps fun _ => flagStart_keeps)

theorem execAccwr_steps : Steps execAccwr :=
  runLane_steps fun _ => wholeGroup_keeps (.next needUnprotected_keeps fun _ => .get fun _ _ =>
    .next needTeam_keeps fun _ => .next needTile_keeps fun _ => .next needVersion_keeps fun _ =>
    .next queueMatrix_keeps fun _ => flagStart_keeps)

theorem execMloop_steps : Steps (execMloop a b) :=
  runLead_steps (.next needGroup_keeps fun _ => .next notInTx_keeps fun _ => .next reg_keeps fun _ =>
    .next reg_keeps fun _ => .next needTeam_keeps fun _ => .next need_keeps fun _ => .next need_keeps fun _ => .ite
    (.next needFormat_keeps fun _ => .get fun _ _ => .next need_keeps fun _ => .next needVersion_keeps fun _ =>
    queueMatrix_keeps) (.get fun _ _ => .next need_keeps fun _ => .next needVersion_keeps fun _ => queueMatrix_keeps))

theorem execOsub_steps : Steps (execOsub n p k w) :=
  runLead_steps (.next needGroup_keeps fun _ => .next notInTx_keeps fun _ => .get fun _ _ => by
    dsimp only
    split
    · exact stopTrap_keeps
    · exact .next need_keeps fun _ => .update fun _ hs1 => hs1.frame)

theorem execAccz_steps : Steps (execAccz a) :=
  runLead_steps (.next needGroup_keeps fun _ => .next notInTx_keeps fun _ => .next reg_keeps fun _ =>
    .next needTeam_keeps fun _ => .next need_keeps fun _ => .next needVersion_keeps fun _ => queueMatrix_keeps)

theorem accMove_steps : Steps (accMove t a b y write kind) :=
  runLead_steps (.next needGroup_keeps fun _ => .next notInTx_keeps fun _ => .next reg_keeps fun _ =>
    .next reg_keeps fun _ => .next needTeam_keeps fun _ => .next needTile_keeps fun _ => .next need_keeps fun _ =>
    .next need_keeps fun _ => .next need_keeps fun _ => .get fun _ _ => .next need_keeps fun _ =>
    .next needVersion_keeps fun _ => queueMatrix_keeps)

theorem execAccver_steps : Steps (execAccver d t) :=
  runLead_steps (.next needGroup_keeps fun _ => .next notInTx_keeps fun _ => .next needTeam_keeps fun _ =>
    .next needTile_keeps fun _ => setReg_keeps)

theorem execAccverWait_steps : Steps (execAccverWait a t) :=
  runLead_steps (.next needGroup_keeps fun _ => .next notInTx_keeps fun _ => .next needTeam_keeps fun _ =>
    .next needTile_keeps fun _ => .next reg_keeps fun _ => .next need_keeps fun _ => readyIf_keeps)

theorem execAccverSet_steps : Steps (execAccverSet a t) :=
  runLead_steps (.next needGroup_keeps fun _ => .next notInTx_keeps fun _ => .next needTeam_keeps fun _ =>
    .next needTile_keeps fun _ => .next reg_keeps fun _ => .next need_keeps fun _ => .get fun _ _ =>
    .next readyIf_keeps fun _ => .update fun _ hs1 => hs1.frame)

theorem execMatrixOperationStart_steps : Steps (execMatrixOperationStart core' k) := by
  intro _ h
  unfold execMatrixOperationStart
  split
  · exact .next h
  · exact .ite (.next h.frame) (.next h)

theorem onCoreOp_memOk (h : MemOk s) : MemOk (onCoreOp core' k f s) := h.frame

theorem takeBytes_memOk (h : MemOk s) : MemOk (takeBytes core' port n s).2 := h.frame

theorem endSubs_memOk (h : MemOk s) : MemOk (endSubs core' s) := h.frame

theorem execMloopKStep_steps : Steps (execMloopKStep core') := by
  intro _ h
  unfold execMloopKStep
  split
  · exact .next h
  · split
    · exact .next h
    · split
      · exact .ite (.ite (.next (endSubs_memOk (onCoreOp_memOk (onTeam_memOk (takeBytes_memOk (takeBytes_memOk h))))))
          (.next (onCoreOp_memOk (takeBytes_memOk (takeBytes_memOk h))))) (.next h)
      · exact .next h

theorem effect_memOk (h : MemOk s) : MemOk (MOp.effect m s) := by
  unfold MOp.effect
  split
  · exact h.frame
  · exact h
  · exact h.frame
  · exact h.frame
  · exact h.frame
  · split
    · exact h.frame
    · exact h
  · exact h.frame

theorem finishMatrix_memOk (h : MemOk s) : MemOk (finishMatrix core' k m s) := by
  unfold finishMatrix
  dsimp only
  split
  · exact (effect_memOk h).frame
  · exact (effect_memOk h).frame

theorem execMatrixOperationComplete_steps : Steps (execMatrixOperationComplete core' k) := by
  intro _ h
  unfold execMatrixOperationComplete
  split
  · exact .next h
  · exact .ite (.next (finishMatrix_memOk h)) (.next h)

theorem distributorHalt_memOk (h : MemOk s) : MemOk (distributorHalt x e s) :=
  .ite (raiseHalt_memOk h) h

theorem execDistributorElementRead_steps : Steps (execDistributorElementRead gal os) := by
  intro s h
  unfold execDistributorElementRead
  split
  · exact .next h
  · refine .ite (.next h) (.ite (.next ?_) ?_)
    · rename_i x _
      cases x.fault with
      | none => exact h
      | some e => exact distributorHalt_memOk h
    · split
      · exact .next (distributorHalt_memOk h.frame)
      · rename_i hr
        exact .next (readElement_memOk h hr)
      · rename_i hr
        exact .next (readElement_memOk h hr).frame

/-! ## Sys2Proof/Machine/Launch.lean -/

theorem readTable_keeps : Keeps (readTable ta) :=
  .next load_keeps fun _ => .next need_keeps fun _ => .next load_keeps fun _ => .next need_keeps fun _ => by
    split
    · exact .pure
    · exact stopTrap_keeps

theorem faultingAt_keeps {α : Type} {m : Op α} (hm : Keeps m) : Keeps (faultingAt a m) :=
  hm.changeStop fun s => by
    simp only [StateT.run, faultingAt]
    split
    · exact .inr ⟨_, rfl, trivial⟩
    · exact .inl rfl

theorem namedWord_keeps : Keeps (namedWord a n) :=
  .get fun _ _ => by
    split
    · exact stopTrap_keeps
    · exact .pure

theorem predWords_keeps : Keeps (predWords l) := by
  induction l with
  | nil => exact .pure
  | cons p l ih =>
    exact .ite ih (.next namedWord_keeps fun _ => .get fun _ _ => .next ih fun _ => .pure)

theorem clearDone_keeps : Keeps (clearDone t) :=
  .get fun _ _ => .next readyIf_keeps fun _ => .next writeAt_keeps fun _ => .update fun _ hs1 =>
    drainSectors_memOk hs1

theorem launchForm_steps : Steps (launchForm d a try_) :=
  runLead_steps (.next needCtx_keeps fun _ => .next notInTx_keeps fun _ => .get fun _ _ =>
    .next readyIf_keeps fun _ => .next before_keeps fun _ => .next reg_keeps fun _ => .next need_keeps fun _ =>
    .next leadCheck_keeps fun _ => .get fun _ _ => .next readAt_keeps fun _ => .get fun _ _ =>
    .next need_keeps fun _ => .next need_keeps fun _ => .ite (.next .pure fun _ => .next need_keeps fun _ => .next
    (faultingAt_keeps namedWord_keeps) fun _ => .next need_keeps fun _ => .next (faultingAt_keeps predWords_keeps)
    fun _ => .next (faultingAt_keeps predWords_keeps) fun _ => .ite (.ite (.next setReg_keeps fun _ =>
    .get fun _ _ => spendAnswers_keeps) .throwBind) (.next clearDone_keeps fun _ => .next (.update fun _ hs3 =>
    hs3.frame) fun _ => .next (.update fun _ hs3 => markDirty_memOk hs3) fun _ => .next setReg_keeps fun _ =>
    .get fun _ _ => spendAnswers_keeps)) (.next (faultingAt_keeps readTable_keeps) fun _ =>
    .next need_keeps fun _ => .next (faultingAt_keeps namedWord_keeps) fun _ => .next need_keeps fun _ => .next
    (faultingAt_keeps predWords_keeps) fun _ => .next (faultingAt_keeps predWords_keeps) fun _ => .ite (.ite
    (.next setReg_keeps fun _ => .get fun _ _ => spendAnswers_keeps) .throwBind) (.next clearDone_keeps fun _ =>
    .next (.update fun _ hs3 => hs3.frame) fun _ => .next (.update fun _ hs3 => markDirty_memOk hs3) fun _ =>
    .next setReg_keeps fun _ => .get fun _ _ => spendAnswers_keeps)))

theorem execLwaitg_steps : Steps (execLwaitg d a) :=
  runLead_steps (.next notInTx_keeps fun _ => .next reg_keeps fun _ => .next leadCheck_keeps fun _ =>
    .next leadRead_keeps fun _ => .ite setReg_keeps (.throw (fun _ hs => .ite hs (outSpend_memOk hs.frame))))

theorem execGstat_steps : Steps (execGstat d a) :=
  runLead_steps (.next reg_keeps fun _ => .get fun _ _ => by
    split
    · exact setReg_keeps
    · exact setReg_keeps)

theorem execTexit_steps : Steps execTexit :=
  runLead_steps (.next needGroup_keeps fun _ => .next notInTx_keeps fun _ => .next waitDrained_keeps fun _ =>
    .get fun _ hs => settle_keeps (countExit_memOk (dropRunners_memOk hs)))

theorem execGexit_steps : Steps (execGexit a b) :=
  runLead_steps (.next notInTx_keeps fun _ => .get fun _ _ => .next readyIf_keeps fun _ =>
    .next before_keeps fun _ => .next reg_keeps fun _ => .next reg_keeps fun _ => .next (.update fun _ hs1 =>
    markDirty_memOk hs1) fun _ => .get fun _ _ => by
    split
    · exact .update fun _ hs2 => endGrid_memOk hs2
    · exact .pure)

theorem execVgrow_steps : Steps (execVgrow d a) :=
  runLead_steps (.next needGroup_keeps fun _ => .next notInTx_keeps fun _ => .next reg_keeps fun _ =>
    .next need_keeps fun _ => .get fun _ _ => .ite setReg_keeps (.next need_keeps fun _ => .ite
    (.next onLanes_keeps fun _ => setReg_keeps) (.throw (fun _ hs1 => hs1.frame))))

theorem execVshrink_steps : Steps (execVshrink d a) :=
  runLead_steps (.next needGroup_keeps fun _ => .next notInTx_keeps fun _ => .next reg_keeps fun _ =>
    .next need_keeps fun _ => .get fun _ _ => .ite setReg_keeps (.next waitDrained_keeps fun _ =>
    .next onLanes_keeps fun _ => setReg_keeps))

/-! ## Sys2Proof/Machine/System.lean -/

theorem tlbWrite_memOk (h : MemOk s) : MemOk (tlbWrite v s) :=
  .ite h.frame (.ite h.frame h.frame)

theorem createCtx_memOk (h : MemOk s) : MemOk (createCtx n s) := .ite h h.frame

theorem switchCtx_memOk (h : MemOk s) : MemOk (switchCtx n s) :=
  (performTickets_memOk (arriveAll_memOk h)).frame

theorem setLswz_memOk (h : MemOk s) : MemOk (setLswz v s) := .ite h h.frame

theorem csrStore_memOk (h : MemOk s) : MemOk (csrStore c v s) := by
  unfold csrStore
  dsimp only
  split
  · exact setLswz_memOk h
  · exact .ite h h.frame
  · exact h.frame
  · exact h.frame
  · exact h.frame
  · exact h.frame
  · exact h.frame
  · exact h.frame
  · exact .ite h h.frame
  · exact h.frame
  · exact .ite h h.frame
  · exact .ite h.frame h.frame
  · exact h.frame
  · exact h.frame
  · exact h.frame
  · exact h.frame
  · exact h.frame
  · exact h.frame
  · exact h.frame
  · exact h.frame
  · exact h.frame
  · exact h.frame
  · exact h.frame
  · exact h.frame
  · exact setClk_memOk h
  · exact h.frame
  · exact .ite h.frame h

theorem csrWrite_keeps : Keeps (csrWrite c v) := by
  unfold csrWrite
  split
  · exact .next needField_keeps fun _ => .update fun _ hs => tlbWrite_memOk hs
  · exact .next needField_keeps fun _ => .update fun _ hs => createCtx_memOk hs
  · exact .get fun _ _ => .next needField_keeps fun _ => .get fun _ _ => .next readyIf_keeps fun _ =>
        .next readyIf_keeps fun _ => .update fun _ hs2 => switchCtx_memOk hs2
  · exact .update fun _ hs => csrStore_memOk hs

theorem csrNamed_keeps : Keeps (csrNamed c) :=
  .get fun _ _ => by
    split
    · exact .get fun _ _ => stopTrap_keeps
    · exact .ite (.next needSup_keeps fun _ => .pure) .pure

theorem csrForm_steps : Steps (csrForm d a c f) :=
  runLead_steps (.next csrNamed_keeps fun _ => .next notInTx_keeps fun _ => .next reg_keeps fun _ =>
    .next csrWrite_keeps fun _ => setReg_keeps)

theorem execCsrrd_steps : Steps (execCsrrd d c) := runLead_steps (.next csrNamed_keeps fun _ => setReg_keeps)

theorem execVcsrrd_steps : Steps execVcsrrd := fun _ h => (runLane_steps fun _ => .get fun _ _ => writeD_keeps) _ h

theorem rereadTrapped_memOk (h : MemOk s) : MemOk (rereadTrapped s) := by
  unfold rereadTrapped
  split
  · exact .ite (rereadMarked_memOk h) h
  · exact h

theorem beforeBack_keeps : Keeps beforeBack := .next getMe_keeps fun _ => .ite before_keeps .pure

theorem execRfe_steps : Steps execRfe :=
  runLead_steps (.next needSup_keeps fun _ => .next notInTx_keeps fun _ => .get fun _ _ => .ite
    (.next need_keeps fun _ => .next beforeBack_keeps fun _ => onMe_keeps)
    (.next waitDrained_keeps fun _ => .next beforeBack_keeps fun _ => .next (.update fun _ hs1 =>
    (rereadTrapped_memOk hs1).frame) fun _ => onMe_keeps))

theorem execTrap_steps : Steps (execTrap i) := runLead_steps (.next notInTx_keeps fun _ => .get fun _ _ => .throw)

theorem assertFail_memOk (h : MemOk s) : MemOk (assertFail msg pc slot fail lane s) := by
  unfold assertFail
  split
  · exact h
  · exact (physWrite_memOk h).frame

theorem execAssert_steps : Steps (execAssert a b) :=
  runLead_steps (.next notInTx_keeps fun _ => .get fun _ _ => .next reg_keeps fun _ => .ite .pure (.ite
    (.next reg_keeps fun _ => stopTrap_keeps) (.ite (.throwBind (fun _ hs1 => hs1.frame)) (.next onMe_keeps
    fun _ => .next reg_keeps fun _ => .update fun _ hs1 => assertFail_memOk hs1))))

theorem execLaneAssert_steps : Steps execLaneAssert :=
  runLane_steps fun _ => .get fun _ _ => by
    dsimp only
    split
    · exact .pure
    · exact .ite .throwBind (.ite (.throwBind (fun _ hs1 => hs1.frame)) (.next onMe_keeps fun _ =>
          .update fun _ hs1 => (assertFail_memOk hs1).frame))

theorem execHaltpCtx_steps : Steps (execHaltpCtx a) :=
  runLead_steps (.next needSup_keeps fun _ => .next notInTx_keeps fun _ => .get fun _ _ => .next reg_keeps fun _ =>
    by
    dsimp only
    split
    · exact readyIf_keeps
    · exact .next readyIf_keeps fun _ => .ite (.update fun _ hs1 => endContext_memOk hs1) (.throw (fun _ hs1 =>
          endContext_memOk hs1)))

theorem execHaltpPart_steps : Steps (execHaltpPart a) :=
  runLead_steps (.next needSup_keeps fun _ => .next notInTx_keeps fun _ => .get fun _ _ => .next reg_keeps fun _ =>
    .update fun _ hs1 => hs1.frame)

theorem execPreemptSus_steps : Steps (execPreemptSus a) :=
  runLead_steps (.next needSup_keeps fun _ => .next notInTx_keeps fun _ => .get fun _ _ => .next reg_keeps fun _ =>
    .ite .pure (.ite (.update fun _ hs1 => hs1.frame) (.throw (fun _ hs1 => hs1.frame))))

theorem execPreemptRes_steps : Steps (execPreemptRes a) :=
  runLead_steps (.next needSup_keeps fun _ => .next notInTx_keeps fun _ => .next reg_keeps fun _ =>
    .update fun _ hs => hs.frame)

theorem armForm_steps : Steps (armForm a b rep) :=
  runLead_steps (.next needSup_keeps fun _ => .next notInTx_keeps fun _ => .next reg_keeps fun _ =>
    .next needField_keeps fun _ => .next reg_keeps fun _ => .update fun _ hs => hs.frame)

theorem execCkptPool_steps : Steps (execCkptPool a b) :=
  runLead_steps (.next needSup_keeps fun _ => .next notInTx_keeps fun _ => .next reg_keeps fun _ =>
    .next reg_keeps fun _ => .next need_keeps fun _ => .next need_keeps fun _ => .get fun _ _ =>
    .next readyIf_keeps fun _ => .update fun _ hs1 => hs1.frame)

theorem execCkptStat_steps : Steps (execCkptStat d) :=
  runLead_steps (.next needGroup_keeps fun _ => .next needSup_keeps fun _ => .next notInTx_keeps fun _ =>
    .get fun _ _ => setReg_keeps)

theorem execCkptRb_steps : Steps execCkptRb :=
  runLead_steps (.next needGroup_keeps fun _ => .next needSup_keeps fun _ => .next notInTx_keeps fun _ => .throw
    (fun _ hs => fatalGroup_memOk hs))

theorem execTlbInvalidateAll_steps : Steps execTlbInvalidateAll := fun _ h => .next h.frame

theorem execTlbInvalidateContext_steps : Steps execTlbInvalidateContext := fun _ h => .next h.frame

theorem execTlbInvalidatePage_steps : Steps (execTlbInvalidatePage va k) := fun _ h => .next h.frame

theorem execCtxctlCreate_steps : Steps (execCtxctlCreate n) := fun _ h => .next (createCtx_memOk h)

theorem execCurctxWrite_steps : Steps (execCurctxWrite n) :=
  runEvent_steps (.get fun _ _ => .next readyIf_keeps fun _ => csrWrite_keeps)

theorem execLswzWrite_steps : Steps (execLswzWrite v) := fun _ h => .next (setLswz_memOk h)

theorem execRegisterWrite_steps : Steps (execRegisterWrite c v) :=
  runEvent_steps (.get fun _ _ => .next readyIf_keeps fun _ => csrWrite_keeps)

theorem execKeyInstall_steps : Steps (execKeyInstall n v) := fun _ h => .next h.frame

theorem execWindowRegisterWrite_steps : Steps (execWindowRegisterWrite n ctl v) :=
  fun _ h => .next h.frame

theorem execCounterClear_steps : Steps (execCounterClear off) := fun _ h => .next h.frame

theorem execNoticeClear_steps : Steps (execNoticeClear v) := fun _ h => .next h.frame

/-! ## Sys2Proof/Machine/Slots.lean -/

theorem writeImage_memOk (h : MemOk s) : MemOk (writeImage a img s) := (physWrite_memOk h).frame

theorem storeSpill_memOk (h : MemOk s) : MemOk (storeSpill a old new s) :=
  .ite h (physWrite_memOk h)

theorem spillAll_memOk (h : MemOk s) : MemOk (spillAll old s) :=
  .foldl (fun _ _ hs => storeSpill_memOk (storeSpill_memOk hs)) h

theorem saveTeam_memOk (h : MemOk s) : MemOk (saveTeam base s t) :=
  .foldl (fun _ _ hs => writeImage_memOk hs) (.foldl (fun _ _ hs => physWrite_memOk hs) (.foldl
    (fun _ _ hs => physWrite_memOk hs) (physWrite_memOk h)))

theorem saveGroup_memOk (h : MemOk s) : MemOk (saveGroup base s r) := writeImage_memOk h

theorem assertNotice_memOk (h : MemOk s) : MemOk (assertNotice n s) := by
  unfold assertNotice
  split
  · exact .ite h h.frame
  · exact h

theorem putBack_memOk (h : MemOk s) : MemOk (putBack m s) := by
  unfold putBack
  split
  · exact h.frame
  · exact h

theorem saveSquad_memOk (h : MemOk s) : MemOk (saveSquad q s) := by
  unfold saveSquad
  dsimp only
  have hput := fun l => MemOk.foldl (l := l) (fun _ m hs => putBack_memOk (m := m) hs)
    (arriveAll_memOk (p := fun w => (squadGroups s q.uid).any fun r => r.id == w.who) h)
  refine assertNotice_memOk (dropRunners_memOk (MemOk.frame (s := List.foldl _ _ _) ?_))
  exact .foldl (fun _ _ hs => saveTeam_memOk hs) (.foldl (fun _ _ hs => saveGroup_memOk hs) (hput _).frame)

theorem execPreemptionComplete_steps : Steps (execPreemptionComplete squad) := by
  intro _ h
  unfold execPreemptionComplete
  split
  · exact .ite (.next (saveSquad_memOk h)) (.next h)
  · exact .next h

/-! ## Sys2Proof/Machine/Place.lean -/

theorem firstCheckpoint_memOk (h : MemOk s) : MemOk (firstCheckpoint t gs s) := by
  unfold firstCheckpoint
  split
  · exact h
  · exact MemOk.frame (s := writeImage _ _ s) (writeImage_memOk h)

theorem placeTeam_memOk (h : MemOk s) (hp : placeTeam g squad i seat s = some t) : MemOk t := by
  unfold placeTeam at hp
  dsimp only at hp
  split at hp
  · obtain ⟨a, -, rfl⟩ := Option.map_eq_some_iff.mp hp
    exact firstCheckpoint_memOk h.frame
  · cases hp
    exact firstCheckpoint_memOk h.frame

theorem placeSquad_memOk (h : MemOk s) (hp : placeSquad g gal seats s = some t) : MemOk t := by
  unfold placeSquad at hp
  refine MemOk.foldlBind (fun _ _ _ hs hx => placeTeam_memOk hs hx) ?_ hp
  exact h.frame

theorem resumeSquad_memOk (h : MemOk s) : MemOk (resumeSquad v gal seats s) := by
  unfold resumeSquad
  dsimp only
  split
  · exact h.frame
  · exact h.frame

theorem placeOn_memOk (h : MemOk s) (hp : placeOn s c gal = some t) : MemOk t := by
  unfold placeOn at hp
  split at hp
  · cases hp
  · split at hp
    · split at hp
      · cases hp
      · obtain ⟨seats, -, rfl⟩ := Option.map_eq_some_iff.mp hp
        exact resumeSquad_memOk h
    · obtain ⟨seats, -, hp⟩ := Option.bind_eq_some_iff.mp hp
      exact placeSquad_memOk h hp

theorem bestPlace_memOk (h : MemOk s) (hp : bestPlace s p c = some t) : MemOk t := by
  obtain ⟨gal, -, hp⟩ := List.exists_of_findSome?_eq_some hp
  exact placeOn_memOk h (Option.eq_some_of_filter_eq_some hp)

theorem placeByClass_memOk (h : MemOk s) (hp : placeByClass s p = some t) : MemOk t := by
  obtain ⟨c, -, hp⟩ := List.exists_of_findSome?_eq_some hp
  obtain ⟨k, -, hp⟩ := List.exists_of_findSome?_eq_some hp
  split at hp
  · cases hp
  · obtain ⟨u, hu, rfl⟩ := Option.map_eq_some_iff.mp hp
    exact (bestPlace_memOk h hu).frame

theorem nextPlacement_memOk (h : MemOk s) (hp : nextPlacement s p = some t) : MemOk t := by
  unfold nextPlacement at hp
  split at hp
  · rename_i hv
    obtain ⟨v, -, hv⟩ := List.exists_of_findSome?_eq_some hv
    exact Option.some.inj hp ▸ bestPlace_memOk h hv
  · split at hp
    · dsimp only at hp
      split at hp
      · rename_i hb
        cases hp
        exact (bestPlace_memOk h hb).frame
      · split at hp
        · exact placeByClass_memOk h hp
        · cases hp
    · exact placeByClass_memOk h hp

theorem execSquadPlacement_steps : Steps (execSquadPlacement part) := by
  intro s h
  unfold execSquadPlacement
  split
  · rename_i hp
    obtain ⟨p, -, hp⟩ := Option.bind_eq_some_iff.mp hp
    exact .next (nextPlacement_memOk h hp)
  · exact .next h

theorem execPlacementReservation_steps : Steps (execPlacementReservation part queue) := by
  intro _ h
  unfold execPlacementReservation
  split
  · exact .ite (.next h.frame) (.next h)
  · exact .next h

theorem writeDone_memOk (h : MemOk s) : MemOk (writeDone g w s) :=
  .ite (.ite h h.frame) (.ite (countRange_memOk (touch_memOk (homeWrite_memOk h))).frame
    (.of rfl (.ite h.frame h.frame)))

theorem askPreds_memOk (h : MemOk s) : MemOk (askPreds g s) :=
  .foldl (fun _ _ hs => .ite hs.frame hs) h

theorem cancelGrid_memOk (h : MemOk s) : MemOk (cancelGrid g s) := (writeDone_memOk h).frame

theorem execGridReady_steps : Steps (execGridReady h) := by
  intro _ h
  unfold execGridReady
  split
  · exact .next h
  · exact .ite (.next h) (.ite (.ite (.next h) (.next (cancelGrid_memOk (outSpend_memOk h)))) (.ite (.next
        (.of rfl (.ite (outSpend_memOk h) (askPreds_memOk h)))) (.next (.ite (outSpend_memOk h) (askPreds_memOk h)))))

theorem execGridComplete_steps : Steps (execGridComplete h) := by
  intro _ h
  unfold execGridComplete
  split
  · exact .next h
  · exact .ite (.next h) (.next (writeDone_memOk (arriveAll_memOk h)))

theorem execVgrowGrant_steps : Steps (execVgrowGrant core') := by
  intro _ h
  unfold execVgrowGrant
  split
  · exact .ite (.next h.frame) (.next h)
  · exact .next h

theorem execVgrowDeadlockBreak_steps : Steps (execVgrowDeadlockBreak core') := by
  intro _ h
  unfold execVgrowDeadlockBreak
  split
  · exact .ite (.next h) (by
        split
        · exact .next h.frame
        · exact .next h)
  · exact .next h

theorem execProducerPreemption_steps : Steps (execProducerPreemption h) := by
  intro _ h
  unfold execProducerPreemption
  split
  · exact .next h
  · dsimp only
    split
    · exact .next h
    · exact .ite (.next h) (by
          split
          · exact .next h.frame
          · exact .next h)

theorem execIssuePromotion_steps : Steps (execIssuePromotion who lane) :=
  fun _ h => .next h.frame

theorem reapGrids_memOk (h : MemOk s) : MemOk (reapGrids s) := .ite (discardGrids_memOk h) h

theorem settleWaits_memOk (h : MemOk s) : MemOk (settleWaits s) :=
  .foldl (fun _ _ hs => settleRollback_memOk hs) (.foldl (fun _ _ hs => asRunner_memOk (fun _ hs1 =>
    drainTrap_memOk hs1) hs) h)

theorem settleStep_memOk (h : MemOk s) : MemOk (settleStep old s) :=
  spillAll_memOk (reapGrids_memOk (settleWaits_memOk h.frame))

/-! ## Sys2Proof/Machine/Events.lean -/

theorem execMemoryWriteArrival_steps : Steps (execMemoryWriteArrival k) := by
  intro _ h
  unfold execMemoryWriteArrival
  split
  · exact .next h
  · exact .ite (.next h) (.next (arrive_memOk h.frame))

theorem execOutboundWriteAccept_steps : Steps (execOutboundWriteAccept who a) := by
  intro _ h
  unfold execOutboundWriteAccept
  split
  · exact .next h
  · split
    · exact .ite (.ite (.next h.frame) (.ite (.next h) (.next (countRange_memOk (touch_memOk
          (homeWrite_memOk h.frame)))))) (.ite (.next h.frame) (.ite (.next h.frame) (.next h.frame)))
    · exact .next h

theorem execRemoteAccessTimeout_steps : Steps (execRemoteAccessTimeout who) :=
  fun _ h => .next (.of rfl (.ite h.frame
    h.frame))

theorem performWrite_memOk (h : MemOk s) : MemOk (performWrite k s) := by
  unfold performWrite
  split
  · exact h
  · exact seeAll_memOk h

theorem peerStore_memOk (h : MemOk s) : MemOk (peerStore port key comp pa bs s) :=
  .ite h.frame (by
    split
    · exact h.frame
    · exact .ite h.frame h
    · exact countRange_memOk (touch_memOk (homeWrite_memOk h)))

theorem peerLoad_memOk (h : MemOk s) : MemOk (peerLoad port pa n s) :=
  .ite h.frame (.ite h.frame (.ite (countRange_memOk (touch_memOk h)) h))

theorem execPeerWrite_steps : Steps (execPeerWrite port off data) :=
  fun _ h => .ite (.next h) (by
    split
    · exact .next h.frame
    · exact .next h.frame)

theorem landNext_memOk (h : MemOk s) : MemOk (landNext port s) := by
  unfold landNext
  split
  · exact h
  · exact .ite h (peerStore_memOk h.frame)

theorem execPeerRead_steps : Steps (execPeerRead port off len) :=
  fun _ h => .ite (.next h) (by
    split
    · exact .next (.ite (peerLoad_memOk h) h.frame)
    · exact .next h)

theorem execBar4Access_steps : Steps (execBar4Access port pa wr data) :=
  fun _ h => .ite (.next h) (by
    split
    · exact .next h.frame
    · exact .ite (.ite (.next h) (.next (peerStore_memOk h))) (.next (peerLoad_memOk h)))

theorem bar0Write_memOk (h : MemOk s) : MemOk (bar0Write port off v s) := .ite h.frame h

theorem remoteWrite_memOk (h : MemOk s) : MemOk (remoteWrite slot pa comp bs s) := by
  unfold remoteWrite
  split
  · exact .ite h (peerStore_memOk h)
  · exact h

theorem remoteRead_memOk (h : MemOk s) : MemOk (remoteRead pa n s) := .ite (peerLoad_memOk h) h

theorem execMsixMessage_steps : Steps (execMsixMessage port vec) :=
  fun _ h => .ite (.next h.frame) (.next h)

theorem countLink_memOk (h : MemOk s) : MemOk (countLink link corrected s) :=
  .ite h.frame h

theorem execLinkFlitError_steps : Steps (execLinkFlitError link corrected) := fun _ h => .next (countLink_memOk h)

theorem execInjectorAct_steps : Steps (execInjectorAct link dir) := by
  intro _ h
  unfold execInjectorAct
  split
  · exact .next h
  · exact .next (.ite (.ite (countLink_memOk h) h) (.of rfl (.ite (countLink_memOk h) h)))

theorem execEscapeRecovery_steps : Steps (execEscapeRecovery router) := fun _ h => .next h.frame

theorem execEscapeChannelEmpty_steps : Steps (execEscapeChannelEmpty router) := fun _ h => .next h.frame

theorem execRoutingTableWrite_steps : Steps (execRoutingTableWrite dest links) :=
  fun _ h => .ite (.next h.frame) (.next h)

theorem execMemoryError_steps : Steps (execMemoryError addr correctable) := fun _ h => .ite (.next h) (.next h.frame)

theorem execScrubVisit_steps : Steps (execScrubVisit line) :=
  fun _ h => .ite (.next (.of rfl (.ite h.frame h.frame))) (.next (.ite h.frame h.frame))

theorem execControllerBatchForm_steps : Steps (execControllerBatchForm _c) := fun _ h => .next h

theorem execHotnessIntervalEnd_steps : Steps (execHotnessIntervalEnd c) :=
  fun _ h => .ite (.next h) (.next (physWrite_memOk h).frame)

theorem onRefresh_memOk (h : MemOk s) : MemOk (onRefresh stack f s) := .ite h.frame h

theorem execRefreshHeartbeat_steps : Steps (execRefreshHeartbeat stack) := fun _ h => .next (onRefresh_memOk h)

theorem missBeat_memOk (h : MemOk s) : MemOk (missBeat stack s) := onRefresh_memOk h

theorem execRefreshTakeover_steps : Steps (execRefreshTakeover stack) :=
  fun _ h => .ite (.next (onRefresh_memOk h).frame) (.next h)

theorem execSupplySag_steps : Steps (execSupplySag hall) := fun _ h => .next (.ite h.frame h)

theorem execSupplyRecover_steps : Steps (execSupplyRecover hall ns) :=
  fun _ h => .next (.of rfl (.ite h (passHall_memOk h)))

theorem writeSome_memOk (h : MemOk s) : MemOk (writeSome o us s) :=
  .of rfl (.foldl (fun _ _ hs => writeLocs_memOk hs) h)

theorem writeSomeList_memOk (h : MemOk s) : MemOk (writeSomeList o dst bs s) :=
  .ite (writeSome_memOk (writeSome_memOk h)) (writeSome_memOk h)

theorem haltWork_memOk (h : MemOk s) : MemOk (haltWork o s) := by
  unfold haltWork
  split
  · exact .ite (.of rfl (.foldl (fun _ _ hs => .ite (doMoves_memOk hs) hs) h)) h
  · exact h
  · exact .ite (endBuild_memOk h.frame) h.frame
  · exact .ite (unmark_memOk h.frame) h.frame
  · exact .ite h (writeSome_memOk h)
  · exact .ite (writeSomeList_memOk h) h
  · exact .ite (writeSomeList_memOk h) h

theorem haltOp_memOk (h : MemOk s) : MemOk (haltOp s o) := endOp_memOk (haltWork_memOk h)

theorem spoilSlots_memOk (h : MemOk s) : MemOk (spoilSlots core' s) :=
  .foldl (fun _ _ hs => .foldl (fun _ _ hs1 => writeImage_memOk hs1) (writeImage_memOk (.foldl
    (fun _ _ hs1 => writeImage_memOk hs1) hs))) (.foldl (fun _ _ hs => writeImage_memOk hs) h)

theorem dropCore_memOk (h : MemOk s) : MemOk (dropCore core' s) := dropRunners_memOk (spoilSlots_memOk h).frame

theorem stopWork_memOk (h : MemOk s) : MemOk (stopWork part n s).2 := by
  unfold stopWork
  dsimp only
  split
  · exact dropCore_memOk h
  · exact h.frame
  · exact .foldl (fun _ _ hs => haltOp_memOk hs) h

theorem stopEngine_memOk (hok : MemOk s) : MemOk (stopEngine p h cause s n) :=
  physWrite_memOk (stopWork_memOk hok)

theorem execEngineStop_steps : Steps (execEngineStop part engine) := by
  intro _ h
  unfold execEngineStop
  split
  · exact .ite (.next (stopEngine_memOk h).frame) (.next h)
  · exact .next h

theorem onHalt_memOk (h : MemOk s) : MemOk (onHalt part f s) := h.frame

theorem execSkidOverrun_steps : Steps (execSkidOverrun part) := by
  intro _ h
  unfold execSkidOverrun
  split
  · exact .ite (.next h) (.next (onHalt_memOk (.foldl (fun _ _ hs => stopEngine_memOk hs) h)))
  · exact .next h

theorem endPartWork_memOk (h : MemOk s) : MemOk (endPartWork part s) := by
  refine MemOk.frame (s := List.foldl _ _ _) (.foldl (fun _ _ hs => reclaimCtx_memOk hs) ?_)
  exact discardGrids_memOk h.frame

theorem collectHalt_memOk (hok : MemOk s) : MemOk (collectHalt p h s) := by
  have hw : MemOk (physWrite (p.stopbase.toNat + recordAt 0x4000)
      (stopRecord h 0x4000 (skidOf (endPartWork p.no s) p h 0x4000) 0xB3 ⟨none, 0, 0, 0⟩) (endPartWork p.no s)) :=
    physWrite_memOk (endPartWork_memOk hok)
  exact .foldl (fun _ _ hs => hs.frame) (hw.withParts _)

theorem execHaltCollected_steps : Steps (execHaltCollected part) := by
  intro _ h
  unfold execHaltCollected
  split
  · exact .ite (.next (collectHalt_memOk h)) (.next h)
  · exact .next h

theorem haltNow_memOk (h : MemOk s) : MemOk (haltNow part s) := by
  have hs : MemOk (if halted s part then s
      else { raiseHalt part (resetHalt part s) s with free := s.free + 3 }) := by
    split
    · exact h
    · exact (raiseHalt_memOk (part := part) (h := resetHalt part s) h).frame
  unfold haltNow
  dsimp only
  split
  · exact collectHalt_memOk (.foldl (fun _ _ hs => stopEngine_memOk hs) hs)
  · exact endPartWork_memOk (.foldl (fun _ _ hs => haltOp_memOk hs) hs)

theorem clearPart_memOk (h : MemOk s) : MemOk (clearPart p s) := by
  unfold clearPart
  refine MemOk.frame (s := reclaimAll _ _) ?_
  exact reclaimAll_memOk h.frame

theorem execPartitionReset_steps : Steps (execPartitionReset part) := by
  intro _ h
  unfold execPartitionReset
  split
  · exact .next (clearPart_memOk (haltNow_memOk h))
  · exact .next h

theorem execHostCoreRestart_steps : Steps (execHostCoreRestart n) :=
  fun _ h => .next h.frame

theorem resetPackage_memOk : MemOk (resetPackage modes s) := rfl

theorem execPackageReset_steps : Steps execPackageReset := fun _ _ => .next resetPackage_memOk

/-! ## Sys2Proof/Machine/LaneArith.lean -/

theorem intForm_steps : Steps (intForm rule g) := runLane_steps fun _ => writeD_keeps

theorem numForm_steps : Steps (numForm rule g) := intForm_steps

theorem bitForm_steps : Steps (bitForm b g) := intForm_steps

theorem countForm_steps : Steps (countForm g) := runLane_steps fun _ => writeD_keeps

theorem execVbfx_steps : Steps execVbfx := runLane_steps fun _ => writeD_keeps

theorem execVsel_steps : Steps execVsel := runLane_steps fun _ => .get fun _ _ => writeD_keeps

theorem execVcmp_steps : Steps execVcmp := runLane_steps fun _ => writeMask_keeps

theorem execVmov_steps : Steps execVmov := runLane_steps fun _ => writeD_keeps

theorem execVmovi_steps : Steps execVmovi := runLane_steps fun _ => writeD_keeps

/-! ## Sys2Proof/Machine/LaneMem.lean -/

theorem spotRead_keeps : Keeps (spotRead g lane z a) := by
  unfold spotRead
  split
  · exact readAt_keeps
  · exact .get fun _ _ => .pure
  · exact .get fun _ _ => .pure
  · exact .next (.update fun _ hs => touch_memOk hs) fun _ => .get fun _ _ => .pure
  · exact .get fun _ _ => .pure

theorem spotWrite_keeps : Keeps (spotWrite g lane bs a) := by
  unfold spotWrite
  split
  · exact writeAt_keeps
  · exact .update fun _ hs => hs.frame
  · exact .update fun _ hs => hs.frame
  · exact .get fun _ _ => .next readyIf_keeps fun _ => .update fun _ hs1 => acceptBytes_memOk hs1
  · exact onLanes_keeps

theorem laneTxStep_keeps {α : Type} {ready : State → Bool} {f : State → Except LaneEnd (α × State)}
    (hf : ∀ s p, MemOk s → f s = .ok p → MemOk p.2) : Keeps (laneTxStep ready f) :=
  .get fun _ h => by
    split
    · rename_i hp
      exact .get fun _ _ => .next readyIf_keeps fun _ => .next (.set (hf _ _ h hp)) fun _ => .pure
    · exact .pure

theorem laneRead_keeps : Keeps (laneRead g lane z p) :=
  .get fun _ _ => by
    split
    · exact laneTxStep_keeps fun _ _ hs hp => laneTxRead_memOk hs hp
    · exact .next spotRead_keeps fun _ => .pure

/-- A transactional write with a value that goes with it. -/
theorem laneTxWrite_map_memOk {α : Type} {x : α} {p : α × State} (h : MemOk s)
    (hp : (laneTxWrite k t bs s).map (fun u => (x, u)) = .ok p) : MemOk p.2 := by
  cases hw : laneTxWrite k t bs s with
  | error e =>
    rw [hw] at hp
    cases hp
  | ok u =>
    rw [hw] at hp
    cases hp
    exact laneTxWrite_memOk h hw

theorem laneWrite_keeps : Keeps (laneWrite g lane bs p) :=
  .get fun _ _ => by
    split
    · exact laneTxStep_keeps fun _ _ hs hp => laneTxWrite_map_memOk hs hp
    · exact .next spotWrite_keeps fun _ => .pure

theorem eachLane_keeps {α : Type} {f : Nat → Spot → Op (Except LaneEnd α)} (hf : ∀ k p, Keeps (f k p)) :
    Keeps (eachLane f l) := by
  induction l with
  | nil => exact .pure
  | cons p l ih =>
    refine .next (hf _ _) fun r => ?_
    split
    · exact .next ih fun _ => .pure
    · exact .get fun _ hs => .next (.set (endAttempt_memOk hs)) fun _ => .next ih fun _ => .pure

theorem laneBefore_keeps : Keeps (laneBefore c) := .get fun _ _ => .ite .pure before_keeps

theorem laneSc_keeps : Keeps (laneSc c tx) := .ite .pure scDone_keeps

theorem lanePlaces_keeps : Keeps (lanePlaces c sp z n) := .get fun _ _ => allLanes_keeps

theorem loadPlaces_keeps : Keeps (loadPlaces c z ps) :=
  .get fun _ _ => .next laneSc_keeps fun _ => .get fun _ _ => .next (eachLane_keeps (fun _ _ => laneRead_keeps))
    fun _ => .next spendAnswers_keeps fun _ => .next onLanes_keeps fun _ => .update fun _ hs2 =>
    leaveLanes_memOk hs2

theorem storePlaces_keeps : Keeps (storePlaces c z arrives ps) :=
  .get fun _ _ => .next laneBefore_keeps fun _ => .get fun _ _ => .next (eachLane_keeps (fun _ _ => laneWrite_keeps))
    fun _ => .ite (.next storeIssued_keeps fun _ => .next laneSc_keeps fun _ => .update fun _ hs2 =>
    leaveLanes_memOk hs2) (.next laneSc_keeps fun _ => .update fun _ hs2 => leaveLanes_memOk hs2)

theorem loadForm_steps : Steps (loadForm sp rule) :=
  runLane_steps fun _ => .next lanePlaces_keeps fun _ => loadPlaces_keeps

theorem storeForm_steps : Steps (storeForm sp rule) :=
  runLane_steps fun _ => .next lanePlaces_keeps fun _ => storePlaces_keeps

theorem execPrf_steps : Steps execPrf := runLane_steps fun _ => .pure

theorem tilePlaces_keeps : Keeps (tilePlaces c z n) := by
  unfold tilePlaces
  split
  · exact .pure
  · exact .get fun _ _ => by
        dsimp only
        split
        · exact .throw
        · exact allLanes_keeps

theorem execVgath_steps : Steps execVgath := runLane_steps fun _ => .next tilePlaces_keeps fun _ => loadPlaces_keeps

theorem execVscat_steps : Steps execVscat :=
  runLane_steps fun _ => .next tilePlaces_keeps fun _ => storePlaces_keeps

/-! ## Sys2Proof/Machine/LaneAtomic.lean -/

theorem atriumAtomic_keeps : Keeps (atriumAtomic g pa z f) :=
  .get fun _ hs => .next readyIf_keeps fun _ => .next (.set (arrive_memOk (drainSectors_memOk
    (performTickets_memOk hs)))) fun _ => .pure

theorem spotAtomic_keeps : Keeps (spotAtomic g lane z f a) := by
  unfold spotAtomic
  split
  · exact atomicAt_keeps
  · exact atriumAtomic_keeps
  · exact .next spotRead_keeps fun _ => .next spotWrite_keeps fun _ => .pure

theorem laneAtomic_keeps : Keeps (laneAtomic g lane z f p) :=
  .get fun _ _ => by
    split
    · refine laneTxStep_keeps fun s p hs hp => ?_
      split at hp
      · cases hp
      · rename_i hr
        exact laneTxWrite_map_memOk (laneTxRead_memOk hs hr) hp
    · exact .next spotAtomic_keeps fun _ => .pure

theorem laneAtomicForm_steps : Steps (laneAtomicForm ok f) :=
  runLane_steps fun _ => .get fun _ _ => .next allLanes_keeps fun _ => .next laneBefore_keeps fun _ => .next
    (eachLane_keeps (fun _ _ => laneAtomic_keeps)) fun _ => .next spendAnswers_keeps fun _ =>
    .next onLanes_keeps fun _ => .ite (.next laneSc_keeps fun _ => .update fun _ hs1 => leaveLanes_memOk hs1)
    (.next (.update fun _ hs1 => markDirty_memOk hs1) fun _ => .next laneSc_keeps fun _ => .update fun _ hs1 =>
    leaveLanes_memOk hs1)

theorem execLaneFence_steps : Steps execLaneFence :=
  runLane_steps fun _ => .next releaseReady_keeps fun _ => .update fun _ hs => fenceState_memOk hs

/-! ## Sys2Proof/Machine/LaneControl.lean -/

theorem execRunStart_steps : Steps execRunStart := by
  intro _ h
  unfold execRunStart
  dsimp only
  split
  · exact .next h
  · exact .ite (.next h) (.ite (.next h.frame) (.next h.frame))

theorem fetchClause_memOk (h : MemOk s) : MemOk (fetchClause hdr n s).2 := by
  induction n with
  | zero => exact h
  | succ n ih =>
    unfold fetchClause
    dsimp only
    split
    · rename_i hr
      exact (laneSlot_keeps.ok ih hr).1
    · exact ih

/-- A fetch of a clause that stopped leaves nothing to be done. -/
theorem fetchClause_stopOk (h : MemOk s) (he : .error e ∈ (fetchClause hdr n s).1) : StopOk e := by
  induction n with
  | zero => exact absurd he List.not_mem_nil
  | succ n ih =>
    unfold fetchClause at he
    dsimp only at he
    split at he
    · rcases List.mem_append.mp he with he | he
      · exact ih he
      · cases List.mem_singleton.mp he
    · rename_i hr
      rcases List.mem_append.mp he with he | he
      · exact ih he
      · cases List.mem_singleton.mp he
        exact laneSlot_keeps.error (fetchClause_memOk h) hr

theorem clauseStop_stopOk (hl : ∀ e, .error e ∈ l → StopOk e) (he : clauseStop s hdr l = some e) : StopOk e := by
  unfold clauseStop at he
  split at he
  · cases he
    trivial
  · obtain ⟨x, hx, hxe⟩ := List.exists_of_findSome?_eq_some he
    split at hxe
    · cases hxe
      exact hl e hx
    · cases hxe

theorem execClause_steps : Steps execClause := by
  intro s h
  unfold execClause
  dsimp only
  split
  · exact .next h
  · refine .ite (.next (stopClause_memOk trivial h)) ?_
    split
    · rename_i he
      exact .next (stopClause_memOk (clauseStop_stopOk (fun _ hm => fetchClause_stopOk h hm) he) h)
    · exact .next (fetchClause_memOk h).frame

theorem maskForm_steps : Steps (maskForm b g) := runLane_steps fun _ => .get fun _ _ => writeMask_keeps

theorem execMset_steps : Steps execMset := runLane_steps fun _ => writeMask_keeps

theorem execMcnt_steps : Steps execMcnt := runLane_steps fun _ => .get fun _ _ => writeD_keeps

theorem slotTrap_keeps : Keeps (slotTrap c cause) := .get fun _ _ => .throw

theorem goOn_keeps : Keeps (goOn c slot) := onLanes_keeps

theorem execCend_steps : Steps execCend := runLane_steps fun _ => .get fun _ _ => .ite slotTrap_keeps onLanes_keeps

theorem needHeader_keeps : Keeps (needHeader c target) :=
  .get fun s h => by
    split
    · rename_i hr
      exact .ite (.set (laneSlot_keeps.ok h hr).1) slotTrap_keeps
    · rename_i hr
      exact .throw (laneSlot_keeps.error h hr)
    · exact .pure

theorem execBrl_steps : Steps execBrl :=
  runLane_steps fun _ => .get fun _ _ => .ite (.next needHeader_keeps fun _ => .ite goOn_keeps (.ite goOn_keeps
    (.ite .throw onLanes_keeps))) (.ite goOn_keeps (.ite goOn_keeps (.ite .throw onLanes_keeps)))

theorem execMark_steps : Steps execMark := runLane_steps fun _ => .get fun _ _ => .ite slotTrap_keeps onLanes_keeps

theorem execJoin_steps : Steps execJoin :=
  runLane_steps fun _ => .get fun _ _ => by
    split
    · exact slotTrap_keeps
    · exact onLanes_keeps

theorem execYield_steps : Steps execYield := runLane_steps fun _ => .next goOn_keeps fun _ => onLanes_keeps

theorem barForm_steps : Steps (barForm x st same) :=
  runLane_steps fun _ => .get fun _ _ => .ite .throwBind (.ite (.next slotTrap_keeps fun _ =>
    .next goOn_keeps fun _ => .next onLanes_keeps fun _ => .get fun _ hs1 => settle_keeps hs1)
    (.next goOn_keeps fun _ => .next onLanes_keeps fun _ => .get fun _ hs1 => settle_keeps hs1))

/-! ## Sys2Proof/Machine/LaneCross.lean -/

theorem execVshfl_steps : Steps execVshfl := runLane_steps fun _ => writeD_keeps

theorem execVbcast_steps : Steps execVbcast := runLane_steps fun _ => writeD_keeps

theorem execVred_steps : Steps execVred := runLane_steps fun _ => writeD_keeps

theorem execVscan_steps : Steps execVscan := runLane_steps fun _ => writeD_keeps

theorem execVballot_steps : Steps execVballot := runLane_steps fun _ => writeD_keeps

theorem execVpack_steps : Steps execVpack := runLane_steps fun _ => .get fun _ _ => writeD_keeps

theorem execVunpk_steps : Steps execVunpk := runLane_steps fun _ => writeD_keeps

/-! ## Sys2Proof/Machine/LeadFloat.lean -/

theorem rndMode_keeps : Keeps rndMode := .get fun _ _ => .pure

theorem fpSrc_keeps : Keeps (fpSrc f a) := .next reg_keeps fun _ => .pure

theorem fpBin_steps : Steps (fpBin t d a b g) :=
  runLead_steps (.next rndMode_keeps fun _ => .next fpSrc_keeps fun _ => .next fpSrc_keeps fun _ => setReg_keeps)

theorem fpCmp_steps : Steps (fpCmp t d a b p) :=
  runLead_steps (.next fpSrc_keeps fun _ => .next fpSrc_keeps fun _ => setReg_keeps)

theorem fpMinMax_steps : Steps (fpMinMax wantMax t d a b) :=
  runLead_steps (.next fpSrc_keeps fun _ => .next fpSrc_keeps fun _ => setReg_keeps)

theorem execFma_steps : Steps (execFma t d a b) :=
  runLead_steps (.next rndMode_keeps fun _ => .next fpSrc_keeps fun _ => .next fpSrc_keeps fun _ =>
    .next fpSrc_keeps fun _ => setReg_keeps)

theorem execFmov_steps : Steps (execFmov t d a) := runLead_steps (.next fpSrc_keeps fun _ => setReg_keeps)

theorem execFcvt_steps : Steps (execFcvt d a dt st) :=
  runLead_steps (.next rndMode_keeps fun _ => .get fun _ _ => .next reg_keeps fun _ => setReg_keeps)

/-! ## Sys2Proof/Machine/LaneFloat.lean -/

theorem fltForm_steps : Steps (fltForm rule g) := runLane_steps fun _ => writeD_keeps

theorem fltBin_steps : Steps (fltBin lit g) := fltForm_steps

theorem fltUn_steps : Steps (fltUn ok g) := fltForm_steps

theorem execVfcmp_steps : Steps execVfcmp := runLane_steps fun _ => writeMask_keeps

theorem execVfscale_steps : Steps execVfscale := runLane_steps fun _ => writeD_keeps

theorem execVfcma_steps : Steps execVfcma := runLane_steps fun _ => writeD_keeps

theorem execVfcvt_steps : Steps execVfcvt := runLane_steps fun _ => writeD_keeps

/-! ## Sys2Proof/Machine/LeadBranch.lean -/

theorem branchTo_keeps : Keeps (branchTo target link) :=
  .next need_keeps fun _ => .get fun s h => by
    split
    · exact stopTrap_keeps
    · rename_i hr
      exact .throw (codeWord_keeps.error h hr)
    · rename_i hr
      refine .next (.set (codeWord_keeps.ok h hr).1) fun _ => .next need_keeps fun _ => ?_
      cases link with
      | none => exact onMe_keeps
      | some d => exact .next setReg_keeps fun _ => onMe_keeps

theorem offsetTarget_keeps : Keeps (offsetTarget o) := .get fun _ _ => .pure

theorem condBranch_steps : Steps (condBranch a b o p) :=
  runLead_steps (.next reg_keeps fun _ => .next reg_keeps fun _ => .ite (.next offsetTarget_keeps fun _ =>
    branchTo_keeps) .pure)

theorem execB_steps : Steps (execB o) := runLead_steps (.next offsetTarget_keeps fun _ => branchTo_keeps)

theorem execBLong_steps : Steps (execBLong o) := runLead_steps (.next offsetTarget_keeps fun _ => branchTo_keeps)

theorem execBl_steps : Steps (execBl o) := runLead_steps (.next offsetTarget_keeps fun _ => branchTo_keeps)

theorem execBlLong_steps : Steps (execBlLong o) := runLead_steps (.next offsetTarget_keeps fun _ => branchTo_keeps)

theorem execBr_steps : Steps (execBr a) := runLead_steps (.next reg_keeps fun _ => branchTo_keeps)

theorem execBlr_steps : Steps (execBlr d a) := runLead_steps (.next reg_keeps fun _ => branchTo_keeps)

theorem execRet_steps : Steps (execRet a) := runLead_steps (.next reg_keeps fun _ => branchTo_keeps)

/-! ## Sys2Proof/Machine/LeadInt.lean -/

theorem regBits_keeps : Keeps (regBits w a) := .next reg_keeps fun _ => .pure

theorem binForm_steps : Steps (binForm w d a b f) :=
  runLead_steps (.next regBits_keeps fun _ => .next regBits_keeps fun _ => setReg_keeps)

theorem unForm_steps : Steps (unForm w d a f) := runLead_steps (.next regBits_keeps fun _ => setReg_keeps)

theorem satForm_steps : Steps (satForm w d a b f) :=
  runLead_steps (.get fun _ _ => .next regBits_keeps fun _ => .next regBits_keeps fun _ => setReg_keeps)

theorem immForm_steps : Steps (immForm w d a f) := unForm_steps

theorem satImmForm_steps : Steps (satImmForm w d a f) :=
  runLead_steps (.get fun _ _ => .next regBits_keeps fun _ => setReg_keeps)

theorem execShl_steps : Steps (execShl w d a b) :=
  runLead_steps (.get fun _ _ => .next regBits_keeps fun _ => .next regBits_keeps fun _ => setReg_keeps)

theorem execSel_steps : Steps (execSel w d a b) :=
  runLead_steps (.next regBits_keeps fun _ => .next regBits_keeps fun _ => .next regBits_keeps fun _ => setReg_keeps)

theorem execCmp_steps : Steps (execCmp c w d a b) :=
  runLead_steps (.next regBits_keeps fun _ => .next regBits_keeps fun _ => setReg_keeps)

theorem execBfx_steps : Steps (execBfx d a u q) := runLead_steps (.next reg_keeps fun _ => setReg_keeps)

theorem execBfi_steps : Steps (execBfi d a u q) :=
  runLead_steps (.next reg_keeps fun _ => .next reg_keeps fun _ => setReg_keeps)

theorem execSethi_steps : Steps (execSethi d i) := runLead_steps (.next reg_keeps fun _ => setReg_keeps)

theorem execLi_steps : Steps (execLi d i) := runLead_steps setReg_keeps

theorem execAddpc_steps : Steps (execAddpc d i) := runLead_steps (.get fun _ _ => setReg_keeps)

theorem execAddpcLong_steps : Steps (execAddpcLong d i) := runLead_steps (.get fun _ _ => setReg_keeps)

theorem execNop_steps : Steps execNop := runLead_steps .pure

theorem execHint_steps : Steps (execHint _code _arg) := runLead_steps .pure

theorem execHintFetchLead_steps : Steps (execHintFetchLead _arg) := runLead_steps .pure

theorem execHintSpin_steps : Steps (execHintSpin _arg) := runLead_steps .pure

theorem execHintFetchLane_steps : Steps (execHintFetchLane _arg) := runLead_steps .pure

/-! ## Sys2Proof/Machine/Sparse.lean -/

theorem writeK_keeps : Keeps (writeK c p) := .ite .pure writeMask_keeps

theorem unlessEmpty_keeps (hm : ∀ x0, Keeps (m x0)) : Keeps (unlessEmpty c m) := by
  unfold unlessEmpty
  split
  · exact .pure
  · exact hm _

theorem execVconf_steps : Steps execVconf :=
  runLane_steps fun _ => unlessEmpty_keeps (fun _ => .next writeD_keeps fun _ => writeK_keeps)

theorem execVcomb_steps : Steps execVcomb := runLane_steps fun _ => onLanes_keeps

theorem listForm_steps : Steps (listForm walk') :=
  runLane_steps fun _ => unlessEmpty_keeps (fun _ => by
    dsimp only
    split
    · exact .throw
    · exact .throw
    · exact .next onLanes_keeps fun _ => .next onLanes_keeps fun _ => writeK_keeps)

theorem moveLanes_keeps : Keeps (moveLanes c src dst) := onLanes_keeps

theorem execVcompr_steps : Steps execVcompr := runLane_steps fun _ => moveLanes_keeps

theorem execVexpd_steps : Steps execVexpd := runLane_steps fun _ => moveLanes_keeps

theorem execIdxld_steps : Steps execIdxld :=
  runLane_steps fun _ => unlessEmpty_keeps (fun _ => .get fun _ _ => .ite (.next laneBefore_keeps fun _ => .next
    (.update fun _ hs1 => hs1.frame) fun _ => .update fun _ hs1 => hs1.frame) .throw)

/-! ## Sys2Proof/Machine/Dispatch.lean -/

/-- Every instruction keeps the form. Instructions of one form share the lemma about the form. -/
theorem exec_steps : Steps (exec i) := by
  intro _ h
  unfold exec
  cases i with
  | hint => exact execHint_steps _ h
  | hintFetchLead => exact execHintFetchLead_steps _ h
  | hintSpin => exact execHintSpin_steps _ h
  | hintFetchLane => exact execHintFetchLane_steps _ h
  | add | sub | mul | addx => exact satForm_steps _ h
  | mulh | mulhn | div | divn | rem | remn | and | or | xor | andn | min | max | minn | maxn | shr | sar | rot
    => exact binForm_steps _ h
  | shl => exact execShl_steps _ h
  | clz | ctz | popc | sext | zext => exact unForm_steps _ h
  | sel => exact execSel_steps _ h
  | cmp => exact execCmp_steps _ h
  | bfx => exact execBfx_steps _ h
  | bfi => exact execBfi_steps _ h
  | addi | addiLong | shli => exact satImmForm_steps _ h
  | andi | andiLong | ori | oriLong | xori | xoriLong | shri | sari => exact immForm_steps _ h
  | sethi => exact execSethi_steps _ h
  | li => exact execLi_steps _ h
  | addpc => exact execAddpc_steps _ h
  | addpcLong => exact execAddpcLong_steps _ h
  | b => exact execB_steps _ h
  | bLong => exact execBLong_steps _ h
  | bl => exact execBl_steps _ h
  | blLong => exact execBlLong_steps _ h
  | br => exact execBr_steps _ h
  | blr => exact execBlr_steps _ h
  | ret => exact execRet_steps _ h
  | beq | beqLong | bne | bneLong | blt | bltLong | bge | bgeLong | bltn | bltnLong | bgen | bgenLong | bz | bzLong
  | bnz | bnzLong => exact condBranch_steps _ h
  | fadd | fsub | fmul | fdiv | fsqrt => exact fpBin_steps _ h
  | fma => exact execFma_steps _ h
  | fmin | fmax => exact fpMinMax_steps _ h
  | fmov => exact execFmov_steps _ h
  | fcmpEq | fcmpLt | fcmpLe | fcmpUn => exact fpCmp_steps _ h
  | fcvt => exact execFcvt_steps _ h
  | ld | ldLong | ldN | ldNLong => exact leadLoad_steps _ h
  | st | stLong => exact leadStore_steps _ h
  | aadd | asub | amin | amax | aminn | amaxn | aand | aor | axor | axchg | afadd | acas
    => exact leadAtomicForm_steps _ h
  | fence => exact execFence_steps _ h
  | fenceSys => exact execFenceSys_steps _ h
  | fenceSysWin => exact execFenceSysWin_steps _ h
  | watch => exact execWatch_steps _ h
  | watchWake => exact execWatchWake_steps _ h
  | lrun => exact execLrun_steps _ h
  | lwait => exact execLwait_steps _ h
  | xbset => exact execXbset_steps _ h
  | xbclr => exact execXbclr_steps _ h
  | osdef => exact execOsdef_steps _ h
  | osend => exact execOsend_steps _ h
  | trap => exact execTrap_steps _ h
  | csrrd => exact execCsrrd_steps _ h
  | csrwr | csrset | csrclr => exact csrForm_steps _ h
  | haltpCtx => exact execHaltpCtx_steps _ h
  | haltpPart => exact execHaltpPart_steps _ h
  | preemptSus => exact execPreemptSus_steps _ h
  | preemptRes => exact execPreemptRes_steps _ h
  | injarm | injarmRep => exact armForm_steps _ h
  | ckptPool => exact execCkptPool_steps _ h
  | ckptStat => exact execCkptStat_steps _ h
  | assert => exact execAssert_steps _ h
  | tload | tloadLease | tloadTry => exact tloadForm_steps _ h
  | redeem | redeemQ => exact redeemForm_steps _ h
  | redeeml => exact redeemlMem_steps _ h
  | redeemlLanding => exact redeemlLand_steps _ h
  | redeemlQ => exact execRedeemlQ_steps _ h
  | tdrop | tdropQ => exact dropForm_steps _ h
  | tstat => exact execTstat_steps _ h
  | tlease | tleaseQ => exact leaseForm_steps _ h
  | txbeg => exact execTxbeg_steps _ h
  | txabt => exact execTxabt_steps _ h
  | txstat => exact execTxstat_steps _ h
  | cpyt => exact execCpyt_steps _ h
  | cpytExt => exact execCpytExt_steps _ h
  | cpyl => exact execCpyl_steps _ h
  | cpylExt => exact execCpylExt_steps _ h
  | cpylRaw => exact execCpylRaw_steps _ h
  | cpyf => exact execCpyf_steps _ h
  | cpyfExt => exact execCpyfExt_steps _ h
  | cpyg => exact execCpyg_steps _ h
  | cpygExt => exact execCpygExt_steps _ h
  | bseal => exact execBseal_steps _ h
  | bwait => exact execBwait_steps _ h
  | bwaitn => exact execBwaitn_steps _ h
  | bstat => exact execBstat_steps _ h
  | ksummOff => exact execKsummOff_steps _ h
  | ksummBf16 | ksummE4m3 | ksummE5m2 => exact ksummMark_steps _ h
  | ksummRebuild => exact execKsummRebuild_steps _ h
  | ksummRead => exact execKsummRead_steps _ h
  | kbound => exact execKbound_steps _ h
  | kfetch => exact execKfetch_steps _ h
  | klist => exact execKlist_steps _ h
  | mloop => exact execMloop_steps _ h
  | osub => exact execOsub_steps _ h
  | accz => exact execAccz_steps _ h
  | accld | accldTyped | accst | accstTyped => exact accMove_steps _ h
  | accver => exact execAccver_steps _ h
  | accverWait => exact execAccverWait_steps _ h
  | accverSet => exact execAccverSet_steps _ h
  | launch | launchTry => exact launchForm_steps _ h
  | lwaitg => exact execLwaitg_steps _ h
  | gstat => exact execGstat_steps _ h
  | vgrow => exact execVgrow_steps _ h
  | vshrink => exact execVshrink_steps _ h
  | gexit => exact execGexit_steps _ h
  | flagRelease => exact execFlagRelease_steps _ h
  | issuePromotion => exact execIssuePromotion_steps _ h
  | streamElementRead => exact execStreamElementRead_steps _ h
  | distributorElementRead => exact execDistributorElementRead_steps _ h
  | ticketDataArrival => exact execTicketDataArrival_steps _ h
  | redemptionDelivery => exact execRedemptionDelivery_steps _ h
  | leaseExpiry => exact execLeaseExpiry_steps _ h
  | cloakroomReconfigure => exact execCloakroomReconfigure_steps _ h
  | porterOperationStart => exact execPorterOperationStart_steps _ h
  | copyComplete => exact execCopyComplete_steps _ h
  | usherBound => exact execUsherBound_steps _ h
  | gatherListMerge => exact execGatherListMerge_steps _ h
  | ksummBuildComplete => exact execKsummBuildComplete_steps _ h
  | memoryWriteArrival => exact execMemoryWriteArrival_steps _ h
  | matrixOperationStart => exact execMatrixOperationStart_steps _ h
  | mloopKStep => exact execMloopKStep_steps _ h
  | matrixOperationComplete => exact execMatrixOperationComplete_steps _ h
  | gridReady => exact execGridReady_steps _ h
  | squadPlacement => exact execSquadPlacement_steps _ h
  | placementReservation => exact execPlacementReservation_steps _ h
  | producerPreemption => exact execProducerPreemption_steps _ h
  | vgrowGrant => exact execVgrowGrant_steps _ h
  | vgrowDeadlockBreak => exact execVgrowDeadlockBreak_steps _ h
  | gridComplete => exact execGridComplete_steps _ h
  | engineStop => exact execEngineStop_steps _ h
  | skidOverrun => exact execSkidOverrun_steps _ h
  | haltCollected => exact execHaltCollected_steps _ h
  | preemptionComplete => exact execPreemptionComplete_steps _ h
  | txEarlyValidation => exact execTxEarlyValidation_steps _ h
  | msixMessage => exact execMsixMessage_steps _ h
  | peerWrite => exact execPeerWrite_steps _ h
  | peerRead => exact execPeerRead_steps _ h
  | bar4Access => exact execBar4Access_steps _ h
  | remoteAccessTimeout => exact execRemoteAccessTimeout_steps _ h
  | controllerBatchForm => exact execControllerBatchForm_steps _ h
  | scrubVisit => exact execScrubVisit_steps _ h
  | hotnessIntervalEnd => exact execHotnessIntervalEnd_steps _ h
  | refreshHeartbeat => exact execRefreshHeartbeat_steps _ h
  | refreshTakeover => exact execRefreshTakeover_steps _ h
  | escapeRecovery => exact execEscapeRecovery_steps _ h
  | injectorAct => exact execInjectorAct_steps _ h
  | supplySag => exact execSupplySag_steps _ h
  | supplyRecover => exact execSupplyRecover_steps _ h
  | partitionReset => exact execPartitionReset_steps _ h
  | hostCoreRestart => exact execHostCoreRestart_steps _ h
  | routingTableWrite => exact execRoutingTableWrite_steps _ h
  | tlbInvalidatePage => exact execTlbInvalidatePage_steps _ h
  | ctxctlCreate => exact execCtxctlCreate_steps _ h
  | curctxWrite => exact execCurctxWrite_steps _ h
  | clkcfgWrite => exact execClkcfgWrite_steps _ h
  | lswzWrite => exact execLswzWrite_steps _ h
  | keyInstall => exact execKeyInstall_steps _ h
  | windowRegisterWrite => exact execWindowRegisterWrite_steps _ h
  | counterClear => exact execCounterClear_steps _ h
  | noticeClear => exact execNoticeClear_steps _ h
  | registerWrite => exact execRegisterWrite_steps _ h
  | linkFlitError => exact execLinkFlitError_steps _ h
  | memoryError => exact execMemoryError_steps _ h
  | escapeChannelEmpty => exact execEscapeChannelEmpty_steps _ h
  | outboundWriteAccept => exact execOutboundWriteAccept_steps _ h
  | nop => exact execNop_steps _ h
  | rfe => exact execRfe_steps _ h
  | ckptRb => exact execCkptRb_steps _ h
  | txend => exact execTxend_steps _ h
  | texit => exact execTexit_steps _ h
  | clause => exact execClause_steps _ h
  | runStart => exact execRunStart_steps _ h
  | vadd | vsub | vmul | vmulh | vmad | vmin | vmax | vabs => exact numForm_steps _ h
  | vand | vor | vxor | vnot => exact bitForm_steps _ h
  | vshl | vshr | vsar => exact intForm_steps _ h
  | vclz | vpopc => exact countForm_steps _ h
  | vbfx => exact execVbfx_steps _ h
  | vsel => exact execVsel_steps _ h
  | vcmp => exact execVcmp_steps _ h
  | vmov => exact execVmov_steps _ h
  | vmovi => exact execVmovi_steps _ h
  | vfadd | vfsub | vfmul | vfdiv => exact fltBin_steps _ h
  | vffma | vfmin | vfmax => exact fltForm_steps _ h
  | vfcmp => exact execVfcmp_steps _ h
  | vfrcp | vfrsq | vfsqrt | vfexp2 | vflog2 | vfsin | vfcos | vfrnd => exact fltUn_steps _ h
  | vfcvt => exact execVfcvt_steps _ h
  | vfscale => exact execVfscale_steps _ h
  | vfcma => exact execVfcma_steps _ h
  | vshfl => exact execVshfl_steps _ h
  | vbcast => exact execVbcast_steps _ h
  | vred => exact execVred_steps _ h
  | vscan => exact execVscan_steps _ h
  | vballot => exact execVballot_steps _ h
  | vpack => exact execVpack_steps _ h
  | vunpk => exact execVunpk_steps _ h
  | cend => exact execCend_steps _ h
  | brl => exact execBrl_steps _ h
  | mark => exact execMark_steps _ h
  | join => exact execJoin_steps _ h
  | mset => exact execMset_steps _ h
  | mand | mor | mnot => exact maskForm_steps _ h
  | mcnt => exact execMcnt_steps _ h
  | tbar | tbarCk | sbar => exact barForm_steps _ h
  | yield => exact execYield_steps _ h
  | vld | vldl | vldm | vlda | lkld => exact loadForm_steps _ h
  | vst | vstl | vstm | xst | vsta | lkst => exact storeForm_steps _ h
  | vgath => exact execVgath_steps _ h
  | vscat => exact execVscat_steps _ h
  | prf => exact execPrf_steps _ h
  | vaadd | vasub | vamin | vamax | vaminn | vamaxn | vaand | vaor | vaxor | vaxchg | vacas | vafadd
    => exact laneAtomicForm_steps _ h
  | laneFence => exact execLaneFence_steps _ h
  | tloadv => exact execTloadv_steps _ h
  | laneRedeem => exact execLaneRedeem_steps _ h
  | laneRedeemL => exact execLaneRedeemL_steps _ h
  | laneTxbeg => exact execLaneTxbeg_steps _ h
  | laneTxend => exact execLaneTxend_steps _ h
  | laneTxabt => exact execLaneTxabt_steps _ h
  | laneTxstat => exact execLaneTxstat_steps _ h
  | laneCpyt => exact execLaneCpyt_steps _ h
  | laneCpyl => exact execLaneCpyl_steps _ h
  | laneCpyf => exact execLaneCpyf_steps _ h
  | laneCpyg => exact execLaneCpyg_steps _ h
  | mma => exact execMma_steps _ h
  | accrd => exact execAccrd_steps _ h
  | accwr => exact execAccwr_steps _ h
  | vconf => exact execVconf_steps _ h
  | vcomb => exact execVcomb_steps _ h
  | visect | vmerge => exact listForm_steps _ h
  | vcompr => exact execVcompr_steps _ h
  | vexpd => exact execVexpd_steps _ h
  | idxld => exact execIdxld_steps _ h
  | laneAssert => exact execLaneAssert_steps _ h
  | vcsrrd => exact execVcsrrd_steps _ h
  | fallbackLockGrant => exact execFallbackLockGrant_steps _ h
  | fallbackLockRevoke => exact execFallbackLockRevoke_steps _ h
  | packageReset => exact execPackageReset_steps _ h
  | tlbInvalidateAll => exact execTlbInvalidateAll_steps _ h
  | tlbInvalidateContext => exact execTlbInvalidateContext_steps _ h
  | unusedOpcode => exact execUnusedOpcode_steps _ h
  | leadFetch => exact execLeadFetch_steps _ h

/-! ## Sys2Proof/Machine/Step.lean -/

theorem stepLead_steps : Steps stepLead := by
  intro s h
  unfold stepLead
  split
  · exact .next (raiseStreamFault_memOk h)
  · refine .ite (.next (leadTrap_memOk h)) ?_
    split
    · exact exec_steps _ h
    · rename_i hr
      have ht := (fetchLead_keeps.ok h hr).1
      split
      · exact exec_steps _ ht
      · exact exec_steps _ ht
      · exact .next (leadTrap_memOk ht)

theorem stepLane_steps : Steps stepLane := by
  intro s h
  unfold stepLane
  split
  · exact exec_steps _ h.frame
  · split
    · rename_i hp
      exact exec_steps _ (latchClause_memOk (pickClause_memOk h hp).1)
    · rename_i hp
      obtain ⟨ht, he⟩ := pickClause_memOk h hp
      exact .next (stopClause_memOk (he _ rfl) ht)
    · exact exec_steps _ h

theorem stepFocus_steps : Steps stepFocus := by
  intro _ h
  unfold stepFocus
  split
  · exact .next (takeInterrupt_memOk h)
  · exact .ite (.next h) (.ite (.next h.frame) (.ite (stepLane_steps _ h) (stepLead_steps _ h)))

theorem findReady_memOk (h : MemOk s) : MemOk (findReady s) :=
  .ite h h.frame

theorem streamTurn_steps : Steps streamTurn :=
  fun _ h => .ite (.next h) (by
    split
    · exact .next (validateNow_memOk h)
    · exact stepFocus_steps _ h.frame)

theorem turn_steps : Steps turn := by
  intro s h
  have hr : ∀ rest, MemOk { s with agenda := rest } := fun _ => h.frame
  unfold turn
  split
  · exact streamTurn_steps _ h
  · split
    · rename_i hf
      exact streamTurn_steps _ (focus_memOk h.frame hf)
    · exact .next (hr _)
  · exact .ite (exec_steps _ (.ite (findReady_memOk (hr _)) (hr _))) .fault
  · exact .next (passClocks_memOk (findReady_memOk (hr _)))
  · exact .next (passHall_memOk (findReady_memOk (hr _)))
  · exact .next h.frame
  · exact .next (performWrite_memOk (hr _))
  · exact .next h.frame
  · exact .next h.frame
  · exact .next (performLine_memOk (hr _))
  · exact .next (workSome_memOk (hr _))
  · exact .next h.frame
  · exact .next (bar0Write_memOk (hr _))
  · exact .next (remoteWrite_memOk (hr _))
  · exact .next (remoteRead_memOk (hr _))
  · exact .next h.frame
  · exact .next (landNext_memOk (hr _))
  · exact .next (missBeat_memOk (hr _))
  · exact .next h.frame
  · exact .next resetPackage_memOk

theorem step_steps : Steps step := by
  intro s h
  unfold step
  split
  · rename_i ht
    exact .next (settleStep_memOk (turn_steps s h _ ht))
  · rename_i hne
    exact fun t ht => absurd ht (hne t)

end MemForm

/-- Settles O59: a turn keeps memory in its form, and so does what follows every turn. -/
theorem memoryFormIsKept : Obligations.MemoryFormIsKept := by
  unfold Obligations.MemoryFormIsKept
  exact fun s t h hst => MemForm.step_steps s h t hst

end Sys2Proof

/-! # Sparse forms (R364 to R374)

O50. Each form with an active(M) is its walk or its check of the lanes, which the model computes from the sources, and the
writes of registers, of a mask register or of the landing that follow. -/

namespace Sys2Proof.Machine

open Sys2Proof Sys2Proof.Claims

/-! ## The fields that all share (R364, R365) -/

/-- No lane is the lowest of a mask that holds none. -/
theorem lowestLane_eq_none {m : Mask} : lowestLane m = none ↔ m = 0 := by
  rw [lowestLane, List.head?_eq_none_iff, lanesOf, List.filter_eq_nil_iff]
  refine ⟨fun h => BitVec.eq_of_getLsbD_eq fun k hk => ?_, fun h k _ => by simp [h]⟩
  simpa using h k (List.mem_range.mpr hk)

/-- X[31:28] is the top of a slot's low word. -/
theorem low_31_28 (f : LaneF) : f.low 31 28 = f.imm.toNat / 2 ^ 28 := by
  have := f.imm.isLt
  rw [LaneF.low, bitsN]
  omega

/-- The mask register that X[31:28] names is written where it is not m0. -/
theorem run_writeK (c : LaneCtx) (p : Nat → Bool) (s : State) : (writeK c p).run s = .ok ((),
    if c.f.imm.toNat / 2 ^ 28 = 0 then s else writesMask (fun _ => c.f.imm.toNat / 2 ^ 28) (fun _ _ => p) c s) := by
  unfold writeK
  rw [low_31_28]
  split <;> rfl

/-- With some lane active the instruction is its operation. -/
theorem run_unlessEmpty {c : LaneCtx} {j : Nat} (h : lowestLane c.act = some j) (m : Nat → Op Unit) (s : State) :
    (unlessEmpty c m).run s = (m j).run s := by rw [unlessEmpty, h]

/-! ## Conflicts (R366, R367) -/

/-- VCONF writes the lower lanes of each key, and a bit for each lane that has none. -/
theorem run_vconf (c : LaneCtx) (s : State) :
    (unlessEmpty c fun _ => do
      writeD c 32 fun k => (maskOf (lowerEqual c (tyBits c.f.t) k)).toNat
      writeK c fun k => (lowerEqual c (tyBits c.f.t) k).isEmpty).run s = .ok ((),
    if c.act = 0 then s
    else
      let t := onLane (Lanes.writeRes 32 c.f.d.toNat c.act fun k => (maskOf (lowerEqual c (tyBits c.f.t) k)).toNat) s
      if c.f.imm.toNat / 2 ^ 28 = 0 then t
      else writesMask (fun _ => c.f.imm.toNat / 2 ^ 28) (fun _ _ k => (lowerEqual c (tyBits c.f.t) k).isEmpty) c t) := by
  cases hj : lowestLane c.act with
  | none =>
    rw [unlessEmpty, hj, if_pos (lowestLane_eq_none.mp hj)]
    rfl
  | some j =>
    have hact : c.act ≠ 0 := fun h0 => by simp [lowestLane_eq_none.mpr h0] at hj
    rw [run_unlessEmpty hj, run_bind, if_neg hact]
    exact run_writeK c _ _

/-- The lanes that carry a key are those that no lower lane of their key precedes. -/
theorem isEmpty_lowerEqual (c : LaneCtx) (n k : Nat) : (lowerEqual c n k).isEmpty =
    (lanesOf c.act).all fun j => !(decide (j < k) && c.a j % 2 ^ n == c.a k % 2 ^ n) := by
  rw [lowerEqual, Bool.eq_iff_iff, List.isEmpty_iff, List.filter_eq_nil_iff, List.all_eq_true]
  simp only [Bool.not_eq_true, Bool.not_eq_true']

/-! ## Walks (R368 to R372) -/

/-- The rule of VISECT and VMERGE. -/
def listRule (f : LaneF) : LRule :=
  { type := f.t == 4 || f.t == 8, d := .pair, a := .one, b := .one, c := .one, x := 0xFC00, also := !f.qc }

/-- The lists that VISECT and VMERGE walk, cut where they break their order (R369). -/
def listsOf (c : LaneCtx) (j : Nat) : Lists :=
  let r := readLists c j
  cutLists (bitsN c.f.imm.toNat 26 26 == 1) r.1 r.2.1 r.2.2

/-- What a walk writes: its outputs, its result word, and a bit of the mask register for each output (R372). -/
def walkWrites (c : LaneCtx) (l : Lists) (r : Walk) (q : State) : State :=
  let t := onLane (fun x => (x.writeCol c.f.d.toNat (maskOf (List.range r.out.length))
    fun k => ((r.out[k]?).map (·.1)).getD 0).writeCol (c.f.d.toNat + 1) c.act fun _ => walkWord l.cut r) q
  if c.f.imm.toNat / 2 ^ 28 = 0 then t
  else writesMask (fun _ => c.f.imm.toNat / 2 ^ 28) (fun _ _ j => ((r.out[j]?).map (·.2)).getD false) c t

section
variable {walk : Nat → Lists → Walk} {s : State} {j : Nat} (h : LaneReady listRule s)
  (hj : lowestLane (laneIn listRule s).act = some j)
include h hj

/-- A walk that no break of the order stops writes what it gives. -/
theorem listForm_writes :
    let c := laneIn listRule s
    let dup := bitsN c.f.imm.toNat 26 26 == 1
    ((bitsN c.f.imm.toNat 27 27 == 1) = false ∨
      (orderBreak dup (readLists c j).1 = none ∧ orderBreak dup (readLists c j).2.1 = none)) →
    listForm walk s = .next (walkWrites c (listsOf c j) (walk (lowestIdle c.act) (listsOf c j)) (laneOn listRule s)) := by
  intro c dup hpass
  show runLane listRule _ s = _
  refine runLane_ok (u := ()) h ?_
  rw [run_unlessEmpty hj]
  dsimp only [LaneF.low]
  split
  · rename_i hbreak hstrict
    rcases hpass with hloose | ⟨hnone, -⟩
    · rw [hstrict] at hloose
      cases hloose
    · exact absurd (hnone.symm.trans hbreak) nofun
  · rename_i hbreak hstrict
    rcases hpass with hloose | ⟨-, hnone⟩
    · rw [hstrict] at hloose
      cases hloose
    · exact absurd (hnone.symm.trans hbreak) nofun
  · simp only [run_bind, run_onLanes, run_writeK]
    rfl

/-- With S = 1 a break of list A stops the walk at its index (R369). -/
theorem listForm_breakA {i : Nat} :
    let c := laneIn listRule s
    (bitsN c.f.imm.toNat 27 27 == 1) = true →
    orderBreak (bitsN c.f.imm.toNat 26 26 == 1) (readLists c j).1 = some i →
    listForm walk s = .next (stopLane (laneCtx s) (laneNeeds listRule s) (.frag 0x81 (BitVec.ofNat 64 i)) s) := by
  intro c hstrict hbreak
  have h27 : bitsN c.f.imm.toNat 27 27 = 1 := eq_of_beq hstrict
  show runLane listRule _ s = _
  rw [runLane_ready h, run_unlessEmpty hj]
  dsimp only [LaneF.low]
  rw [hbreak, h27]
  rfl

/-- With S = 1 a break of list B stops it where list A keeps its order. -/
theorem listForm_breakB {i : Nat} :
    let c := laneIn listRule s
    let dup := bitsN c.f.imm.toNat 26 26 == 1
    (bitsN c.f.imm.toNat 27 27 == 1) = true →
    orderBreak dup (readLists c j).1 = none → orderBreak dup (readLists c j).2.1 = some i →
    listForm walk s =
      .next (stopLane (laneCtx s) (laneNeeds listRule s) (.frag 0x81 (BitVec.ofNat 64 (i + 2 ^ 16))) s) := by
  intro c dup hstrict hnone hbreak
  have h27 : bitsN c.f.imm.toNat 27 27 = 1 := eq_of_beq hstrict
  show runLane listRule _ s = _
  rw [runLane_ready h, run_unlessEmpty hj]
  dsimp only [LaneF.low]
  rw [hnone, hbreak, h27]
  rfl

end

/-! ## Index tiles (R374) -/

section
variable {s : State} {j : Nat} (h : LaneReady idxldRule s) (hj : lowestLane (laneIn idxldRule s).act = some j)
include h hj

/-- A lane with a cause stops IDXLD. -/
theorem execIdxld_stops :
    let c := laneIn idxldRule s
    let bad := idxldCauses (laneOn idxldRule s) c (sextN 32 (c.b j) + c.f.off) (c.c j % 2 ^ 32) (lanesOf c.act).length
    bad ≠ [] → execIdxld s = .next (stopLane (laneCtx s) (laneNeeds idxldRule s) (.lanes bad .kept) s) := by
  intro c bad hbad
  unfold execIdxld
  rw [runLane_ready h, run_unlessEmpty hj]
  dsimp only
  rw [run_bind, run_get]
  dsimp only
  rw [run_ite, if_neg (show ¬ bad.isEmpty = true from fun h0 => hbad (List.isEmpty_iff.mp h0)), run_throw]

/-- Without one it writes the head of its tile and its offsets into the landing, after the release part of its order. -/
theorem execIdxld_writes :
    let c := laneIn idxldRule s
    let q := laneOn idxldRule s
    let t : Int := sextN 32 (c.b j) + c.f.off
    let start := c.c j % 2 ^ 32
    let w := tyBits c.f.t / 8
    idxldCauses q c t start (lanesOf c.act).length = [] → inAttempt c q = false → CanReleaseAt c.f.scope c.f.order q →
    execIdxld s = .next (teamStore q.me.team false (t.toNat + 16 + start * w)
      ((lanesOf c.act).flatMap fun k => leBytes w (c.a k)) (teamStore q.me.team false t.toNat (leBytes 8 (runXb q c.f.xbn).base.toNat
        ++ leBytes 2 (start + (lanesOf c.act).length) ++ leBytes 1 w ++ leBytes 5 0) (releasedAt c.f.scope c.f.order q))) := by
  intro c q t start w hbad htx hrel
  refine runLane_ok (u := ()) h ?_
  rw [run_unlessEmpty hj]
  dsimp only
  rw [run_bind, run_get]
  dsimp only
  rw [run_ite, if_pos (List.isEmpty_iff.mpr hbad), run_bind, run_laneBefore fun _ => hrel, htx]
  rfl

end

end Sys2Proof.Machine

namespace Sys2Proof

open Sys2Proof.Machine Sys2Proof.Claims

/-- Settles O50, form by form. -/
theorem sparseForms : Obligations.SparseForms := by
  unfold Obligations.SparseForms
  refine ⟨?conf, ?comb, ?lists, ⟨?compr, ?expd⟩, ?idxld⟩
  case conf => exact laneForm_of_run Exec.vconf fun c s _ => run_vconf c s
  case comb =>
    refine laneForm_of_run Exec.vcomb fun c s _ => ?_
    simp only [isEmpty_lowerEqual, run_onLanes]
    rfl
  case lists =>
    intro rule s h c q j hj a b dup strict l k wrote
    have hisect : exec .visect s = listForm (fun _ l => isect l 64 ⟨[], 0, 0⟩) s := Exec.visect s
    have hmerge : exec .vmerge s = listForm (fun z l => merge l z ⟨[], 0, 0⟩) s := Exec.vmerge s
    have hwrote (r : Walk) : wrote r = walkWrites c l r q := rfl
    rw [hisect, hmerge, hwrote, hwrote]
    exact ⟨fun hpass => ⟨listForm_writes h hj hpass, listForm_writes h hj hpass⟩,
      fun i hstrict hbreak => ⟨listForm_breakA h hj hstrict hbreak, listForm_breakA h hj hstrict hbreak⟩,
      fun i hstrict hnone hbreak => ⟨listForm_breakB h hj hstrict hnone hbreak, listForm_breakB h hj hstrict hnone hbreak⟩⟩
  case compr => exact laneForm_of_run Exec.vcompr fun _ _ _ => rfl
  case expd => exact laneForm_of_run Exec.vexpd fun _ _ _ => rfl
  case idxld =>
    intro s h c q j hj t start lanes w bad q1
    exact ⟨fun hbad => (Exec.idxld s).trans (execIdxld_stops h hj hbad),
      fun hbad htx hrel => (Exec.idxld s).trans (execIdxld_writes h hj hbad htx hrel)⟩

end Sys2Proof

/-! # Writes of registers (R425 to R429, R483, R484, R492)

O21. A register write is its store, but for the three registers whose write checks a field first; a counter that is cleared
reads 0 at its own offset. -/

namespace Sys2Proof.Machine

open Sys2Proof Sys2Proof.Claims

/-! ## The writes of R428 and R429 -/

/-- A register without an effect of its own is stored. -/
theorem csrWrite_store {c : Nat} (htlb : c ≠ 0x116) (hcreate : c ≠ 0x11C) (hswitch : c ≠ 0x11D) (v : Word) :
    csrWrite c v = modify (csrStore c v) := by
  unfold csrWrite
  split
  · exact absurd rfl htlb
  · exact absurd rfl hcreate
  · exact absurd rfl hswitch
  · rfl

/-- A write of CURCTX that passes its checks switches to its context. -/
theorem run_csrWrite_curctx {s : State} {v : Word} (hlive : slice v 15 0 = 0 ∨ liveCtx s (slice v 15 0) = true)
    (hready : CanSwitch s) : (csrWrite 0x11D v).run s = .ok ((), switchCtx (slice v 15 0) s) := by
  obtain ⟨houtbound, htickets, hlocked⟩ := hready
  have hfield : (slice v 15 0 == 0 || liveCtx s (slice v 15 0)) = true := by
    rcases hlive with h | h <;> simp [h]
  simp only [csrWrite, run_bind, run_get, run_needField, hfield, if_true, houtbound, htickets, hlocked, Bool.and_self,
    Bool.not_false, run_readyIf_true, run_modify]

/-- A context of 0 or one that is live is not created again. -/
theorem createCtx_of_live {n : Nat} {s : State} (h : n = 0 ∨ ctx? s n ≠ none) : createCtx n s = s :=
  if_pos (h.imp_right Option.isSome_iff_ne_none.mpr)

/-- A context that is not live becomes live with the registers of its creation. -/
theorem createCtx_of_none {n : Nat} {s : State} (hn : n ≠ 0) (h : ctx? s n = none) :
    createCtx n s = { s with ctxs := Ctx.fresh n :: s.ctxs } :=
  if_neg (by simp [hn, h])

/-- The low half of a number of 16 bits, extended. -/
theorem slice_setWidth_16 (n : BitVec 16) : slice (n.setWidth 64) 15 0 = n.toNat := by
  have hn := n.isLt
  simp only [slice, bitsN, BitVec.toNat_setWidth]
  omega

/-- CURCTX_WRITE of a context that its core may bind. -/
theorem execCurctxWrite_switch {s : State} {n : BitVec 16} (hhost : s.me.isHost = true)
    (hlive : n = 0 ∨ liveCtx s n.toNat = true) (hready : CanSwitch s) : execCurctxWrite n s = .next (switchCtx n.toNat s) := by
  have hlow := slice_setWidth_16 n
  have hwrite := run_csrWrite_curctx (v := n.setWidth 64)
    (by rw [hlow]; exact hlive.imp_left fun h => by rw [h]; rfl) hready
  rw [hlow] at hwrite
  exact runEvent_ok (by rw [run_bind, run_get]; dsimp only; rw [hhost, run_bind, run_readyIf_true]; exact hwrite)

/-- REGISTER_WRITE of a register without an effect of its own. -/
theorem execRegisterWrite_store {s : State} {c : BitVec 10} (hc : csrNames s.me c.toNat = true) (htlb : c.toNat ≠ 0x116)
    (hcreate : c.toNat ≠ 0x11C) (hswitch : c.toNat ≠ 0x11D) (v : Word) :
    execRegisterWrite c v s = .next (csrStore c.toNat v s) :=
  runEvent_ok (u := ()) (by
    rw [run_bind, run_get]
    simp only [csrRead, hc, if_true, Option.isSome_some, run_bind, run_readyIf_true, csrWrite_store htlb hcreate hswitch,
      run_modify])

/-! ## Counters (R483) -/

/-- A counter that is cleared reads 0. -/
theorem devRead_counterClear (s : State) {off : Nat} (h : off = 0x100 ∨ off = 0x108 ∨ off = 0x8200 ∨
    (0x8000 ≤ off ∧ off < 0x8030) ∨ (0x8100 ≤ off ∧ off < 0x81A0)) :
    devRead { s with dev := counterClear off s.dev } off = 0 := by
  rcases h with rfl | rfl | rfl | ⟨hlo, hhi⟩ | ⟨hlo, hhi⟩
  · rfl
  · rfl
  · rfl
  · have hreads (d : Dev) : vget (vset d.stretch ((off - 0x8000) / 8) 0) ((off - 0x8000) / 8) = 0 := by
      rw [vget_vset _ (by omega) (by omega), if_pos rfl]
    have hclear : counterClear off s.dev = { s.dev with stretch := vset s.dev.stretch ((off - 0x8000) / 8) 0 } := by
      rw [counterClear, if_neg (by omega), if_neg (by omega), if_neg (by omega), if_pos ⟨hlo, hhi⟩]
    unfold devRead
    rw [hclear]
    by_cases halign : off % 8 ≠ 0
    · exact if_pos halign
    · rw [if_neg halign, if_neg (by omega), if_neg (by omega), if_neg (by omega), if_neg (by omega), if_neg (by omega),
        if_pos ⟨hlo, hhi⟩]
      exact hreads s.dev
  · have hreads (d : Dev) : vget (vset d.linkerr ((off - 0x8100) / 8) 0) ((off - 0x8100) / 8) = 0 := by
      rw [vget_vset _ (by omega) (by omega), if_pos rfl]
    have hclear : counterClear off s.dev = { s.dev with linkerr := vset s.dev.linkerr ((off - 0x8100) / 8) 0 } := by
      rw [counterClear, if_neg (by omega), if_neg (by omega), if_neg (by omega), if_neg (by omega), if_pos ⟨hlo, hhi⟩]
    unfold devRead
    rw [hclear]
    by_cases halign : off % 8 ≠ 0
    · exact if_pos halign
    · rw [if_neg halign, if_neg (by omega), if_neg (by omega), if_neg (by omega), if_neg (by omega), if_neg (by omega),
        if_neg (by omega), if_pos ⟨hlo, hhi⟩]
      exact hreads s.dev

end Sys2Proof.Machine

namespace Sys2Proof

open Sys2Proof.Machine Sys2Proof.Claims

/-- Settles O21: each step is its store; what a check asks for is in the hypotheses, and a created context has the registers
of `Ctx.fresh`. -/
theorem registerWriteEvents : Obligations.RegisterWriteEvents := by
  unfold Obligations.RegisterWriteEvents
  refine fun s => ⟨rfl, rfl, fun va k => rfl, fun n hn hnone => ?_, fun n hn => ?_, fun n hhost hlive hready => ?_,
    fun v hgroup => ?_, fun n v => rfl, fun n ctl v => rfl, fun off _ => ?_, fun v => rfl, fun c v hc htlb hcreate hswitch => ?_⟩
  · have hzero : n.toNat ≠ 0 := fun h => hn (BitVec.eq_of_toNat_eq h)
    exact ⟨_, (Exec.ctxctlCreate s).trans (congrArg Host.Outcome.next (createCtx_of_none hzero hnone)), rfl, Ctx.fresh n.toNat, rfl,
      rfl, rfl, rfl, rfl, rfl, rfl, rfl, rfl⟩
  · have hzero : n.toNat = 0 ∨ ctx? s n.toNat ≠ none := hn.imp_left fun h => by rw [h]; rfl
    exact (Exec.ctxctlCreate s).trans (congrArg Host.Outcome.next (createCtx_of_live hzero))
  · exact (Exec.curctxWrite s).trans (execCurctxWrite_switch hhost hlive hready)
  · exact (Exec.lswzWrite s).trans (congrArg Host.Outcome.next (if_neg (by rw [hgroup]; exact Bool.false_ne_true)))
  · exact ⟨_, Exec.counterClear s, rfl, devRead_counterClear s⟩
  · exact (Exec.registerWrite s).trans (execRegisterWrite_store hc htlb hcreate hswitch v)

end Sys2Proof

/-! # Requests to halt and to pre-empt (R450, R451)

O20. The four forms pass the same two checks first; what is left of a form that names a context depends on whether the context
is there, and whether the issuer itself belongs to it. -/

namespace Sys2Proof.Machine

open Sys2Proof Sys2Proof.Claims

/-! ## Privileged forms outside transactions -/

section
variable {s : State} {f : Unit → Op Unit}

/-- What is left of a privileged form, outside a transaction, once these checks have passed. -/
theorem runLead_supForm (hsup : s.me.sup = true) (htx : s.me.tx.active = false) :
    runLead (needSup >>= fun _ => notInTx >>= f) s = runLead (f ()) s := by
  refine (runLead_bind_ok (x := ()) ?_).trans (runLead_bind_ok (x := ()) ?_)
  · rw [run_needSup, Laws.onward_sup, hsup, if_pos rfl]
  · rw [run_notInTx, Laws.onward_tx, htx]
    rfl

/-- A form that is nothing but a change of the state. -/
theorem runLead_modify (g : State → State) : runLead (modify g) s = .next (g (onward s)) :=
  runLead_ok (run_modify g _)

/-- A form that waits with a request made. -/
theorem runLead_park (g : State → State) : runLead (throw (.park g)) s = .next (g s) :=
  runLead_error (e := .park g) rfl

/-- A change that is made at once, or asked for by an issuer that waits. -/
theorem runLead_modify_or_park (p : Prop) [Decidable p] (g : State → State) :
    runLead (if p then modify g else throw (.park g)) s = if p then .next (g (onward s)) else .next (g s) := by
  split
  · exact runLead_modify g
  · exact runLead_park g

end

/-! ## HALTP.ctx (R450) -/

/-- The context that a HALTP.ctx names: the issuer's own where the register names none. -/
def haltedCtx (s : State) (a : Reg) : Nat :=
  if slice (s.me.sreg a) 15 0 = 0 then s.me.ctx else slice (s.me.sreg a) 15 0

/-- The context that the form looks up. -/
theorem ctx_haltedCtx (s : State) (a : Reg) : ctx? (onward s) (if slice (s.me.sreg a) 15 0 = 0 then (onward s).me.ctx
    else slice (s.me.sreg a) 15 0) = ctx? s (haltedCtx s a) := rfl

section
variable {s : State} {a : Reg} {c : Ctx} (hsup : s.me.sup = true) (htx : s.me.tx.active = false)
include hsup htx

/-- A context that is live ends, in this step where nothing is left to wait for. -/
theorem execHaltpCtx_live (hc : ctx? s (haltedCtx s a) = some c) (hend : c.ending = false) :
    execHaltpCtx a s =
      if (ctx? (endContext (haltedCtx s a) (onward s)) (haltedCtx s a)).isNone || (!s.me.isHost && s.me.ctx == haltedCtx s a)
      then .next (endContext (haltedCtx s a) (onward s)) else .next (endContext (haltedCtx s a) s) := by
  refine (runLead_supForm hsup htx).trans (runLead_get.trans (runLead_reg.trans ?_))
  dsimp only
  rw [ctx_haltedCtx, hc]
  exact (runLead_readyIf_true (by rw [hend]; rfl)).trans (runLead_modify_or_park _ _)

/-- A context whose end is under way is waited for. -/
theorem execHaltpCtx_ending (hc : ctx? s (haltedCtx s a) = some c) (hend : c.ending = true) :
    execHaltpCtx a s = .next s := by
  refine (runLead_supForm hsup htx).trans (runLead_get.trans (runLead_reg.trans ?_))
  dsimp only
  rw [ctx_haltedCtx, hc]
  exact runLead_readyIf_false (f := fun _ => _) (by rw [hend]; rfl)

/-- A context that is gone has ended. -/
theorem execHaltpCtx_gone (hc : ctx? s (haltedCtx s a) = none) (hn : haltedCtx s a ≠ 0) :
    execHaltpCtx a s = .next (onward s) := by
  refine (runLead_supForm hsup htx).trans (runLead_get.trans (runLead_reg.trans ?_))
  dsimp only
  rw [ctx_haltedCtx, hc]
  refine runLead_ok (u := ()) ?_
  rw [show ((if slice (s.me.sreg a) 15 0 = 0 then (onward s).me.ctx else slice (s.me.sreg a) 15 0) != 0) = true from
    bne_iff_ne.mpr hn, Bool.true_or, run_readyIf_true]

/-! ## HALTP.part (R445, R450) -/

/-- The record that a HALTP.part writes of itself. -/
def haltRecord (s : State) (a : Reg) : Halt :=
  ⟨raiserOf s, slice (s.me.sreg a) 7 0, 0, s.issue.pc, s.me.laneSlot, 0, s.me.ctx, s.me.slot, partClock s s.me.part,
    s.clocks.fabric, !s.me.isHost, [], [], false⟩

/-- HALTP.part raises the line of the issuer's partition; a host core's record takes two free values. -/
theorem execHaltpPart_eq : execHaltpPart a s = .next
    { raiseHalt s.me.part (haltRecord s a) (onward s) with free := if s.me.isHost then s.free + 2 else s.free } :=
  (runLead_supForm hsup htx).trans (runLead_get.trans (runLead_reg.trans (runLead_modify _)))

/-! ## PREEMPT (R451) -/

/-- PREEMPT.sus of a context that is live: it completes at once for the issuer's own, or with no squad left to save. -/
theorem execPreemptSus_live (hc : ctx? s (slice (s.me.sreg a) 15 0) ≠ none) :
    execPreemptSus a s =
      if (!s.me.isHost && s.me.ctx == slice (s.me.sreg a) 15 0) || !s.squads.any (fun q => q.ctx == slice (s.me.sreg a) 15 0)
      then .next (suspendCtx (slice (s.me.sreg a) 15 0) (onward s)) else .next (suspendCtx (slice (s.me.sreg a) 15 0) s) := by
  refine (runLead_supForm hsup htx).trans (runLead_get.trans (runLead_reg.trans ?_))
  dsimp only
  rw [if_neg (by rw [Option.isNone_iff_eq_none]; exact hc)]
  exact runLead_modify_or_park _ _

/-- PREEMPT.sus of a context that is not there. -/
theorem execPreemptSus_gone (hc : ctx? s (slice (s.me.sreg a) 15 0) = none) : execPreemptSus a s = .next (onward s) := by
  refine (runLead_supForm hsup htx).trans (runLead_get.trans (runLead_reg.trans ?_))
  rw [if_pos (show (ctx? (onward s) _).isNone = true from Option.isNone_iff_eq_none.mpr hc)]
  exact runLead_ok (run_pure () _)

/-- PREEMPT.res lifts the suspension. -/
theorem execPreemptRes_eq : execPreemptRes a s = .next { onward s with
    ctxs := mapIf (fun c => c.id == slice (s.me.sreg a) 15 0) (fun c => { c with suspended := false, asserted := false }) s.ctxs } :=
  (runLead_supForm hsup htx).trans (runLead_reg.trans (runLead_modify _))

end

/-- An issuer outside a context is not one of its groups. -/
theorem not_ownGroup {r : Runner} {n : Nat} (h : r.isHost = true ∨ r.ctx ≠ n) : (!r.isHost && r.ctx == n) = false := by
  rcases h with h | h
  · rw [h]; rfl
  · rw [beq_false_of_ne h, Bool.and_false]

end Sys2Proof.Machine

namespace Sys2Proof

open Sys2Proof.Machine Sys2Proof.Claims

/-- Settles O20: each form by the context that it names, and by whether it is the issuer's own. -/
theorem haltAndPreemptRequests : Obligations.HaltAndPreemptRequests := by
  unfold Obligations.HaltAndPreemptRequests
  intro s a hsup htx x n
  refine ⟨fun c hc hend => ⟨fun hover => ?_, fun hleft hother => ?_, fun hgroup hown => ?_⟩, fun c hc hend => ?_,
    fun hc hn => ?_, fun hgroup => ?_, ⟨_, (Exec.haltpPart s).trans (execHaltpPart_eq hsup htx), rfl, fun p hp hpart hline => ?_⟩,
    fun hc => ?_, fun hc hnone => ?_, fun hc hsome hother => ?_, fun hc hgroup hown => ?_, ?_⟩
  · rw [Exec.haltpCtx, execHaltpCtx_live hsup htx hc hend]
    exact if_pos (by rw [show (ctx? (endContext (haltedCtx s a) (onward s)) (haltedCtx s a)).isNone = true from hover]; rfl)
  · rw [Exec.haltpCtx, execHaltpCtx_live hsup htx hc hend]
    refine if_neg ?_
    rw [show (ctx? (endContext (haltedCtx s a) (onward s)) (haltedCtx s a)).isNone = false from hleft, Bool.false_or,
      show (!s.me.isHost && s.me.ctx == haltedCtx s a) = false from not_ownGroup hother]
    exact Bool.false_ne_true
  · rw [Exec.haltpCtx, execHaltpCtx_live hsup htx hc hend]
    refine if_pos ?_
    rw [show (s.me.ctx == haltedCtx s a) = true from beq_iff_eq.mpr hown, hgroup]
    exact Bool.or_true _
  · exact (Exec.haltpCtx s).trans (execHaltpCtx_ending hsup htx hc hend)
  · exact (Exec.haltpCtx s).trans (execHaltpCtx_gone hsup htx hc hn)
  · rw [Exec.haltpPart, execHaltpPart_eq hsup htx, haltRecord, raiserOf, hgroup]
    rfl
  · exact ⟨haltRecord s a, List.mem_map.mpr ⟨p, hp, by simp [hpart, hline]⟩, rfl, rfl⟩
  · exact (Exec.preemptSus s).trans (execPreemptSus_gone hsup htx hc)
  · rw [Exec.preemptSus, execPreemptSus_live hsup htx hc]
    exact if_pos (by rw [show (s.squads.any fun q => q.ctx == slice (s.me.sreg a) 15 0) = false from hnone]; exact Bool.or_true _)
  · rw [Exec.preemptSus, execPreemptSus_live hsup htx hc]
    refine if_neg ?_
    rw [show (s.squads.any fun q => q.ctx == slice (s.me.sreg a) 15 0) = true from hsome, not_ownGroup hother]
    exact Bool.false_ne_true
  · rw [Exec.preemptSus, execPreemptSus_live hsup htx hc]
    refine if_pos ?_
    rw [show (s.me.ctx == slice (s.me.sreg a) 15 0) = true from beq_iff_eq.mpr hown, hgroup]
    rfl
  · exact (Exec.preemptRes s).trans (execPreemptRes_eq hsup htx)

end Sys2Proof

/-! # Assertions, checkpoints and injectors (R441 to R443, R470, R472)

O22. The lead forms pass their first checks and then do one thing; the lane ASSERT turns on the lowest lane of active(M) that
holds 0. -/

namespace Sys2Proof.Machine

open Sys2Proof Sys2Proof.Claims

/-! ## The lead ASSERT (R441, R443) -/

section
variable {s : State} {a b : Reg} (htx : s.me.tx.active = false)
include htx

/-- An assertion that holds. -/
theorem execAssert_holds (h : s.me.sreg a ≠ 0) : execAssert a b s = .next (onward s) := by
  refine (runLead_notInTx htx).trans (runLead_get.trans (runLead_reg.trans ?_))
  rw [if_pos h]
  exact runLead_ok (run_pure () _)

/-- One that fails on a host core. -/
theorem execAssert_host (h : s.me.sreg a = 0) (hhost : s.me.isHost = true) :
    execAssert a b s = .next (leadTrap 0xB1 (s.me.sreg b) s.issue.pc s) := by
  refine (runLead_notInTx htx).trans (runLead_get.trans (runLead_reg.trans ?_))
  rw [if_neg (not_not_intro h), Laws.onward_isHost, hhost, Bool.true_or, if_pos rfl]
  exact runLead_reg.trans (runLead_error (e := .trap 0xB1 (s.me.sreg b)) (run_stopTrap _ _ _))

/-- One that fails in a group, where no other has suspended the context. -/
theorem execAssert_group (h : s.me.sreg a = 0) (hgroup : s.me.isHost = false) (htrap : s.me.inTrap = false)
    (hwaits : assertWaits s = false) : execAssert a b s = .next (assertFail (s.me.sreg b) s.issue.pc 0 s.me.l.live 0xFF
      (ends (fun r => { r with epc := s.issue.next }) s)) := by
  refine (runLead_notInTx htx).trans (runLead_get.trans (runLead_reg.trans ?_))
  rw [if_neg (not_not_intro h), Laws.onward_isHost, hgroup, show (onward s).me.inTrap = false from htrap, Bool.or_self,
    if_neg Bool.false_ne_true, show assertWaits (onward s) = false from hwaits, if_neg Bool.false_ne_true]
  exact runLead_ok (u := ()) rfl

end

/-! ## Checkpoints (R470) -/

section
variable {s : State} {a b d : Reg} (hsup : s.me.sup = true) (htx : s.me.tx.active = false)
include hsup htx

/-- CKPT.pool with a base and a size of whole 64 KiB, while no team of the context holds pool space. -/
theorem execCkptPool_ok (hbase : slice (s.me.sreg a) 15 0 = 0) (hsize : slice (s.me.sreg b) 15 0 = 0)
    (hheld : poolHeld s s.me.ctx = false) : execCkptPool a b s = .next (setCtxReg
      (fun c => { c with poolBase := (s.me.sreg a).toNat, poolSize := (s.me.sreg b).toNat }) (onward s)) := by
  refine (runLead_supForm hsup htx).trans (runLead_reg.trans (runLead_reg.trans
    ((runLead_need_true (beq_iff_eq.mpr hbase)).trans ((runLead_need_true (beq_iff_eq.mpr hsize)).trans
    (runLead_get.trans ((runLead_readyIf_true ?_).trans (runLead_modify _)))))))
  rw [show poolHeld (onward s) (onward s).me.ctx = false from hheld]
  rfl

/-- CKPT.pool with another base. -/
theorem execCkptPool_misaligned (hbase : slice (s.me.sreg a) 15 0 ≠ 0) :
    execCkptPool a b s = .next (leadTrap 0x24 (s.me.sreg a) s.issue.pc s) :=
  (runLead_supForm hsup htx).trans (runLead_reg.trans (runLead_reg.trans (runLead_need_false (f := fun _ => _)
    (beq_false_of_ne hbase))))

/-- CKPT.stat on a group. -/
theorem execCkptStat_group (hgroup : s.me.isHost = false) :
    execCkptStat d s = .next (writes d (ckptWord ((myTeam s).bind (·.ck))) s) :=
  (runLead_needGroup_group hgroup).trans ((runLead_supForm hsup htx).trans (runLead_get.trans (runLead_ok (run_setReg _ _ _))))

/-- CKPT.rb on a group. -/
theorem execCkptRb_group (hgroup : s.me.isHost = false) :
    execCkptRb s = .next (fatalGroup 0xA1 0 s.me.l.live s.me.laneSlot s) :=
  (runLead_needGroup_group hgroup).trans ((runLead_supForm hsup htx).trans (runLead_park _))

/-! ## Injectors (R472) -/

/-- The injector that an INJARM arms. -/
def armedBy (s : State) (a b : Reg) (rep : Bool) : Injector :=
  let v := s.me.sreg a
  ⟨slice v 23 16, v.getLsbD 15, slice v 63 32, slice v 31 29, slice v 11 8, s.me.sreg b, rep⟩

/-- An arming that holds no reserved value replaces the earlier one of its link direction. -/
theorem armForm_ok (rep : Bool) (hok : injectorOk (s.me.sreg a) = true) : armForm a b rep s = .next
    (let i := armedBy s a b rep
     let rest := s.injectors.filter fun j => !(j.link == i.link && j.dir == i.dir)
     { onward s with injectors := if i.n = 0 ∨ i.act = 0 then rest else i :: rest }) := by
  refine (runLead_supForm hsup htx).trans (runLead_reg.trans ((runLead_bind_ok (x := ()) ?_).trans
    (runLead_reg.trans (runLead_modify _))))
  rw [run_needField, hok, if_pos rfl]

/-- An arming that holds one. -/
theorem armForm_reserved (rep : Bool) (hok : injectorOk (s.me.sreg a) = false) :
    armForm a b rep s = .next (leadTrap 0x02 s.issue.pc s.issue.pc s) := by
  refine (runLead_supForm hsup htx).trans (runLead_reg.trans (runLead_bind_error (e := .trap 0x02 s.issue.pc) ?_))
  rw [run_needField, hok, if_neg Bool.false_ne_true]
  rfl

end

/-! ## The lane ASSERT (R442, R443) -/

section
variable {s : State} (hready : LaneReady laneAssertRule s)
include hready

/-- The lanes of active(M) that hold 0. -/
def failing (c : LaneCtx) : List Nat := (lanesOf c.act).filter fun k => c.a k == 0

/-- Where no lane fails. -/
theorem execLaneAssert_holds (h : failing (laneIn laneAssertRule s) = []) :
    execLaneAssert s = .next (laneOn laneAssertRule s) := by
  refine runLane_ok (u := ()) hready ?_
  rw [run_bind, run_get]
  simp only
  rw [show (lanesOf (laneIn laneAssertRule s).act).filter (fun k => (laneIn laneAssertRule s).a k == 0) = [] from h]
  rfl

/-- A lane that fails in a handler stops its fragment. -/
theorem execLaneAssert_handler {k : Nat} {ks : List Nat} (h : failing (laneIn laneAssertRule s) = k :: ks)
    (htrap : (laneOn laneAssertRule s).me.inTrap = true) : execLaneAssert s = .next (stopLane (laneCtx s)
      (laneNeeds laneAssertRule s) (.frag 0xB1 (BitVec.ofNat 64 ((laneIn laneAssertRule s).b k))) s) := by
  unfold execLaneAssert
  rw [runLane_ready hready, run_bind, run_get]
  simp only
  rw [show (lanesOf (laneIn laneAssertRule s).act).filter (fun k => (laneIn laneAssertRule s).a k == 0) = k :: ks from h]
  simp only [htrap, if_true, run_bind, run_throw]

/-- A lane that fails outside a handler, where no other ASSERT has suspended the context. -/
theorem execLaneAssert_fails {k : Nat} {ks : List Nat} (h : failing (laneIn laneAssertRule s) = k :: ks)
    (htrap : (laneOn laneAssertRule s).me.inTrap = false) (hwaits : assertWaits (laneOn laneAssertRule s) = false) :
    let c := laneIn laneAssertRule s
    let q := laneOn laneAssertRule s
    execLaneAssert s = .next (stopLanes (assertFail (BitVec.ofNat 64 (c.b k)) (slotAddr q c.slot) c.slot
      (maskOf (failing c)) k (onLane (fun l => { l with lpc := BitVec.ofNat 22 (c.slot + 1) }) q))) := by
  refine runLane_ok (u := ()) hready ?_
  rw [run_bind, run_get]
  simp only
  rw [h, show (lanesOf (laneIn laneAssertRule s).act).filter (fun k => (laneIn laneAssertRule s).a k == 0) = k :: ks from h]
  simp only [htrap, hwaits, Bool.false_eq_true, if_false, run_bind]
  rfl

end

/-- The lane ASSERT by its lowest failing lane. -/
theorem laneAssert : LaneAssert := by
  intro s hready
  refine ⟨fun h => (Exec.laneAssert s).trans (execLaneAssert_holds hready h), fun k hk => ?_⟩
  obtain ⟨ks, hks⟩ := List.head?_eq_some_iff.mp hk
  exact ⟨fun htrap => (Exec.laneAssert s).trans (execLaneAssert_handler hready hks htrap), fun htrap hwaits =>
    (Exec.laneAssert s).trans (execLaneAssert_fails hready hks htrap hwaits)⟩

/-- The lead forms by what they find. -/
theorem assertAndCheckpointForms : AssertAndCheckpointForms := by
  intro s d a b htx
  refine ⟨fun h => (Exec.assert s).trans (execAssert_holds htx h), fun h hhost =>
    (Exec.assert s).trans (execAssert_host htx h hhost), fun h hgroup htrap hwaits =>
    (Exec.assert s).trans (execAssert_group htx h hgroup htrap hwaits), fun hsup => ⟨fun hbase hsize hheld =>
    (Exec.ckptPool s).trans (execCkptPool_ok hsup htx hbase hsize hheld), fun hbase =>
    (Exec.ckptPool s).trans (execCkptPool_misaligned hsup htx hbase), fun hgroup =>
    ⟨(Exec.ckptStat s).trans (execCkptStat_group hsup htx hgroup), (Exec.ckptRb s).trans (execCkptRb_group hsup htx hgroup)⟩,
    fun hok => ⟨(Exec.injarm s).trans (armForm_ok hsup htx false hok), (Exec.injarmRep s).trans (armForm_ok hsup htx true hok)⟩,
    fun hok => ⟨(Exec.injarm s).trans (armForm_reserved hsup htx false hok),
      (Exec.injarmRep s).trans (armForm_reserved hsup htx true hok)⟩⟩⟩

end Sys2Proof.Machine

namespace Sys2Proof

open Sys2Proof.Machine Sys2Proof.Claims

/-- Settles O22: the lead forms and the lane form, each by the branch that its operands and its runner take. -/
theorem assertAndCheckpoints : Obligations.AssertAndCheckpoints := by
  unfold Obligations.AssertAndCheckpoints
  exact ⟨assertAndCheckpointForms, laneAssert⟩

end Sys2Proof

/-! # Control registers (R409, R425 to R431)

O17. A register form is the check of its number and its level, then the write, then the old value; what a register keeps of a
write is one line for each field of the state, and one lemma for each list of contexts, partitions, teams and slices. -/

namespace Sys2Proof.Machine

open Sys2Proof Sys2Proof.Claims

/-! ## The forms (R430) -/

section
variable {s : State} {c : BitVec 10} (hname : csrNames s.me c.toNat = true) (hsup : 0x100 ≤ c.toNat → s.me.sup = true)
include hname hsup

/-- A register that is named, at a level that may read it, answers its value. -/
theorem run_csrNamed_ok : (csrNamed c).run (onward s) = .ok (csrValue s c.toNat, onward s) := by
  have hread : csrRead (onward s) c.toNat = some (csrValue s c.toNat) := if_pos hname
  by_cases hlevel : 0x100 ≤ c.toNat
  · simp only [csrNamed, run_bind, run_get, hread, if_pos hlevel, run_needSup, Laws.onward_sup, hsup hlevel, if_true, run_pure]
  · simp only [csrNamed, run_bind, run_get, hread, if_neg hlevel, run_pure]

/-- CSRRD (R430). -/
theorem execCsrrd_ok (d : Reg) : execCsrrd d c s = .next (writes d (csrValue s c.toNat) s) :=
  (runLead_bind_ok (run_csrNamed_ok hname hsup)).trans (runLead_ok (run_setReg _ _ _))

variable {d a : Reg} {f : Word → Word → Word} (htx : s.me.tx.active = false)
include htx

/-- A form whose write is carried out delivers the old value. -/
theorem csrForm_ok {t : State}
    (hwrite : (csrWrite c.toNat (f (csrValue s c.toNat) (s.me.sreg a))).run (onward s) = .ok ((), t)) :
    csrForm d a c f s = .next { t with me := { t.me with s := sregSet t.me.s d (csrValue s c.toNat) } } := by
  refine (runLead_bind_ok (run_csrNamed_ok hname hsup)).trans ((runLead_notInTx htx).trans
    (runLead_reg.trans (runLead_ok (u := ()) ?_)))
  rw [run_bind_ok hwrite, run_setReg]

/-- A form whose write is refused traps. -/
theorem csrForm_error {n : Nat} {w : Word}
    (hwrite : (csrWrite c.toNat (f (csrValue s c.toNat) (s.me.sreg a))).run (onward s) = .error (.trap n w)) :
    csrForm d a c f s = .next (leadTrap n w s.issue.pc s) :=
  (runLead_bind_ok (run_csrNamed_ok hname hsup)).trans ((runLead_notInTx htx).trans
    (runLead_reg.trans (runLead_bind_error hwrite)))

end

/-! ## Writes that check a field (R428, R429) -/

/-- A write of TLBINV. -/
theorem run_csrWrite_tlbinv (v : Word) (s : State) : (csrWrite 0x116 v).run s =
    if slice v 7 2 = 0 then .ok ((), tlbWrite v s) else .error (.trap 0x02 s.issue.pc) := by
  simp only [csrWrite, run_bind, run_needField, beq_iff_eq]
  by_cases h : slice v 7 2 = 0
  · simp only [h, if_true, run_modify]
  · simp only [h, if_false]

/-- A write of CTXCTL. -/
theorem run_csrWrite_ctxctl (v : Word) (s : State) : (csrWrite 0x11C v).run s =
    if slice v 63 17 = 0 ∧ v.getLsbD 16 = true ∧ slice v 15 0 ≠ 0 then .ok ((), createCtx (slice v 15 0) s)
    else .error (.trap 0x02 s.issue.pc) := by
  simp only [csrWrite, run_bind, run_needField, Bool.and_eq_true, beq_iff_eq, bne_iff_ne, and_assoc]
  by_cases h : slice v 63 17 = 0 ∧ v.getLsbD 16 = true ∧ slice v 15 0 ≠ 0
  · rw [if_pos h, if_pos h]
    rfl
  · rw [if_neg h, if_neg h]

/-- A write of CURCTX with a context that no core may bind. -/
theorem run_csrWrite_curctx_error {v : Word} {s : State} (h : ¬ (slice v 15 0 = 0 ∨ liveCtx s (slice v 15 0) = true)) :
    (csrWrite 0x11D v).run s = .error (.trap 0x02 s.issue.pc) := by
  have hfield : (slice v 15 0 == 0 || liveCtx s (slice v 15 0)) = false := by
    rw [Bool.eq_false_iff]
    simpa using h
  simp only [csrWrite, run_bind, run_get, run_needField, hfield, Bool.false_eq_true, if_false]

/-- The three forms that write agree in all but the value that they write. -/
theorem csrForms : CsrForms := by
  intro s d a c hname hsup old x done
  refine ⟨(Exec.csrrd s).trans (execCsrrd_ok hname hsup d), fun htx => ?_⟩
  have hstores (f : Word → Word → Word) (i : Instr) (hi : exec i s = csrForm d a c f s) :
      let v := f old x
      let refused := exec i s = .next (leadTrap 0x02 s.issue.pc s.issue.pc s)
      let n := slice v 15 0
      (c.toNat ≠ 0x116 → c.toNat ≠ 0x11C → c.toNat ≠ 0x11D → exec i s = done (csrStore c.toNat v (onward s))) ∧
      (c.toNat = 0x116 → if slice v 7 2 = 0 then exec i s = done (tlbWrite v (onward s)) else refused) ∧
      (c.toNat = 0x11C →
        if slice v 63 17 = 0 ∧ v.getLsbD 16 = true ∧ n ≠ 0 then exec i s = done (createCtx n (onward s)) else refused) ∧
      (c.toNat = 0x11D →
        if n = 0 ∨ liveCtx s n = true then CanSwitch (onward s) → exec i s = done (switchCtx n (onward s)) else refused) := by
    intro v refused n
    refine ⟨fun htlb hcreate hswitch => ?_, fun hc => ?_, fun hc => ?_, fun hc => ?_⟩
    · refine hi.trans (csrForm_ok hname hsup htx ?_)
      rw [csrWrite_store htlb hcreate hswitch, run_modify]
    · have hwrite := run_csrWrite_tlbinv v (onward s)
      rw [← hc] at hwrite
      split
      next h => exact hi.trans (csrForm_ok hname hsup htx (hwrite.trans (if_pos h)))
      next h => exact hi.trans (csrForm_error hname hsup htx (hwrite.trans (if_neg h)))
    · have hwrite := run_csrWrite_ctxctl v (onward s)
      rw [← hc] at hwrite
      split
      next h => exact hi.trans (csrForm_ok hname hsup htx (hwrite.trans (if_pos h)))
      next h => exact hi.trans (csrForm_error hname hsup htx (hwrite.trans (if_neg h)))
    · split
      next h =>
        intro hready
        have hwrite := run_csrWrite_curctx (s := onward s) (v := v) h hready
        rw [← hc] at hwrite
        exact hi.trans (csrForm_ok hname hsup htx hwrite)
      next h =>
        have hwrite := run_csrWrite_curctx_error (s := onward s) (v := v) h
        rw [← hc] at hwrite
        exact hi.trans (csrForm_error hname hsup htx hwrite)
  exact ⟨hstores (fun _ x => x) _ (Exec.csrwr s), hstores (fun old x => old ||| x) _ (Exec.csrset s),
    hstores (fun old x => old &&& ~~~x) _ (Exec.csrclr s)⟩

/-! ## What a list holds after one of its members has changed -/

/-- The member of a number is found again after it has changed in place, with its number. -/
theorem find?_mapIf_self {α : Type} {key : α → Nat} {f : α → α} (hf : ∀ x, key (f x) = key x) (n : Nat) (l : List α) :
    (mapIf (fun x => key x == n) f l).find? (fun x => key x == n) = (l.find? fun x => key x == n).map f := by
  induction l with
  | nil => rfl
  | cons x xs ih =>
    cases hx : key x == n with
    | true => simp only [mapIf, List.map_cons, hx, if_true, List.find?_cons, hf, Option.map_some]
    | false =>
      simp only [mapIf, List.map_cons, hx, Bool.false_eq_true, if_false, List.find?_cons]
      exact ih

/-- A register of the context of the runner in focus reads what was written. -/
theorem ctxReg_setCtxReg {s : State} {f : Ctx → Ctx} {g : Ctx → Word} {w : Word} (hctx : ctx? s s.me.ctx ≠ none)
    (hid : ∀ c, (f c).id = c.id) (hg : ∀ c, g (f c) = w) : ctxReg (setCtxReg f s) g = w := by
  obtain ⟨c, hc⟩ := Option.ne_none_iff_exists'.mp hctx
  have hfind : ctx? (setCtxReg f s) s.me.ctx = some (f c) :=
    (find?_mapIf_self hid s.me.ctx s.ctxs).trans (congrArg (Option.map f) hc)
  rw [ctxReg, show (setCtxReg f s).me = s.me from rfl, hfind]
  exact hg c

/-- A register of the partition of the runner in focus reads what was written. -/
theorem partReg_setPartReg {s : State} {f : Part → Part} {g : Part → Word} {w : Word}
    (hpart : (s.parts.any fun p => p.no == s.me.part) = true) (hno : ∀ p, (f p).no = p.no) (hg : ∀ p, g (f p) = w) :
    partReg (setPartReg f s) g = w := by
  obtain ⟨p, hp⟩ := Option.isSome_iff_exists.mp ((List.find?_isSome).mpr (List.any_eq_true.mp hpart))
  have hfind : (setPartReg f s).parts.find? (fun p => p.no == s.me.part) = some (f p) :=
    (find?_mapIf_self hno s.me.part s.parts).trans (congrArg (Option.map f) hp)
  rw [partReg, show (setPartReg f s).me = s.me from rfl, hfind]
  exact hg p

/-- The swizzle modes of a group's team read what was written. -/
theorem lswzOf_setLswz {s : State} {w : BitVec 24} (hgroup : s.me.isHost = false) (hteam : (myTeam s).isSome = true) :
    lswzOf (setLswz w s) = BitVec.ofNat 64 w.toNat := by
  obtain ⟨t, ht⟩ := Option.isSome_iff_exists.mp hteam
  have hset : setLswz w s = onTeam s.me.team (fun t => { t with lswz := w }) s :=
    if_neg (by rw [hgroup]; exact Bool.false_ne_true)
  have hfind : myTeam (setLswz w s) = some { t with lswz := w } := by
    rw [hset]
    exact (find?_mapIf_self (key := Team.uid) (f := fun t => { t with lswz := w }) (fun _ => rfl) s.me.team s.teams).trans
      (congrArg (Option.map fun t : Team => { t with lswz := w }) ht)
  rw [lswzOf, hfind]
  rfl

/-- The setting that is found for a slice is the slice's. -/
theorem clkSetting_names (s : State) (die slice_ : Nat) :
    ((clkSetting s die slice_).die == die && (clkSetting s die slice_).slice == slice_) = true := by
  unfold clkSetting
  cases h : s.clkcfg.find? fun c => c.die == die && c.slice == slice_ with
  | none => simp
  | some c => exact List.find?_some (p := fun c : ClkCfg => c.die == die && c.slice == slice_) h

/-- A slice's clock setting reads the value last written, in force or still pending (R205). -/
theorem clkRead_setClk {die slice_ v : Nat} {s : State} (hdie : die < 4) (hslice : slice_ < slicesOf die) :
    clkRead (setClk die slice_ v s) die slice_ = v % 4 := by
  have hnames := clkSetting_names s die slice_
  rw [setClk, if_pos ⟨hdie, hslice⟩, settleClk, if_neg (by simp)]
  generalize clkSetting s die slice_ = c at hnames
  unfold clkRead clkSetting
  dsimp only [mapIf]
  rw [List.map_cons]
  split
  · simp only [List.find?_cons, hnames, Option.getD_some, Option.getD_none]
  · simp only [List.find?_cons, hnames, Option.getD_some]

/-! ## Bits that a field keeps (R427) -/

/-- A value cut to n bits and read back. -/
theorem setWidth_setWidth_mask (v : Word) {n : Nat} (hn : n ≤ 64) :
    (v.setWidth n).setWidth 64 = v &&& BitVec.ofNat 64 (2 ^ n - 1) := by
  have hpow : 2 ^ n ≤ 2 ^ 64 := Nat.pow_le_pow_right (by omega) hn
  have hpos := Nat.two_pow_pos n
  apply BitVec.eq_of_toNat_eq
  rw [BitVec.toNat_and, BitVec.toNat_ofNat, Nat.mod_eq_of_lt (by omega), Nat.and_two_pow_sub_one_eq_mod,
    BitVec.toNat_setWidth, BitVec.toNat_setWidth, Nat.mod_eq_of_lt (by have := Nat.mod_lt v.toNat hpos; omega)]

/-- STATUS keeps PMODE of a write, and on a host core PIE and IE. -/
theorem getLsbD_statusWrite (host : Bool) (v st : Word) {k : Nat} (hk : k < 64) :
    (statusWrite host v st).getLsbD k =
      if k = 1 ∨ (host = true ∧ (k = 4 ∨ k = 5)) then v.getLsbD k else st.getLsbD k := by
  cases host with
  | false =>
    simp only [statusWrite, Bool.false_eq_true, if_false, false_and, or_false, getLsbD_setBit _ _ hk]
    by_cases h1 : k = 1 <;> simp [h1]
  | true =>
    simp only [statusWrite, if_true, true_and, getLsbD_setBit _ _ hk]
    by_cases h4 : k = 4
    · simp [h4]
    by_cases h5 : k = 5
    · simp [h5]
    by_cases h1 : k = 1 <;> simp [h1, h4, h5]

/-! ## Reads after a write -/

/-- The write and the read of the weight of a queue. -/
theorem csrStore_weight {k : Nat} (hk : k < 64) (v : Word) (s : State) : csrStore (0x140 + k) v s =
    setPartReg (fun p => { p with qwgt := vset p.qwgt k (v &&& 0xFF) }) s := by
  unfold csrStore
  split
  all_goals first
    | omega
    | rw [if_pos (by omega), Nat.add_sub_cancel_left]

/-- The read of the weight of a queue. -/
theorem csrValue_weight {k : Nat} (hk : k < 64) (s : State) :
    csrValue s (0x140 + k) = partReg s fun p => BitVec.ofNat 64 (queueWeight p k) := by
  unfold csrValue
  split
  all_goals first
    | omega
    | rw [if_pos (by omega), Nat.add_sub_cancel_left]

/-- A weight of 0 reads as 1 (R409). -/
theorem queueWeight_vset (p : Part) {k : Nat} (hk : k < 64) (v : Word) :
    BitVec.ofNat 64 (queueWeight { p with qwgt := vset p.qwgt k (v &&& 0xFF) } k) =
      if v &&& 0xFF = 0 then 1 else v &&& 0xFF := by
  rw [queueWeight, vget_vset _ hk hk, if_pos rfl]
  split
  next h => rw [h]; rfl
  next h =>
    have hpos : (v &&& 0xFF).toNat ≠ 0 := fun h0 => h (BitVec.eq_of_toNat_eq h0)
    rw [Nat.max_eq_right (by omega), BitVec.ofNat_toNat, BitVec.setWidth_eq]

/-- What SLSEL's slice reads after a write of CLKCFG (R205). -/
theorem csrValue_clkcfg (v : Word) (s : State) : csrValue (csrStore 0x11B v s) 0x11B =
    if slice s.me.slsel 5 0 < slicesOf (slice s.me.slsel 7 6) then v &&& 3 else csrValue s 0x11B := by
  have hme : (csrStore 0x11B v s).me = s.me := by
    show (setClk _ _ _ s).me = s.me
    unfold setClk settleClk
    dsimp only
    split
    · split <;> rfl
    · rfl
  have hread : csrValue (csrStore 0x11B v s) 0x11B = BitVec.ofNat 64 (clkRead (setClk (slice s.me.slsel 7 6)
      (slice s.me.slsel 5 0) (slice v 1 0) s) (slice s.me.slsel 7 6) (slice s.me.slsel 5 0)) := by
    have h (t : State) : csrValue t 0x11B =
      BitVec.ofNat 64 (clkRead t (slice t.me.slsel 7 6) (slice t.me.slsel 5 0)) := rfl
    rw [h, hme]
    rfl
  have hdie : slice s.me.slsel 7 6 < 4 := Nat.mod_lt _ (by decide)
  rw [hread]
  split
  next h =>
    rw [clkRead_setClk hdie h]
    apply BitVec.eq_of_toNat_eq
    rw [BitVec.toNat_ofNat, BitVec.toNat_and, show (3 : Word).toNat = 2 ^ 2 - 1 from rfl, Nat.and_two_pow_sub_one_eq_mod]
    simp only [slice, bitsN]
    omega
  next h =>
    rw [setClk, if_neg (fun hh => h hh.2)]
    rfl

/-- A context register of the runner's context reads what is stored there. -/
theorem csrValue_of_ctx {s : State} {c : Nat} {v w : Word} {f : Ctx → Ctx} {g : Ctx → Word}
    (hctx : ctx? s s.me.ctx ≠ none) (hstore : csrStore c v s = setCtxReg f s)
    (hread : csrValue (setCtxReg f s) c = ctxReg (setCtxReg f s) g) (hid : ∀ c, (f c).id = c.id) (hg : ∀ c, g (f c) = w) :
    csrValue (csrStore c v s) c = w := by
  rw [hstore, hread]
  exact ctxReg_setCtxReg hctx hid hg

/-- What a register reads after a write, field by field. -/
theorem csrReadsBack : CsrReadsBack := by
  intro s v reads group inCtx
  refine ⟨rfl, rfl, rfl, rfl, rfl, rfl, rfl, rfl, fun k hk => getLsbD_statusWrite _ _ _ hk, fun htrap => ?_,
    fun hpart k hk => ?_, fun hpart => ?_, rfl, csrValue_clkcfg v s, fun hgroup hteam => ?_, fun hgroup => ?_,
    fun hhost hctx => ?_, fun ⟨hctx, hn⟩ => ?_⟩
  · exact (if_pos htrap).trans (setWidth_setWidth_mask v (by decide))
  · show csrValue (csrStore (0x140 + k) v s) (0x140 + k) = _
    rw [csrStore_weight hk, csrValue_weight hk]
    exact partReg_setPartReg hpart (fun _ => rfl) fun p => queueWeight_vset p hk v
  · exact partReg_setPartReg (f := fun p => { p with stopbase := v }) (g := fun p => p.stopbase) hpart (fun _ => rfl) fun _ => rfl
  · exact (lswzOf_setLswz hgroup hteam).trans ((BitVec.ofNat_toNat ..).trans (setWidth_setWidth_mask v (by decide)))
  · have hlanes (c : Nat) (f : Lanes → Lanes)
        (h : csrStore c v s = if s.me.isHost then s else { s with me := { s.me with l := f s.me.l } }) :
        csrStore c v s = { s with me := { s.me with l := f s.me.l } } := by
      rw [h, if_neg (by rw [hgroup]; exact Bool.false_ne_true)]
    refine ⟨?_, ?_, ?_, rfl, rfl, rfl⟩
    · show csrValue (csrStore 0x009 v s) 0x009 = _
      rw [hlanes 0x009 (fun l => { l with mfb := v }) rfl]
      rfl
    · show csrValue (csrStore 0x103 v s) 0x103 = _
      rw [hlanes 0x103 (fun l => { l with lpc := v.setWidth 22 }) rfl]
      exact setWidth_setWidth_mask v (by decide)
    · show csrValue (csrStore 0x107 v s) 0x107 = _
      rw [hlanes 0x107 (fun l => { l with skipmask := v.setWidth 32 }) rfl]
      exact setWidth_setWidth_mask v (by decide)
  · show csrValue (csrStore 0x108 v s) 0x108 = _
    rw [show csrStore 0x108 v s = { s with me := { s.me with tvec := v } } from if_pos ⟨hhost, hctx⟩]
    exact if_pos ⟨hhost, hctx⟩
  · refine ⟨?_, ?_, ?_, ?_, ?_, ?_, ?_, ?_, ?_, ?_, ?_, ?_⟩
    · exact csrValue_of_ctx (g := (·.tvec)) hctx (if_neg fun h => hn h.2) (if_neg fun h => hn h.2) (fun _ => rfl) fun _ => rfl
    · exact csrValue_of_ctx (g := (·.tldef)) (f := fun c => { c with tldef := v }) hctx rfl rfl (fun _ => rfl) fun _ => rfl
    · exact csrValue_of_ctx (g := (·.trecl)) (f := fun c => { c with trecl := v }) hctx rfl rfl (fun _ => rfl) fun _ => rfl
    · exact csrValue_of_ctx (g := (·.slcbase)) (f := fun c => { c with slcbase := v }) hctx rfl rfl (fun _ => rfl) fun _ => rfl
    · exact csrValue_of_ctx (g := (·.tkey)) (f := fun c => { c with tkey := v }) hctx rfl rfl (fun _ => rfl) fun _ => rfl
    · exact csrValue_of_ctx (g := (·.ptroot)) (f := fun c => { c with ptroot := v }) hctx rfl rfl (fun _ => rfl) fun _ => rfl
    · exact csrValue_of_ctx (g := (·.atrbase)) (f := fun c => { c with atrbase := v }) hctx rfl rfl (fun _ => rfl) fun _ => rfl
    · exact csrValue_of_ctx (g := (·.atrlim)) (f := fun c => { c with atrlim := v }) hctx rfl rfl (fun _ => rfl) fun _ => rfl
    · exact csrValue_of_ctx (g := (·.lcbase)) (f := fun c => { c with lcbase := v }) hctx rfl rfl (fun _ => rfl) fun _ => rfl
    · exact csrValue_of_ctx (g := (·.slotbase)) (f := fun c => { c with slotbase := v }) hctx rfl rfl (fun _ => rfl) fun _ => rfl
    · exact csrValue_of_ctx (g := (·.dbgrec)) (f := fun c => { c with dbgrec := v }) hctx rfl rfl (fun _ => rfl) fun _ => rfl
    · exact csrValue_of_ctx (g := (·.notify)) (f := fun c => { c with notify := v &&& 0x3F }) hctx rfl rfl (fun _ => rfl)
        fun _ => rfl

/-! ## The read by lanes (R431) -/

/-- VCSRRD writes what its register reads in each lane. -/
theorem laneCsrRead : LaneCsrRead := by
  intro s hready
  refine (Exec.vcsrrd s).trans (runLane_ok (u := ()) hready ?_)
  rw [run_bind_ok (run_get _)]
  exact run_onLanes _ _

end Sys2Proof.Machine

namespace Sys2Proof

open Sys2Proof.Machine Sys2Proof.Claims

/-- Settles O17: the forms by the checks of their register, each register by the field that holds it, and the lanes' read. -/
theorem csrAccess : Obligations.CsrAccess := by
  unfold Obligations.CsrAccess
  exact ⟨csrForms, csrReadsBack, laneCsrRead⟩

end Sys2Proof

/-! # Taking a trap (R432, R433, R439)

O18. Accesses leave a runner in focus that is in no transaction of its lead stream as it is, but for what dooms its lanes'
transactions. A group then enters its handler and its accepted writes arrive; a host core's entry is one step. -/

namespace Sys2Proof.Machine

open Sys2Proof Sys2Proof.Claims

/-! ## What accesses leave of the runner in focus -/

/-- A conflict leaves a runner in focus as it is that is in no transaction (R280). -/
theorem conflictAt_me {s : State} (hidle : s.me.tx.active = false) (who : RunnerId) : (conflictAt s who).me = s.me := by
  unfold conflictAt
  cases hr : s.runner? who with
  | none => rfl
  | some r =>
    dsimp only
    split
    next hactive =>
      refine if_neg fun hwho => ?_
      have hfirst : s.runner? who = some s.me := List.find?_cons_of_pos (by simpa using hwho)
      rw [← Option.some.inj (hfirst.symm.trans hr), hidle] at hactive
      cases hactive
    next => rfl

/-- Conflicts, one after another. -/
theorem foldl_conflictAt_me (l : List Runner) {s : State} (hidle : s.me.tx.active = false) :
    (l.foldl (fun s r => conflictAt s r.id) s).me = s.me :=
  List.foldlRecOn (motive := fun t : State => t.me = s.me) l _ rfl fun t ht r _ =>
    (conflictAt_me (by rw [ht]; exact hidle) r.id).trans ht

/-- So does a read. -/
theorem touch_read_me {s : State} (hidle : s.me.tx.active = false) (who : Option RunnerId) (plain : Bool) (a n : Nat) :
    (touch s who plain false a n).me = s.me := by
  unfold touch
  split
  · refine List.foldlRecOn (motive := fun t : State => t.me = s.me) _ _ rfl fun t ht line _ => ?_
    exact (foldl_conflictAt_me _ (by rw [ht]; exact hidle)).trans ht
  · rfl

/-- Counting a request leaves the runner in focus as it is. -/
theorem countRange_me (s : State) (a n : Nat) : (countRange s a n).me = s.me := by
  refine ite_unseen rfl (foldl_unseen (g := State.me) (fun s k => ?_) _ s)
  unfold countHot
  split
  · rfl
  · exact ite_unseen rfl rfl

/-- A walk leaves the runner in focus as it is. -/
theorem walkReads_me {s : State} (hidle : s.me.tx.active = false) (r : Runner) (va : Nat) : (walkReads s r va).me = s.me := by
  unfold walkReads
  split
  · rfl
  · refine ite_unseen rfl (List.foldlRecOn (motive := fun t : State => t.me = s.me) _ _ rfl fun t ht pa _ => ?_)
    split
    · exact ht
    · exact (countRange_me _ _ _).trans ((touch_read_me (by rw [ht]; exact hidle) _ _ _ _).trans ht)

/-- So does the walk that raised a cause. -/
theorem faultWalk_me {s : State} (hidle : s.me.tx.active = false) (cause : Nat) (a : Word) (r : Runner) :
    (faultWalk cause a r s).me = s.me := ite_unseen (walkReads_me hidle r _) rfl

/-- Nothing but the runners, the fallback lock and the counters changes in such a walk. -/
theorem BlindToReads.faultWalk {α : Type} {g : State → α} (h : BlindToReads g) (cause : Nat) (a : Word) (r : Runner)
    (s : State) : g (faultWalk cause a r s) = g s := ite_unseen (h.walkReads s r _) rfl

/-- The contexts are no concern of a read. -/
theorem blindToReads_ctxs : BlindToReads State.ctxs := ⟨fun _ _ _ _ => rfl, fun _ _ => rfl, fun _ _ => rfl, fun _ _ => rfl⟩

/-! ## What writes leave of it -/

/-- The runner in focus is as it was but for its transactions, and in one of its lead stream where it was. -/
def SameButTx (s t : State) : Prop :=
  ∃ tx ltx, t.me = { s.me with tx := tx, l := { s.me.l with tx := ltx } } ∧ tx.active = s.me.tx.active

section
variable {s t u : State}

theorem SameButTx.of_me (h : t.me = s.me) : SameButTx s t := ⟨s.me.tx, s.me.l.tx, h, rfl⟩

theorem SameButTx.trans (h : SameButTx s t) (k : SameButTx t u) : SameButTx s u := by
  obtain ⟨tx, ltx, hme, hactive⟩ := h
  obtain ⟨tx', ltx', hme', hactive'⟩ := k
  exact ⟨tx', ltx', by rw [hme', hme], by rw [hactive', hme]; exact hactive⟩

theorem SameButTx.idle (h : SameButTx s t) (hidle : s.me.tx.active = false) : t.me.tx.active = false := by
  obtain ⟨tx, ltx, hme, hactive⟩ := h
  rw [hme]
  exact hactive.trans hidle

/-- Its lead registers are as they were. -/
theorem SameButTx.sreg (h : SameButTx s t) (a : Reg) : t.me.sreg a = s.me.sreg a := by
  obtain ⟨tx, ltx, hme, -⟩ := h
  rw [hme]
  rfl

/-- Either of two steps. -/
theorem SameButTx.ite {p : Prop} [Decidable p] (ht : SameButTx s t) (hu : SameButTx s u) :
    SameButTx s (if p then t else u) := by
  split
  · exact ht
  · exact hu

/-- Steps that keep such a runner, one after another. -/
theorem SameButTx.foldl {α : Type} {f : State → α → State} (hf : ∀ t x, t.me.tx.active = false → SameButTx t (f t x))
    (l : List α) (s : State) (hidle : s.me.tx.active = false) : SameButTx s (l.foldl f s) :=
  List.foldlRecOn (motive := SameButTx s) l f (.of_me rfl) fun t ht x _ => ht.trans (hf t x (ht.idle hidle))

/-- A plain write that meets a line of a group dooms its transactions and does nothing else to it (R283). -/
theorem doomLine_sameButTx (s : State) (line : Nat) : SameButTx s (doomLine s line) := by
  show ∃ tx ltx, s.me.doom line = { s.me with tx := tx, l := { s.me.l with tx := ltx } } ∧ tx.active = s.me.tx.active
  unfold Runner.doom
  split
  · exact ⟨s.me.tx, s.me.l.tx, rfl, rfl⟩
  · exact ⟨_, _, rfl, rfl⟩

/-- Any access. -/
theorem touch_sameButTx (who : Option RunnerId) (plain write : Bool) (a n : Nat) (hidle : s.me.tx.active = false) :
    SameButTx s (touch s who plain write a n) := by
  unfold touch
  split
  · refine SameButTx.foldl (fun t line ht => ?_) _ s hidle
    have hhit := SameButTx.of_me (foldl_conflictAt_me
      (t.runners.filter fun r => some r.id != who && r.hostConflict line write) ht)
    dsimp only
    split
    · exact hhit.trans (doomLine_sameButTx _ line)
    · exact hhit
  · exact .of_me rfl

/-- A write at its home changes nothing but the bytes there and what is kept of their lines and pages. -/
theorem homeWrite_unseen {α : Type} {g : State → α} (h : ∀ (s : State) mem tags lineMeta poison latent pages,
    g { s with mem := mem, tags := tags, lineMeta := lineMeta, poison := poison, latent := latent, pages := pages } = g s)
    (s : State) (key : Nat) (comp : Bool) (a : Nat) (bs : List Byte) : g (homeWrite s key comp a bs) = g s := by
  have hrekey (s : State) (line : Nat) : g (rekeyLine s key line) = g s :=
    ite_unseen rfl (h s _ _ s.lineMeta s.poison s.latent s.pages)
  let q := (linesOf a bs.length).foldl (fun s l => rekeyLine s key l) s
  exact ite_unseen rfl ((h q _ q.tags _ _ _ _).trans (foldl_unseen hrekey _ s))

/-- The bytes of a write at their home are no concern of a runner. -/
theorem homeWrite_me (s : State) (key : Nat) (comp : Bool) (a : Nat) (bs : List Byte) :
    (homeWrite s key comp a bs).me = s.me := homeWrite_unseen (fun _ _ _ _ _ _ _ => rfl) s key comp a bs

/-- A write that arrives. -/
theorem arrive_sameButTx (w : PWrite) (hidle : s.me.tx.active = false) : SameButTx s (arrive s w) := by
  have hhome := SameButTx.of_me (homeWrite_me s w.key w.comp w.addr w.bytes)
  have hidle' := hhome.idle hidle
  refine SameButTx.trans ?_ (.of_me (countRange_me _ _ _))
  split
  · exact hhome.trans (.foldl (fun t line _ => doomLine_sameButTx t line) _ _ hidle')
  · exact hhome.trans (touch_sameButTx _ _ _ _ _ hidle')

/-- Writes that arrive. -/
theorem arriveAll_sameButTx (p : PWrite → Bool) (hidle : s.me.tx.active = false) : SameButTx s (arriveAll s p) := by
  have hsee : SameButTx s (seeAll s p) :=
    SameButTx.foldl (fun t w ht => touch_sameButTx _ _ _ _ _ ht) _ { s with pend := _ } hidle
  exact hsee.trans (SameButTx.foldl (fun t w ht => arrive_sameButTx w ht) _ { seeAll s p with pend := _ }
    (hsee.idle hidle))

/-- The bits that an access sets in a leaf. -/
theorem orLeaf_sameButTx (r : Runner) (addr : Nat) (write : Bool) (hidle : s.me.tx.active = false) :
    SameButTx s (orLeaf s r addr write) := by
  have hdrain : SameButTx s (countRange (drainSectors s none r.die addr 8) addr 8) :=
    (arriveAll_sameButTx _ hidle).trans (.of_me (countRange_me _ _ _))
  have hhome (key : Nat) (bs : List Byte) := hdrain.trans (.of_me (homeWrite_me _ key false addr bs))
  exact .ite hdrain ((hhome _ _).trans (touch_sameButTx _ _ _ _ _ ((hhome _ _).idle hidle)))

/-- The marking of a page. -/
theorem markAccess_sameButTx (r : Runner) (t : Tr) (write : Bool) (hidle : s.me.tx.active = false) :
    SameButTx s (markAccess s r t write) := by
  unfold markAccess
  split
  · exact .of_me rfl
  · split
    · exact .of_me rfl
    · have hwalk : SameButTx s (walkReads s r t.va) := .of_me (walkReads_me hidle r t.va)
      exact (SameButTx.ite hwalk (hwalk.trans (orLeaf_sameButTx r _ write (hwalk.idle hidle)))).trans (.of_me rfl)

end

/-! ## Which writes are left -/

/-- The accepted writes are no concern of a write that arrives. -/
theorem arrive_pend (s : State) (w : PWrite) : (arrive s w).pend = s.pend := by
  have hhome : (homeWrite s w.key w.comp w.addr w.bytes).pend = s.pend := homeWrite_unseen (fun _ _ _ _ _ _ _ => rfl) s ..
  refine (blindToReads_pend.countRange _ _ _).trans (ite_unseen ?_ ?_)
  · exact (foldl_unseen blindToReads_pend.doomLine _ _).trans hhome
  · exact (blindToReads_pend.touch _ _ _ _ _ _).trans hhome

/-- The writes that stay are some of those that there were, and the test holds of none of them. -/
theorem withEarlier_stay (p : PWrite → Bool) (leads : PWrite → PWrite → Bool) (l : List PWrite) :
    ∀ w ∈ (withEarlier p leads l).2, w ∈ l ∧ p w = false := by
  induction l with
  | nil => exact fun w hw => nomatch hw
  | cons x xs ih =>
    intro w hw
    rw [withEarlier] at hw
    split at hw
    · obtain ⟨hmem, hp⟩ := ih w hw
      exact ⟨List.mem_cons_of_mem x hmem, hp⟩
    · rename_i hgoes
      rcases List.mem_cons.mp hw with rfl | hw
      · exact ⟨List.mem_cons_self, by simp only [Bool.or_eq_true, not_or, Bool.not_eq_true] at hgoes; exact hgoes.1⟩
      · obtain ⟨hmem, hp⟩ := ih w hw
        exact ⟨List.mem_cons_of_mem x hmem, hp⟩

/-- A runner's writes have all been performed on their die (R237). -/
theorem seen_of_mem_seeAll {s : State} {who : RunnerId} {w : PWrite}
    (hw : w ∈ (seeAll s fun w => w.who == who).pend) (hwho : w.who = who) : w.seen = true := by
  unfold seeAll at hw
  rw [foldl_unseen (g := State.pend) (fun s w => blindToReads_pend.touch s _ _ _ _ _)] at hw
  rcases List.mem_append.mp hw with hw | hw
  · have hstay := (withEarlier_stay _ _ _ w hw).2
    simpa [hwho] using hstay
  · obtain ⟨x, -, rfl⟩ := List.mem_map.mp hw
    rfl

/-- Once a runner's writes have arrived, none is left (R237). -/
theorem who_ne_of_mem_arriveAll {s : State} {who : RunnerId} {w : PWrite}
    (hw : w ∈ (arriveAll s fun w => w.who == who).pend) : w.who ≠ who := by
  intro hwho
  unfold arriveAll at hw
  rw [foldl_unseen (g := State.pend) arrive_pend] at hw
  obtain ⟨hmem, hstay⟩ := withEarlier_stay _ _ _ w hw
  simp [seen_of_mem_seeAll hmem hwho, hwho] at hstay

/-! ## The entry of a group (R432, R433) -/

/-- The runner that waits for its writes, or has none left. -/
theorem drainTrap_waits {q : State} (hidle : q.me.tx.active = false) : ∃ tx ltx wait,
    (drainTrap q).me = { q.me with tx := tx, wait := wait, l := { q.me.l with tx := ltx } } ∧
    (wait = .none ∨ wait = .drain) ∧ (wait = .none → ∀ w ∈ (drainTrap q).pend, w.who ≠ q.me.id) ∧
    (q.wicket.holder = none → wait = .none) := by
  unfold drainTrap
  dsimp only
  split
  next hlocked =>
    refine ⟨q.me.tx, q.me.l.tx, .drain, rfl, .inr rfl, (by intro h; cases h), fun hnone => ?_⟩
    rw [arriveLocked, hnone] at hlocked
    cases hlocked
  next =>
    obtain ⟨tx, ltx, hme, -⟩ := arriveAll_sameButTx (fun w => w.who == q.me.id) hidle
    exact ⟨tx, ltx, .none, by rw [hme], .inl rfl, fun _ w hw => who_ne_of_mem_arriveAll hw, fun _ => rfl⟩

/-- The causes that a handler takes are neither fatal nor none. -/
theorem not_fatal_of_handled {cause : Nat} (h : cause ∈ handledCauses) : ¬ (0xA1 ≤ cause ∧ cause ≤ 0xA3) := by
  have hall : ∀ c ∈ handledCauses, ¬ (0xA1 ≤ c ∧ c ≤ 0xA3) := by decide
  exact hall cause h

/-- A claim that is undone is no concern of the runner, the fallback lock and the contexts. -/
theorem undoClaim_fields (s : State) :
    (undoClaim s).me = s.me ∧ (undoClaim s).wicket = s.wicket ∧ (undoClaim s).ctxs = s.ctxs := by
  unfold undoClaim
  split <;> exact ⟨rfl, rfl, rfl⟩

/-- The request list of a runner is no concern of the runner and of the fallback lock. -/
theorem dropReads_fields (who : RunnerId) (s : State) :
    (dropReads who s).me = s.me ∧ (dropReads who s).wicket = s.wicket ∧ (dropReads who s).mem = s.mem ∧
      (dropReads who s).pend = s.pend ∧ (dropReads who s).others = s.others := by
  unfold dropReads
  split <;> exact ⟨rfl, rfl, rfl, rfl, rfl⟩

/-- The causes and addresses that a lead-stream trap gives the live lanes. -/
def laneCauses (m : Mask) (cause : Nat) (addr : Word) : List (Nat × Nat × Word) := (lanesOf m).map fun l => (l, cause, addr)

/-- A lead-stream cause that the handler of a group takes: the group enters it, and its writes arrive. -/
theorem leadTrap_group {s : State} {cause : Nat} {addr epc : Word} (hgroup : s.me.isHost = false)
    (htx : s.me.tx.active = false) (htrap : s.me.inTrap = false) (htvec : groupTvec s ≠ 0) (hcause : cause ∈ handledCauses) :
    ∃ q, leadTrap cause addr epc s = drainTrap q ∧
      q.me = s.me.enter false cause addr epc (groupTvec s) (laneCauses s.me.l.live cause addr) s.me.l.live s.me.l.lpc ∧
      q.wicket = (faultWalk cause addr s.me s).wicket := by
  have hwme := faultWalk_me htx cause addr s.me
  have hwctxs := blindToReads_ctxs.faultWalk cause addr s.me s
  unfold leadTrap
  dsimp only
  generalize faultWalk cause addr s.me s = w at *
  obtain ⟨hume, huwicket, huctxs⟩ := undoClaim_fields w
  have htvecs (t : State) (hme : t.me = s.me) (hctxs : t.ctxs = s.ctxs) : groupTvec t = groupTvec s := by
    unfold groupTvec ctx?
    rw [hme, hctxs]
  rw [if_pos (by rw [hwme, htx]; rfl), takeTrap, if_neg (by rw [hwme, hgroup]; exact Bool.false_ne_true)]
  dsimp only
  rw [groupTrap, if_neg (by rw [hwme, htrap]; exact Bool.false_ne_true), if_neg (not_fatal_of_handled hcause),
    if_neg (by rw [htvecs w hwme hwctxs]; exact htvec)]
  refine ⟨_, rfl, ?_, ?_⟩
  · rw [(dropReads_fields _ _).1, htvecs _ (hume.trans hwme) (huctxs.trans hwctxs)]
    dsimp only
    rw [hume, hwme, htx, if_neg Bool.false_ne_true, Runner.setAside, htx, if_neg Bool.false_ne_true]
    rfl
  · rw [(dropReads_fields _ _).2.1]
    dsimp only
    rw [hume, hwme, htx, if_neg Bool.false_ne_true, huwicket]

/-! ## What the entry sets -/

/-- STATUS after a trap of the lead stream. -/
theorem getLsbD_trapStatus (host : Bool) (st : Word) {k : Nat} (hk : k < 64) :
    (trapStatus host false st).getLsbD k = trapBit host st k := by
  have hbits := @getLsbD_setBit 64
  cases host with
  | false =>
    simp only [trapStatus, trapBit, hbits _ _ hk, Bool.false_eq_true, if_false, Bool.false_and]
    grind
  | true =>
    simp only [trapStatus, trapBit, hbits _ _ hk, hbits _ _ (show 4 < 64 by decide), if_true, Bool.true_and]
    grind

/-- One value written at each of a list of places. -/
theorem vget_foldl_vset {α β : Type} {n : Nat} (f : Nat → β) (g : β → Nat × α) (x : α) (hg : ∀ l, g (f l) = (l, x)) {k : Nat}
    (hk : k < n + 1) (ls : List Nat) (hls : ∀ l ∈ ls, l < n + 1) (v : Vector α (n + 1)) :
    vget ((ls.map f).foldl (fun v y => vset v (g y).1 (g y).2) v) k = if k ∈ ls then x else vget v k := by
  induction ls generalizing v with
  | nil => rfl
  | cons l ls ih =>
    rw [List.map_cons, List.foldl_cons, ih (fun j hj => hls j (List.mem_cons_of_mem l hj)), hg,
      vget_vset v (hls l List.mem_cons_self) hk]
    by_cases hkl : k = l <;> by_cases hmem : k ∈ ls <;> simp [hkl, hmem]

/-- The lanes of a mask. -/
theorem mem_lanesOf {m : Mask} {k : Nat} (hk : k < 32) : k ∈ lanesOf m ↔ m.getLsbD k = true := by
  simp [lanesOf, hk]

/-- What each lane's registers hold of such a list. -/
theorem vget_laneCauses {α : Type} (m : Mask) (cause : Nat) (addr : Word) (g : Nat × Nat × Word → Nat × α) (x zero : α)
    (hg : ∀ l, g (l, cause, addr) = (l, x)) {k : Nat} (hk : k < 32) :
    vget ((laneCauses m cause addr).foldl (fun v y => vset v (g y).1 (g y).2) (Vector.replicate 32 zero)) k =
      if m.getLsbD k then x else zero := by
  rw [laneCauses, vget_foldl_vset (n := 31) _ g x hg hk _ (fun _ => lt_of_mem_lanesOf)]
  simp only [mem_lanesOf hk, vget, hk, dif_pos, Vector.getElem_replicate]

/-- The mask of a mask's lanes is the mask. -/
theorem maskOf_lanesOf (m : Mask) : maskOf (lanesOf m) = m := by
  have hor (ls : List Nat) (m0 : Mask) (k : Nat) (hk : k < 32) :
      (ls.foldl (fun m l => m ||| BitVec.ofNat 32 (2 ^ l)) m0).getLsbD k = (m0.getLsbD k || decide (k ∈ ls)) := by
    induction ls generalizing m0 with
    | nil => simp
    | cons l ls ih =>
      rw [List.foldl_cons, ih, BitVec.getLsbD_or, BitVec.getLsbD_ofNat, Nat.testBit_two_pow, decide_eq_true hk]
      by_cases hkl : l = k <;> simp [hkl, eq_comm (a := k)]
  refine BitVec.eq_of_getLsbD_eq fun k hk => ?_
  rw [maskOf, hor _ _ _ hk, show BitVec.getLsbD (0 : Mask) k = false from BitVec.getLsbD_zero, Bool.false_or]
  exact (Bool.decide_congr (mem_lanesOf hk)).trans Bool.decide_eq_true

/-- A lead-stream trap of a group. -/
theorem groupTrapEntry : GroupTrapEntry := by
  intro s cause addr epc hgroup htx htrap htvec hcause t
  obtain ⟨q, ht, hq, hwicket⟩ := leadTrap_group (addr := addr) (epc := epc) hgroup htx htrap htvec hcause
  have hqid : q.me.id = s.me.id := by rw [hq]; rfl
  obtain ⟨tx, ltx, wait, hme, hwait, hpend, hholder⟩ := drainTrap_waits (q := q) (by rw [hq]; exact htx)
  rw [← ht] at hme hpend
  rw [hqid] at hpend
  rw [hwicket] at hholder
  rw [hq] at hme
  have hfault : maskOf ((laneCauses s.me.l.live cause addr).map (·.1)) = s.me.l.live := by
    rw [laneCauses, List.map_map, show ((·.1) ∘ fun l => (l, cause, addr)) = (id : Nat → Nat) from rfl, List.map_id,
      maskOf_lanesOf]
  show t.me.pc = _ ∧ _
  rw [show t.me = _ from hme]
  refine ⟨rfl, fun k hk => getLsbD_trapStatus false _ hk, rfl, rfl, rfl, rfl, rfl, hfault, rfl, fun k hk => ⟨?_, ?_⟩,
    rfl, rfl, rfl, rfl, rfl, rfl, rfl, rfl, rfl, rfl, rfl, hwait, hpend, hholder⟩
  · exact vget_laneCauses s.me.l.live cause addr (fun y => (y.1, BitVec.ofNat 8 y.2.1)) _ 0 (fun _ => rfl) hk
  · exact vget_laneCauses s.me.l.live cause addr (fun y => (y.1, y.2.2)) _ 0 (fun _ => rfl) hk

/-! ## The entry of a host core (R439) -/

/-- A trap of a host core. -/
theorem hostTrapEntry : HostTrapEntry := by
  intro s cause addr epc hhost htx _ t
  have hwme := faultWalk_me htx cause addr s.me
  have hwmem := blindToReads_mem.faultWalk cause addr s.me s
  have hwpend := blindToReads_pend.faultWalk cause addr s.me s
  have ht : t = dropReads s.me.id { faultWalk cause addr s.me s with me := hostTrap cause addr epc s.me } := by
    show leadTrap cause addr epc s = _
    unfold leadTrap takeTrap
    dsimp only
    rw [hwme, htx, hhost]
    rfl
  obtain ⟨hme, -, hmem, hpend, hothers⟩ :=
    dropReads_fields s.me.id { faultWalk cause addr s.me s with me := hostTrap cause addr epc s.me }
  rw [← ht] at hme hmem hpend hothers
  rw [hme, hmem, hpend, hothers]
  exact ⟨rfl, fun k hk => getLsbD_trapStatus true _ hk, rfl, rfl, rfl, rfl, rfl, rfl, rfl, rfl, rfl, hwmem, hwpend, rfl⟩

end Sys2Proof.Machine

namespace Sys2Proof

open Sys2Proof.Machine Sys2Proof.Claims

/-- Settles O18: the entry of a group's handler with the arrival of its writes, and the entry of a host core's. -/
theorem trapEntry : Obligations.TrapEntry := by
  unfold Obligations.TrapEntry
  exact ⟨groupTrapEntry, hostTrapEntry⟩

end Sys2Proof

/-! # Key pages and ushers (R378, R381, R384, R385, R388 to R390, R394)

O33. The forms of ushers pass the same checks first and reach their operands in the same way; an operation of an usher changes
memory only where it writes, and the marks of pages only where it builds. -/

namespace Sys2Proof.Machine

open Sys2Proof Sys2Proof.Claims

/-! ## Forms of ushers (R383, R384) -/

/-- What is left of an usher form once it may issue. -/
theorem runLead_usherBody {s : State} {v : Bool} {x : BitVec 3} {m : Copier → Op Unit} (h : CanUsher s) :
    runLead (usherBody v x m) s = runLead (m (usherCopier v x s)) s := by
  obtain ⟨hctx, htx, hopen⟩ := h
  exact (runLead_ctxForm hctx htx).trans (runLead_get.trans ((runLead_need_true (decide_eq_true hopen)).trans
    (runLead_bind_ok (x := usherCopier v x s) rfl)))

/-- A usher form that may issue does what its own steps do. -/
theorem usherForm_ok {s u : State} {v : Bool} {x : BitVec 3} {m : Copier → Op Unit} (h : CanUsher s)
    (hm : (m (usherCopier v x s)).run (onward s) = .ok ((), u)) : usherForm v x m s = .next u :=
  (runLead_usherBody h).trans (runLead_ok hm)

section
variable {c : Copier} {q u : State} {a : Reg} {p : Portion}

/-- A page that KSUMM takes (R385). -/
theorem run_ksummPage (h : KeyPageAt c q (q.me.sreg a) p) : (ksummPage c a).run q = .ok (p, q) := by
  obtain ⟨va, p0, l, hva, hps, hkeys, rfl, hpkg, hvalign, hpalign, hcomp, hsize, hpool⟩ := h
  refine (run_bind_ok (run_reg a q)).trans ((run_bind_ok hva).trans ((run_bind_ok (run_get q)).trans
    ((run_bind_ok (Laws.run_orTrap_ok hps)).trans ((run_bind_ok (Laws.run_keyCause hkeys)).trans
    ((run_bind_ok (run_need_of ?_)).trans ((run_bind_ok (run_need_of ?_)).trans (run_pure _ _)))))))
  · rw [beq_iff_eq.mpr hpkg, Bool.or_true]
  · have hpool' : (poolOf p0.t.pa == .hbm || poolOf p0.t.pa == .lpddr) = true := by
      rcases hpool with h | h <;> simp [h]
    have hcomp' : p0.t.comp = false := hcomp
    simp [hvalign, hpalign, hcomp', hsize, hpool']

/-- A build that finds room is queued (R381). -/
theorem run_queueBuild {fmt : Nat} (h : BuildQueued p fmt q u) : (queueBuild p fmt).run q = .ok ((), u) :=
  (run_bind_ok (run_get q)).trans (Laws.run_issueUsher h)

/-- The mark of a marked page. -/
theorem run_markedPage {k : KPage} (h : page? q (p.t.pa / 16384) = some k) : (markedPage p).run q = .ok (k, q) := by
  rw [markedPage, run_bind_ok (run_get q), h, run_pure]

/-- The mark that is found for a block is the block's. -/
theorem block_of_page? {k : KPage} {block : Nat} (h : page? q block = some k) : k.block = block := by
  simpa using List.find?_some h

/-- A destination that an usher can write. -/
theorem run_usherDst {da : Word} {n al : Nat} {ds : List Portion} (h : UsherDst c q da n al ds) :
    (usherDst c da n al).run q = .ok (ds, q) := by
  obtain ⟨hds, hkeys, halign⟩ := h
  exact (run_bind_ok (run_get q)).trans ((run_bind_ok (Laws.run_orTrap_ok hds)).trans
    ((run_bind_ok (Laws.run_keyCause hkeys)).trans ((run_bind_ok (run_need_of (beq_iff_eq.mpr halign))).trans (run_pure _ _))))

end

/-! ## KSUMM (R385) -/

section
variable {s u : State} {a d : Reg} {v : Bool} {x : BitVec 3} {p : Portion} (hissue : CanUsher s)
    (hpage : KeyPageAt (usherCopier v x s) (onward s) (s.me.sreg a) p)
include hissue hpage

/-- A KSUMM in a format whose page is marked, or finds room for its mark (R378, R381). -/
theorem ksummMark_ok {fmt : Nat}
    (hroom : (page? (onward s) (p.t.pa / 16384)).isSome = true ∨ markCount (onward s) p.t.pa (markPart (onward s) p.t.pa s.me.part)
      < markLimit (onward s) p.t.pa (markPart (onward s) p.t.pa s.me.part))
    (hqueue : BuildQueued p fmt
      (markPage (p.t.pa / 16384) (s.nextOp + 1) (markPart (onward s) p.t.pa s.me.part) fmt (onward s)) u) :
    ksummMark fmt a v x s = .next u := by
  refine usherForm_ok hissue ((run_bind_ok (run_ksummPage hpage)).trans ((run_bind_ok (run_get _)).trans
    ((run_bind_ok (run_need_of ?_)).trans ((run_bind_ok (run_modify _ _)).trans (run_queueBuild hqueue)))))
  exact Bool.or_eq_true_iff.mpr (hroom.imp_right fun h => decide_eq_true h)

/-- KSUMM.rebuild of a marked page. -/
theorem execKsummRebuild_ok {k : KPage} (hmark : page? (onward s) (p.t.pa / 16384) = some k)
    (hqueue : BuildQueued p 0 (onward s) u) : execKsummRebuild a v x s = .next u :=
  usherForm_ok hissue ((run_bind_ok (run_ksummPage hpage)).trans ((run_bind_ok (run_markedPage hmark)).trans
    (run_queueBuild hqueue)))

/-- KSUMM.off. -/
theorem execKsummOff_ok (hqueue : AtUsher (usherAt p.t.pa) ⟨[], [p], [], [], .off (p.t.pa / 16384)⟩ (onward s) u) :
    execKsummOff a v x s = .next u :=
  usherForm_ok hissue ((run_bind_ok (run_ksummPage hpage)).trans (Laws.run_issueUsher hqueue))

/-- KSUMM.read of a marked page. -/
theorem execKsummRead_ok {k : KPage} {da : Word} {ds : List Portion} (hmark : page? (onward s) (p.t.pa / 16384) = some k)
    (hda : ((usherCopier v x s).operand (s.me.sreg d) 512).run (onward s) = .ok (da, onward s))
    (hds : UsherDst (usherCopier v x s) (onward s) da 512 64 ds)
    (hqueue : AtUsher (usherAt p.t.pa)
      ⟨ds, [p], sideRanges ds [], [], .read (p.t.pa / 16384) (memLocs (onward s) ds)⟩ (onward s) u) :
    execKsummRead d a v x s = .next u := by
  rw [← block_of_page? hmark] at hqueue
  exact usherForm_ok hissue ((run_bind_ok (run_ksummPage hpage)).trans ((run_bind_ok (run_markedPage hmark)).trans
    ((run_bind_ok (run_reg d _)).trans ((run_bind_ok hda).trans ((run_bind_ok (run_usherDst hds)).trans
    ((run_bind_ok (run_get _)).trans (Laws.run_issueUsher hqueue)))))))

end

/-- The KSUMM forms. -/
theorem summaryForms : SummaryForms := by
  intro s u d a v x p hissue q c block hpage
  refine ⟨fun i fmt hi => ?_, fun k hmark hqueue =>
    (Exec.ksummRebuild s).trans (execKsummRebuild_ok hissue hpage hmark hqueue), fun hqueue =>
    (Exec.ksummOff s).trans (execKsummOff_ok hissue hpage hqueue), fun k da ds hmark hda hds hqueue =>
    (Exec.ksummRead s).trans (execKsummRead_ok hissue hpage hmark hda hds hqueue)⟩
  intro part hroom hqueue
  have hmark : ksummMark fmt a v x s = .next u := ksummMark_ok hissue hpage hroom hqueue
  rcases hi with ⟨rfl, rfl⟩ | ⟨rfl, rfl⟩ | ⟨rfl, rfl⟩
  · exact (Exec.ksummBf16 s).trans hmark
  · exact (Exec.ksummE4m3 s).trans hmark
  · exact (Exec.ksummE5m2 s).trans hmark

/-! ## What the end of an operation leaves alone -/

/-- An operation that leaves changes no memory and no mark: neither does what follows it. -/
theorem endOp_keeps {α : Type} {g : State → α}
    (hctx : ∀ (s : State) me others ctxs, g { s with me := me, others := others, ctxs := ctxs } = g s)
    (hops : ∀ (s : State) ops outb parts lranges, g { s with ops := ops, outb := outb, parts := parts, lranges := lranges } = g s)
    (hteams : ∀ (s : State) mops grids teams squads streams subs lranges cksaves, g { s with
      mops := mops, grids := grids, teams := teams, squads := squads, streams := streams, subs := subs, lranges := lranges,
      cksaves := cksaves } = g s) (n : Nat) (s : State) : g (endOp n s) = g s :=
  (finishEnds_keeps hctx _).trans ((hteams _ _ _ _ _ _ _ _ _).trans (hops s _ _ _ _))

/-- A read of an engine changes nothing that a read does not. -/
theorem BlindToReads.srcTouch {α : Type} {g : State → α} (h : BlindToReads g) (n : Nat) (x : Src) (s : State) :
    g (srcTouch n x s) = g s := by
  unfold Machine.srcTouch
  split
  · refine ite_unseen rfl (ite_unseen ?_ (ite_unseen (h.badAddr s) rfl))
    exact (h.countRange _ _ _).trans (h.touch s _ _ _ _ _)
  · rfl

/-- The marks of pages are no concern of a read. -/
theorem blindToReads_pages : BlindToReads State.pages := ⟨fun _ _ _ _ => rfl, fun _ _ => rfl, fun _ _ => rfl, fun _ _ => rfl⟩

/-- A read asks for nothing beyond the package. -/
theorem touch_outb (s : State) (who : Option RunnerId) (plain write : Bool) (a n : Nat) :
    (touch s who plain write a n).outb = s.outb := by
  have hconflict (s : State) (who : RunnerId) : (conflictAt s who).outb = s.outb := by
    unfold conflictAt
    split
    · rfl
    · exact ite_unseen rfl rfl
  refine ite_unseen (foldl_unseen (g := State.outb) (fun s line => ?_) _ s) rfl
  have hhit := foldl_unseen (g := State.outb) (fun s (r : Runner) => hconflict s r.id)
    (s.runners.filter fun r => some r.id != who && r.hostConflict line write) s
  exact ite_unseen hhit hhit

/-- Nor does its count. -/
theorem countRange_outb (s : State) (a n : Nat) : (countRange s a n).outb = s.outb := by
  refine ite_unseen rfl (foldl_unseen (g := State.outb) (fun s k => ?_) _ s)
  unfold countHot
  split
  · rfl
  · exact ite_unseen rfl rfl

/-- Nor does the read of an engine. -/
theorem srcTouch_outb (n : Nat) (x : Src) (s : State) : (srcTouch n x s).outb = s.outb := by
  unfold srcTouch
  split
  · refine ite_unseen rfl (ite_unseen ?_ (ite_unseen rfl rfl))
    exact (countRange_outb _ _ _).trans (touch_outb s _ _ _ _ _)
  · rfl

/-- Marking a batch changes neither memory nor the marks of pages. -/
theorem markBatch_home (o : EngOp) (first : Option Word) (s : State) :
    (markBatch o first s).mem = s.mem ∧ (markBatch o first s).pages = s.pages := by
  unfold markBatch
  split <;> exact ⟨rfl, rfl⟩

/-! ## Builds (R381) -/

section
variable {s : State} {n : Nat} {o : EngOp} {block fmt key : Nat}

/-- The marks after a build: the summary that was gathered, or the page's as it stands. -/
def builtPages (s : State) (n block key : Nat) : List KPage :=
  mapIf (fun q => q.block == block && decide (q.build ≤ n))
    (fun q => { q with sum := q.next.getD (summarize s q.fmt key block), next := none }) s.pages

/-- A build that ends replaces summaries, and changes neither memory nor what waits beyond the package. -/
theorem endBuild_fields (n block key : Nat) (s : State) : (endBuild n block key s).pages = builtPages s n block key ∧
    (endBuild n block key s).mem = s.mem ∧ (endBuild n block key s).outb = s.outb := by
  unfold endBuild
  dsimp only
  split
  · exact ⟨rfl, rfl, rfl⟩
  · exact ⟨blindToReads_pages.srcTouch _ _ _, blindToReads_mem.srcTouch _ _ _, srcTouch_outb _ _ _⟩

/-- A build that is complete in its turn, with nothing left to be accepted (R381, R312). -/
theorem execKsummBuildComplete_build (ho : s.ops.find? (fun x => x.no == n) = some o) (hk : o.kind = .build block fmt key)
    (hfirst : usherFirst s o = true) (hout : (s.outb.any fun b => b.ask == .op n && b.wr) = false) :
    ∃ first, execKsummBuildComplete n s = .next (endOp n (markBatch o first (endBuild n block key s))) := by
  have hno : o.no = n := by simpa using List.find?_some ho
  refine ⟨((unitsOf (block * 16384) 16384).find? fun u => s.poison.contains u).map fun u => BitVec.ofNat 64 (u * 8), ?_⟩
  simp only [execKsummBuildComplete, ho, hk, hfirst, if_true]
  rw [closeOp_accepted (by rw [(endBuild_fields n block key s).2.2, hno]; exact hout), hno]

/-- What such a build leaves: memory as it is, its operation gone, the summaries replaced. -/
theorem buildComplete_fields (first : Option Word) :
    let t := endOp n (markBatch o first (endBuild n block key s))
    t.mem = s.mem ∧ (∀ y ∈ t.ops, y.no ≠ n) ∧ t.pages = builtPages s n block key := by
  obtain ⟨hpages, hmem, -⟩ := endBuild_fields n block key s
  obtain ⟨hmem', hpages'⟩ := markBatch_home o first (endBuild n block key s)
  refine ⟨?_, fun y hy => ?_, ?_⟩
  · exact (endOp_keeps (g := State.mem) (fun _ _ _ _ => rfl) (fun _ _ _ _ _ => rfl) (fun _ _ _ _ _ _ _ _ _ => rfl) n _).trans
      (hmem'.trans hmem)
  · rw [endOp_ops] at hy
    simpa using (List.mem_filter.mp hy).2
  · exact (endOp_keeps (g := State.pages) (fun _ _ _ _ => rfl) (fun _ _ _ _ _ => rfl) (fun _ _ _ _ _ _ _ _ _ => rfl) n _).trans
      (hpages'.trans hpages)

/-- A build that starts in its turn gathers the page as it stands (R381). -/
theorem workSome_build (ho : s.ops.find? (fun x => x.no == n) = some o) (hk : o.kind = .build block fmt key)
    (hstarted : o.started = true) (hfirst : usherFirst s o = true) (hgather : gathering s block = false) (k m : Nat) :
    (workSome n k m s).pages = mapIf (fun q => q.block == block && decide (q.build ≤ n))
      (fun q => { q with next := some (summarize s q.fmt key block) }) s.pages := by
  have hfind : s.ops.find? (fun x => x.no == n && x.started) = some o := by
    obtain ⟨hno, before, after, hops, hbefore⟩ := List.find?_eq_some_iff_append.mp ho
    refine List.find?_eq_some_iff_append.mpr ⟨by rw [hno, hstarted]; rfl, before, after, hops, fun y hy => ?_⟩
    have hy' := hbefore y hy
    rw [Bool.not_eq_true'] at hy' ⊢
    rw [hy', Bool.false_and]
  simp only [workSome, hfind, hk, hfirst, if_true]
  rw [startBuild, if_neg (by rw [hgather]; exact Bool.false_ne_true)]
  exact blindToReads_pages.srcTouch _ _ _

end

/-! ## Bounds and lists (R388 to R390, R394) -/

section
variable {s : State} {n : Nat} {o : EngOp} {h : List Byte} {q : List W32} {pages : List (Word × Nat)}
    {done : List (Nat × W32)} {dst : List (Loc × Nat)} (ho : s.ops.find? (fun x => x.no == n) = some o)
include ho

/-- A listed page that is not bounded yet is bounded with the summary in force (R388). -/
theorem execUsherBound_page {k : Nat} {p : Word × Nat} (hk : o.kind = .bound h q pages done dst) (hp : pages[k]? = some p)
    (hdone : ∀ e ∈ done, e.1 ≠ k) :
    let now := done ++ [(k, boundOf q (((page? s p.2).map (·.sum)).getD openSummary))]
    ∃ ops, execUsherBound n k s = .next { s with ops := ops } ∧ { o with kind := .bound h q pages now dst } ∈ ops := by
  intro now
  have hnone : (done.any fun e => e.1 == k) = false := by
    rw [List.any_eq_false]
    exact fun e he => by simpa using hdone e he
  refine ⟨_, rfl, List.mem_map.mpr ⟨o, List.mem_of_find?_eq_some ho, ?_⟩⟩
  rw [if_pos (List.find?_some ho)]
  simp only [hk, hp, hnone, now, Bool.false_eq_true, if_false]

/-- The list of a KBOUND whose pages are all bounded is written in its turn (R389, R390). -/
theorem execGatherListMerge_bound (hk : o.kind = .bound h q pages done dst) (hfirst : usherFirst s o = true)
    (hall : done.length = pages.length) (hready : placesReady s o dst = true) :
    execGatherListMerge n s = .next (closeOp o none (writeLocs o dst (boundList h pages done) s)) := by
  simp only [execGatherListMerge, ho, hk, hfirst, hall, hready, beq_self_eq_true, Bool.and_self, if_true]

/-- The merge of a KLIST is written in its turn (R394). -/
theorem execGatherListMerge_list {ha hb : List Byte} {a b : List (Loc × Nat)} (hk : o.kind = .list ha hb a b dst)
    (hfirst : usherFirst s o = true) (hready : placesReady s o dst = true) (hsrc : sourcesReady s o (a ++ b) = true) :
    execGatherListMerge n s = .next (closeOp o ((readLocs s o a).2.or (readLocs s o b).2) (writeLocs o dst
      (mergeLists (leNat ha) (leNat hb) (readEntries (headHeld (leNat ha)) ((readLocs s o a).1.drop 64))
        (readEntries (headHeld (leNat hb)) ((readLocs s o b).1.drop 64))) (touchLocs (a ++ b) s))) := by
  simp only [execGatherListMerge, ho, hk, hfirst, hready, hsrc, Bool.not_true, Bool.or_self, Bool.false_eq_true, if_false]

end

/-- The work of an usher. -/
theorem usherWork : UsherWork := by
  intro s n o ho
  refine ⟨fun block fmt key hk hfirst hout => ?_, fun block fmt key hk hstarted hfirst hgather k m =>
    workSome_build ho hk hstarted hfirst hgather k m, fun h q pages done dst k p hk hp hdone => ?_,
    fun h q pages done dst hk hfirst hall hready =>
      (Exec.gatherListMerge s).trans (execGatherListMerge_bound ho hk hfirst hall hready),
    fun ha hb a b dst hk hfirst hready hsrc =>
      (Exec.gatherListMerge s).trans (execGatherListMerge_list ho hk hfirst hready hsrc)⟩
  · obtain ⟨first, hbuild⟩ := execKsummBuildComplete_build ho hk hfirst hout
    exact ⟨_, (Exec.ksummBuildComplete s).trans hbuild, buildComplete_fields first⟩
  · obtain ⟨ops, hbound, hmem⟩ := execUsherBound_page ho hk hp hdone
    exact ⟨_, (Exec.usherBound s).trans hbound, rfl, rfl, hmem⟩

end Sys2Proof.Machine

namespace Sys2Proof

open Sys2Proof.Machine Sys2Proof.Claims

/-- Settles O33: the forms by their page and what they queue, and the steps of an usher by the kind of operation. -/
theorem summaries : Obligations.Summaries := by
  unfold Obligations.Summaries
  exact ⟨summaryForms, usherWork⟩

end Sys2Proof

/-! # Selections (R386, R387, R390 to R392, R394)

O34. The forms read lists at issue and their registers after them: a load leaves the registers of an issuer outside
transactions as they are. Each form is then its chain of checks, one step for each hypothesis of its claim. -/

namespace Sys2Proof.Machine

open Sys2Proof Sys2Proof.Claims

/-! ## Loads and the issuer's registers -/

/-- An operation that goes on leaves a runner in focus outside transactions as it is, but for its lanes' transactions. -/
def KeepsIssuer {α : Type} (m : Op α) : Prop :=
  ∀ s x t, s.me.tx.active = false → m.run s = .ok (x, t) → SameButTx s t

namespace KeepsIssuer

section
variable {α β : Type} {m : Op α} {f : α → Op β}

theorem bind (hm : KeepsIssuer m) (hf : ∀ x, KeepsIssuer (f x)) : KeepsIssuer (m >>= f) := by
  intro s x t hidle hrun
  obtain ⟨y, u, hmu, hfu⟩ := exists_of_run_bind hrun
  have hsu := hm s y u hidle hmu
  exact hsu.trans (hf y u x t (hsu.idle hidle) hfu)

theorem pure (x : α) : KeepsIssuer (Pure.pure x : Op α) := by
  intro s y t _ hrun
  cases hrun
  exact .of_me rfl

theorem get : KeepsIssuer (MonadState.get : Op State) := by
  intro s y t _ hrun
  cases hrun
  exact .of_me rfl

theorem throw (e : Stop) : KeepsIssuer (MonadExcept.throw e : Op α) := by
  intro s y t _ hrun
  cases hrun

theorem change {g : State → State} (hg : ∀ s, s.me.tx.active = false → SameButTx s (g s)) :
    KeepsIssuer (modify g : Op PUnit) := by
  intro s y t hidle hrun
  cases hrun
  exact hg s hidle

theorem ite {p : Prop} [Decidable p] {m n : Op α} (hm : KeepsIssuer m) (hn : KeepsIssuer n) :
    KeepsIssuer (if p then m else n) := by
  split
  · exact hm
  · exact hn

theorem need (c : Bool) (cause : Nat) (a : Word) : KeepsIssuer (Machine.need c cause a) := .ite (.pure _) (.throw _)

theorem readyIf (c : Bool) : KeepsIssuer (Machine.readyIf c) := .ite (.pure _) (.throw _)

theorem orTrapAt (a : Word) (e : Except (Nat × Word) α) : KeepsIssuer (Machine.orTrapAt a e) := by
  cases e with
  | ok x => exact .pure x
  | error c => exact .throw _

end

/-- Marking a page. -/
theorem markPageOf (r : Runner) (t : Tr) (write : Bool) : KeepsIssuer (Machine.markPageOf r t write) :=
  .bind .get fun _ => .bind (.readyIf _) fun _ => .change fun _ hidle => markAccess_sameButTx r t write hidle

/-- One access of a load (R237, R482). -/
theorem readAt (g : Agent) (t : Tr) (z : Nat) : KeepsIssuer (Machine.readAt g t z) := by
  have hread (s : State) (hidle : s.me.tx.active = false) :
      SameButTx s (countRange (touch s (some g.who) true false t.pa z) t.pa z) :=
    .of_me ((countRange_me _ _ _).trans (touch_read_me hidle _ _ _ _))
  have houtside : KeepsIssuer (readOutside g (.instr g.lane) t.pa z) := by
    refine .bind .get fun s => ?_
    split
    · exact .pure _
    · exact .throw _
  refine .bind .get fun s => .ite (.bind houtside fun bs => .bind (.markPageOf _ _ _) fun _ => .pure bs)
    (.bind (.readyIf _) fun _ => .bind (.markPageOf _ _ _) fun _ => ?_)
  split
  · exact .pure _
  · exact .bind (.change fun s _ => .of_me rfl) fun _ => .pure _
  · exact .bind (.change hread) fun _ => .bind .get fun _ => .pure _

/-- The accesses of a load. -/
theorem readPieces (g : Agent) (l : List (Tr × Nat)) : KeepsIssuer (Machine.readPieces g l) := by
  induction l with
  | nil => exact .pure _
  | cons p l ih => exact .bind (.readAt g p.1 p.2) fun _ => .bind ih fun _ => .pure _

/-- One load of an issue (R298). -/
theorem loadOne (c : Copier) (a : Word) (z : Nat) : KeepsIssuer (c.loadOne a z) :=
  .bind .get fun _ => .bind (.orTrapAt _ _) fun _ => .bind (.need _ _ _) fun _ => .bind (.need _ _ _) fun _ =>
    .bind (.need _ _ _) fun _ => .bind (.need _ _ _) fun _ => .bind (.need _ _ _) fun _ => .readPieces _ _

/-- Consecutive loads. -/
theorem loads (c : Copier) (z n : Nat) : ∀ a, KeepsIssuer (c.loads z n a) := by
  induction n with
  | zero => exact fun _ => .pure _
  | succ n ih => exact fun a => .bind (.loadOne c a z) fun _ => .bind (ih _) fun _ => .pure _

/-- The record or list of an issue. -/
theorem load (c : Copier) (a : Word) (n z : Nat) : KeepsIssuer (c.load a n z) := .loads c z (n / z) a

end KeepsIssuer

/-! ## KBOUND (R386, R387, R390) -/

section
variable {s q u : State} {a b d : Reg} {v : Bool} {x : BitVec 3}

/-- A list whose bytes lie in memory of the package. -/
theorem run_listHome {la : Word} {ds : List Portion}
    (h : ∀ p ∈ ds, (poolOf p.t.pa).isMemory = true → packageOf p.t.pa = q.pkg.toNat) : (listHome la ds).run q = .ok ((), q) := by
  refine (run_bind_ok (run_get q)).trans (run_need_of ?_)
  rw [Bool.not_eq_true', List.any_eq_false]
  intro p hp hboth
  obtain ⟨hmem, hpkg⟩ := Bool.and_eq_true_iff.mp hboth
  exact bne_iff_ne.mp hpkg (h p hp hmem)

/-- A plan that is queued and the answers spent. -/
theorem run_issueUsher_spend {c : Copier} {n : Nat} {p : Plan} (hc : c.lane = false) (h : SpentAtUsher n p q u) :
    (issueUsher n p >>= fun _ => c.spend).run q = .ok ((), u) := by
  obtain ⟨t, ht, rfl⟩ := h
  rw [run_bind_ok (Laws.run_issueUsher ht), run_spend, hc]

end

/-- The selection forms. -/
theorem selectionForms : SelectionForms := by
  refine ⟨?kbound, ?klist⟩
  case kbound =>
    intro s u a v x hissue c plain ra bs qs vs pages ds q1 q2 q hra hrecord w hbad z hquery hlist hpages hdst hhome query hqueue
    refine (Exec.kbound s).trans (usherForm_ok hissue ?_)
    exact (run_bind_ok (run_reg a _)).trans ((run_bind_ok hra).trans ((run_bind_ok hrecord).trans
      ((run_bind_ok (run_need_of (by rw [hbad]; rfl))).trans ((run_bind_ok hquery).trans ((run_bind_ok hlist).trans
      ((run_bind_ok hpages).trans ((run_bind_ok (run_usherDst hdst)).trans ((run_bind_ok (run_listHome hhome)).trans
      ((run_bind_ok (run_get _)).trans (run_issueUsher_spend rfl hqueue))))))))))
  case klist =>
    intro s u d a b v x hissue c aa ba da ab bb as bs ds q1 q haa hba hla hlb ha hb hbada hbadb hmode hthresh n hda haa' hba'
      has hbs hkeys hdst hhome hapart hqueue
    have hidle : (onward s).me.tx.active = false := hissue.2.1
    have hq1 := KeepsIssuer.load c _ _ _ _ _ _ hidle hla
    have hq : SameButTx (onward s) q := hq1.trans (KeepsIssuer.load c _ _ _ _ _ _ (hq1.idle hidle) hlb)
    have hreg (r : Reg) : (reg r).run q = .ok (s.me.sreg r, q) := by rw [run_reg, hq.sreg]; rfl
    refine (Exec.klist s).trans (usherForm_ok hissue ?_)
    refine (run_bind_ok (run_reg a _)).trans ((run_bind_ok haa).trans ((run_bind_ok (run_reg b _)).trans ((run_bind_ok hba).trans
      ((run_bind_ok hla).trans ((run_bind_ok hlb).trans ((run_bind_ok (run_need_of (by rw [hbada]; rfl))).trans
      ((run_bind_ok (run_need_of ?_)).trans ((run_bind_ok (hreg d)).trans ((run_bind_ok hda).trans ((run_bind_ok (hreg a)).trans
      ((run_bind_ok haa').trans ((run_bind_ok (hreg b)).trans ((run_bind_ok hba').trans ((run_bind_ok (run_get _)).trans
      ((run_bind_ok (Laws.run_orTrap_ok has)).trans ((run_bind_ok (Laws.run_orTrap_ok hbs)).trans
      ((run_bind_ok (Laws.run_keyCause hkeys)).trans ((run_bind_ok (run_usherDst hdst)).trans
      ((run_bind_ok (run_listHome hhome)).trans ((run_bind_ok (run_need_of ?_)).trans
      (run_issueUsher_spend rfl hqueue)))))))))))))))))))))
    · rw [hbadb, hmode, beq_self_eq_true]
      by_cases h0 : headMode ha = 0
      · rw [hthresh h0, beq_self_eq_true, Bool.or_true]; rfl
      · rw [← hmode, bne_iff_ne.mpr h0]; rfl
    · rw [Bool.not_eq_true', List.any_eq_false]
      intro p hp hany
      obtain ⟨y, hy, hmeets⟩ := List.any_eq_true.mp hany
      rw [hapart p hp y hy] at hmeets
      cases hmeets

/-! ## KFETCH (R391, R392) -/

/-- A fetch of listed pages. -/
theorem keyFetch : KeyFetch := by
  intro s u d a b v x hissue hgroup c plain w first cnt hres hkind hcnt hmax la ea hs es pages q1 q t o hla hhead hbad hheld
    hea hlist vals e8 frag hpages span halign hplace p hcan hload hu
  have hidle : (onward s).me.tx.active = false := hissue.2.1
  have hq1 := KeepsIssuer.load c _ _ _ _ _ _ hidle hhead
  have hq : SameButTx (onward s) q := hq1.trans (KeepsIssuer.load c _ _ _ _ _ _ (hq1.idle hidle) hlist)
  have hreg1 (r : Reg) : (reg r).run q1 = .ok (s.me.sreg r, q1) := by rw [run_reg, hq1.sreg]; rfl
  have hreg (r : Reg) : (reg r).run q = .ok (s.me.sreg r, q) := by rw [run_reg, hq.sreg]; rfl
  refine (Exec.kfetch s).trans ((runLead_needGroup_group hgroup).trans ((runLead_usherBody hissue).trans (runLead_ok (u := ()) ?_)))
  have hcontrol : (slice w 63 37 == 0 && decide (slice w 33 32 < 2) && cnt != 0 && decide (cnt ≤ 256)) = true := by
    rw [beq_iff_eq.mpr hres, decide_eq_true hkind, bne_iff_ne.mpr hcnt, decide_eq_true hmax]
    rfl
  have hheader : (!headBad (leNat hs) && decide (first + cnt ≤ headHeld (leNat hs))) = true := by
    rw [hbad, decide_eq_true hheld]
    rfl
  have hready : (readyIf (canIssue q p)).run q = .ok ((), q) := by rw [hcan, run_readyIf_true]
  have hroom : (readyIf (decide (porterLoad q (pickPorter q) < 32))).run q = .ok ((), q) := by
    rw [decide_eq_true hload, run_readyIf_true]
  rw [show u = _ from hu]
  exact (run_bind_ok (run_reg b _)).trans ((run_bind_ok (run_need_of hcontrol)).trans ((run_bind_ok (run_reg a _)).trans
    ((run_bind_ok hla).trans ((run_bind_ok hhead).trans ((run_bind_ok (run_need_of hheader)).trans ((run_bind_ok (hreg1 a)).trans
    ((run_bind_ok hea).trans ((run_bind_ok hlist).trans ((run_bind_ok hpages).trans ((run_bind_ok (hreg d)).trans
    ((run_bind_ok (run_need_of (beq_iff_eq.mpr halign))).trans ((run_bind_ok hplace).trans ((run_bind_ok (run_get _)).trans
    ((run_bind_ok hready).trans ((run_bind_ok hroom).trans ((run_bind_ok (run_modify _ _)).trans (run_spend c _)))))))))))))))))

end Sys2Proof.Machine

namespace Sys2Proof

open Sys2Proof.Machine Sys2Proof.Claims

/-- Settles O34: the three forms, each by its chain of checks. -/
theorem selections : Obligations.Selections := by
  unfold Obligations.Selections
  exact ⟨selectionForms, keyFetch⟩

end Sys2Proof

/-! # A squad that is to be saved while the fallback lock is held (R288, R454)

O38 claims that a squad whose engines have all acknowledged is saved by PREEMPTION_COMPLETE. The model saves it only once its
accepted writes can arrive, and a write to a line of the holder of the fallback lock cannot (R288). -/

namespace Sys2Proof.Machine

open Sys2Proof Sys2Proof.Claims

@[simp] theorem notify_squads (n kind src : Nat) (s : State) : (notify n kind src s).squads = s.squads := rfl

@[simp] theorem dropRunners_squads (p : Runner → Bool) (s : State) : (dropRunners p s).squads = s.squads := by
  unfold dropRunners
  dsimp only
  split
  · split <;> rfl
  · rfl

@[simp] theorem assertNotice_squads (n : Nat) (s : State) : (assertNotice n s).squads = s.squads := by
  unfold assertNotice
  split
  · split
    · rfl
    · exact notify_squads ..
  · rfl

/-- A squad that has been saved is resident no more (R454). -/
theorem uid_ne_of_mem_saveSquad {q x : Squad} {s : State} (hx : x ∈ (saveSquad q s).squads) : x.uid ≠ q.uid := by
  rw [saveSquad, assertNotice_squads, dropRunners_squads] at hx
  simpa using (List.mem_filter.mp hx).2

/-- A squad that is to leave, but whose writes wait for the holder of the fallback lock, stays (R288). -/
theorem execPreemptionComplete_locked {squad : Nat} {q : Squad} {s : State}
    (hq : s.squads.find? (fun q => q.uid == squad) = some q)
    (hlocked : arriveLocked s (fun w => (squadGroups s q.uid).any fun r => r.id == w.who) = true) :
    execPreemptionComplete squad s = .next s := by
  simp only [execPreemptionComplete, hq, hlocked, Bool.not_true, Bool.and_false, Bool.false_eq_true, if_false]

/-! ## The state -/

/-- A host core that holds the fallback lock in a transaction which has read byte 0 (R287, R288). -/
def lockHolder : Runner :=
  { Runner.hostReset 0 with tx := { Tx.none with active := true, fb := true, rlog := [(0, 0)] } }

/-- A group at rest, the one member of its team. -/
def leavingGroup : Runner := { Runner.zero (.group 1) with team := 1 }

/-- The team of that group. -/
def leavingTeam : Team where
  uid := 1
  grid := 0
  ctx := 1
  no := 0
  x := 0
  y := 0
  z := 0
  squad := 1
  sidx := 0
  core := 0
  len := 0
  exch := 0
  lswz := 0
  land := []
  shadow := []
  tiles := 0
  acc := []
  vers := Vector.replicate 16 0
  ck := none
  groups := 1
  exited := false
  row := 0
  tile0 := 0
  ownCore := 0
  ownRow := 0
  ownTile := 0
  ownRec := 0
  ownOps := []
  ownStreams := []
  ownSnap := []

/-- Its squad, told to leave. -/
def leavingSquad : Squad := ⟨1, 0, 1, 0, 0, 0, [1], true, 0⟩

/-- A write of the group to byte 0, performed on its die and not yet at home. -/
def heldWrite : PWrite := ⟨0, .group 1, false, 0, 0, [1], 0, false, 0, false, true⟩

/-- The package after reset, with the group resident and its write held back by the holder of the lock. -/
def lockedOutSquad : State :=
  { State.reset with
    me := lockHolder
    others := [leavingGroup]
    pend := [heldWrite]
    squads := [leavingSquad]
    teams := [leavingTeam]
    wicket := ⟨1, some (.host 0), [], 0⟩ }

theorem squadGroups_lockedOutSquad : squadGroups lockedOutSquad 1 = [leavingGroup] := rfl

theorem lockedLines_lockedOutSquad : lockedLines lockedOutSquad = [0] := by decide

/-- Every engine of the squad is at its point. -/
theorem squadStill_lockedOutSquad : squadStill lockedOutSquad leavingSquad = true := by decide

/-- The write of the squad waits for the holder of the lock. -/
theorem arriveLocked_lockedOutSquad :
    arriveLocked lockedOutSquad (fun w => (squadGroups lockedOutSquad 1).any fun r => r.id == w.who) = true := by
  decide

end Sys2Proof.Machine

namespace Sys2Proof

open Sys2Proof.Machine Sys2Proof.Claims

/-- Refutes O38: a squad whose engines have all acknowledged is not saved while one of its accepted writes waits for the
holder of the fallback lock (R288); the state `lockedOutSquad` shows it. -/
theorem not_scheduler : ¬ Obligations.Scheduler := by
  rintro ⟨hsteps, -, -⟩
  obtain ⟨-, -, -, -, -, -, hsave, -⟩ := hsteps lockedOutSquad 0 0 0 1 0 (Part.atReset 0) rfl
  have hsaves : execPreemptionComplete 1 lockedOutSquad = .next (saveSquad leavingSquad lockedOutSquad) :=
    (hsave leavingSquad rfl rfl).1 squadStill_lockedOutSquad
  have hstays : execPreemptionComplete 1 lockedOutSquad = .next lockedOutSquad :=
    execPreemptionComplete_locked (q := leavingSquad) rfl arriveLocked_lockedOutSquad
  have hsame : saveSquad leavingSquad lockedOutSquad = lockedOutSquad := Host.Outcome.next.inj (hsaves.symm.trans hstays)
  have hmem : leavingSquad ∈ (saveSquad leavingSquad lockedOutSquad).squads := by
    rw [hsame]
    exact List.mem_singleton_self _
  exact uid_ne_of_mem_saveSquad hmem rfl

end Sys2Proof

/-! # A halt and the resets (R446 to R449, R475, R495)

O41. A halt that is not collected goes on by the engines that are left: one that stops acknowledges, those that have
counted 4096 clocks are blocked, and the halt is collected once none is left. -/

namespace Sys2Proof.Machine

open Sys2Proof Sys2Proof.Claims

variable {s : State} {part engine : Nat} {p : Part} {h : Halt}

/-- An engine that is left stops, and acknowledges (R447). -/
theorem execEngineStop_left (hhalt : halting s part = some (p, h)) (hleft : (enginesLeft p h).contains engine = true) :
    execEngineStop part engine s =
      .next (onHalt part (fun h => { h with acked := h.acked ++ [engine] }) (stopEngine p h 0xB3 s engine)) := by
  simp only [execEngineStop, hhalt, if_pos hleft]

/-- An engine that has acknowledged, or is blocked, does not stop again. -/
theorem execEngineStop_done (hhalt : halting s part = some (p, h)) (hleft : (enginesLeft p h).contains engine = false) :
    execEngineStop part engine s = .next s := by
  simp only [execEngineStop, hhalt, hleft, Bool.false_eq_true, if_false]

/-- The engines that are left and have counted 4096 clocks (R449). -/
def lateEngines (s : State) (p : Part) (h : Halt) : List Nat :=
  (enginesLeft p h).filter fun n => decide (4096 ≤ skidOf s p h n)

/-- The late engines are blocked. -/
theorem execSkidOverrun_late (hhalt : halting s part = some (p, h)) (hlate : lateEngines s p h ≠ []) :
    execSkidOverrun part s = .next (onHalt part (fun x => { x with blocked := x.blocked ++ lateEngines s p h })
      ((lateEngines s p h).foldl (stopEngine p h 0xB4) s)) := by
  simp only [execSkidOverrun, hhalt]
  exact if_neg fun hnone => hlate (List.isEmpty_iff.mp hnone)

/-- Without a late engine nothing is blocked. -/
theorem execSkidOverrun_none (hhalt : halting s part = some (p, h)) (hlate : lateEngines s p h = []) :
    execSkidOverrun part s = .next s := by
  simp only [execSkidOverrun, hhalt]
  exact if_pos (List.isEmpty_iff.mpr hlate)

/-- A halt with no engine left is collected. -/
theorem execHaltCollected_all (hhalt : halting s part = some (p, h)) (hleft : enginesLeft p h = []) :
    execHaltCollected part s = .next (collectHalt p h s) := by
  simp only [execHaltCollected, hhalt, hleft, List.isEmpty_nil, if_true]

/-- A halt with an engine left is not collected yet. -/
theorem execHaltCollected_some (hhalt : halting s part = some (p, h)) (hleft : enginesLeft p h ≠ []) :
    execHaltCollected part s = .next s := by
  simp only [execHaltCollected, hhalt]
  exact if_neg fun hnone => hleft (List.isEmpty_iff.mp hnone)

/-- A partition reset carries out the halt and clears what it names (R475). -/
theorem execPartitionReset_part (hp : s.parts.find? (fun p => p.no == part) = some p) :
    execPartitionReset part s = .next (clearPart p (haltNow part s)) := by
  simp only [execPartitionReset, hp]

/-- The stopped host core that runs is as after reset, but for its partition and its interrupts (R439). -/
theorem execHostCoreRestart_stopped {n : Nat} (hme : s.me.id = .host n) (hstopped : s.me.stopped = true) :
    ∃ t, execHostCoreRestart n s = .next t ∧
      t.me = { Runner.hostReset n with part := s.me.part, ints := s.me.ints } ∧ t.mem = s.mem :=
  ⟨_, rfl, by simp only [onRunner_me, hme, hstopped, if_true], rfl⟩

end Sys2Proof.Machine

namespace Sys2Proof

open Sys2Proof.Machine Sys2Proof.Claims

/-- Settles O41: each step by the halt that its partition has, and by what that halt has left. -/
theorem haltsAndResets : Obligations.HaltsAndResets := by
  intro s part engine
  refine ⟨fun p h hhalt => ⟨execEngineStop_left hhalt, execEngineStop_done hhalt,
      ⟨execSkidOverrun_late hhalt, execSkidOverrun_none hhalt⟩, execHaltCollected_all hhalt, execHaltCollected_some hhalt⟩,
    fun p hp => execPartitionReset_part hp, fun n hme hstopped => execHostCoreRestart_stopped hme hstopped, rfl⟩

end Sys2Proof

/-! # Launching, waiting for and ending grids (R400 to R403, R407, R412, R417)

O37. Each form is taken apart in the order of its steps: what it checks first lets it go on, and the last step that is left
answers. -/

namespace Sys2Proof.Machine

open Sys2Proof Sys2Proof.Claims

section
variable {s : State} {d a b : Reg}

/-! ## LWAITG (R417) -/

/-- What LWAITG leaves where the grid has not completed: an answer from outside that it has read is spent. -/
def asksAgain (s : State) : State :=
  if s.outb.isEmpty then s
  else outSpend s.me.id (.instr false) { s with me := { s.me with wait := if s.me.wait = .answer then .none else s.me.wait } }

theorem asksAgain_eq (s : State) : asksAgain s = spent s.me.id false s := by
  unfold asksAgain spent
  split
  · rfl
  · next h => simp only [outSpend, h, Bool.false_eq_true, if_false, true_and]

section
variable {t : Tr} (htx : s.me.tx.active = false) (hacc : LeadAccess (onward s) (s.me.sreg a) 8 Need.read t)
include htx hacc

/-- The word that LWAITG reads. -/
theorem run_leadRead_word (hmark : markReady (onward s) (onward s).me t false = true) : (leadRead (s.me.sreg a) t 8).run (onward s) =
    .ok (dieSees t 8 (onward s), spent s.me.id false (readDone t 8 (onward s))) :=
  Laws.run_leadRead (leadAccess_isMemory hacc) (leadAccess_answered hacc) hmark htx

/-- LWAITG reads its word, and delivers it or waits. -/
theorem execLwaitg_reads : execLwaitg d a s = runLead (leadRead (s.me.sreg a) t 8 >>= fun n =>
    if (BitVec.ofNat 64 n).getLsbD 63 then setReg d (BitVec.ofNat 64 n) else throw (.park asksAgain)) s :=
  (runLead_notInTx htx).trans (runLead_reg.trans (runLead_bind_ok (run_leadCheck_memory hacc htx)))

/-- LWAITG of a grid that has completed. -/
theorem execLwaitg_complete (hmark : markReady (onward s) (onward s).me t false = true)
    (hv : (BitVec.ofNat 64 (dieSees t 8 (onward s))).getLsbD 63 = true) :
    let u := spent s.me.id false (readDone t 8 (onward s))
    execLwaitg d a s =
      .next { u with me := { u.me with s := sregSet u.me.s d (BitVec.ofNat 64 (dieSees t 8 (onward s))) } } := by
  refine (execLwaitg_reads htx hacc).trans (runLead_ok (u := ()) ?_)
  rw [run_bind_ok (run_leadRead_word htx hacc hmark), if_pos hv, run_setReg]

/-- LWAITG of a grid that has not. -/
theorem execLwaitg_waits (hmark : markReady (onward s) (onward s).me t false = true)
    (hv : (BitVec.ofNat 64 (dieSees t 8 (onward s))).getLsbD 63 = false) :
    execLwaitg d a s = .next (spent s.me.id false s) := by
  rw [← asksAgain_eq]
  refine (execLwaitg_reads htx hacc).trans (runLead_error (e := .park asksAgain) ?_)
  rw [run_bind_ok (run_leadRead_word htx hacc hmark), hv]
  rfl

end

/-! ## GSTAT and GEXIT (R417) -/

/-- GSTAT of a live grid. -/
theorem execGstat_live {g : Grid} (hg : namedGrid s (s.me.sreg a) = some g) :
    execGstat d a s = .next (writes d (gridWord (onward s) g) s) := by
  refine runLead_reg.trans (runLead_get.trans ?_)
  rw [show namedGrid (onward s) (s.me.sreg a) = some g from hg]
  exact runLead_ok (u := ()) rfl

/-- GSTAT of no live grid. -/
theorem execGstat_none (hg : namedGrid s (s.me.sreg a) = none) : execGstat d a s = .next (writes d 0 s) := by
  refine runLead_reg.trans (runLead_get.trans ?_)
  rw [show namedGrid (onward s) (s.me.sreg a) = none from hg]
  exact runLead_ok (u := ()) rfl

/-- The interval of a team that is not clean any more is not the runner's. -/
@[simp] theorem markDirty_me (s : State) : (markDirty s).me = s.me := by
  unfold markDirty
  split <;> rfl

/-- GEXIT once its issuer's earlier accesses are performed. -/
theorem execGexit_released (htx : s.me.tx.active = false) (hidle : outboundIdle (onward s) = true)
    (hrel : CanReleaseAt 7 2 (onward s)) :
    let q := markDirty (releaseState 7 (onward s))
    execGexit a b s = .next (match namedGrid q (q.me.sreg a) with
      | some g => endGrid g.handle 1 (slice (q.me.sreg b) 15 0) q
      | none => q) := by
  intro q
  have hq : (releaseState 7 (onward s)).me = q.me := (markDirty_me _).symm
  have hbefore : (before 7 2).run (onward s) = .ok ((), releaseState 7 (onward s)) := Laws.run_before hrel
  refine (runLead_notInTx htx).trans (runLead_get.trans ((runLead_readyIf_true hidle).trans (runLead_ok (u := ()) ?_)))
  rw [run_bind_ok hbefore]
  simp only [run_bind, run_reg, run_modify, run_get, hq]
  change StateT.run (match namedGrid q (q.me.sreg a) with | some g => _ | none => _) q = _
  cases namedGrid q (q.me.sreg a) <;> rfl

/-! ## TEXIT (R417) -/

/-- A wait for the lanes that is over. -/
theorem run_waitDrained (hover : waitOver true 0 s = true) (hidle : lanesIdle s = true) :
    waitDrained.run s = .ok ((), drainLanes s) := by
  simp only [waitDrained, run_bind, run_get, hover, hidle, Bool.and_self, run_readyIf_true, run_modify]

/-- TEXIT of a group whose lanes are done, where its exit need not wait for a checkpoint. -/
theorem execTexit_drained (hg : s.me.isHost = false) (htx : s.me.tx.active = false) (hover : waitOver true 0 (onward s) = true)
    (hidle : lanesIdle (onward s) = true) :
    let q := drainLanes (onward s)
    let left := countExit q.me.team (dropRunners (fun r => r.id == q.me.id) q)
    (ckDue left q.me.team && ckBusy left q.me.team) = false →
    execTexit s = .next (settleSquad (((myTeam q).map (·.squad)).getD 0) (settleTeam q.me.team left)) := by
  intro q left hck
  refine (runLead_groupForm hg htx).trans (runLead_ok (u := ()) ?_)
  rw [run_bind_ok (run_waitDrained hover hidle)]
  change (readyIf (!(ckDue left q.me.team && ckBusy left q.me.team)) >>= fun _ => _).run q = _
  rw [hck]
  rfl

/-! ## VGROW and VSHRINK (R412, R413) -/

section
variable (hg : s.me.isHost = false) (htx : s.me.tx.active = false) (hn : countOk (s.me.sreg a).toNat = true)
include hg htx hn

/-- VGROW to no more registers than the group has. -/
theorem execVgrow_le (hle : (s.me.sreg a).toNat ≤ s.me.l.count) :
    execVgrow d a s = .next (writes d (BitVec.ofNat 64 s.me.l.count) s) :=
  (runLead_groupForm hg htx).trans (runLead_reg.trans ((runLead_need_true hn).trans (runLead_get.trans
    ((congrArg (runLead · s) (if_pos hle)).trans (runLead_ok (u := ()) rfl)))))

/-- The VGROW of a group waits, from its first clock on. -/
def asksBlocks (n : Nat) (s : State) : State := onLane (fun l => { l with grow := l.grow.or (some (n, coreClock s s.me.core)) }) s

section
variable (hlt : s.me.l.count < (s.me.sreg a).toNat)
  (hteam : teamBlocks (onward s) + (blocksOf (s.me.sreg a).toNat - blocksOf s.me.l.count) ≤ 256)
include hlt hteam

/-- VGROW to more, within what its team may hold, has its registers or waits for blocks. -/
theorem execVgrow_gt : execVgrow d a s = runLead
    (if blocksHeld (onward s) s.me.core + (blocksOf (s.me.sreg a).toNat - blocksOf s.me.l.count) ≤ 256 ∧
        !growBehind (onward s) (onward s).me
      then onLanes (growTo (s.me.sreg a).toNat) >>= fun _ => setReg d (s.me.sreg a)
      else throw (.park (asksBlocks (s.me.sreg a).toNat))) s :=
  (runLead_groupForm hg htx).trans (runLead_reg.trans ((runLead_need_true hn).trans (runLead_get.trans
    ((congrArg (runLead · s) (if_neg (Nat.not_le.mpr hlt))).trans (runLead_need_true (decide_eq_true hteam))))))

/-- Blocks that are free are the group's at once. -/
theorem execVgrow_fits
    (hfree : blocksHeld (onward s) s.me.core + (blocksOf (s.me.sreg a).toNat - blocksOf s.me.l.count) ≤ 256)
    (hfirst : growBehind (onward s) (onward s).me = false) :
    execVgrow d a s = .next (onLane (growTo (s.me.sreg a).toNat) (writes d (s.me.sreg a) s)) := by
  rw [execVgrow_gt hg htx hn hlt hteam, if_pos ⟨hfree, by rw [hfirst]; rfl⟩]
  exact runLead_ok (u := ()) rfl

/-- A group that finds none free, or behind one placed before it, waits. -/
theorem execVgrow_waits (hnone : 256 < blocksHeld (onward s) s.me.core +
      (blocksOf (s.me.sreg a).toNat - blocksOf s.me.l.count) ∨ growBehind (onward s) (onward s).me = true) :
    execVgrow d a s = .next (asksBlocks (s.me.sreg a).toNat s) := by
  have hcannot : ¬ (blocksHeld (onward s) s.me.core + (blocksOf (s.me.sreg a).toNat - blocksOf s.me.l.count) ≤ 256 ∧
      (!growBehind (onward s) (onward s).me) = true) := by
    rintro ⟨hfree, hfirst⟩
    rcases hnone with hfull | hbehind
    · exact absurd hfree (Nat.not_le.mpr hfull)
    · rw [hbehind] at hfirst
      exact absurd hfirst (by decide)
  rw [execVgrow_gt hg htx hn hlt hteam, if_neg hcannot]
  exact runLead_park (asksBlocks _)

end

/-- VSHRINK to no fewer registers than the group has. -/
theorem execVshrink_le (hle : s.me.l.count ≤ (s.me.sreg a).toNat) :
    execVshrink d a s = .next (writes d (BitVec.ofNat 64 s.me.l.count) s) :=
  (runLead_groupForm hg htx).trans (runLead_reg.trans ((runLead_need_true hn).trans (runLead_get.trans
    ((congrArg (runLead · s) (if_pos hle)).trans (runLead_ok (u := ()) rfl)))))

/-- VSHRINK to fewer, once the lanes are done. -/
theorem execVshrink_gt (hlt : (s.me.sreg a).toNat < s.me.l.count) (hover : waitOver true 0 (onward s) = true)
    (hidle : lanesIdle (onward s) = true) :
    execVshrink d a s = .next (onLane (fun l => { l with count := (s.me.sreg a).toNat })
      { drainLanes (onward s) with
        me := { (drainLanes (onward s)).me with s := sregSet (drainLanes (onward s)).me.s d (s.me.sreg a) } }) :=
  (runLead_groupForm hg htx).trans (runLead_reg.trans ((runLead_need_true hn).trans (runLead_get.trans
    ((congrArg (runLead · s) (if_neg (Nat.not_le.mpr hlt))).trans
      (runLead_ok (u := ()) (run_bind_ok (run_waitDrained hover hidle)))))))

end

end

/-! ## LAUNCH (R402) -/

/-- Bytes that were read, as bytes of their number. -/
theorem length_viewRead (s : State) (who : Option RunnerId) (die key : Nat) :
    ∀ n pa : Nat, (viewRead s who die key pa n).length = n
  | 0, _ => rfl
  | n + 1, pa => by rw [viewRead, List.length_cons, length_viewRead s who die key n]

/-- What a runner sees in n bytes is a number of n bytes. -/
theorem leNat_leBytes_dieSees (t : Tr) (n : Nat) (s : State) : leNat (leBytes n (dieSees t n s)) = dieSees t n s := by
  have hlt := leNat_lt (viewRead (readDone t n s) (some s.me.id) s.me.die ((keyId s t.key).getD 0) t.pa n)
  rw [length_viewRead] at hlt
  exact (leNat_leBytes n _).trans (Nat.mod_eq_of_lt hlt)

/-- Two branches that go on alike go on with what the branch taken answers. -/
theorem run_ite_bind {α β : Type} {p : Prop} [Decidable p] {m n : Op α} {k : α → Op β} {x : α} {s t : State}
    (h : (if p then m else n).run s = .ok (x, t)) : (if p then m >>= k else n >>= k).run s = (k x).run t := by
  by_cases hp : p
  · rw [if_pos hp] at h
    rw [if_pos hp, run_bind_ok h]
  · rw [if_neg hp] at h
    rw [if_neg hp, run_bind_ok h]

/-- Another address reported changes nothing where nothing is reported. -/
theorem run_faultingAt {α : Type} {m : Op α} {x : α} {ad : Word} {s t : State} (h : m.run s = .ok (x, t)) :
    (faultingAt ad m).run s = .ok (x, t) := by
  change (match m.run s with | .error (.trap cause _) => Except.error (Stop.trap cause ad) | r => r) = _
  rw [h]

/-- The last part of a LAUNCH, from where its record has been found in order in `q`: the grid enters its queue, or finds
it full. -/
def enterQueue (d : Reg) (try_ : Bool) (q : State) (w : Nat) (shape : Shape) (t : Tr) (preds : List (Nat × Nat)) : Op Unit := do
  if 256 ≤ queueLoad q q.me.part (recQueue w) then
    if try_ then setReg d 0 else throw .wait
  else do
    clearDone t
    modify fun s => { s with grids := s.grids ++ [newGrid s w shape t preds] }
    modify markDirty
    setReg d (BitVec.ofNat 64 (recDone w))
  spendAnswers (leadAgent (← get))

/-- The record of a LAUNCH that passes every check of R402 and R403: it is read in `q0`, and its dispatch table leaves
`q1`. -/
structure LaunchChecked (s : State) (a : Reg) (t t2 : Tr) (preds prod : List (Nat × Nat)) (w : Nat) (shape : Shape)
    (q0 q1 : State) : Prop where
  ctx : s.me.ctx ≠ 0
  tx : s.me.tx.active = false
  idle : outboundIdle (onward s) = true
  release : CanReleaseAt 7 2 (onward s)
  released : q0 = releaseState 7 (onward s)
  tx0 : q0.me.tx.active = false
  base : q0.me.sreg a = s.me.sreg a
  aligned : (s.me.sreg a).toNat % 128 = 0
  access : LeadAccess q0 (s.me.sreg a) 128 Need.read t
  mark : markReady q0 q0.me t false = true
  record : w = dieSees t 128 q0
  depth : issuerDepth (readDone t 128 q0) ≠ 10
  fields : launchBad (readDone t 128 q0) w = false
  own : recDispatch w = 0 → shape = recShape w ∧ q1 = readDone t 128 q0
  table : recDispatch w ≠ 0 → (readTable (BitVec.ofNat 64 (recDispatch w))).run (readDone t 128 q0) = .ok (shape, q1)
  shape : shapeBad (recSquad w) shape = false
  done : (namedWord (BitVec.ofNat 64 (recDone w)) Need.write).run q1 = .ok (t2, q1)
  ranges : rangeHit (readDone t 128 q0) (readDone t 128 q0).me.part t2.pa 8 true = false
  preds : (predWords ((List.range 4).map (recPred w))).run q1 = .ok (preds, q1)
  producer : (predWords [recProducer w]).run q1 = .ok (prod, q1)

section
variable {s : State} {d a : Reg} {t t2 : Tr} {preds prod : List (Nat × Nat)} {w : Nat} {shape : Shape} {q0 q1 : State}
  (h : LaunchChecked s a t t2 preds prod w shape q0 q1)
include h

/-- The record as it is read. -/
theorem LaunchChecked.run_record : (readAt (leadAgent q0) t 128).run q0 =
    .ok (viewRead (readDone t 128 q0) (some q0.me.id) q0.me.die ((keyId q0 t.key).getD 0) t.pa 128, readDone t 128 q0) :=
  Laws.run_readAt (leadAccess_isMemory h.access) (leadAccess_answered h.access) h.mark

/-- The shape that the launch takes. -/
theorem LaunchChecked.run_shape : (if recDispatch w = 0 then pure (recShape w)
      else faultingAt (BitVec.ofNat 64 (recDispatch w)) (readTable (BitVec.ofNat 64 (recDispatch w)))).run (readDone t 128 q0) =
    .ok (shape, q1) := by
  by_cases hd : recDispatch w = 0
  · obtain ⟨hshape, hq⟩ := h.own hd
    rw [if_pos hd, run_pure, hshape, hq]
  · rw [if_neg hd]
    exact run_faultingAt (h.table hd)

/-- A launch whose record is in order comes to its queue. -/
theorem launchForm_checked (try_ : Bool) : launchForm d a try_ s =
    answer (fun e => stopLead e s) ((enterQueue d try_ (readDone t 128 q0) w shape t2 preds).run q1) := by
  have hbefore : (before 7 2).run (onward s) = .ok ((), q0) := by
    rw [h.released]
    exact Laws.run_before h.release
  refine (runLead_ctxForm h.ctx h.tx).trans (runLead_get.trans ((runLead_readyIf_true h.idle).trans
    ((runLead_answer _ s).trans (congrArg (answer _) ?_))))
  rw [run_bind_ok hbefore, run_bind_ok (run_reg a q0), h.base, run_bind_ok (run_need_of (beq_iff_eq.mpr h.aligned)),
    run_bind_ok (run_leadCheck_memory h.access h.tx0), run_bind_ok (run_get q0), run_bind_ok h.run_record,
    run_bind_ok (run_get _)]
  have hw : leNat (viewRead (readDone t 128 q0) (some q0.me.id) q0.me.die ((keyId q0 t.key).getD 0) t.pa 128) = w :=
    h.record.symm
  rw [hw, run_bind_ok (run_need_of (bne_iff_ne.mpr h.depth)), run_bind_ok (run_need_of (by rw [h.fields]; rfl))]
  refine (run_ite_bind h.run_shape).trans ?_
  rw [run_bind_ok (run_need_of (by rw [h.shape]; rfl)), run_bind_ok (run_faultingAt h.done),
    run_bind_ok (run_need_of (by rw [h.ranges]; rfl)), run_bind_ok (run_faultingAt h.preds),
    run_bind_ok (run_faultingAt h.producer)]
  rfl

end

/-- A register of the runner in focus written. -/
def setsReg (d : Reg) (x : Word) (s : State) : State := { s with me := { s.me with s := sregSet s.me.s d x } }

/-- The state with a new grid in its queue and its handle delivered. -/
def launched (d : Reg) (w : Nat) (shape : Shape) (t : Tr) (preds : List (Nat × Nat)) (u : State) : State :=
  setsReg d (BitVec.ofNat 64 (recDone w)) (markDirty { u with grids := u.grids ++ [newGrid u w shape t preds] })

section
variable {d : Reg} {q q1 : State} {w : Nat} {shape : Shape} {t : Tr} {preds : List (Nat × Nat)}

/-- A queue with room takes the grid once its completion word is clear. -/
theorem run_enterQueue_room {try_ : Bool} {u : State} (hroom : queueLoad q q.me.part (recQueue w) < 256)
    (hclear : (clearDone t).run q1 = .ok ((), u)) :
    (enterQueue d try_ q w shape t preds).run q1 =
      .ok ((), spent (launched d w shape t preds u).me.id false (launched d w shape t preds u)) := by
  unfold enterQueue
  rw [if_neg (Nat.not_le.mpr hroom), run_bind_ok hclear]
  exact Laws.run_spendAnswers _ _

section
variable (hfull : 256 ≤ queueLoad q q.me.part (recQueue w))
include hfull

/-- The try form delivers 0 where the queue is full. -/
theorem run_enterQueue_full_try : (enterQueue d true q w shape t preds).run q1 =
    .ok ((), spent (setsReg d 0 q1).me.id false (setsReg d 0 q1)) := by
  unfold enterQueue
  rw [if_pos hfull, if_pos rfl]
  exact Laws.run_spendAnswers _ _

/-- The other form waits. -/
theorem run_enterQueue_full : (enterQueue d false q w shape t preds).run q1 = .error .wait := by
  unfold enterQueue
  rw [if_pos hfull]
  rfl

end

end

section
variable {s : State} {d a : Reg} {t t2 : Tr} {preds prod : List (Nat × Nat)} {w : Nat} {shape : Shape} {q0 q1 : State}
  (h : LaunchChecked s a t t2 preds prod w shape q0 q1)
include h

/-- Both forms add the grid to a queue that has room. -/
theorem launchForm_room (try_ : Bool) {u : State}
    (hroom : queueLoad (readDone t 128 q0) (readDone t 128 q0).me.part (recQueue w) < 256)
    (hclear : (clearDone t2).run q1 = .ok ((), u)) : launchForm d a try_ s =
      .next (spent (launched d w shape t2 preds u).me.id false (launched d w shape t2 preds u)) := by
  rw [launchForm_checked h, run_enterQueue_room hroom hclear]
  rfl

/-- LAUNCH waits for a full queue. -/
theorem execLaunch_full (hfull : 256 ≤ queueLoad (readDone t 128 q0) (readDone t 128 q0).me.part (recQueue w)) :
    execLaunch d a s = .next s := by
  rw [execLaunch, launchForm_checked h, run_enterQueue_full hfull]
  rfl

/-- LAUNCH.try delivers 0 for a full queue. -/
theorem execLaunchTry_full (hfull : 256 ≤ queueLoad (readDone t 128 q0) (readDone t 128 q0).me.part (recQueue w)) :
    execLaunchTry d a s = .next (spent (setsReg d 0 q1).me.id false (setsReg d 0 q1)) := by
  rw [execLaunchTry, launchForm_checked h, run_enterQueue_full_try hfull]
  rfl

end

/-! ## GRID_READY (R407) -/

section
variable {s : State} {h : Word} {g : Grid}
  (hg : s.grids.find? (fun x => x.handle == h && !x.ready && x.stop.isNone) = some g) (hrun : halted s g.part = false)
include hg hrun

/-- A grid whose predecessors have all completed without a failure becomes ready. -/
theorem execGridReady_ready (hpreds : ∀ p ∈ g.preds, ∃ w, predWord s h p = some w ∧ w.getLsbD 63 = true ∧ predFailed w = false) :
    let t := outSpend scheduler (.grid h) s
    let readied (x : Grid) : Grid := { x with ready := true, unplacedSince := partClock s g.part }
    execGridReady h s = .next { t with grids := mapIf (fun x => x.handle == h) readied t.grids } := by
  have hread : ((g.preds.map (predWord s h)).all (·.isSome)) = true := by
    simp only [List.all_map, List.all_eq_true]
    intro p hp
    obtain ⟨w, hw, -, -⟩ := hpreds p hp
    simp [hw]
  have hdone : ((g.preds.map (predWord s h)).all fun w => w.any fun w => w.getLsbD 63) = true := by
    simp only [List.all_map, List.all_eq_true]
    intro p hp
    obtain ⟨w, hw, hbit, -⟩ := hpreds p hp
    simp [hw, hbit]
  have hfine : ((g.preds.map (predWord s h)).any fun w => w.any predFailed) = false := by
    simp only [List.any_map, List.any_eq_false]
    intro p hp
    obtain ⟨w, hw, -, hok⟩ := hpreds p hp
    simp [hw, hok]
  simp only [execGridReady, hg, hread, hrun, hfine, hdone, Bool.and_false, Bool.false_eq_true, if_true, if_false]

/-- A grid with a predecessor that failed is cancelled. -/
theorem execGridReady_cancel (hany : g.runany = false) (hfail : ∃ p ∈ g.preds, ∃ w, predWord s h p = some w ∧ predFailed w = true)
    (hlock : lockedOut s none g.done.1 8 = false) :
    execGridReady h s = .next (cancelGrid g (outSpend scheduler (.grid h) s)) := by
  have hfailed : ((g.preds.map (predWord s h)).any fun w => w.any predFailed) = true := by
    obtain ⟨p, hp, w, hw, hbad⟩ := hfail
    exact List.any_eq_true.mpr ⟨_, List.mem_map_of_mem hp, by rw [hw]; exact hbad⟩
  simp only [execGridReady, hg, hrun, hany, hfailed, hlock, Bool.not_false, Bool.and_self, Bool.false_eq_true, if_true, if_false]

end

section
variable {s : State} {g : Grid} {w : Word}

/-- A grid whose completion word is written in the package is live no more (R399). -/
theorem handle_ne_of_mem_writeDone (ho : answeredOutside s g.done.1 = false) {x : Grid} (hx : x ∈ (writeDone g w s).grids) :
    x.handle ≠ g.handle := by
  unfold writeDone at hx
  simp only [ho, Bool.false_eq_true, if_false] at hx
  split at hx <;> simpa using (List.mem_filter.mp hx).2

/-- The grids after a cancellation are those after its completion word, each with its handle; what the handle of the grid
names is stopped. -/
theorem mem_cancelGrid {x : Grid} (hx : x ∈ (cancelGrid g s).grids) :
    (∃ y ∈ (writeDone g (doneWord 3 0 0) s).grids, y.handle = x.handle) ∧ (x.handle = g.handle → x.stop = some (3, 0)) := by
  obtain ⟨y, hy, rfl⟩ := List.mem_map.mp hx
  by_cases hh : y.handle = g.handle
  · rw [if_pos (beq_iff_eq.mpr hh)]
    exact ⟨⟨y, hy, rfl⟩, fun _ => rfl⟩
  · rw [if_neg (by simpa using hh)]
    exact ⟨⟨y, hy, rfl⟩, fun he => absurd he hh⟩

end

end Sys2Proof.Machine

namespace Sys2Proof

open Sys2Proof.Machine Sys2Proof.Claims

/-- Settles O37: each form by its steps in order, LAUNCH as far as its queue. -/
theorem launchForms : Obligations.LaunchForms := by
  intro s d a b htx
  refine ⟨?launch, fun t hacc hmark => ⟨execLwaitg_complete htx hacc hmark, execLwaitg_waits htx hacc hmark⟩,
    fun g => execGstat_live, execGstat_none, ?gexit, fun hg => execTexit_drained hg htx, ?registers, ?ready⟩
  case launch =>
    intro t t2 preds prod w shape q0 q1 hctx hidle hrel hq0 htx0 ra hbase halign hacc hmark hw q hdepth hbad hown htable hshape
      hdone hrange hpreds hprod write
    have h : LaunchChecked s a t t2 preds prod w shape q0 q1 :=
      ⟨hctx, htx, hidle, hrel, hq0, htx0, hbase, halign, hacc, hmark, hw.trans (leNat_leBytes_dieSees t 128 q0), hdepth, hbad,
        hown, htable, hshape, hdone, hrange, hpreds, hprod⟩
    exact ⟨fun hroom u hclear => ⟨launchForm_room h false hroom hclear, launchForm_room h true hroom hclear⟩,
      fun hfull => ⟨execLaunch_full h hfull, execLaunchTry_full h hfull⟩⟩
  case gexit =>
    intro hidle hrel q code
    have hexit : exec (.gexit a b) s = _ := execGexit_released htx hidle hrel
    refine ⟨fun g hg => hexit.trans ?_, fun hg => hexit.trans ?_⟩
    · rw [show namedGrid (markDirty (releaseState 7 (onward s))) _ = some g from hg]
    · rw [show namedGrid (markDirty (releaseState 7 (onward s))) _ = none from hg]
  case registers =>
    intro hg hn n c q
    exact ⟨execVgrow_le hg htx hn,
      fun hlt hteam => ⟨fun hfree hfirst => execVgrow_fits hg htx hn hlt hteam hfree hfirst,
        fun hnone => execVgrow_waits hg htx hn hlt hteam hnone⟩,
      execVshrink_le hg htx hn, fun hlt hover hidle => ⟨_, execVshrink_gt hg htx hn hlt hover hidle, rfl⟩⟩
  case ready =>
    intro h g hg hrun t readied
    refine ⟨execGridReady_ready hg hrun, fun hany hfail hlock => ⟨_, execGridReady_cancel hg hrun hany hfail hlock, ?_, ?_⟩⟩
    · intro ho x hx
      obtain ⟨⟨y, hy, hyx⟩, -⟩ := mem_cancelGrid hx
      exact hyx ▸ handle_ne_of_mem_writeDone ho hy
    · intro x hx
      obtain ⟨-, hstop⟩ := mem_cancelGrid hx
      exact hstop

end Sys2Proof
